-- ==== Sys2Proof/Word.lean ====
section
/-!
DEFINITION. Word.lean: the word types of the machine. Registers are 32 bits wide (spec 24, Picture), memory is held byte by
byte, and everything the spec adds, shifts or masks across fields is a bit vector.
-/
namespace Sys2Proof

/-- A register dword (spec 24: "Registers are 32 bits wide"). -/
abbrev Word := BitVec 32
/-- One byte of any addressed memory. -/
abbrev Byte := BitVec 8
/-- A pair marked "64" (R954). -/
abbrev DWord := BitVec 64

end Sys2Proof
end

