-- ==== Sys2Proof/Syntax.lean ====
section
/-!
DEFINITION. Syntax.lean: the commands. One constructor of `Instr` per row of spec/opcode_table.json, with what the row's
event carries from outside the die as its operands (log entry 1): the unit it concerns, the packet or slot that arrived,
the access and its requester class, or a measured quantity.
-/
namespace Sys2Proof

/-- The requester classes of a register access (R955): BAR0 is `host`, a mailbox command `mbox`, MRD and MWR `mgmt`. -/
inductive Cls where
  | steward | host | mbox | mgmt
  deriving DecidableEq, Repr

/-- A packet: the fields of the header flit (table Header flit, R301) and the payload bytes. `rsvd` holds whether some
reserved bit of the header is set. -/
structure Packet where
  op : BitVec 8
  cls : BitVec 2
  mgmt : Bool
  d : Bool
  mark : Bool
  prio : BitVec 3
  tid : BitVec 8
  seid : BitVec 17
  deid : BitVec 17
  len : BitVec 13
  lsn : BitVec 16
  msgid : BitVec 16
  pktidx : BitVec 20
  first : Bool
  last : Bool
  path : BitVec 4
  hopcnt : BitVec 8
  epoch : BitVec 8
  fseq : BitVec 32
  group : BitVec 12
  chunk : BitVec 32
  cid : BitVec 16
  addr : BitVec 64
  arg : BitVec 64
  hcrc : BitVec 32
  floor : BitVec 32
  crc64 : BitVec 64
  rsvd : Bool
  payload : List Byte
  deriving DecidableEq, Repr

/-- A message of the message channel (table Message types, R216; CSYNC and NULL are unsequenced, R217). -/
inductive Msg where
  | null
  | hello (frag : BitVec 4) (data : BitVec 32)
  | lcmd (cmd : BitVec 4) (arg : BitVec 16)
  | csync (vcp : BitVec 2) (sentA sentB : BitVec 15)
  | accept (first : BitVec 16) (count : BitVec 6)
  | refuse (lsn : BitVec 16) (reason : BitVec 4)
  | dlvd (base : BitVec 16) (mask : BitVec 20)
  | rtnd (lsn : BitVec 16) (reason : BitVec 3)
  | taken (first : BitVec 16) (count : BitVec 6)
  | reserved (type : BitVec 4) (body : BitVec 36)
  deriving DecidableEq, Repr

/-- The 46-bit slot of logical lane 2 (R212). -/
inductive Slot where
  | credit (vcp : BitVec 2) (retA retB : BitVec 15)
  | rennet (pos : BitVec 12) (tick : BitVec 16)
  deriving DecidableEq, Repr

/-- The units that can be run down (R89, R94). -/
inductive UnitId where
  | die
  | port (p : BitVec 6)
  | vat (v : BitVec 5)
  | group (g : BitVec 12)
  deriving DecidableEq, Repr

/-- The pages whose PAGE_CTL controls something (table Page controls, R945). -/
inductive CtlPage where
  | chip
  | tick
  | port (p : BitVec 6)
  | vat (v : BitVec 5)
  deriving DecidableEq, Repr

/-- The reset domains of the table Reset domains (R906); a cold die or node reset is CHIP_RST's. -/
inductive Domain where
  | port (p : BitVec 6)
  | vat (v : BitVec 5)
  | steward
  | host
  | die
  deriving DecidableEq, Repr

/-- The causes of the table Overrun causes (R85). -/
inductive OvrCause where
  | refresh | retrans | reexec | tree | carry
  deriving DecidableEq, Repr

/-- A stage found incomplete at a tick edge (R78): its group and the cause of its lateness. -/
structure Late where
  group : BitVec 12
  cause : OvrCause
  deriving DecidableEq, Repr

/-- What the die finds at a tick edge and no earlier command carried in: the stages that are late (R78), the packages that report a refresh rate (R885: controller, package, code),
the plan slots in which an uncorrectable plan-memory word was met (R736), the steps still running (R509), and the cycles of the closing
tick that the stall counters count (R922, R923): kind 0 port or 1 vat, instance, counter index, cycles. -/
structure EdgeIn where
  late : List Late
  rates : List (BitVec 4 × BitVec 1 × BitVec 2)
  planEcc : List (BitVec 4)
  running : List (BitVec 5)
  stalls : List (BitVec 1 × BitVec 6 × BitVec 6 × BitVec 17)
  deriving DecidableEq, Repr

/-- One lane of a received port superframe: its 516 symbols as received, the crossing-FIFO fill (R184) and how many
superframes it trails the earliest lane (R179). -/
structure RxLane where
  syms : List (BitVec 10)
  fill : BitVec 4
  depth : BitVec 4
  deriving DecidableEq, Repr

/-- A received port superframe: the four physical lanes and the receive-path latency in cycles (R187). -/
structure RxFrame where
  l0 : RxLane
  l1 : RxLane
  l2 : RxLane
  l3 : RxLane
  lat : BitVec 12
  deriving DecidableEq, Repr

/-- What a vat step meets in the memories it reads: corrected and uncorrectable scratchpad words (R566, R567), a corrected and an
uncorrectable recipe word (R507), corrected and uncorrectable handle entries (R577), a residue that disagrees (R517), corrected and
uncorrectable cave lines (R888, R889), and the controllers at which it waited for refresh (R886). -/
structure StepFind where
  spadCe : List (BitVec 18)
  spadUe : Option (BitVec 18)
  rcpCe : Bool
  rcpUe : Bool
  hdlCe : BitVec 8
  hdlUe : Bool
  residue : Bool
  caveCe : List (BitVec 34)
  caveUe : List (BitVec 34)
  refDelay : List (BitVec 4)
  deriving DecidableEq, Repr

/-- An ALLOC's arguments (R451): size in bytes, the tenant or MGMT to charge, and the owner IDs. -/
structure HoopReq where
  size : BitVec 32
  tid : BitVec 8
  mgmt : Bool
  owners : List (BitVec 16)
  deriving DecidableEq, Repr

/-- An access to the node space (R139): requester class, whether the acting master forwarded it here (R140; it keeps its class, R955), requester
ID of a host request (R831), node address, and the bytes with their enables: `none` is a byte not enabled; a read uses the enables only. -/
structure Access where
  cls : Cls
  fwd : Bool
  rid : BitVec 16
  addr : BitVec 28
  bytes : List (Option Byte)
  deriving DecidableEq, Repr

/-- A transaction that Kesil originates on the controller port (R967): an EEPROM read, a VOUT_COMMAND write of a setpoint code, or the
three sensor reads of R1028. -/
inductive SmbJob where
  | eeprom (ofs : BitVec 16) (n : BitVec 9)
  | vout (code : BitVec 8)
  | sensors
  deriving DecidableEq, Repr

/-- How a transaction ends: whole with what it read, arbitration lost at a place (R970), or NACKed (R973). -/
inductive SmbEnd where
  | ok (data : List Byte)
  | lost (byte : BitVec 8) (bit : BitVec 3) (ack : Bool)
  | nak
  deriving DecidableEq, Repr

/-- JTAG instructions (R806, R984). -/
inductive JtagIr where
  | bypass | idcode | sample | extest | extestPulse | extestTrain | other
  deriving DecidableEq, Repr

/-- What a boot finds outside the die (R994 to R1007): slots whose flash read fails and slots whose signature verifies (bit 0 slot A or the
image of BOOT_SRC = 1, bit 1 slot B), whether Gnotik starts, the board tables as read (`none`: not complete within the deadline of
R978), and the cave controllers that train. -/
structure BootIn where
  readBad : BitVec 2
  sigOk : BitVec 2
  gnotik : Bool
  header : Option (List Byte)
  wiring : Option (List Byte)
  eq : Option (List Byte)
  train : BitVec 10
  deriving DecidableEq, Repr

/-- What another die of the node contributes to the fingerprint: its die block, and the block with the shifted hashes (R750, R752). -/
structure FpBlock where
  die : BitVec 2
  block : List Byte
  shifted : List Byte
  deriving DecidableEq, Repr

/-- The commands and events of the block, one per row of spec/opcode_table.json. Each docstring names the row and its rule. -/
inductive Instr where
  /-- TICK_EDGE (R68) -/
  | tickEdge (e : EdgeIn)
  /-- SLOW (R83) -/
  | slow (g : BitVec 12)
  /-- TICK_CFG_LEN_WRITE (R66) -/
  | tickCfgLenWrite (c : Cls) (w : Word)
  /-- RUNDOWN_REQUEST (R89) -/
  | rundownRequest (c : Cls) (u : UnitId)
  /-- RUNDOWN_IDLE (R94) -/
  | rundownIdle (u : UnitId)
  /-- RUNDOWN_BOUND_END (R95) -/
  | rundownBoundEnd (u : UnitId)
  /-- RUNDOWN_CLEAR (R96) -/
  | rundownClear (c : Cls) (u : UnitId)
  /-- PAGE_RESET_REQUEST (R98) -/
  | pageResetRequest (c : Cls) (pg : CtlPage)
  /-- RESET_TAKES_EFFECT (R906) -/
  | resetTakesEffect (dm : Domain)
  /-- PAGE_FENCE_REQUEST (R914) -/
  | pageFenceRequest (c : Cls) (pg : CtlPage)
  /-- PAGE_UNFENCE (R916) -/
  | pageUnfence (c : Cls) (pg : CtlPage)
  /-- PAGE_ENABLE_WRITE (R946) -/
  | pageEnableWrite (c : Cls) (pg : CtlPage) (on : Bool)
  /-- PAGE_LOCK_WRITE (R950) -/
  | pageLockWrite (c : Cls) (page : BitVec 10)
  /-- ROLE_ATTR_WRITE (R109) -/
  | roleAttrWrite (c : Cls) (idx : Fin 12) (w : Word)
  /-- HELLO_RX (R255) -/
  | helloRx (p : BitVec 6) (frag : BitVec 4) (data : BitVec 32)
  /-- CASC_FORM_WINDOW_END (R131) -/
  | cascFormWindowEnd (gap : Bool)
  /-- ACTING_MASTER_FORM (R133) -/
  | actingMasterForm
  /-- HBEAT_RX (R148) -/
  | hbeatRx (p : BitVec 6) (die : BitVec 2)
  /-- MASTER_TAKEOVER (R148) -/
  | masterTakeover
  /-- CASC_ISOLATED (R149) -/
  | cascIsolated
  /-- FWD_READ_COMPLETE (R142) -/
  | fwdReadComplete (tag : BitVec 16) (epoch : BitVec 8) (data : List Byte) (busy : Option (BitVec 10))
  /-- CASC_FWD_LOST (R143) -/
  | cascFwdLost (tag : BitVec 16)
  /-- CASC_DIE_LOST (R904) -/
  | cascDieLost (die : BitVec 2)
  /-- CDR_LOCK (R182) -/
  | cdrLock (p : BitVec 6) (lane : BitVec 2)
  /-- BL_LOCK (R169) -/
  | blLock (p : BitVec 6) (lane : BitVec 2)
  /-- BL_LOCK_LOSS (R169) -/
  | blLockLoss (p : BitVec 6) (lane : BitVec 2) (bad : BitVec 6)
  /-- SUPERFRAME_RX (R167) -/
  | superframeRx (p : BitVec 6) (f : RxFrame)
  /-- SF_LOCK (R172) -/
  | sfLock (p : BitVec 6) (lane : BitVec 2) (ofs : Fin 20)
  /-- SF_LOCK_LOSS (R173) -/
  | sfLockLoss (p : BitVec 6) (lane : BitVec 2)
  /-- HINT_POL (R174) -/
  | hintPol (p : BitVec 6) (lane : BitVec 2)
  /-- DESKEW_RETRY (R179) -/
  | deskewRetry (p : BitVec 6) (d0 d1 d2 d3 : BitVec 4) (lat : BitVec 12)
  /-- LINK_DOWN (R197) -/
  | linkDown (p : BitVec 6)
  /-- REHUNT (R198) -/
  | rehunt (c : Cls) (p : BitVec 6)
  /-- CREDIT_SLOT_RX (R227) -/
  | creditSlotRx (p : BitVec 6) (vcp : BitVec 2) (retA retB : BitVec 15) (mack mlast : BitVec 6)
  /-- RENNET_RX (R282) -/
  | rennetRx (p : BitVec 6) (pos : BitVec 12) (tick : BitVec 16) (mack mlast : BitVec 6) (arr : BitVec 23)
  /-- CSYNC_RX (R231) -/
  | csyncRx (p : BitVec 6) (vcp : BitVec 2) (sentA sentB : BitVec 15)
  /-- CSYNC_PERIODIC (R230) -/
  | csyncPeriodic (p : BitVec 6)
  /-- CSYNC_REQ (R230) -/
  | csyncReq (p : BitVec 6)
  /-- PS_REQ (R246) -/
  | psReq (p : BitVec 6) (tgt : BitVec 2)
  /-- PS_ACK (R247) -/
  | psAck (p : BitVec 6) (tgt : BitVec 2)
  /-- PS_NAK (R246) -/
  | psNak (p : BitVec 6) (reason : BitVec 4)
  /-- WAKE (R249) -/
  | wake (p : BitVec 6)
  /-- RX_SETTLED (R242) -/
  | rxSettled (p : BitVec 6) (lsn : BitVec 16)
  /-- TAKEN (R388) -/
  | taken (p : BitVec 6) (first : BitVec 16) (count : BitVec 6)
  /-- MSG_REPLAY (R220) -/
  | msgReplay (p : BitVec 6)
  /-- LINK_ACTIVE (R243) -/
  | linkActive (p : BitVec 6)
  /-- PSCTL_WRITE (R245) -/
  | psctlWrite (c : Cls) (p : BitVec 6) (w : Word)
  /-- PS_ENTER (R247) -/
  | psEnter (p : BitVec 6)
  /-- SIGNAL_DETECT (R250) -/
  | signalDetect (p : BitVec 6)
  /-- PORT_WAKE (R251) -/
  | portWake (p : BitVec 6)
  /-- HELLO_PERIODIC (R257) -/
  | helloPeriodic (p : BitVec 6)
  /-- ROOT_ELECTION (R263) -/
  | rootElection
  /-- CANDIDACY_PASS (R264) -/
  | candidacyPass
  /-- WALK_TIMEOUT (R270) -/
  | walkTimeout (dim : Fin 3)
  /-- DISC_RETRY (R275) -/
  | discRetry
  /-- DISC_LEAVE (R300) -/
  | discLeave
  /-- DISC_REMEASURE (R283) -/
  | discRemeasure (c : Cls)
  /-- FLOCK (R281) -/
  | flock
  /-- LATENCY_MEASURED (R283) -/
  | latencyMeasured (p : BitVec 6)
  /-- JOIN_ALIGN (R284) -/
  | joinAlign
  /-- HOLDOVER (R287) -/
  | holdover
  /-- REPARENT (R289) -/
  | reparent
  /-- HOLDOVER_EXPIRE (R291) -/
  | holdoverExpire
  /-- OUT_REJOIN (R292) -/
  | outRejoin
  /-- ROOT_FAILOVER (R294) -/
  | rootFailover
  /-- LEFT (R300) -/
  | left
  /-- TRANSIT_HEAD_RX (R325) -/
  | transitHeadRx (p : BitVec 6) (pk : Packet)
  /-- NCRED_RX (R322) -/
  | ncredRx (p : BitVec 6) (totals : List (BitVec 6 × BitVec 3 × BitVec 16))
  /-- RNFWD_RX (R280) -/
  | rnfwdRx (p : BitVec 6) (tick : BitVec 16) (arr : BitVec 23)
  /-- MRD (R960) -/
  | mrd (pk : Packet)
  /-- MWR (R960) -/
  | mwr (pk : Packet)
  /-- DROP_PACKET_RX (R346) -/
  | dropPacketRx (p : BitVec 6) (v : BitVec 3) (pk : Packet) (poisoned beyond : BitVec 7)
  /-- PACKET_ACCEPT (R351) -/
  | packetAccept (p : BitVec 6) (v : BitVec 3) (found : Option (List Byte))
  /-- E2E_COPY_RX (R368) -/
  | e2eCopyRx (pk : Packet)
  /-- E2E_DLVD_RX (R377) -/
  | e2eDlvdRx (pk : Packet)
  /-- E2E_NAK_RX (R381) -/
  | e2eNakRx (pk : Packet)
  /-- E2E_RTND_RX (R377) -/
  | e2eRtndRx (pk : Packet)
  /-- ATTEMPT_TIMEOUT (R380) -/
  | attemptTimeout (p : BitVec 6) (i : BitVec 12) (bad : BitVec 2)
  /-- RETRANSMIT (R382) -/
  | retransmit (p : BitVec 6) (i : BitVec 12)
  /-- PROBE (R384) -/
  | probe (p : BitVec 6) (i : BitVec 12)
  /-- GIVE_UP (R383) -/
  | giveUp (p : BitVec 6) (i : BitVec 12)
  /-- GAP_SETTLE (R374) -/
  | gapSettle (f : BitVec 16)
  /-- EGRESS_TIMEOUT (R390) -/
  | egressTimeout (f : BitVec 16)
  /-- DEST_FLOW_RELEASE (R371) -/
  | destFlowRelease (f : BitVec 16)
  /-- SOURCE_FLOW_RELEASE (R371) -/
  | sourceFlowRelease (f : BitVec 16)
  /-- COPY_LIFETIME_DROP (R373) -/
  | copyLifetimeDrop (p : BitVec 6) (v : BitVec 3)
  /-- ITEM_EGRESS (R369) -/
  | itemEgress (f : BitVec 16)
  /-- DEID_INVALID_SETTLE (R387) -/
  | deidInvalidSettle (p : BitVec 6) (i : BitVec 12)
  /-- FLOW_DUE (R414) -/
  | flowDue (f : BitVec 16)
  /-- OUTPUT_GRANT (R428) -/
  | outputGrant (p : BitVec 6) (v : BitVec 3)
  /-- ECHO_RX (R407) -/
  | echoRx (pk : Packet)
  /-- WITHHOLD_END (R421) -/
  | withholdEnd (p : BitVec 6)
  /-- HOOP_ALLOC (R456) -/
  | hoopAlloc (r : HoopReq) (found : Option (List Byte))
  /-- HOOP_RELEASE (R467) -/
  | hoopRelease (h : BitVec 32) (o : BitVec 16) (found : Option (List Byte)) (recBad : Bool)
  /-- HOOP_FREE (R468) -/
  | hoopFree (h : BitVec 32) (o : BitVec 16) (found : Option (List Byte)) (recBad : Bool)
  /-- HOOP_REBUILD (R477) -/
  | hoopRebuild (c : Cls) (w : Word)
  /-- REBUILT (R477) -/
  | rebuilt (pool : BitVec 2)
  /-- CELL_ZEROED (R791) -/
  | cellZeroed (pool : BitVec 2)
  /-- LOAD_TILE (R508) -/
  | loadTile (v : BitVec 5) (q : BitVec 4) (x : StepFind)
  /-- EXP_SCAN (R1060) -/
  | expScan (v : BitVec 5) (q : BitVec 4) (x : StepFind)
  /-- REDUCE (R491) -/
  | reduce (v : BitVec 5) (q : BitVec 4) (x : StepFind)
  /-- SCALE (R497) -/
  | scale (v : BitVec 5) (q : BitVec 4) (x : StepFind)
  /-- COMBINE (R698) -/
  | combine (v : BitVec 5) (q : BitVec 4) (x : StepFind)
  /-- MERGE_SOFTMAX (R682) -/
  | mergeSoftmax (v : BitVec 5) (q : BitVec 4) (x : StepFind)
  /-- SAMPLE_GUMBEL (R693) -/
  | sampleGumbel (v : BitVec 5) (q : BitVec 4) (x : StepFind)
  /-- TOPK (R696) -/
  | topk (v : BitVec 5) (q : BitVec 4) (x : StepFind)
  /-- QUANT (R701) -/
  | quant (v : BitVec 5) (q : BitVec 4) (x : StepFind)
  /-- DEQUANT (R702) -/
  | dequant (v : BitVec 5) (q : BitVec 4) (x : StepFind)
  /-- CAST (R546) -/
  | cast (v : BitVec 5) (q : BitVec 4) (x : StepFind)
  /-- CLAMP (R551) -/
  | clamp (v : BitVec 5) (q : BitVec 4) (x : StepFind)
  /-- MASK_DROP (R704) -/
  | maskDrop (v : BitVec 5) (q : BitVec 4) (x : StepFind)
  /-- FILL_RANDOM (R604) -/
  | fillRandom (v : BitVec 5) (q : BitVec 4) (x : StepFind)
  /-- STORE_TILE (R508) -/
  | storeTile (v : BitVec 5) (q : BitVec 4) (x : StepFind)
  /-- EMIT (R643) -/
  | emit (v : BitVec 5) (q : BitVec 4) (x : StepFind)
  /-- VAT_WATCHDOG (R517) -/
  | vatWatchdog (v : BitVec 5) (q : BitVec 4)
  /-- VAT_FENCE (R518) -/
  | vatFence
  /-- VAT_INJECT_RESIDUE (R517) -/
  | vatInjectResidue (c : Cls) (v : BitVec 5)
  /-- VAT_INJECT_RECIPE (R517) -/
  | vatInjectRecipe (c : Cls) (v : BitVec 5)
  /-- BRINE_VISIT (R569) -/
  | brineVisit (v : BitVec 5) (found : BitVec 2)
  /-- BRINE_LATE (R576) -/
  | brineLate (v : BitVec 5)
  /-- SPAD_WRITEBACK (R566) -/
  | spadWriteback (v : BitVec 5)
  /-- WIPE_DONE (R589) -/
  | wipeDone (v : BitVec 5)
  /-- VAT_WIPE_ALL (R587) -/
  | vatWipeAll (c : Cls) (v : BitVec 5)
  /-- RNG_PROBE_SEED (R596) -/
  | rngProbeSeed (c : Cls) (w : Word)
  /-- RNG_PROBE_LEAP (R593) -/
  | rngProbeLeap (c : Cls) (w : Word)
  /-- QUEUE_SLOT_WRITE (R619) -/
  | queueSlotWrite (bar2 : Bool) (rid : BitVec 16) (ofs : BitVec 29) (bytes : List (Option Byte))
  /-- SQ_DOORBELL (R618) -/
  | sqDoorbell (c : Cls) (g : BitVec 12) (tail : BitVec 9)
  /-- CQ_DOORBELL (R623) -/
  | cqDoorbell (c : Cls) (g : BitVec 12) (head : BitVec 9)
  /-- DESC_ADMIT (R620) -/
  | descAdmit (g : BitVec 12)
  /-- QUEUE_UNDERFILL (R621) -/
  | queueUnderfill (g : BitVec 12)
  /-- COMPLETION_WRITE (R622) -/
  | completionWrite (g : BitVec 12)
  /-- CCTL_DESC (R627) -/
  | cctlDesc (p : BitVec 7) (i : BitVec 12) (pk : Packet) (ans : Option Bool)
  /-- CCTL_SQ_DB (R627) -/
  | cctlSqDb (p : BitVec 7) (i : BitVec 12) (pk : Packet) (ans : Option Bool)
  /-- CCTL_CQ_DB (R627) -/
  | cctlCqDb (p : BitVec 7) (i : BitVec 12) (pk : Packet) (ans : Option Bool)
  /-- CCTL_CMD (R657) -/
  | cctlCmd (p : BitVec 7) (i : BitVec 12) (pk : Packet) (ans : Option Bool)
  /-- CQ_RECORD_RESEND (R628) -/
  | cqRecordResend (g : BitVec 12)
  /-- START (R635) -/
  | start (pk : Packet)
  /-- START_ACK (R632) -/
  | startAck (pk : Packet)
  /-- CHUNK_ADMIT (R633) -/
  | chunkAdmit (g : BitVec 12)
  /-- COLL_MEMBER_LATE (R637) -/
  | collMemberLate (g : BitVec 12)
  /-- PARTIAL_RX (R642) -/
  | partialRx (p : BitVec 7) (pk : Packet)
  /-- DONE (R645) -/
  | done (pk : Packet)
  /-- FIN (R646) -/
  | fin (pk : Packet)
  /-- DONE_FIN_REPEAT (R645) -/
  | doneFinRepeat (g : BitVec 12) (c : BitVec 32)
  /-- CMD_FWD (R658) -/
  | cmdFwd (pk : Packet)
  /-- GROUP_STOP (R658) -/
  | groupStop (c : Cls) (g : BitVec 12)
  /-- GROUP_ABORT (R660) -/
  | groupAbort (c : Cls) (g : BitVec 12)
  /-- GROUP_RESUME (R657) -/
  | groupResume (c : Cls) (g : BitVec 12)
  /-- PLAN_LOAD (R728) -/
  | planLoad (c : Cls) (w : Word)
  /-- PLAN_VALIDATED (R730) -/
  | planValidated
  /-- PLAN_UNLOAD (R734) -/
  | planUnload (c : Cls) (w : Word)
  /-- PLAN_ACTIVATE (R731) -/
  | planActivate
  /-- FP_PUBLISH (R755) -/
  | fpPublish (others : List FpBlock) (mirror : Option (BitVec 64 × BitVec 64 × BitVec 16))
  /-- RECORD_ENABLE (R762) -/
  | recordEnable (c : Cls) (w : Word)
  /-- RECORD_DISABLE (R765) -/
  | recordDisable (c : Cls) (w : Word)
  /-- RECORD_STOPPED (R765) -/
  | recordStopped
  /-- GAP_ENTRY (R761) -/
  | gapEntry
  /-- REPLAY_ENABLE (R768) -/
  | replayEnable (c : Cls) (w : Word)
  /-- REPLAY_INJECT (R767) -/
  | replayInject
  /-- REPLAY_LATE (R770) -/
  | replayLate
  /-- REPLAY_DISABLE (R774) -/
  | replayDisable (c : Cls) (w : Word)
  /-- REPLAY_END (R774) -/
  | replayEnd
  /-- CMP_CLEAR (R772) -/
  | cmpClear (c : Cls)
  /-- TENANT_ADMIT (R776) -/
  | tenantAdmit (c : Cls) (t : BitVec 8) (w : Word)
  /-- TENANT_EN_CLEAR (R781) -/
  | tenantEnClear (c : Cls) (t : BitVec 8) (w : Word)
  /-- TENANT_KILL (R786) -/
  | tenantKill (c : Cls) (t : BitVec 8) (w : Word)
  /-- KILL_EDGE (R789) -/
  | killEdge (t : BitVec 8)
  /-- TENANT_WIPE (R790) -/
  | tenantWipe (t : BitVec 8)
  /-- TAG_SWEEP_DONE (R877) -/
  | tagSweepDone
  /-- TENANT_FREE (R792) -/
  | tenantFree (t : BitVec 8)
  /-- DEBUG_UNLOCK (R807) -/
  | debugUnlock (c : Cls) (sigOk : Bool)
  /-- DEBUG_LOCK (R808) -/
  | debugLock (c : Cls)
  /-- DBG_NONCE_READ (R807) -/
  | dbgNonceRead (c : Cls)
  /-- SVN_COMMIT (R800) -/
  | svnCommit (c : Cls)
  /-- REVOKE (R800) -/
  | revoke (c : Cls) (slot : BitVec 2)
  /-- GET_VERSION (R802) -/
  | getVersion (mctp : Bool)
  /-- GET_CAPABILITIES (R802) -/
  | getCapabilities (mctp : Bool)
  /-- NEGOTIATE_ALGORITHMS (R803) -/
  | negotiateAlgorithms (mctp : Bool)
  /-- GET_DIGESTS (R803) -/
  | getDigests (mctp : Bool)
  /-- GET_CERTIFICATE (R803) -/
  | getCertificate (mctp : Bool) (slot : BitVec 4) (ofs len : BitVec 16)
  /-- CHALLENGE (R802) -/
  | challenge (mctp : Bool) (slot : BitVec 4) (nonce : List Byte)
  /-- GET_MEASUREMENTS (R805) -/
  | getMeasurements (mctp : Bool) (op : BitVec 8) (sign : Bool) (nonce : List Byte) (others : List (BitVec 8 × List Byte))
  /-- SPDM_UNSUPPORTED (R802) -/
  | spdmUnsupported (mctp : Bool) (code : BitVec 8)
  /-- HOST_RESET (R815) -/
  | hostReset (flr : Bool)
  /-- HOST_LINK_UP (R811) -/
  | hostLinkUp (speed : BitVec 3) (width : BitVec 5) (cxl : Bool)
  /-- HOST_LINK_LOSS (R815) -/
  | hostLinkLoss
  /-- CAVE_WINDOW_ACCESS (R819) -/
  | caveWindowAccess (rid : BitVec 16) (ofs : BitVec 34) (write : Bool) (bytes : List (Option Byte)) (ce ue : List (BitVec 34))
  /-- DMA_SQ_DOORBELL (R836) -/
  | dmaSqDoorbell (c : Cls) (q : BitVec 2) (tail : BitVec 9)
  /-- DMA_CQ_DOORBELL (R836) -/
  | dmaCqDoorbell (c : Cls) (q : BitVec 2) (head : BitVec 9)
  /-- H2C (R839) -/
  | h2c (q : BitVec 2) (data : List Byte) (err : Bool)
  /-- C2H (R839) -/
  | c2h (q : BitVec 2) (n : BitVec 31) (ce ue : List (BitVec 34))
  /-- DMA_FENCE (R850) -/
  | dmaFence (q : BitVec 2)
  /-- DMA_NOP (R836) -/
  | dmaNop (q : BitVec 2)
  /-- DMA_COMPLETE (R838) -/
  | dmaComplete (q : BitVec 2)
  /-- DMA_QUEUE_DISABLE (R836) -/
  | dmaQueueDisable (c : Cls) (q : BitVec 2)
  /-- MBOX_DOORBELL (R842) -/
  | mboxDoorbell (c : Cls) (i : BitVec 6)
  /-- MBOX_UNDERFILL (R842) -/
  | mboxUnderfill (i : BitVec 6)
  /-- MBOX_NOP (R845) -/
  | mboxNop (i : BitVec 6)
  /-- MBOX_RREAD (R846) -/
  | mboxRread (i : BitVec 6) (far : Option (BitVec 4 × List Byte))
  /-- MBOX_RWRITE (R846) -/
  | mboxRwrite (i : BitVec 6) (far : Option (BitVec 4))
  /-- MBOX_CREAD (R846) -/
  | mboxCread (i : BitVec 6) (ce ue : List (BitVec 34)) (far : Option (BitVec 4 × List Byte))
  /-- MBOX_CWRITE (R846) -/
  | mboxCwrite (i : BitVec 6) (ue : List (BitVec 34)) (far : Option (BitVec 4))
  /-- MBOX_FENCE (R850) -/
  | mboxFence (i : BitVec 6)
  /-- MBOX_SQDB (R846) -/
  | mboxSqdb (i : BitVec 6) (far : Option (BitVec 4))
  /-- MBOX_CQDB (R846) -/
  | mboxCqdb (i : BitVec 6) (far : Option (BitVec 4))
  /-- MSIX_GAP_END (R856) -/
  | msixGapEnd (v : BitVec 8)
  /-- MSIX_UNMASK (R855) -/
  | msixUnmask (v : Option (BitVec 8)) (on : Bool)
  /-- PMCSR_WRITE (R859) -/
  | pmcsrWrite (state : BitVec 2)
  /-- D0_ENTERED (R860) -/
  | d0Entered
  /-- CAVE_REFRESH (R884) -/
  | caveRefresh (ctl : BitVec 4) (extra : Bool)
  /-- CAVE_FAIL (R891) -/
  | caveFail (ctl : BitVec 4)
  /-- CAVE_SHARE_WRITE (R882) -/
  | caveShareWrite (c : Cls) (reg : BitVec 1) (w : Word)
  /-- ERR_HEAD_READ (R894) -/
  | errHeadRead (c : Cls) (page : BitVec 10)
  /-- POP (R894) -/
  | pop (c : Cls) (page : BitVec 10)
  /-- REWIND (R902) -/
  | rewind (c : Cls) (page : BitVec 10)
  /-- CLRCNT (R897) -/
  | clrcnt (c : Cls) (page : BitVec 10)
  /-- KICK (R902) -/
  | kick (c : Cls)
  /-- STEWARD_WDOG (R902) -/
  | stewardWdog
  /-- STW_RESET (R906) -/
  | stwReset (c : Cls) (ok : Bool)
  /-- RETRY (R912) -/
  | retry (pk : Packet)
  /-- REQUEST_REISSUE (R913) -/
  | requestReissue
  /-- TELEM_ENABLE (R931) -/
  | telemEnable (c : Cls) (w : Word)
  /-- TELEM_CAPTURE (R933) -/
  | telemCapture
  /-- TELEM_RECORD_WRITTEN (R935) -/
  | telemRecordWritten (ok : Bool)
  /-- TELEM_DISABLE (R939) -/
  | telemDisable (c : Cls) (w : Word)
  /-- REGISTER_WRITE (R951) -/
  | registerWrite (a : Access)
  /-- RC_READ (R24) -/
  | rcRead (a : Access)
  /-- PAIR_LOW_READ (R955) -/
  | pairLowRead (a : Access)
  /-- BULK_WINDOW_ACCESS (R961) -/
  | bulkWindowAccess (a : Access) (write : Bool) (ce ue : List (BitVec 18))
  /-- MCTP (R975) -/
  | mctp (data : List Byte)
  /-- RADDR (R975) -/
  | raddr (a : Word)
  /-- SMB_RREAD (R976) -/
  | smbRread
  /-- SMB_RWRITE (R976) -/
  | smbRwrite (w : Word)
  /-- SMB_TRANSACTION (R967) -/
  | smbTransaction (j : SmbJob) (e : SmbEnd)
  /-- SMB_BACKOFF_END (R972) -/
  | smbBackoffEnd
  /-- SMB_SCL_TIMEOUT (R973) -/
  | smbSclTimeout
  /-- TABLE_READ_DEADLINE (R978) -/
  | tableReadDeadline (table : BitVec 2)
  /-- ERASE (R983) -/
  | erase (c : Cls)
  /-- PROGRAM (R983) -/
  | program (c : Cls)
  /-- FLASH_READ (R983) -/
  | flashRead (c : Cls)
  /-- FL_DONE (R983) -/
  | flDone (err : Bool)
  /-- JTAG_IR_UPDATE (R985) -/
  | jtagIrUpdate (ir : JtagIr)
  /-- JTAG_RESET (R985) -/
  | jtagReset (trst : Bool)
  /-- GPIO_FUNC_WRITE (R992) -/
  | gpioFuncWrite (c : Cls) (reg : BitVec 1) (w : Word)
  /-- GPIO_EDGE (R989) -/
  | gpioEdge (n : BitVec 4) (level : Bool)
  /-- CHIP_RST (R988) -/
  | chipRst (low : Bool) (straps : BitVec 7)
  /-- BOOT_START (R993) -/
  | bootStart (b : BootIn)
  /-- HOST_READY (R1013) -/
  | hostReady (locked caves : BitVec 4)
  /-- BROWNOUT (R1024) -/
  | brownout (ends : Bool)
  /-- AVS_PERIOD (R1027) -/
  | avsPeriod (margin : BitVec 8) (stayed : Bool)
  /-- PMBUS_POLL (R1028) -/
  | pmbusPoll (vout iout : BitVec 12) (temp : BitVec 8)
  /-- QUIET_REQUEST (R1043) -/
  | quietRequest (c : Cls)
  /-- RUN_REQUEST (R1044) -/
  | runRequest (c : Cls)
  /-- QUIET_LEAVE_DONE (R1044) -/
  | quietLeaveDone
  /-- TJ_SAMPLE (R1046) -/
  | tjSample (temps : List (BitVec 8))
  /-- THERM_ASSERT (R1048) -/
  | thermAssert (on : Bool)
  /-- SUPERFRAME_TX (R424) -/
  | superframeTx (p : BitVec 6) (ofs : BitVec 16) (edge : Option (BitVec 12))
  /-- CDR_LOCK_LOSS (R287) -/
  | cdrLockLoss (p : BitVec 6) (lane : BitVec 2)
  /-- CMD_FWD_ACK (R657) -/
  | cmdFwdAck (pk : Packet)
  /-- HOST_LINK_DOWN (R815) -/
  | hostLinkDown
  /-- SMB_TARGET_UNKNOWN_COMMAND (R975) -/
  | smbTargetUnknownCommand (code : BitVec 8) (badPec : Bool)
  /-- PMBUS_ABANDON (R1029) -/
  | pmbusAbandon
  /-- VAT_CLOCK_GATE (R482) -/
  | vatClockGate (v : BitVec 5) (u : BitVec 2) (cycles : BitVec 32)
  deriving DecidableEq, Repr

end Sys2Proof
end

