-- ==== Sys2Proof/Machine/Fec.lean ====
section
/-!
DEFINITION. Machine/Fec.lean: the arithmetic of a lane's superframe: the field GF(2^10), the RS(516,496) code with its
bounded-distance decoder, and the self-synchronous scrambler (spec 04, R158 to R167).
-/
namespace Sys2Proof.Machine

/-- Multiplication by α in GF(2^10) on x^10 + x^3 + 1 (R165). -/
def gfDouble (a : Nat) : Nat := if 2 * a < 1024 then 2 * a else (2 * a) ^^^ 0x409

/-- Shift-and-add multiplication: `n` bits of `b`, lowest first. -/
def gfMulBits : Nat → Nat → Nat → Nat
  | 0, _, _ => 0
  | n + 1, a, b => (if b % 2 = 1 then a else 0) ^^^ gfMulBits n (gfDouble a) (b / 2)

/-- The product in GF(2^10). -/
def gfMul (a b : Nat) : Nat := gfMulBits 10 a b

/-- `a` to the power `e`, with `n` bits of `e`. -/
def gfPowBits : Nat → Nat → Nat → Nat
  | 0, _, _ => 1
  | n + 1, a, e => gfMul (if e % 2 = 1 then a else 1) (gfPowBits n (gfMul a a) (e / 2))

/-- `a ^ e` in GF(2^10), for e below 1,024. -/
def gfPow (a e : Nat) : Nat := gfPowBits 10 a e

/-- α to the power `e`: the multiplicative order of α is 1,023. -/
def gfAlpha (e : Nat) : Nat := gfPow 2 (e % 1023)

/-- The inverse of a non-zero element. -/
def gfInv (a : Nat) : Nat := gfPow a 1022

/-- The value of a polynomial, highest coefficient first (R166). -/
def gfHorner (cs : List Nat) (x : Nat) : Nat := cs.foldl (fun s c => gfMul s x ^^^ c) 0

/-- The value of a polynomial, lowest coefficient first. -/
def gfEval : List Nat → Nat → Nat
  | [], _ => 0
  | c :: r, x => c ^^^ gfMul x (gfEval r x)

/-- The 20 syndromes of a received word (R166, R167). -/
def rsSyndromes (cs : List Nat) : List Nat := (List.range 20).map (fun i => gfHorner cs (gfAlpha i))

/-- The generator g(x) = (x − α^0) … (x − α^19), lowest coefficient first (R166). -/
def rsGenerator : List Nat :=
  (List.range 20).foldl (fun g i =>
    (List.range (g.length + 1)).map (fun k =>
      (if k = 0 then 0 else g.getD (k - 1) 0) ^^^ gfMul (gfAlpha i) (g.getD k 0))) [1]

/-- One step of the division by g: the remainder register, highest first, takes the next message symbol. -/
def rsShift (g : List Nat) (reg : List Nat) (m : Nat) : List Nat :=
  let f := m ^^^ reg.headD 0
  (List.range 20).map (fun k => reg.getD (k + 1) 0 ^^^ gfMul f (g.getD (19 - k) 0))

/-- The 20 parity symbols of 496 message symbols: m(x)·x^20 mod g(x) (R166). -/
def rsParity (ms : List Nat) : List Nat :=
  ms.foldl (rsShift rsGenerator) (List.replicate 20 0)

/-- Polynomial sum, lowest coefficient first. -/
def gfAdd : List Nat → List Nat → List Nat
  | [], q => q
  | p, [] => p
  | a :: p, b :: q => (a ^^^ b) :: gfAdd p q

/-- The state of the Berlekamp-Massey iteration: Λ, B, L, m, b. -/
structure BmSt where
  c : List Nat
  b : List Nat
  l : Nat
  m : Nat
  lastD : Nat

/-- One iteration on syndrome number `r`. -/
def bmStep (syn : List Nat) (s : BmSt) (r : Nat) : BmSt :=
  let dlt := (List.range (s.l + 1)).foldl (fun x i => x ^^^ gfMul (s.c.getD i 0) (if i ≤ r then syn.getD (r - i) 0 else 0)) 0
  if dlt = 0 then { s with m := s.m + 1 }
  else
    let k := gfMul dlt (gfInv s.lastD)
    let c' := gfAdd s.c (List.replicate s.m 0 ++ s.b.map (gfMul k))
    if 2 * s.l ≤ r then { c := c', b := s.c, l := r + 1 - s.l, m := 1, lastD := dlt }
    else { s with c := c', m := s.m + 1 }

/-- The error locator of a syndrome list. -/
def bmLocator (syn : List Nat) : BmSt :=
  (List.range 20).foldl (bmStep syn) { c := [1], b := [1], l := 0, m := 1, lastD := 1 }

/-- Error positions and values by root search and Forney's formula. -/
def rsErrors (syn : List Nat) : List (Nat × Nat) × Nat :=
  let bm := bmLocator syn
  let omega := (List.range 20).map (fun k =>
    (List.range (k + 1)).foldl (fun x i => x ^^^ gfMul (bm.c.getD i 0) (syn.getD (k - i) 0)) 0)
  let deriv := (List.range bm.c.length).map (fun k => if k % 2 = 0 then bm.c.getD (k + 1) 0 else 0)
  ((List.range 516).filterMap (fun j =>
    let xi := gfAlpha (1023 - (515 - j) % 1023)
    if gfEval bm.c xi = 0 then
      some (j, gfMul (gfAlpha (515 - j)) (gfMul (gfEval omega xi) (gfInv (gfEval deriv xi))))
    else none), bm.l)

/-- What the decoder answers: the corrected word and how many symbols it corrected, or that the word is uncorrectable (R167). -/
def rsDecode (cs : List Nat) : Option (List Nat × Nat) :=
  let syn := rsSyndromes cs
  if syn.all (· == 0) then some (cs, 0)
  else
    let (errs, l) := rsErrors syn
    if errs.length ≠ l ∨ 10 < l then none
    else
      let cs' := errs.foldl (fun c e => c.set e.1 (c.getD e.1 0 ^^^ e.2)) cs
      if (rsSyndromes cs').all (· == 0) then some (cs', l) else none

/-- The ten bits of a symbol, s[10j] first, which is the coefficient of degree 9 (R165). -/
def symBits (c : Nat) : List Bool := (List.range 10).map (fun i => c / 2 ^ (9 - i) % 2 == 1)

/-- The symbol that ten bits spell. -/
def bitsSym (bs : List Bool) : Nat := bs.foldl (fun n b => 2 * n + b.toNat) 0

/-- The descrambler: in[n] = rx[n] XOR rx[n−39] XOR rx[n−58]; bit k of the history is rx[n−1−k] (R162). -/
def descramble : BitVec 58 → List Bool → List Bool × BitVec 58
  | h, [] => ([], h)
  | h, b :: r =>
    let (o, h') := descramble (h.shiftConcat b) r
    ((b ^^ h.getLsbD 38 ^^ h.getLsbD 57) :: o, h')

/-- The scrambler: out[n] = in[n] XOR out[n−39] XOR out[n−58] (R162). -/
def scramble : BitVec 58 → List Bool → List Bool × BitVec 58
  | h, [] => ([], h)
  | h, b :: r =>
    let x := b ^^ h.getLsbD 38 ^^ h.getLsbD 57
    let (o, h') := scramble (h.shiftConcat x) r
    (x :: o, h')

/-- Blocks of a superframe's 5,160 bits: 20 blocks of 258 (R154). -/
def sfBlock (s : List Bool) (b : Nat) : List Bool := (s.drop (258 * b)).take 258

/-- The scrambled stream of a corrected superframe: the payloads of blocks 1 to 19, then the 56 supervisory bits (R161). -/
def sfStream (s : List Bool) : List Bool :=
  (List.range 19).flatMap (fun b => (sfBlock s b).drop 2) ++ ((sfBlock s 19).drop 2).take 56

/-- Invalid headers among the 20 of a superframe in superframe lock, as received (R158, R170). -/
def sfBadHdrs (s : List Bool) : Nat :=
  (List.range 20).foldl (fun n b =>
    n + (if (sfBlock s b).take 2 = (if b = 19 then [true, false] else [false, true]) then 0 else 1)) 0

/-- The number that bits spell, lowest first. -/
def bitsNat : List Bool → Nat
  | [] => 0
  | b :: r => b.toNat + 2 * bitsNat r

/-- The low `n` bits of a number, lowest first. -/
def natBits (n v : Nat) : List Bool := (List.range n).map (fun i => v / 2 ^ i % 2 == 1)

/-- One lane's superframe for transmission: 19 block payloads (4,864 bits) and 56 supervisory bits, scrambled, with headers
and parity, as 516 symbols, and the scrambler's history after it (R158 to R163, R166). -/
def sfEncode (h : BitVec 58) (data sup : List Bool) : List Nat × BitVec 58 :=
  let (x, h') := scramble h (data ++ sup)
  let blocks := (List.range 19).flatMap (fun b => [false, true] ++ (x.drop (256 * b)).take 256)
  let bits := blocks ++ [true, false] ++ (x.drop 4864).take 56
  let ms := (List.range 496).map (fun j => bitsSym ((bits.drop (10 * j)).take 10))
  (ms ++ rsParity ms, h')

end Sys2Proof.Machine
end

