-- ==== Sys2Proof/Machine/SMap.lean ====
section
/-!
DEFINITION. Machine/SMap.lean: sparse tables as plain data. A table is a list of (key, value) pairs in one canonical form:
keys strictly rising, and no listed value equal to what an unlisted key reads as. Writing that default removes the entry,
so equal tables are equal data. Every memory, register file and indexed table of the model is one of these.
-/
namespace Sys2Proof.Machine

/-- A sparse table from naturals to `β`. -/
abbrev SMap (β : Type) := List (Nat × β)

/-- What the table holds at `k`; `d` is what an unlisted key reads as. -/
def smapGet {β : Type} (d : β) : SMap β → Nat → β
  | [], _ => d
  | (i, v) :: rest, k => if i = k then v else smapGet d rest k

/-- The table with `k` no longer listed. -/
def smapErase {β : Type} : SMap β → Nat → SMap β
  | [], _ => []
  | (i, v) :: rest, k => if i = k then smapErase rest k else (i, v) :: smapErase rest k

/-- The table with `v` listed at `k`. -/
def smapPut {β : Type} : SMap β → Nat → β → SMap β
  | [], k, v => [(k, v)]
  | (i, w) :: rest, k, v =>
    if i = k then (k, v) :: rest
    else if k < i then (k, v) :: (i, w) :: rest
    else (i, w) :: smapPut rest k v

/-- A write: the default is never listed. -/
def smapSet {β : Type} [DecidableEq β] (d : β) (m : SMap β) (k : Nat) (v : β) : SMap β :=
  if v = d then smapErase m k else smapPut m k v

/-- A write of `f` of the old value. -/
def smapMod {β : Type} [DecidableEq β] (d : β) (m : SMap β) (k : Nat) (f : β → β) : SMap β :=
  smapSet d m k (f (smapGet d m k))

/-- `x` joins a list before the first element that `le` puts at or after it. -/
def insertLe {β : Type} (le : β → β → Bool) (x : β) : List β → List β
  | [] => [x]
  | y :: r => if le x y then x :: y :: r else y :: insertLe le x r

/-- A list in the order of `le`; elements that `le` does not tell apart keep their order. -/
def sortLe {β : Type} (le : β → β → Bool) : List β → List β
  | [] => []
  | x :: r => insertLe le x (sortLe le r)

/-- The keys rise strictly, each above `lo`. -/
def smapRising {β : Type} : Option Nat → SMap β → Bool
  | _, [] => true
  | none, (i, _) :: rest => smapRising (some i) rest
  | some lo, (i, _) :: rest => decide (lo < i) && smapRising (some i) rest

/-- The canonical form: keys strictly rising and no default listed. -/
def smapWf {β : Type} [DecidableEq β] (d : β) (m : SMap β) : Bool :=
  smapRising none m && m.all (fun p => p.2 != d)

end Sys2Proof.Machine
end

