-- ==== Sys2Proof/Machine/Regs.lean ====
section
/-!
DEFINITION. Machine/Regs.lean: how a register field is described. A page type (table Page map, R942), an access type
(R20 to R25), a field constant with its array spacing, and a located field: a dword address of the die space, the lowest
bit and the width.
-/
namespace Sys2Proof.Machine

/-- The block types of the table Page map (R942); `hdr` stands for the common page header. -/
inductive PageType where
  | hdr | chip | tick | disc | casc | errlog | gpio | smb | pwr | sec | telem | det | hoop | harp | plan | rng
  | port | laneq | vat | ten | cave | host | mbox | dma | coll | rt
  deriving DecidableEq, Repr

/-- The access types of register fields (R20, R22 to R25). -/
inductive Acc where
  | ro | rw | w1c | rc | wo | rwl | rws | rwsRwl | rwsW1c
  deriving DecidableEq, Repr

/-- A named field of a page type: offset of its first register, how many registers and their spacing, lowest bit, width,
how many copies within a register and their spacing, access type and cold-reset value (R21). -/
structure Fld where
  page : PageType
  off : Nat
  n : Nat
  step : Nat
  lsb : Nat
  width : Nat
  fn : Nat
  fstep : Nat
  acc : Acc
  reset : Nat
  deriving DecidableEq, Repr

/-- One field of one register of the die: its dword's byte address in die space, lowest bit and width. -/
structure Loc where
  addr : Nat
  lsb : Nat
  width : Nat
  deriving DecidableEq, Repr

/-- An interrupt cause: a page type and a bit of its PAGE_IRQ_STAT (R966). -/
structure Irq where
  page : PageType
  bit : Nat
  deriving DecidableEq, Repr

/-- The page index of instance `i` of a page type (table Page map, R942). -/
def pageIndex : PageType → Nat → Nat
  | .hdr, i => i
  | .chip, _ => 0x000
  | .tick, _ => 0x001
  | .disc, _ => 0x002
  | .casc, _ => 0x003
  | .errlog, _ => 0x004
  | .gpio, _ => 0x005
  | .smb, _ => 0x006
  | .pwr, _ => 0x007
  | .sec, _ => 0x008
  | .telem, _ => 0x009
  | .det, _ => 0x00A
  | .hoop, _ => 0x00B
  | .harp, _ => 0x00C
  | .plan, _ => 0x00D
  | .rng, _ => 0x00E
  | .port, i => 0x010 + i
  | .laneq, i => 0x050 + i
  | .vat, i => 0x0A0 + i
  | .ten, i => 0x0C0 + i
  | .cave, i => 0x100 + i
  | .host, _ => 0x110
  | .mbox, _ => 0x111
  | .dma, _ => 0x112
  | .coll, i => 0x120 + i
  | .rt, i => 0x200 + i

/-- The block at a page index, with its instance; `none` for an unimplemented page (R942, R943). -/
def pageAt (idx : Nat) : Option (PageType × Nat) :=
  if idx ≤ 0x00E then
    some ((match idx with
      | 0 => PageType.chip | 1 => .tick | 2 => .disc | 3 => .casc | 4 => .errlog | 5 => .gpio | 6 => .smb | 7 => .pwr
      | 8 => .sec | 9 => .telem | 10 => .det | 11 => .hoop | 12 => .harp | 13 => .plan | _ => .rng), 0)
  else if 0x010 ≤ idx ∧ idx ≤ 0x04F then some (.port, idx - 0x010)
  else if 0x050 ≤ idx ∧ idx ≤ 0x08F then some (.laneq, idx - 0x050)
  else if 0x0A0 ≤ idx ∧ idx ≤ 0x0BF then some (.vat, idx - 0x0A0)
  else if 0x0C0 ≤ idx ∧ idx ≤ 0x0FF then some (.ten, idx - 0x0C0)
  else if 0x100 ≤ idx ∧ idx ≤ 0x109 then some (.cave, idx - 0x100)
  else if idx = 0x110 then some (.host, 0)
  else if idx = 0x111 then some (.mbox, 0)
  else if idx = 0x112 then some (.dma, 0)
  else if 0x120 ≤ idx ∧ idx ≤ 0x12F then some (.coll, idx - 0x120)
  else if 0x200 ≤ idx ∧ idx ≤ 0x3FF then some (.rt, idx - 0x200)
  else none

/-- The PAGE_ID type code of a block (table Page map). -/
def pageTypeCode : PageType → Nat
  | .hdr => 0
  | .chip => 0x01 | .tick => 0x02 | .disc => 0x03 | .casc => 0x04 | .errlog => 0x05 | .gpio => 0x06 | .smb => 0x07
  | .pwr => 0x08 | .sec => 0x09 | .telem => 0x0A | .det => 0x0B | .hoop => 0x0C | .harp => 0x0D | .plan => 0x0E
  | .rng => 0x0F | .port => 0x10 | .laneq => 0x11 | .vat => 0x12 | .ten => 0x13 | .cave => 0x14 | .host => 0x15
  | .mbox => 0x16 | .dma => 0x17 | .coll => 0x18 | .rt => 0x19

/-- The field's copy `j` in register `i` of its array, in the page of instance `inst`. -/
def Fld.loc (f : Fld) (inst : Nat := 0) (i : Nat := 0) (j : Nat := 0) : Loc :=
  ⟨0x1000 * pageIndex f.page inst + f.off + f.step * i, f.lsb + f.fstep * j, f.width⟩

/-- Does the field have a copy in the dword at offset `o` of its page? -/
def Fld.covers (f : Fld) (o : Nat) : Bool :=
  decide (f.off ≤ o) && (o - f.off) % f.step == 0 && decide ((o - f.off) / f.step < f.n)

/-- The located copies of a field in the dword at die-space address `a`, given the offset `o` in the page. -/
def Fld.locsAt (f : Fld) (a o : Nat) : List (Fld × Loc) :=
  if f.covers o then (List.range f.fn).map (fun j => (f, ⟨a, f.lsb + f.fstep * j, f.width⟩)) else []

/-- The bits `[lsb + width - 1 : lsb]` of a dword, as a number. -/
def fieldGet (w : Word) (lsb width : Nat) : Nat := w.toNat / 2 ^ lsb % 2 ^ width

/-- The dword with bits `[lsb + width - 1 : lsb]` replaced by the low `width` bits of `v`. -/
def fieldSet (w : Word) (lsb width v : Nat) : Word :=
  BitVec.ofNat 32 (w.toNat - fieldGet w lsb width * 2 ^ lsb + v % 2 ^ width * 2 ^ lsb)

end Sys2Proof.Machine
end

