-- ==== Sys2Proof/Machine/RegTable.lean ====
section
/-!
DEFINITION. Machine/RegTable.lean: every named register field of the spec, one constant each, laid out as the register
tables of the chapters give it (offset in the page, array count and spacing, lowest bit, width, access type, cold-reset
value), and the list of them for each page type. Reserved bits have no constant: they read 0 and ignore writes (R18, R956).
A reset entry "strap" or "—" stands here as 0; what such a field reads is computed in Machine/View.lean (R21, log entry 2).
-/
namespace Sys2Proof.Machine
namespace R

/-! HDR fields -/
def hdrErrHeadDword : Fld := ⟨.hdr, 0x10, 1, 4, 0, 32, 1, 0, .ro, 0⟩
def hdrErrPopPop : Fld := ⟨.hdr, 0x14, 1, 4, 0, 1, 1, 0, .wo, 0⟩
def hdrErrPopRewind : Fld := ⟨.hdr, 0x14, 1, 4, 1, 1, 1, 0, .wo, 0⟩
def hdrErrPopClrcnt : Fld := ⟨.hdr, 0x14, 1, 4, 2, 1, 1, 0, .wo, 0⟩
def hdrErrCntDepth : Fld := ⟨.hdr, 0x18, 1, 4, 0, 4, 1, 0, .ro, 0⟩
def hdrErrCntHeadsev : Fld := ⟨.hdr, 0x18, 1, 4, 4, 2, 1, 0, .ro, 0⟩
def hdrErrCntStall : Fld := ⟨.hdr, 0x18, 1, 4, 6, 1, 1, 0, .ro, 0⟩
def hdrErrCntDropped : Fld := ⟨.hdr, 0x18, 1, 4, 8, 8, 1, 0, .ro, 0⟩
def hdrErrCntPend : Fld := ⟨.hdr, 0x18, 1, 4, 16, 11, 1, 0, .ro, 0⟩
def hdrEpoch : Fld := ⟨.hdr, 0x24, 1, 4, 0, 8, 1, 0, .rws, 0⟩
def hdrIdInstance : Fld := ⟨.hdr, 0x0, 1, 4, 0, 16, 1, 0, .ro, 0⟩
def hdrIdType : Fld := ⟨.hdr, 0x0, 1, 4, 16, 16, 1, 0, .ro, 0⟩
def hdrRevMinor : Fld := ⟨.hdr, 0x4, 1, 4, 0, 8, 1, 0, .ro, 0⟩
def hdrRevMajor : Fld := ⟨.hdr, 0x4, 1, 4, 8, 8, 1, 0, .ro, 1⟩
def hdrCtlEnable : Fld := ⟨.hdr, 0x8, 1, 4, 0, 1, 1, 0, .rw, 1⟩
def hdrCtlReset : Fld := ⟨.hdr, 0x8, 1, 4, 1, 1, 1, 0, .wo, 0⟩
def hdrCtlFence : Fld := ⟨.hdr, 0x8, 1, 4, 2, 1, 1, 0, .rw, 0⟩
def hdrCtlRundown : Fld := ⟨.hdr, 0x8, 1, 4, 3, 1, 1, 0, .rw, 0⟩
def hdrStatState : Fld := ⟨.hdr, 0xc, 1, 4, 0, 2, 1, 0, .ro, 0⟩
def hdrStatFenced : Fld := ⟨.hdr, 0xc, 1, 4, 2, 1, 1, 0, .ro, 0⟩
def hdrStatReset : Fld := ⟨.hdr, 0xc, 1, 4, 3, 1, 1, 0, .ro, 0⟩
def hdrStatGated : Fld := ⟨.hdr, 0xc, 1, 4, 4, 1, 1, 0, .ro, 0⟩
def hdrStatAccessErr : Fld := ⟨.hdr, 0xc, 1, 4, 8, 1, 1, 0, .w1c, 0⟩
def hdrOwnerTid : Fld := ⟨.hdr, 0x28, 1, 4, 0, 8, 1, 0, .ro, 0⟩
def hdrOwnerMgmt : Fld := ⟨.hdr, 0x28, 1, 4, 8, 1, 1, 0, .ro, 1⟩
def hdrLock : Fld := ⟨.hdr, 0x2c, 1, 4, 0, 1, 1, 0, .rwl, 0⟩

/-! CHIP fields -/
def chipIdentForm : Fld := ⟨.chip, 0x40, 1, 4, 0, 4, 1, 0, .ro, 0⟩
def chipIdentStep : Fld := ⟨.chip, 0x40, 1, 4, 4, 8, 1, 0, .ro, 0x11⟩
def chipIdentPart : Fld := ⟨.chip, 0x40, 1, 4, 16, 16, 1, 0, .ro, 0x960⟩
def chipStrapCascPos : Fld := ⟨.chip, 0x44, 1, 4, 0, 2, 1, 0, .ro, 0⟩
def chipStrapBootSrc : Fld := ⟨.chip, 0x44, 1, 4, 2, 1, 1, 0, .ro, 0⟩
def chipStrapSmbAddr : Fld := ⟨.chip, 0x44, 1, 4, 3, 3, 1, 0, .ro, 0⟩
def chipStrapTestMode : Fld := ⟨.chip, 0x44, 1, 4, 6, 1, 1, 0, .ro, 0⟩
def chipSerialLo : Fld := ⟨.chip, 0x48, 1, 4, 0, 32, 1, 0, .ro, 0⟩
def chipSerialHi : Fld := ⟨.chip, 0x4c, 1, 4, 0, 32, 1, 0, .ro, 0⟩
def chipFenceVats : Fld := ⟨.chip, 0x50, 1, 4, 0, 32, 1, 0, .ro, 0⟩
def chipFencePortsLo : Fld := ⟨.chip, 0x54, 1, 4, 0, 32, 1, 0, .ro, 0⟩
def chipFencePortsHi : Fld := ⟨.chip, 0x58, 1, 4, 0, 32, 1, 0, .ro, 0⟩
def chipFenceDies : Fld := ⟨.chip, 0x5c, 1, 4, 0, 4, 1, 0, .ro, 0⟩
def chipAccKind : Fld := ⟨.chip, 0x60, 1, 4, 0, 4, 1, 0, .ro, 0⟩
def chipAccClass : Fld := ⟨.chip, 0x60, 1, 4, 4, 2, 1, 0, .ro, 0⟩
def chipAccWrite : Fld := ⟨.chip, 0x60, 1, 4, 6, 1, 1, 0, .ro, 0⟩
def chipAccValid : Fld := ⟨.chip, 0x60, 1, 4, 8, 1, 1, 0, .w1c, 0⟩
def chipAccAddrAddr : Fld := ⟨.chip, 0x64, 1, 4, 0, 26, 1, 0, .ro, 0⟩
def chipAccCntCount : Fld := ⟨.chip, 0x68, 1, 4, 0, 32, 1, 0, .rc, 0⟩
def chipSpdSelVat : Fld := ⟨.chip, 0x6c, 1, 4, 0, 5, 1, 0, .rw, 0⟩
def chipScratchData : Fld := ⟨.chip, 0x70, 4, 4, 0, 32, 1, 0, .rws, 0⟩

/-! TICK fields -/
def tickCfgLen : Fld := ⟨.tick, 0x40, 1, 4, 0, 3, 1, 0, .rwl, 2⟩
def tickStatState : Fld := ⟨.tick, 0x44, 1, 4, 0, 3, 1, 0, .ro, 0⟩
def tickStatDepth : Fld := ⟨.tick, 0x44, 1, 4, 8, 7, 1, 0, .ro, 0⟩
def tickCountLo : Fld := ⟨.tick, 0x48, 1, 4, 0, 32, 1, 0, .ro, 0⟩
def tickCountHi : Fld := ⟨.tick, 0x4c, 1, 4, 0, 16, 1, 0, .ro, 0⟩
def tickCycleCyc : Fld := ⟨.tick, 0x50, 1, 4, 0, 15, 1, 0, .ro, 0⟩
def tickOvrTotalTotal : Fld := ⟨.tick, 0x54, 1, 4, 0, 32, 1, 0, .rc, 0⟩
def tickOvrLastTickLo : Fld := ⟨.tick, 0x58, 1, 4, 0, 32, 1, 0, .ro, 0⟩
def tickOvrLastTickHi : Fld := ⟨.tick, 0x5c, 1, 4, 0, 16, 1, 0, .ro, 0⟩
def tickOvrLastCause : Fld := ⟨.tick, 0x5c, 1, 4, 16, 4, 1, 0, .ro, 0⟩
def tickOvrWhoGroup : Fld := ⟨.tick, 0x60, 1, 4, 0, 12, 1, 0, .ro, 0⟩
def tickOvrWhoTid : Fld := ⟨.tick, 0x60, 1, 4, 16, 8, 1, 0, .ro, 0⟩
def tickOvrCauseCount : Fld := ⟨.tick, 0x64, 5, 4, 0, 32, 1, 0, .rc, 0⟩
def tickSlowCntSlow : Fld := ⟨.tick, 0x78, 1, 4, 0, 16, 1, 0, .rc, 0⟩
def tickOutEn : Fld := ⟨.tick, 0x7c, 1, 4, 0, 1, 1, 0, .rw, 0⟩
def tickOutWidth : Fld := ⟨.tick, 0x7c, 1, 4, 8, 8, 1, 0, .rw, 8⟩
def tickRdStatActive : Fld := ⟨.tick, 0x80, 1, 4, 0, 1, 1, 0, .ro, 0⟩
def tickRdStatDone : Fld := ⟨.tick, 0x80, 1, 4, 1, 1, 1, 0, .ro, 0⟩
def tickRdStatLeft : Fld := ⟨.tick, 0x80, 1, 4, 8, 7, 1, 0, .ro, 0⟩

/-! DISC fields -/
def discCfgElig : Fld := ⟨.disc, 0x40, 1, 4, 0, 1, 1, 0, .rwl, 0⟩
def discCtlRetry : Fld := ⟨.disc, 0x44, 1, 4, 0, 1, 1, 0, .wo, 0⟩
def discCtlLeave : Fld := ⟨.disc, 0x44, 1, 4, 1, 1, 1, 0, .rw, 0⟩
def discCtlRemeasure : Fld := ⟨.disc, 0x44, 1, 4, 2, 1, 1, 0, .wo, 0⟩
def discStatPhase : Fld := ⟨.disc, 0x48, 1, 4, 0, 4, 1, 0, .ro, 0⟩
def discStatCause : Fld := ⟨.disc, 0x48, 1, 4, 4, 4, 1, 0, .ro, 0⟩
def discStatCport : Fld := ⟨.disc, 0x48, 1, 4, 8, 6, 1, 0, .ro, 0⟩
def discStatCdie : Fld := ⟨.disc, 0x48, 1, 4, 14, 2, 1, 0, .ro, 0⟩
def discStatHops : Fld := ⟨.disc, 0x48, 1, 4, 16, 4, 1, 0, .ro, 0xf⟩
def discStatIsroot : Fld := ⟨.disc, 0x48, 1, 4, 20, 1, 1, 0, .ro, 0⟩
def discStatIsstby : Fld := ⟨.disc, 0x48, 1, 4, 21, 1, 1, 0, .ro, 0⟩
def discStatRootGen : Fld := ⟨.disc, 0x48, 1, 4, 22, 8, 1, 0, .ro, 0⟩
def discCoordXyz : Fld := ⟨.disc, 0x4c, 1, 4, 0, 9, 1, 0, .ro, 0⟩
def discCoordValid : Fld := ⟨.disc, 0x4c, 1, 4, 9, 1, 1, 0, .ro, 0⟩
def discCoordSizes : Fld := ⟨.disc, 0x4c, 1, 4, 10, 12, 1, 0, .ro, 0⟩
def discParentPort : Fld := ⟨.disc, 0x50, 1, 4, 0, 6, 1, 0, .ro, 0⟩
def discParentDie : Fld := ⟨.disc, 0x50, 1, 4, 6, 2, 1, 0, .ro, 0⟩
def discParentDir : Fld := ⟨.disc, 0x50, 1, 4, 8, 3, 1, 0, .ro, 7⟩
def discParentValid : Fld := ⟨.disc, 0x50, 1, 4, 11, 1, 1, 0, .ro, 0⟩
def discParentRelay : Fld := ⟨.disc, 0x50, 1, 4, 12, 1, 1, 0, .ro, 0⟩
def discRootLo : Fld := ⟨.disc, 0x54, 1, 4, 0, 32, 1, 0, .ro, 0⟩
def discRootHi : Fld := ⟨.disc, 0x58, 1, 4, 0, 32, 1, 0, .ro, 0⟩
def discStbyLo : Fld := ⟨.disc, 0x5c, 1, 4, 0, 32, 1, 0, .ro, 0⟩
def discStbyHi : Fld := ⟨.disc, 0x60, 1, 4, 0, 32, 1, 0, .ro, 0⟩
def discLatselPort : Fld := ⟨.disc, 0x64, 1, 4, 0, 6, 1, 0, .rw, 0⟩
def discLatselDie : Fld := ⟨.disc, 0x64, 1, 4, 6, 2, 1, 0, .rw, 0⟩
def discLatL : Fld := ⟨.disc, 0x68, 1, 4, 0, 23, 1, 0, .ro, 0⟩
def discLatValid : Fld := ⟨.disc, 0x68, 1, 4, 23, 1, 1, 0, .ro, 0⟩
def discOffsetOfs : Fld := ⟨.disc, 0x6c, 1, 4, 0, 16, 1, 0, .ro, 0⟩
def discHoldTicks : Fld := ⟨.disc, 0x70, 1, 4, 0, 9, 1, 0, .ro, 0⟩
def discHoldEntries : Fld := ⟨.disc, 0x70, 1, 4, 16, 16, 1, 0, .rc, 0⟩
def discEvtReparent : Fld := ⟨.disc, 0x74, 1, 4, 0, 16, 1, 0, .rc, 0⟩
def discEvtSkew : Fld := ⟨.disc, 0x74, 1, 4, 16, 16, 1, 0, .rc, 0⟩
def discRnMissMiss : Fld := ⟨.disc, 0x78, 1, 4, 0, 32, 1, 0, .rc, 0⟩

/-! CASC fields -/
def cascCfgDies : Fld := ⟨.casc, 0x40, 1, 4, 0, 2, 1, 0, .rwl, 0⟩
def cascCfgMalive : Fld := ⟨.casc, 0x40, 1, 4, 2, 1, 1, 0, .rwl, 0⟩
def cascStatState : Fld := ⟨.casc, 0x44, 1, 4, 0, 2, 1, 0, .ro, 0⟩
def cascStatPos : Fld := ⟨.casc, 0x44, 1, 4, 2, 2, 1, 0, .ro, 0⟩
def cascStatMaster : Fld := ⟨.casc, 0x44, 1, 4, 4, 2, 1, 0, .ro, 0⟩
def cascStatHasStby : Fld := ⟨.casc, 0x44, 1, 4, 6, 1, 1, 0, .ro, 0⟩
def cascStatStby : Fld := ⟨.casc, 0x44, 1, 4, 8, 2, 1, 0, .ro, 0⟩
def cascStatPresent : Fld := ⟨.casc, 0x44, 1, 4, 12, 4, 1, 0, .ro, 0⟩
def cascStatCause : Fld := ⟨.casc, 0x44, 1, 4, 16, 4, 1, 0, .ro, 0⟩
def cascTopoMode : Fld := ⟨.casc, 0x48, 1, 4, 0, 2, 1, 0, .rwl, 2⟩
def cascTopoDx : Fld := ⟨.casc, 0x48, 1, 4, 4, 4, 1, 0, .rwl, 0⟩
def cascTopoDy : Fld := ⟨.casc, 0x48, 1, 4, 8, 4, 1, 0, .rwl, 0⟩
def cascTopoDz : Fld := ⟨.casc, 0x48, 1, 4, 12, 4, 1, 0, .rwl, 0⟩
def cascRole : Fld := ⟨.casc, 0x4c, 4, 4, 0, 2, 16, 2, .rwl, 0⟩
def cascAttr : Fld := ⟨.casc, 0x5c, 8, 4, 0, 4, 8, 4, .rwl, 0⟩
def cascHbMiss : Fld := ⟨.casc, 0x7c, 1, 4, 0, 5, 1, 0, .ro, 0⟩
def cascHbMaMiss : Fld := ⟨.casc, 0x7c, 1, 4, 8, 5, 1, 0, .ro, 0⟩
def cascHbTakeover : Fld := ⟨.casc, 0x7c, 1, 4, 16, 1, 1, 0, .rwsW1c, 0⟩
def cascHbRank : Fld := ⟨.casc, 0x7c, 1, 4, 17, 2, 1, 0, .ro, 0⟩
def cascErrFwdTimeout : Fld := ⟨.casc, 0x80, 1, 4, 0, 1, 1, 0, .w1c, 0⟩
def cascErrRoleMismatch : Fld := ⟨.casc, 0x80, 1, 4, 1, 1, 1, 0, .w1c, 0⟩
def cascFwdCntCount : Fld := ⟨.casc, 0x84, 1, 4, 0, 32, 1, 0, .rc, 0⟩
def cascSerialLo : Fld := ⟨.casc, 0x88, 1, 4, 0, 32, 1, 0, .ro, 0⟩
def cascSerialHi : Fld := ⟨.casc, 0x8c, 1, 4, 0, 32, 1, 0, .ro, 0⟩

/-! ERRLOG fields -/
def errlogCfgPinSev : Fld := ⟨.errlog, 0x40, 1, 4, 0, 2, 1, 0, .rw, 3⟩
def errlogCfgMirror : Fld := ⟨.errlog, 0x40, 1, 4, 2, 1, 1, 0, .rw, 1⟩
def errlogCfgWdog : Fld := ⟨.errlog, 0x40, 1, 4, 8, 8, 1, 0, .rw, 0xa⟩
def errlogCtlKick : Fld := ⟨.errlog, 0x44, 1, 4, 0, 1, 1, 0, .wo, 0⟩
def errlogCtlStwReset : Fld := ⟨.errlog, 0x44, 1, 4, 1, 1, 1, 0, .wo, 0⟩
def errlogStatUsed : Fld := ⟨.errlog, 0x48, 1, 4, 0, 11, 1, 0, .ro, 0⟩
def errlogStatPend : Fld := ⟨.errlog, 0x48, 1, 4, 16, 11, 1, 0, .ro, 0⟩
def errlogStatPin : Fld := ⟨.errlog, 0x48, 1, 4, 27, 1, 1, 0, .ro, 0⟩
def errlogStatMaxsev : Fld := ⟨.errlog, 0x48, 1, 4, 28, 2, 1, 0, .ro, 0⟩
def errlogNextseqSeq : Fld := ⟨.errlog, 0x4c, 1, 4, 0, 32, 1, 0, .ro, 0⟩
def errlogSelSeq : Fld := ⟨.errlog, 0x50, 1, 4, 0, 32, 1, 0, .rw, 0⟩
def errlogEntDword : Fld := ⟨.errlog, 0x54, 8, 4, 0, 32, 1, 0, .ro, 0⟩
def errlogSelstatFound : Fld := ⟨.errlog, 0x74, 1, 4, 0, 1, 1, 0, .ro, 0⟩
def errlogSelstatPend : Fld := ⟨.errlog, 0x74, 1, 4, 1, 1, 1, 0, .ro, 0⟩
def errlogOverwritten : Fld := ⟨.errlog, 0x78, 1, 4, 0, 32, 1, 0, .rc, 0⟩
def errlogStale : Fld := ⟨.errlog, 0x7c, 1, 4, 0, 32, 1, 0, .rc, 0⟩
def errlogRetry : Fld := ⟨.errlog, 0x80, 1, 4, 0, 32, 1, 0, .rc, 0⟩
def errlogBusyrst : Fld := ⟨.errlog, 0x84, 1, 4, 0, 32, 1, 0, .rc, 0⟩
def errlogWaits : Fld := ⟨.errlog, 0x88, 1, 4, 0, 32, 1, 0, .rc, 0⟩

/-! GPIO fields -/
def gpioFunc : Fld := ⟨.gpio, 0x40, 2, 4, 0, 4, 8, 4, .rw, 0⟩
def gpioOut : Fld := ⟨.gpio, 0x48, 1, 4, 0, 16, 1, 0, .rw, 0⟩
def gpioOe : Fld := ⟨.gpio, 0x4c, 1, 4, 0, 16, 1, 0, .rw, 0⟩
def gpioIn : Fld := ⟨.gpio, 0x50, 1, 4, 0, 16, 1, 0, .ro, 0⟩
def gpioEdge : Fld := ⟨.gpio, 0x54, 1, 4, 0, 2, 16, 2, .rw, 0⟩
def gpioOwnSel : Fld := ⟨.gpio, 0x58, 1, 4, 0, 6, 1, 0, .rw, 0⟩
def gpioOwnOwner : Fld := ⟨.gpio, 0x5c, 1, 4, 0, 4, 1, 0, .ro, 0⟩
def gpioOwnFunc : Fld := ⟨.gpio, 0x5c, 1, 4, 8, 4, 1, 0, .ro, 0⟩
def gpioConfRes : Fld := ⟨.gpio, 0x60, 1, 4, 0, 6, 1, 0, .ro, 0⟩
def gpioConfClaimant : Fld := ⟨.gpio, 0x60, 1, 4, 8, 4, 1, 0, .ro, 0⟩
def gpioConfCnt : Fld := ⟨.gpio, 0x64, 1, 4, 0, 32, 1, 0, .rc, 0⟩

/-! SMB fields -/
def smbTaddr : Fld := ⟨.smb, 0x40, 1, 4, 0, 7, 1, 0, .ro, 0⟩
def smbArbLost : Fld := ⟨.smb, 0x44, 1, 4, 0, 32, 1, 0, .rc, 0⟩
def smbNak : Fld := ⟨.smb, 0x48, 1, 4, 0, 16, 1, 0, .rc, 0⟩
def smbTimeout : Fld := ⟨.smb, 0x48, 1, 4, 16, 16, 1, 0, .rc, 0⟩
def smbTgtXfer : Fld := ⟨.smb, 0x4c, 1, 4, 0, 16, 1, 0, .rc, 0⟩
def smbTgtErr : Fld := ⟨.smb, 0x4c, 1, 4, 16, 16, 1, 0, .rc, 0⟩
def smbLossAddr : Fld := ⟨.smb, 0x50, 1, 4, 0, 7, 1, 0, .ro, 0⟩
def smbLossByte : Fld := ⟨.smb, 0x50, 1, 4, 8, 8, 1, 0, .ro, 0⟩
def smbLossBit : Fld := ⟨.smb, 0x50, 1, 4, 16, 3, 1, 0, .ro, 0⟩
def smbLossAck : Fld := ⟨.smb, 0x50, 1, 4, 19, 1, 1, 0, .ro, 0⟩
def smbBackoff : Fld := ⟨.smb, 0x54, 1, 4, 0, 4, 1, 0, .ro, 0⟩
def smbFlCmd : Fld := ⟨.smb, 0x80, 1, 4, 0, 2, 1, 0, .wo, 0⟩
def smbFlAddr : Fld := ⟨.smb, 0x84, 1, 4, 0, 26, 1, 0, .rw, 0⟩
def smbFlBusy : Fld := ⟨.smb, 0x88, 1, 4, 0, 1, 1, 0, .ro, 0⟩
def smbFlErr : Fld := ⟨.smb, 0x88, 1, 4, 1, 1, 1, 0, .ro, 0⟩
def smbFlBuf : Fld := ⟨.smb, 0x100, 64, 4, 0, 32, 1, 0, .rw, 0⟩

/-! PWR fields -/
def pwrModeReq : Fld := ⟨.pwr, 0x40, 1, 4, 0, 1, 1, 0, .rw, 0⟩
def pwrModeState : Fld := ⟨.pwr, 0x40, 1, 4, 4, 2, 1, 0, .ro, 0⟩
def pwrModeAuto : Fld := ⟨.pwr, 0x40, 1, 4, 8, 1, 1, 0, .rw, 0⟩
def pwrThermCtlWarn : Fld := ⟨.pwr, 0x44, 1, 4, 0, 8, 1, 0, .rw, 0x64⟩
def pwrThermCtlCrit : Fld := ⟨.pwr, 0x44, 1, 4, 8, 8, 1, 0, .rw, 0x6c⟩
def pwrThermCtlPinAct : Fld := ⟨.pwr, 0x44, 1, 4, 16, 2, 1, 0, .rw, 1⟩
def pwrThermCtlCaveAct : Fld := ⟨.pwr, 0x44, 1, 4, 18, 2, 1, 0, .rw, 1⟩
def pwrTjCur : Fld := ⟨.pwr, 0x48, 1, 4, 0, 8, 1, 0, .ro, 0⟩
def pwrTjMax : Fld := ⟨.pwr, 0x48, 1, 4, 8, 8, 1, 0, .rc, 0⟩
def pwrTjHot : Fld := ⟨.pwr, 0x48, 1, 4, 16, 4, 1, 0, .ro, 0⟩
def pwrAvsFloor : Fld := ⟨.pwr, 0x4c, 1, 4, 0, 8, 1, 0, .ro, 0x0a⟩
def pwrAvsSet : Fld := ⟨.pwr, 0x4c, 1, 4, 8, 8, 1, 0, .ro, 0x1e⟩
def pwrAvsEn : Fld := ⟨.pwr, 0x4c, 1, 4, 16, 1, 1, 0, .rwl, 1⟩
def pwrAvsMargin : Fld := ⟨.pwr, 0x4c, 1, 4, 24, 8, 1, 0, .ro, 0⟩
def pwrCoreVout : Fld := ⟨.pwr, 0x50, 1, 4, 0, 12, 1, 0, .ro, 0⟩
def pwrCoreIout : Fld := ⟨.pwr, 0x50, 1, 4, 12, 12, 1, 0, .ro, 0⟩
def pwrCoreTemp : Fld := ⟨.pwr, 0x50, 1, 4, 24, 8, 1, 0, .ro, 0⟩
def pwrCorePMw : Fld := ⟨.pwr, 0x54, 1, 4, 0, 20, 1, 0, .ro, 0⟩
def pwrWakeCauseCause : Fld := ⟨.pwr, 0x58, 1, 4, 0, 5, 1, 0, .w1c, 0⟩
def pwrRstcauseCause : Fld := ⟨.pwr, 0x5c, 1, 4, 0, 3, 1, 0, .ro, 0⟩
def pwrPmbFail : Fld := ⟨.pwr, 0x60, 1, 4, 0, 16, 1, 0, .rc, 0⟩
def pwrPmbWrites : Fld := ⟨.pwr, 0x60, 1, 4, 16, 16, 1, 0, .rc, 0⟩

/-! SEC fields -/
def secBootSlot : Fld := ⟨.sec, 0x40, 1, 4, 0, 1, 1, 0, .ro, 0⟩
def secBootKeyidx : Fld := ⟨.sec, 0x40, 1, 4, 1, 2, 1, 0, .ro, 0⟩
def secBootSvn : Fld := ⟨.sec, 0x40, 1, 4, 3, 6, 1, 0, .ro, 0⟩
def secBootAfail : Fld := ⟨.sec, 0x40, 1, 4, 16, 4, 1, 0, .ro, 0⟩
def secBootBfail : Fld := ⟨.sec, 0x40, 1, 4, 20, 4, 1, 0, .ro, 0⟩
def secFwBuild : Fld := ⟨.sec, 0x44, 4, 4, 0, 32, 1, 0, .ro, 0⟩
def secRomVer : Fld := ⟨.sec, 0x54, 1, 4, 0, 32, 1, 0, .ro, 0⟩
def secDbgUnlock : Fld := ⟨.sec, 0x58, 1, 4, 0, 1, 1, 0, .wo, 0⟩
def secDbgLock : Fld := ⟨.sec, 0x58, 1, 4, 1, 1, 1, 0, .wo, 0⟩
def secDbgState : Fld := ⟨.sec, 0x58, 1, 4, 4, 2, 1, 0, .ro, 0⟩
def secDbgNonceNonceLo : Fld := ⟨.sec, 0x5c, 1, 4, 0, 32, 1, 0, .ro, 0⟩
def secDbgNonceNonceHi : Fld := ⟨.sec, 0x60, 1, 4, 0, 32, 1, 0, .ro, 0⟩
def secMgmtPortsLo : Fld := ⟨.sec, 0x64, 1, 4, 0, 32, 1, 0, .rwl, 0⟩
def secMgmtPortsHi : Fld := ⟨.sec, 0x68, 1, 4, 0, 32, 1, 0, .rwl, 0⟩
def secFuseCmdSvnCommit : Fld := ⟨.sec, 0x6c, 1, 4, 0, 1, 1, 0, .wo, 0⟩
def secFuseCmdRevoke : Fld := ⟨.sec, 0x6c, 1, 4, 1, 1, 1, 0, .wo, 0⟩
def secFuseCmdSlot : Fld := ⟨.sec, 0x6c, 1, 4, 2, 2, 1, 0, .wo, 0⟩
def secFuseStatFsvn : Fld := ⟨.sec, 0x70, 1, 4, 0, 7, 1, 0, .ro, 0⟩
def secFuseStatRevoked : Fld := ⟨.sec, 0x70, 1, 4, 8, 4, 1, 0, .ro, 0⟩
def secSpdmDoeReq : Fld := ⟨.sec, 0x74, 1, 4, 0, 16, 1, 0, .rc, 0⟩
def secSpdmMctpReq : Fld := ⟨.sec, 0x74, 1, 4, 16, 16, 1, 0, .rc, 0⟩
def secDbgTokToken : Fld := ⟨.sec, 0x100, 64, 4, 0, 32, 1, 0, .wo, 0⟩

/-! TELEM fields -/
def telemCtlEn : Fld := ⟨.telem, 0x40, 1, 4, 0, 1, 1, 0, .rw, 0⟩
def telemCtlDest : Fld := ⟨.telem, 0x40, 1, 4, 1, 1, 1, 0, .rw, 0⟩
def telemCtlWrap : Fld := ⟨.telem, 0x40, 1, 4, 2, 1, 1, 0, .rw, 0⟩
def telemCtlSect : Fld := ⟨.telem, 0x40, 1, 4, 3, 4, 1, 0, .rw, 0xf⟩
def telemCtlNm1 : Fld := ⟨.telem, 0x40, 1, 4, 8, 10, 1, 0, .rw, 0⟩
def telemStatState : Fld := ⟨.telem, 0x44, 1, 4, 0, 3, 1, 0, .ro, 0⟩
def telemRingLo : Fld := ⟨.telem, 0x48, 1, 4, 12, 20, 1, 0, .rw, 0⟩
def telemRingHi : Fld := ⟨.telem, 0x4c, 1, 4, 0, 32, 1, 0, .rw, 0⟩
def telemRingLen : Fld := ⟨.telem, 0x50, 1, 4, 0, 16, 1, 0, .rw, 2⟩
def telemTail : Fld := ⟨.telem, 0x54, 1, 4, 0, 16, 1, 0, .ro, 0⟩
def telemHead : Fld := ⟨.telem, 0x58, 1, 4, 0, 16, 1, 0, .rw, 0⟩
def telemSeq : Fld := ⟨.telem, 0x5c, 1, 4, 0, 32, 1, 0, .ro, 0⟩
def telemLost : Fld := ⟨.telem, 0x60, 1, 4, 0, 32, 1, 0, .rc, 0⟩
def telemCselKind : Fld := ⟨.telem, 0x64, 1, 4, 0, 2, 1, 0, .rw, 0⟩
def telemCselInst : Fld := ⟨.telem, 0x64, 1, 4, 8, 6, 1, 0, .rw, 0⟩
def telemCselCnt : Fld := ⟨.telem, 0x64, 1, 4, 16, 6, 1, 0, .rw, 0⟩
def telemCvalLoValLo : Fld := ⟨.telem, 0x68, 1, 4, 0, 32, 1, 0, .ro, 0⟩
def telemCvalHiValHi : Fld := ⟨.telem, 0x6c, 1, 4, 0, 32, 1, 0, .ro, 0⟩
def telemTselTid : Fld := ⟨.telem, 0x70, 1, 4, 0, 8, 1, 0, .rw, 0⟩
def telemTselMgmt : Fld := ⟨.telem, 0x70, 1, 4, 8, 1, 1, 0, .rw, 0⟩
def telemEujLoUjLo : Fld := ⟨.telem, 0x74, 1, 4, 0, 32, 1, 0, .ro, 0⟩
def telemEujHiUjHi : Fld := ⟨.telem, 0x78, 1, 4, 0, 32, 1, 0, .ro, 0⟩
def telemEremFj : Fld := ⟨.telem, 0x7c, 1, 4, 0, 30, 1, 0, .ro, 0⟩
def telemEtabFj : Fld := ⟨.telem, 0x80, 8, 4, 0, 32, 1, 0, .rw, 0⟩
def telemQselPort : Fld := ⟨.telem, 0xa0, 1, 4, 0, 6, 1, 0, .rw, 0⟩
def telemQselVc : Fld := ⟨.telem, 0xa0, 1, 4, 8, 3, 1, 0, .rw, 0⟩
def telemQviewOutprev : Fld := ⟨.telem, 0xa4, 1, 4, 0, 13, 1, 0, .ro, 0⟩
def telemQviewIngprev : Fld := ⟨.telem, 0xa4, 1, 4, 16, 13, 1, 0, .ro, 0⟩

/-! DET fields -/
def detFpLo : Fld := ⟨.det, 0x40, 1, 4, 0, 32, 1, 0, .ro, 0⟩
def detFpHi : Fld := ⟨.det, 0x44, 1, 4, 0, 32, 1, 0, .ro, 0⟩
def detSfpLo : Fld := ⟨.det, 0x48, 1, 4, 0, 32, 1, 0, .ro, 0⟩
def detSfpHi : Fld := ⟨.det, 0x4c, 1, 4, 0, 32, 1, 0, .ro, 0⟩
def detFpTickLo : Fld := ⟨.det, 0x50, 1, 4, 0, 32, 1, 0, .ro, 0⟩
def detFpTickHi : Fld := ⟨.det, 0x54, 1, 4, 0, 16, 1, 0, .ro, 0⟩
def detFpGen : Fld := ⟨.det, 0x58, 1, 4, 0, 16, 1, 0, .ro, 0⟩
def detFpPending : Fld := ⟨.det, 0x58, 1, 4, 16, 1, 1, 0, .ro, 0⟩
def detExcRefresh : Fld := ⟨.det, 0x5c, 1, 4, 0, 32, 1, 0, .rc, 0⟩
def detExcRetrans : Fld := ⟨.det, 0x60, 1, 4, 0, 32, 1, 0, .rc, 0⟩
def detExcLastLo : Fld := ⟨.det, 0x64, 1, 4, 0, 32, 1, 0, .ro, 0⟩
def detExcLastHi : Fld := ⟨.det, 0x68, 1, 4, 0, 16, 1, 0, .ro, 0⟩
def detExcCause : Fld := ⟨.det, 0x68, 1, 4, 16, 4, 1, 0, .ro, 0⟩
def detRecCtlEn : Fld := ⟨.det, 0x70, 1, 4, 0, 1, 1, 0, .rw, 0⟩
def detRecCtlDigest : Fld := ⟨.det, 0x70, 1, 4, 1, 1, 1, 0, .rw, 0⟩
def detRecCtlRing : Fld := ⟨.det, 0x70, 1, 4, 2, 1, 1, 0, .rw, 0⟩
def detRecCtlOutput : Fld := ⟨.det, 0x70, 1, 4, 3, 1, 1, 0, .rw, 0⟩
def detRecCtlHost : Fld := ⟨.det, 0x70, 1, 4, 4, 1, 1, 0, .rw, 0⟩
def detRecCtlOwnerMgmt : Fld := ⟨.det, 0x70, 1, 4, 5, 1, 1, 0, .rw, 0⟩
def detRecCtlOwner : Fld := ⟨.det, 0x70, 1, 4, 8, 8, 1, 0, .rw, 0⟩
def detRecPortsLo : Fld := ⟨.det, 0x74, 1, 4, 0, 32, 1, 0, .rw, 0⟩
def detRecPortsHi : Fld := ⟨.det, 0x78, 1, 4, 0, 32, 1, 0, .rw, 0⟩
def detRecBase : Fld := ⟨.det, 0x7c, 1, 4, 0, 32, 1, 0, .rw, 0⟩
def detRecTids : Fld := ⟨.det, 0x80, 8, 4, 0, 32, 1, 0, .rw, 0⟩
def detRecLen : Fld := ⟨.det, 0xa0, 1, 4, 0, 32, 1, 0, .rw, 0⟩
def detRecState : Fld := ⟨.det, 0xa4, 1, 4, 0, 3, 1, 0, .ro, 0⟩
def detRecCode : Fld := ⟨.det, 0xa4, 1, 4, 4, 3, 1, 0, .ro, 0⟩
def detRecWrapped : Fld := ⟨.det, 0xa4, 1, 4, 7, 1, 1, 0, .ro, 0⟩
def detRecWptr : Fld := ⟨.det, 0xa8, 1, 4, 0, 32, 1, 0, .ro, 0⟩
def detRecEntries : Fld := ⟨.det, 0xac, 1, 4, 0, 32, 1, 0, .rc, 0⟩
def detRecLost : Fld := ⟨.det, 0xb0, 1, 4, 0, 32, 1, 0, .rc, 0⟩
def detRpCtlEn : Fld := ⟨.det, 0xc0, 1, 4, 0, 1, 1, 0, .rw, 0⟩
def detRpCtlInject : Fld := ⟨.det, 0xc0, 1, 4, 1, 1, 1, 0, .rw, 0⟩
def detRpCtlCmp : Fld := ⟨.det, 0xc0, 1, 4, 2, 1, 1, 0, .rw, 0⟩
def detRpCtlTiming : Fld := ⟨.det, 0xc0, 1, 4, 3, 1, 1, 0, .rw, 0⟩
def detRpCtlClr : Fld := ⟨.det, 0xc0, 1, 4, 4, 1, 1, 0, .wo, 0⟩
def detRpDeltaLo : Fld := ⟨.det, 0xc4, 1, 4, 0, 32, 1, 0, .rw, 0⟩
def detRpDeltaHi : Fld := ⟨.det, 0xc8, 1, 4, 0, 16, 1, 0, .rw, 0⟩
def detRpPortsLo : Fld := ⟨.det, 0xcc, 1, 4, 0, 32, 1, 0, .rw, 0⟩
def detRpPortsHi : Fld := ⟨.det, 0xd0, 1, 4, 0, 32, 1, 0, .rw, 0⟩
def detRpBase : Fld := ⟨.det, 0xd4, 1, 4, 0, 32, 1, 0, .rw, 0⟩
def detRpState : Fld := ⟨.det, 0xd8, 1, 4, 0, 2, 1, 0, .ro, 0⟩
def detRpCode : Fld := ⟨.det, 0xd8, 1, 4, 4, 4, 1, 0, .ro, 0⟩
def detRpRptr : Fld := ⟨.det, 0xdc, 1, 4, 0, 32, 1, 0, .ro, 0⟩
def detRpLate : Fld := ⟨.det, 0xe0, 1, 4, 0, 32, 1, 0, .rc, 0⟩
def detCmpBTick : Fld := ⟨.det, 0xe4, 1, 4, 0, 32, 1, 0, .ro, 0⟩
def detCmpBTickh : Fld := ⟨.det, 0xe8, 1, 4, 0, 16, 1, 0, .ro, 0⟩
def detCmpBPort : Fld := ⟨.det, 0xe8, 1, 4, 16, 6, 1, 0, .ro, 0⟩
def detCmpBKind : Fld := ⟨.det, 0xe8, 1, 4, 22, 4, 1, 0, .ro, 0⟩
def detCmpBValid : Fld := ⟨.det, 0xe8, 1, 4, 26, 1, 1, 0, .ro, 0⟩
def detCmpBSeid : Fld := ⟨.det, 0xec, 1, 4, 0, 17, 1, 0, .ro, 0⟩
def detCmpBTid : Fld := ⟨.det, 0xec, 1, 4, 17, 8, 1, 0, .ro, 0⟩
def detCmpBClass : Fld := ⟨.det, 0xec, 1, 4, 25, 2, 1, 0, .ro, 0⟩
def detCmpBDeid : Fld := ⟨.det, 0xf0, 1, 4, 0, 17, 1, 0, .ro, 0⟩
def detCmpBFlit : Fld := ⟨.det, 0xf0, 1, 4, 17, 7, 1, 0, .ro, 0x7f⟩
def detCmpTTick : Fld := ⟨.det, 0xf4, 1, 4, 0, 32, 1, 0, .ro, 0⟩
def detCmpTTickh : Fld := ⟨.det, 0xf8, 1, 4, 0, 16, 1, 0, .ro, 0⟩
def detCmpTPort : Fld := ⟨.det, 0xf8, 1, 4, 16, 6, 1, 0, .ro, 0⟩
def detCmpTKind : Fld := ⟨.det, 0xf8, 1, 4, 22, 4, 1, 0, .ro, 0⟩
def detCmpTValid : Fld := ⟨.det, 0xf8, 1, 4, 26, 1, 1, 0, .ro, 0⟩
def detCmpTExc : Fld := ⟨.det, 0xf8, 1, 4, 27, 1, 1, 0, .ro, 0⟩
def detCmpCnt : Fld := ⟨.det, 0xfc, 1, 4, 0, 32, 1, 0, .ro, 0⟩

/-! HOOP fields -/
def hoopSplitA : Fld := ⟨.hoop, 0x40, 1, 4, 0, 8, 1, 0, .rwsRwl, 0x10⟩
def hoopSplitB : Fld := ⟨.hoop, 0x40, 1, 4, 8, 8, 1, 0, .rwsRwl, 0x20⟩
def hoopSplitC : Fld := ⟨.hoop, 0x40, 1, 4, 16, 8, 1, 0, .rwsRwl, 0x40⟩
def hoopCfgSpill : Fld := ⟨.hoop, 0x44, 1, 4, 0, 3, 1, 0, .rw, 0⟩
def hoopCfgDrsv : Fld := ⟨.hoop, 0x44, 1, 4, 8, 10, 1, 0, .rwsRwl, 4⟩
def hoopPoolSize : Fld := ⟨.hoop, 0x50, 4, 16, 0, 20, 1, 0, .ro, 0⟩
def hoopPoolFree : Fld := ⟨.hoop, 0x54, 4, 16, 0, 20, 1, 0, .ro, 0⟩
def hoopPoolState : Fld := ⟨.hoop, 0x54, 4, 16, 20, 2, 1, 0, .ro, 0⟩
def hoopPoolRsv : Fld := ⟨.hoop, 0x58, 4, 16, 0, 20, 1, 0, .ro, 0⟩
def hoopPoolLowmark : Fld := ⟨.hoop, 0x5c, 4, 16, 0, 20, 1, 0, .rw, 0⟩
def hoopPoolHead : Fld := ⟨.hoop, 0x90, 4, 4, 0, 32, 1, 0, .ro, 0⟩
def hoopMinfreeMin : Fld := ⟨.hoop, 0xa0, 4, 4, 0, 20, 1, 0, .rc, 0xfffff⟩
def hoopQselTid : Fld := ⟨.hoop, 0xb0, 1, 4, 0, 8, 1, 0, .rw, 0⟩
def hoopQuotaLimit : Fld := ⟨.hoop, 0xb4, 4, 4, 0, 20, 1, 0, .rw, 0xfffff⟩
def hoopQuseUsed : Fld := ⟨.hoop, 0xc4, 4, 4, 0, 20, 1, 0, .ro, 0⟩
def hoopCmdOp : Fld := ⟨.hoop, 0xe0, 1, 4, 0, 2, 1, 0, .wo, 0⟩
def hoopCmdTid : Fld := ⟨.hoop, 0xe0, 1, 4, 8, 8, 1, 0, .wo, 0⟩
def hoopCmdMgmt : Fld := ⟨.hoop, 0xe0, 1, 4, 16, 1, 1, 0, .wo, 0⟩
def hoopCmdInst : Fld := ⟨.hoop, 0xe0, 1, 4, 17, 11, 1, 0, .wo, 0⟩
def hoopCmdArgArg : Fld := ⟨.hoop, 0xe4, 1, 4, 0, 32, 1, 0, .rw, 0⟩
def hoopCmdResStatus : Fld := ⟨.hoop, 0xe8, 1, 4, 0, 4, 1, 0, .ro, 0⟩
def hoopCmdResDone : Fld := ⟨.hoop, 0xe8, 1, 4, 4, 1, 1, 0, .ro, 0⟩
def hoopCmdHandleHandle : Fld := ⟨.hoop, 0xec, 1, 4, 0, 32, 1, 0, .ro, 0⟩
def hoopRebuildStart : Fld := ⟨.hoop, 0xf0, 1, 4, 0, 4, 1, 0, .wo, 0⟩
def hoopErrCellHandle : Fld := ⟨.hoop, 0x100, 1, 4, 0, 32, 1, 0, .ro, 0⟩
def hoopErrOwnerOwner : Fld := ⟨.hoop, 0x104, 1, 4, 0, 16, 1, 0, .ro, 0⟩
def hoopErrOwnerStatus : Fld := ⟨.hoop, 0x104, 1, 4, 16, 4, 1, 0, .ro, 0⟩
def hoopDfree : Fld := ⟨.hoop, 0x108, 1, 4, 0, 32, 1, 0, .rc, 0⟩
def hoopOwnerr : Fld := ⟨.hoop, 0x10c, 1, 4, 0, 32, 1, 0, .rc, 0⟩
def hoopNotlast : Fld := ⟨.hoop, 0x110, 1, 4, 0, 32, 1, 0, .rc, 0⟩
def hoopSpills : Fld := ⟨.hoop, 0x114, 1, 4, 0, 32, 1, 0, .rc, 0⟩
def hoopNocell : Fld := ⟨.hoop, 0x118, 1, 4, 0, 32, 1, 0, .rc, 0⟩
def hoopQwait : Fld := ⟨.hoop, 0x11c, 1, 4, 0, 32, 1, 0, .rc, 0⟩

/-! HARP fields -/
def harpCfgWinc : Fld := ⟨.harp, 0x40, 1, 4, 0, 4, 1, 0, .rw, 4⟩
def harpCfgWdec : Fld := ⟨.harp, 0x40, 1, 4, 4, 3, 1, 0, .rw, 2⟩
def harpCfgWmin : Fld := ⟨.harp, 0x40, 1, 4, 8, 8, 1, 0, .rw, 1⟩
def harpCfgWinit : Fld := ⟨.harp, 0x40, 1, 4, 16, 8, 1, 0, .rw, 0x80⟩
def harpRowselNode : Fld := ⟨.harp, 0x44, 1, 4, 0, 9, 1, 0, .rw, 0⟩
def harpWgtW : Fld := ⟨.harp, 0x48, 4, 4, 0, 8, 4, 8, .ro, 0⟩
def harpNallotAllot : Fld := ⟨.harp, 0x58, 1, 4, 0, 11, 1, 0, .rwl, 0x104⟩
def harpHcrcDrop : Fld := ⟨.harp, 0x5c, 1, 4, 0, 32, 1, 0, .rc, 0⟩
def harpUnroute : Fld := ⟨.harp, 0x60, 1, 4, 0, 32, 1, 0, .rc, 0⟩
def harpHoplim : Fld := ⟨.harp, 0x64, 1, 4, 0, 32, 1, 0, .rc, 0⟩
def harpEchoes : Fld := ⟨.harp, 0x68, 1, 4, 0, 32, 1, 0, .rc, 0⟩
def harpPicksLo : Fld := ⟨.harp, 0x6c, 1, 4, 0, 32, 1, 0, .ro, 0⟩
def harpPicksHi : Fld := ⟨.harp, 0x70, 1, 4, 0, 32, 1, 0, .ro, 0⟩

/-! PLAN fields -/
def planCmdOp : Fld := ⟨.plan, 0x40, 1, 4, 0, 2, 1, 0, .wo, 0⟩
def planCmdSlot : Fld := ⟨.plan, 0x40, 1, 4, 4, 4, 1, 0, .wo, 0⟩
def planCmdOfs : Fld := ⟨.plan, 0x40, 1, 4, 12, 11, 1, 0, .wo, 0⟩
def planResCode : Fld := ⟨.plan, 0x44, 1, 4, 0, 8, 1, 0, .ro, 0⟩
def planResBusy : Fld := ⟨.plan, 0x44, 1, 4, 8, 1, 1, 0, .ro, 0⟩
def planResDone : Fld := ⟨.plan, 0x44, 1, 4, 9, 1, 1, 0, .ro, 0⟩
def planErrOfsOfs : Fld := ⟨.plan, 0x48, 1, 4, 0, 23, 1, 0, .ro, 0⟩
def planSlotselSlot : Fld := ⟨.plan, 0x4c, 1, 4, 0, 4, 1, 0, .rw, 0⟩
def planSviewState : Fld := ⟨.plan, 0x50, 1, 4, 0, 3, 1, 0, .ro, 0⟩
def planSviewTid : Fld := ⟨.plan, 0x50, 1, 4, 8, 8, 1, 0, .ro, 0⟩
def planSviewDepth : Fld := ⟨.plan, 0x50, 1, 4, 16, 7, 1, 0, .ro, 0⟩
def planVPlanId : Fld := ⟨.plan, 0x54, 1, 4, 0, 32, 1, 0, .ro, 0⟩
def planVBaseLo : Fld := ⟨.plan, 0x58, 1, 4, 0, 32, 1, 0, .ro, 0⟩
def planVBaseHi : Fld := ⟨.plan, 0x5c, 1, 4, 0, 16, 1, 0, .ro, 0⟩
def planVPeriod : Fld := ⟨.plan, 0x60, 1, 4, 0, 11, 1, 0, .ro, 0⟩
def planVOfs : Fld := ⟨.plan, 0x60, 1, 4, 16, 11, 1, 0, .ro, 0⟩
def planVHashLo : Fld := ⟨.plan, 0x64, 1, 4, 0, 32, 1, 0, .ro, 0⟩
def planVHashHi : Fld := ⟨.plan, 0x68, 1, 4, 0, 32, 1, 0, .ro, 0⟩
def planUsed : Fld := ⟨.plan, 0x6c, 1, 4, 0, 12, 1, 0, .ro, 0⟩
def planRun : Fld := ⟨.plan, 0x6c, 1, 4, 16, 12, 1, 0, .ro, 0x800⟩
def planPort : Fld := ⟨.plan, 0x70, 1, 4, 0, 6, 1, 0, .rw, 0⟩
def planXdir : Fld := ⟨.plan, 0x70, 1, 4, 6, 1, 1, 0, .rw, 0⟩
def planPeak : Fld := ⟨.plan, 0x74, 1, 4, 0, 16, 1, 0, .ro, 0⟩
def planLimit : Fld := ⟨.plan, 0x74, 1, 4, 16, 16, 1, 0, .ro, 0⟩
def planUnused : Fld := ⟨.plan, 0x78, 1, 4, 0, 32, 1, 0, .rc, 0⟩
def planLoads : Fld := ⟨.plan, 0x7c, 1, 4, 0, 16, 1, 0, .rc, 0⟩
def planRejects : Fld := ⟨.plan, 0x7c, 1, 4, 16, 16, 1, 0, .rc, 0⟩

/-! RNG fields -/
def rngPselLane : Fld := ⟨.rng, 0x40, 1, 4, 0, 6, 1, 0, .rw, 0⟩
def rngPolyTapa : Fld := ⟨.rng, 0x44, 1, 4, 0, 6, 1, 0, .ro, 0⟩
def rngPolyTapb : Fld := ⟨.rng, 0x44, 1, 4, 8, 6, 1, 0, .ro, 0⟩
def rngPolyTapc : Fld := ⟨.rng, 0x44, 1, 4, 16, 6, 1, 0, .ro, 0⟩
def rngTselSeg : Fld := ⟨.rng, 0x48, 1, 4, 0, 10, 1, 0, .rw, 0⟩
def rngTselTab : Fld := ⟨.rng, 0x48, 1, 4, 12, 1, 1, 0, .rw, 0⟩
def rngTcCoef : Fld := ⟨.rng, 0x4c, 3, 4, 0, 32, 1, 0, .ro, 0⟩
def rngPseedLo : Fld := ⟨.rng, 0x58, 1, 4, 0, 32, 1, 0, .rw, 0⟩
def rngPseedHi : Fld := ⟨.rng, 0x5c, 1, 4, 0, 32, 1, 0, .rw, 0⟩
def rngPctxGroup : Fld := ⟨.rng, 0x60, 1, 4, 0, 12, 1, 0, .rw, 0⟩
def rngPctxCid : Fld := ⟨.rng, 0x60, 1, 4, 16, 16, 1, 0, .rw, 0⟩
def rngPchunkChunk : Fld := ⟨.rng, 0x64, 1, 4, 0, 32, 1, 0, .rw, 0⟩
def rngPposTile : Fld := ⟨.rng, 0x68, 1, 4, 0, 16, 1, 0, .rw, 0⟩
def rngPposStep : Fld := ⟨.rng, 0x68, 1, 4, 16, 5, 1, 0, .rw, 0⟩
def rngPcmdSeed : Fld := ⟨.rng, 0x6c, 1, 4, 0, 1, 1, 0, .wo, 0⟩
def rngPcmdLeap : Fld := ⟨.rng, 0x6c, 1, 4, 1, 1, 1, 0, .wo, 0⟩
def rngPstateStateLo : Fld := ⟨.rng, 0x70, 1, 4, 0, 32, 1, 0, .ro, 0⟩
def rngPstateStateHi : Fld := ⟨.rng, 0x74, 1, 4, 0, 32, 1, 0, .ro, 0⟩
def rngDrawsLo : Fld := ⟨.rng, 0x78, 1, 4, 0, 32, 1, 0, .ro, 0⟩
def rngDrawsHi : Fld := ⟨.rng, 0x7c, 1, 4, 0, 32, 1, 0, .ro, 0⟩

/-! PORT fields -/
def portLinkState : Fld := ⟨.port, 0x40, 1, 4, 0, 2, 1, 0, .ro, 0⟩
def portLinkPs : Fld := ⟨.port, 0x40, 1, 4, 2, 2, 1, 0, .ro, 0⟩
def portLinkNakrsn : Fld := ⟨.port, 0x40, 1, 4, 4, 4, 1, 0, .ro, 0⟩
def portPsctlTgt : Fld := ⟨.port, 0x44, 1, 4, 0, 2, 1, 0, .rw, 0⟩
def portPsctlAllow1 : Fld := ⟨.port, 0x44, 1, 4, 2, 1, 1, 0, .rw, 1⟩
def portPsctlAllow2 : Fld := ⟨.port, 0x44, 1, 4, 3, 1, 1, 0, .rw, 0⟩
def portGrant : Fld := ⟨.port, 0x48, 1, 4, 0, 14, 1, 0, .rwl, 0x800⟩
def portTxcredEven : Fld := ⟨.port, 0x50, 4, 4, 0, 16, 1, 0, .ro, 0⟩
def portTxcredOdd : Fld := ⟨.port, 0x50, 4, 4, 16, 16, 1, 0, .ro, 0⟩
def portMsgNextMsn : Fld := ⟨.port, 0x60, 1, 4, 0, 6, 1, 0, .ro, 0⟩
def portMsgMackIn : Fld := ⟨.port, 0x60, 1, 4, 8, 6, 1, 0, .ro, 0x3f⟩
def portMsgMackOut : Fld := ⟨.port, 0x60, 1, 4, 16, 6, 1, 0, .ro, 0x3f⟩
def portLsnTx : Fld := ⟨.port, 0x64, 1, 4, 0, 16, 1, 0, .ro, 0⟩
def portLsnRx : Fld := ⟨.port, 0x64, 1, 4, 16, 16, 1, 0, .ro, 0⟩
def portPoison : Fld := ⟨.port, 0x68, 1, 4, 0, 32, 1, 0, .rc, 0⟩
def portHdrDrop : Fld := ⟨.port, 0x6c, 1, 4, 0, 32, 1, 0, .rc, 0⟩
def portNotRecv : Fld := ⟨.port, 0x70, 1, 4, 0, 32, 1, 0, .rc, 0⟩
def portRefused : Fld := ⟨.port, 0x74, 1, 4, 0, 32, 1, 0, .rc, 0⟩
def portReplays : Fld := ⟨.port, 0x78, 1, 4, 0, 16, 1, 0, .rc, 0⟩
def portCsyncFlits : Fld := ⟨.port, 0x78, 1, 4, 16, 16, 1, 0, .rc, 0⟩
def portProto : Fld := ⟨.port, 0x7c, 1, 4, 0, 32, 1, 0, .rc, 0⟩
def portDlvCfgRto : Fld := ⟨.port, 0x400, 1, 4, 0, 8, 1, 0, .rw, 0x10⟩
def portDlvCfgRtoMax : Fld := ⟨.port, 0x400, 1, 4, 8, 12, 1, 0, .rw, 0x100⟩
def portDlvCfg2Gap : Fld := ⟨.port, 0x404, 1, 4, 0, 16, 1, 0, .rw, 0x1000⟩
def portDlvCfg2EgressMax : Fld := ⟨.port, 0x404, 1, 4, 16, 16, 1, 0, .rw, 0x1000⟩
def portLedgerUsed : Fld := ⟨.port, 0x408, 1, 4, 0, 13, 1, 0, .ro, 0⟩
def portLedgerPeak : Fld := ⟨.port, 0x408, 1, 4, 16, 13, 1, 0, .rc, 0⟩
def portDlvHeldSrc : Fld := ⟨.port, 0x40c, 1, 4, 0, 13, 1, 0, .ro, 0⟩
def portDlvHeldDst : Fld := ⟨.port, 0x40c, 1, 4, 16, 16, 1, 0, .ro, 0⟩
def portAccLo : Fld := ⟨.port, 0x410, 1, 4, 0, 32, 1, 0, .ro, 0⟩
def portAccHi : Fld := ⟨.port, 0x414, 1, 4, 0, 32, 1, 0, .ro, 0⟩
def portDlvdLo : Fld := ⟨.port, 0x418, 1, 4, 0, 32, 1, 0, .ro, 0⟩
def portDlvdHi : Fld := ⟨.port, 0x41c, 1, 4, 0, 32, 1, 0, .ro, 0⟩
def portRtAborted : Fld := ⟨.port, 0x420, 1, 4, 0, 32, 1, 0, .rc, 0⟩
def portRtUndeliv : Fld := ⟨.port, 0x424, 1, 4, 0, 32, 1, 0, .rc, 0⟩
def portRtKilled : Fld := ⟨.port, 0x428, 1, 4, 0, 32, 1, 0, .rc, 0⟩
def portRtRejected : Fld := ⟨.port, 0x42c, 1, 4, 0, 32, 1, 0, .rc, 0⟩
def portRetx : Fld := ⟨.port, 0x430, 1, 4, 0, 32, 1, 0, .rc, 0⟩
def portTimeout : Fld := ⟨.port, 0x434, 1, 4, 0, 32, 1, 0, .rc, 0⟩
def portNakRx : Fld := ⟨.port, 0x438, 1, 4, 0, 32, 1, 0, .rc, 0⟩
def portExcl : Fld := ⟨.port, 0x43c, 1, 4, 0, 16, 1, 0, .rc, 0⟩
def portGapRt : Fld := ⟨.port, 0x43c, 1, 4, 16, 16, 1, 0, .rc, 0⟩
def portDupRx : Fld := ⟨.port, 0x440, 1, 4, 0, 32, 1, 0, .rc, 0⟩
def portWinDrop : Fld := ⟨.port, 0x444, 1, 4, 0, 32, 1, 0, .rc, 0⟩
def portCrcBad : Fld := ⟨.port, 0x448, 1, 4, 0, 32, 1, 0, .rc, 0⟩
def portWait : Fld := ⟨.port, 0x44c, 1, 4, 0, 32, 1, 0, .rc, 0⟩
def portLifeDrop : Fld := ⟨.port, 0x450, 1, 4, 0, 32, 1, 0, .rc, 0⟩
def portEgResend : Fld := ⟨.port, 0x454, 1, 4, 0, 32, 1, 0, .rc, 0⟩
def portDlvDieFlows : Fld := ⟨.port, 0x458, 1, 4, 0, 17, 1, 0, .ro, 0⟩
def portDlvRlogUsed : Fld := ⟨.port, 0x45c, 1, 4, 0, 14, 1, 0, .ro, 0⟩
def portCcMarkThresh : Fld := ⟨.port, 0x80, 1, 4, 0, 13, 1, 0, .rw, 0x40⟩
def portCcMarkEn : Fld := ⟨.port, 0x80, 1, 4, 16, 1, 1, 0, .rw, 1⟩
def portCcDropThresh : Fld := ⟨.port, 0x84, 1, 4, 0, 13, 1, 0, .rw, 0x100⟩
def portCcDropEn : Fld := ⟨.port, 0x84, 1, 4, 16, 1, 1, 0, .rw, 1⟩
def portCcRateRinit : Fld := ⟨.port, 0x88, 1, 4, 0, 13, 1, 0, .rw, 0x1000⟩
def portCcRateAi : Fld := ⟨.port, 0x88, 1, 4, 16, 8, 1, 0, .rw, 0x10⟩
def portCcRminRmin : Fld := ⟨.port, 0x8c, 1, 4, 0, 13, 1, 0, .rw, 4⟩
def portCcDepthIngress : Fld := ⟨.port, 0x90, 1, 4, 0, 13, 1, 0, .ro, 0⟩
def portCcDepthOutmax : Fld := ⟨.port, 0x90, 1, 4, 16, 13, 1, 0, .ro, 0⟩
def portMarks : Fld := ⟨.port, 0x94, 1, 4, 0, 32, 1, 0, .rc, 0⟩
def portEchoRx : Fld := ⟨.port, 0x98, 1, 4, 0, 32, 1, 0, .rc, 0⟩
def portCuts : Fld := ⟨.port, 0x9c, 1, 4, 0, 32, 1, 0, .rc, 0⟩
def portWhSf : Fld := ⟨.port, 0xa0, 1, 4, 0, 32, 1, 0, .rc, 0⟩
def portCcFselFlow : Fld := ⟨.port, 0xa4, 1, 4, 0, 16, 1, 0, .rw, 0⟩
def portCcFviewRate : Fld := ⟨.port, 0xa8, 1, 4, 0, 13, 1, 0, .ro, 0⟩
def portCcFviewEchoed : Fld := ⟨.port, 0xa8, 1, 4, 16, 1, 1, 0, .ro, 0⟩
def portCcFviewElig : Fld := ⟨.port, 0xa8, 1, 4, 17, 1, 1, 0, .ro, 0⟩
def portTwgtW : Fld := ⟨.port, 0x200, 64, 4, 0, 8, 4, 8, .rw, 0x10⟩
def portTcapCap : Fld := ⟨.port, 0x300, 32, 4, 0, 3, 8, 4, .rw, 7⟩

/-! LANEQ fields -/
def laneqPstatState : Fld := ⟨.laneq, 0x40, 1, 4, 0, 2, 1, 0, .ro, 0⟩
def laneqPstatReversed : Fld := ⟨.laneq, 0x40, 1, 4, 2, 1, 1, 0, .ro, 0⟩
def laneqPstatCentred : Fld := ⟨.laneq, 0x40, 1, 4, 3, 1, 1, 0, .ro, 0⟩
def laneqPstatSkew : Fld := ⟨.laneq, 0x40, 1, 4, 4, 4, 1, 0, .ro, 0⟩
def laneqPctlRehunt : Fld := ⟨.laneq, 0x44, 1, 4, 0, 1, 1, 0, .wo, 0⟩
def laneqLatRxlat : Fld := ⟨.laneq, 0x48, 1, 4, 0, 12, 1, 0, .ro, 0⟩
def laneqLatCurlat : Fld := ⟨.laneq, 0x48, 1, 4, 16, 12, 1, 0, .ro, 0⟩
def laneqLaneLstatCdrLock : Fld := ⟨.laneq, 0x80, 4, 64, 0, 1, 1, 0, .ro, 0⟩
def laneqLaneLstatBlLock : Fld := ⟨.laneq, 0x80, 4, 64, 1, 1, 1, 0, .ro, 0⟩
def laneqLaneLstatSfLock : Fld := ⟨.laneq, 0x80, 4, 64, 2, 1, 1, 0, .ro, 0⟩
def laneqLaneLstatHintPol : Fld := ⟨.laneq, 0x80, 4, 64, 3, 1, 1, 0, .ro, 0⟩
def laneqLaneLstatSfOfs : Fld := ⟨.laneq, 0x80, 4, 64, 4, 5, 1, 0, .ro, 0⟩
def laneqLaneLstatLogical : Fld := ⟨.laneq, 0x80, 4, 64, 9, 2, 1, 0, .ro, 0⟩
def laneqLaneEqTxPre2 : Fld := ⟨.laneq, 0x84, 4, 64, 0, 8, 1, 0, .ro, 0⟩
def laneqLaneEqTxPre1 : Fld := ⟨.laneq, 0x84, 4, 64, 8, 8, 1, 0, .ro, 0⟩
def laneqLaneEqTxMain : Fld := ⟨.laneq, 0x84, 4, 64, 16, 8, 1, 0, .ro, 0⟩
def laneqLaneEqTxPost1 : Fld := ⟨.laneq, 0x84, 4, 64, 24, 8, 1, 0, .ro, 0⟩
def laneqLaneEqRxCtle : Fld := ⟨.laneq, 0x88, 4, 64, 0, 8, 1, 0, .ro, 0⟩
def laneqLaneEqRxDfe1 : Fld := ⟨.laneq, 0x88, 4, 64, 8, 8, 1, 0, .ro, 0⟩
def laneqLaneEqRxDfe2 : Fld := ⟨.laneq, 0x88, 4, 64, 16, 8, 1, 0, .ro, 0⟩
def laneqLaneEqRxDfe3 : Fld := ⟨.laneq, 0x88, 4, 64, 24, 8, 1, 0, .ro, 0⟩
def laneqLaneEqRx2Dfe4 : Fld := ⟨.laneq, 0x8c, 4, 64, 0, 8, 1, 0, .ro, 0⟩
def laneqLaneEqRx2Dfe5 : Fld := ⟨.laneq, 0x8c, 4, 64, 8, 8, 1, 0, .ro, 0⟩
def laneqLaneEqRx2Pol : Fld := ⟨.laneq, 0x8c, 4, 64, 16, 8, 1, 0, .ro, 0⟩
def laneqLaneEqRx2Flags : Fld := ⟨.laneq, 0x8c, 4, 64, 24, 8, 1, 0, .ro, 0⟩
def laneqLanePhasePi : Fld := ⟨.laneq, 0x90, 4, 64, 0, 6, 1, 0, .ro, 0⟩
def laneqLanePhaseFill : Fld := ⟨.laneq, 0x90, 4, 64, 8, 4, 1, 0, .ro, 0⟩
def laneqLaneCorrLoCorr : Fld := ⟨.laneq, 0x94, 4, 64, 0, 32, 1, 0, .ro, 0⟩
def laneqLaneCorrHiCorr : Fld := ⟨.laneq, 0x98, 4, 64, 0, 32, 1, 0, .ro, 0⟩
def laneqLaneUncorr : Fld := ⟨.laneq, 0x9c, 4, 64, 0, 32, 1, 0, .rc, 0⟩
def laneqLaneBadhdr : Fld := ⟨.laneq, 0xa0, 4, 64, 0, 32, 1, 0, .rc, 0⟩
def laneqLaneLossBlLoss : Fld := ⟨.laneq, 0xa4, 4, 64, 0, 16, 1, 0, .rc, 0⟩
def laneqLaneLossSfLoss : Fld := ⟨.laneq, 0xa4, 4, 64, 16, 16, 1, 0, .rc, 0⟩
def laneqLaneMargin : Fld := ⟨.laneq, 0xa8, 4, 64, 0, 32, 1, 0, .rc, 0⟩
def laneqLaneSlip : Fld := ⟨.laneq, 0xac, 4, 64, 0, 16, 1, 0, .rc, 0⟩

/-! VAT fields -/
def vatStatState : Fld := ⟨.vat, 0x40, 1, 4, 0, 2, 1, 0, .ro, 0⟩
def vatStatBusy : Fld := ⟨.vat, 0x40, 1, 4, 2, 1, 1, 0, .ro, 0⟩
def vatStatGated : Fld := ⟨.vat, 0x40, 1, 4, 3, 1, 1, 0, .ro, 0⟩
def vatStatLogical : Fld := ⟨.vat, 0x40, 1, 4, 4, 5, 1, 0, .ro, 0⟩
def vatStatLvalid : Fld := ⟨.vat, 0x40, 1, 4, 9, 1, 1, 0, .ro, 0⟩
def vatStatQdepth : Fld := ⟨.vat, 0x40, 1, 4, 10, 5, 1, 0, .ro, 0⟩
def vatStatRsteps : Fld := ⟨.vat, 0x40, 1, 4, 16, 6, 1, 0, .ro, 0⟩
def vatCurGroup : Fld := ⟨.vat, 0x44, 1, 4, 0, 12, 1, 0, .ro, 0⟩
def vatCurTid : Fld := ⟨.vat, 0x44, 1, 4, 16, 8, 1, 0, .ro, 0⟩
def vatCurStep : Fld := ⟨.vat, 0x44, 1, 4, 24, 5, 1, 0, .ro, 0⟩
def vatCurChunkChunk : Fld := ⟨.vat, 0x48, 1, 4, 0, 32, 1, 0, .ro, 0⟩
def vatFaultCause : Fld := ⟨.vat, 0x4c, 1, 4, 0, 4, 1, 0, .rws, 0⟩
def vatFaultStep : Fld := ⟨.vat, 0x4c, 1, 4, 4, 5, 1, 0, .rws, 0⟩
def vatFaultTick : Fld := ⟨.vat, 0x4c, 1, 4, 16, 16, 1, 0, .rws, 0⟩
def vatInjectResidue : Fld := ⟨.vat, 0x50, 1, 4, 0, 1, 1, 0, .wo, 0⟩
def vatInjectRecipe : Fld := ⟨.vat, 0x50, 1, 4, 1, 1, 1, 0, .wo, 0⟩
def vatTiles : Fld := ⟨.vat, 0x54, 1, 4, 0, 32, 1, 0, .rc, 0⟩
def vatBusy : Fld := ⟨.vat, 0x58, 1, 4, 0, 32, 1, 0, .rc, 0⟩
def vatRange : Fld := ⟨.vat, 0x5c, 1, 4, 0, 32, 1, 0, .rc, 0⟩
def vatCuts : Fld := ⟨.vat, 0x60, 1, 4, 0, 16, 1, 0, .rc, 0⟩
def vatRcorr : Fld := ⟨.vat, 0x60, 1, 4, 16, 16, 1, 0, .rc, 0⟩
def vatReexec : Fld := ⟨.vat, 0x64, 1, 4, 0, 32, 1, 0, .rc, 0⟩
def vatHeld : Fld := ⟨.vat, 0x68, 1, 4, 0, 32, 1, 0, .rc, 0⟩
def vatGated : Fld := ⟨.vat, 0x6c, 1, 4, 0, 32, 1, 0, .rc, 0⟩
def vatRsv : Fld := ⟨.vat, 0xc0, 1, 4, 0, 5, 1, 0, .rwl, 4⟩
def vatDieServing : Fld := ⟨.vat, 0xc4, 1, 4, 0, 6, 1, 0, .ro, 0⟩
def vatDieSpares : Fld := ⟨.vat, 0xc4, 1, 4, 8, 5, 1, 0, .ro, 0⟩
def vatDieFenced : Fld := ⟨.vat, 0xc4, 1, 4, 16, 6, 1, 0, .ro, 0⟩
def vatRecipeWord : Fld := ⟨.vat, 0x200, 128, 4, 0, 32, 1, 0, .ro, 0⟩
def vatSpStatWiping : Fld := ⟨.vat, 0x100, 1, 4, 0, 1, 1, 0, .ro, 0⟩
def vatSpStatPoisoned : Fld := ⟨.vat, 0x100, 1, 4, 1, 1, 1, 0, .ro, 0⟩
def vatSpStatWleft : Fld := ⟨.vat, 0x100, 1, 4, 2, 16, 1, 0, .ro, 0⟩
def vatBrineCfgStride : Fld := ⟨.vat, 0x104, 1, 4, 0, 11, 1, 0, .rw, 0x40⟩
def vatBrineStatCursor : Fld := ⟨.vat, 0x108, 1, 4, 0, 18, 1, 0, .ro, 0⟩
def vatBrinePassLastMs : Fld := ⟨.vat, 0x10c, 1, 4, 0, 16, 1, 0, .ro, 0⟩
def vatBrinePassPasses : Fld := ⟨.vat, 0x10c, 1, 4, 16, 16, 1, 0, .rc, 0⟩
def vatSpCeW : Fld := ⟨.vat, 0x110, 1, 4, 0, 32, 1, 0, .rc, 0⟩
def vatSpCeA : Fld := ⟨.vat, 0x114, 1, 4, 0, 32, 1, 0, .rc, 0⟩
def vatSpUe : Fld := ⟨.vat, 0x118, 1, 4, 0, 32, 1, 0, .rc, 0⟩
def vatSpFix : Fld := ⟨.vat, 0x11c, 1, 4, 0, 32, 1, 0, .rc, 0⟩
def vatSpErrWord : Fld := ⟨.vat, 0x120, 1, 4, 0, 18, 1, 0, .ro, 0⟩
def vatSpErrClass : Fld := ⟨.vat, 0x120, 1, 4, 18, 1, 1, 0, .ro, 0⟩
def vatSpErrSrc : Fld := ⟨.vat, 0x120, 1, 4, 19, 1, 1, 0, .ro, 0⟩
def vatSpErrHandle : Fld := ⟨.vat, 0x120, 1, 4, 20, 6, 1, 0, .ro, 0⟩
def vatSpErrHvalid : Fld := ⟨.vat, 0x120, 1, 4, 26, 1, 1, 0, .ro, 0⟩
def vatSpErrStale : Fld := ⟨.vat, 0x120, 1, 4, 27, 1, 1, 0, .ro, 0⟩
def vatHselIndex : Fld := ⟨.vat, 0x124, 1, 4, 0, 6, 1, 0, .rw, 0⟩
def vatHentEntry : Fld := ⟨.vat, 0x128, 4, 4, 0, 32, 1, 0, .ro, 0⟩
def vatWipeAll : Fld := ⟨.vat, 0x138, 1, 4, 0, 1, 1, 0, .wo, 0⟩

/-! TEN fields -/
def tenCtlEn : Fld := ⟨.ten, 0x40, 4, 1024, 0, 1, 1, 0, .rw, 0⟩
def tenCtlKill : Fld := ⟨.ten, 0x40, 4, 1024, 1, 1, 1, 0, .wo, 0⟩
def tenCtlDebugAllow : Fld := ⟨.ten, 0x40, 4, 1024, 2, 1, 1, 0, .rw, 0⟩
def tenCtlHostCave : Fld := ⟨.ten, 0x40, 4, 1024, 3, 1, 1, 0, .rw, 0⟩
def tenStatState : Fld := ⟨.ten, 0x44, 4, 1024, 0, 2, 1, 0, .ro, 0⟩
def tenStatKeygen : Fld := ⟨.ten, 0x44, 4, 1024, 8, 8, 1, 0, .ro, 0⟩
def tenStatLeft : Fld := ⟨.ten, 0x44, 4, 1024, 16, 7, 1, 0, .ro, 0⟩
def tenKillAtKtickLo : Fld := ⟨.ten, 0x48, 4, 1024, 0, 32, 1, 0, .rw, 0⟩
def tenKillAtKtickHi : Fld := ⟨.ten, 0x4c, 4, 1024, 0, 16, 1, 0, .rw, 0⟩
def tenPortsLo : Fld := ⟨.ten, 0x50, 4, 1024, 0, 32, 1, 0, .rw, 0⟩
def tenPortsHi : Fld := ⟨.ten, 0x54, 4, 1024, 0, 32, 1, 0, .rw, 0⟩
def tenVatVatmax : Fld := ⟨.ten, 0x58, 4, 1024, 0, 6, 1, 0, .rw, 0x20⟩
def tenCntRefused : Fld := ⟨.ten, 0x5c, 4, 1024, 0, 32, 1, 0, .rc, 0⟩
def tenCntEgReject : Fld := ⟨.ten, 0x60, 4, 1024, 0, 32, 1, 0, .rc, 0⟩

/-! CAVE fields -/
def caveStatState : Fld := ⟨.cave, 0x40, 1, 4, 0, 2, 1, 0, .ro, 0⟩
def caveStatRate0 : Fld := ⟨.cave, 0x40, 1, 4, 2, 2, 1, 0, .ro, 0⟩
def caveStatRate1 : Fld := ⟨.cave, 0x40, 1, 4, 4, 2, 1, 0, .ro, 0⟩
def caveCe : Fld := ⟨.cave, 0x44, 1, 4, 0, 32, 1, 0, .rc, 0⟩
def caveUe : Fld := ⟨.cave, 0x48, 1, 4, 0, 32, 1, 0, .rc, 0⟩
def caveRefDelay : Fld := ⟨.cave, 0x4c, 1, 4, 0, 32, 1, 0, .rc, 0⟩
def caveExtraRef : Fld := ⟨.cave, 0x50, 1, 4, 0, 32, 1, 0, .rc, 0⟩
def caveUeAddrLo : Fld := ⟨.cave, 0x54, 1, 4, 0, 32, 1, 0, .ro, 0⟩
def caveUeAddrHi : Fld := ⟨.cave, 0x58, 1, 4, 0, 8, 1, 0, .ro, 0⟩
def caveUeTid : Fld := ⟨.cave, 0x58, 1, 4, 8, 8, 1, 0, .ro, 0⟩
def caveUeMgmt : Fld := ⟨.cave, 0x58, 1, 4, 16, 1, 1, 0, .ro, 0⟩
def caveMgmtGib : Fld := ⟨.cave, 0x80, 1, 4, 0, 7, 1, 0, .rwl, 8⟩
def caveMgmtGen : Fld := ⟨.cave, 0x80, 1, 4, 16, 16, 1, 0, .ro, 1⟩
def caveTselTid : Fld := ⟨.cave, 0x84, 1, 4, 0, 8, 1, 0, .rw, 0⟩
def caveTmapBase : Fld := ⟨.cave, 0x88, 1, 4, 0, 10, 1, 0, .rw, 0⟩
def caveTmapSize : Fld := ⟨.cave, 0x88, 1, 4, 16, 10, 1, 0, .rw, 0⟩
def caveTgenGen : Fld := ⟨.cave, 0x8c, 1, 4, 0, 16, 1, 0, .ro, 1⟩
def caveShare0Vat : Fld := ⟨.cave, 0x90, 1, 4, 0, 7, 1, 0, .rw, 0x28⟩
def caveShare0Dma : Fld := ⟨.cave, 0x90, 1, 4, 8, 7, 1, 0, .rw, 0xc⟩
def caveShare0Host : Fld := ⟨.cave, 0x90, 1, 4, 16, 7, 1, 0, .rw, 4⟩
def caveShare1Rec : Fld := ⟨.cave, 0x94, 1, 4, 0, 7, 1, 0, .rw, 4⟩
def caveShare1Telem : Fld := ⟨.cave, 0x94, 1, 4, 8, 7, 1, 0, .rw, 2⟩
def caveShare1Sys : Fld := ⟨.cave, 0x94, 1, 4, 16, 7, 1, 0, .ro, 2⟩
def caveShstatGranted : Fld := ⟨.cave, 0x98, 1, 4, 0, 7, 1, 0, .ro, 0⟩
def caveShstatUnit : Fld := ⟨.cave, 0x98, 1, 4, 16, 13, 1, 0, .ro, 0⟩
def caveSweepActive : Fld := ⟨.cave, 0x9c, 1, 4, 0, 1, 1, 0, .ro, 0⟩
def caveSweepMgmt : Fld := ⟨.cave, 0x9c, 1, 4, 1, 1, 1, 0, .ro, 0⟩
def caveSweepTid : Fld := ⟨.cave, 0x9c, 1, 4, 8, 8, 1, 0, .ro, 0⟩

/-! HOST fields -/
def hostLinkSpeed : Fld := ⟨.host, 0x40, 1, 4, 0, 3, 1, 0, .ro, 0⟩
def hostLinkWidth : Fld := ⟨.host, 0x40, 1, 4, 3, 5, 1, 0, .ro, 0⟩
def hostLinkFlit : Fld := ⟨.host, 0x40, 1, 4, 8, 1, 1, 0, .ro, 0⟩
def hostLinkCxl : Fld := ⟨.host, 0x40, 1, 4, 9, 1, 1, 0, .ro, 0⟩
def hostLinkMemEn : Fld := ⟨.host, 0x40, 1, 4, 10, 1, 1, 0, .ro, 0⟩
def hostLinkDstate : Fld := ⟨.host, 0x40, 1, 4, 11, 2, 1, 0, .ro, 0⟩
def hostRidAllowRid : Fld := ⟨.host, 0x44, 4, 4, 0, 16, 1, 0, .rwl, 0⟩
def hostRidAllowValid : Fld := ⟨.host, 0x44, 4, 4, 16, 1, 1, 0, .rwl, 0⟩
def hostHmemBaseLo : Fld := ⟨.host, 0x60, 8, 16, 12, 20, 1, 0, .rw, 0⟩
def hostHmemBaseHi : Fld := ⟨.host, 0x64, 8, 16, 0, 32, 1, 0, .rw, 0⟩
def hostHmemSize : Fld := ⟨.host, 0x68, 8, 16, 0, 32, 1, 0, .rw, 0⟩
def hostHmemValid : Fld := ⟨.host, 0x6c, 8, 16, 0, 1, 1, 0, .rw, 0⟩
def hostCwinDie : Fld := ⟨.host, 0x100, 16, 8, 0, 2, 1, 0, .rw, 0⟩
def hostCwinMgmt : Fld := ⟨.host, 0x100, 16, 8, 2, 1, 1, 0, .rw, 0⟩
def hostCwinValid : Fld := ⟨.host, 0x100, 16, 8, 3, 1, 1, 0, .rw, 0⟩
def hostCwinTid : Fld := ⟨.host, 0x100, 16, 8, 8, 8, 1, 0, .rw, 0⟩
def hostCwinGib : Fld := ⟨.host, 0x104, 16, 8, 0, 10, 1, 0, .rw, 0⟩
def hostImodGap : Fld := ⟨.host, 0x180, 1, 4, 0, 16, 1, 0, .rw, 0⟩
def hostPmeEn : Fld := ⟨.host, 0x184, 1, 4, 0, 5, 1, 0, .rw, 0⟩
def hostPeerUr : Fld := ⟨.host, 0x188, 1, 4, 0, 32, 1, 0, .rc, 0⟩
def hostBisnp : Fld := ⟨.host, 0x18c, 1, 4, 0, 32, 1, 0, .rc, 0⟩

/-! MBOX fields -/
def mboxLockLo : Fld := ⟨.mbox, 0x40, 1, 4, 0, 32, 1, 0, .ro, 0⟩
def mboxLockHi : Fld := ⟨.mbox, 0x44, 1, 4, 0, 32, 1, 0, .ro, 0⟩
def mboxStallLo : Fld := ⟨.mbox, 0x48, 1, 4, 0, 32, 1, 0, .ro, 0⟩
def mboxStallHi : Fld := ⟨.mbox, 0x4c, 1, 4, 0, 32, 1, 0, .ro, 0⟩
def mboxDoneLo : Fld := ⟨.mbox, 0x50, 1, 4, 0, 32, 1, 0, .w1c, 0⟩
def mboxDoneHi : Fld := ⟨.mbox, 0x54, 1, 4, 0, 32, 1, 0, .w1c, 0⟩
def mboxBaddb : Fld := ⟨.mbox, 0x58, 1, 4, 0, 16, 1, 0, .rc, 0⟩
def mboxOverwrite : Fld := ⟨.mbox, 0x58, 1, 4, 16, 16, 1, 0, .rc, 0⟩
def mboxLat : Fld := ⟨.mbox, 0x5c, 1, 4, 0, 16, 1, 0, .ro, 0⟩
def mboxLatmax : Fld := ⟨.mbox, 0x5c, 1, 4, 16, 16, 1, 0, .rc, 0⟩
def mboxDbRing : Fld := ⟨.mbox, 0x80, 64, 4, 0, 1, 1, 0, .wo, 0⟩

/-! DMA fields -/
def dmaQEn : Fld := ⟨.dma, 0x40, 4, 32, 0, 1, 1, 0, .rw, 0⟩
def dmaQIdle : Fld := ⟨.dma, 0x40, 4, 32, 1, 1, 1, 0, .ro, 1⟩
def dmaQSqdb : Fld := ⟨.dma, 0x44, 4, 32, 0, 9, 1, 0, .wo, 0⟩
def dmaQCqdb : Fld := ⟨.dma, 0x48, 4, 32, 0, 9, 1, 0, .wo, 0⟩
def dmaQSqHead : Fld := ⟨.dma, 0x4c, 4, 32, 0, 9, 1, 0, .ro, 0⟩
def dmaQSqTail : Fld := ⟨.dma, 0x4c, 4, 32, 16, 9, 1, 0, .ro, 0⟩
def dmaQCqHead : Fld := ⟨.dma, 0x50, 4, 32, 0, 9, 1, 0, .ro, 0⟩
def dmaQCqTail : Fld := ⟨.dma, 0x50, 4, 32, 16, 9, 1, 0, .ro, 0⟩
def dmaQCqWait : Fld := ⟨.dma, 0x50, 4, 32, 25, 1, 1, 0, .ro, 0⟩
def dmaQStalled : Fld := ⟨.dma, 0x50, 4, 32, 26, 1, 1, 0, .ro, 0⟩
def dmaQBytesLo : Fld := ⟨.dma, 0x54, 4, 32, 0, 32, 1, 0, .ro, 0⟩
def dmaQBytesHi : Fld := ⟨.dma, 0x58, 4, 32, 0, 32, 1, 0, .ro, 0⟩
def dmaQLasterr : Fld := ⟨.dma, 0x5c, 4, 32, 0, 4, 1, 0, .ro, 0⟩
def dmaQErrslot : Fld := ⟨.dma, 0x5c, 4, 32, 8, 8, 1, 0, .ro, 0⟩

/-! COLL fields -/
def collCmdGrp : Fld := ⟨.coll, 0x40, 1, 4, 0, 8, 1, 0, .wo, 0⟩
def collCmdOp : Fld := ⟨.coll, 0x40, 1, 4, 8, 3, 1, 0, .wo, 0⟩
def collCmdStatStatus : Fld := ⟨.coll, 0x44, 1, 4, 0, 2, 1, 0, .ro, 0⟩
def collSelGrp : Fld := ⟨.coll, 0x48, 1, 4, 0, 8, 1, 0, .rw, 0⟩
def collGviewValid : Fld := ⟨.coll, 0x4c, 1, 4, 0, 1, 1, 0, .ro, 0⟩
def collGviewHome : Fld := ⟨.coll, 0x4c, 1, 4, 1, 2, 1, 0, .ro, 0⟩
def collGviewLkind : Fld := ⟨.coll, 0x4c, 1, 4, 3, 1, 1, 0, .ro, 0⟩
def collGviewState : Fld := ⟨.coll, 0x4c, 1, 4, 4, 3, 1, 0, .ro, 0⟩
def collGviewStalled : Fld := ⟨.coll, 0x4c, 1, 4, 7, 1, 1, 0, .ro, 0⟩
def collGviewTid : Fld := ⟨.coll, 0x4c, 1, 4, 8, 8, 1, 0, .ro, 0⟩
def collGviewNmem : Fld := ⟨.coll, 0x4c, 1, 4, 16, 13, 1, 0, .ro, 0⟩
def collQviewSqHead : Fld := ⟨.coll, 0x50, 1, 4, 0, 9, 1, 0, .ro, 0⟩
def collQviewSqTail : Fld := ⟨.coll, 0x50, 1, 4, 16, 9, 1, 0, .ro, 0⟩
def collCviewCqHead : Fld := ⟨.coll, 0x54, 1, 4, 0, 9, 1, 0, .ro, 0⟩
def collCviewCqTail : Fld := ⟨.coll, 0x54, 1, 4, 16, 9, 1, 0, .ro, 0⟩
def collCviewCqWait : Fld := ⟨.coll, 0x54, 1, 4, 25, 1, 1, 0, .ro, 0⟩
def collCurCid : Fld := ⟨.coll, 0x58, 1, 4, 0, 16, 1, 0, .ro, 0⟩
def collCurAlg : Fld := ⟨.coll, 0x58, 1, 4, 16, 2, 1, 0, .ro, 0⟩
def collCurNt : Fld := ⟨.coll, 0x58, 1, 4, 18, 3, 1, 0, .ro, 0⟩
def collCurTreeSwitched : Fld := ⟨.coll, 0x58, 1, 4, 21, 1, 1, 0, .ro, 0⟩
def collCurSlow : Fld := ⟨.coll, 0x58, 1, 4, 22, 1, 1, 0, .ro, 0⟩
def collCurTimingExact : Fld := ⟨.coll, 0x58, 1, 4, 23, 1, 1, 0, .ro, 0⟩
def collNextChunk : Fld := ⟨.coll, 0x5c, 1, 4, 0, 32, 1, 0, .ro, 0⟩
def collDone : Fld := ⟨.coll, 0x60, 1, 4, 0, 32, 1, 0, .rc, 0⟩
def collUnderfill : Fld := ⟨.coll, 0x64, 1, 4, 0, 32, 1, 0, .rc, 0⟩
def collOverwrite : Fld := ⟨.coll, 0x68, 1, 4, 0, 32, 1, 0, .rc, 0⟩
def collDup : Fld := ⟨.coll, 0x6c, 1, 4, 0, 32, 1, 0, .rc, 0⟩
def collTreesw : Fld := ⟨.coll, 0x70, 1, 4, 0, 32, 1, 0, .rc, 0⟩
def collAborts : Fld := ⟨.coll, 0x74, 1, 4, 0, 32, 1, 0, .rc, 0⟩
def collHeld : Fld := ⟨.coll, 0x78, 1, 4, 0, 32, 1, 0, .rc, 0⟩
def collSqdbTail : Fld := ⟨.coll, 0x800, 256, 8, 0, 9, 1, 0, .wo, 0⟩
def collCqdbHead : Fld := ⟨.coll, 0x804, 256, 8, 0, 9, 1, 0, .wo, 0⟩

/-! RT fields -/
def rtNodeReach : Fld := ⟨.rt, 0x40, 1, 4, 0, 1, 1, 0, .rw, 0⟩
def rtNodeSelf : Fld := ⟨.rt, 0x40, 1, 4, 1, 1, 1, 0, .ro, 0⟩
def rtNodeDies : Fld := ⟨.rt, 0x40, 1, 4, 2, 4, 1, 0, .rw, 0⟩
def rtPathmaskMask : Fld := ⟨.rt, 0x44, 1, 4, 0, 16, 1, 0, .rw, 0⟩
def rtEidvV : Fld := ⟨.rt, 0x80, 8, 4, 0, 1, 32, 1, .rw, 0⟩

end R

/-- The named fields of the HDR page type. -/
def hdrFields : List Fld :=
  [R.hdrErrHeadDword, R.hdrErrPopPop, R.hdrErrPopRewind, R.hdrErrPopClrcnt, R.hdrErrCntDepth, R.hdrErrCntHeadsev, R.hdrErrCntStall, R.hdrErrCntDropped, R.hdrErrCntPend, R.hdrEpoch, R.hdrIdInstance, R.hdrIdType, R.hdrRevMinor, R.hdrRevMajor, R.hdrCtlEnable, R.hdrCtlReset]
  ++ [R.hdrCtlFence, R.hdrCtlRundown, R.hdrStatState, R.hdrStatFenced, R.hdrStatReset, R.hdrStatGated, R.hdrStatAccessErr, R.hdrOwnerTid, R.hdrOwnerMgmt, R.hdrLock]

/-- The named fields of the CHIP page type. -/
def chipFields : List Fld :=
  [R.chipIdentForm, R.chipIdentStep, R.chipIdentPart, R.chipStrapCascPos, R.chipStrapBootSrc, R.chipStrapSmbAddr, R.chipStrapTestMode, R.chipSerialLo, R.chipSerialHi, R.chipFenceVats, R.chipFencePortsLo, R.chipFencePortsHi, R.chipFenceDies, R.chipAccKind, R.chipAccClass, R.chipAccWrite]
  ++ [R.chipAccValid, R.chipAccAddrAddr, R.chipAccCntCount, R.chipSpdSelVat, R.chipScratchData]

/-- The named fields of the TICK page type. -/
def tickFields : List Fld :=
  [R.tickCfgLen, R.tickStatState, R.tickStatDepth, R.tickCountLo, R.tickCountHi, R.tickCycleCyc, R.tickOvrTotalTotal, R.tickOvrLastTickLo, R.tickOvrLastTickHi, R.tickOvrLastCause, R.tickOvrWhoGroup, R.tickOvrWhoTid, R.tickOvrCauseCount, R.tickSlowCntSlow, R.tickOutEn, R.tickOutWidth]
  ++ [R.tickRdStatActive, R.tickRdStatDone, R.tickRdStatLeft]

/-- The named fields of the DISC page type. -/
def discFields : List Fld :=
  [R.discCfgElig, R.discCtlRetry, R.discCtlLeave, R.discCtlRemeasure, R.discStatPhase, R.discStatCause, R.discStatCport, R.discStatCdie, R.discStatHops, R.discStatIsroot, R.discStatIsstby, R.discStatRootGen, R.discCoordXyz, R.discCoordValid, R.discCoordSizes, R.discParentPort]
  ++ [R.discParentDie, R.discParentDir, R.discParentValid, R.discParentRelay, R.discRootLo, R.discRootHi, R.discStbyLo, R.discStbyHi, R.discLatselPort, R.discLatselDie, R.discLatL, R.discLatValid, R.discOffsetOfs, R.discHoldTicks, R.discHoldEntries, R.discEvtReparent]
  ++ [R.discEvtSkew, R.discRnMissMiss]

/-- The named fields of the CASC page type. -/
def cascFields : List Fld :=
  [R.cascCfgDies, R.cascCfgMalive, R.cascStatState, R.cascStatPos, R.cascStatMaster, R.cascStatHasStby, R.cascStatStby, R.cascStatPresent, R.cascStatCause, R.cascTopoMode, R.cascTopoDx, R.cascTopoDy, R.cascTopoDz, R.cascRole, R.cascAttr, R.cascHbMiss]
  ++ [R.cascHbMaMiss, R.cascHbTakeover, R.cascHbRank, R.cascErrFwdTimeout, R.cascErrRoleMismatch, R.cascFwdCntCount, R.cascSerialLo, R.cascSerialHi]

/-- The named fields of the ERRLOG page type. -/
def errlogFields : List Fld :=
  [R.errlogCfgPinSev, R.errlogCfgMirror, R.errlogCfgWdog, R.errlogCtlKick, R.errlogCtlStwReset, R.errlogStatUsed, R.errlogStatPend, R.errlogStatPin, R.errlogStatMaxsev, R.errlogNextseqSeq, R.errlogSelSeq, R.errlogEntDword, R.errlogSelstatFound, R.errlogSelstatPend, R.errlogOverwritten, R.errlogStale]
  ++ [R.errlogRetry, R.errlogBusyrst, R.errlogWaits]

/-- The named fields of the GPIO page type. -/
def gpioFields : List Fld :=
  [R.gpioFunc, R.gpioOut, R.gpioOe, R.gpioIn, R.gpioEdge, R.gpioOwnSel, R.gpioOwnOwner, R.gpioOwnFunc, R.gpioConfRes, R.gpioConfClaimant, R.gpioConfCnt]

/-- The named fields of the SMB page type. -/
def smbFields : List Fld :=
  [R.smbTaddr, R.smbArbLost, R.smbNak, R.smbTimeout, R.smbTgtXfer, R.smbTgtErr, R.smbLossAddr, R.smbLossByte, R.smbLossBit, R.smbLossAck, R.smbBackoff, R.smbFlCmd, R.smbFlAddr, R.smbFlBusy, R.smbFlErr, R.smbFlBuf]

/-- The named fields of the PWR page type. -/
def pwrFields : List Fld :=
  [R.pwrModeReq, R.pwrModeState, R.pwrModeAuto, R.pwrThermCtlWarn, R.pwrThermCtlCrit, R.pwrThermCtlPinAct, R.pwrThermCtlCaveAct, R.pwrTjCur, R.pwrTjMax, R.pwrTjHot, R.pwrAvsFloor, R.pwrAvsSet, R.pwrAvsEn, R.pwrAvsMargin, R.pwrCoreVout, R.pwrCoreIout]
  ++ [R.pwrCoreTemp, R.pwrCorePMw, R.pwrWakeCauseCause, R.pwrRstcauseCause, R.pwrPmbFail, R.pwrPmbWrites]

/-- The named fields of the SEC page type. -/
def secFields : List Fld :=
  [R.secBootSlot, R.secBootKeyidx, R.secBootSvn, R.secBootAfail, R.secBootBfail, R.secFwBuild, R.secRomVer, R.secDbgUnlock, R.secDbgLock, R.secDbgState, R.secDbgNonceNonceLo, R.secDbgNonceNonceHi, R.secMgmtPortsLo, R.secMgmtPortsHi, R.secFuseCmdSvnCommit, R.secFuseCmdRevoke]
  ++ [R.secFuseCmdSlot, R.secFuseStatFsvn, R.secFuseStatRevoked, R.secSpdmDoeReq, R.secSpdmMctpReq, R.secDbgTokToken]

/-- The named fields of the TELEM page type. -/
def telemFields : List Fld :=
  [R.telemCtlEn, R.telemCtlDest, R.telemCtlWrap, R.telemCtlSect, R.telemCtlNm1, R.telemStatState, R.telemRingLo, R.telemRingHi, R.telemRingLen, R.telemTail, R.telemHead, R.telemSeq, R.telemLost, R.telemCselKind, R.telemCselInst, R.telemCselCnt]
  ++ [R.telemCvalLoValLo, R.telemCvalHiValHi, R.telemTselTid, R.telemTselMgmt, R.telemEujLoUjLo, R.telemEujHiUjHi, R.telemEremFj, R.telemEtabFj, R.telemQselPort, R.telemQselVc, R.telemQviewOutprev, R.telemQviewIngprev]

/-- The named fields of the DET page type. -/
def detFields : List Fld :=
  [R.detFpLo, R.detFpHi, R.detSfpLo, R.detSfpHi, R.detFpTickLo, R.detFpTickHi, R.detFpGen, R.detFpPending, R.detExcRefresh, R.detExcRetrans, R.detExcLastLo, R.detExcLastHi, R.detExcCause, R.detRecCtlEn, R.detRecCtlDigest, R.detRecCtlRing]
  ++ [R.detRecCtlOutput, R.detRecCtlHost, R.detRecCtlOwnerMgmt, R.detRecCtlOwner, R.detRecPortsLo, R.detRecPortsHi, R.detRecBase, R.detRecTids, R.detRecLen, R.detRecState, R.detRecCode, R.detRecWrapped, R.detRecWptr, R.detRecEntries, R.detRecLost, R.detRpCtlEn]
  ++ [R.detRpCtlInject, R.detRpCtlCmp, R.detRpCtlTiming, R.detRpCtlClr, R.detRpDeltaLo, R.detRpDeltaHi, R.detRpPortsLo, R.detRpPortsHi, R.detRpBase, R.detRpState, R.detRpCode, R.detRpRptr, R.detRpLate, R.detCmpBTick, R.detCmpBTickh, R.detCmpBPort]
  ++ [R.detCmpBKind, R.detCmpBValid, R.detCmpBSeid, R.detCmpBTid, R.detCmpBClass, R.detCmpBDeid, R.detCmpBFlit, R.detCmpTTick, R.detCmpTTickh, R.detCmpTPort, R.detCmpTKind, R.detCmpTValid, R.detCmpTExc, R.detCmpCnt]

/-- The named fields of the HOOP page type. -/
def hoopFields : List Fld :=
  [R.hoopSplitA, R.hoopSplitB, R.hoopSplitC, R.hoopCfgSpill, R.hoopCfgDrsv, R.hoopPoolSize, R.hoopPoolFree, R.hoopPoolState, R.hoopPoolRsv, R.hoopPoolLowmark, R.hoopPoolHead, R.hoopMinfreeMin, R.hoopQselTid, R.hoopQuotaLimit, R.hoopQuseUsed, R.hoopCmdOp]
  ++ [R.hoopCmdTid, R.hoopCmdMgmt, R.hoopCmdInst, R.hoopCmdArgArg, R.hoopCmdResStatus, R.hoopCmdResDone, R.hoopCmdHandleHandle, R.hoopRebuildStart, R.hoopErrCellHandle, R.hoopErrOwnerOwner, R.hoopErrOwnerStatus, R.hoopDfree, R.hoopOwnerr, R.hoopNotlast, R.hoopSpills, R.hoopNocell]
  ++ [R.hoopQwait]

/-- The named fields of the HARP page type. -/
def harpFields : List Fld :=
  [R.harpCfgWinc, R.harpCfgWdec, R.harpCfgWmin, R.harpCfgWinit, R.harpRowselNode, R.harpWgtW, R.harpNallotAllot, R.harpHcrcDrop, R.harpUnroute, R.harpHoplim, R.harpEchoes, R.harpPicksLo, R.harpPicksHi]

/-- The named fields of the PLAN page type. -/
def planFields : List Fld :=
  [R.planCmdOp, R.planCmdSlot, R.planCmdOfs, R.planResCode, R.planResBusy, R.planResDone, R.planErrOfsOfs, R.planSlotselSlot, R.planSviewState, R.planSviewTid, R.planSviewDepth, R.planVPlanId, R.planVBaseLo, R.planVBaseHi, R.planVPeriod, R.planVOfs]
  ++ [R.planVHashLo, R.planVHashHi, R.planUsed, R.planRun, R.planPort, R.planXdir, R.planPeak, R.planLimit, R.planUnused, R.planLoads, R.planRejects]

/-- The named fields of the RNG page type. -/
def rngFields : List Fld :=
  [R.rngPselLane, R.rngPolyTapa, R.rngPolyTapb, R.rngPolyTapc, R.rngTselSeg, R.rngTselTab, R.rngTcCoef, R.rngPseedLo, R.rngPseedHi, R.rngPctxGroup, R.rngPctxCid, R.rngPchunkChunk, R.rngPposTile, R.rngPposStep, R.rngPcmdSeed, R.rngPcmdLeap]
  ++ [R.rngPstateStateLo, R.rngPstateStateHi, R.rngDrawsLo, R.rngDrawsHi]

/-- The named fields of the PORT page type. -/
def portFields : List Fld :=
  [R.portLinkState, R.portLinkPs, R.portLinkNakrsn, R.portPsctlTgt, R.portPsctlAllow1, R.portPsctlAllow2, R.portGrant, R.portTxcredEven, R.portTxcredOdd, R.portMsgNextMsn, R.portMsgMackIn, R.portMsgMackOut, R.portLsnTx, R.portLsnRx, R.portPoison, R.portHdrDrop]
  ++ [R.portNotRecv, R.portRefused, R.portReplays, R.portCsyncFlits, R.portProto, R.portDlvCfgRto, R.portDlvCfgRtoMax, R.portDlvCfg2Gap, R.portDlvCfg2EgressMax, R.portLedgerUsed, R.portLedgerPeak, R.portDlvHeldSrc, R.portDlvHeldDst, R.portAccLo, R.portAccHi, R.portDlvdLo]
  ++ [R.portDlvdHi, R.portRtAborted, R.portRtUndeliv, R.portRtKilled, R.portRtRejected, R.portRetx, R.portTimeout, R.portNakRx, R.portExcl, R.portGapRt, R.portDupRx, R.portWinDrop, R.portCrcBad, R.portWait, R.portLifeDrop, R.portEgResend]
  ++ [R.portDlvDieFlows, R.portDlvRlogUsed, R.portCcMarkThresh, R.portCcMarkEn, R.portCcDropThresh, R.portCcDropEn, R.portCcRateRinit, R.portCcRateAi, R.portCcRminRmin, R.portCcDepthIngress, R.portCcDepthOutmax, R.portMarks, R.portEchoRx, R.portCuts, R.portWhSf, R.portCcFselFlow]
  ++ [R.portCcFviewRate, R.portCcFviewEchoed, R.portCcFviewElig, R.portTwgtW, R.portTcapCap]

/-- The named fields of the LANEQ page type. -/
def laneqFields : List Fld :=
  [R.laneqPstatState, R.laneqPstatReversed, R.laneqPstatCentred, R.laneqPstatSkew, R.laneqPctlRehunt, R.laneqLatRxlat, R.laneqLatCurlat, R.laneqLaneLstatCdrLock, R.laneqLaneLstatBlLock, R.laneqLaneLstatSfLock, R.laneqLaneLstatHintPol, R.laneqLaneLstatSfOfs, R.laneqLaneLstatLogical, R.laneqLaneEqTxPre2, R.laneqLaneEqTxPre1, R.laneqLaneEqTxMain]
  ++ [R.laneqLaneEqTxPost1, R.laneqLaneEqRxCtle, R.laneqLaneEqRxDfe1, R.laneqLaneEqRxDfe2, R.laneqLaneEqRxDfe3, R.laneqLaneEqRx2Dfe4, R.laneqLaneEqRx2Dfe5, R.laneqLaneEqRx2Pol, R.laneqLaneEqRx2Flags, R.laneqLanePhasePi, R.laneqLanePhaseFill, R.laneqLaneCorrLoCorr, R.laneqLaneCorrHiCorr, R.laneqLaneUncorr, R.laneqLaneBadhdr, R.laneqLaneLossBlLoss]
  ++ [R.laneqLaneLossSfLoss, R.laneqLaneMargin, R.laneqLaneSlip]

/-- The named fields of the VAT page type. -/
def vatFields : List Fld :=
  [R.vatStatState, R.vatStatBusy, R.vatStatGated, R.vatStatLogical, R.vatStatLvalid, R.vatStatQdepth, R.vatStatRsteps, R.vatCurGroup, R.vatCurTid, R.vatCurStep, R.vatCurChunkChunk, R.vatFaultCause, R.vatFaultStep, R.vatFaultTick, R.vatInjectResidue, R.vatInjectRecipe]
  ++ [R.vatTiles, R.vatBusy, R.vatRange, R.vatCuts, R.vatRcorr, R.vatReexec, R.vatHeld, R.vatGated, R.vatRsv, R.vatDieServing, R.vatDieSpares, R.vatDieFenced, R.vatRecipeWord, R.vatSpStatWiping, R.vatSpStatPoisoned, R.vatSpStatWleft]
  ++ [R.vatBrineCfgStride, R.vatBrineStatCursor, R.vatBrinePassLastMs, R.vatBrinePassPasses, R.vatSpCeW, R.vatSpCeA, R.vatSpUe, R.vatSpFix, R.vatSpErrWord, R.vatSpErrClass, R.vatSpErrSrc, R.vatSpErrHandle, R.vatSpErrHvalid, R.vatSpErrStale, R.vatHselIndex, R.vatHentEntry]
  ++ [R.vatWipeAll]

/-- The named fields of the TEN page type. -/
def tenFields : List Fld :=
  [R.tenCtlEn, R.tenCtlKill, R.tenCtlDebugAllow, R.tenCtlHostCave, R.tenStatState, R.tenStatKeygen, R.tenStatLeft, R.tenKillAtKtickLo, R.tenKillAtKtickHi, R.tenPortsLo, R.tenPortsHi, R.tenVatVatmax, R.tenCntRefused, R.tenCntEgReject]

/-- The named fields of the CAVE page type. -/
def caveFields : List Fld :=
  [R.caveStatState, R.caveStatRate0, R.caveStatRate1, R.caveCe, R.caveUe, R.caveRefDelay, R.caveExtraRef, R.caveUeAddrLo, R.caveUeAddrHi, R.caveUeTid, R.caveUeMgmt, R.caveMgmtGib, R.caveMgmtGen, R.caveTselTid, R.caveTmapBase, R.caveTmapSize]
  ++ [R.caveTgenGen, R.caveShare0Vat, R.caveShare0Dma, R.caveShare0Host, R.caveShare1Rec, R.caveShare1Telem, R.caveShare1Sys, R.caveShstatGranted, R.caveShstatUnit, R.caveSweepActive, R.caveSweepMgmt, R.caveSweepTid]

/-- The named fields of the HOST page type. -/
def hostFields : List Fld :=
  [R.hostLinkSpeed, R.hostLinkWidth, R.hostLinkFlit, R.hostLinkCxl, R.hostLinkMemEn, R.hostLinkDstate, R.hostRidAllowRid, R.hostRidAllowValid, R.hostHmemBaseLo, R.hostHmemBaseHi, R.hostHmemSize, R.hostHmemValid, R.hostCwinDie, R.hostCwinMgmt, R.hostCwinValid, R.hostCwinTid]
  ++ [R.hostCwinGib, R.hostImodGap, R.hostPmeEn, R.hostPeerUr, R.hostBisnp]

/-- The named fields of the MBOX page type. -/
def mboxFields : List Fld :=
  [R.mboxLockLo, R.mboxLockHi, R.mboxStallLo, R.mboxStallHi, R.mboxDoneLo, R.mboxDoneHi, R.mboxBaddb, R.mboxOverwrite, R.mboxLat, R.mboxLatmax, R.mboxDbRing]

/-- The named fields of the DMA page type. -/
def dmaFields : List Fld :=
  [R.dmaQEn, R.dmaQIdle, R.dmaQSqdb, R.dmaQCqdb, R.dmaQSqHead, R.dmaQSqTail, R.dmaQCqHead, R.dmaQCqTail, R.dmaQCqWait, R.dmaQStalled, R.dmaQBytesLo, R.dmaQBytesHi, R.dmaQLasterr, R.dmaQErrslot]

/-- The named fields of the COLL page type. -/
def collFields : List Fld :=
  [R.collCmdGrp, R.collCmdOp, R.collCmdStatStatus, R.collSelGrp, R.collGviewValid, R.collGviewHome, R.collGviewLkind, R.collGviewState, R.collGviewStalled, R.collGviewTid, R.collGviewNmem, R.collQviewSqHead, R.collQviewSqTail, R.collCviewCqHead, R.collCviewCqTail, R.collCviewCqWait]
  ++ [R.collCurCid, R.collCurAlg, R.collCurNt, R.collCurTreeSwitched, R.collCurSlow, R.collCurTimingExact, R.collNextChunk, R.collDone, R.collUnderfill, R.collOverwrite, R.collDup, R.collTreesw, R.collAborts, R.collHeld, R.collSqdbTail, R.collCqdbHead]

/-- The named fields of the RT page type. -/
def rtFields : List Fld :=
  [R.rtNodeReach, R.rtNodeSelf, R.rtNodeDies, R.rtPathmaskMask, R.rtEidvV]

/-- The named fields of a page type, beside the common header's (tables of each chapter's Registers section). -/
def fieldsOf : PageType → List Fld
  | .hdr => hdrFields
  | .chip => chipFields
  | .tick => tickFields
  | .disc => discFields
  | .casc => cascFields
  | .errlog => errlogFields
  | .gpio => gpioFields
  | .smb => smbFields
  | .pwr => pwrFields
  | .sec => secFields
  | .telem => telemFields
  | .det => detFields
  | .hoop => hoopFields
  | .harp => harpFields
  | .plan => planFields
  | .rng => rngFields
  | .port => portFields
  | .laneq => laneqFields
  | .vat => vatFields
  | .ten => tenFields
  | .cave => caveFields
  | .host => hostFields
  | .mbox => mboxFields
  | .dma => dmaFields
  | .coll => collFields
  | .rt => rtFields

/-! Interrupt causes of PAGE_IRQ_STAT, one constant each (the chapters' interrupt-cause tables; R966). -/
namespace I
def chipAccess : Irq := ⟨.chip, 0⟩
def chipFenceChg : Irq := ⟨.chip, 1⟩
def tickOverrun : Irq := ⟨.tick, 0⟩
def tickSlow : Irq := ⟨.tick, 1⟩
def tickRundownDone : Irq := ⟨.tick, 2⟩
def tickCountWrap : Irq := ⟨.tick, 3⟩
def discJoined : Irq := ⟨.disc, 0⟩
def discConflict : Irq := ⟨.disc, 1⟩
def discHoldover : Irq := ⟨.disc, 2⟩
def discReparent : Irq := ⟨.disc, 3⟩
def discNewroot : Irq := ⟨.disc, 4⟩
def discOut : Irq := ⟨.disc, 5⟩
def discSkew : Irq := ⟨.disc, 6⟩
def discTakeover : Irq := ⟨.disc, 7⟩
def cascFormed : Irq := ⟨.casc, 0⟩
def cascRefused : Irq := ⟨.casc, 1⟩
def cascDieMissing : Irq := ⟨.casc, 2⟩
def cascTakeover : Irq := ⟨.casc, 3⟩
def cascIsolated : Irq := ⟨.casc, 4⟩
def cascFwdLost : Irq := ⟨.casc, 5⟩
def errlogSev (k : Nat) : Irq := ⟨.errlog, 0 + k⟩
def errlogStall : Irq := ⟨.errlog, 4⟩
def errlogWait : Irq := ⟨.errlog, 5⟩
def errlogWdog : Irq := ⟨.errlog, 6⟩
def gpioEdge (k : Nat) : Irq := ⟨.gpio, 0 + k⟩
def gpioConflict : Irq := ⟨.gpio, 16⟩
def smbArbLost : Irq := ⟨.smb, 0⟩
def smbNak : Irq := ⟨.smb, 1⟩
def smbTimeout : Irq := ⟨.smb, 2⟩
def smbTgtErr : Irq := ⟨.smb, 3⟩
def smbFlDone : Irq := ⟨.smb, 4⟩
def pwrThermPin : Irq := ⟨.pwr, 0⟩
def pwrTjWarn : Irq := ⟨.pwr, 1⟩
def pwrTjCrit : Irq := ⟨.pwr, 2⟩
def pwrAvsFail : Irq := ⟨.pwr, 3⟩
def pwrMode : Irq := ⟨.pwr, 4⟩
def secDbgChange : Irq := ⟨.sec, 0⟩
def secFuseDone : Irq := ⟨.sec, 1⟩
def telemRecord : Irq := ⟨.telem, 0⟩
def telemLost : Irq := ⟨.telem, 1⟩
def telemConflict : Irq := ⟨.telem, 2⟩
def telemRange : Irq := ⟨.telem, 3⟩
def detFpChange : Irq := ⟨.det, 0⟩
def detExc : Irq := ⟨.det, 1⟩
def detRecStop : Irq := ⟨.det, 2⟩
def detRecGap : Irq := ⟨.det, 3⟩
def detRpDone : Irq := ⟨.det, 4⟩
def detCmpBit : Irq := ⟨.det, 5⟩
def detCmpTime : Irq := ⟨.det, 6⟩
def hoopQuarantine : Irq := ⟨.hoop, 0⟩
def hoopRebuilt : Irq := ⟨.hoop, 1⟩
def hoopReject : Irq := ⟨.hoop, 2⟩
def hoopLow : Irq := ⟨.hoop, 3⟩
def hoopRetired : Irq := ⟨.hoop, 4⟩
def harpHcrc : Irq := ⟨.harp, 0⟩
def harpUnroute : Irq := ⟨.harp, 1⟩
def harpHoplim : Irq := ⟨.harp, 2⟩
def planPending : Irq := ⟨.plan, 0⟩
def planRejected : Irq := ⟨.plan, 1⟩
def planActive : Irq := ⟨.plan, 2⟩
def planUnloaded : Irq := ⟨.plan, 3⟩
def planActFail : Irq := ⟨.plan, 4⟩
def planEcc : Irq := ⟨.plan, 5⟩
def portActive : Irq := ⟨.port, 0⟩
def portLost : Irq := ⟨.port, 1⟩
def portPs : Irq := ⟨.port, 2⟩
def portProto : Irq := ⟨.port, 3⟩
def portCsync : Irq := ⟨.port, 4⟩
def portReplay : Irq := ⟨.port, 5⟩
def portRundownDone : Irq := ⟨.port, 6⟩
def portUndeliv : Irq := ⟨.port, 16⟩
def portLedgerFull : Irq := ⟨.port, 17⟩
def portFlowFull : Irq := ⟨.port, 18⟩
def portRlogFull : Irq := ⟨.port, 19⟩
def portGap : Irq := ⟨.port, 20⟩
def portMarking : Irq := ⟨.port, 8⟩
def portWithhold : Irq := ⟨.port, 9⟩
def portAtRmin : Irq := ⟨.port, 10⟩
def laneqPortUp : Irq := ⟨.laneq, 0⟩
def laneqPortDown : Irq := ⟨.laneq, 1⟩
def laneqUncorr : Irq := ⟨.laneq, 2⟩
def laneqLatShift : Irq := ⟨.laneq, 3⟩
def laneqEqBad : Irq := ⟨.laneq, 4⟩
def laneqAlignBad : Irq := ⟨.laneq, 5⟩
def laneqDrift : Irq := ⟨.laneq, 6⟩
def vatFenced : Irq := ⟨.vat, 0⟩
def vatTook : Irq := ⟨.vat, 1⟩
def vatHandle : Irq := ⟨.vat, 2⟩
def vatNoSpare : Irq := ⟨.vat, 3⟩
def vatRcorr : Irq := ⟨.vat, 4⟩
def vatCut : Irq := ⟨.vat, 5⟩
def vatRundownDone : Irq := ⟨.vat, 6⟩
def vatUe : Irq := ⟨.vat, 8⟩
def vatPoison : Irq := ⟨.vat, 9⟩
def vatHard : Irq := ⟨.vat, 10⟩
def vatWipeDone : Irq := ⟨.vat, 11⟩
def vatBrineLate : Irq := ⟨.vat, 12⟩
def tenKilling (k : Nat) : Irq := ⟨.ten, 0 + 4 * k⟩
def tenKillDone (k : Nat) : Irq := ⟨.ten, 1 + 4 * k⟩
def caveCe : Irq := ⟨.cave, 0⟩
def caveUe : Irq := ⟨.cave, 1⟩
def caveRate : Irq := ⟨.cave, 2⟩
def caveHot : Irq := ⟨.cave, 3⟩
def caveFail : Irq := ⟨.cave, 4⟩
def caveConflict : Irq := ⟨.cave, 5⟩
def hostLinkUp : Irq := ⟨.host, 0⟩
def hostLinkDown : Irq := ⟨.host, 1⟩
def hostPeerUr : Irq := ⟨.host, 2⟩
def hostHostErr : Irq := ⟨.host, 3⟩
def hostWake : Irq := ⟨.host, 4⟩
def hostFlr : Irq := ⟨.host, 5⟩
def mboxUnderfill : Irq := ⟨.mbox, 0⟩
def mboxOverwrite : Irq := ⟨.mbox, 1⟩
def mboxBadDb : Irq := ⟨.mbox, 2⟩
def dmaComplete (k : Nat) : Irq := ⟨.dma, 0 + 1 * k⟩
def dmaUnderfill (k : Nat) : Irq := ⟨.dma, 4 + 1 * k⟩
def dmaOverwrite (k : Nat) : Irq := ⟨.dma, 8 + 1 * k⟩
def dmaErr (k : Nat) : Irq := ⟨.dma, 12 + 1 * k⟩
def collComplete : Irq := ⟨.coll, 0⟩
def collUnderfill : Irq := ⟨.coll, 1⟩
def collOverwrite : Irq := ⟨.coll, 2⟩
def collTreeSw : Irq := ⟨.coll, 3⟩
def collAborted : Irq := ⟨.coll, 4⟩
def collMember : Irq := ⟨.coll, 5⟩
def collRundownDone : Irq := ⟨.coll, 6⟩
end I

/-- The causes a page type defines; every other bit of PAGE_IRQ_EN and PAGE_IRQ_STAT reads 0 (R966). -/
def irqMask : PageType → Nat
  | .hdr => 0x0
  | .chip => 0x3
  | .tick => 0xf
  | .disc => 0xff
  | .casc => 0x3f
  | .errlog => 0x7f
  | .gpio => 0x1ffff
  | .smb => 0x1f
  | .pwr => 0x1f
  | .sec => 0x3
  | .telem => 0xf
  | .det => 0x7f
  | .hoop => 0x1f
  | .harp => 0x7
  | .plan => 0x3f
  | .rng => 0x0
  | .port => 0x1f077f
  | .laneq => 0x7f
  | .vat => 0x1f7f
  | .ten => 0x3333
  | .cave => 0x3f
  | .host => 0x3f
  | .mbox => 0x7
  | .dma => 0xffff
  | .coll => 0x7f
  | .rt => 0x0

/-- Offsets of the low registers of the pairs marked "64" (R954). -/
def pairsOf : PageType → List Nat
  | .hdr => []
  | .chip => [0x48]
  | .tick => [0x48, 0x58]
  | .disc => [0x54, 0x5c]
  | .casc => [0x88]
  | .errlog => []
  | .gpio => []
  | .smb => []
  | .pwr => []
  | .sec => [0x5c]
  | .telem => [0x48, 0x68, 0x74]
  | .det => [0x40, 0x48, 0x50, 0x64, 0xc4]
  | .hoop => []
  | .harp => [0x6c]
  | .plan => [0x58, 0x64]
  | .rng => [0x58, 0x70, 0x78]
  | .port => [0x410, 0x418]
  | .laneq => [0x94, 0xd4, 0x114, 0x154]
  | .vat => []
  | .ten => [0x48, 0x448, 0x848, 0xc48]
  | .cave => [0x54]
  | .host => []
  | .mbox => []
  | .dma => [0x54, 0x74, 0x94, 0xb4]
  | .coll => []
  | .rt => []

end Sys2Proof.Machine
end

