-- ==== Sys2Proof/Config.lean ====
section
/-!
DEFINITION. Config.lean: the values the spec leaves open, as constants with no body. Nothing in Lean can evaluate one, so a
statement that holds here holds for every value. Each is named in the assumption log.
-/
namespace Sys2Proof
namespace Config

/-- A free value of `w` bits, one per value of the counter `State.fresh` (log entry 3). -/
opaque freeBits : (w : Nat) → Nat → BitVec w

/-- The fabric cycle at which the command numbered by the counter is served; no command carries it (log entry 4). -/
opaque cycleOf : Nat → Nat

/-- Is a TRUNK or STACK port of a sibling die ACTIVE, at the moment the counter numbers? The sibling's link states lie outside this die
(log entry 12). For numbers from 64 on: is the sibling's cave controller of that number less 64 READY? -/
opaque sibUp : Nat → Nat → Nat → Bool

/-- exp of an FP32 bit pattern, where R559 bounds the result and does not give it (log entry 20). -/
opaque exp32 : BitVec 32 → BitVec 32

/-- The FP32 coefficients of the Gumbel table (`false`) and the normal table (`true`): row, then 0 to 2 (R606 to R609; log
entry 21). -/
opaque coef : Bool → Nat → Nat → BitVec 32

end Config
end Sys2Proof
end

