-- ==== Sys2Proof/Machine/Formats.lean ====
section
/-!
DEFINITION. Machine/Formats.lean: the number formats (spec 12): what every encoding is worth, exact values, the four roundings, and
how a list of exact results is packed into a tile of any format, MX and WP40 included.
-/
namespace Sys2Proof.Machine

/-- What an encoding is worth: NaN, an infinity, or (-1)^neg · m · 2^e (R529, R530). -/
inductive Val where
  | nan
  | inf (neg : Bool)
  | fin (neg : Bool) (m : Nat) (e : Int)
  deriving DecidableEq, Repr

/-- An exact result before its rounding: NaN, an infinity, or (-1)^neg · n/d · 2^e, with STICKY when the exact value lies beyond it
(R540). -/
inductive Res where
  | nan
  | inf (neg : Bool)
  | num (neg : Bool) (n d : Nat) (e : Int) (sticky : Bool)
  deriving DecidableEq, Repr

/-- A value as a result. -/
def Val.res : Val → Res
  | .nan => .nan
  | .inf s => .inf s
  | .fin s m e => .num s m 1 e false

/-- Is the value zero? -/
def Val.isZero : Val → Bool
  | .fin _ m _ => m == 0
  | _ => false

/-- Is the value NaN? -/
def Val.isNan : Val → Bool
  | .nan => true
  | _ => false

/-- The sign of a value that is not NaN. -/
def Val.neg : Val → Bool
  | .nan => false
  | .inf s => s
  | .fin s _ _ => s

/-- +0 -/
def Val.zero : Val := .fin false 0 0

/-- The exact product, as IEEE 754 has it (R493). -/
def Val.mul : Val → Val → Val
  | .nan, _ => .nan
  | _, .nan => .nan
  | .inf s, .inf t => .inf (s != t)
  | .inf s, .fin t m _ => if m = 0 then .nan else .inf (s != t)
  | .fin s m _, .inf t => if m = 0 then .nan else .inf (s != t)
  | .fin s m e, .fin t n f => .fin (s != t) (m * n) (e + f)

/-- A finite value as an integer multiple of 2^k, for k at most its exponent. -/
def scaled (s : Bool) (m : Nat) (e k : Int) : Int :=
  let a : Int := (m * 2 ^ (e - k).toNat : Nat)
  if s then -a else a

/-- The exact sum; x + (-x) is +0, and (-0) + (-0) is -0. -/
def Val.add : Val → Val → Val
  | .nan, _ => .nan
  | _, .nan => .nan
  | .inf s, .inf t => if s = t then .inf s else .nan
  | .inf s, .fin _ _ _ => .inf s
  | .fin _ _ _, .inf t => .inf t
  | .fin s m e, .fin t n f =>
    let k := min e f
    let x := scaled s m e k + scaled t n f k
    .fin (if x = 0 then s && t else decide (x < 0)) x.natAbs k

/-- The value with its sign turned. -/
def Val.negate : Val → Val
  | .nan => .nan
  | .inf s => .inf (!s)
  | .fin s m e => .fin (!s) m e

/-- Order of two values that are not NaN, with -0 below +0 (R495, R551). -/
def Val.lt : Val → Val → Bool
  | .inf true, .inf true => false
  | .inf true, _ => true
  | _, .inf true => false
  | .inf false, _ => false
  | _, .inf false => true
  | .fin s m e, .fin t n f =>
    let k := min e f
    let x := scaled s m e k
    let y := scaled t n f k
    decide (x < y) || (x == y && m == 0 && s && !t)
  | _, _ => false

/-- Equality of two values as numbers. -/
def Val.same : Val → Val → Bool
  | .inf s, .inf t => s == t
  | .fin s m e, .fin t n f =>
    let k := min e f
    scaled s m e k == scaled t n f k
  | _, _ => false

/-! ### Elements -/

/-- A floating element format: exponent bits, fraction bits, bias, and its specials: 0 IEEE, 1 E4M3, 2 none (table Format codes). -/
structure FloatFmt where
  eb : Nat
  fb : Nat
  bias : Nat
  kind : Nat
  deriving DecidableEq, Repr

/-- The element format of a float or MX float code. -/
def floatFmt : Nat → Option FloatFmt
  | 0x0 => some ⟨11, 52, 1023, 0⟩
  | 0x1 => some ⟨8, 23, 127, 0⟩
  | 0x2 => some ⟨5, 10, 15, 0⟩
  | 0x3 => some ⟨8, 7, 127, 0⟩
  | 0x4 => some ⟨4, 3, 7, 1⟩
  | 0x5 => some ⟨5, 2, 15, 0⟩
  | 0x6 => some ⟨4, 3, 7, 1⟩
  | 0x7 => some ⟨3, 2, 3, 2⟩
  | 0x8 => some ⟨2, 1, 1, 2⟩
  | _ => none

/-- Bits of an element (R525); a WP40 value has none of its own. -/
def elemBits : Nat → Nat
  | 0x0 => 64
  | 0x1 => 32
  | 0x2 => 16
  | 0x3 => 16
  | 0x4 => 8
  | 0x5 => 8
  | 0x6 => 8
  | 0x7 => 6
  | 0x8 => 4
  | 0x9 => 8
  | 0xA => 32
  | 0xB => 16
  | 0xC => 8
  | 0xD => 4
  | _ => 0

/-- Is the code an MX format? -/
def isMx (f : Nat) : Bool := decide (6 ≤ f ∧ f ≤ 9)

/-- Is the code an integer format? -/
def isInt (f : Nat) : Bool := decide (0xA ≤ f ∧ f ≤ 0xD)

/-- What a float element is worth (R529, R530). -/
def unpackFloat (f : FloatFmt) (b : Nat) : Val :=
  let s := b / 2 ^ (f.eb + f.fb) % 2 = 1
  let x := b / 2 ^ f.fb % 2 ^ f.eb
  let m := b % 2 ^ f.fb
  if x = 0 then .fin s m (1 - (f.bias : Int) - f.fb)
  else if f.kind = 0 ∧ x = 2 ^ f.eb - 1 then (if m = 0 then .inf s else .nan)
  else if f.kind = 1 ∧ x = 2 ^ f.eb - 1 ∧ m = 2 ^ f.fb - 1 then .nan
  else .fin s (2 ^ f.fb + m) ((x : Int) - f.bias - f.fb)

/-- What a two's complement element of `w` bits is worth, in units of 2^k. -/
def unpackInt (w b : Nat) (k : Int) : Val :=
  if b < 2 ^ (w - 1) then .fin false b k else .fin true (2 ^ w - b) k

/-- What an element's bits are worth, without an MX scale. -/
def unpackElem (f b : Nat) : Val :=
  match floatFmt f with
  | some ff => unpackFloat ff b
  | none => unpackInt (elemBits f) b (if f = 9 then -6 else 0)

/-- What an FP32 bit pattern is worth. -/
def fp32Val (b : Nat) : Val := unpackElem 1 b

/-- Bytes as one number, lowest first (R14, R525). -/
def bytesNat : List Byte → Nat
  | [] => 0
  | b :: r => b.toNat + 256 * bytesNat r

/-- `n` bytes of a number, lowest first. -/
def natBytes (n v : Nat) : List Byte := (List.range n).map (fun i => BitVec.ofNat 8 (v / 256 ^ i))

/-- Elements `0` to `n - 1` of a bit string of `w`-bit elements (R525). -/
def elemsOf (w n : Nat) (bs : List Byte) : List Nat :=
  let v := bytesNat bs
  (List.range n).map (fun i => v / 2 ^ (w * i) % 2 ^ w)

/-- Elements laid out as a bit string (R525). -/
def layElems (w : Nat) (es : List Nat) : List Byte :=
  natBytes ((w * es.length + 7) / 8) (es.foldr (fun e a => e % 2 ^ w + 2 ^ w * a) 0)

/-- An element of an MX block with scale byte `s` (R533, R534). -/
def mxVal (f s b : Nat) : Val := if s = 0xFF then .nan else (unpackElem f b).mul (.fin false 1 ((s : Int) - 127))

/-- Bytes of an MX superblock (R526). -/
def superBytes (f : Nat) : Nat := 8 + 32 * elemBits f

/-- The list cut into runs of `n` (R525 to R527). -/
def chunksOf {α : Type} (n : Nat) : Nat → List α → List (List α)
  | 0, _ => []
  | k + 1, l => if l.isEmpty then [] else l.take n :: chunksOf n k (l.drop n)

/-! ### WP40 (R552 to R557) -/

/-- One WP40 slot: sign and magnitude. -/
def slotOf (g i : Nat) : Bool × Nat := (g / 2 ^ (16 + 38 * i + 37) % 2 == 1, g / 2 ^ (16 + 38 * i) % 2 ^ 37)

/-- Is a group in double form? -/
def wpDouble (g : Nat) : Bool := g / 2 ^ 15 % 2 == 1

/-- What a special slot reads as (table WP40 special codes, R557). -/
def wpSpecial (s : Bool) (m : Nat) : Val :=
  match m % 4 with
  | 0 => .inf s
  | 2 => .inf s
  | _ => .nan

/-- The values of a group (R553, R554). -/
def wpVals (g : Nat) : List Val :=
  if wpDouble g then
    let x : Int := ((g / 2 ^ 12 % 8 * 256 + g % 256 : Nat) : Int) - 1024
    (List.range 4).map (fun j =>
      let hi := slotOf g (2 * j)
      let lo := slotOf g (2 * j + 1)
      if 2 ^ 36 ≤ hi.2 then wpSpecial hi.1 hi.2 else .fin hi.1 (hi.2 * 2 ^ 37 + lo.2) (x - 72))
  else
    let x : Int := ((g % 256 : Nat) : Int) - 128
    (List.range 8).map (fun i =>
      let s := slotOf g i
      if 2 ^ 36 ≤ s.2 then wpSpecial s.1 s.2 else .fin s.1 s.2 (x - 35))

/-- The groups of a WP40 tile. -/
def wpGroups (bs : List Byte) : List Nat := (chunksOf 40 (bs.length / 40) bs).map bytesNat

/-- The values of a source: its format, its bytes and how many values it holds. -/
def decodeVals (f : Nat) (bs : List Byte) (n : Nat) : List Val :=
  if f = 0xE then ((wpGroups bs).flatMap wpVals).take n
  else if isMx f then
    ((chunksOf (superBytes f) ((n + 255) / 256) bs).flatMap (fun sb =>
      (List.range 256).zip (elemsOf (elemBits f) 256 (sb.drop 8)) |>.map (fun p =>
        mxVal f ((sb.getD (p.1 / 32) 0).toNat) p.2))).take n
  else (elemsOf (elemBits f) n bs).map (unpackElem f)

/-- Bytes that `n` values take in a format, whole superblocks and groups (R525 to R527, R668). `dbl` is WP40's double form. -/
def tileBytes (f n : Nat) (dbl : Bool := false) : Nat :=
  if f = 0xE then 40 * (if dbl then (n + 3) / 4 else (n + 7) / 8)
  else if isMx f then superBytes f * ((n + 255) / 256)
  else (elemBits f * n + 7) / 8

/-! ### Rounding (R541, R542) -/

/-- ⌊log2 (n/d)⌋ of a positive fraction. -/
def fracLog2 (n d : Nat) : Int :=
  let k : Int := (n.log2 : Int) - d.log2
  if n * 2 ^ (-k).toNat < d * 2 ^ k.toNat then k - 1 else k

/-- |x| in units of 2^t as a fraction. -/
def inUnits (n d : Nat) (e t : Int) : Nat × Nat := (n * 2 ^ (e - t).toNat, d * 2 ^ (t - e).toNat)

/-- The magnitude rounded to units of 2^t under RND, with draw `r` for SR. -/
def roundUnits (rnd r : Nat) (neg : Bool) (n d : Nat) (e : Int) (sticky : Bool) (t : Int) : Nat :=
  let (a, b) := inUnits n d e t
  let q := a / b
  let m := a % b
  let up : Bool := match rnd with
    | 0 => decide (b < 2 * m) || (2 * m == b && (sticky || q % 2 == 1))
    | 1 => false
    | 2 => !neg && (sticky || m != 0)
    | _ => decide (r < a * 2 ^ 24 / b % 2 ^ 24)
  if up then q + 1 else q

/-- The canonical NaN of a float format (R531). -/
def canonNan (f : FloatFmt) : Nat :=
  if f.kind = 1 then 0x7F else (2 ^ f.eb - 1) * 2 ^ f.fb + (if f.eb = 5 ∧ f.fb = 2 then 2 else 2 ^ (f.fb - 1))

/-- The encoding of the largest finite magnitude. -/
def largest (f : FloatFmt) : Nat :=
  match f.kind with
  | 0 => (2 ^ f.eb - 1) * 2 ^ f.fb - 1
  | 1 => 2 ^ (f.eb + f.fb) - 2
  | _ => 2 ^ (f.eb + f.fb) - 1

/-- The magnitude encoding of q · 2^t, as if exponents had no end. -/
def floatCode (f : FloatFmt) (q : Nat) (t : Int) : Nat :=
  if q < 2 ^ f.fb then q
  else
    let (q, t) := if q = 2 ^ (f.fb + 1) then (2 ^ f.fb, t + 1) else (q, t)
    (t + f.fb + f.bias).toNat * 2 ^ f.fb + (q - 2 ^ f.fb)

/-- The magnitude encoding after a rounding, with no end of exponents. -/
def floatMag (f : FloatFmt) (rnd r : Nat) (neg : Bool) (n d : Nat) (e : Int) (sticky : Bool) : Nat :=
  let t := max (fracLog2 n d + e) (1 - (f.bias : Int)) - f.fb
  floatCode f (roundUnits rnd r neg n d e sticky t) t

/-- A result written to a float format (R531, R541, R545, R547). -/
def packFloat (f : FloatFmt) (rnd r : Nat) (x : Res) : Nat :=
  let sgn (s : Bool) : Nat := if s then 2 ^ (f.eb + f.fb) else 0
  match x with
  | .nan => canonNan f
  | .inf s => if f.kind = 0 then sgn s + (2 ^ f.eb - 1) * 2 ^ f.fb else if f.kind = 1 then 0x7F else sgn s + largest f
  | .num s n d e st =>
    if n = 0 then sgn s
    else
      let c := floatMag f rnd r s n d e st
      let big := decide (largest f < c)
      let infinite := (2 ^ f.eb - 1) * 2 ^ f.fb
      if f.kind ≠ 0 then sgn s + min c (largest f)
      else match rnd with
        | 0 => sgn s + (if big then infinite else c)
        | 1 => sgn s + min c (largest f)
        | 2 => if big && !s then infinite else sgn s + min c (largest f)
        | _ => if largest f < floatMag f 0 0 s n d e st then sgn s + infinite else sgn s + min c (largest f)

/-- The result rounded to an integer in units of 2^t, or none when it is NaN or infinite. -/
def roundInt (rnd r : Nat) (x : Res) (t : Int) : Option Int :=
  match x with
  | .num s n d e st =>
    if n = 0 then some 0
    else
      let q : Int := roundUnits rnd r s n d e st t
      some (if s then -q else q)
  | _ => none

/-- An integer written in `w` bits; `lo` and `hi` are the bounds of SAT. The flag says that it counts in VAT.RANGE (R501). -/
def packWide (w : Nat) (sat : Bool) (lo hi v : Int) : Nat × Bool :=
  let out := decide (v < -(2 ^ (w - 1) : Int)) || decide ((2 ^ (w - 1) : Int) - 1 < v) || (sat && (decide (v < lo) || decide (hi < v)))
  let v := if sat then max lo (min hi v) else v
  ((v % (2 ^ w : Int)).toNat, out)

/-- A result written to an integer format (R501, R547, R548). -/
def packInt (w rnd r : Nat) (sat : Bool) (x : Res) : Nat × Bool :=
  match roundInt rnd r x 0 with
  | some v => packWide w sat (-(2 ^ (w - 1) : Int)) ((2 ^ (w - 1) : Int) - 1) v
  | none => match x with
    | .inf true => (2 ^ (w - 1), true)
    | .inf false => (2 ^ (w - 1) - 1, true)
    | _ => (0, true)

/-! ### Packing tiles -/

/-- How a step packs: RND, SAT, and the pack draw of each output element (R543). -/
structure PackCtl where
  rnd : Nat
  sat : Bool
  draws : List Nat
  padk : Nat
  padv : Nat
  deriving DecidableEq, Repr

/-- The padding bits of an element (table Padding kinds). -/
def padElem (f padk padv : Nat) : Nat :=
  let w := elemBits f
  match padk with
  | 0 => 0
  | 1 => padv % 2 ^ w
  | k =>
    let s := k == 2
    match floatFmt f with
    | some ff => packFloat ff 0 0 (if f = 7 ∨ f = 8 then .num s (2 ^ 20) 1 0 false else .inf s) |> fun b =>
        if ff.kind = 1 then (if s then 2 ^ 7 else 0) + largest ff else b
    | none => if s then 2 ^ (w - 1) else 2 ^ (w - 1) - 1

/-- A result divided by 2^k. -/
def Res.shift (x : Res) (k : Int) : Res :=
  match x with
  | .num s n d e st => .num s n d (e - k) st
  | x => x

/-- ⌊log2⌋ of a result's magnitude, when it is finite and not zero. -/
def Res.log2 : Res → Option Int
  | .num _ n d e _ => if n = 0 then none else some (fracLog2 n d + e)
  | _ => none

/-- The greatest of optional exponents. -/
def maxExp (l : List (Option Int)) : Option Int :=
  l.foldl (fun a b => match a, b with
    | none, x => x
    | some a, some b => some (max a b)
    | some a, none => some a) none

/-- The exponent of the largest element (R535). -/
def mxEmax : Nat → Int
  | 6 => 8
  | 7 => 4
  | 8 => 2
  | _ => 0

/-- The scale byte of a block from its inputs that are not padding (R535). -/
def mxScale (f : Nat) (xs : List Res) : Nat :=
  match maxExp (xs.map Res.log2) with
  | none => 0
  | some p => (max 0 (min 254 (p - mxEmax f + 127))).toNat

/-- One element of an MX block, given the scale byte (R536, R537), and whether it counts in VAT.RANGE. -/
def mxElem (f s : Nat) (c : PackCtl) (r : Nat) (x : Res) : Nat × Bool :=
  let y := x.shift ((s : Int) - 127)
  match floatFmt f with
  | some ff => (packFloat ff c.rnd r y, false)
  | none => match roundInt c.rnd r y (-6) with
    | some v => packWide 8 c.sat (-127) 127 v
    | none => (0, true)

/-- Is a result NaN or infinite? -/
def Res.special : Res → Bool
  | .num _ _ _ _ _ => false
  | _ => true

/-- A block of 32: its scale byte, its elements and its RANGE count. Each input comes with its draw and whether it is a value of the tile;
`fill` says that the rest of the block is the output handle's padding (R527, R535 to R537, R585, R673). -/
def mxBlock (f : Nat) (c : PackCtl) (xs : List (Res × Nat × Bool)) : Nat × List Nat × Nat :=
  let pads := List.replicate (32 - xs.length) (padElem f c.padk c.padv)
  if xs.isEmpty then (0x7F, pads, 0)
  else
    let live := (xs.filter (fun x => x.2.2)).map (fun x => x.1)
    if f ≠ 6 ∧ xs.any (fun x => x.1.special) then
      (0xFF, List.replicate 32 0, if f = 9 then (xs.filter (fun x => x.1.special)).length else 0)
    else
      let s := if live.isEmpty then 0x7F else mxScale f live
      let es := xs.map (fun x => mxElem f s c x.2.1 x.1)
      (s, es.map (fun e => e.1) ++ pads, (es.filter (fun e => e.2)).length)

/-- A superblock (R526). -/
def mxSuper (f : Nat) (c : PackCtl) (xs : List (Res × Nat × Bool)) : List Byte × Nat :=
  let bl := (List.range 8).map (fun k => mxBlock f c ((xs.drop (32 * k)).take 32))
  (bl.map (fun b => BitVec.ofNat 8 b.1) ++ layElems (elemBits f) (bl.flatMap (fun b => b.2.1)), (bl.map (fun b => b.2.2)).sum)

/-- The slot content of padding (R585). -/
def wpPad (padk : Nat) : Nat := if padk = 2 then 2 ^ 37 + 2 ^ 36 else if padk = 3 then 2 ^ 36 else 0

/-- One value encoded for a group of exponent x, with `sh` bits below it and limit 2^lim: sign, magnitude or special code, and
whether STICKY, NAN, INF and OVF apply (R553, R554). -/
def wpSlot (lim sh x : Int) (v : Res) : Bool × Nat × Bool × Nat :=
  match v with
  | .nan => (false, 1, true, 0)
  | .inf s => (s, 0, true, 0)
  | .num s n d e st =>
    match v.log2 with
    | none => (s, if st then 1 else 0, false, if st then 1 else 0)
    | some l =>
      if lim ≤ l then (s, 2, true, 0)
      else
        let (a, b) := inUnits n d e (x - sh)
        let j := st || a % b != 0
        let m := a / b
        (s, if j ∧ m % 2 = 0 then m + 1 else m, false, if j then 1 else 0)

/-- A group of 8 or 4 values (R552 to R554); the values that are missing hold padding (R527, R585). -/
def wpGroup (dbl : Bool) (padk : Nat) (vs : List Res) : List Byte :=
  let lim : Int := if dbl then 1024 else 128
  let least : Int := if dbl then -1024 else -128
  let sh : Int := if dbl then 72 else 35
  let cap := if dbl then 4 else 8
  let x := match maxExp (vs.map (fun v => match v.log2 with
      | some l => if l < lim then some l else none
      | none => none)) with
    | some l => max l least
    | none => least
  let ss := vs.map (wpSlot lim sh x)
  let word (s : Bool × Nat × Bool × Nat) : Nat :=
    let sg := if s.1 then 2 ^ 37 else 0
    if s.2.2.1 then sg + 2 ^ 36 + s.2.1 else sg + s.2.1
  let slots : List Nat :=
    if dbl then ss.flatMap (fun s =>
      let sg := if s.1 then 2 ^ 37 else 0
      if s.2.2.1 then [sg + 2 ^ 36 + s.2.1, 0] else [sg + s.2.1 / 2 ^ 37, s.2.1 % 2 ^ 37])
    else ss.map word
  let pads := (List.replicate (cap - vs.length) (if dbl then [wpPad padk, 0] else [wpPad padk])).flatten
  let special (c : Nat) := ss.any (fun s => s.2.2.1 && s.2.1 == c)
  let padInf := decide (vs.length < cap) && (padk == 2 || padk == 3)
  let ex := if vs.isEmpty then 0 else (x - least).toNat
  let bit (b : Bool) (n : Nat) : Nat := if b then 2 ^ n else 0
  let head := ex % 256 + bit (special 1) 8 + bit (special 0 || padInf) 9 + bit (ss.any (fun s => s.2.2.2 == 1)) 10 + bit (special 2) 11
    + 2 ^ 12 * (ex / 256) + bit dbl 15
  natBytes 40 ((slots ++ pads).foldr (fun s a => s + 2 ^ 38 * a) 0 * 2 ^ 16 + head)

/-- The draw of an element. -/
def PackCtl.draw (c : PackCtl) (i : Nat) : Nat := c.draws.getD i 0

/-- Results packed into a tile of format `f`: the bytes and the RANGE count. `valid` of them are not padding (R673); `dbl` is the
form of a WP40 output (R546 to R550, R555). -/
def packTile (f : Nat) (dbl : Bool) (c : PackCtl) (valid : Nat) (xs : List Res) : List Byte × Nat :=
  if f = 0xE then ((chunksOf (if dbl then 4 else 8) xs.length xs).flatMap (wpGroup dbl c.padk), 0)
  else if isMx f then
    let ys := (List.range xs.length).zip xs |>.map (fun p => (p.2, c.draw p.1, decide (p.1 < valid)))
    let sb := (chunksOf 256 xs.length ys).map (mxSuper f c)
    (sb.flatMap (fun s => s.1), (sb.map (fun s => s.2)).sum)
  else match floatFmt f with
    | some ff => (layElems (elemBits f) ((List.range xs.length).zip xs |>.map (fun p => packFloat ff c.rnd (c.draw p.1) p.2)), 0)
    | none =>
      let es := (List.range xs.length).zip xs |>.map (fun p => packInt (elemBits f) c.rnd (c.draw p.1) c.sat p.2)
      (layElems (elemBits f) (es.map (fun e => e.1)), (es.filter (fun e => e.2)).length)

/-- A result rounded to FP32 under RNE. -/
def toFp32 (x : Res) : Nat := packFloat ⟨8, 23, 127, 0⟩ 0 0 x

/-- The padding of a whole tile of `n` values (R584, R585). -/
def padTile (f n padk padv : Nat) (dbl : Bool := false) : List Byte :=
  if f = 0xE then ((List.range (if dbl then (n + 3) / 4 else (n + 7) / 8)).map (fun _ => wpGroup dbl padk [])).flatten
  else if isMx f then
    ((List.range ((n + 255) / 256)).map (fun _ =>
      List.replicate 8 (0x7F : Byte) ++ layElems (elemBits f) (List.replicate 256 (padElem f padk padv)))).flatten
  else layElems (elemBits f) (List.replicate n (padElem f padk padv))

end Sys2Proof.Machine
end

