-- ==== Sys2Proof/Machine/Random.lean ====
section
/-!
DEFINITION. Machine/Random.lean: the random lanes (spec 14): the lane polynomials, a leap, the seeds, the order of draws, and the uniform,
Gumbel and normal values.
-/
namespace Sys2Proof.Machine

/-- The taps (a, b, c) of the 64 lanes (table Lane polynomials, R591). -/
def laneTaps : List (Nat × Nat × Nat) :=
  [(4, 3, 1), (63, 61, 60), (27, 14, 9), (55, 38, 11), (31, 22, 5), (47, 30, 18), (59, 41, 7), (13, 8, 6), (39, 26, 21), (51, 17, 3), (45, 36, 28), (23, 19, 2), (57, 44, 25), (35, 12, 10), (61, 49, 34), (19, 15, 7)]
  ++ [(43, 29, 14), (53, 46, 23), (29, 21, 16), (37, 11, 5), (49, 40, 31), (17, 10, 4), (62, 53, 27), (41, 33, 20), (25, 18, 13), (58, 37, 9), (33, 24, 6), (46, 27, 15), (15, 11, 3), (54, 42, 36), (38, 29, 22), (21, 9, 8)]
  ++ [(60, 48, 19), (44, 35, 12), (11, 7, 5), (52, 34, 29), (30, 25, 17), (56, 39, 2), (42, 23, 8), (7, 6, 4), (50, 45, 26), (34, 16, 13), (26, 20, 11), (48, 31, 24), (61, 58, 43), (18, 14, 1), (40, 32, 7), (57, 51, 38)]
  ++ [(28, 17, 15), (36, 27, 3), (53, 50, 44), (22, 13, 12), (46, 41, 35), (32, 19, 9), (59, 55, 30), (14, 10, 6), (44, 39, 21), (24, 16, 2), (55, 47, 32), (31, 28, 19), (62, 57, 41), (16, 12, 5), (49, 43, 37), (20, 18, 10)]

/-- The taps of a lane. -/
def tapsOf (l : Nat) : Nat × Nat × Nat := laneTaps.getD l (4, 3, 1)

/-- One bit of the sequence on (R592). -/
def lfsrBit (t : Nat × Nat × Nat) (s : BitVec 64) : BitVec 64 :=
  let b := (s >>> t.2.2) ^^^ (s >>> t.2.1) ^^^ (s >>> t.1) ^^^ s
  (s >>> 1) ||| (b <<< 63)

/-- A leap: 64 sequence bits on (R593). -/
def leap (t : Nat × Nat × Nat) (s : BitVec 64) : BitVec 64 := (List.range 64).foldl (fun s _ => lfsrBit t s) s

/-- The mixing of R596. -/
def mix (z : BitVec 64) : BitVec 64 :=
  let z := (z ^^^ (z >>> 32)) * 0xC4A715E392D86B0B#64
  let z := (z ^^^ (z >>> 29)) * 0x8F2D63A157C9E4F5#64
  z ^^^ (z >>> 32)

/-- The seed context of a tile (R595). -/
structure SeedCtx where
  pseed : BitVec 64
  group : BitVec 12
  cid : BitVec 16
  chunk : BitVec 32
  tile : BitVec 16
  deriving DecidableEq, Repr

/-- The seed of a lane (R596). -/
def seedOf (c : SeedCtx) (step lane : Nat) : BitVec 64 :=
  let g : BitVec 64 := c.group.setWidth 64 <<< 48 ||| c.cid.setWidth 64 <<< 32 ||| c.chunk.setWidth 64
  let a := mix (c.pseed ^^^ g)
  let p : BitVec 64 := c.tile.setWidth 64 <<< 16 ||| BitVec.ofNat 64 step <<< 8 ||| BitVec.ofNat 64 lane
  let s := mix (a ^^^ 0x5A17C3E90B64D28F#64 ^^^ p)
  if s = 0 then 1 else s

/-- A lane after `k` leaps from a state. -/
def leaps (t : Nat × Nat × Nat) : Nat → BitVec 64 → BitVec 64
  | 0, s => s
  | k + 1, s => leaps t k (leap t s)

/-- The draw a lane takes as its `k`-th, from 0 (R593, R596). -/
def laneDraw (c : SeedCtx) (step lane k : Nat) : Nat := (leaps (tapsOf lane) (k + 1) (seedOf c step lane)).toNat

/-- The operation draw of unit `i` (R600, R601). -/
def opDraw (c : SeedCtx) (step i : Nat) : Nat := laneDraw c step (i % 64) (i / 64)

/-- How many of the first `u` units a lane serves. -/
def laneUnits (u l : Nat) : Nat := (u + 63 - l) / 64

/-- The pack draw of element `i` after `u` units have drawn for the operation (R601, R602): 24 bits. -/
def packDraw (c : SeedCtx) (step u i : Nat) : Nat := laneDraw c step (i % 64) (laneUnits u (i % 64) + i / 64) % 2 ^ 24

/-! ### Values from a draw (R603 to R608) -/

/-- FP32 product under RNE. -/
def mul32 (a b : Nat) : Nat := toFp32 ((fp32Val a).mul (fp32Val b)).res

/-- FP32 sum under RNE. -/
def add32 (a b : Nat) : Nat := toFp32 ((fp32Val a).add (fp32Val b)).res

/-- FP32 difference under RNE. -/
def sub32 (a b : Nat) : Nat := toFp32 ((fp32Val a).add (fp32Val b).negate).res

/-- The uniform value of a 24-bit draw (R603). -/
def uniformVal (k : Nat) : Val := .fin false (2 * k + 1) (-25)

/-- The half, the segment and the fraction x, as an FP32 pattern, of a draw (R605). -/
def segmentOf (k : Nat) : Nat × Nat × Nat :=
  let h := k / 2 ^ 23 % 2
  let m := if h = 0 then k % 2 ^ 23 else 2 ^ 23 - 1 - k % 2 ^ 23
  let w := 2 * m + 1
  if w < 256 then (h, m, 0)
  else
    let e := w.log2
    let j := 24 * (w - 2 ^ e) / 2 ^ e
    (h, 128 + 24 * (e - 8) + j, toFp32 (.num false (24 * (w - 2 ^ e) - j * 2 ^ e) 1 (-(e : Int)) false))

/-- A segment row evaluated at x (R606). -/
def segmentVal (tab : Bool) (row x : Nat) : Nat :=
  let c (i : Nat) : Nat := (Config.coef tab row i).toNat
  add32 (c 0) (mul32 x (add32 (c 1) (mul32 x (c 2))))

/-- The Gumbel value of a draw, an FP32 pattern (R607). -/
def gumbel (k : Nat) : Nat :=
  let (h, s, x) := segmentOf k
  segmentVal false (512 * h + s) x

/-- The normal value of a draw (R608). -/
def normal (k : Nat) : Val :=
  let (h, s, x) := segmentOf k
  let y := fp32Val (segmentVal true s x)
  if h = 0 then y.negate else y

end Sys2Proof.Machine
end

