-- ==== Sys2Proof/Machine/VatMath.lean ====
section
/-!
DEFINITION. Machine/VatMath.lean: what each array step computes (spec 11, R484 to R501, R1060 to R1062; spec 12; spec 16, R681 to R705):
the step word's fields, the terms of a pass, the grid sum, and the result of every op as a packed tile.
-/
namespace Sys2Proof.Machine

/-! ### The step word (tables Step word and Step op codes) -/

/-- Bits `[lo + n - 1 : lo]` of a step word. -/
def swBits (w lo n : Nat) : Nat := w / 2 ^ lo % 2 ^ n

def swOp (w : Nat) : Nat := swBits w 0 5
def swLast (w : Nat) : Bool := swBits w 5 1 == 1
def swSat (w : Nat) : Bool := swBits w 6 1 == 1
def swMode (w : Nat) : Bool := swBits w 7 1 == 1
def swFin (w : Nat) : Nat := swBits w 8 4
def swFout (w : Nat) : Nat := swBits w 12 4
def swPasses (w : Nat) : Nat := swBits w 16 2
def swRnd (w : Nat) : Nat := swBits w 18 2
def swHin (w : Nat) : Nat := swBits w 20 6
def swHout (w : Nat) : Nat := swBits w 26 6
def swHaux (w : Nat) : Nat := swBits w 32 6
def swAuxv (w : Nat) : Bool := swBits w 38 1 == 1
/-- T, from 1 (R484); ops that work element by element ignore NTERM (R1062). -/
def swT (w : Nat) : Nat := swBits w 40 15 + 1
def swSlot (w : Nat) : Nat := swBits w 64 3

/-- The op's unit: 0 mover-in, 1 array, 2 mover-out (R481). -/
def swUnit (w : Nat) : Nat := if swOp w = 1 then 0 else if swOp w = 0xF ∨ swOp w = 0x10 then 2 else 1

/-- A source of a tile's region: its format, how many values it holds, how many are not padding, whether it is a child partial, and
its bytes (R667). -/
structure Src where
  fmt : Nat
  n : Nat
  valid : Nat
  child : Bool
  live : Nat
  bytes : List Byte
  deriving DecidableEq, Repr

/-- What a tile's recipe takes from its collective: the seed context, ROWLEN, the member of a SEPARATE tile, and the shape of the
tile: rows, columns per row, those inside the collective, and the first column (R670, R673, R692). -/
structure TileCtx where
  seed : SeedCtx
  rowlen : Nat
  member : Nat
  rows : Nat
  rowsIn : Nat
  cols : Nat
  colsIn : Nat
  col0 : Nat
  deriving DecidableEq, Repr

/-- Values of the tile that are inside the collective (R673), as a run from the first. -/
def TileCtx.valid (c : TileCtx) : Nat := if c.rows = 1 then c.colsIn else c.rowsIn * c.cols

/-- How many values bytes hold in a format. -/
def valuesIn (f : Nat) (bs : List Byte) : Nat :=
  if f = 0xE then ((wpGroups bs).map (fun g => if wpDouble g then 4 else 8)).sum
  else if isMx f then 256 * (bs.length / superBytes f)
  else 8 * bs.length / elemBits f

/-- The format a step reads a source in: a child partial is WP40, everything else FIN. -/
def Src.readAs (s : Src) (fin : Nat) : Nat := if s.child then 0xE else fin

/-- The values a step reads from a source. -/
def Src.vals (s : Src) (fin : Nat) : List Val :=
  let f := s.readAs fin
  decodeVals f s.bytes (if f = s.fmt then s.n else valuesIn f s.bytes)

/-- The values of a region, source after source. -/
def tileVals (fin : Nat) (t : List Src) : List Val := t.flatMap (fun s => s.vals fin)

/-- The bytes of a region. -/
def tileRaw (t : List Src) : List Byte := t.flatMap (fun s => s.bytes)

/-- The FP32 patterns of an auxiliary region (R1061). -/
def auxWords (t : List Src) : List Nat := elemsOf 32 ((tileRaw t).length / 4) (tileRaw t)

/-- Some source holds groups of both forms (R556). -/
def tileMixed (fin : Nat) (t : List Src) : Bool :=
  t.any (fun s => s.readAs fin == 0xE && (wpGroups s.bytes).any wpDouble && !(wpGroups s.bytes).all wpDouble)

/-- Some term is read from FP64 or from WP40 in double form (R555). -/
def tileDouble (fin : Nat) (t : List Src) : Bool :=
  t.any (fun s => s.readAs fin == 0 || (s.readAs fin == 0xE && (wpGroups s.bytes).any wpDouble))

/-! ### Terms and the grid (R489 to R494, R497, R698) -/

/-- A term: the value formed, and its e when it is finite and non-zero (R489). -/
structure Term where
  v : Val
  e : Option Int
  deriving DecidableEq, Repr

/-- The unbiased exponent of a normalised operand. -/
def Val.exp : Val → Option Int
  | .fin _ m e => if m = 0 then none else some (m.log2 + e)
  | _ => none

/-- A term that is no product. -/
def Term.plain (v : Val) : Term := ⟨v, v.exp⟩

/-- An operand's significand in 24 bits, with its exponent: an FP32 operand's as it stands, another's with its top bit at bit 23 (R497). -/
def sig24 (fp32 : Bool) (m : Nat) (e : Int) : Nat × Int :=
  if fp32 || decide (23 < m.log2) then (m, e) else (m * 2 ^ (23 - m.log2), e - (23 - m.log2 : Nat))

/-- A product with an FP32 factor under PASSES (R489, R493, R497). `fp32` says that the first operand is FP32. -/
def Term.prod (passes : Nat) (fp32 : Bool) (x k : Val) : Term :=
  let full := x.mul k
  match x, k with
  | .fin s m e, .fin t n f =>
    if m = 0 ∨ n = 0 then ⟨full, none⟩
    else
      let ex : Option Int := some ((m.log2 + e) + (n.log2 + f) + 1)
      let (a, ea) := sig24 fp32 m e
      if 3 ≤ passes ∨ 2 ^ 24 ≤ a then ⟨full, ex⟩
      else
        let hh := (a / 4096) * (n / 4096) * 2 ^ 24
        let hl := ((a / 4096) * (n % 4096) + (a % 4096) * (n / 4096)) * 2 ^ 12
        ⟨.fin (s != t) (if passes = 1 then hh else hh + hl) (ea + f), ex⟩
  | _, _ => ⟨full, none⟩

/-- A magnitude truncated onto the grid whose bit 0 weighs 2^k, and whether bits were discarded (R490). -/
def onGrid (m : Nat) (e k : Int) : Nat × Bool :=
  let sh := e - k
  if 0 ≤ sh then (m * 2 ^ sh.toNat, false) else (m / 2 ^ (-sh).toNat, m % 2 ^ (-sh).toNat != 0)

/-- E_max of an element's terms (R489). -/
def emaxOf (ts : List Term) : Option Int := maxExp (ts.map (fun t => t.e))

/-- The pass over an element's terms with the E_max of its scan (R490 to R494, R532, R544, R545). -/
def gridSum (emax : Option Int) (ts : List Term) : Res :=
  let nan := ts.any (fun t => t.v.isNan)
  let pinf := ts.any (fun t => t.v == .inf false)
  let ninf := ts.any (fun t => t.v == .inf true)
  if nan || (pinf && ninf) then .nan
  else if pinf then .inf false
  else if ninf then .inf true
  else match emax with
    | none => .num (!ts.isEmpty && ts.all (fun t => t.v.neg)) 0 1 0 false
    | some em =>
      let k := em - 79
      let ps := ts.map (fun t => match t.v with
        | .fin s m e => let (g, st) := onGrid m e k; ((if s then -(g : Int) else (g : Int)), st)
        | _ => ((0 : Int), false))
      let g : Int := (ps.map (fun p => p.1)).sum
      .num (decide (g < 0)) g.natAbs 1 k (ps.any (fun p => p.2))

/-! ### What a pass's terms are (R484, R485, R1060, R697, R698) -/

/-- The terms of every output element of a REDUCE, SCALE or COMBINE step. -/
def passTerms (w : Nat) (hin haux : List Src) : List (List Term) :=
  let fin := swFin w
  let vs : List (Val × Bool) := hin.flatMap (fun s => (s.vals fin).map (fun v => (v, s.child)))
  let fp := fin == 1
  let ps := swPasses w
  let t := swT w
  let aux := auxWords haux
  let at' (i : Nat) : Val × Bool := vs.getD i (Val.zero, true)
  if swMode w then
    (List.range (vs.length / t)).flatMap (fun v => (List.range 64).map (fun j =>
      (List.range t).filterMap (fun i =>
        let k := fp32Val (aux.getD (64 * i + j) 0)
        if swOp w = 5 ∧ k.isZero then none else some (Term.prod ps fp (at' (t * v + i)).1 k))))
  else
    let e := vs.length / t
    (List.range e).map (fun j => (List.range t).filterMap (fun i =>
      let x := at' (i * e + j)
      match swOp w with
      | 4 =>
        let k := if swBits w 64 1 = 1 then fp32Val (aux.getD j 0) else fp32Val (swBits w 96 32)
        some (Term.prod ps (fp && !x.2) x.1 k)
      | 5 =>
        match aux[if swBits w 64 2 = 1 then i * e + j else i]? with
        | some b =>
          if x.2 then some (Term.plain x.1)
          else
            let k := fp32Val b
            if k.isZero then none else some (Term.prod ps fp x.1 k)
        | none => some (Term.plain x.1)
      | _ => some (Term.plain x.1)))

/-- Does a step make a pass (R488)? -/
def isPass (w : Nat) : Bool := (swOp w == 3 && swBits w 64 2 == 0) || swOp w == 4 || swOp w == 5

/-- The pass that a scan serves: the first later pass of the recipe over the same operands (R496, R1060). -/
def servedBy (scan : Nat) (later : List Nat) : Option Nat :=
  later.find? (fun w => isPass w && swHin w == swHin scan && swAuxv w == swAuxv scan && (!swAuxv w || swHaux w == swHaux scan)
    && swT w == swT scan && swFin w == swFin scan && swPasses w == swPasses scan)

/-- The greatest or least term (R495). -/
def extremum (mx : Bool) (vs : List Val) : Val :=
  if vs.any Val.isNan then .nan
  else vs.tail.foldl (fun a v => if (if mx then a.lt v else v.lt a) then v else a) (vs.headD Val.zero)

/-! ### Row operators (R681 to R685, R691 to R696) -/

/-- exp of an FP32 value, with the cases that R559 fixes, and exp(0) = 1 as the worked case of R690 has it. -/
def exp32 (b : Nat) : Nat :=
  match fp32Val b with
  | .nan => 0x7FC00000
  | .inf true => 0
  | .inf false => 0x7F800000
  | .fin s m e =>
    if m = 0 then 0x3F800000
    else if !s && (Val.fin false 887228 0).lt ((Val.fin false m e).mul (.fin false 10000 0)) then 0x7F800000
    else if s && (Val.fin false 103973 0).lt ((Val.fin false m e).mul (.fin false 1000 0)) then 0
    else (Config.exp32 (BitVec.ofNat 32 b)).toNat

/-- Bytes of a state row of H + 1 values (R681). -/
def stateRowBytes (f h1 : Nat) : Nat := if f = 0xE then 8 + 40 * ((h1 + 7) / 8) else 8 + 8 * ((elemBits f * h1 + 63) / 64)

/-- A state row: M and its values. -/
def readRow (f h1 : Nat) (bs : List Byte) : Nat × List Val := (bytesNat (bs.take 4), decodeVals f (bs.drop 8) h1)

/-- The rows of a region of states. -/
def stateRows (fin h1 : Nat) (t : List Src) : List (Nat × List Val) :=
  t.flatMap (fun s =>
    let f := s.readAs fin
    (chunksOf (stateRowBytes f h1) s.bytes.length s.bytes).map (readRow f h1))

/-- The merge of one row's terms (R682, R683): M and the exact sums. -/
def mergeRow (h1 : Nat) (ts : List (Nat × List Val)) : Nat × List Res :=
  if ts.any (fun t => (fp32Val t.1).isNan || fp32Val t.1 == .inf false) then (0x7FC00000, List.replicate h1 .nan)
  else
    let mx := ts.foldl (fun a t => if (fp32Val a).lt (fp32Val t.1) then t.1 else a) 0xFF800000
    if fp32Val mx = .inf true then (0xFF800000, List.replicate h1 (.num false 0 1 0 false))
    else
      let fs := (ts.map (fun t => (fp32Val (if fp32Val t.1 = .inf true then 0 else exp32 (sub32 t.1 mx)), t.2))).filter
        (fun f => !f.1.isZero)
      (mx, (List.range h1).map (fun h =>
        let terms := fs.map (fun f => Term.prod 3 true (f.2.getD h Val.zero) f.1)
        gridSum (emaxOf terms) terms))

/-- A quotient of two exact sums (R685). -/
def Res.div : Res → Res → Res
  | .nan, _ => .nan
  | _, .nan => .nan
  | .inf _, .inf _ => .nan
  | .inf s, .num t _ _ _ _ => .inf (s != t)
  | .num s _ _ _ _, .inf t => .num (s != t) 0 1 0 false
  | .num s n d e st, .num t m c f su =>
    if m = 0 then (if n = 0 then .nan else .inf (s != t)) else .num (s != t) (n * c) (d * m) (e - f) (st || su)

/-- A candidate: an FP32 pattern and a global index (R691). -/
abbrev Cand := Nat × Nat

/-- NONE (R691). -/
def candNone : Cand := (0xFF800000, 0xFFFFFFFF)

/-- Does the first candidate outrank the second (R691)? -/
def outranks (a b : Cand) : Bool :=
  (fp32Val b.1).lt (fp32Val a.1) && !(fp32Val a.1).same (fp32Val b.1) || ((fp32Val a.1).same (fp32Val b.1) && decide (a.2 < b.2))

/-- A candidate placed in a list of falling rank. -/
def candPlace (c : Cand) : List Cand → List Cand
  | [] => [c]
  | x :: r => if outranks c x then c :: x :: r else x :: candPlace c r

/-- The `k` candidates of highest rank, filled with NONE (R696). -/
def bestOf (k : Nat) (cs : List Cand) : List Cand :=
  let l := (cs.foldl (fun l c => (candPlace c l).take k) [])
  l ++ List.replicate (k - l.length) candNone

/-- The candidates a row or piece offers: plain values are numbered by column, candidates keep their index (R692, R693, R695). Each
comes with its unit. -/
def rowCands (w : Nat) (c : TileCtx) (hin : List Src) (r : Nat) : List (Nat × Val × Nat) :=
  if swAuxv w then
    let raw := elemsOf 64 ((tileRaw hin).length / 8) (tileRaw hin)
    let t := swT w
    let k := raw.length / (t * c.rows)
    (List.range t).flatMap (fun i => (List.range k).filterMap (fun j =>
      let u := (i * c.rows + r) * k + j
      let b := raw.getD u 0
      let v := fp32Val (b % 2 ^ 32)
      if v.isNan || b / 2 ^ 32 == 0xFFFFFFFF then none else some (u, v, b / 2 ^ 32)))
  else
    let vs := tileVals (swFin w) hin
    (List.range (min c.cols c.colsIn)).filterMap (fun j =>
      let u := r * c.cols + j
      let v := vs.getD u .nan
      if v.isNan || decide (c.rowsIn ≤ r) then none else some (u, v, c.member * c.rowlen + c.col0 + j))

/-- The bytes of candidates (R691). -/
def candBytes (cs : List Cand) : List Byte := cs.flatMap (fun c => natBytes 4 c.1 ++ natBytes 4 c.2)

/-! ### Element operators -/

/-- min(max(x, LO), HI), with NaN passed through (R551). -/
def clampVal (lo hi x : Val) : Val :=
  match x with
  | .nan => .nan
  | x =>
    let y := if x.lt lo then lo else x
    if hi.lt y then hi else y

/-- A result of 0 in QUANT or DEQUANT is +0 (R702). -/
def Val.plusZero (v : Val) : Val := if v.isZero then Val.zero else v

/-- SCALE and ZP of an element from a parameter tile (R700). -/
def quantPair (aux : List Nat) (rowlen i : Nat) : Val × Int :=
  let p := i / max 1 rowlen
  let z := aux.getD (2 * p + 1) 0
  (fp32Val (aux.getD (2 * p) 0x3F800000), if z < 2 ^ 31 then (z : Int) else (z : Int) - 2 ^ 32)

/-- An integer as a value. -/
def intVal (z : Int) : Val := .fin (decide (z < 0)) z.natAbs 0

/-- x · 65,536 / (65,536 − P) (R704). -/
def rescale (p : Nat) : Val → Res
  | .fin s m e => .num s m (65536 - p) (e + 16) false
  | v => v.res

/-! ### The array's results -/

/-- What an array step gives: the E_max of a scan, the output source, RANGE counts, draws, and a mixed WP40 source (R556). -/
structure ArrayOut where
  emax : Option (List (Option Int))
  out : Option Src
  range : Nat
  draws : Nat
  mixed : Bool
  deriving DecidableEq, Repr

/-- A step that gives nothing. -/
def ArrayOut.none : ArrayOut := { emax := Option.none, out := Option.none, range := 0, draws := 0, mixed := false }

/-- Results packed under the step word into HOUT (R541 to R550); `units` have drawn for the operation. -/
def packOut (w ix : Nat) (c : TileCtx) (padk padv : Nat) (dbl : Bool) (units valid : Nat) (xs : List Res) : ArrayOut :=
  let f := swFout w
  let sr := swRnd w == 3 && f != 0xE
  let ctl : PackCtl := { rnd := swRnd w, sat := swSat w, padk := padk, padv := padv
                         draws := if sr then (List.range xs.length).map (packDraw c.seed ix units) else [] }
  let valid := min valid xs.length
  let p := packTile f dbl ctl valid xs
  { emax := none, range := p.2, draws := units + (if sr then xs.length else 0), mixed := false
    out := some { fmt := f, n := xs.length, valid := valid, child := false, live := tileBytes f valid dbl, bytes := p.1 } }

/-- Raw bytes written into HOUT, `live` of them inside the collective. -/
def rawOut (f n live draws : Nat) (bs : List Byte) : ArrayOut :=
  { emax := none, range := 0, draws := draws, mixed := false
    out := some { fmt := f, n := n, valid := n, child := false, live := live, bytes := bs } }

/-- A drawing step without a pack draw. -/
def candScores (w ix : Nat) (c : TileCtx) (hin : List Src) (r : Nat) : List Cand :=
  let tinv := fp32Val (swBits w 96 32)
  (rowCands w c hin r).map (fun x =>
    let g := fp32Val (gumbel (opDraw c.seed ix x.1 % 2 ^ 24))
    (toFp32 (if tinv = .inf false then x.2.1 else (x.2.1.mul tinv).add g).res, x.2.2))

/-- A state row as Kesil writes it: M, four zero bytes and WP40 groups in single form (R681, R684). -/
def stateRowOut (padk : Nat) (m : Nat) (vs : List Res) : List Byte :=
  natBytes 4 m ++ natBytes 4 0 ++ (chunksOf 8 vs.length vs).flatMap (wpGroup false padk)

/-- What an array step computes from its step word, its place in the recipe, the later steps, the tile, its regions, the E_max of the
latest scan and HOUT's padding. -/
def arrayStep (w ix : Nat) (later : List Nat) (c : TileCtx) (hin haux : List Src) (emax : List (Option Int)) (padk padv : Nat) :
    ArrayOut :=
  let fin := swFin w
  let aux := if swAuxv w then haux else []
  let dbl := tileDouble fin hin
  let vals := tileVals fin hin
  let aw := auxWords aux
  let pack := packOut w ix c padk padv dbl
  let idx (l : List Val) : List (Nat × Val) := (List.range l.length).zip l
  if swOp w != 0xE && (swOp w ≤ 6 || !swAuxv w) && tileMixed fin hin then { ArrayOut.none with mixed := true }
  else match swOp w with
    | 2 =>
      let served := (servedBy w later).getD (w - w % 32 + 3)
      { ArrayOut.none with emax := some ((passTerms served hin aux).map emaxOf) }
    | 3 =>
      let ts := passTerms w hin aux
      match swBits w 64 2 with
      | 0 => pack 0 c.valid ((List.range ts.length).zip ts |>.map (fun p => gridSum ((emax[p.1]?).getD (emaxOf p.2)) p.2))
      | k => pack 0 c.valid (ts.map (fun t => (extremum (k == 1) (t.map (fun x => x.v))).res))
    | 4 | 5 =>
      let ts := passTerms w hin aux
      let valid := if swMode w then ts.length else c.valid
      pack 0 valid ((List.range ts.length).zip ts |>.map (fun p => gridSum ((emax[p.1]?).getD (emaxOf p.2)) p.2))
    | 6 =>
      let h1 := c.rowlen + 1
      let rows := stateRows fin h1 hin
      let st := if swBits w 64 1 = 1 then [] else stateRows 0xE h1 haux
      let n := rows.length / swT w
      let merged := (List.range n).map (fun r => mergeRow h1
        (((List.range (swT w)).filterMap (fun i => rows[i * n + r]?)) ++ (st[r]?).toList))
      if swBits w 65 1 = 0 then
        let rb := stateRowBytes 0xE h1
        rawOut 0xE (n * h1) (rb * min n c.rowsIn) 0 (merged.flatMap (fun m => stateRowOut padk m.1 m.2))
      else
        pack 0 (c.rowsIn * c.rowlen) (merged.flatMap (fun m =>
          if fp32Val m.1 = .inf true then List.replicate c.rowlen (.num false 0 1 0 false)
          else m.2.tail.map (fun v => v.div (m.2.headD .nan))))
    | 7 =>
      let cs := (List.range c.rows).map (fun r => (bestOf 1 (candScores w ix c hin r)).headD candNone)
      rawOut 1 (2 * c.rows) (8 * c.rowsIn) (if swAuxv w then (tileRaw hin).length / 8 else vals.length) (candBytes cs)
    | 8 =>
      let k := swBits w 64 9 + 1
      let cs := (List.range c.rows).map (fun r => bestOf k ((rowCands w c hin r).map (fun x => (toFp32 x.2.1.res, x.2.2))))
      if swBits w 73 1 = 1 then rawOut 1 (2 * k * c.rows) (8 * k * c.rowsIn) 0 (cs.flatMap candBytes)
      else pack 0 (k * c.rowsIn) (cs.flatMap (fun l => l.map (fun x => (fp32Val x.1).res)))
    | 9 =>
      if swBits w 64 1 = 1 then pack 0 c.valid (vals.map (fun v => v.plusZero.res))
      else
        pack 0 c.valid ((idx vals).map (fun p =>
          let (sc, zp) := quantPair aw c.rowlen p.1
          let q := (p.2.mul sc).res
          match roundInt (swRnd w) (if swRnd w = 3 then packDraw c.seed ix 0 p.1 else 0) q 0 with
          | some v => (intVal (v + if swBits w 65 1 = 1 then zp else 0)).res
          | none => q))
    | 0xA =>
      pack 0 c.valid ((idx vals).map (fun p =>
        if isMx fin then p.2.plusZero.res
        else
          let (sc, zp) := quantPair aw c.rowlen p.1
          ((p.2.add (intVal (if swBits w 65 1 = 1 then -zp else 0))).mul sc).plusZero.res))
    | 0xB => pack 0 c.valid (vals.map Val.res)
    | 0xC => pack 0 c.valid (vals.map (fun v => (clampVal (fp32Val (swBits w 64 32)) (fp32Val (swBits w 96 32)) v).res))
    | 0xD =>
      let p := swBits w 64 16
      pack vals.length c.valid ((idx vals).map (fun x =>
        if opDraw c.seed ix x.1 % 2 ^ 16 < p then Val.zero.res
        else if swBits w 80 1 = 1 then rescale p x.2 else x.2.res))
    | 0xE =>
      let a := unpackElem 3 (swBits w 80 16)
      let b := unpackElem 3 (swBits w 96 16)
      let n := c.rows * c.cols
      pack n c.valid ((List.range n).map (fun i =>
        let k := opDraw c.seed ix i % 2 ^ 24
        (if swBits w 64 2 = 0 then a.add ((b.add a.negate).mul (uniformVal k)) else a.add (b.mul (normal k))).res))
    | _ => ArrayOut.none

/-- Vat cycles of an array step (tables Rate factors and Step costs, R499, R508); `e` is its output elements. -/
def arrayCycles (w : Nat) (later : List Nat) (hinBytes e : Nat) : Nat :=
  let g := (swT w + 15) / 16
  let r := (e + 63) / 64
  let fin := swFin w
  let mulC := if fin = 1 then max 1 (swPasses w) else if fin = 0xB then 3 else 1
  let addC := if fin = 0 then 4 else if fin = 0xA ∨ fin = 0xE then 2 else 1
  let col (c : Nat) : Nat := 12 + g * r * c
  match swOp w with
  | 2 => match servedBy w later with
    | some s => col (if swOp s = 3 then addC else mulC)
    | none => col addC
  | 3 => col addC
  | 4 | 5 => if swMode w then 28 + (8 * hinBytes / max 1 (elemBits fin)) / swT w * mulC else col mulC
  | 6 => 12 + 3 * g * r
  | 7 => 12 + 2 * r
  | 8 => 12 + 2 * r + (swBits w 64 9 + 1)
  | 9 => if swBits w 64 1 = 1 then 12 + 2 * r else 12 + r
  | _ => 12 + r

end Sys2Proof.Machine
end

