-- ==== Sys2Proof/Machine/State.lean ====
section
/-!
DEFINITION. Machine/State.lean: the state of one KS960 die as plain data, and its value right after a cold reset.
Simple register fields live in the register file `regs`; what the chapters describe beyond a register field has a part of
its own, and a register that shows such a part is computed from it when it is read (Machine/View.lean).
-/
namespace Sys2Proof.Machine

/-- Why the machine stops. No rule of the spec stops the block: every command ends in a next state. The one constructor
exists so that the type has a value; no meaning raises it (safe). -/
inductive Fault where
  | none
  deriving DecidableEq, Repr

/-- Why a command has no meaning. `notModelled`: raised by an arm of exec that no meaning stands behind yet, with the row's
mnemonic (safe: the machine stops where the hardware goes on). -/
inductive Refusal where
  | notModelled (mnemonic : String)
  deriving DecidableEq, Repr

/-! ### What the die gives to the outside -/

/-- How an access completes (table Access checks). -/
inductive Resp where
  | ok | ur | access | reset
  deriving DecidableEq, Repr

/-- The board pins the die drives (spec 25). -/
inductive Pin where
  | errFatal | malive | tickOut | wake | perfTrig | sw (n : Nat)
  deriving DecidableEq, Repr

/-- One flit position of a sent superframe: idle, or a flit of a VC (R205, R424). -/
inductive TxPos where
  | idle
  | flit (vc : Nat) (head : Bool)
  deriving DecidableEq, Repr

/-- What leaves the die, oldest first (log entry 5). -/
inductive Out where
  /-- A packet whose tail flit has left on a port. -/
  | packet (port : Nat) (p : Packet)
  /-- A superframe sent on a port: its 38 positions, its slot and its message with MSN, MACK and MLAST, and the 516 symbols of each physical lane. -/
  | superframe (port : Nat) (pos : List TxPos) (slot : Slot) (msg : Msg) (msn mack mlast : Nat) (lanes : List (List (BitVec 10)))
  /-- What a received superframe hands on: the flits of one segment, their VC, whether the first is a head, whether poisoned. -/
  | handFlits (port vc : Nat) (head poisoned : Bool) (bytes : List Byte)
  /-- A received message handed on to the command that serves it. -/
  | handMsg (port : Nat) (m : Msg)
  /-- A received slot handed on, with its MACK and MLAST. -/
  | handSlot (port : Nat) (s : Slot) (mack mlast : Nat)
  /-- The answer to an access. -/
  | answer (cls : Cls) (addr : Nat) (r : Resp) (data : List Byte)
  /-- An access forwarded to a sibling die over a STACK port (R140). -/
  | forward (port : Nat) (cls : Cls) (addr : Nat) (write : Bool) (data : List (Option Byte)) (len : Nat)
  /-- An MSI-X message of a vector (R854). -/
  | msix (v : Nat)
  /-- An interrupt of a die that is not the acting master, carried to it (table Vector map). -/
  | irqToMaster (v : Nat)
  /-- A pin driven to a level. -/
  | pin (p : Pin) (level : Bool)
  /-- A C0 heartbeat on a STACK port (R146). -/
  | heartbeat (port master : Nat)
  /-- A rennet arrival forwarded to the acting master in C0 (R280). -/
  | rnfwd (port arr : Nat)
  /-- Node credit totals sent to a sibling die (R322): (output, VC, total). -/
  | ncred (die : Nat) (totals : List (Nat × Nat × Nat))
  /-- A write to host memory over the host link. -/
  | hostWrite (addr : Nat) (data : List Byte)
  /-- A read of host memory over the host link. -/
  | hostRead (addr len : Nat)
  /-- A wake signalled to the host (R858): `true` as PM_PME, `false` on WAKE#. -/
  | wake (pme : Bool)
  /-- A message from one block of the node to another die's collective engine, tenant or plan logic (chapters 15, 17 to 19). -/
  | toDie (die : Nat) (what : String) (args : List Nat)
  /-- A transaction on the SMBus controller port (R967): target address and bytes. -/
  | smb (addr : Nat) (write : Bool) (data : List Byte)
  /-- A reply on the SMBus target port (R975). -/
  | smbReply (data : List Byte)
  /-- The completion of a hoop command: 0 ALLOC, 1 RELEASE, 2 FREE; status and handle (R455, R467 to R469). -/
  | hoopDone (op status : Nat) (handle : Nat)
  /-- A packet that passed a TRUNK or STACK port's checks and is consumed on this die, handed to the command that serves it. -/
  | handPacket (port : Nat) (p : Packet)
  /-- An SPDM response: its code and body. -/
  | spdm (code : Nat) (body : List Byte)
  /-- A flash command to the device (R983). -/
  | flash (cmd addr : Nat) (data : List Byte)
  deriving DecidableEq, Repr

/-! ### Error records (spec 22) -/

/-- One error record (table Error record, R892). -/
structure ErrRec where
  tick : BitVec 48
  cyc : BitVec 15
  code : BitVec 16
  sev : BitVec 2
  esc : Bool
  tidv : Bool
  mgmt : Bool
  fenced : Bool
  tid : BitVec 8
  page : BitVec 12
  die : BitVec 2
  epoch : BitVec 8
  drops : BitVec 8
  seq : BitVec 32
  detail : List Byte
  deriving DecidableEq, Repr

/-- An entry of the global log (R899): its slot, its record and its PEND mark. -/
structure LogEnt where
  slot : Nat
  r : ErrRec
  pend : Bool
  deriving DecidableEq, Repr

/-- The error logic of one page: its FIFO, head first (R894), the read index k, the DROPPED count, the DROPS that the next
record carries (R897), the stall as PAGE_ERR_CNT shows it, and whether it closes admission since an edge (R898). -/
structure PageErr where
  fifo : List ErrRec
  k : Nat
  dropped : Nat
  owed : Nat
  stall : Bool
  closed : Bool
  deriving DecidableEq, Repr

/-- The die's error log: the entries in the order in which they were written, the next SEQ, the records that wait for a
free entry (R899), and whether the watchdog has spoken since the latest KICK (R902). -/
structure ErrSt where
  log : List LogEnt
  pages : SMap PageErr
  seq : BitVec 32
  waiting : List (Nat × ErrRec)
  wdogLogged : Bool
  deriving DecidableEq, Repr

/-! ### The tick and run-downs (spec 02) -/

/-- The phases of a run-down (R90); `run` is a unit that is not in one. -/
inductive Phase where
  | run | closing | draining | idle
  deriving DecidableEq, Repr

/-- What an abort gives as its reason (R100, R1058). -/
inductive AbortKind where
  | none | aborted | killed
  deriving DecidableEq, Repr

/-- A unit's run-down: its phase, its bound D and the ticks left of it (R93), a clear that came early (R96), the abort that took it
over (R104), a reset, a gating or a fence that waits for IDLE (R98, R946, R914), and a re-opening that waits for the next edge. -/
structure RunDown where
  phase : Phase
  bound : Nat
  left : Nat
  cleared : Bool
  abort : AbortKind
  reset : Bool
  gate : Bool
  fence : Bool
  reopen : Bool
  deriving DecidableEq, Repr

/-- The tick: the counter (R68), the length code in force, which TICK.CFG.LEN reaches at an edge (R66), the run-downs by
unit key, the consecutive overrun ticks of each group and the groups in overrun at the latest edge (R83), and a DIE_FATAL record: 0 none, 1
raised, 2 from the next edge on (R904). -/
structure TickSt where
  count : BitVec 48
  len : BitVec 3
  rundown : SMap RunDown
  ovrRun : SMap Nat
  ovrNow : List Nat
  fatal : Nat
  deriving DecidableEq, Repr

/-! ### Interrupt messages (R854 to R856) -/

/-- MSI-X: enabled, masks, pending bits, and vectors whose moderation gap runs: key, with whether a cause set during it. -/
structure MsixSt where
  enabled : Bool
  unmasked : SMap Bool
  pba : SMap Bool
  gap : SMap (Option Bool)
  deriving DecidableEq, Repr

/-! ### Lanes and links (spec 04, 05) -/

/-- One physical lane beside its LANEQ registers: the header window of BL_LOCK (R169), the run of uncorrectable
superframes (R173), the descrambler's last 58 bits, newest first in bit 0 (R162), whether the superframe before was uncorrectable
(R164), the run of equal logical numbers (R176), the recorded FIFO fill (R185) and deskew depth (R180). -/
structure LaneSt where
  winPos : Nat
  winBad : Nat
  uncorrRun : Nat
  hist : BitVec 58
  badPrev : Bool
  logVal : Nat
  logRun : Nat
  fillRec : Option Nat
  deskew : Option Nat
  deriving DecidableEq, Repr

/-- Credit and packet state of one VC of a port (R226 to R231): flits sent, the latest RET received and
the first since INIT (the far end's G), flits attributed, RET as
counted, RET as last sent, whether it discards until the next HEAD, flits left of the open packet, the withheld count (R421),
and whether the open packet was poisoned. -/
structure VcSt where
  sent : BitVec 15
  retRx : BitVec 15
  gRx : Option (BitVec 15)
  rcv : BitVec 15
  ret : BitVec 15
  lastRet : BitVec 15
  discard : Bool
  openLeft : Nat
  withheld : Nat
  poisoned : Bool
  deriving DecidableEq, Repr

/-- A packet sent on a DROP egress that waits for its receipt: LSN, destination-flow index, FSEQ, VC, and the count k of its
tail flit (R241). A RESULT, which is no item (R644), has flow 65,536 + its group; the packet is kept to be sent again. -/
structure EgressOut where
  lsn : BitVec 16
  flow : Nat
  fseq : BitVec 32
  vc : Nat
  tailK : BitVec 15
  pkt : Packet
  deriving DecidableEq, Repr

/-- A port beside its PORT and LANEQ registers. -/
structure PortSt where
  lanes : SMap LaneSt
  vcs : SMap VcSt
  /-- Credits granted per used VC since INIT (R225). -/
  grantG : Nat
  /-- The port has come up before, so its deskew depths and latency are recorded (R180, R199). -/
  recorded : Bool
  /-- No reserved traffic until the link is measured again (R199). -/
  shifted : Bool
  /-- LANE_MAP_BAD and DESKEW_FAIL have been logged for the present bring-up (R177, R179). -/
  alignBad : Bool
  /-- Sequenced messages sent and not acknowledged, oldest first, with their MSN (R219). -/
  unacked : List (BitVec 6 × Msg)
  /-- Sequenced messages not yet sent. -/
  sendq : List Msg
  /-- Superframes without MACK progress (R220) and what is left of a replay. -/
  noProg : Nat
  replay : List (BitVec 6 × Msg)
  /-- MLAST as sent and as received, and the VC pairs whose CSYNC was requested or is due (R218, R221, R230). -/
  mlastOut : BitVec 6
  mlastIn : BitVec 6
  csyncReq : List (BitVec 2)
  csyncDue : List (BitVec 2)
  /-- The next VC pair of a CREDIT slot (R214), and whether a RENNET slot is due (R213). -/
  vcp : BitVec 2
  rennetDue : Bool
  /-- CREDIT slots and RX_SETTLED seen and sent since INIT (R243). -/
  credSeen : BitVec 4
  settledIn : Bool
  settledOut : Bool
  /-- The link power handshake: a request sent, and an agreed state (R245 to R248). -/
  psReq : Option (BitVec 2)
  psAgreed : Option (BitVec 2)
  /-- Superframes sent without flits (R245). -/
  quiet : Nat
  /-- Hello fragments received since INIT, by number (R255, R258), and as last sent (R257). -/
  hello : SMap (Option (BitVec 32))
  helloTx : SMap (Option (BitVec 32))
  /-- Egress packets that wait for their receipt (R237, R241). -/
  egressOut : List EgressOut
  txSeq : BitVec 8
  /-- The scramblers' histories by logical lane (R162). -/
  txHist : SMap (BitVec 58)
  /-- Kesil itself holds the lanes in this power state (R105, R110, R194, R915, R946). -/
  hold : Option (BitVec 2)
  /-- A hello failed the check of R110. -/
  mismatch : Bool
  /-- The port has left ACTIVE since the latest edge (R663). -/
  leftUp : Bool
  deriving DecidableEq, Repr

/-! ### The cascade and discovery (spec 03, 06) -/

/-- An access forwarded to a follower and not answered: tag, die, class, node address, write, length (R140 to R143). -/
structure FwdAcc where
  tag : Nat
  die : Nat
  cls : Cls
  addr : Nat
  write : Bool
  len : Nat
  epoch : BitVec 8
  ticks : Nat
  deriving DecidableEq, Repr

/-- The cascade beside the CASC registers: roles and attributes in force by port (R109), the wiring table's role and
attribute of every die's ports by 64 · die + port (R979), accesses forwarded and not answered, ticks without a packet from
each die (R904), whether a heartbeat and a MALIVE toggle came in the running tick (R148), the level of MALIVE, a
present-die mask announced for the next edge (R131), whether the board tables are valid (R193), and the board's node serial (R137). -/
structure CascSt where
  role : SMap (BitVec 2)
  attr : SMap (BitVec 4)
  wiring : SMap (BitVec 6)
  forwarded : List FwdAcc
  nextTag : Nat
  silent : SMap Nat
  hbSeen : Bool
  maSeen : Bool
  malive : Bool
  announced : Option (BitVec 4)
  tablesOk : Bool
  vrAddr : List Byte
  deriving DecidableEq, Repr

/-- Discovery beside the DISC registers. -/
structure DiscSt where
  /-- Walk counts sent and held: WX, WY, WZ, BX, BY, BZ (fragment 9). -/
  walk : BitVec 24
  /-- This node is root-elect (R263), and its standby facts SHOPS (R261). -/
  rootElect : Bool
  shops : BitVec 4
  /-- Frequency lock, RPATH (R281, R284). -/
  flock : Bool
  rpath : Bool
  /-- Recorded latency per link by port (R283), own rennet stamps (RN_TICK, ARR) by port, newest first, and samples: count and
  sum. -/
  lat : SMap (Option (BitVec 23))
  stamps : SMap (List (Nat × Nat))
  samples : SMap (Nat × Nat)
  /-- Runs of R287: ticks without a valid parent rennet, offset above 12 ns, RN_TICK mismatches; a valid parent rennet seen
  in the running tick, the offset it gave and whether its RN_TICK agreed. -/
  rnMiss : Nat
  ofsRun : Nat
  tickRun : Nat
  rnSeen : Option Int
  rnWrong : Bool
  /-- The tick-parent lane lost CDR lock (R287). -/
  cdrLost : Bool
  /-- RPATH-clear ticks of a standby (R294), RLEAVE seen or raised (R295), ticks since LEAVING (R300), HOPS before holdover
  (R289). -/
  rpathClear : Nat
  rleave : Bool
  leaving : Option Nat
  lastHops : BitVec 4
  /-- A join that steps its edge, shown LOCKED at the next edge: the adopted count (R284). -/
  joinAt : Option (BitVec 48)
  /-- A takeover as root at the next edge (R295). -/
  takeOver : Bool
  /-- The sum of the slews made so far, in 1/256 cycle (R285). -/
  slew : Int
  deriving DecidableEq, Repr

/-! ### Transit (spec 07) and shaping (spec 09) -/

/-- A head waiting at an output VC, or the packet that holds it: the packet, the input port and VC it came by (64 for the die
itself), its age, whether its stage is carried (R79), the ledger entry (port, index) it is a copy of, the output it
leaves the next die by, as (die, 8 · port + VC), when this output is a STACK port (R320), the ticks it has been held (R373), and the
hoop cell that its EGRESS owner holds. -/
structure QEnt where
  pkt : Packet
  inPort : Nat
  inVc : Nat
  age : Nat
  carried : Bool
  ledger : Option (Nat × Nat)
  far : Option (Nat × Nat)
  held : Nat
  cell : Option Nat
  deriving DecidableEq, Repr

/-- A grant of an output VC (R315): the packet, flits not yet sent, floor tier and effective priority at the grant (R435), and whether
its input went OFFLINE so that zero flits complete it (R324). -/
structure Grant where
  ent : QEnt
  left : Nat
  floorTier : Bool
  prio : Nat
  padded : Bool
  deriving DecidableEq, Repr

/-- The switch: waiting heads and grants by output key 8·port + VC, node credit totals by (sibling, output, VC) as held and as
returned (R320, R322), deficits by (output, tenant, level), floor credits by (output, tenant), position counts and the
round-robin pointers per output (R428 to R431), and the die-wide age counter. -/
structure SwitchSt where
  queue : SMap (List QEnt)
  grant : SMap (Option Grant)
  ncUsed : SMap (BitVec 16)
  ncFreed : SMap (BitVec 16)
  ncOut : SMap (BitVec 16)
  ncDirty : List Nat
  deficit : SMap Nat
  fc : SMap Nat
  posCount : SMap Nat
  rrFloor : SMap Nat
  rrTen : SMap Nat
  rrVc : SMap Nat
  age : Nat
  /-- The node allotment in force, in flits (R319). -/
  nallot : Nat
  deriving DecidableEq, Repr

/-- A row of the harp: weight, accumulator and echo count of each of the 16 paths (R340, R343). -/
structure HarpRow where
  w : List Nat
  acc : List Int
  echo : List Nat
  deriving DecidableEq, Repr

/-- The harp: the weight that every path of an unlisted row has, and the rows that differ (R340, R344). -/
structure HarpSt where
  base : Nat
  rows : SMap HarpRow
  deriving DecidableEq, Repr

/-! ### The delivery contract (spec 08) -/

/-- States of a ledger entry (table Ledger entry); `free` is an entry not claimed. -/
inductive LedState where
  | free | queued | sent | held | settled
  deriving DecidableEq, Repr

/-- A ledger entry (table Ledger entry, R356), with the item it retains: the path of the present attempt, whether a failed attempt
waits for its next copy (R382), whether a copy waits on the wheel (R412), and, for a settled entry, whether its receipt is still to be
queued (R359). -/
structure LedEnt where
  state : LedState
  lsn : BitVec 16
  fseq : BitVec 32
  flow : Nat
  cell : BitVec 32
  att : Nat
  due : BitVec 48
  last : BitVec 48
  fail : SMap Nat
  out : BitVec 3
  path : BitVec 4
  waiting : Bool
  ready : Bool
  /-- The item is a held CONTRIB or a CCTL, which no copy carries (R393, R626). -/
  own : Bool
  /-- Replay injected the item, so that no receipt goes out (R769). -/
  injected : Bool
  pkt : Packet
  deriving DecidableEq, Repr

/-- A flow (R10 Terms): source EID, destination EID, tenant and class. -/
structure FlowKey where
  seid : BitVec 17
  deid : BitVec 17
  tid : BitVec 8
  cls : BitVec 2
  deriving DecidableEq, Repr

/-- A flow the die sources (R364, R409, R413): its ingress port, next FSEQ, rate, echo applied, DUE in 1/256 cycle, whether its
head item is eligible (R414), and the ticks without an unsettled item (R371). -/
structure SrcFlow where
  key : FlowKey
  port : Nat
  nextFseq : BitVec 32
  rate : Nat
  echoed : Bool
  due : Nat
  elig : Bool
  idle : Nat
  deriving DecidableEq, Repr

/-- A copy stored at its destination die: its hoop cell, whether it has been handed to its egress output, and whether its
egress packet has been sent (R367, R388). -/
structure DstItem where
  fseq : BitVec 32
  pkt : Packet
  cell : Option Nat
  handed : Bool
  sent : Bool
  deriving DecidableEq, Repr

/-- A flow whose destination die this is (R367): NEXT, one above the highest FSEQ seen, the stored items, the ticks NEXT has
been missing or has waited (R374, R390), idle ticks (R371), the marked paths and copies of the tick (R406), the FSEQs whose state is to
be reported (R375), the abort in force (R386), the run of FSEQs below NEXT that an abort returned, with the reason, and the
PATH of the latest copy. -/
structure DstFlow where
  key : FlowKey
  next : BitVec 32
  top : BitVec 32
  items : List DstItem
  gap : Nat
  wait : Nat
  idle : Nat
  pmask : BitVec 16
  marks : Nat
  changed : List (BitVec 32)
  abort : AbortKind
  rtn : Option (BitVec 32 × BitVec 32 × BitVec 3)
  path : BitVec 4
  deriving DecidableEq, Repr

/-- Flow-table entries (R363). -/
inductive FlowEnt where
  | free
  | src (f : SrcFlow)
  | dst (f : DstFlow)
  deriving DecidableEq, Repr

/-- A packet that waits in a DROP receive buffer for acceptance (R353): port, VC and packet, in order of arrival, and whether its
waiting has been counted. -/
structure WaitPkt where
  port : Nat
  vc : Nat
  pkt : Packet
  counted : Bool
  deriving DecidableEq, Repr

/-- Delivery: the ledgers by key 4096 · port + index, the flow table, the return log (flow index, FSEQ, reason), packets that wait, and
returns that wait for the log (R379). -/
structure DlvSt where
  ledger : SMap LedEnt
  flows : SMap FlowEnt
  rlog : List (Nat × BitVec 32 × BitVec 3)
  waiting : List WaitPkt
  heldRtn : List (Nat × BitVec 32 × BitVec 3)
  deriving DecidableEq, Repr

/-! ### Tenants (spec 19) -/

/-- Tenants beside the TEN pages: the port sets in force (R778), the tenants that an edge admits (R776), requested kills with the
tick whose opening edge they take effect at (R786). -/
structure TenSt where
  ports : SMap (BitVec 64)
  admits : List Nat
  killAt : SMap (Option Nat)
  deriving DecidableEq, Repr

/-! ### Hoops (spec 10) -/

/-- An ownership record (table Ownership record, R463), the charge of the cell, which is kept apart from it (R478), and whether the
cell has been charged since the latest reset (R456) and is queued for zeroing (R791). -/
structure HoopCell where
  tid : BitVec 8
  mgmt : Bool
  owners : List (BitVec 16)
  pend : Bool
  retired : Bool
  lastTid : BitVec 8
  lastMgmt : Bool
  charged : Bool
  queued : Bool
  hdr : List Byte
  deriving DecidableEq, Repr

/-- The pools: the split and the Hoop D reserve in force (R445, R450), the link reserve (R448), each pool's stack as the
indices pushed since it was last threaded whole, top first, over the run of indices from `next` up (R461), its state
(0 NORMAL, 1 QUARANTINE, 2 REBUILD), the records by handle key 2^20 · pool + index, the quotas by 256 · pool + tenant, cells
freed during a walk (R477), rejected commands that wait for a log entry (R470), and pool memory by 65,536 · key + offset. -/
structure HoopSt where
  mibA : Nat
  mibB : Nat
  mibC : Nat
  drsv : Nat
  linkRsv : Nat
  pushed : SMap (List Nat)
  next : SMap Nat
  state : SMap Nat
  cells : SMap HoopCell
  quota : SMap Nat
  walkFreed : List Nat
  held : List (Bool × BitVec 32 × BitVec 16)
  mem : SMap Byte
  deriving DecidableEq, Repr

/-! ### The cave (spec 21) -/

/-- The cave of the die: bytes by cave address as their owner reads them (0 where nothing is listed: every page is unclean
after reset and reads as zeros, R875, R876), the tags by page (R874), the tenants' ranges as CAVE.TMAP words and generations
by tenant (R871, R874), the lines with an uncorrectable error (R889), the controllers that wait for a share change (R882),
and the tag sweep: owner (256 is MGMT), if one runs (R877). -/
structure CaveSt where
  mem : SMap Byte
  tags : SMap (BitVec 16)
  tmap : SMap Word
  tgen : SMap (BitVec 16)
  bad : List Nat
  sweeps : List Nat
  deriving DecidableEq, Repr

/-! ### The host link (spec 20) -/

/-- The host link beside its registers: a resume window is open (R859), a wake was signalled in this D3hot residency (R858),
and the link is in L2 (R858). -/
structure WakeSt where
  window : Bool
  sent : Bool
  l2 : Bool
  deriving DecidableEq, Repr

/-! ### Vats (spec 11, 13) -/

/-- A handle entry (table Handle entry, R577), with the plan slot that wrote it. -/
structure HandleEnt where
  valid : Bool
  cls : Bool
  poison : Bool
  mgmt : Bool
  padk : Nat
  tid : Nat
  base : Nat
  len : Nat
  ltag : BitVec 16
  padv : Nat
  slot : Nat
  deriving DecidableEq, Repr

/-- One source of an operand slot (R512, R667): format, values and those not padding, whether it is a child partial, REP, and where the
bytes are: hoop cells in order or a cave address, from byte `ofs`, `len` bytes. -/
structure SlotSrc where
  fmt : Nat
  n : Nat
  valid : Nat
  child : Bool
  rep : Nat
  cells : List Nat
  cave : Option Nat
  ofs : Nat
  len : Nat
  deriving DecidableEq, Repr

/-- An operand slot (table Slot sources): its code, its sources, and the address it names when it is a cave buffer. -/
structure OpSlot where
  kind : Nat
  srcs : List SlotSrc
  cave : Option Nat
  deriving DecidableEq, Repr

/-- A dispatch record (R512) and how far its tile has come: the plan slot, the recipe set and its stage, the tree used, the logical
vat, the recipe's first index, the next step, the operand slots, the tile's own regions by handle (R674, R675), the E_max of its
latest scan, its dispatch tick, its place in the order of records, and the cause of its overrun, if one was logged. -/
structure TileRun where
  tid : Nat
  group : Nat
  cid : Nat
  chunk : Nat
  tile : Nat
  slot : Nat
  rset : Nat
  stage : Nat
  tree : Nat
  alt : Bool
  lvat : Nat
  first : Nat
  step : Nat
  slots : List OpSlot
  ctx : TileCtx
  bufs : SMap (List Src)
  emax : List (Option Int)
  born : BitVec 48
  carried : Bool
  reexec : Bool
  deriving DecidableEq, Repr

/-- A vat beside its page: handles, recipe memory by index with the plan slot of each step, the dispatch queue, scratchpad bytes,
pending wipes as (first word, words), the fault that fences it at the next edge (cause, step), injected faults that wait, brine's
counts (R574, R576) and corrected words that wait for their write-back (R566). -/
structure VatSt where
  handles : SMap (Option HandleEnt)
  recipe : SMap (Option (Nat × Nat))
  queue : List TileRun
  mem : SMap Byte
  wipes : List (Nat × Nat)
  fault : Option (Nat × Nat)
  injRes : Bool
  injRcp : Bool
  hard : SMap Nat
  passAt : BitVec 48
  late : Bool
  wback : List Nat
  deriving DecidableEq, Repr

/-! ### Plans (spec 17) -/

/-- A GRP record (table Group record). -/
structure GrpRec where
  group : Nat
  home : Nat
  hasq : Bool
  lkind : Bool
  nt : Nat
  leid : Nat
  nmem : Nat
  smallMax : Nat
  lead : Nat
  early : Nat
  holdMax : Nat
  memOfs : Nat
  chunkMax : Nat
  deriving DecidableEq, Repr

/-- A TREE record (R716): children as (node, die, port). -/
structure TreeRec where
  group : Nat
  tree : Nat
  alt : Bool
  root : Bool
  parent : Nat × Nat
  upPort : Nat
  kids : List (Nat × Nat × Nat)
  locals : List Nat
  deriving DecidableEq, Repr

/-- An RSV record (table Reservation record). -/
structure RsvRec where
  port : Nat
  vc : Nat
  tofs : Nat
  start : Nat
  count : Nat
  group : Nat
  tree : Nat
  alt : Bool
  xdir : Bool
  kind : Nat
  deriving DecidableEq, Repr

/-- A stage entry: recipe IDs by round kind, and the slots as (source, REP, region). -/
structure StageRec where
  rid : List Nat
  slots : List (Nat × Nat × Nat)
  deriving DecidableEq, Repr

/-- An RSET record (table Recipe set head). -/
structure RsetRec where
  group : Nat
  rset : Nat
  opmask : Nat
  separate : Bool
  scatter : Bool
  inputs : Bool
  fillSame : Bool
  staged : Bool
  ufmt : Nat
  rowlen : Nat
  rb : Nat
  nb : Nat
  nq : Nat
  cunits : Nat
  spill : Nat
  lv : List Nat
  stages : List StageRec
  deriving DecidableEq, Repr

/-- An RCP record (R723). -/
structure RcpRec where
  lvat : Nat
  rid : Nat
  steps : List Nat
  deriving DecidableEq, Repr

/-- An HDL record (table Handle record). -/
structure HdlRec where
  lvat : Nat
  handle : Nat
  cls : Bool
  padk : Nat
  base : Nat
  len : Nat
  padv : Nat
  wofs : Nat
  wlen : Nat
  deriving DecidableEq, Repr

/-- A plan image as read (R709 to R727), with its shifted hash (R750). -/
structure PlanImg where
  tid : Nat
  repl : Bool
  len : Nat
  planId : Nat
  base : Nat
  period : Nat
  depth : Nat
  replaces : Nat
  pseed : BitVec 64
  hash : BitVec 64
  shash : BitVec 64
  grps : List GrpRec
  mem : List Nat
  trees : List TreeRec
  rsvs : List RsvRec
  rsets : List RsetRec
  rcps : List RcpRec
  hdls : List HdlRec
  wdata : List Byte
  caves : List (Nat × Nat × Nat)
  deriving DecidableEq, Repr

/-- A plan slot: its state (PLAN.SVIEW.STATE), the image's page offset and the image, its load tag, where its recipes were placed as
(logical vat, RID, first index), and an unload that waits for the next edge (R734). -/
structure PlanSlot where
  state : Nat
  ofs : Nat
  img : Option PlanImg
  ltag : BitVec 16
  placed : List (Nat × Nat × Nat)
  leaving : Bool
  deriving DecidableEq, Repr

/-- Plan memory, the slots, the load tag of the latest load (R579), and the slot under validation. -/
structure PlanSt where
  mem : SMap Byte
  slots : SMap PlanSlot
  ltag : BitVec 16
  job : Option Nat
  deriving DecidableEq, Repr

/-! ### Collectives (spec 15) -/

/-- A group table entry (table Group table entry), with its plan slot and chunk limit. -/
structure GroupEnt where
  tid : Nat
  home : Nat
  hasq : Bool
  lkind : Bool
  leid : BitVec 17
  nmem : Nat
  smallMax : Nat
  nt : Nat
  lead : Nat
  early : Nat
  holdMax : Nat
  ltag : BitVec 16
  mbase : Nat
  slot : Nat
  chunkMax : Nat
  deriving DecidableEq, Repr

/-- What a descriptor asks for (table Descriptor). -/
structure Descr where
  op : Nat
  alg : Nat
  rset : Nat
  notify : Bool
  cid : Nat
  root : Nat
  count : Nat
  chunk0 : Nat
  cunits : Nat
  reserved : Bool
  deriving DecidableEq, Repr

/-- A chunk on this die: the contributions held as (member, packet, ledger key), partials held as (from, packet, cell, bytes)
where `from` is a child's EID or the parent's, the tick of its admission, tiles not yet complete, the stage whose tiles are to be dispatched
next, cells that stages stored as (stage, tile, cell), whether the root's last stage is complete, RESULT packets that no TAKEN covers yet as
(port, ADDR), cells of what EMIT sent, with whether it was a RESULT (R644, R646), children that have sent DONE, when DONE came about here,
FIN, and the tree in use. -/
structure ChunkSt where
  contrib : List (Nat × Nat × Nat)
  parts : List (Nat × Nat × Nat × Nat)
  admitted : Option (BitVec 48)
  stage : Nat
  open_ : Nat
  stored : List (Nat × Nat × Nat)
  finished : Bool
  results : List (Nat × Nat)
  kept : List (Nat × Bool)
  kidsDone : List Nat
  doneAt : Option (BitVec 48)
  fin : Option (BitVec 48)
  tree : Nat
  alt : Bool
  deriving DecidableEq, Repr

/-- The running collective of a group on this die, with the EID of the die that is HOME. HOME's own part: acknowledgements of START, chunks whose FIN it holds, and the record's
counts. `ended` is how it ends, once that is decided: status, reason. -/
structure CollRun where
  d : Descr
  home : Nat
  sqSlot : Nat
  start : BitVec 48
  alg : Nat
  chunkB : Nat
  total : Nat
  nchunks : Nat
  next : Nat
  cstop : Option Nat
  acked : List Nat
  fins : List Nat
  lastFin : BitVec 48
  ovr : Nat
  held : Nat
  exact : Bool
  slow : Bool
  switched : List Nat
  anySwitch : Bool
  arrived : BitVec 48
  ended : Option (Nat × Nat)
  chunks : SMap ChunkSt
  deriving DecidableEq, Repr

/-- A completion record (table Completion record) that waits for a slot (R624): its 32 bytes but PHASE and LOCK, and NOTIFY. -/
structure HeldRec where
  bytes : List Byte
  notify : Bool
  deriving DecidableEq, Repr

/-- A group on this die: its entry, its queues' indices, the wait of R621, a held record, the running collective, what is held
before a start by 2^32 · CID + chunk (R640), records sent to an endpoint leader that no CQ_DB covers yet as
(CQ slot, tick of the latest sending), commands being forwarded as (code, CSTOP, CID, dies that have acknowledged), and whether an abort still
drains the pending descriptors (R660). -/
structure GroupSt where
  ent : Option GroupEnt
  sqHead : Nat
  sqTail : Nat
  cqHead : Nat
  cqTail : Nat
  wait : Nat
  stalled : Bool
  heldRec : Option HeldRec
  run : Option CollRun
  early : SMap ChunkSt
  resend : List (Nat × BitVec 48)
  cmds : List (Nat × Nat × Nat × List Nat)
  draining : Bool
  deriving DecidableEq, Repr

/-- The collective engine: groups, dispatch records that found their queue full (R514), and RESULT packets that a TAKEN has covered in the
running tick, as (group, chunk, port, ADDR) (R644). -/
structure CollSt where
  groups : SMap GroupSt
  waiting : List TileRun
  taken : List (Nat × Nat × Nat × Nat)
  deriving DecidableEq, Repr

/-! ### Determinism (spec 18) -/

/-- An ACTIVE plan as the canonical image shows it (R753), with its shifted hash (R750). -/
structure FpPlan where
  tid : Nat
  planId : Nat
  hash : BitVec 64
  shash : BitVec 64
  pseed : BitVec 64
  base : Nat
  deriving DecidableEq, Repr

/-- What the canonical image of the die is built from, as it stood at the edge of the latest change (R752, R754). -/
structure FpSnap where
  regs : SMap Word
  quota : SMap Nat
  tmap : SMap Word
  plans : List FpPlan
  deriving DecidableEq, Repr

/-- The DET page's own state: a det write waits for the edge (R58), the snapshot, record claims that wait for the edge (R762), the record
buffer as entries (R761), entries dropped and not yet in a GAP entry, edges since recording was disabled (R765), replay claims that
wait (R768), replay was disabled and an edge has passed (R774), injected events that wait for resources (R770), the log offset from which compare looks for the next entry of a kind and
port (R771), and whether an exception was counted since replay started (R773). -/
structure DetSt where
  dirty : Bool
  snap : FpSnap
  recAsked : Bool
  buf : List (List Byte)
  lost : Nat
  drain : Nat
  rpAsked : Bool
  rpStop : Bool
  late : List (List Byte)
  cmp : SMap Nat
  exc : Bool
  deriving DecidableEq, Repr

/-! ### The resource ownership table (spec 25, R990) -/

/-- The tick-local timers' owners and HOOP_D_RESERVE's, coded as GPIO.OWNER codes them, the cave share units granted by client code,
and share amounts that wait for the edge: register, word and who wrote it; whether the plan engine's claim of a timer waits for the edge; and claims
and releases of GPIO pins that wait for it: pin, function, and who wrote it. -/
structure OwnSt where
  timers : List Nat
  hoopD : Bool
  planAsked : Bool
  shares : SMap Nat
  shareAsk : SMap (Option (Word × Cls))
  pinAsk : List (Nat × Nat × Cls)
  deriving DecidableEq, Repr

/-! ### Security (spec 19) -/

/-- Fused key hashes by slot (R800), the debug nonce (R807), and the SPDM connection states by transport (R805): 0 none, 1 version, 2
capabilities, 3 negotiated; 0 is DOE and 1 MCTP; and the register file at the latest edge, from which measurements are read (R805). -/
structure SecSt where
  keys : List (List Byte)
  nonce : BitVec 64
  spdm : SMap Nat
  snap : SMap Word
  deriving DecidableEq, Repr

/-! ### The host interface (spec 20) -/

/-- A DMA descriptor in flight (R838): its slot, operation, options, range, bytes moved so far, and its status once it has finished. -/
structure DmaJob where
  slot : Nat
  op : Nat
  irq : Bool
  mgmt : Bool
  tid : Nat
  len : Nat
  haddr : Nat
  cofs : Nat
  tag : Nat
  moved : Nat
  status : Option Nat
  deriving DecidableEq, Repr

/-- A DMA queue beside its registers (R836): descriptors in flight in queue order, ticks that its head slot has waited for its PHASE,
a record that waits for a completion slot, and whether EN was cleared and the edge has not come. -/
structure DmaQ where
  jobs : List DmaJob
  wait : Nat
  heldRec : Option (List Byte × Bool)
  closing : Bool
  deriving DecidableEq, Repr

/-- A mailbox slot beside its line (R842): whether its PHASE has toggled an odd number of times, ticks it has waited, and the time of its
doorbell in cycles. -/
structure MboxSlot where
  toggled : Bool
  wait : Nat
  rung : Nat
  deriving DecidableEq, Repr

/-- The host interface beside its registers: DMA queues, mailbox slots, slots rung and not complete in the order of their doorbells
(R847), the summary counts of RETURNED items by 4 · port + reason − 1 (R828), Memory_Active (R1012), and CXL.mem enabled
is HOST.LINK.MEM_EN. -/
structure HostSt where
  dma : SMap DmaQ
  mbox : SMap MboxSlot
  order : List Nat
  returned : SMap (BitVec 32)
  memActive : Bool
  deriving DecidableEq, Repr

/-! ### Telemetry (spec 23) -/

/-- Telemetry: running counters by key (port 64 · p + i, vat 4096 + 64 · v + i, hoop 8192 + 64 · n + i), greatest depths of the running and of the previous tick by 8 · port + VC and
by 512 + port, energy accounts in fJ by tenant and MGMT (256), the energy table in force, captures: counters and accounts at the previous
capture, maxima of the interval, the least free counts, the edge E0 once capture runs, TICK_OVERRUN records of the interval, records not
written since the last one, the record being written, and claims that wait for the edge. -/
structure TelemSt where
  cnt : SMap Nat
  cur : SMap Nat
  prev : SMap Nat
  acct : SMap Nat
  etab : SMap Nat
  cnt0 : SMap Nat
  acct0 : SMap Nat
  top : SMap Nat
  least : SMap Nat
  e0 : Option Nat
  ovr : Nat
  lostNow : Nat
  writing : Option (List (Nat × List Byte))
  asked : Bool
  deriving DecidableEq, Repr

/-! ### Sideband, boot and power (spec 25 to 27) -/

/-- The slow interfaces beside their registers: RADDR (R975), a transaction that waits to be sent again (R971 to R973), the flash contents and
steward image memory (R982, R1002), where an unlisted byte of flash is erased, the highest image byte stored, the flash command
that runs (code, address), and the JTAG instruction. -/
structure SmbSt where
  raddr : BitVec 26
  job : Option SmbJob
  flash : SMap Byte
  image : SMap Byte
  imageTop : Nat
  cmd : Option (Nat × Nat)
  jtag : JtagIr
  deriving DecidableEq, Repr

/-- Boot: the steps begun (R994), recovery (R1001), whether Gnotik runs, host-ready (R1013), whether the node has been fabric-ready (R996), what holds the die in
cold reset (CHIP_RST#, a brownout), RSTCAUSE as the next boot loads it, and the EQ and wiring tables as read (measurement block 3). -/
structure BootSt where
  stage : Nat
  recovery : Bool
  gnotik : Bool
  hostReady : Bool
  fabricReady : Bool
  held : Bool
  brown : Bool
  cause : Nat
  tables : List Byte
  deriving DecidableEq, Repr

/-- Power beside its registers: THERM# is asserted, a package reports a rate beyond 4× (R1048), consecutive PMBus periods abandoned (R1029), the
die has tripped (R1050), the die-wide run-down toward QUIET started with the entry to QUIET, RUN was written during ENTERING (R1044), and the ports that
LEAVING waits for (R1044). -/
structure PwrSt where
  therm : Bool
  caveHot : Bool
  fails : Nat
  tripped : Bool
  quiet : Bool
  runAsked : Bool
  woken : List Nat
  deriving DecidableEq, Repr

/-! ### The whole machine -/

/-- The die: every piece of state but the queue of waiting commands. -/
structure Die where
  /-- The register file: dwords by die-space byte address; an unlisted dword holds its reset value (R21). -/
  regs : SMap Word
  /-- The high-half latches by 4 · address of the high dword + requester class (R955). -/
  latch : SMap Word
  /-- MODEL'S OWN: the counter of free values (log entry 3). -/
  fresh : Nat
  /-- MODEL'S OWN: what has left the die, oldest first (log entry 5). -/
  out : List Out
  err : ErrSt
  msix : MsixSt
  tick : TickSt
  cave : CaveSt
  wake : WakeSt
  ports : SMap PortSt
  casc : CascSt
  disc : DiscSt
  sw : SwitchSt
  harp : HarpSt
  dlv : DlvSt
  ten : TenSt
  hoops : HoopSt
  /-- DROP ports that withhold credit on VC 4 (R421). -/
  withholding : SMap Bool
  vats : SMap VatSt
  plans : PlanSt
  coll : CollSt
  det : DetSt
  own : OwnSt
  sec : SecSt
  host : HostSt
  telem : TelemSt
  smb : SmbSt
  boot : BootSt
  pwr : PwrSt
  /-- Requests returned by a block under reset, to be sent again at the next edge: page, die, new epoch, ARG (R912, R913). -/
  returned : List (Nat × Nat × Nat × Nat)
  deriving DecidableEq, Repr

/-- The machine: the commands that wait, first in first out, and the die. -/
structure State where
  pending : List Instr
  die : Die
  deriving DecidableEq, Repr

/-- The die after a cold reset (R21, R906). -/
def Die.reset : Die :=
  { regs := [], latch := [], fresh := 0, out := []
    err := { log := [], pages := [], seq := 0, waiting := [], wdogLogged := false }
    msix := { enabled := false, unmasked := [], pba := [], gap := [] }
    tick := { count := 0, len := 2, rundown := [], ovrRun := [], ovrNow := [], fatal := 0 }
    cave := { mem := [], tags := [], tmap := [], tgen := [], bad := [], sweeps := [] }
    wake := { window := false, sent := false, l2 := false }
    ports := []
    casc := { role := [], attr := [], wiring := [], forwarded := [], nextTag := 0, silent := [], hbSeen := false, maSeen := false
              malive := false, announced := none, tablesOk := false, vrAddr := [] }
    disc := { walk := 0, rootElect := false, shops := 15, flock := false, rpath := false, lat := [], stamps := [], samples := []
              rnMiss := 0, ofsRun := 0, tickRun := 0, rnSeen := none, rnWrong := false, cdrLost := false, rpathClear := 0
              rleave := false, leaving := none, lastHops := 15, joinAt := none, takeOver := false, slew := 0 }
    sw := { queue := [], grant := [], ncUsed := [], ncFreed := [], ncOut := [], ncDirty := [], deficit := [], fc := []
            posCount := [], rrFloor := [], rrTen := [], rrVc := [], age := 0, nallot := 260 }
    harp := { base := 0, rows := [] }
    dlv := { ledger := [], flows := [], rlog := [], waiting := [], heldRtn := [] }
    ten := { ports := [], admits := [], killAt := [] }
    hoops := { mibA := 16, mibB := 32, mibC := 64, drsv := 4, linkRsv := 0, pushed := [], next := [], state := [], cells := []
               quota := [], walkFreed := [], held := [], mem := [] }
    withholding := []
    vats := []
    plans := { mem := [], slots := [], ltag := 0, job := none }
    coll := { groups := [], waiting := [], taken := [] }
    det := { dirty := false, snap := { regs := [], quota := [], tmap := [], plans := [] }, recAsked := false, buf := [], lost := 0, drain := 0
             rpAsked := false, rpStop := false, late := [], cmp := [], exc := false }
    own := { timers := [], hoopD := false, planAsked := false, shares := [], shareAsk := [], pinAsk := [] }
    sec := { keys := [[], [], [], []], nonce := 0, spdm := [], snap := [] }
    host := { dma := [], mbox := [], order := [], returned := [], memActive := false }
    telem := { cnt := [], cur := [], prev := [], acct := [], etab := [], cnt0 := [], acct0 := [], top := [], least := [], e0 := none, ovr := 0
               lostNow := 0, writing := none, asked := false }
    smb := { raddr := 0, job := none, flash := [], image := [], imageTop := 0, cmd := none, jtag := .idcode }
    boot := { stage := 0, recovery := false, gnotik := false, hostReady := false, fabricReady := false, held := false, brown := false
              cause := 0, tables := [] }
    pwr := { therm := false, caveHot := false, fails := 0, tripped := false, quiet := false, runAsked := false, woken := [] }
    returned := [] }

/-- The machine right after a cold reset, with no command waiting. -/
def State.reset : State := { pending := [], die := Die.reset }

end Sys2Proof.Machine
end

