-- ==== Sys2Proof/Machine/Ops.lean ====
section
/-!
DEFINITION. Machine/Ops.lean: the named operations over the register file, the output list, the free values and the
interrupt messages. Every meaning reads and writes registers through these.
-/
namespace Sys2Proof.Machine

/-- A command's effect on the die, the queue untouched. -/
def State.on (s : State) (f : Die → Die) : State := { s with die := f s.die }

/-- The fields of a page type that live at an offset: the common header below 0x040 (R942). -/
def fieldsAt (t : PageType) (o : Nat) : List Fld := if o < 0x40 then hdrFields else fieldsOf t

/-- The energy table's defaults in fJ (table Energy table). -/
def etabDefault (n : Nat) : Nat := ([3788800, 210, 380, 433, 1200, 150, 1536000, 64000] : List Nat).getD n 0

/-- The cold-reset value of the dword at a die-space address (R21); TELEM.ETAB has one for each entry. -/
def regReset (a : Nat) : Word :=
  match pageAt (a / 0x1000) with
  | none => 0
  | some (t, _) =>
    if a / 0x20 = 0x9080 / 0x20 then BitVec.ofNat 32 (etabDefault (a % 0x20 / 4))
    else
    (fieldsAt t (a % 0x1000)).foldl
      (fun w f =>
        if f.reset = 0 || !f.covers (a % 0x1000) then w
        else (List.range f.fn).foldl (fun w j => fieldSet w (f.lsb + f.fstep * j) f.width f.reset) w) 0

namespace Die

/-- The dword of the register file at a die-space address. -/
def dword (d : Die) (a : Nat) : Word := smapGet (regReset a) d.regs a

/-- The register file with a dword written. -/
def setDword (d : Die) (a : Nat) (w : Word) : Die := { d with regs := smapSet (regReset a) d.regs a w }

/-- The value of a located field. -/
def rd (d : Die) (l : Loc) : Nat := fieldGet (d.dword l.addr) l.lsb l.width

/-- A located field written; the other bits of its dword stay. -/
def wr (d : Die) (l : Loc) (v : Nat) : Die := d.setDword l.addr (fieldSet (d.dword l.addr) l.lsb l.width v)

/-- The value of a field, of copy `j` in register `i` of the page of instance `inst`. -/
def get (d : Die) (f : Fld) (inst : Nat := 0) (i : Nat := 0) (j : Nat := 0) : Nat := d.rd (f.loc inst i j)

/-- A field written. -/
def set (d : Die) (f : Fld) (v : Nat) (inst : Nat := 0) (i : Nat := 0) (j : Nat := 0) : Die := d.wr (f.loc inst i j) v

/-- A one-bit field read as a truth value. -/
def bit (d : Die) (f : Fld) (inst : Nat := 0) (i : Nat := 0) (j : Nat := 0) : Bool := d.get f inst i j != 0

/-- A one-bit field written. -/
def setBit (d : Die) (f : Fld) (b : Bool) (inst : Nat := 0) (i : Nat := 0) (j : Nat := 0) : Die :=
  d.set f (if b then 1 else 0) inst i j

/-! ### Telemetry counters and energy (R920, R921, R925) -/

/-- A telemetry counter advances, modulo 2^64 (R920). -/
def tcount (d : Die) (key n : Nat) : Die :=
  { d with telem := { d.telem with cnt := smapMod 0 d.telem.cnt key (fun v => (v + n) % 2 ^ 64) } }

/-- The energy-table entry in force (R928). -/
def etab (d : Die) (n : Nat) : Nat := smapGet (etabDefault n) d.telem.etab n

/-- An account is charged `n` times an entry (R925); 256 is MGMT. -/
def charge (d : Die) (who entry n : Nat) : Die :=
  { d with telem := { d.telem with acct := smapMod 0 d.telem.acct who (· + d.etab entry * n) } }

/-- Key of a port, vat and hoop counter of the tables Port telemetry counters and Vat and hoop telemetry counters. -/
def portTel (p i : Nat) : Nat := 64 * p + i
/-- See `portTel`. -/
def vatTel (v i : Nat) : Nat := 4096 + 64 * v + i
/-- See `portTel`. -/
def hoopTel (n i : Nat) : Nat := 8192 + 64 * n + i

/-- The telemetry counter that counts what a page's counter counts (R921). -/
def telemKey (f : Fld) (inst : Nat) : Option Nat :=
  match f.page with
  | .port =>
    if f.off = 0x94 then some (portTel inst 0x20) else if f.off = 0x98 then some (portTel inst 0x21)
    else if f.off = 0x74 then some (portTel inst 0x22) else if f.off = 0x44c then some (portTel inst 0x23)
    else if f.off = 0x430 then some (portTel inst 0x26) else none
  | .laneq => if f.off = 0x94 then some (portTel inst 0x24) else if f.off = 0x9c then some (portTel inst 0x25) else none
  | .vat =>
    if f.off = 0x54 then some (vatTel inst 0) else if f.off = 0x58 then some (vatTel inst 1)
    else if f.off = 0x6c then some (vatTel inst 3) else if f.off = 0x64 then some (vatTel inst 5) else none
  | _ => none

/-- What a page's counter counts, counted in telemetry. -/
def tbump (d : Die) (f : Fld) (inst n : Nat) : Die :=
  match telemKey f inst with
  | some k => d.tcount k n
  | none => d

/-- A counter raised by `n`, saturating at all ones. -/
def bump (d : Die) (f : Fld) (inst : Nat := 0) (i : Nat := 0) (n : Nat := 1) : Die :=
  let d := d.tbump f inst n
  d.set f (min (d.get f inst i + n) (2 ^ f.width - 1)) inst i

/-- A two-dword counter raised by `n`, wrapping at 2^64. -/
def bump64 (d : Die) (lo hi : Fld) (inst : Nat := 0) (i : Nat := 0) (n : Nat := 1) : Die :=
  let d := d.tbump lo inst n
  let v := d.get hi inst i * 2 ^ 32 + d.get lo inst i + n
  (d.set lo (v % 2 ^ 32) inst i).set hi (v / 2 ^ 32 % 2 ^ 32) inst i

/-- A two-dword number written. -/
def set64 (d : Die) (lo hi : Fld) (v : Nat) (inst : Nat := 0) (i : Nat := 0) : Die :=
  (d.set lo (v % 2 ^ 32) inst i).set hi (v / 2 ^ 32) inst i

/-- A two-dword number. -/
def get64 (d : Die) (lo hi : Fld) (inst : Nat := 0) (i : Nat := 0) : Nat :=
  d.get hi inst i * 2 ^ 32 + d.get lo inst i

/-- A counter or latch raised to `v` if `v` is greater. -/
def raiseTo (d : Die) (f : Fld) (v : Nat) (inst : Nat := 0) (i : Nat := 0) : Die :=
  if d.get f inst i < v then d.set f v inst i else d

/-- Something leaves the die. -/
def emit (d : Die) (o : Out) : Die := { d with out := d.out ++ [o] }

/-- A free value of `w` bits (log entry 3); the counter moves on with `used`. -/
def free (d : Die) (w : Nat) : BitVec w := Config.freeBits w d.fresh

/-- The free-value counter moved on. -/
def used (d : Die) (n : Nat := 1) : Die := { d with fresh := d.fresh + n }

/-- The cycles of a tick of the length in force (R60). -/
def tickCycles (d : Die) : Nat := 1250 * 2 ^ d.tick.len.toNat

/-- The cycle within the tick at which the present command is served (log entry 4). -/
def cycle (d : Die) : Nat := Config.cycleOf d.fresh % d.tickCycles

/-- The die's position in its node (R129). -/
def pos (d : Die) : Nat := d.get R.chipStrapCascPos

/-- The acting master's position (R133). -/
def master (d : Die) : Nat := d.get R.cascStatMaster

/-- Is this die the acting master? -/
def isMaster (d : Die) : Bool := d.pos == d.master

/-! ### Pins granted to a unit (R989) -/

/-- The first GPIO pin that carries a function, if one does. -/
def pinOf (d : Die) (code : Nat) : Option Nat :=
  (List.range 16).find? (fun n => d.get R.gpioFunc 0 (n / 8) (n % 8) == code)

/-! ### Wake causes (R858, R859) -/

/-- A wake cause is set: latched when enabled in D3hot, and signalled once per residency outside the resume window; WAKE# drives only where a
GPIO carries it (R858). -/
def wakeCause (d : Die) (c : Nat) : Die :=
  if d.get R.hostLinkDstate = 3 ∧ d.get R.hostPmeEn / 2 ^ c % 2 = 1 then
    let d := d.set R.pwrWakeCauseCause (d.get R.pwrWakeCauseCause ||| 2 ^ c)
    if d.wake.window || d.wake.sent then d
    else
      let on := !d.wake.l2 || (d.pinOf 2).isSome
      let d : Die := { d with wake := { d.wake with sent := true } }
      if on then d.emit (.wake (!d.wake.l2)) else d
  else d

/-! ### Interrupt messages (R854 to R857, R966) -/

/-- The vector is raised: a message, or a pending bit where it is masked, disabled or in D3hot, or a mark in the gap. -/
def raiseVector (d : Die) (v : Nat) : Die :=
  if !d.isMaster then d.emit (.irqToMaster v)
  else if d.get R.hostLinkDstate = 3 || !d.msix.enabled || !smapGet false d.msix.unmasked v then
    { d with msix := { d.msix with pba := smapSet false d.msix.pba v true } }
  else match smapGet none d.msix.gap v with
    | some _ => { d with msix := { d.msix with gap := smapSet none d.msix.gap v (some true) } }
    | none =>
      let d := d.emit (.msix v)
      if d.get R.hostImodGap = 0 then d
      else { d with msix := { d.msix with gap := smapSet none d.msix.gap v (some false) } }

/-- The vector of a cause of a page (table Vector map). `g` is the group, for COLL COMPLETE. -/
def vectorOf (q : Irq) (die g : Nat) : Nat :=
  match q.page with
  | .errlog => 0
  | .chip | .tick | .disc | .casc | .gpio | .smb | .pwr | .sec | .host => 1
  | .plan | .det | .telem => 2
  | .hoop | .harp | .rng | .cave | .mbox => 3
  | .port | .laneq => 4 + die
  | .vat => 8 + die
  | .ten => 12 + die
  | .dma => 16 + 4 * die + q.bit % 4
  | .coll => if q.bit = 0 then 96 + g % 160 else 2
  | .hdr | .rt => 1

/-- The address of a header register of a page. -/
def hdrAddr (t : PageType) (inst o : Nat) : Nat := 0x1000 * pageIndex t inst + o

/-- A cause bit sets, and raises its page's vector when its enable bit is set (R966). -/
def raise (d : Die) (q : Irq) (inst : Nat := 0) (g : Nat := 0) : Die :=
  let st := hdrAddr q.page inst 0x20
  let en := (d.dword (hdrAddr q.page inst 0x1C)).toNat / 2 ^ q.bit % 2 = 1
  let d := d.setDword st (d.dword st ||| BitVec.ofNat 32 (2 ^ q.bit))
  if en then d.raiseVector (vectorOf q d.pos g) else d

/-- A header field of a page. -/
def hget (d : Die) (f : Fld) (t : PageType) (inst : Nat := 0) : Nat := d.get f (pageIndex t inst)

/-- A header field of a page written. -/
def hset (d : Die) (f : Fld) (v : Nat) (t : PageType) (inst : Nat := 0) : Die := d.set f v (pageIndex t inst)

/-- A unit drives its pin, when a GPIO grants the function to it. -/
def drive (d : Die) (code : Nat) (p : Pin) (level : Bool) : Die :=
  if (d.pinOf code).isSome then d.emit (.pin p level) else d

/-- Repeat an effect for each member of a list. -/
def forAll {α : Type} (d : Die) (l : List α) (f : Die → α → Die) : Die := l.foldl f d

end Die

/-- Does the die run: it is neither held in cold reset by its pin or a brownout (R988, R1024, R1025) nor tripped (R1050)? -/
def Die.alive (d : Die) : Bool := !d.boot.held && !d.boot.brown && !d.pwr.tripped

/-- The meaning of a command that only acts on the die, whether it runs or not. -/
def actRaw (s : State) (f : Die → Die) : Host.Outcome State Fault Refusal := .next (s.on f)

/-- The meaning of a command that only acts on a die that runs; one that does not run does nothing. -/
def act (s : State) (f : Die → Die) : Host.Outcome State Fault Refusal := actRaw s (fun d => if d.alive then f d else d)

/-- The low `n` bytes of a number, lowest first (R14). -/
def leBytes (n v : Nat) : List Byte := (List.range n).map (fun i => BitVec.ofNat 8 (v / 2 ^ (8 * i)))

/-- The number that bytes spell, lowest first (R14). -/
def leNat : List Byte → Nat
  | [] => 0
  | b :: r => b.toNat + 256 * leNat r

end Sys2Proof.Machine
end

