-- ==== Sys2Proof/Machine/CaveMem.lean ====
section
/-!
DEFINITION. Machine/CaveMem.lean: reads and writes of the cave (spec 21): whose space an address is in, the clean map, and
lines with an uncorrectable error. Bytes are held as their owner reads them; the ciphertext on the packages is not visible
to any command (log entry 6).
-/
namespace Sys2Proof.Machine

/-- The end of the space clients can address, 558 GiB (R869). -/
def caveEnd : Nat := 558 * 2 ^ 30

/-- An owner of cave space: MGMT or a tenant (R871). -/
inductive Space where
  | mgmt
  | tenant (t : Nat)
  deriving DecidableEq, Repr

namespace Die

/-- MGMT_GIB (R870). -/
def mgmtGib (d : Die) : Nat := d.get R.caveMgmtGib

/-- Start and length of a tenant's range in GiB (R871). -/
def tmapBase (d : Die) (t : Nat) : Nat := fieldGet (smapGet 0 d.cave.tmap t) 0 10
/-- See `tmapBase`. -/
def tmapSize (d : Die) (t : Nat) : Nat := fieldGet (smapGet 0 d.cave.tmap t) 16 10

/-- The generation of an owner (R874). -/
def caveGen (d : Die) : Space → BitVec 16
  | .mgmt => BitVec.ofNat 16 (d.get R.caveMgmtGen)
  | .tenant t => smapGet 1 d.cave.tgen t

/-- The cave address of offset `o` of an owner's space, when `len` bytes there lie in it (R870, R871). -/
def caveAddr (d : Die) (sp : Space) (o len : Nat) : Option Nat :=
  match sp with
  | .mgmt => if o + len ≤ d.mgmtGib * 2 ^ 30 then some o else none
  | .tenant t => if o + len ≤ d.tmapSize t * 2 ^ 30 then some (d.tmapBase t * 2 ^ 30 + o) else none

/-- The owner of a page: MGMT below MGMT_GIB, else the tenant whose range holds it (R869 to R871). Ranges are whole GiB. -/
def caveOwner (d : Die) (a : Nat) : Option Space :=
  if a / 2 ^ 30 < d.mgmtGib then some .mgmt
  else (d.cave.tmap.find? (fun p => decide (fieldGet p.2 0 10 ≤ a / 2 ^ 30 ∧ a / 2 ^ 30 < fieldGet p.2 0 10 + fieldGet p.2 16 10))).map
    (fun p => .tenant p.1)

/-- Is the page of address `a` clean (R874)? -/
def caveClean (d : Die) (a : Nat) : Bool :=
  match d.caveOwner a with
  | none => false
  | some sp => smapGet 0 d.cave.tags (a / 4096) == d.caveGen sp

/-- Is the line of address `a` uncorrectable, as a reader finds it? Lines of unclean pages are never fetched (R876, R889). -/
def caveBad (d : Die) (a : Nat) : Bool := d.caveClean a && d.cave.bad.contains (a / 64)

/-- One byte as its owner reads it (R876). -/
def caveByte (d : Die) (a : Nat) : Byte := if d.caveClean a then smapGet 0 d.cave.mem a else 0

/-- `n` bytes from address `a`. -/
def caveRead (d : Die) (a n : Nat) : List Byte := (List.range n).map (fun i => d.caveByte (a + i))

/-- The first uncorrectable line among those that `n` bytes from `a` touch. -/
def caveFirstBad (d : Die) (a n : Nat) : Option Nat :=
  ((List.range ((a % 64 + n + 63) / 64)).map (fun i => a / 64 + i)).find? (fun l => d.caveBad (64 * l))

end Die

/-- Bytes put into a table of bytes from address `a` up. -/
def bytesPut : SMap Byte → Nat → List Byte → SMap Byte
  | m, _, [] => m
  | m, a, b :: r => bytesPut (smapSet 0 m a b) (a + 1) r

/-- Does a write of `n` bytes at `a` cover line `l` whole? -/
def coversLine (a n l : Nat) : Bool := decide (a ≤ 64 * l ∧ 64 * l + 64 ≤ a + n)

namespace Die

/-- A page made clean under its owner's present generation: what it held reads as zeros (R876). -/
def caveFill (d : Die) (p : Nat) : Die :=
  match d.caveOwner (4096 * p) with
  | none => d
  | some sp =>
    if smapGet 0 d.cave.tags p = d.caveGen sp then d
    else { d with cave := { d.cave with
      mem := d.cave.mem.filter (fun e => e.1 / 4096 != p)
      tags := smapSet 0 d.cave.tags p (d.caveGen sp)
      bad := d.cave.bad.filter (fun l => l / 64 != p) } }

/-- One cave line moved is charged to the owner of its space (table Energy charges). -/
def chargeLine (d : Die) (a : Nat) : Die :=
  match d.caveOwner a with
  | some (.tenant t) => d.charge t 6 1
  | _ => d.charge 256 6 1

/-- A write within one line: a whole-line write replaces an uncorrectable line, a partial one to it is discarded (R889).
The answer says whether the write took effect. -/
def caveWriteLine (d : Die) (a : Nat) (bs : List Byte) : Die × Bool :=
  let d := d.caveFill (a / 4096)
  if (d.caveOwner a).isNone then (d, false)
  else if d.cave.bad.contains (a / 64) && !coversLine a bs.length (a / 64) then (d, false)
  else ({ (d.chargeLine a) with cave := { d.cave with
      mem := bytesPut d.cave.mem a bs
      bad := d.cave.bad.filter (fun l => l != a / 64) } }, true)

end Die

/-- Bytes at `a` cut at line boundaries, at most `fuel` pieces. -/
def lineCuts : Nat → Nat → List Byte → List (Nat × List Byte)
  | 0, _, _ => []
  | _, _, [] => []
  | f + 1, a, bs => (a, bs.take (64 - a % 64)) :: lineCuts f (a / 64 * 64 + 64) (bs.drop (64 - a % 64))

namespace Die

/-- A write of any length, line by line (R867). -/
def caveWrite (d : Die) (a : Nat) (bs : List Byte) : Die :=
  (lineCuts (bs.length / 64 + 2) a bs).foldl (fun d p => (d.caveWriteLine p.1 p.2).1) d

end Die
end Sys2Proof.Machine
end

