-- ==== Sys2Proof/Machine/ErrLog.lean ====
section
/-!
DEFINITION. Machine/ErrLog.lean: error records, the page FIFOs and the global log (spec 22, R892 to R902).
-/
namespace Sys2Proof.Machine

/-- The error logic of a page that has logged nothing. -/
def PageErr.empty : PageErr := { fifo := [], k := 0, dropped := 0, owed := 0, stall := false, closed := false }

/-- The 32 bytes of a record (table Error record, R892). -/
def ErrRec.bytes (r : ErrRec) : List Byte :=
  leBytes 6 r.tick.toNat ++ leBytes 2 r.cyc.toNat ++ leBytes 2 r.code.toNat
    ++ [BitVec.ofNat 8 (r.sev.toNat + 4 * r.esc.toNat + 8 * r.tidv.toNat + 16 * r.mgmt.toNat + 32 * r.fenced.toNat),
        r.tid.setWidth 8]
    ++ leBytes 2 (r.page.toNat + 2 ^ 12 * r.die.toNat) ++ [r.epoch, r.drops] ++ leBytes 4 r.seq.toNat
    ++ (r.detail ++ List.replicate 12 0).take 12

/-- The FIFO with a record placed after the last record of equal or higher severity (R896). -/
def fifoPlace : List ErrRec → ErrRec → List ErrRec
  | [], r => [r]
  | h :: t, r => if r.sev.toNat ≤ h.sev.toNat then h :: fifoPlace t r else r :: h :: t

/-- A new record placed, with ESC set when it preempts an existing head (R896). -/
def fifoAdd (q : List ErrRec) (r : ErrRec) : List ErrRec :=
  match q with
  | [] => [r]
  | h :: _ => if r.sev.toNat ≤ h.sev.toNat then fifoPlace q r else { r with esc := true } :: q

/-- The FIFO without its newest CORRECTED record, when it has one (R897): CORRECTED records stand last, newest at the end. -/
def fifoEvict (q : List ErrRec) : Option (List ErrRec) :=
  match q.getLast? with
  | some r => if r.sev = 0 then some q.dropLast else none
  | none => none

/-- A record offered to its page FIFO (R896, R897). The flag says whether it must stay in the global log marked PEND. -/
def PageErr.offer (p : PageErr) (r : ErrRec) : PageErr × Bool :=
  if p.fifo.length < 8 then ({ p with fifo := fifoAdd p.fifo r }, false)
  else if r.sev = 0 then ({ p with dropped := min 255 (p.dropped + 1), owed := min 255 (p.owed + 1) }, false)
  else match fifoEvict p.fifo with
    | some q => ({ p with fifo := fifoAdd q r, dropped := min 255 (p.dropped + 1), owed := min 255 (p.owed + 1) }, false)
    | none => ({ p with stall := true }, true)

/-- The oldest entry that is not PEND, taken out of the log (R899). -/
def takeOldest : List LogEnt → Option (Nat × List LogEnt)
  | [] => none
  | e :: r =>
    if e.pend then (takeOldest r).map (fun (s, l) => (s, e :: l)) else some (e.slot, r)

namespace Die

/-- The error logic of a page. -/
def pageErr (d : Die) (idx : Nat) : PageErr := smapGet PageErr.empty d.err.pages idx

/-- The error logic of a page written. -/
def setPageErr (d : Die) (idx : Nat) (p : PageErr) : Die :=
  { d with err := { d.err with pages := smapSet PageErr.empty d.err.pages idx p } }

/-- The highest severity in any FIFO or PEND entry, plus one; 0 when there is none (R901). -/
def maxSev (d : Die) : Nat :=
  (d.err.pages.foldl (fun m p => p.2.fifo.foldl (fun m r => max m (r.sev.toNat + 1)) m) 0)
    |> d.err.log.foldl (fun m e => if e.pend then max m (e.r.sev.toNat + 1) else m)

/-- Is ERR_FATAL# driven (R901)? -/
def errPin (d : Die) : Bool := decide (d.get R.errlogCfgPinSev < d.maxSev) && (d.pinOf 4).isSome

/-- The pin's new level, when it changed between two states (R901). -/
def errPinUpdate (before d : Die) : Die :=
  if before.errPin = d.errPin then d else d.emit (.pin .errFatal (!d.errPin))

/-- A record written into the global log at a free slot or over the oldest entry that is not PEND, and mirrored to the cave
(R899, R900). `none` when every entry is PEND. -/
def logWrite (d : Die) (r : ErrRec) : Option (Die × Nat) :=
  let found : Option (Nat × List LogEnt × Bool) :=
    if d.err.log.length < 1024 then some (d.err.log.length, d.err.log, false)
    else (takeOldest d.err.log).map (fun (s, l) => (s, l, true))
  match found with
  | none => none
  | some (slot, log, lost) =>
    let d := if lost then d.bump R.errlogOverwritten else d
    let d := { d with err := { d.err with log := log ++ [LogEnt.mk slot r false], seq := d.err.seq + 1 } }
    let d := if d.bit R.errlogCfgMirror then
        (d.caveWrite (0x08000000 + 32 * slot) r.bytes).caveWrite (0x08008000 + 32 * slot) r.bytes
      else d
    some (d, slot)

/-- A record raised: the global log first, then the page FIFO (R895). -/
def logRecord (d : Die) (idx : Nat) (r : ErrRec) : Die :=
  let p := d.pageErr idx
  let r := { r with seq := d.err.seq, drops := BitVec.ofNat 8 p.owed }
  match d.logWrite r with
  | none =>
    let d := { d with err := { d.err with waiting := d.err.waiting ++ [(idx, r)] } }
    (d.bump R.errlogWaits).raise I.errlogWait
  | some (d, slot) =>
    let (p', pend) := PageErr.offer { p with owed := 0 } r
    let d := d.setPageErr idx p'
    let d := if pend then
        { d with err := { d.err with log := d.err.log.map (fun e => if e.slot = slot then { e with pend := true } else e) } }
      else d
    let d := if pend && !p.stall then d.raise I.errlogStall else d
    let d := d.raise (I.errlogSev r.sev.toNat)
    if 1 ≤ r.sev.toNat then d.wakeCause 2 else d

/-- An error is logged in the page of a unit: code, severity, tenant if one is concerned, MGMT mark and DETAIL (R892). -/
def logErr (d : Die) (t : PageType) (inst : Nat) (code sev : Nat) (detail : List Byte := []) (tid : Option Nat := none)
    (mgmt : Bool := false) (tick : Option (BitVec 48) := none) : Die :=
  let idx := pageIndex t inst
  let r : ErrRec :=
    { tick := tick.getD d.tick.count, cyc := BitVec.ofNat 15 d.cycle, code := BitVec.ofNat 16 code, sev := BitVec.ofNat 2 sev
      esc := false, tidv := tid.isSome, mgmt := mgmt
      fenced := d.hget R.hdrCtlFence t inst = 1 || d.hget R.hdrStatFenced t inst = 1
      tid := BitVec.ofNat 8 (tid.getD 0), page := BitVec.ofNat 12 idx, die := BitVec.ofNat 2 d.pos
      epoch := BitVec.ofNat 8 (d.hget R.hdrEpoch t inst), drops := 0, seq := 0, detail := detail.take 12 }
  errPinUpdate d (d.used.logRecord idx r)

/-- PEND records of a page, oldest first. -/
def pendOf (d : Die) (idx : Nat) : List LogEnt := d.err.log.filter (fun e => e.pend && e.r.page.toNat == idx)

/-- The head of a page FIFO removed; the oldest PEND record of the page enters, and a record that waited for an entry is
written (R894, R898, R899). -/
def popHead (d : Die) (idx : Nat) : Die :=
  let p := d.pageErr idx
  let d1 := d.setPageErr idx { p with fifo := p.fifo.drop 1, k := 0 }
  let d2 := match d.pendOf idx with
    | [] => d1
    | e :: _ =>
      if p.fifo.isEmpty then d1
      else
        let p1 := d1.pageErr idx
        let d2 := d1.setPageErr idx { p1 with fifo := fifoAdd p1.fifo e.r }
        { d2 with err := { d2.err with
            log := d2.err.log.map (fun x : LogEnt => if x.slot = e.slot then { x with pend := false } else x) } }
  let d3 := match d2.err.waiting with
    | [] => d2
    | (i, r) :: w =>
      if d2.err.log.all (fun e => e.pend) && decide (1024 ≤ d2.err.log.length) then d2
      else { d2 with err := { d2.err with waiting := w } }.logRecord i r
  errPinUpdate d d3

/-- At an edge: a stalled page closes admission, and a page whose last PEND record has entered its FIFO opens it (R898). -/
def edgeStall (d : Die) : Die :=
  d.forAll d.err.pages (fun d (i, p) =>
    let pend := !(d.pendOf i).isEmpty
    d.setPageErr i { p with stall := pend, closed := pend })

/-- Does a stall close the unit's admission (R898)? -/
def stalled (d : Die) (t : PageType) (inst : Nat := 0) : Bool := (d.pageErr (pageIndex t inst)).closed

end Die
end Sys2Proof.Machine
end

