-- ==== Sys2Proof/Machine/Rundown.lean ====
section
/-!
DEFINITION. Machine/Rundown.lean: the phases of a run-down, an abort's closing of admission, and what admission asks
(spec 02, R89 to R104, R1058; spec 24, R946 to R948).
-/
namespace Sys2Proof.Machine

/-- The key of a unit in the run-down table. -/
def unitKey : UnitId → Nat
  | .die => 0
  | .port p => 1 + p.toNat
  | .vat v => 100 + v.toNat
  | .group g => 1000 + g.toNat

/-- The page whose PAGE_CTL and PAGE_STAT show a unit's run-down; groups have none (R94). -/
def unitPage : UnitId → Option (PageType × Nat)
  | .die => some (.tick, 0)
  | .port p => some (.port, p.toNat)
  | .vat v => some (.vat, v.toNat)
  | .group _ => none

/-- A unit not in a run-down. -/
def RunDown.none : RunDown :=
  { phase := .run, bound := 0, left := 0, cleared := false, abort := .none, reset := false, gate := false, fence := false
    reopen := false }

/-- PAGE_STAT.STATE of a phase (R948). -/
def phaseCode : Phase → Nat
  | .run => 0
  | .closing => 1
  | .draining => 2
  | .idle => 3

namespace Die

/-- The run-down of a unit. -/
def rundown (d : Die) (u : UnitId) : RunDown := smapGet RunDown.none d.tick.rundown (unitKey u)

/-- The run-down of a unit written, with PAGE_STAT.STATE and, for the die, TICK.RD_STAT showing it (R90, R948). -/
def setRundown (d : Die) (u : UnitId) (r : RunDown) : Die :=
  let d := { d with tick := { d.tick with rundown := smapSet RunDown.none d.tick.rundown (unitKey u) r } }
  match u with
  | .die =>
    (((d.hset R.hdrStatState (phaseCode r.phase) .tick).setBit R.tickRdStatActive (r.phase = .closing || r.phase = .draining)).set
      R.tickRdStatLeft (match r.phase with | .closing => r.bound | .draining => r.left | _ => 0))
  | .port p => d.hset R.hdrStatState (phaseCode r.phase) .port p.toNat
  | .vat v => d.hset R.hdrStatState (phaseCode r.phase) .vat v.toNat
  | .group _ => d

/-- A run-down of a unit starts with a bound; a unit already in one goes on with it (R89, R97). -/
def startRundown (d : Die) (u : UnitId) (bound : Nat) : Die :=
  let r := d.rundown u
  if r.phase = .run then d.setRundown u { r with phase := .closing, bound := bound, cleared := false, reopen := false } else d

/-- An abort of a unit: it closes admission like a run-down, or takes a run-down over with its bound; a second abort has no
effect (R100, R104, R1058). -/
def startAbort (d : Die) (u : UnitId) (bound : Nat) (k : AbortKind) : Die :=
  let d := d.startRundown u bound
  let r := d.rundown u
  if r.abort = .none then d.setRundown u { r with abort := k } else d

/-- May a unit's own phase admit new work (R91, R96)? -/
def phaseOpen (d : Die) (u : UnitId) : Bool :=
  let p := (d.rundown u).phase
  p = .run || p = .closing

/-- Does a unit admit new work: its own run-down, the die's, a stall, a fence and gating all allow it (R91, R898, R905, R946)? -/
def admits (d : Die) (u : UnitId) : Bool :=
  d.phaseOpen u && d.phaseOpen .die && match unitPage u with
    | none => true
    | some (t, i) => !d.stalled t i && d.hget R.hdrStatFenced t i = 0 && d.hget R.hdrStatGated t i = 0 && d.hget R.hdrStatReset t i = 0

/-- One edge of a unit's run-down: CLOSING ends, the bound counts down, an IDLE unit that may re-open runs (R91, R93, R96). -/
def edgeRundown (d : Die) (u : UnitId) : Die :=
  let r := d.rundown u
  match r.phase with
  | .run => d
  | .closing => d.setRundown u { r with phase := .draining, left := r.bound }
  | .draining => d.setRundown u { r with left := r.left - 1 }
  | .idle => if r.reopen && !r.reset then d.setRundown u RunDown.none else d

/-- The unit reaches IDLE: its page reports the end of the run-down, and a clear that came early re-opens it at the next
edge (R94, R96). A group reports through COLL.GVIEW.STATE and its COLL page. -/
def reachIdle (d : Die) (u : UnitId) : Die :=
  let r := d.rundown u
  let d := d.setRundown u { r with phase := .idle, left := 0, reopen := r.cleared, cleared := false }
  match u with
  | .die => (d.setBit R.tickRdStatDone true).raise I.tickRundownDone
  | .port p => d.raise I.portRundownDone p.toNat
  | .vat v => d.raise I.vatRundownDone v.toNat
  | .group g => d.raise I.collRundownDone (g.toNat / 256)

/-- PAGE_CTL.run-down is cleared: at once for an IDLE unit, after IDLE for one that still runs down (R96). -/
def clearRundown (d : Die) (u : UnitId) : Die :=
  let d := match u with
    | .die => d.setBit R.tickRdStatDone false
    | _ => d
  let r := d.rundown u
  match r.phase with
  | .run => d
  | .idle => if r.gate || r.fence then d else d.setRundown u { r with reopen := true }
  | _ => d.setRundown u { r with cleared := true }

end Die

/-- The units of the die whose run-downs a tick edge moves: the die, its ports and its vats; groups are taken from the table. -/
def unitOfKey (k : Nat) : UnitId :=
  if k = 0 then .die
  else if k < 65 then .port (BitVec.ofNat 6 (k - 1))
  else if k < 1000 then .vat (BitVec.ofNat 5 (k - 100))
  else .group (BitVec.ofNat 12 (k - 1000))

/-- Every run-down moves one edge on. -/
def Die.edgeRundowns (d : Die) : Die := d.forAll d.tick.rundown (fun d e => d.edgeRundown (unitOfKey e.1))

end Sys2Proof.Machine
end

