-- ==== Sys2Proof/Machine/Refuse.lean ====
section
/-!
DEFINITION. Machine/Refuse.lean: how an access error is shown (spec 24, R952), who a requester is, and the roles in force.
-/
namespace Sys2Proof.Machine

/-- CHIP.ACC.CLASS of a requester class. -/
def clsCode : Cls → Nat
  | .steward => 0
  | .host => 1
  | .mbox => 2
  | .mgmt => 3

/-- Access error kinds (table Access error kinds). -/
inductive AccKind where
  | unimplPage | tooLong | cross | unimplOfs | wide | narrow | code | locked | refused | window
  deriving DecidableEq, Repr

/-- The code of an access error kind. -/
def AccKind.toNat : AccKind → Nat
  | .unimplPage => 1 | .tooLong => 2 | .cross => 3 | .unimplOfs => 4 | .wide => 5 | .narrow => 6 | .code => 7
  | .locked => 8 | .refused => 9 | .window => 10

namespace Die

/-- ACCESS_ERR sets in a page, CHIP.ACC latches the first error since VALID was cleared, and CHIP.ACC_CNT counts (R952). -/
def accErr (d : Die) (t : PageType) (inst : Nat) (c : Cls) (write : Bool) (addr : Nat) (k : AccKind) : Die :=
  let d := (d.hset R.hdrStatAccessErr 1 t inst).bump R.chipAccCntCount
  if d.bit R.chipAccValid then d
  else
    (((((d.set R.chipAccKind k.toNat).set R.chipAccClass (clsCode c)).setBit R.chipAccWrite write).setBit R.chipAccValid true).set
      R.chipAccAddrAddr addr).raise I.chipAccess

/-- A write to a register of a page that a named rule discards (check 8, REFUSED). -/
def refuse (d : Die) (t : PageType) (inst : Nat) (c : Cls) (off : Nat) : Die :=
  d.accErr t inst c true (0x1000 * pageIndex t inst + off) .refused

/-- The boot step whose start brings a block's pages into service (table Boot steps). -/
def bootStep : PageType → Nat
  | .chip | .sec | .smb | .gpio | .pwr | .errlog | .host | .hdr => 1
  | .tick | .hoop | .harp | .rng | .telem | .det | .plan => 3
  | .casc | .laneq | .port => 4
  | .cave => 5
  | .vat | .ten | .coll | .rt => 7
  | .disc => 8
  | .mbox | .dma => 9

/-- Has boot brought the pages of a block into service (R994, R995)? Step 8 starts when formation has ended, step 9 is HOST_READY. -/
def inService (d : Die) (t : PageType) : Bool :=
  match t with
  | .disc => decide (7 ≤ d.boot.stage) && d.get R.cascStatState != 0
  | .mbox | .dma => d.boot.hostReady
  | _ => decide (bootStep t ≤ d.boot.stage)

/-- Is a page under reset (R908, R995)? -/
def underReset (d : Die) (t : PageType) (inst : Nat) : Bool := !d.inService t || d.hget R.hdrStatReset t inst == 1

/-- An access to a page under reset is logged in the page of its requester; a forwarded access is logged by the acting master (R908). -/
def busyReset (d : Die) (c : Cls) (t : PageType) (inst : Nat) : Die :=
  let det := leBytes 2 (pageIndex t inst) ++ leBytes 1 d.pos
  let d := d.bump R.errlogBusyrst
  match c with
  | .host => d.logErr .host 0 0x0D00 0 det
  | .mbox => d.logErr .mbox 0 0x0D00 0 det
  | .mgmt | .steward => d.logErr .errlog 0 0x0D00 0 det

/-- A write that has a command of its own acts on a page in service; one to a page under reset is discarded (R908). -/
def onPage (d : Die) (c : Cls) (t : PageType) (inst : Nat) (f : Die → Die) : Die :=
  if d.underReset t inst then d.busyReset c t inst else f d

/-- Is the page locked (R22, R950)? -/
def locked (d : Die) (t : PageType) (inst : Nat := 0) : Bool := d.hget R.hdrLock t inst = 1

/-- A port's role in force (R105, R109). -/
def role (d : Die) (p : Nat) : Nat := (smapGet 0 d.casc.role p).toNat

/-- A port's attribute in force (R106). -/
def attrOf (d : Die) (p : Nat) : Nat := (smapGet 0 d.casc.attr p).toNat

/-- Is the port a DROP port? -/
def isDrop (d : Die) (p : Nat) : Bool := d.role p == 1
/-- Is the port a TRUNK port? -/
def isTrunk (d : Die) (p : Nat) : Bool := d.role p == 2
/-- Is the port a STACK port? -/
def isStack (d : Die) (p : Nat) : Bool := d.role p == 3

/-- The ports with a property, in ascending order. -/
def portsWith (_d : Die) (f : Nat → Bool) : List Nat := (List.range 64).filter f

/-- Does the PORT page show IDLE? -/
def portIdle (d : Die) (p : Nat) : Bool := d.hget R.hdrStatState .port p == 3

end Die

/-- A port that has never come up. -/
def PortSt.init : PortSt :=
  { lanes := [], vcs := [], grantG := 0, recorded := false, shifted := false, alignBad := false, unacked := [], sendq := []
    noProg := 0, replay := [], mlastOut := 63, mlastIn := 63, csyncReq := [], csyncDue := [], vcp := 0, rennetDue := false
    credSeen := 0, settledIn := false, settledOut := false, psReq := none, psAgreed := none, quiet := 0, hello := []
    helloTx := [], egressOut := [], txSeq := 0, txHist := [], hold := none, mismatch := false
    leftUp := false }

/-- A lane that has seen nothing. -/
def LaneSt.init : LaneSt :=
  { winPos := 0, winBad := 0, uncorrRun := 0, hist := 0, badPrev := false, logVal := 0, logRun := 0, fillRec := none
    deskew := none }

/-- A VC with no credit and no packet. -/
def VcSt.init : VcSt :=
  { sent := 0, retRx := 0, gRx := none, rcv := 0, ret := 0, lastRet := 0, discard := false, openLeft := 0, withheld := 0
    poisoned := false }

namespace Die

/-- A port's state beside its registers. -/
def port (d : Die) (p : Nat) : PortSt := smapGet PortSt.init d.ports p

/-- A port's state changed. -/
def modPort (d : Die) (p : Nat) (f : PortSt → PortSt) : Die := { d with ports := smapMod PortSt.init d.ports p f }

/-- A lane of a port. -/
def lane (d : Die) (p l : Nat) : LaneSt := smapGet LaneSt.init (d.port p).lanes l

/-- A lane changed. -/
def modLane (d : Die) (p l : Nat) (f : LaneSt → LaneSt) : Die :=
  d.modPort p (fun s => { s with lanes := smapMod LaneSt.init s.lanes l f })

/-- A VC of a port. -/
def vc (d : Die) (p v : Nat) : VcSt := smapGet VcSt.init (d.port p).vcs v

/-- A VC changed. -/
def modVc (d : Die) (p v : Nat) (f : VcSt → VcSt) : Die :=
  d.modPort p (fun s => { s with vcs := smapMod VcSt.init s.vcs v f })

/-- A message joins the queue of those not yet sent (R221). -/
def queueMsg (d : Die) (p : Nat) (m : Msg) : Die := d.modPort p (fun s => { s with sendq := s.sendq ++ [m] })

/-- Several messages join the queue. -/
def queueMsgs (d : Die) (p : Nat) (ms : List Msg) : Die := d.modPort p (fun s => { s with sendq := s.sendq ++ ms })

/-- The link state of a port (table Link states). -/
def link (d : Die) (p : Nat) : Nat := d.get R.portLinkState p

/-- A protocol error: counted, and logged as EP_PROTO on a DROP port (R209, R254). -/
def protoErr (d : Die) (p : Nat) : Die :=
  let d := (d.bump R.portProto p).raise I.portProto p
  if d.isDrop p then d.logErr .port p 0x0500 1 (leBytes 1 p) else d

/-- The lowest STACK port toward a sibling that is up (R140, R329): the ACTIVE ones, in order. -/
def stackPorts (d : Die) (die : Nat) : List Nat :=
  d.portsWith (fun p => d.isStack p && d.attrOf p == die && d.link p == 2)

end Die
end Sys2Proof.Machine
end

