-- ==== Sys2Proof/Machine/Snap.lean ====
section
/-!
DEFINITION. Machine/Snap.lean: when the fingerprint changes (spec 18, R752 to R754): the snapshot of what the canonical image is built from.
-/
namespace Sys2Proof.Machine
namespace Die

/-- Order of plan entries: TID, then PLAN_ID (R753). -/
def fpBefore (a b : FpPlan) : Bool := decide (a.tid < b.tid ∨ (a.tid = b.tid ∧ a.planId ≤ b.planId))

/-- The plan entries of the die: its ACTIVE plans (R753). -/
def fpPlans (d : Die) : List FpPlan :=
  sortLe fpBefore (d.plans.slots.filterMap (fun e => match e.2.img with
    | some i => if e.2.state = 3 then some (FpPlan.mk i.tid i.planId i.hash i.shash i.pseed i.base) else none
    | none => none))

/-- What the canonical image is built from, now. -/
def fpTake (d : Die) : FpSnap := { regs := d.regs, quota := d.hoops.quota, tmap := d.cave.tmap, plans := d.fpPlans }

/-- A change at the present edge: all changes of one edge give one new value, and until it is published PENDING shows (R754, R755). -/
def fpTouch (d : Die) : Die :=
  let now := d.tick.count.toNat
  let same := d.bit R.detFpPending && d.get64 R.detFpTickLo R.detFpTickHi == now
  let d := if same then d else (d.set R.detFpGen (d.get R.detFpGen + 1)).set64 R.detFpTickLo R.detFpTickHi now
  let d := d.setBit R.detFpPending true
  { d with det := { d.det with snap := d.fpTake } }

/-- A det register was written: the change is set at the next edge (R58). -/
def fpDirty (d : Die) : Die := { d with det := { d.det with dirty := true } }

end Die
end Sys2Proof.Machine
end

