-- ==== Sys2Proof/Machine/Link.lean ====
section
/-!
DEFINITION. Machine/Link.lean: the link layer's shared operations (spec 05): credit, INIT and OFFLINE, what hellos say
(spec 06, R255 to R260) and the bundles of the wiring (R120, R121).
-/
namespace Sys2Proof.Machine
namespace Die

/-! ### Credit (R225 to R233) -/

/-- The credit pool a port grants on a VC: 2,048 on the even VCs of a DROP port, PORT.GRANT on every VC of a TRUNK or STACK
port (R224, R225). -/
def grantFor (d : Die) (p v : Nat) : Nat :=
  if d.isDrop p then (if v % 2 = 0 then 2048 else 0)
  else if d.isTrunk p || d.isStack p then d.get R.portGrant p else 0

/-- Flits a receiver frees: RET counts them (R228), but for those that a DROP port withholds on VC 4 (R421, R422). -/
def freeFlits (d : Die) (p v n : Nat) : Die :=
  if smapGet false d.withholding p && v = 4 then d.modVc p v (fun s => { s with withheld := s.withheld + n })
  else d.modVc p v (fun s => { s with ret := s.ret + BitVec.ofNat 15 n })

/-- Credit held toward the far end on a VC: (RET − SENT) mod 2^15 with the latest RET received (R227). -/
def credit (d : Die) (p v : Nat) : Nat := ((d.vc p v).retRx - (d.vc p v).sent).toNat

/-- Does the sender hold all of its credits back: as many as the far end granted at INIT (R245)? -/
def allCredit (d : Die) (p : Nat) : Bool :=
  (List.range 8).all (fun v => let s := d.vc p v; s.gRx.isNone || s.gRx == some (s.retRx - s.sent))

/-! ### Bundles (R120, R121, R327) -/

/-- The role and attribute of a port of any die of the node: in force on this die, from the wiring table elsewhere. -/
def nodeRole (d : Die) (die p : Nat) : Nat × Nat :=
  if die = d.pos then (d.role p, d.attrOf p)
  else let w := (smapGet 0 d.casc.wiring (64 * die + p)).toNat; (w % 4, w / 4)

/-- The members of the node's bundle for a direction, by die and then port (R120, R121). -/
def bundle (d : Die) (dir : Nat) : List (Nat × Nat) :=
  ((List.range (d.get R.cascCfgDies + 1)).flatMap (fun die => (List.range 64).map (fun p => (die, p)))).filter
    (fun x => d.nodeRole x.1 x.2 == (2, dir))

/-- A port's index in its bundle (R121). -/
def memberIdx (d : Die) (p : Nat) : Nat := (d.bundle (d.attrOf p)).findIdx (· == (d.pos, p))

/-! ### What a hello says (table Hello fragments) -/

/-- Bits `[lsb + w − 1 : lsb]` of a received fragment; 0 before it arrives. -/
def hf (d : Die) (p frag lsb w : Nat) : Nat :=
  fieldGet ((smapGet none (d.port p).hello frag).getD 0) lsb w

/-- Has the fragment arrived since INIT? -/
def hasFrag (d : Die) (p frag : Nat) : Bool := (smapGet none (d.port p).hello frag).isSome

/-- Is the port's hello complete (R256, R258)? -/
def helloComplete (d : Die) (p : Nat) : Bool :=
  (List.range (if d.isDrop p then 3 else 13)).all (d.hasFrag p)

/-- The sender's serial (fragments 1 and 2). -/
def hSerial (d : Die) (p : Nat) : Nat := d.hf p 1 0 32 + 2 ^ 32 * d.hf p 2 0 32
/-- The sender's ROOT (fragments 5 and 6). -/
def hRoot (d : Die) (p : Nat) : Nat := d.hf p 5 0 32 + 2 ^ 32 * d.hf p 6 0 32
/-- The sender's STBY (fragments 7 and 8). -/
def hStby (d : Die) (p : Nat) : Nat := d.hf p 7 0 32 + 2 ^ 32 * d.hf p 8 0 32

/-- The node serial (R137). -/
def serial (d : Die) : Nat := d.get64 R.cascSerialLo R.cascSerialHi

/-- The fragment's value that this die sends on a port (table Hello fragments). -/
def helloData (d : Die) (p frag : Nat) : BitVec 32 :=
  let dir := if d.isTrunk p then d.attrOf p else 7
  let n : Nat := match frag with
    | 0 => 1 + 2 ^ 8 + 2 ^ 9 * d.pos + 2 ^ 11 * p + 2 ^ 17 * dir + 2 ^ 20 * d.role p + 2 ^ 22 * d.get R.discCfgElig
        + 2 ^ 23 * d.get R.cascTopoMode + 2 ^ 25 * d.get R.tickCfgLen
        + 2 ^ 28 * (if d.isTrunk p then (d.bundle dir).length - 1 else 0)
    | 1 => d.get R.cascSerialLo
    | 2 => d.get R.cascSerialHi
    | 3 => d.get R.discCoordXyz + 2 ^ 9 * d.get R.discCoordValid + 2 ^ 10 * d.get R.discCoordSizes
        + 2 ^ 22 * (if d.isTrunk p then d.memberIdx p else 0)
    | 4 => d.get R.tickStatState + 2 ^ 3 * d.disc.flock.toNat + 2 ^ 4 * d.disc.rpath.toNat + 2 ^ 5 * d.get R.discStatHops
        + 2 ^ 9 * d.get R.discStatIsroot + 2 ^ 10 * (if d.bit R.discParentValid && d.get R.discParentPort == p then 1 else 0)
        + 2 ^ 11 * (if d.disc.leaving.isSome then 1 else 0) + 2 ^ 12 * (if d.get R.discStatPhase = 8 then 1 else 0)
        + 2 ^ 13 * d.get R.discStatRootGen + 2 ^ 21 * d.disc.shops.toNat + 2 ^ 25 * d.disc.rleave.toNat
    | 5 => d.get R.discRootLo
    | 6 => d.get R.discRootHi
    | 7 => d.get R.discStbyLo
    | 8 => d.get R.discStbyHi
    | 9 => match dir with
        | 0 => fieldGet (d.disc.walk.setWidth 32) 0 4
        | 2 => 2 ^ 4 * fieldGet (d.disc.walk.setWidth 32) 4 4
        | 4 => 2 ^ 8 * fieldGet (d.disc.walk.setWidth 32) 8 4
        | 1 => 2 ^ 12 * fieldGet (d.disc.walk.setWidth 32) 12 4
        | 3 => 2 ^ 16 * fieldGet (d.disc.walk.setWidth 32) 16 4
        | 5 => 2 ^ 20 * fieldGet (d.disc.walk.setWidth 32) 20 4
        | _ => 0
    | 10 => d.get R.chipIdentForm + 2 ^ 4 * d.get R.chipIdentStep + 2 ^ 12 * d.get R.cascCfgDies
    | 11 => d.tick.count.toNat % 2 ^ 32
    | 12 => d.tick.count.toNat / 2 ^ 32
    | 14 => 2 ^ 8 * ((d.get R.discCoordXyz % 8) * 2 ^ 6 + (d.get R.discCoordXyz / 8 % 8) * 2 ^ 3 + d.get R.discCoordXyz / 64)
        + 2 ^ 6 * d.pos + p
    | 15 => match smapGet [] d.disc.stamps p with
        | (tick, arr) :: _ => arr + 2 ^ 23 * (tick % 512)
        | [] => 0
    | _ => 0
  BitVec.ofNat 32 n

/-- The fragments a Kesil die sends on a port (R256). -/
def helloFrags (d : Die) (p : Nat) : List Nat :=
  if d.isDrop p then [0, 1, 2, 3, 4, 11, 12, 14] else List.range 13

/-- May the port send hellos: TRUNK ports only once the node is FORMED (R135, R1008)? -/
def helloAllowed (d : Die) (p : Nat) : Bool :=
  (d.link p == 1 || d.link p == 2) && d.casc.tablesOk && (!d.isTrunk p || d.get R.cascStatState == 1)

/-- One fragment joins the message queue, and is noted as sent. -/
def sendHello (d : Die) (p frag : Nat) : Die :=
  let v := d.helloData p frag
  (d.queueMsg p (.hello (BitVec.ofNat 4 frag) v)).modPort p (fun s => { s with helloTx := smapSet none s.helloTx frag (some v) })

/-- All of the port's fragments, in ascending order (R257). -/
def sendHellos (d : Die) (p : Nat) : Die :=
  if d.helloAllowed p then d.forAll (d.helloFrags p) (fun d f => d.sendHello p f) else d

/-- The fragments whose value has changed since they were sent (R257); the counter's fragments go with the periodic hello. -/
def refreshHellos (d : Die) : Die :=
  d.forAll (d.portsWith (fun p => d.role p != 0 && d.helloAllowed p)) (fun d p =>
    d.forAll ((d.helloFrags p).filter (fun f => f != 11 && f != 12)) (fun d f =>
      if smapGet none (d.port p).helloTx f = some (d.helloData p f) then d else d.sendHello p f))

/-! ### OFFLINE and INIT (R242 to R244, R324) -/

/-- A granted packet whose flits not yet sent become zero flits (R324); the header is its first flit. -/
def padGrant (g : Grant) : Grant :=
  let pk := g.ent.pkt
  let keep := 64 * (1 + (pk.len.toNat + 63) / 64 - g.left - 1)
  { g with padded := true, ent := { g.ent with pkt := { pk with
      payload := pk.payload.take keep ++ List.replicate (pk.payload.length - keep) 0 } } }

/-- Packets granted from an input that went OFFLINE are completed with zero flits (R324). -/
def padInput (d : Die) (p : Nat) : Die :=
  { d with sw := { d.sw with grant := d.sw.grant.map (fun (k, g) =>
      (k, g.map (fun g => if g.ent.inPort = p then padGrant g else g))) } }

/-- The port goes OFFLINE (R244). -/
def linkOffline (d : Die) (p : Nat) : Die :=
  let st := d.link p
  if st = 0 then d
  else
    let d := (d.set R.portLinkState 0 p).padInput p
    let d := if st = 2 then (d.raise I.portLost p).modPort p (fun s => { s with leftUp := true }) else d
    let d := if st = 3 then d.raise I.portPs p else d
    d.modPort p (fun s => { s with psReq := none, psAgreed := none })

/-- The port's lanes leave UP (R195, R244). -/
def portDown (d : Die) (p : Nat) : Die :=
  let was := d.get R.laneqPstatState p
  let d := d.set R.laneqPstatState 0 p
  let d := if was = 2 then d.raise I.laneqPortDown p else d
  (d.modPort p (fun s => { s with alignBad := false })).linkOffline p

/-- The port enters INIT: credits, message channel and hellos start again, unacknowledged messages and RX_SETTLED go first
on a DROP port (R217, R218, R225, R226, R242, R257). A port under reset is in service again (R906). -/
def linkInit (d : Die) (p : Nat) : Die :=
  let old := d.port p
  let g := if d.isDrop p then 2048 else d.get R.portGrant p
  let again := if d.isDrop p then old.unacked.map (·.2) ++ old.sendq ++ [.lcmd 6 (BitVec.ofNat 16 (d.get R.portLsnRx p))] else []
  let d := d.modPort p (fun s => { s with
    grantG := g, unacked := [], replay := [], noProg := 0, mlastOut := 63, mlastIn := 63, csyncReq := [], csyncDue := []
    vcp := 0, credSeen := 0, settledIn := false, settledOut := false, psReq := none, psAgreed := none, quiet := 0
    hello := [], helloTx := [], sendq := again, vcs := [] })
  let d := d.forAll (List.range 8) (fun d v =>
    let r := BitVec.ofNat 15 (d.grantFor p v)
    d.modVc p v (fun s => { s with ret := r, lastRet := r }))
  let d := ((d.set R.portMsgNextMsn 0 p).set R.portMsgMackIn 63 p).set R.portMsgMackOut 63 p
  let d := (d.hset R.hdrStatReset 0 .port p).hset R.hdrStatReset 0 .laneq p
  ((d.set R.portLinkState 1 p).set R.portLinkPs 0 p).sendHellos p

/-- A CSYNC_REQ is sent (R209, R232). -/
def askCsync (d : Die) (p : Nat) : Die := d.queueMsg p (.lcmd 5 0)

/-- An acknowledgement: every sequenced message up to MACK leaves the window, and MLAST is held (R218, R219). -/
def takeAck (d : Die) (p : Nat) (mack mlast : BitVec 6) : Die :=
  let s := d.port p
  let i := s.unacked.findIdx (fun m => m.1 == mack)
  let out := !s.unacked.isEmpty
  let s' := if i < s.unacked.length then
      { s with unacked := s.unacked.drop (i + 1), replay := s.replay.filter (fun m => (s.unacked.drop (i + 1)).contains m)
               noProg := 0, mlastIn := mlast }
    else { s with noProg := if out then s.noProg + 1 else 0, mlastIn := mlast }
  (d.modPort p (fun _ => s')).set R.portMsgMackIn mack.toNat p

end Die
end Sys2Proof.Machine
end

