-- ==== Sys2Proof/Machine/Lanes.lean ====
section
/-!
DEFINITION. Machine/Lanes.lean: the commands of the Ixwin lanes (spec 04): lock events, a received superframe from its raw
symbols to what it hands on, deskew, loss and re-hunting; and the segment map of the link layer (spec 05, R203 to R211).
-/
namespace Sys2Proof.Machine
namespace Die

/-! ### Lock -/

/-- Do all four lanes of a port hold superframe lock? -/
def allSf (d : Die) (p : Nat) : Bool := (List.range 4).all (fun l => d.bit R.laneqLaneLstatSfLock p l)

/-- A lane leaves superframe lock and its port goes DOWN (R173, R195). -/
def loseSf (d : Die) (p l : Nat) : Die :=
  if d.bit R.laneqLaneLstatSfLock p l then
    ((((d.setBit R.laneqLaneLstatSfLock false p l).bump R.laneqLaneLossSfLoss p l).modLane p l
      (fun s => { s with uncorrRun := 0, logRun := 0, badPrev := false }))).portDown p
  else d

/-- A lane returns to BL_HUNT (R169, R173). -/
def loseBl (d : Die) (p l : Nat) : Die :=
  if d.bit R.laneqLaneLstatBlLock p l then
    (((d.setBit R.laneqLaneLstatBlLock false p l).bump R.laneqLaneLossBlLoss p l).modLane p l
      (fun s => { s with winPos := 0, winBad := 0 })).loseSf p l
  else d.loseSf p l

/-! ### Alignment (R176, R177, R179, R180, R185, R187, R195, R199) -/

/-- The map that the four logical numbers form: `some false` identity, `some true` reversed (R176). -/
def laneMap (d : Die) (p : Nat) : Option Bool :=
  let v := fun l => (d.lane p l).logVal
  if (List.range 4).all (fun l => v l == l) then some false
  else if (List.range 4).all (fun l => v l == 3 - l) then some true
  else none

/-- An alignment failure is logged once in a bring-up (R177, R179). -/
def alignFail (d : Die) (p code : Nat) : Die :=
  if (d.port p).alignBad then d
  else ((d.modPort p (fun s => { s with alignBad := true })).logErr .laneq p code 1 (leBytes 1 p)).raise I.laneqAlignBad p

/-- The port comes up: deskew depths recorded or restored, latency compared with its record, INIT entered (R180, R195, R199,
R242). -/
def portUp (d : Die) (p : Nat) (depths : List Nat) (lat : Nat) (rev : Bool) : Die :=
  let d := (((d.set R.laneqPstatState 2 p).setBit R.laneqPstatReversed rev p).raise I.laneqPortUp p).set R.laneqLatCurlat lat p
  let lo := depths.foldl min 15
  let hi := depths.foldl max 0
  let d := if (d.port p).recorded then d
    else (d.forAll (List.range 4) (fun d l => d.modLane p l (fun s => { s with deskew := some (depths.getD l 0) }))).set
      R.laneqPstatSkew (hi - lo) p
  let d := d.modPort p (fun s => { s with recorded := true })
  -- the recorded fills are restored (R199)
  let d := d.forAll (List.range 4) (fun d l => match (d.lane p l).fillRec with
    | some n => d.set R.laneqLanePhaseFill n p l
    | none => d)
  let old := d.get R.laneqLatRxlat p
  let d := if d.bit R.laneqPstatCentred p && (decide (old + 1 < lat) || decide (lat + 1 < old)) then
      (((d.logErr .laneq p 0x0406 0 (leBytes 1 p ++ leBytes 2 lat)).raise I.laneqLatShift p).set R.laneqLatRxlat lat p).modPort p
        (fun s => { s with shifted := true })
    else d
  d.linkInit p

/-- An alignment attempt of a port whose four lanes hold superframe lock: the lane map, then the deskew (R176, R177, R179). -/
def tryAlign (d : Die) (p : Nat) (depths : List Nat) (lat : Nat) : Die :=
  if !(List.range 4).all (fun l => decide (3 ≤ (d.lane p l).logRun)) then d
  else match d.laneMap p with
    | none => d.alignFail p 0x0402
    | some rev =>
      if 8 < depths.foldl max 0 - depths.foldl min 15 then d.alignFail p 0x0403
      else d.portUp p depths lat rev

end Die

/-! ### A superframe of one lane -/

/-- What one lane gives the port: whether it was correctable, its 19 data payloads' bits, and its 56 supervisory bits. -/
structure LaneRx where
  ok : Bool
  prevBad : Bool
  data : List Bool
  sup : Nat

namespace Die

/-- The fixed windows of 64 headers, over the headers of one superframe (R169). -/
def countHdrs (d : Die) (p l : Nat) (bits : List Bool) : Die :=
  (List.range 20).foldl (fun d b =>
    let bad := (sfBlock bits b).take 2 != (if b = 19 then [true, false] else [false, true])
    let d := if bad then d.bump R.laneqLaneBadhdr p l else d
    d.modLane p l (fun s =>
      if s.winPos = 63 then { s with winPos := 0, winBad := 0 }
      else { s with winPos := s.winPos + 1, winBad := s.winBad + bad.toNat })) d

/-- One lane's superframe decoded, counted and descrambled (R160 to R164, R167, R168, R170, R173, R176). -/
def rxLane (d : Die) (p l : Nat) (x : RxLane) : Die × LaneRx :=
  let raw := x.syms.map (·.toNat)
  let d := d.countHdrs p l (raw.flatMap symBits)
  let s := d.lane p l
  let (ok, word, n) := match rsDecode raw with
    | some (w, n) => (true, w, n)
    | none => (false, raw, 0)
  let (bits, h) := descramble s.hist (sfStream (word.flatMap symBits))
  let sup := bitsNat (bits.drop 4864)
  let d := d.set R.laneqLanePhaseFill x.fill.toNat p l
  let d := d.bump64 R.laneqLaneCorrLoCorr R.laneqLaneCorrHiCorr p l n
  let d := if 7 ≤ n then d.bump R.laneqLaneMargin p l else d
  let d := if ok then d else (d.bump R.laneqLaneUncorr p l).raise I.laneqUncorr p
  let run := if !ok then s.logRun else if sup % 4 = s.logVal then s.logRun + 1 else 1
  let d := d.modLane p l (fun s => { s with
    hist := h, badPrev := !ok, uncorrRun := if ok then 0 else s.uncorrRun + 1
    logVal := if ok then sup % 4 else s.logVal, logRun := min run 3 })
  let d := if ok && decide (3 ≤ run) then d.set R.laneqLaneLstatLogical (sup % 4) p l else d
  (d, ⟨ok, s.badPrev, bits.take 4864, sup⟩)

/-- The crossing FIFO of a lane: a slip before frequency lock, LANE_DRIFT after centring (R184, R186). The flag says that the
whole superframe is dropped. -/
def fifoCheck (d : Die) (p l : Nat) (fill : Nat) : Die × Bool :=
  if 2 ≤ fill ∧ fill ≤ 14 then (d, false)
  else if d.bit R.laneqPstatCentred p then
    (((d.logErr .laneq p 0x0404 1 (leBytes 1 p ++ leBytes 1 l)).raise I.laneqDrift p).loseSf p l, true)
  else (d.bump R.laneqLaneSlip p l, decide (14 < fill))

end Die

/-! ### The segment map (R205, R206) -/

/-- A segment: its first position, one past its last, its VC and its kind. -/
structure Seg where
  start : Nat
  stop : Nat
  vc : Nat
  kind : Nat
  deriving DecidableEq, Repr

/-- The segments of a map, before they are checked. -/
def mapSegs (m : Nat) : List Seg :=
  let n := m % 16
  (List.range n).map (fun i =>
    let s := m / 2 ^ (4 + 11 * i)
    ⟨s % 64, if i + 1 < n then m / 2 ^ (4 + 11 * (i + 1)) % 64 else 38, s / 2 ^ 6 % 8, s / 2 ^ 9 % 4⟩)

/-- Is the map valid (R205, R206)? -/
def mapValid (m : Nat) : Bool :=
  let segs := mapSegs m
  decide (m % 16 ≤ 8) && (segs.head?.all (fun s => s.start == 0)) &&
    segs.all (fun s => decide (s.start < s.stop ∧ s.start < 38 ∧ s.stop ≤ 38) && s.kind != 3 && (s.kind != 0 || s.vc == 0))

/-- The 64 bytes of flit `f` of a superframe, from the data bits of the four logical lanes (R203). -/
def flitBytes (lanes : List (List Bool)) (f : Nat) : List Byte :=
  lanes.flatMap (fun bits =>
    let half := (bits.drop (256 * (f / 2) + 128 * (f % 2))).take 128
    (List.range 16).map (fun k => BitVec.ofNat 8 (bitsNat ((half.drop (8 * k)).take 8))))

/-- The flits of a packet whose head flit holds these bytes: LEN at bits [76:64] (R301, R306). -/
def headFlits (bytes : List Byte) : Nat :=
  1 + (leNat ((bytes.drop 8).take 2) % 2 ^ 13 + 63) / 64

namespace Die

/-- The flits of one segment taken on a VC: checks, credit, the open packet and what is handed on (R207 to R210, R224, R226,
R228, R233, R235, R236). `pois f` says whether flit `f` is poisoned. -/
def rxSegment (d : Die) (p : Nat) (lanes : List (List Bool)) (pois : Nat → Bool) (s : Seg) : Die :=
  let n := s.stop - s.start
  let q := (List.range n).countP (fun i => pois (s.start + i))
  let d := d.bump R.portPoison p 0 q
  let d := if s.kind = 0 then d else d.tcount (portTel p (0x08 + s.vc)) n
  let d := if s.kind = 2 then d.tcount (portTel p (0x18 + s.vc)) 1 else d
  if s.kind = 0 then d
  else if d.isDrop p && s.vc % 2 = 1 then d.protoErr p
  else
    let v := d.vc p s.vc
    let room := (v.lastRet - v.rcv).toNat
    let exc := n - min n room
    let d := if 0 < exc then d.protoErr p else d
    let take := n - exc
    let d := d.modVc p s.vc (fun v => { v with rcv := v.rcv + BitVec.ofNat 15 n })
    if s.kind = 1 ∧ v.discard then d.freeFlits p s.vc take
    else if s.kind = 1 ∧ v.openLeft = 0 then (d.protoErr p).freeFlits p s.vc take
    else
      let headPois := decide (s.kind = 2) && pois s.start
      let bytes := (List.range take).flatMap (fun i => flitBytes lanes (s.start + i))
      if headPois && !d.isDrop p then
        ((d.bump R.portHdrDrop p).modVc p s.vc (fun v => { v with discard := true, openLeft := 0 })).freeFlits p s.vc take
      else
        let total := if s.kind = 2 then headFlits bytes else v.openLeft
        let poisoned := decide (0 < q) || decide (0 < exc) || (decide (s.kind = 1) && v.poisoned)
        let d := d.modVc p s.vc (fun v => { v with discard := false, openLeft := total - n, poisoned := poisoned })
        let d := if poisoned && d.isDrop p then d.freeFlits p s.vc take else d
        d.emit (.handFlits p s.vc (decide (s.kind = 2)) poisoned bytes)

/-- A received message: the next in order is kept, every other sequenced one discarded; receipts and reserved types are
checked against the port's role, and what stays is handed on (R216 to R219, R253, R254). -/
def rxMessage (d : Die) (p : Nat) (q : Nat) : Die :=
  let msn := q % 64
  let b := q / 2 ^ 10
  let f := fun lo w => b / 2 ^ lo % 2 ^ w
  let m : Msg := match q / 64 % 16 with
    | 0 => .null
    | 1 => .hello (BitVec.ofNat 4 b) (BitVec.ofNat 32 (f 4 32))
    | 2 => .lcmd (BitVec.ofNat 4 b) (BitVec.ofNat 16 (f 4 16))
    | 3 => .csync (BitVec.ofNat 2 b) (BitVec.ofNat 15 (f 2 15)) (BitVec.ofNat 15 (f 17 15))
    | 4 => .accept (BitVec.ofNat 16 b) (BitVec.ofNat 6 (f 16 6))
    | 5 => .refuse (BitVec.ofNat 16 b) (BitVec.ofNat 4 (f 16 4))
    | 6 => .dlvd (BitVec.ofNat 16 b) (BitVec.ofNat 20 (f 16 20))
    | 7 => .rtnd (BitVec.ofNat 16 b) (BitVec.ofNat 3 (f 16 3))
    | 8 => .taken (BitVec.ofNat 16 b) (BitVec.ofNat 6 (f 16 6))
    | t => .reserved (BitVec.ofNat 4 t) (BitVec.ofNat 36 b)
  match m with
  | .null => d
  | .csync .. => d.emit (.handMsg p m)
  | _ =>
    if msn ≠ (d.get R.portMsgMackOut p + 1) % 64 then d
    else
      let d := d.set R.portMsgMackOut msn p
      match m with
      | .accept .. | .refuse .. | .dlvd .. | .rtnd .. | .reserved .. => d.protoErr p
      | .taken .. => if d.isDrop p then d.emit (.handMsg p m) else d.protoErr p
      | .lcmd cmd _ =>
        if cmd = 0 || decide (6 < cmd.toNat) || (decide (cmd = 6) && !d.isDrop p) then d.protoErr p else d.emit (.handMsg p m)
      | _ => d.emit (.handMsg p m)

/-- The slot of logical lane 2, handed on with its acknowledgement (R212, R215). -/
def rxSlot (d : Die) (p : Nat) (s : Nat) : Die :=
  let mack := s / 2 % 64
  let mlast := s / 2 ^ 7 % 64
  if s % 2 = 0 then
    d.emit (.handSlot p (.credit (BitVec.ofNat 2 (s / 2 ^ 13)) (BitVec.ofNat 15 (s / 2 ^ 15)) (BitVec.ofNat 15 (s / 2 ^ 30)))
      mack mlast)
  else if d.isDrop p then d.protoErr p
  else d.emit (.handSlot p (.rennet (BitVec.ofNat 12 (s / 2 ^ 13)) (BitVec.ofNat 16 (s / 2 ^ 25))) mack mlast)

/-- What an UP port takes from the four logical lanes of a superframe (R160, R164, R204 to R212, R232, R235). -/
def rxContent (d : Die) (p : Nat) (lx : List LaneRx) : Die :=
  let g := fun l => lx.getD l ⟨false, false, [], 0⟩
  let d := if (g 2).ok then d.rxSlot p ((g 2).sup / 2 ^ 10)
    else if (d.port p).unacked.isEmpty then d else d.modPort p (fun s => { s with noProg := s.noProg + 1 })
  let d := if (g 3).ok then d.rxMessage p ((g 3).sup / 2 ^ 10) else d
  let anyBad := lx.any (fun x => !x.ok)
  let anyPrev := lx.any (fun x => x.prevBad)
  let pois := fun f => anyBad || (anyPrev && decide (f < 2))
  if !(g 0).ok || !(g 1).ok then
    let d := (d.bump R.portPoison p 0 38).askCsync p
    d.forAll (List.range 8) (fun d v => d.modVc p v (fun s => { s with poisoned := decide (0 < s.openLeft) || s.poisoned }))
  else
    let m := (g 0).sup / 2 ^ 10 + 2 ^ 46 * ((g 1).sup / 2 ^ 10)
    if !mapValid m then ((d.bump R.portPoison p 0 38).protoErr p).askCsync p
    else if m % 16 = 0 then d
    else if d.link p ≠ 2 then d.protoErr p
    else d.forAll (mapSegs m) (fun d s => d.rxSegment p (lx.map (·.data)) pois s)

/-- A received port superframe (R160 to R168, R176 to R187, R195, R199, R203 to R219, R242). -/
def superframeRx (d : Die) (p : Nat) (f : RxFrame) : Die :=
  if !d.allSf p || 2 ≤ d.get R.portLinkPs p then d
  else
    let ls := [f.l0, f.l1, f.l2, f.l3]
    let (d, rx) := (List.range 4).foldl (fun (d, acc) l =>
      let (d, r) := d.rxLane p l (ls.getD l f.l0); (d, acc ++ [r])) (d, [])
    let (d, drop) := (List.range 4).foldl (fun (d, b) l =>
      let (d, b') := d.fifoCheck p l (ls.getD l f.l0).fill.toNat; (d, b || b')) (d, false)
    if drop then d
    else
      let depths := ls.map (fun x => x.depth.toNat)
      if d.get R.laneqPstatState p ≠ 2 then d.tryAlign p depths f.lat.toNat
      else if d.link p = 0 then d
      else d.rxContent p (if d.bit R.laneqPstatReversed p then rx.reverse else rx)

end Die

/-! ### The commands -/

/-- CDR_LOCK (R182). -/
def execCdrLock (p : BitVec 6) (lane : BitVec 2) (s : State) : Host.Outcome State Fault Refusal :=
  act s (fun d => d.setBit R.laneqLaneLstatCdrLock true p.toNat lane.toNat)

/-- BL_LOCK: 64 valid headers at the candidate (R169). -/
def execBlLock (p : BitVec 6) (lane : BitVec 2) (s : State) : Host.Outcome State Fault Refusal :=
  act s (fun d =>
    if d.bit R.laneqLaneLstatCdrLock p.toNat lane.toNat then
      (d.setBit R.laneqLaneLstatBlLock true p.toNat lane.toNat).modLane p.toNat lane.toNat
        (fun l => { l with winPos := 0, winBad := 0 })
    else d)

/-- BL_LOCK_LOSS: 16 invalid headers in one window (R169, R173). -/
def execBlLockLoss (p : BitVec 6) (lane : BitVec 2) (bad : BitVec 6) (s : State) : Host.Outcome State Fault Refusal :=
  act s (fun d =>
    if d.bit R.laneqLaneLstatBlLock p.toNat lane.toNat then
      (d.bump R.laneqLaneBadhdr p.toNat lane.toNat bad.toNat).loseBl p.toNat lane.toNat
    else d)

/-- SF_LOCK: three consecutive zero syndromes at the candidate offset (R171, R172, R174, R195). -/
def execSfLock (p : BitVec 6) (lane : BitVec 2) (ofs : Fin 20) (s : State) : Host.Outcome State Fault Refusal :=
  act s (fun d =>
    if d.bit R.laneqLaneLstatBlLock p.toNat lane.toNat then
      let d := ((d.setBit R.laneqLaneLstatSfLock true p.toNat lane.toNat).set R.laneqLaneLstatSfOfs ofs.val p.toNat
        lane.toNat).setBit R.laneqLaneLstatHintPol false p.toNat lane.toNat
      let d := d.modLane p.toNat lane.toNat (fun l => { l with uncorrRun := 0, logRun := 0 })
      if d.allSf p.toNat && d.get R.laneqPstatState p.toNat == 0 then d.set R.laneqPstatState 1 p.toNat else d
    else d)

/-- SF_LOCK_LOSS: eight consecutive uncorrectable superframes (R173, R195, R244, R324). -/
def execSfLockLoss (p : BitVec 6) (lane : BitVec 2) (s : State) : Host.Outcome State Fault Refusal :=
  act s (fun d => d.loseSf p.toNat lane.toNat)

/-- HINT_POL: 1 ms in BL_LOCK without SF_LOCK (R174). -/
def execHintPol (p : BitVec 6) (lane : BitVec 2) (s : State) : Host.Outcome State Fault Refusal :=
  act s (fun d =>
    if d.bit R.laneqLaneLstatBlLock p.toNat lane.toNat && !d.bit R.laneqLaneLstatSfLock p.toNat lane.toNat then
      d.setBit R.laneqLaneLstatHintPol true p.toNat lane.toNat
    else d)

/-- SUPERFRAME_RX: a port superframe arrives (R167, R203 to R209). -/
def execSuperframeRx (p : BitVec 6) (f : RxFrame) (s : State) : Host.Outcome State Fault Refusal :=
  act s (fun d => d.superframeRx p.toNat f)

/-- DESKEW_RETRY: the alignment tried again after 256 superframes (R179). -/
def execDeskewRetry (p : BitVec 6) (d0 d1 d2 d3 : BitVec 4) (lat : BitVec 12) (s : State) : Host.Outcome State Fault Refusal :=
  act s (fun d =>
    if d.allSf p.toNat && d.get R.laneqPstatState p.toNat == 1 then
      d.tryAlign p.toNat [d0.toNat, d1.toNat, d2.toNat, d3.toNat] lat.toNat
    else d)

/-- LINK_DOWN: a TRUNK or STACK port not UP 50 ms after lane bring-up (R197). -/
def execLinkDown (p : BitVec 6) (s : State) : Host.Outcome State Fault Refusal :=
  act s (fun d =>
    if (d.isTrunk p.toNat || d.isStack p.toNat) && d.get R.laneqPstatState p.toNat != 2 then
      d.logErr .laneq p.toNat 0x0405 1 (leBytes 1 p.toNat)
    else d)

/-- The lanes of a port hunt again; refused unless the PORT page shows IDLE (R198, LANEQ.PCTL). -/
def Die.rehunt (d : Die) (c : Cls) (p : Nat) : Die :=
  if d.portIdle p then d.forAll (List.range 4) (fun d l => d.loseBl p l) else d.refuse .laneq p c 0x44

/-- REHUNT: LANEQ.PCTL.REHUNT is written (R198). -/
def execRehunt (c : Cls) (p : BitVec 6) (s : State) : Host.Outcome State Fault Refusal :=
  act s (fun d => d.onPage c .laneq p.toNat (fun d => d.rehunt c p.toNat))

end Sys2Proof.Machine
end

