-- ==== Sys2Proof/Machine/Cascade.lean ====
section
/-!
DEFINITION. Machine/Cascade.lean: formation of the node, standby ranks, heartbeats, takeover and forwarded accesses
(spec 03, R129 to R153).
-/
namespace Sys2Proof.Machine
namespace Die

/-- Is a sibling fenced in the CHIP fence map? -/
def dieFenced (d : Die) (x : Nat) : Bool := d.get R.chipFenceDies / 2 ^ x % 2 == 1

/-- Is a die present and not fenced (CASC.STAT.PRESENT)? -/
def diePresent (d : Die) (x : Nat) : Bool := d.get R.cascStatPresent / 2 ^ x % 2 == 1

/-- The dies present and not fenced, the acting master left out, in ascending position. -/
def followers (d : Die) : List Nat := (List.range 4).filter (fun x => d.diePresent x && x != d.master)

/-- The standby ranks recomputed: the standby is die 1 when it is a follower, else the lowest follower (R134). -/
def rerank (d : Die) : Die :=
  let f := d.followers
  let order := if f.contains 1 then 1 :: f.filter (· != 1) else f
  match order with
  | [] => ((d.setBit R.cascStatHasStby false).set R.cascStatStby 0).set R.cascHbRank 0
  | x :: _ => ((d.setBit R.cascStatHasStby true).set R.cascStatStby x).set R.cascHbRank
      (if d.isMaster then 0 else order.findIdx (· == d.pos))

/-- The fence map changes at an edge: the FENCE_CHG cause, and a new fingerprint to come (R914, R754). -/
def fenceChanged (d : Die) : Die := (d.raise I.chipFenceChg).fpTouch

/-- A die of the node is marked fenced: it leaves the present mask, and node credits toward it lapse (R132, R914). -/
def fenceDie (d : Die) (x : Nat) : Die :=
  let d := d.set R.chipFenceDies (d.get R.chipFenceDies ||| 2 ^ x)
  let d := d.set R.cascStatPresent (d.get R.cascStatPresent &&& (15 - 2 ^ x))
  let d := { d with sw := { d.sw with
    ncUsed := d.sw.ncUsed.filter (fun e => e.1 / 512 != x)
    ncFreed := d.sw.ncFreed.filter (fun e => e.1 / 512 != x)
    ncOut := d.sw.ncOut.filter (fun e => e.1 / 512 != x) } }
  (d.fenceChanged).rerank

/-- The siblings whose complete hellos this die holds, with the STACK port each came by (R131). -/
def heard (d : Die) : List (Nat × Nat) :=
  (d.portsWith (fun p => d.isStack p && d.helloComplete p)).map (fun p => (d.hf p 0 9 2, p))

/-- The refusal cause that holds, if one does (table Cascade refusal causes). `gap` says that two present dies have no
working STACK link between them, which the dies report to the master. -/
def refusalCause (d : Die) (gap : Bool) : Nat :=
  let hs := d.heard
  if hs.any (fun (x, p) => x == d.pos || hs.any (fun (y, q) => x == y && d.attrOf p != d.attrOf q)) then 1
  else if hs.any (fun (_, p) => d.hf p 10 0 4 != d.get R.chipIdentForm) then 2
  else if hs.any (fun (_, p) => d.hf p 10 4 8 != d.get R.chipIdentStep) then 3
  else if gap then 4
  else if decide (d.get R.cascCfgDies < d.pos) ||
      hs.any (fun (x, p) => decide (d.get R.cascCfgDies < x) || d.hf p 10 12 2 != d.get R.cascCfgDies || d.hSerial p != d.serial) then 5
  else 0

/-- The node is refused (R135). -/
def refuseNode (d : Die) (cause : Nat) : Die :=
  (((d.set R.cascStatState 2).set R.cascStatCause cause).logErr .casc 0 0x0200 2 (leBytes 1 cause)).raise I.cascRefused

/-- The node is announced formed with a mask of present dies; every missing die is fenced and logged (R131, R132). -/
def announce (d : Die) (acting : Nat) : Die :=
  let present := (List.range (d.get R.cascCfgDies + 1)).filter (fun x => x == d.pos || d.heard.any (fun h => h.1 == x))
  let missing := (List.range (d.get R.cascCfgDies + 1)).filter (fun x => !present.contains x)
  let mask := present.foldl (fun m x => m + 2 ^ x) 0
  let d := d.set R.cascStatMaster acting
  let d := d.forAll missing (fun d x =>
    ((d.set R.chipFenceDies (d.get R.chipFenceDies ||| 2 ^ x)).logErr .casc 0 0x0201 1 (leBytes 1 x)).raise I.cascDieMissing)
  let d := if missing.isEmpty then d else d.fenceChanged
  { d with casc := { d.casc with announced := some (BitVec.ofNat 4 mask) } }

/-- May this die take part in formation: its board tables checked and its hellos go out (R193, R1015)? -/
def forming (d : Die) : Bool := d.get R.cascStatState == 0 && d.casc.announced.isNone && d.casc.tablesOk && d.tick.fatal == 0

/-- The master's end of formation: refusal or announcement (R131, R135). -/
def formNode (d : Die) (gap : Bool) : Die :=
  match d.refusalCause gap with
  | 0 => d.announce d.pos
  | c => d.refuseNode c

/-- The CASC part of a takeover: the old master is fenced, this die acts, a new standby is named (R134, R150). -/
def takeOverNode (d : Die) : Die :=
  let old := d.master
  let d := ((d.set R.cascStatMaster d.pos).fenceDie old).setBit R.cascHbTakeover true
  let d := ((d.set R.cascHbMiss 0).set R.cascHbMaMiss 0).raise I.cascTakeover
  { d with casc := { d.casc with silent := [] } }

/-- A heartbeat goes out on every ACTIVE STACK port but one (R146). -/
def beat (d : Die) (master : Nat) (except : Option Nat) : Die :=
  d.forAll (d.portsWith (fun p => d.isStack p && d.link p == 2 && some p != except)) (fun d p => d.emit (.heartbeat p master))

/-- The heartbeat part of a tick edge: the master beats and toggles MALIVE, a follower counts its misses (R146 to R148). -/
def edgeHeartbeat (d : Die) : Die :=
  if d.get R.cascStatState ≠ 1 then d
  else if d.isMaster then
    let d := d.beat d.pos none
    if d.bit R.cascCfgMalive && (d.pinOf 7).isSome then
      { d with casc := { d.casc with malive := !d.casc.malive } }.drive 7 .malive (!d.casc.malive)
    else d
  else
    let d := d.set R.cascHbMiss (if d.casc.hbSeen then 0 else min 24 (d.get R.cascHbMiss + 1))
    let d := if d.bit R.cascCfgMalive then
        d.set R.cascHbMaMiss (if d.casc.maSeen || d.casc.hbSeen then 0 else min 24 (d.get R.cascHbMaMiss + 1))
      else d
    { d with casc := { d.casc with hbSeen := false, maSeen := false } }

/-- The takeover count of this die's rank (R148). -/
def takeoverCount (d : Die) : Nat := 8 + 8 * d.get R.cascHbRank

/-- The ticks without any packet from each follower, counted on the acting master at an edge (R904). -/
def edgeSilence (d : Die) : Die :=
  if d.get R.cascStatState = 1 ∧ d.isMaster then
    d.forAll d.followers (fun d x => { d with casc := { d.casc with silent := smapMod 0 d.casc.silent x (· + 1) } })
  else d

/-- A packet from a sibling arrived (R904). -/
def heardFrom (d : Die) (x : Nat) : Die := { d with casc := { d.casc with silent := smapSet 0 d.casc.silent x 0 } }

/-- The ticks that forwarded accesses have waited (R143). -/
def edgeForwards (d : Die) : Die :=
  { d with casc := { d.casc with forwarded := d.casc.forwarded.map (fun f => { f with ticks := f.ticks + 1 }) } }

/-- An access forwarded to a follower: in C0 over the lowest STACK port that is up; only reads are answered (R140 to R143). -/
def forward (d : Die) (c : Cls) (addr : Nat) (write : Bool) (data : List (Option Byte)) (len : Nat) : Die :=
  let x := addr / 0x04000000
  match d.stackPorts x with
  | [] => (d.accErr .chip 0 c write (addr % 0x04000000) .unimplPage).emit (.answer c addr .ur [])
  | p :: _ =>
    let d := (d.bump R.cascFwdCntCount).emit (.forward p c addr write data len)
    if write then d
    else
      let f : FwdAcc := ⟨d.casc.nextTag, x, c, addr, write, len, BitVec.ofNat 8 (d.hget R.hdrEpoch .casc), 0⟩
      { d with casc := { d.casc with forwarded := d.casc.forwarded ++ [f], nextTag := (d.casc.nextTag + 1) % 65536 } }

end Die

/-- CASC_FORM_WINDOW_END: the master's 200 ms window ends (R131, R132, R135). -/
def execCascFormWindowEnd (gap : Bool) (s : State) : Host.Outcome State Fault Refusal :=
  act s (fun d => if d.forming && d.pos == 0 then d.formNode gap else d)

/-- ACTING_MASTER_FORM: no hello from position 0 reached die 1 within 200 ms of its lane bring-up (R133). -/
def execActingMasterForm (s : State) : Host.Outcome State Fault Refusal :=
  act s (fun d => if d.forming && d.pos == 1 && !d.heard.any (fun h => h.1 == 0) then d.formNode false else d)

/-- HBEAT_RX: a heartbeat of the acting master is noted and relayed to the other STACK peers; one of a fenced die is
discarded. While this die forms, it learns from it that the node has formed (R146, R148, R323, log entry 8). -/
def execHbeatRx (p : BitVec 6) (die : BitVec 2) (s : State) : Host.Outcome State Fault Refusal :=
  act s (fun d =>
    let x := die.toNat
    if !d.isStack p.toNat || d.dieFenced x then d
    else
      let d := d.heardFrom (d.attrOf p.toNat)
      let d := if d.forming && d.pos != x then d.announce x else d
      if x = d.master && !d.isMaster && d.get R.cascStatState == 1 then
        let fresh := !d.casc.hbSeen
        let d := { d with casc := { d.casc with hbSeen := true } }
        let d := (d.set R.cascHbMiss 0).set R.cascHbMaMiss 0
        if fresh then d.beat x (some p.toNat) else d
      else if d.get R.cascStatState = 1 ∧ x ≠ d.pos ∧ ¬ d.isMaster then
        -- a new acting master has taken over: the formed state names it from its first heartbeat (R150, R151)
        let d := ((d.fenceDie d.master).set R.cascStatMaster x).rerank
        let d := { d with casc := { d.casc with hbSeen := true } }
        ((d.set R.cascHbMiss 0).set R.cascHbMaMiss 0).beat x (some p.toNat)
      else d)

/-- FWD_READ_COMPLETE: the response to a forwarded read; a stale one is discarded and counted (R142, R911). -/
def execFwdReadComplete (tag : BitVec 16) (epoch : BitVec 8) (data : List Byte) (busy : Option (BitVec 10)) (s : State) :
    Host.Outcome State Fault Refusal :=
  act s (fun d =>
    if epoch.toNat ≠ d.hget R.hdrEpoch .casc then d.bump R.errlogStale
    else match d.casc.forwarded.find? (fun f => f.tag == tag.toNat) with
      | none => d.bump R.errlogStale
      | some f =>
        let d := { d with casc := { d.casc with forwarded := d.casc.forwarded.filter (fun g => g.tag != f.tag) } }
        match busy with
        | none => d.emit (.answer f.cls f.addr .ok (data.take f.len))
        | some pg =>
          let d := (d.logErr .casc 0 0x0D00 0 (leBytes 2 pg.toNat ++ leBytes 1 f.die)).bump R.errlogBusyrst
          d.emit (.answer f.cls f.addr .reset (leBytes 4 (0xDEAD0000 + pg.toNat))))

/-- CASC_FWD_LOST: a forwarded read without an answer for 16 ticks (R143). -/
def execCascFwdLost (tag : BitVec 16) (s : State) : Host.Outcome State Fault Refusal :=
  act s (fun d =>
    match d.casc.forwarded.find? (fun f => f.tag == tag.toNat) with
    | none => d
    | some f =>
      if f.ticks < 16 then d
      else
        let d := { d with casc := { d.casc with forwarded := d.casc.forwarded.filter (fun g => g.tag != f.tag) } }
        let d := (d.setBit R.cascErrFwdTimeout true).logErr .casc 0 0x0202 1 (leBytes 1 f.die ++ leBytes 4 f.addr)
        (d.raise I.cascFwdLost).emit (.answer f.cls f.addr .ur []))

end Sys2Proof.Machine
end

