-- ==== Sys2Proof/Machine/CaveErr.lean ====
section
/-!
DEFINITION. Machine/CaveErr.lean: what an access does when a cave line is correctable, uncorrectable or behind a refresh (spec 21, R886 to
R889). Lines are numbered by cave address / 64.
-/
namespace Sys2Proof.Machine
namespace Die

/-- The controller of a line (R868). -/
def caveCtl (line : Nat) : Nat := line / 64 % 10

/-- The bytes of an address and an owner in a record's DETAIL. -/
def caveDetail (d : Die) (line : Nat) : List Byte :=
  leBytes 5 (64 * line) ++ (match d.caveOwner (64 * line) with
    | some (.tenant t) => [BitVec.ofNat 8 t, 0]
    | _ => [0, 1])

/-- A line with a correctable error is used corrected and written back (R888). -/
def caveCe (d : Die) (line : Nat) : Die :=
  let c := caveCtl line
  ((d.bump R.caveCe c).logErr .cave c 0x0C00 0 (d.caveDetail line)).raise I.caveCe c

/-- The tenant that holds a line's page, if one does. -/
def caveTenant (d : Die) (line : Nat) : Option Nat :=
  match d.caveOwner (64 * line) with
  | some (.tenant t) => some t
  | _ => none

/-- CAVEn.UE_ADDR latches an uncorrectable line and its owner (R889). -/
def latchUe (d : Die) (line : Nat) : Die :=
  let c := caveCtl line
  let t := d.caveTenant line
  ((d.set64 R.caveUeAddrLo R.caveUeAddrHi (64 * line) c).set R.caveUeTid (t.getD 0) c).setBit R.caveUeMgmt t.isNone c

/-- A reader meets an uncorrectable line: it stays so, counts, is latched and logged (R889). -/
def caveUe (d : Die) (line : Nat) : Die :=
  let bad := if d.cave.bad.contains line then d.cave.bad else d.cave.bad ++ [line]
  let d : Die := { d with cave := { d.cave with bad := bad } }
  let d := (d.bump R.caveUe (caveCtl line)).latchUe line
  (d.logErr .cave (caveCtl line) 0x0C01 1 (d.caveDetail line) (d.caveTenant line)).raise I.caveUe (caveCtl line)

/-- A request waited for a refreshing bank (R886). -/
def refreshDelay (d : Die) (c : Nat) : Die := if c < 10 then d.bump R.caveRefDelay c else d

/-- A range is read: lines found correctable or uncorrectable now, and those that are uncorrectable already, have their effects (R888,
R889). The answer is the first line that fails, if one does. -/
def caveFetch (d : Die) (a n : Nat) (ce ue : List Nat) : Die × Option Nat :=
  let lines := (List.range ((a % 64 + n + 63) / 64)).map (fun i => a / 64 + i)
  let live := lines.filter (fun l => d.caveClean (64 * l))
  let bad := live.filter (fun l => ue.contains l || d.cave.bad.contains l)
  let d := d.forAll live (fun d l => d.chargeLine (64 * l))
  let d := d.forAll (live.filter (fun l => ce.contains l && !bad.contains l)) caveCe
  let d := match bad with
    | [] => d
    | l :: _ => d.caveUe l
  (d, bad.head?)

end Die
end Sys2Proof.Machine
end

