-- ==== Sys2Proof/Machine/Hoops.lean ====
section
/-!
DEFINITION. Machine/Hoops.lean: the buffer pools (spec 10, R442 to R478, R1059; spec 19, R791): the split, the reserves, the
free stacks with their headers, ownership records, quotas, quarantine and rebuild. What a pop or a record read meets in the
memory itself comes with the command: `found` is the header at the top when it is not the one Kesil wrote, `recBad` says that the
record shows an uncorrectable word (log entry 11).
-/
namespace Sys2Proof.Machine

/-- A record that has never been charged. -/
def HoopCell.init : HoopCell :=
  { tid := 0, mgmt := false, owners := [], pend := false, retired := false, lastTid := 0, lastMgmt := false, charged := false
    queued := false, hdr := [] }

/-- The cell size of a pool (R442). -/
def cellSize : Nat → Nat
  | 0 => 256
  | 1 => 1024
  | 2 => 4096
  | _ => 65536

/-- The smallest pool whose cells hold `size` bytes (R451). -/
def poolFor (size : Nat) : Nat := if size ≤ 256 then 0 else if size ≤ 1024 then 1 else if size ≤ 4096 then 2 else 3

/-- The handle of a cell (R446). -/
def handleOf (pool ix : Nat) : Nat := 2 ^ 30 * pool + ix

/-- The record key of a cell. -/
def cellKey (pool ix : Nat) : Nat := 2 ^ 20 * pool + ix

/-- An owner ID (R464). -/
def owner (kind inst : Nat) : BitVec 16 := BitVec.ofNat 16 (2 ^ 12 * kind + inst % 4096)

/-- Owner kinds 0 and 9 to 15 are reserved (table Owner kinds). -/
def ownerKindOk (o : BitVec 16) : Bool := decide (1 ≤ o.toNat / 4096 ∧ o.toNat / 4096 ≤ 8)

/-- One bit of CRC-8, polynomial 0x07, no reflection. -/
def crc8Bit (c : Nat) : Nat := if 128 ≤ c then (2 * c % 256) ^^^ 7 else 2 * c

/-- CRC-8 of a run of bytes, initial value 0 (table Free cell header). -/
def crc8 (bs : List Byte) : Nat :=
  bs.foldl (fun c b => (List.range 8).foldl (fun c _ => crc8Bit c) (c ^^^ b.toNat)) 0

/-- The header of a free cell (table Free cell header). -/
def freeHeader (pool ix : Nat) (next : Nat) : List Byte :=
  let h := leBytes 4 next ++ [BitVec.ofNat 8 pool, 0x5A, 0, 0] ++ leBytes 4 (handleOf pool ix) ++ [0, 0, 0]
  h ++ [BitVec.ofNat 8 (crc8 h)]

namespace Die

/-- Cells of a pool under the split in force (R443). -/
def poolCells (d : Die) (n : Nat) : Nat :=
  match n with
  | 0 => d.hoops.mibA * 4096
  | 1 => d.hoops.mibB * 1024
  | 2 => d.hoops.mibC * 256
  | _ => (160 - d.hoops.mibA - d.hoops.mibB - d.hoops.mibC) * 16

/-- The lowest index outside the link reserve (R448). -/
def poolLo (d : Die) (n : Nat) : Nat := if n = 2 then d.hoops.linkRsv else 0

/-- The end of the indices outside the Hoop D reserve (R450). -/
def poolHi (d : Die) (n : Nat) : Nat := if n = 3 then d.poolCells 3 - d.hoops.drsv else d.poolCells n

/-- A cell's record. -/
def hcell (d : Die) (n ix : Nat) : HoopCell := smapGet HoopCell.init d.hoops.cells (cellKey n ix)

/-- A cell's record changed. -/
def modCell (d : Die) (n ix : Nat) (f : HoopCell → HoopCell) : Die :=
  { d with hoops := { d.hoops with cells := smapMod HoopCell.init d.hoops.cells (cellKey n ix) f } }

/-- The pushed part of a pool's stack. -/
def hpushed (d : Die) (n : Nat) : List Nat := smapGet [] d.hoops.pushed n

/-- The start of the run under it. -/
def hnext (d : Die) (n : Nat) : Nat := max (smapGet 0 d.hoops.next n) (d.poolLo n)

/-- A pool's state code. -/
def hstate (d : Die) (n : Nat) : Nat := smapGet 0 d.hoops.state n

/-- A pool's state written. -/
def setHstate (d : Die) (n v : Nat) : Die := { d with hoops := { d.hoops with state := smapSet 0 d.hoops.state n v } }

/-- Cells of the run that are in no reserve and not retired, counted. -/
def runCount (d : Die) (n : Nat) : Nat :=
  (d.poolHi n - d.hnext n) -
    (d.hoops.cells.filter (fun e => e.2.retired && e.1 / 2 ^ 20 == n && decide (d.hnext n ≤ e.1 % 2 ^ 20))).length

/-- FREE: cells on the free list (HOOP.POOLn). -/
def hfree (d : Die) (n : Nat) : Nat := (d.hpushed n).length + d.runCount n

/-- The lowest index of the run that is not retired. -/
def runTop (d : Die) (n : Nat) : Option Nat :=
  (List.range ((d.hoops.cells.filter (fun e => e.2.retired)).length + 1)).map (fun i => d.hnext n + i)
    |>.find? (fun ix => decide (ix < d.poolHi n) && !(d.hcell n ix).retired)

/-- The top of a pool's stack (R458). -/
def hoopTop (d : Die) (n : Nat) : Option Nat :=
  match d.hpushed n with
  | ix :: _ => some ix
  | [] => d.runTop n

/-- HOOP.POOLn_HEAD. -/
def hoopHead (d : Die) (n : Nat) : Nat :=
  match d.hoopTop n with
  | some ix => handleOf n ix
  | none => 0xFFFFFFFF

/-- The stack without its top. -/
def dropTop (d : Die) (n : Nat) : Die :=
  match d.hpushed n with
  | _ :: r => { d with hoops := { d.hoops with pushed := smapSet [] d.hoops.pushed n r } }
  | [] => match d.runTop n with
    | some ix => { d with hoops := { d.hoops with next := smapSet 0 d.hoops.next n (ix + 1) } }
    | none => d

/-- A header is valid (R459). -/
def headerValid (d : Die) (n ix : Nat) (h : List Byte) : Bool :=
  let nx := leNat (h.take 4)
  h.length == 16 && crc8 (h.take 15) == ((h.drop 15).headD 0).toNat && (h.drop 4).headD 0 == BitVec.ofNat 8 n
    && (h.drop 5).headD 0 == 0x5A && leNat ((h.drop 6).take 2) == 0 && leNat ((h.drop 8).take 4) == handleOf n ix
    && leNat ((h.drop 12).take 3) == 0
    && (nx == 0xFFFFFFFF || (nx / 2 ^ 30 == n && decide (d.poolLo n ≤ nx % 2 ^ 30 ∧ nx % 2 ^ 30 < d.poolCells n)))

/-- A cell is free (R462). -/
def cellFree (d : Die) (n ix : Nat) : Bool :=
  let c := d.hcell n ix
  c.owners.isEmpty && !c.pend && !c.retired && !c.queued

/-- The cells of a pool charged to a tenant (R466, R472, HOOP.QUSE). -/
def hused (d : Die) (n t : Nat) : Nat :=
  (d.hoops.cells.filter (fun e => e.1 / 2 ^ 20 == n && !e.2.owners.isEmpty && !e.2.mgmt && e.2.tid.toNat == t
    && !e.2.owners.contains (owner 8 0))).length

/-- A tenant's quota in a pool (R472). -/
def hquota (d : Die) (n t : Nat) : Nat := smapGet 0xFFFFF d.hoops.quota (256 * n + t)

/-- A pool enters QUARANTINE (R475). -/
def quarantine (d : Die) (n handle : Nat) : Die :=
  let d := if d.hstate n = 0 then d.setHstate n 1 else d
  (d.logErr .hoop 0 0x0803 1 (leBytes 1 n ++ leBytes 4 handle)).raise I.hoopQuarantine

/-- MINFREE, LOW and telemetry's least count after a pool's FREE has fallen (R1057, HOOP.POOLn, table Snapshot record). -/
def hoopFell (d : Die) (n before : Nat) : Die :=
  let f := d.hfree n
  let d : Die := { d with telem := { d.telem with least := smapMod 0xFFFFF d.telem.least n (min f) } }
  let d := if f < d.get R.hoopMinfreeMin 0 n then d.set R.hoopMinfreeMin f 0 n else d
  let low := d.get R.hoopPoolLowmark 0 n
  if f < low ∧ low ≤ before then d.raise I.hoopLow else d

/-- Pool memory of a cell zeroed (R456). -/
def zeroCell (d : Die) (n ix : Nat) : Die :=
  { d with hoops := { d.hoops with mem := d.hoops.mem.filter (fun e => e.1 / 65536 != cellKey n ix) } }

/-- The bytes of a cell. -/
def cellRead (d : Die) (n ix o len : Nat) : List Byte :=
  (List.range len).map (fun i => smapGet 0 d.hoops.mem (65536 * cellKey n ix + o + i))

/-- Bytes written into a cell. -/
def cellWrite (d : Die) (n ix o : Nat) (bs : List Byte) : Die :=
  { d with hoops := { d.hoops with mem := bytesPut d.hoops.mem (65536 * cellKey n ix + o) bs } }

/-- Bytes of a cell moved are charged to its tenant or MGMT, 64 bytes at a time (table Energy charges, R466). -/
def chargeCell (d : Die) (n ix len : Nat) : Die :=
  let c := d.hcell n ix
  d.charge (if c.mgmt then 256 else c.tid.toNat) 7 ((len + 63) / 64)

/-- A unit stores bytes in a cell that it owns. -/
def cellStore (d : Die) (n ix : Nat) (bs : List Byte) : Die := (d.cellWrite n ix 0 bs).chargeCell n ix bs.length

/-- A cell taken into use by an ALLOC: its record, and zeroing on a change of charge (R456, R463). -/
def takeCell (d : Die) (n ix : Nat) (tid : BitVec 8) (mgmt : Bool) (owners : List (BitVec 16)) : Die :=
  let c := d.hcell n ix
  let same := c.charged && c.mgmt == mgmt && (mgmt || c.tid == tid)
  let d := if same then d else d.zeroCell n ix
  -- the header of 16 bytes is cleared either way
  let d := d.cellWrite n ix 0 (List.replicate 16 0)
  d.modCell n ix (fun c => { c with tid := tid, mgmt := mgmt, owners := owners, lastTid := c.tid, lastMgmt := c.mgmt, charged := true })

/-- One pool tried: a cell, or why not (`true` when only the quota held it back). -/
def tryPool (d : Die) (n : Nat) (r : HoopReq) (found : Option (List Byte)) : Die × (Nat ⊕ Bool) :=
  if d.hstate n ≠ 0 then (d, .inr false)
  else match d.hoopTop n with
    | none => (d, .inr false)
    | some ix =>
      if !r.mgmt && decide (d.hquota n r.tid.toNat ≤ d.hused n r.tid.toNat) then (d, .inr true)
      else
        let good := match found with
          | none => true
          | some h => d.headerValid n ix h
        if !good || !d.cellFree n ix then (d.quarantine n (handleOf n ix), .inr false)
        else
          let before := d.hfree n
          ((((d.dropTop n).takeCell n ix r.tid r.mgmt r.owners).hoopFell n before).tcount (hoopTel n 0) 1, .inl (handleOf n ix))

/-- The pools tried in turn (R453): `quota` says that every pool so far was held back by the quota. -/
def tryPools : Nat → Die → Nat → HoopReq → Option (List Byte) → Bool → Bool → Die × Nat × Nat
  | 0, d, _, _, _, _, quota => (d, (if quota then 3 else 2), 0)
  | f + 1, d, n, r, found, spilled, quota =>
    match d.tryPool n r found with
    | (d, .inl h) => ((if spilled then (d.bump R.hoopSpills).tcount (hoopTel (poolFor r.size.toNat) 2) 1 else d), 0, h)
    | (d, .inr q) =>
      let quota := quota && q
      if n < 3 ∧ d.get R.hoopCfgSpill / 2 ^ n % 2 = 1 then tryPools f d (n + 1) r none true quota
      else (d, (if quota then 3 else 2), 0)

/-- ALLOC: the status and the handle (R451 to R456, R475, R476, R1059). A tenant that is not ACTIVE gets no cell (R777). -/
def hoopAlloc (d : Die) (r : HoopReq) (found : Option (List Byte)) : Die × Nat × Nat :=
  if r.size = 0 || decide (65536 < r.size.toNat) || r.owners.isEmpty || decide (8 < r.owners.length) || !r.owners.Nodup
      || !r.owners.all ownerKindOk then (d, 9, 0)
  else if d.stalled .hoop || (!r.mgmt && d.get R.tenStatState (r.tid.toNat / 4) (r.tid.toNat % 4) != 1) then
    ((d.bump R.hoopNocell).tcount (hoopTel (poolFor r.size.toNat) 3) 1, 2, 0)
  else
    let (d, st, h) := tryPools 4 d (poolFor r.size.toNat) r found false true
    let d := if st = 0 then d else d.tcount (hoopTel (poolFor r.size.toNat) 3) 1
    (if st = 2 then (d.bump R.hoopNocell, st, h) else if st = 3 then (d.bump R.hoopQwait, st, h) else (d, st, h))

/-- The last owner has let go: the cell becomes the top of its stack, or PEND while the pool is not NORMAL (R460, R476, R477). -/
def freeCell (d : Die) (n ix : Nat) : Die :=
  if d.hstate n = 0 then
    let h := freeHeader n ix (d.hoopHead n)
    let d := (d.modCell n ix (fun c => { c with owners := [], hdr := [] })).cellWrite n ix 0 h
    { d.tcount (hoopTel n 1) 1 with hoops := { d.hoops with pushed := smapMod [] d.hoops.pushed n (ix :: ·) } }
  else
    let d := d.modCell n ix (fun c => { c with owners := [], hdr := [], pend := true })
    if d.hstate n = 2 then { d with hoops := { d.hoops with walkFreed := d.hoops.walkFreed ++ [cellKey n ix] } } else d

/-- A record with an uncorrectable word is retired, and its charge ends (R478). -/
def retireCell (d : Die) (n ix : Nat) : Die :=
  let d := d.modCell n ix (fun c => { c with owners := [], retired := true, pend := false, hdr := [] })
  (d.logErr .hoop 0 0x0804 1 (leBytes 4 (handleOf n ix))).raise I.hoopRetired

/-- Does the log have no entry for a new record (R899)? -/
def logFull (d : Die) : Bool := decide (1024 ≤ d.err.log.length) && d.err.log.all (fun e => e.pend)

/-- A rejected command: logged, latched and counted (R470). -/
def rejectHoop (d : Die) (st : Nat) (h : BitVec 32) (o : BitVec 16) (tid : Option Nat) : Die :=
  let d := d.logErr .hoop 0 (0x0800 + (st - 4)) 0 (leBytes 4 h.toNat ++ leBytes 2 o.toNat ++ leBytes 1 st) tid
  let d := (((d.set R.hoopErrCellHandle h.toNat).set R.hoopErrOwnerOwner o.toNat).set R.hoopErrOwnerStatus st).raise I.hoopReject
  if st = 4 then d.bump R.hoopDfree else if st = 5 then d.bump R.hoopOwnerr else d.bump R.hoopNotlast

/-- RELEASE (`fr` false) or FREE: the checks in order, the effect and the status (R467 to R469). A rejected command that finds no
log entry is held and answers nothing yet (R470). -/
def hoopLetGo (d : Die) (fr : Bool) (h : BitVec 32) (o : BitVec 16) (found : Option (List Byte)) (recBad : Bool) :
    Die × Option Nat :=
  let n := h.toNat / 2 ^ 30
  let ix := h.toNat % 2 ^ 20
  let reject (st : Nat) (tid : Option Nat) : Die × Option Nat :=
    if d.logFull then ({ d with hoops := { d.hoops with held := d.hoops.held ++ [(fr, h, o)] } }, none)
    else (d.rejectHoop st h o tid, some st)
  if !ownerKindOk o then (d, some 9)
  else if h.toNat / 2 ^ 20 % 2 ^ 10 ≠ 0 || decide (ix < d.poolLo n) || decide (d.poolCells n ≤ ix) || (d.hcell n ix).retired then (d, some 7)
  else if recBad then ((d.retireCell n ix).quarantine n h.toNat, some 8)
  else
    let c := d.hcell n ix
    let t := if c.mgmt then none else some c.tid.toNat
    if c.owners.isEmpty then
      let good := match found with
        | none => true
        | some b => d.headerValid n ix b
      if good then reject 4 none else (d.quarantine n h.toNat, some 8)
    else if !c.owners.contains o then reject 5 t
    else if c.owners.length = 1 then (d.freeCell n ix, some (if fr then 0 else 1))
    else if fr then reject 6 t
    else (d.modCell n ix (fun c => { c with owners := c.owners.erase o }), some 0)

/-- A register command has completed (HOOP.CMD_RES). -/
def hoopResult (d : Die) (st : Nat) : Die := (d.set R.hoopCmdResStatus st).setBit R.hoopCmdResDone true

/-- A held command completes once an entry has freed (R470); one whose owner is the steward came by HOOP.CMD. -/
def hoopResume (d : Die) : Die :=
  match d.hoops.held with
  | [] => d
  | (fr, h, o) :: r =>
    if d.logFull then d
    else
      let (d, st) := { d with hoops := { d.hoops with held := r } }.hoopLetGo fr h o none false
      match st with
      | some s => if o.toNat / 4096 = 7 then d.hoopResult s else d.emit (.hoopDone (if fr then 2 else 1) s 0)
      | none => d

/-- RELEASE by a unit of the die that does not read the status. -/
def hoopRelease (d : Die) (h : Nat) (o : BitVec 16) : Die := (d.hoopLetGo false (BitVec.ofNat 32 h) o none false).1

/-- Every ownership by owner IDs of a kind of property is released, as at a unit's reset (R471). -/
def releaseOwned (d : Die) (p : BitVec 16 → Bool) : Die :=
  d.forAll (d.hoops.cells.flatMap (fun e => (e.2.owners.filter p).map (fun o => (handleOf (e.1 / 2 ^ 20) (e.1 % 2 ^ 20), o))))
    (fun d x => d.hoopRelease x.1 x.2)

/-! ### The reserves and the split -/

/-- ⌈64 · flits / 4,096⌉ (R448). -/
def rsvCells (flits : Nat) : Nat := (64 * flits + 4095) / 4096

/-- The link reserve that a GRANT rule and an allotment take, for a number of sibling dies (R448, R449). -/
def reserveFor (d : Die) (grant : Nat → Nat) (allot siblings : Nat) : Nat :=
  let bufs := (d.portsWith (fun p => d.isTrunk p || d.isStack p)).foldl (fun n p => n + 8 * rsvCells (grant p)) 0
  let pairs := (d.portsWith d.isTrunk).length * 8 + (d.portsWith d.isDrop).length * 4
  bufs + pairs * siblings * rsvCells allot

/-- The reserve must not pass 75% of Hoop C under either split (R449), nor leave its general part below 1 MiB (R444). -/
def reserveOk (d : Die) (grant : Nat → Nat) (allot : Nat) (mibC : Nat) : Bool :=
  let r := d.reserveFor grant allot (d.get R.cascCfgDies)
  decide (4 * r ≤ 3 * (256 * mibC)) && decide (r + 256 ≤ 256 * mibC) && decide (4 * r ≤ 3 * (256 * d.hoops.mibC))

/-- At cascade formation the link reserve is set aside, and the node allotments start full (R319, R448). -/
def formReserve (d : Die) : Die :=
  let sib := (List.range 4).foldl (fun n x => if x != d.pos && d.get R.cascStatPresent / 2 ^ x % 2 == 1 then n + 1 else n) 0
  let rsv := d.reserveFor (fun p => d.get R.portGrant p) (d.get R.harpNallotAllot) sib
  let d := { d with hoops := { d.hoops with linkRsv := rsv
                                            pushed := smapMod [] d.hoops.pushed 2 (fun l => l.filter (fun ix => decide (rsv ≤ ix))) } }
  { d with sw := { d.sw with nallot := d.get R.harpNallotAllot, ncUsed := [], ncFreed := [], ncOut := [], ncDirty := [] } }

/-- A cold or warm reset threads every pool again, under the split and the Hoop D reserve that the registers hold
(R445, R450, R461). A cold reset ends retirement (R478). -/
def resetHoops (d : Die) (cold : Bool) : Die :=
  let kept := if cold then [] else (d.hoops.cells.filter (fun e => e.2.retired)).map
    (fun e : Nat × HoopCell => (e.1, { HoopCell.init with retired := true }))
  { d with hoops :=
    { mibA := d.get R.hoopSplitA, mibB := d.get R.hoopSplitB, mibC := d.get R.hoopSplitC, drsv := d.get R.hoopCfgDrsv, linkRsv := 0
      pushed := [], next := [], state := [], cells := kept, quota := [], walkFreed := [], held := [], mem := d.hoops.mem } }

/-! ### Rebuild (R477) and zeroing (R791) -/

/-- The walk of a quarantined pool starts. -/
def startWalk (d : Die) (n : Nat) : Die := d.setHstate n 2

/-- The walk of a pool ends: every cell without an owner that is not retired, reserved or queued is threaded in ascending order
over the run, those freed meanwhile above it. -/
def endWalk (d : Die) (n : Nat) : Die :=
  let late := (d.hoops.walkFreed.filter (fun k => k / 2 ^ 20 == n)).map (· % 2 ^ 20)
  let ixs := (List.range (d.hnext n)).filter (fun ix => decide (d.poolLo n ≤ ix) &&
    let c := d.hcell n ix
    c.owners.isEmpty && !c.retired && !c.queued && !late.contains ix)
  let d := d.setHstate n 0
  let d := { d with hoops := { d.hoops with
    pushed := smapSet [] d.hoops.pushed n (late.reverse ++ ixs)
    walkFreed := d.hoops.walkFreed.filter (fun k => k / 2 ^ 20 != n)
    cells := d.hoops.cells.map (fun e : Nat × HoopCell => if e.1 / 2 ^ 20 = n then (e.1, { e.2 with pend := false }) else e) } }
  { d with hoops := { d.hoops with cells := d.hoops.cells.filter (fun e => e.2 != HoopCell.init) } }.raise I.hoopRebuilt

/-- The queued cells of a pool, in ascending handle order (R791). -/
def queuedCells (d : Die) (n : Nat) : List Nat :=
  (d.hoops.cells.filter (fun e => e.1 / 2 ^ 20 == n && e.2.queued)).map (fun e => e.1 % 2 ^ 20)

end Die

/-- HOOP_ALLOC: an ALLOC completes with its status and its handle (R451 to R456). -/
def execHoopAlloc (r : HoopReq) (found : Option (List Byte)) (s : State) : Host.Outcome State Fault Refusal :=
  act s (fun d => let (d, st, h) := d.hoopAlloc r found; d.emit (.hoopDone 0 st h))

/-- HOOP_RELEASE (R467, R469). -/
def execHoopRelease (h : BitVec 32) (o : BitVec 16) (found : Option (List Byte)) (recBad : Bool) (s : State) :
    Host.Outcome State Fault Refusal :=
  act s (fun d => match d.hoopLetGo false h o found recBad with
    | (d, some st) => d.emit (.hoopDone 1 st 0)
    | (d, none) => d)

/-- HOOP_FREE (R468, R469). -/
def execHoopFree (h : BitVec 32) (o : BitVec 16) (found : Option (List Byte)) (recBad : Bool) (s : State) :
    Host.Outcome State Fault Refusal :=
  act s (fun d => match d.hoopLetGo true h o found recBad with
    | (d, some st) => d.emit (.hoopDone 2 st 0)
    | (d, none) => d)

/-- The write of HOOP.REBUILD: each pool named must be in QUARANTINE, else its bit is discarded with ACCESS_ERR (R477). -/
def Die.rebuildWrite (d : Die) (c : Cls) (w : Word) : Die :=
  d.forAll ((List.range 4).filter (fun n => w.toNat / 2 ^ n % 2 == 1)) (fun d n =>
    if d.hstate n = 1 then d.startWalk n else d.refuse .hoop 0 c 0xF0)

/-- HOOP_REBUILD: a write of HOOP.REBUILD (R477). -/
def execHoopRebuild (c : Cls) (w : Word) (s : State) : Host.Outcome State Fault Refusal :=
  act s (fun d => d.onPage c .hoop 0 (fun d => d.rebuildWrite c w))

/-- REBUILT: the walk of a pool ends (R477). -/
def execRebuilt (pool : BitVec 2) (s : State) : Host.Outcome State Fault Refusal :=
  act s (fun d => if d.hstate pool.toNat = 2 then d.endWalk pool.toNat else d)

end Sys2Proof.Machine
end

