-- ==== Sys2Proof/Machine/Packets.lean ====
section
/-!
DEFINITION. Machine/Packets.lean: the header flit as bytes (table Header flit, R301), the header check (R304), the end-to-end
check (R360, R361), the length in flits (R306) and the op codes (table Op codes, R308 to R310).
-/
namespace Sys2Proof
open Sys2Proof.Machine (leBytes)

/-- The header flit as a number, bit n of the flit at bit n (R301). -/
def Packet.bits (p : Packet) : Nat :=
  p.op.toNat + 2 ^ 8 * p.cls.toNat + 2 ^ 10 * p.mgmt.toNat + 2 ^ 11 * p.d.toNat + 2 ^ 12 * p.mark.toNat + 2 ^ 13 * p.prio.toNat
    + 2 ^ 16 * p.tid.toNat + 2 ^ 24 * p.seid.toNat + 2 ^ 41 * p.deid.toNat + 2 ^ 58 * p.rsvd.toNat + 2 ^ 64 * p.len.toNat
    + 2 ^ 80 * p.lsn.toNat + 2 ^ 96 * p.msgid.toNat + 2 ^ 112 * p.pktidx.toNat + 2 ^ 132 * p.first.toNat + 2 ^ 133 * p.last.toNat
    + 2 ^ 136 * p.path.toNat + 2 ^ 140 * p.hopcnt.toNat + 2 ^ 148 * p.epoch.toNat + 2 ^ 160 * p.fseq.toNat
    + 2 ^ 192 * p.group.toNat + 2 ^ 208 * p.chunk.toNat + 2 ^ 240 * p.cid.toNat + 2 ^ 256 * p.addr.toNat + 2 ^ 320 * p.arg.toNat
    + 2 ^ 384 * p.hcrc.toNat + 2 ^ 416 * p.floor.toNat + 2 ^ 448 * p.crc64.toNat

/-- One bit of a reflected CRC step. -/
def crcBitR (poly c : Nat) : Nat := if c % 2 = 1 then (c / 2) ^^^ poly else c / 2

/-- A reflected CRC of a run of bytes. -/
def crcR (poly init : Nat) (bs : List Byte) : Nat :=
  bs.foldl (fun c b => (List.range 8).foldl (fun c _ => crcBitR poly c) (c ^^^ b.toNat)) init

/-- CRC-32C (R304): polynomial 0x1EDC6F41 reflected. -/
def crc32c (bs : List Byte) : Nat := crcR 0x82F63B78 0xFFFFFFFF bs ^^^ 0xFFFFFFFF

/-- CRC-32 of IEEE 802.3, as the board tables carry it: polynomial 0x04C11DB7 reflected. -/
def crc32 (bs : List Byte) : Nat := crcR 0xEDB88320 0xFFFFFFFF bs ^^^ 0xFFFFFFFF

/-- One bit of the unreflected 64-bit CRC (R360). -/
def crc64Bit (c : Nat) : Nat :=
  if 2 ^ 63 ≤ c then (2 * c % 2 ^ 64) ^^^ 0x42F0E1EBA9EA3693 else 2 * c

/-- CRC-64/ECMA-182 (R360). -/
def crc64Bytes (bs : List Byte) : Nat :=
  bs.foldl (fun c b => (List.range 8).foldl (fun c _ => crc64Bit c) (c ^^^ (b.toNat * 2 ^ 56))) 0

/-- The header with the fields that the header check leaves out set to 0 (R304). -/
def Packet.forHcrc (p : Packet) : Packet := { p with d := false, mark := false, lsn := 0, hopcnt := 0, hcrc := 0 }

/-- The header check over the header (R304). -/
def Packet.hcrcOf (p : Packet) : BitVec 32 := BitVec.ofNat 32 (crc32c (leBytes 64 p.forHcrc.bits))

/-- The header with the fields that the end-to-end check leaves out set to 0 (R361). -/
def Packet.forCrc64 (p : Packet) : Packet :=
  { p with d := false, mark := false, lsn := 0, path := 0, hopcnt := 0, epoch := 0, fseq := 0, hcrc := 0, floor := 0 }

/-- The end-to-end check (R361): header bytes 0 to 55, then the payload. -/
def Packet.crc64Of (p : Packet) : BitVec 64 :=
  BitVec.ofNat 64 (crc64Bytes (leBytes 56 (p.forCrc64.bits % 2 ^ 448) ++ p.payload.take p.len.toNat))

/-- Does the header check hold (R347)? -/
def Packet.hcrcOk (p : Packet) : Bool := p.hcrc == p.hcrcOf

/-- Does the end-to-end check hold (R362)? -/
def Packet.crc64Ok (p : Packet) : Bool := p.crc64 == p.crc64Of

/-- Flits of a packet (R306). -/
def Packet.flits (p : Packet) : Nat := 1 + (p.len.toNat + 63) / 64

/-- The VC of a packet between dies (R223). -/
def Packet.vc (p : Packet) : Nat := 2 * p.cls.toNat + p.d.toNat

/-- The class of an op code; `none` for a reserved one (table Op codes, R308). -/
def opClass (op : Nat) : Option Nat :=
  if op = 0x01 then some 2
  else if op = 0x02 then some 3
  else if op = 0x08 then some 0
  else if 0x10 ≤ op ∧ op ≤ 0x12 then some 1
  else if (0x20 ≤ op ∧ op ≤ 0x24) ∨ (0x30 ≤ op ∧ op ≤ 0x35) then some 0
  else none

/-- Is the op one of management (R309)? -/
def opMgmt (op : Nat) : Bool := decide (0x30 ≤ op ∧ op ≤ 0x35)

/-- May an endpoint send the op (R310)? -/
def opEndpoint (op : Nat) : Bool := op == 1 || op == 2 || op == 8 || op == 0x10 || op == 0x30 || op == 0x31

/-- Node, die and port of an EID (R124). -/
def eidNode (e : BitVec 17) : Nat := e.toNat / 256
/-- See `eidNode`. -/
def eidDie (e : BitVec 17) : Nat := e.toNat / 64 % 4
/-- See `eidNode`. -/
def eidPort (e : BitVec 17) : Nat := e.toNat % 64

/-- The header with its check written anew (R304). -/
def Packet.seal (p : Packet) : Packet := { p with hcrc := p.hcrcOf }

/-- An empty packet, the start of those that Kesil originates (R312). -/
def Packet.blank : Packet :=
  { op := 0, cls := 0, mgmt := false, d := false, mark := false, prio := 0, tid := 0, seid := 0, deid := 0, len := 0, lsn := 0
    msgid := 0, pktidx := 0, first := true, last := true, path := 0, hopcnt := 0, epoch := 0, fseq := 0, group := 0, chunk := 0
    cid := 0, addr := 0, arg := 0, hcrc := 0, floor := 0, crc64 := 0, rsvd := false, payload := [] }

/-- A packet that Kesil originates, with both of its checks (R304, R362). -/
def Packet.finish (p : Packet) : Packet :=
  let p := { p with len := BitVec.ofNat 13 p.payload.length }
  ({ p with crc64 := p.crc64Of }).seal

end Sys2Proof
end

