-- ==== Sys2Proof/Machine/Record.lean ====
section
/-!
DEFINITION. Machine/Record.lean: the record buffer, log entries as bytes, and compare (spec 18, R749, R756 to R761, R771 to R773).
-/
namespace Sys2Proof.Machine

/-- A header flit read from its bytes, with the payload behind it (table Header flit). -/
def packetOf (bs : List Byte) : Packet :=
  let n := leNat (bs.take 64)
  let f := fun lsb w => n / 2 ^ lsb % 2 ^ w
  let p : Packet :=
    { op := BitVec.ofNat 8 (f 0 8), cls := BitVec.ofNat 2 (f 8 2), mgmt := f 10 1 == 1, d := f 11 1 == 1, mark := f 12 1 == 1
      prio := BitVec.ofNat 3 (f 13 3), tid := BitVec.ofNat 8 (f 16 8), seid := BitVec.ofNat 17 (f 24 17), deid := BitVec.ofNat 17 (f 41 17)
      len := BitVec.ofNat 13 (f 64 13), lsn := BitVec.ofNat 16 (f 80 16), msgid := BitVec.ofNat 16 (f 96 16), pktidx := BitVec.ofNat 20 (f 112 20)
      first := f 132 1 == 1, last := f 133 1 == 1, path := BitVec.ofNat 4 (f 136 4), hopcnt := BitVec.ofNat 8 (f 140 8)
      epoch := BitVec.ofNat 8 (f 148 8), fseq := BitVec.ofNat 32 (f 160 32), group := BitVec.ofNat 12 (f 192 12)
      chunk := BitVec.ofNat 32 (f 208 32), cid := BitVec.ofNat 16 (f 240 16), addr := BitVec.ofNat 64 (f 256 64), arg := BitVec.ofNat 64 (f 320 64)
      hcrc := BitVec.ofNat 32 (f 384 32), floor := BitVec.ofNat 32 (f 416 32), crc64 := BitVec.ofNat 64 (f 448 64)
      rsvd := false, payload := bs.drop 64 }
  { p with rsvd := p.bits != n }

/-- A log entry: its head (table Log entry head) and its DATA, padded to a multiple of 16 bytes (R758). -/
def logEntry (tick fofs kind port tid flags crc arg : Nat) (data : List Byte) : List Byte :=
  leBytes 6 tick ++ leBytes 2 fofs ++ leBytes 1 kind ++ leBytes 1 port ++ leBytes 1 tid ++ leBytes 1 flags ++ leBytes 4 data.length
    ++ leBytes 8 crc ++ leBytes 8 arg ++ data ++ List.replicate ((16 - data.length % 16) % 16) 0

/-- An entry of a log as replay reads it: where the next one starts, its head's fields and its DATA. -/
structure RpEnt where
  next : Nat
  tick : Nat
  fofs : Nat
  kind : Nat
  port : Nat
  tid : Nat
  flags : Nat
  crc : Nat
  arg : Nat
  data : List Byte
  bad : Bool
  deriving DecidableEq, Repr

/-- An event of the die for the log and for compare: kind, port, tenant, MGMT, tick and flit offset, CRC, ARG, DATA, and the packet of a packet
event. -/
structure RecEvent where
  kind : Nat
  port : Nat
  tid : Nat
  mgmt : Bool
  tick : Nat
  fofs : Nat
  crc : Nat
  arg : Nat
  data : List Byte
  pkt : Option Packet
  deriving DecidableEq, Repr

/-- The event of a packet accepted (kind 1) or sent (kind 4) on a DROP port. -/
def packetEvent (kind port tick fofs : Nat) (pk : Packet) : RecEvent :=
  { kind := kind, port := port, tid := pk.tid.toNat, mgmt := pk.mgmt, tick := tick, fofs := fofs, crc := pk.crc64.toNat
    arg := pk.lsn.toNat + 2 ^ 16 * pk.op.toNat, data := leBytes 64 pk.bits ++ pk.payload, pkt := some pk }

namespace Die

/-- Flit positions of a tick of the length in force (table Tick lengths). -/
def positions (d : Die) : Nat := ([3130, 6260, 12520, 25039, 50078] : List Nat).getD d.tick.len.toNat 0

/-- The flit offset of the present moment (R61). -/
def fofs (d : Die) : Nat := d.cycle * d.positions / d.tickCycles

/-- A bit of a pair of 32-port masks. -/
def portBit (d : Die) (lo hi : Fld) (p : Nat) : Bool := if p < 32 then d.get lo / 2 ^ p % 2 == 1 else d.get hi / 2 ^ (p - 32) % 2 == 1

/-! ### Record (R756 to R761) -/

/-- Does recording admit events: RECORDING, or DRAINING before its first edge (R765)? -/
def recLive (d : Die) : Bool := d.get R.detRecState == 1 || (d.get R.detRecState == 2 && d.det.drain == 0)

/-- Bytes in the record buffer. -/
def recBytes (d : Die) : Nat := (d.det.buf.map List.length).sum

/-- The capacity of the record buffer: 4 Hoop D cells (R761). -/
def recCap : Nat := 4 * 65536

/-- A GAP entry joins the buffer once there is room (R761). -/
def gapPut (d : Die) : Die :=
  if d.det.lost = 0 ∨ recCap < d.recBytes + 32 then d
  else
    let e := logEntry d.tick.count.toNat d.fofs 7 0 0 0 0 (d.det.lost % 2 ^ 32) []
    { d with det := { d.det with buf := d.det.buf ++ [e], lost := 0 } }.raise I.detRecGap

/-- An entry joins the buffer, or is dropped and counted when the buffer is full (R761). -/
def recPut (d : Die) (e : List Byte) : Die :=
  let d := d.gapPut
  if d.det.lost ≠ 0 ∨ recCap < d.recBytes + e.length then
    { d with det := { d.det with lost := d.det.lost + 1 } }.bump R.detRecLost
  else { d with det := { d.det with buf := d.det.buf ++ [e] } }

/-- An event is written: in full for the region's owner in full mode, else as a digest (R759, R760). -/
def recEvent (d : Die) (ev : RecEvent) (replayed : Bool) : Die :=
  let own := if ev.mgmt then d.bit R.detRecCtlOwnerMgmt else !d.bit R.detRecCtlOwnerMgmt && d.get R.detRecCtlOwner == ev.tid
  let full := !d.bit R.detRecCtlDigest && own
  let flags := (if ev.data.isEmpty || full then 0 else 1) + 2 * ev.mgmt.toNat + 4 * replayed.toNat
  d.recPut (logEntry ev.tick ev.fofs ev.kind ev.port ev.tid flags ev.crc ev.arg (if full then ev.data else []))

/-- Is a port recorded (DET.REC_PORTS)? -/
def recPort (d : Die) (p : Nat) : Bool := d.portBit R.detRecPortsLo R.detRecPortsHi p

/-- Is a tenant recorded (DET.REC_TIDS)? -/
def recTid (d : Die) (t : Nat) : Bool := d.get R.detRecTids 0 (t / 32) / 2 ^ (t % 32) % 2 == 1

/-- A packet event is recorded (R757); one that was sent only with OUTPUT set. -/
def recPacket (d : Die) (ev : RecEvent) (replayed : Bool) : Die :=
  if d.recLive && d.recPort ev.port && (ev.mgmt || d.recTid ev.tid) && (ev.kind != 4 || d.bit R.detRecCtlOutput) then d.recEvent ev replayed else d

/-- A TAKEN receipt is recorded (R757). -/
def recTaken (d : Die) (p first count : Nat) (replayed : Bool) : Die :=
  if d.recLive && d.recPort p && d.bit R.detRecCtlOutput then
    d.recEvent { kind := 2, port := p, tid := 0, mgmt := false, tick := d.tick.count.toNat, fofs := d.fofs, crc := 0, arg := first + 2 ^ 16 * count
                 data := [], pkt := none } replayed
  else d

/-- A host write is recorded (R757): its kind, where it was written, its group and tenant. PLAN.CMD names no group (log entry 34). -/
def recHost (d : Die) (k page ofs : Nat) (g : Option (Nat × Nat)) (data : List Byte) (replayed : Bool := false) : Die :=
  let t := match g with
    | some x => x.2
    | none => 0
  if d.recLive && d.bit R.detRecCtlHost && (g.isNone || d.recTid t) then
    d.recEvent { kind := 3, port := 0, tid := t, mgmt := g.isNone, tick := d.tick.count.toNat, fofs := d.fofs, crc := crc64Bytes data
                 arg := page % 2 ^ 16 + 2 ^ 16 * (ofs % 2 ^ 12) + 2 ^ 28 * k + 2 ^ 32 * (match g with | some x => x.1 | none => 0)
                 data := data, pkt := none } replayed
  else d

/-- A REFRESH or RETRANS overrun is counted, latched, and recorded while record mode runs (R749). -/
def excCount (d : Die) (retrans : Bool) (g chunk : Nat) : Die :=
  let cause := if retrans then 2 else 1
  let tick := (d.tick.count - 1).toNat
  let d := if retrans then d.bump R.detExcRetrans else d.bump R.detExcRefresh
  let d := ((d.set64 R.detExcLastLo R.detExcLastHi tick).set R.detExcCause cause).raise I.detExc
  let d : Die := { d with det := { d.det with exc := true } }
  if d.recLive then
    d.recEvent { kind := 6, port := 0, tid := 0, mgmt := false, tick := tick, fofs := d.fofs, crc := 0
                 arg := g + 2 ^ 16 * cause + 2 ^ 32 * chunk, data := [], pkt := none } false
  else d

/-! ### Reading a log (R767, R771) -/

/-- The owner of the log region that replay reads: that of DET.REC_CTL (R756, DET.RP_BASE). -/
def logSpace (d : Die) : Space := if d.bit R.detRecCtlOwnerMgmt then .mgmt else .tenant (d.get R.detRecCtlOwner)

/-- The entry at an offset of the log; none where the owner's space ends or no entry kind stands (log entry 35). -/
def rpRead (d : Die) (o : Nat) : Option RpEnt :=
  match d.caveAddr d.logSpace (4096 * d.get R.detRpBase + o) 32 with
  | none => none
  | some a =>
    let h := d.caveRead a 32
    let f := fun k n => leNat ((h.drop k).take n)
    let dlen := f 12 4
    if f 8 1 = 0 ∨ 8 < f 8 1 then none
    else
      let size := 32 + (dlen + 15) / 16 * 16
      if (d.caveAddr d.logSpace (4096 * d.get R.detRpBase + o) size).isNone then none
      else some { next := o + size, tick := f 0 6, fofs := f 6 2, kind := f 8 1, port := f 9 1 % 64, tid := f 10 1, flags := f 11 1, crc := f 16 8
                  arg := f 24 8, data := d.caveRead (a + 32) dlen, bad := (d.caveFirstBad a size).isSome }

/-- The first entry from an offset on that meets a property, within `n` entries. -/
def rpFind : Nat → Die → Nat → (RpEnt → Bool) → Option RpEnt
  | 0, _, _, _ => none
  | n + 1, d, o, p =>
    match d.rpRead o with
    | none => none
    | some e => if p e then some e else rpFind n d e.next p

/-- More entries than any log region holds: 558 GiB in entries of 32 bytes. -/
def rpFuel : Nat := 2 ^ 35

/-- Does replay or compare run (DET.RP_STAT)? -/
def rpOn (d : Die) : Bool := d.get R.detRpState == 1

/-- Does replay inject (R767)? -/
def injecting (d : Die) : Bool := d.rpOn && d.bit R.detRpCtlInject

/-- Is a port set in DET.RP_PORTS? -/
def rpPort (d : Die) (p : Nat) : Bool := d.portBit R.detRpPortsLo R.detRpPortsHi p

/-- Is a port a replay port now, whose endpoint is replaced by the log (R769)? -/
def replayPort (d : Die) (p : Nat) : Bool := d.injecting && d.rpPort p

/-- Δ (DET.RP_DELTA). -/
def rpDelta (d : Die) : Nat := d.get64 R.detRpDeltaLo R.detRpDeltaHi

/-- The tick of a recorded event in this run. -/
def rpTick (d : Die) (e : RpEnt) : Nat := (e.tick + d.rpDelta) % 2 ^ 48

/-- Are the HOST entries of a group replayed (R769)? -/
def replayGroup (d : Die) (g : Nat) : Bool :=
  d.injecting && (d.rpFind rpFuel 0 (fun e => e.kind == 3 && e.arg / 2 ^ 28 % 16 != 4 && e.arg / 2 ^ 32 % 2 ^ 12 == g)).isSome

/-! ### Compare (R771 to R773) -/

/-- A bit divergence: the first is latched with its flow and flit, a later one counts (R772). -/
def bitDiverge (d : Die) (tick port kind : Nat) (pk : Option Packet) (flit : Nat) : Die :=
  if d.bit R.detCmpBValid then d.bump R.detCmpCnt
  else
    let d := ((((d.set R.detCmpBTick (tick % 2 ^ 32)).set R.detCmpBTickh (tick / 2 ^ 32)).set R.detCmpBPort port).set R.detCmpBKind kind).setBit R.detCmpBValid true
    let p := pk.getD Packet.blank
    (((((d.set R.detCmpBSeid p.seid.toNat).set R.detCmpBTid p.tid.toNat).set R.detCmpBClass p.cls.toNat).set R.detCmpBDeid p.deid.toNat).set
      R.detCmpBFlit flit).raise I.detCmpBit

/-- A timing divergence: the first is latched, with EXC when an exception was counted since replay started (R772, R773). -/
def timeDiverge (d : Die) (tick port kind : Nat) : Die :=
  if d.bit R.detCmpTValid then d.bump R.detCmpCnt
  else
    (((((d.set R.detCmpTTick (tick % 2 ^ 32)).set R.detCmpTTickh (tick / 2 ^ 32)).set R.detCmpTPort port).set R.detCmpTKind kind).setBit
      R.detCmpTValid true).setBit R.detCmpTExc d.det.exc |>.raise I.detCmpTime

end Die

/-- The index of the first 64-byte flit in which two runs of bytes differ. -/
def firstDiff (a b : List Byte) : Option Nat :=
  (List.range ((max a.length b.length + 63) / 64)).find? (fun i => (a.drop (64 * i)).take 64 != (b.drop (64 * i)).take 64)

namespace Die

/-- The key under which compare keeps its place in the log. -/
def cmpKey (kind port : Nat) : Nat := 64 * kind + port

/-- The next recorded entry of a kind and port. -/
def cmpNext (d : Die) (kind port : Nat) : Option RpEnt :=
  d.rpFind rpFuel (smapGet 0 d.det.cmp (cmpKey kind port)) (fun e => e.kind == kind && e.port == port)

/-- Compare's place for a kind and port moves past an entry. -/
def cmpPast (d : Die) (kind port : Nat) (e : RpEnt) : Die :=
  { d with det := { d.det with cmp := smapSet 0 d.det.cmp (cmpKey kind port) e.next } }

/-- An event meets the next recorded entry of its kind and port (R771). The tick of an entry that is missing is open (log entry 3). -/
def cmpEvent (d : Die) (ev : RecEvent) (next : Option RpEnt) : Die :=
  if !(d.rpOn && d.bit R.detRpCtlCmp) then d
  else match next with
  | none => (d.used.bitDiverge (d.free 48).toNat ev.port ev.kind ev.pkt 0x7F)
  | some e =>
    let full := e.flags % 2 == 0 && !e.data.isEmpty
    let old := packetOf e.data
    let flow := match ev.pkt with
      | some pk => full && (old.seid != pk.seid || old.deid != pk.deid || old.tid != pk.tid || old.cls != pk.cls)
      | none => false
    let d := if e.tid != ev.tid || e.crc != ev.crc || flow || (full && e.data != ev.data) then
        d.bitDiverge e.tick ev.port ev.kind ev.pkt (if full then (firstDiff e.data ev.data).getD 0x7F else 0x7F)
      else d
    if d.bit R.detRpCtlTiming && (d.rpTick e != ev.tick || e.fofs != ev.fofs) then d.timeDiverge e.tick ev.port ev.kind else d

/-- An event is compared, and compare's place moves on (R771). -/
def compare (d : Die) (ev : RecEvent) : Die :=
  if !d.rpOn || (ev.kind == 4 && !d.rpPort ev.port) then d
  else
    let next := d.cmpNext ev.kind ev.port
    let d := d.cmpEvent ev next
    match next with
    | some e => d.cmpPast ev.kind ev.port e
    | none => d

end Die
end Sys2Proof.Machine
end

