-- ==== Sys2Proof/Machine/Disc.lean ====
section
/-!
DEFINITION. Machine/Disc.lean: hellos, root election, ring walks, coordinates, the tick parent, latency, joining, holdover
and failover (spec 06). Of a node's dies, this die decides from the hellos of its own ports (log entry 9).
-/
namespace Sys2Proof.Machine

/-- The opposite of a direction: +X and −X are 0 and 1, and so on (table Port attribute codes). -/
def oppDir (dir : Nat) : Nat := if dir % 2 = 0 then dir + 1 else dir - 1

/-- The direction order −X, −Y, −Z, +X, +Y, +Z (R272). -/
def dirOrder : List Nat := [1, 3, 5, 0, 2, 4]

/-- Is root generation `a` newer than `b` (R267)? -/
def genNewer (a b : Nat) : Bool := decide (1 ≤ (a + 256 - b) % 256 ∧ (a + 256 - b) % 256 ≤ 127)

/-- The generation after `g`: 1 follows 255 (R267). -/
def genNext (g : Nat) : Nat := if g = 255 then 1 else g + 1

/-- One axis of a packed coordinate (table Hello fragments, XYZ). -/
def axisOf (xyz a : Nat) : Nat := xyz / 2 ^ (3 * a) % 8

/-- One size of packed sizes. -/
def sizeOf (sizes a : Nat) : Nat := sizes / 2 ^ (4 * a) % 16

/-- Packed sizes with one of them replaced. -/
def setSize (sizes a v : Nat) : Nat := sizes - sizeOf sizes a * 2 ^ (4 * a) + v % 16 * 2 ^ (4 * a)

namespace Die

/-- TICK.STAT.STATE. -/
def tstate (d : Die) : Nat := d.get R.tickStatState
/-- DISC.STAT.PHASE. -/
def phase (d : Die) : Nat := d.get R.discStatPhase
/-- Is this node the tick root? -/
def isRoot (d : Die) : Bool := d.bit R.discStatIsroot
/-- The configured size of an axis (CASC.TOPO). -/
def cfgSize (d : Die) (a : Nat) : Nat := d.get (match a with | 0 => R.cascTopoDx | 1 => R.cascTopoDy | _ => R.cascTopoDz)
/-- The size in use of an axis; 0 unknown. -/
def size (d : Die) (a : Nat) : Nat := sizeOf (d.get R.discCoordSizes) a
/-- ROOT as advertised. -/
def root (d : Die) : Nat := d.get64 R.discRootLo R.discRootHi
/-- STBY as advertised. -/
def stby (d : Die) : Nat := d.get64 R.discStbyLo R.discStbyHi

/-- TRUNK ports whose complete hello shows no CONFLICT (R276). -/
def neighbours (d : Die) : List Nat :=
  d.portsWith (fun p => d.isTrunk p && d.helloComplete p && !(d.port p).mismatch && d.hf p 4 12 1 == 0)

/-- A neighbour with RPATH set, which carries the root's facts (R265). -/
def rooted (d : Die) : Option Nat := d.neighbours.find? (fun p => d.hf p 4 4 1 == 1)

/-! ### Conflicts (R274 to R276) -/

/-- The node refuses to join (R274, R275). -/
def discConflict (d : Die) (cause p : Nat) : Die :=
  if d.phase = 8 then d
  else
    let d := (((d.set R.discStatPhase 8).set R.discStatCause cause).set R.discStatCport p).set R.discStatCdie d.pos
    let d := (d.logErr .disc 0 0x0300 2 (leBytes 1 cause ++ leBytes 1 d.pos ++ leBytes 1 p)).raise I.discConflict
    d.forAll (d.portsWith (fun q => (d.isTrunk q || d.isDrop q) && d.link q == 2))
      (fun d q => (d.set R.portLinkState 1 q).raise I.portLost q)

/-- The coordinates that a neighbour's hello gives this node (R272). -/
def coordFrom (d : Die) (p : Nat) : Nat :=
  let dir := d.attrOf p
  let a := dir / 2
  let xyz := d.hf p 3 0 9
  let n := max 1 (d.size a)
  let c := if dir % 2 = 0 then (axisOf xyz a + n - 1) % n else (axisOf xyz a + 1) % n
  xyz - axisOf xyz a * 2 ^ (3 * a) + c % 8 * 2 ^ (3 * a)

/-- The conflict cause that a complete TRUNK hello shows, if one does (table Discovery conflict causes). -/
def helloConflict (d : Die) (p : Nat) : Nat :=
  let authority := d.hf p 4 4 1 == 1 || d.hSerial p == d.root
  if authority && d.hf p 0 23 2 != d.get R.cascTopoMode then 1
  else if authority && d.hf p 0 25 3 != d.get R.tickCfgLen then 2
  else if d.hf p 0 28 4 + 1 != (d.bundle (d.attrOf p)).length then 3
  else if d.hf p 3 22 4 != d.memberIdx p then 4
  else if d.hf p 0 17 3 != oppDir (d.attrOf p) then 5
  else if d.hSerial p == d.serial then 9
  else if d.hf p 4 4 1 == 1 && (List.range 3).any (fun a =>
      d.cfgSize a != 0 && sizeOf (d.hf p 3 10 12) a != 0 && sizeOf (d.hf p 3 10 12) a != d.cfgSize a) then 7
  else if d.hf p 3 9 1 == 1 && d.bit R.discCoordValid && d.coordFrom p != d.get R.discCoordXyz then 6
  else if d.hf p 3 9 1 == 1 && (List.range 3).any (fun a => d.size a != 0 && decide (d.size a ≤ axisOf (d.hf p 3 0 9) a)) then 6
  else 0

/-- Do the sizes break the mesh limit (R117)? -/
def meshTooBig (d : Die) : Bool :=
  d.get R.cascTopoMode == 1 && decide (12 < (d.size 0 - 1) + (d.size 1 - 1) + (d.size 2 - 1))

/-! ### Becoming root (R263, R268, R269) -/

/-- The node becomes root: generation, coordinates (0,0,0), ISROOT, RPATH, and its tick from SYSREF (R263). -/
def becomeFirstRoot (d : Die) : Die :=
  if d.meshTooBig then d.discConflict 8 0
  else
    let d := ((((d.set R.discStatRootGen 1).setBit R.discStatIsroot true).set R.discStatHops 0).set R.discCoordXyz 0).setBit
      R.discCoordValid true
    let d := (d.set64 R.discRootLo R.discRootHi d.serial).set R.discStatPhase 7
    let d := { d with disc := { d.disc with rpath := true, rootElect := false, flock := true } }
    (((d.set R.tickStatState 1).raise I.discNewroot).raise I.discJoined).refreshHellos

/-- When every size is known, the root-elect's walks have ended (R263). -/
def walksEnd (d : Die) : Die :=
  if d.disc.rootElect && (List.range 3).all (fun a => d.size a != 0) then d.becomeFirstRoot else d

/-- A walk's count learned by the root-elect (R269, R271). -/
def learnSize (d : Die) (a c : Nat) (p : Nat) : Die :=
  if d.cfgSize a ≠ 0 ∧ d.cfgSize a ≠ c then d.discConflict 7 p
  else (d.set R.discCoordSizes (setSize (d.get R.discCoordSizes) a c)).walksEnd

/-- The outbound walk count of an axis: the field W of the + bundle, or B of the − bundle. -/
def setWalk (d : Die) (i v : Nat) : Die :=
  let w := d.disc.walk.toNat
  { d with disc := { d.disc with walk := BitVec.ofNat 24 (w - sizeOf w i * 2 ^ (4 * i) + v % 16 * 2 ^ (4 * i)) } }

/-- The root-elect starts its walks (R263, R268); an axis without a + port is walked at once. -/
def startWalks (d : Die) : Die :=
  let d := { d with disc := { d.disc with rootElect := true } }.set R.discStatPhase 2
  let d := d.forAll (List.range 3) (fun d a =>
    if (d.bundle (2 * a)).isEmpty then d.set R.discCoordSizes (setSize (d.get R.discCoordSizes) a 1)
    else d.setWalk a 1)
  d.walksEnd.refreshHellos

/-- What a WALK fragment on a TRUNK port does (R268, R269). -/
def takeWalk (d : Die) (p : Nat) : Die :=
  let dir := d.attrOf p
  let a := dir / 2
  if dir ≤ 5 ∧ dir % 2 = 1 then
    let c := d.hf p 9 (4 * a) 4
    if c = 0 || d.memberIdx p != 0 then d
    else if 8 < c then d.discConflict 7 p
    else if d.disc.rootElect then
      if d.get R.cascTopoMode = 2 then d.learnSize a c p else d
    else if (d.bundle (2 * a)).isEmpty && d.get R.cascTopoMode == 1 then (d.setWalk (3 + a) (c + 1)).refreshHellos
    else if 8 ≤ c then d.discConflict 7 p
    else (d.setWalk a (c + 1)).refreshHellos
  else if dir ≤ 5 then
    let b := d.hf p 9 (12 + 4 * a) 4
    if b = 0 then d
    else if d.disc.rootElect then d.learnSize a b p
    else (d.setWalk (3 + a) b).refreshHellos
  else d

/-! ### The tick parent (R278 to R280) -/

/-- Does a neighbour qualify as tick parent (R278)? `maxHops` is the re-parenting limit of R289. -/
def canParent (d : Die) (p : Nat) (maxHops : Nat) : Bool :=
  d.hf p 4 0 3 == 1 && d.hf p 4 4 1 == 1 && d.hf p 4 13 8 == d.get R.discStatRootGen && d.hf p 4 12 1 == 0 && d.hf p 4 11 1 == 0
    && decide (d.hf p 4 5 4 ≤ min 11 maxHops) && d.get R.laneqPstatState p == 2

/-- The chosen tick parent: least HOPS, then the direction order, then the lowest port; a follower's is its lowest STACK
port toward the acting master (R278 to R280, R136). -/
def chooseParent (d : Die) (maxHops : Nat) : Option Nat :=
  if !d.isMaster then (d.stackPorts d.master).find? (fun p => d.hf p 4 0 3 == 1)
  else
    let c := d.neighbours.filter (fun p => d.canParent p maxHops)
    let least := c.foldl (fun m p => min m (d.hf p 4 5 4)) 15
    let c := c.filter (fun p => d.hf p 4 5 4 == least)
    (dirOrder.filterMap (fun dir => c.find? (fun p => d.attrOf p == dir))).head?

/-- A parent is taken: HOPS and DISC.PARENT (R278). -/
def takeParent (d : Die) (p : Nat) : Die :=
  let d := d.set R.discStatHops (if d.isMaster then d.hf p 4 5 4 + 1 else d.hf p 4 5 4)
  (((((d.set R.discParentPort p).set R.discParentDie d.pos).set R.discParentDir (if d.isMaster then d.attrOf p else 7)).setBit
    R.discParentValid true).setBit R.discParentRelay false)

/-- A joining node goes on as far as its hellos allow: sizes, generation and root from a rooted neighbour, coordinates, and
a parent that shows LOCKED (R265, R272, R278, R281, R298). -/
def advanceJoin (d : Die) : Die :=
  if d.phase = 1 || d.phase = 3 then
    match d.rooted with
    | none => d
    | some p =>
      let gen := d.hf p 4 13 8
      let d := if d.get R.discStatRootGen = gen then d else (d.set R.discStatRootGen gen).raise I.discNewroot
      let d := (d.set64 R.discRootLo R.discRootHi (d.hRoot p)).set R.discCoordSizes (d.hf p 3 10 12)
      let d := d.set R.discStatPhase 3
      if d.meshTooBig then d.discConflict 8 p
      else
        let src := (dirOrder.filterMap (fun dir =>
          d.neighbours.find? (fun q => d.attrOf q == dir && d.hf q 3 9 1 == 1))).head?
        match src with
        | none => d
        | some q =>
          let d := (d.set R.discCoordXyz (d.coordFrom q)).setBit R.discCoordValid true
          match d.neighbours.find? (fun q => d.hf q 3 9 1 == 1 && d.coordFrom q != d.get R.discCoordXyz) with
          | some q => d.discConflict 6 q
          | none =>
            match d.chooseParent 11 with
            | none => d
            | some q => (d.takeParent q).set R.discStatPhase 4
  else if !d.isMaster && d.get R.cascStatState == 1 && d.tstate == 0 && d.phase == 0 then
    match d.chooseParent 15 with
    | none => d
    | some q => (d.takeParent q).set R.discStatPhase 4
  else d

/-! ### What a received hello does -/

/-- The check of R110: a complete hello from a die or endpoint of the wrong kind. A hello with this node's serial from
another die position is a sibling's (log entry 10). -/
def roleBad (d : Die) (p : Nat) : Bool :=
  let kesil := d.hf p 0 8 1 == 1
  let own := d.hSerial p == d.serial
  if d.isDrop p then kesil
  else if d.isStack p then !kesil || !own || d.hf p 0 9 2 != d.attrOf p
  else d.isTrunk p && own && d.hf p 0 9 2 != d.pos

/-- A port whose hello fails R110 is held in PS1 and logged. -/
def roleMismatch (d : Die) (p : Nat) : Die :=
  let d := (d.modPort p (fun s => { s with mismatch := true, hold := some 1 })).set R.portLinkPs 1 p
  (d.setBit R.cascErrRoleMismatch true).logErr .port p 0x0204 1 (leBytes 1 p)

/-- The checks on a complete hello of this port: role, formation, discovery (R110, R131, R265 to R274, R298). -/
def checkHello (d : Die) (p : Nat) (frag : Nat) : Die :=
  let d := if d.roleBad p then (if (d.port p).mismatch then d else d.roleMismatch p)
    else if (d.port p).mismatch then d.modPort p (fun s => { s with mismatch := false, hold := none }) else d
  let d := if d.isStack p && d.forming && d.pos == 0 &&
      (List.range (d.get R.cascCfgDies + 1)).all (fun x => x == 0 || d.heard.any (fun h => h.1 == x)) then d.formNode false else d
  if d.isTrunk p && !(d.port p).mismatch && d.get R.cascStatState == 1 && d.phase != 8 && d.phase != 0 && d.hf p 4 12 1 == 0 then
    match d.helloConflict p with
    | 0 =>
      let d := if frag = 9 then d.takeWalk p else d
      let d := d.advanceJoin
      -- RLEAVE is flooded, and the standby takes over at the next edge (R295)
      if d.hf p 4 25 1 = 1 ∧ ¬ d.disc.rleave then
        let d := { d with disc := { d.disc with rleave := true, takeOver := d.bit R.discStatIsstby } }
        d.refreshHellos
      else d
    | c => d.discConflict c p
  else d.advanceJoin

/-- A sample of the link's latency from fragment 15 and this die's own stamp with the same TAG (R283). -/
def takeSample (d : Die) (p : Nat) (data : Nat) : Die :=
  let t := 256 * d.tickCycles
  match (smapGet [] d.disc.stamps p).find? (fun s => s.1 % 512 == data / 2 ^ 23) with
  | none => d
  | some s =>
    let v := (s.2 + data % 2 ^ 23) % t / 2
    { d with disc := { d.disc with samples := smapMod (0, 0) d.disc.samples p (fun x => (x.1 + 1, x.2 + v)) } }

end Die

/-- HELLO_RX: a fragment is stored and the complete hello checked (R255, R258, R260). -/
def execHelloRx (p : BitVec 6) (frag : BitVec 4) (data : BitVec 32) (s : State) : Host.Outcome State Fault Refusal :=
  act s (fun d =>
    let p := p.toNat
    let f := frag.toNat
    if d.link p = 0 || d.role p = 0 then d
    else if d.isDrop p && decide (2 < f) then d.protoErr p
    else
      let d := d.modPort p (fun s => { s with hello := smapSet none s.hello f (some data) })
      let d := if f = 15 && !d.isDrop p then d.takeSample p data.toNat else d
      if d.helloComplete p then d.checkHello p f else d)

/-- HELLO_PERIODIC: all fragments again, at least once in 256 ticks (R256, R257). -/
def execHelloPeriodic (p : BitVec 6) (s : State) : Host.Outcome State Fault Refusal :=
  act s (fun d => d.sendHellos p.toNat)

/-- ROOT_ELECTION: 100 ms after FORMED, the node whose own serial is its ROOT becomes root-elect (R263, R268). -/
def execRootElection (s : State) : Host.Outcome State Fault Refusal :=
  act s (fun d =>
    if d.isMaster && d.phase == 1 && d.rooted.isNone && d.bit R.discCfgElig && d.root == d.serial then d.startWalks else d)

/-- CANDIDACY_PASS: 1 ms after first advertising itself as ROOT in place of a refused root-elect (R264). -/
def execCandidacyPass (s : State) : Host.Outcome State Fault Refusal :=
  act s (fun d =>
    if d.isMaster && d.phase == 1 && d.rooted.isNone && d.bit R.discCfgElig && d.root == d.serial then
      d.startWalks
    else d)

/-- WALK_TIMEOUT: a walk has not returned after 100 ms; the configured size is used, or the walk starts again (R270). -/
def execWalkTimeout (dim : Fin 3) (s : State) : Host.Outcome State Fault Refusal :=
  act s (fun d =>
    if d.disc.rootElect && d.size dim.val == 0 then
      if d.cfgSize dim.val ≠ 0 then
        (d.set R.discCoordSizes (setSize (d.get R.discCoordSizes) dim.val (d.cfgSize dim.val))).walksEnd
      else d.forAll (d.portsWith (fun p => d.isTrunk p && d.attrOf p == 2 * dim.val && d.helloAllowed p)) (fun d p => d.sendHello p 9)
    else d)

namespace Die

/-- DISC.CTL.RETRY is written: a node in CONFLICT starts discovery again (R275). -/
def retryDisc (d : Die) : Die :=
  if d.phase = 8 then
    let d := (d.set R.discStatPhase 1).set R.discStatCause 0
    let d := ((d.set R.discStatCport 0).set R.discStatCdie 0).set R.discCoordSizes 0
    ({ d with disc := { d.disc with walk := 0, rootElect := false } }).refreshHellos
  else d

/-- DISC.CTL.LEAVE is written 1: LEAVING is raised, and RLEAVE by a root; the node runs down (R295, R300). -/
def leaveNode (d : Die) : Die :=
  let d := d.set R.discCtlLeave 1
  if d.phase = 7 then
    let d := d.set R.discStatPhase 9
    let d := { d with disc := { d.disc with leaving := some 0, rleave := d.disc.rleave || d.isRoot } }
    (d.startRundown .die 64).refreshHellos
  else d

end Die

/-- DISC_RETRY: discovery starts again after a refusal (R275). -/
def execDiscRetry (s : State) : Host.Outcome State Fault Refusal := act s Die.retryDisc

/-- DISC_LEAVE: LEAVING is raised, and RLEAVE by a root (R295, R300). A node that is not run down yet runs down. -/
def execDiscLeave (s : State) : Host.Outcome State Fault Refusal := act s Die.leaveNode

/-- The link of DISC.LATSEL is measured again; refused unless that PORT page shows IDLE (R283, DISC.CTL). -/
def Die.remeasure (d : Die) (c : Cls) : Die :=
  let p := d.get R.discLatselPort
  if d.get R.discLatselDie = d.pos ∧ d.portIdle p then
    { d with disc := { d.disc with samples := smapSet (0, 0) d.disc.samples p (0, 0), lat := smapSet none d.disc.lat p none } }
  else d.refuse .disc 0 c 0x44

/-- DISC_REMEASURE: DISC.CTL.REMEASURE is written (R283). -/
def execDiscRemeasure (c : Cls) (s : State) : Host.Outcome State Fault Refusal :=
  act s (fun d => d.onPage c .disc 0 (fun d => d.remeasure c))

/-- FLOCK: the PLL's phase error has stayed within 10 ps for 1 ms (R281). -/
def execFlock (s : State) : Host.Outcome State Fault Refusal :=
  act s (fun d =>
    if d.phase = 4 then
      (({ d with disc := { d.disc with flock := true } }).set R.discStatPhase 5).refreshHellos
    else d)

namespace Die

/-- Ports whose links a joining node measures: every ACTIVE TRUNK and STACK port (R298). -/
def measured (d : Die) : List Nat := d.portsWith (fun p => (d.isTrunk p || d.isStack p) && d.link p == 2)

end Die

/-- LATENCY_MEASURED: 64 samples are held, and their mean becomes the link's latency; 400 ns or more is a conflict
(R199, R277, R283). -/
def execLatencyMeasured (p : BitVec 6) (s : State) : Host.Outcome State Fault Refusal :=
  act s (fun d =>
    let p := p.toNat
    let (n, sum) := smapGet (0, 0) d.disc.samples p
    if n < 64 then d
    else
      let l := (sum + n / 2) / n
      let d := { d with disc := { d.disc with lat := smapSet none d.disc.lat p (some (BitVec.ofNat 23 l))
                                              samples := smapSet (0, 0) d.disc.samples p (0, 0) } }
      let d := d.modPort p (fun s => { s with shifted := false })
      if 128000 ≤ l ∧ d.isTrunk p then d.discConflict 10 p
      else if d.phase = 5 ∧ d.measured.all (fun q => (smapGet none d.disc.lat q).isSome) then d.set R.discStatPhase 6
      else d)

/-- RENNET_RX: the arrival is stamped; on the parent port it gives the offset of the tick edge (R282, R284, R285, R287), and
the slot's acknowledgement is taken (R218). -/
def execRennetRx (p : BitVec 6) (pos : BitVec 12) (tick : BitVec 16) (mack mlast : BitVec 6) (arr : BitVec 23) (s : State) :
    Host.Outcome State Fault Refusal :=
  act s (fun d =>
    let p := p.toNat
    if d.link p = 0 || d.isDrop p || d.role p = 0 || decide (2579 < pos.toNat) then d
    else
      let d := d.takeAck p mack mlast
      let d := { d with disc := { d.disc with stamps := smapMod [] d.disc.stamps p (fun l => ((tick.toNat, arr.toNat) :: l).take 64) } }
      let d := if d.disc.flock && (smapGet none d.disc.lat p).isNone && d.helloAllowed p then d.sendHello p 15 else d
      if d.bit R.discParentValid && d.get R.discParentPort == p then
        let l := ((smapGet none d.disc.lat p).getD 0).toNat
        let t : Int := 256 * d.tickCycles
        let o : Int := (arr.toNat : Int) - l
        let o := if t < 2 * o then o - t else if 2 * o < -t then o + t else o
        { d with disc := { d.disc with rnSeen := some o, rnWrong := tick.toNat != d.tick.count.toNat % 65536 } }
      else d)

/-- JOIN_ALIGN: the child steps its edge and adopts the counter; it shows LOCKED and RPATH at the next edge (R69, R284). A
node in SINGLE mode locks to SYSREF and starts its counter at 0 (R69). -/
def execJoinAlign (s : State) : Host.Outcome State Fault Refusal :=
  act s (fun d =>
    if d.get R.cascTopoMode = 0 ∧ d.isMaster then
      if d.get R.cascStatState = 1 ∧ d.tstate = 0 then { d with disc := { d.disc with joinAt := some (BitVec.allOnes 48) } } else d
    else if d.phase = 6 ∧ d.bit R.discParentValid then
      let p := d.get R.discParentPort
      let hi := d.hf p 12 0 16 * 2 ^ 32 + d.hf p 11 0 32
      let rn := match smapGet [] d.disc.stamps p with
        | s :: _ => s.1
        | [] => hi % 65536
      let c := hi / 65536 * 65536 + rn + (if rn < hi % 65536 then 65536 else 0)
      { d with disc := { d.disc with joinAt := some (BitVec.ofNat 48 c) } }
    else d)

end Sys2Proof.Machine
end

