-- ==== Sys2Proof/Machine/Timing.lean ====
section
/-!
DEFINITION. Machine/Timing.lean: what a tick edge does to discovery and the tick's lock, and holdover, re-parenting, failover
and leaving (spec 06, R261 to R266, R284 to R300).
-/
namespace Sys2Proof.Machine
namespace Die

/-- May this node stand as a candidate for the first root (R261, R262)? -/
def candidate (d : Die) : Bool :=
  d.bit R.discCfgElig && d.phase != 8 &&
    (d.get R.cascTopoMode != 1 || !(d.portsWith (fun p => d.isTrunk p && d.attrOf p % 2 == 1)).any (fun p => d.hasFrag p 0))

/-- The candidates for ROOT known to this node: serial and hops (R261). -/
def rootCandidates (d : Die) : List (Nat × Nat) :=
  (if d.candidate then [(d.serial, 0)] else []) ++
    (d.neighbours.filter (fun p => decide (d.hf p 4 5 4 ≤ 11) && d.hasFrag p 5)).map (fun p => (d.hRoot p, d.hf p 4 5 4 + 1))

/-- The candidates for STBY: eligible serials other than ROOT (R261, R266). -/
def stbyCandidates (d : Die) (root : Nat) : List (Nat × Nat) :=
  ((if d.bit R.discCfgElig && d.phase != 8 then [(d.serial, 0)] else []) ++
    (d.neighbours.filter (fun p => decide (d.hf p 4 21 4 ≤ 11))).map (fun p => (d.hStby p, d.hf p 4 21 4 + 1)) ++
    (d.neighbours.filter (fun p => decide (d.hf p 4 5 4 ≤ 11) && d.hf p 4 4 1 == 0)).map (fun p => (d.hRoot p, d.hf p 4 5 4 + 1))).filter
      (fun c => c.1 != root)

/-- The lowest serial of a list, with the least hops among its entries. -/
def lowest (l : List (Nat × Nat)) : Option (Nat × Nat) :=
  l.foldl (fun m c => match m with
    | none => some c
    | some x => if c.1 < x.1 ∨ (c.1 = x.1 ∧ c.2 < x.2) then some c else m) none

/-- The election of a tick (R261, R265, R266). -/
def edgeElection (d : Die) : Die :=
  if d.get R.cascStatState ≠ 1 || d.phase = 8 || d.get R.cascTopoMode = 0 then d
  else
    let d := if d.isRoot || d.get R.discStatRootGen != 0 then d
      else match lowest d.rootCandidates with
        | none => (d.set64 R.discRootLo R.discRootHi 0).set R.discStatHops 15
        | some (r, h) => (d.set64 R.discRootLo R.discRootHi r).set R.discStatHops (min h 15)
    match lowest (d.stbyCandidates d.root) with
    | none => ({ d with disc := { d.disc with shops := 15 } }.set64 R.discStbyLo R.discStbyHi 0).setBit R.discStatIsstby false
    | some (r, h) =>
      ({ d with disc := { d.disc with shops := BitVec.ofNat 4 (min h 15) } }.set64 R.discStbyLo R.discStbyHi r).setBit
        R.discStatIsstby (r == d.serial && !d.isRoot)

/-- The parent's rennet of the closing tick: its absence, its offset and its count (R285, R287). -/
def edgeRennet (d : Die) : Die :=
  if d.tstate ≠ 1 || d.isRoot || !d.bit R.discParentValid then
    { d with disc := { d.disc with rnSeen := none, rnWrong := false } }
  else match d.disc.rnSeen with
    | none =>
      ({ d with disc := { d.disc with rnMiss := d.disc.rnMiss + 1, rnWrong := false } }).bump R.discRnMissMiss
    | some o =>
      let d := d.set R.discOffsetOfs (o % 65536).toNat
      let d := if 640 < o.natAbs then (d.bump R.discEvtSkew).raise I.discSkew else d
      { d with disc := { d.disc with
          rnMiss := 0, ofsRun := if 3840 < o.natAbs then d.disc.ofsRun + 1 else 0
          tickRun := if d.disc.rnWrong then d.disc.tickRun + 1 else 0, rnSeen := none, rnWrong := false
          slew := d.disc.slew + max (-16) (min 16 o) } }

/-- RPATH of a locked node follows its parent's (R290); a standby counts the ticks without it (R294). -/
def edgeRpath (d : Die) : Die :=
  let rp := if d.isRoot then d.disc.rpath
    else if d.tstate = 1 && d.bit R.discParentValid then
      d.hf (d.get R.discParentPort) 4 4 1 == 1 && d.hf (d.get R.discParentPort) 4 13 8 == d.get R.discStatRootGen
    else if d.get R.cascTopoMode = 0 && d.tstate == 1 then d.disc.rpath else false
  { d with disc := { d.disc with
      rpath := rp, rpathClear := if d.bit R.discStatIsstby && !rp then d.disc.rpathClear + 1 else 0 } }

/-- This node takes over as root (R294, R295). -/
def failover (d : Die) : Die :=
  let d := ((d.set R.discStatRootGen (genNext (d.get R.discStatRootGen))).setBit R.discStatIsroot true).setBit R.discStatIsstby false
  let d := (d.set R.discStatHops 0).set64 R.discRootLo R.discRootHi d.serial
  let d := { d with disc := { d.disc with rpath := true, rpathClear := 0, takeOver := false, rleave := false } }
  let d := ((d.set R.tickStatState 1).setBit R.discParentValid false).set R.discHoldTicks 0
  ((d.raise I.discTakeover).raise I.discNewroot).refreshHellos

/-- A join that stepped its edge shows LOCKED and RPATH with the adopted count (R69, R284). -/
def edgeJoin (d : Die) : Die :=
  match d.disc.joinAt with
  | none => d
  | some c =>
    let d := { d with tick := { d.tick with count := c + 1 }
                      disc := { d.disc with joinAt := none, rpath := true, rnMiss := 0, ofsRun := 0, tickRun := 0, cdrLost := false } }
    let d := (d.set R.tickStatState 1).set R.discHoldTicks 0
    if d.get R.cascTopoMode = 0 then d else (d.set R.discStatPhase 7).raise I.discJoined

/-- Discovery at a tick edge, after the counter has advanced. -/
def edgeDisc (d : Die) : Die :=
  let d := d.edgeJoin
  let d := if d.get R.cascStatState = 1 ∧ d.isMaster ∧ d.phase = 0 ∧ d.get R.cascTopoMode ≠ 0 then d.set R.discStatPhase 1 else d
  let d := d.edgeRennet.edgeRpath
  let d := if d.disc.takeOver && !d.isRoot then d.failover else d
  let d := if d.tstate = 2 then d.set R.discHoldTicks (min 256 (d.get R.discHoldTicks + 1)) else d
  let d := { d with disc := { d.disc with leaving := d.disc.leaving.map (· + 1) } }
  let d := d.edgeElection
  let d := if d.isMaster || d.phase != 8 then d.advanceJoin else d
  d.refreshHellos

/-- The condition of R287, over what the die knows. -/
def lostParent (d : Die) : Bool :=
  let p := d.get R.discParentPort
  d.link p != 2 && d.link p != 3 || d.disc.cdrLost || decide (4 ≤ d.disc.rnMiss) || d.hf p 4 12 1 == 1 || d.hf p 4 11 1 == 1
    || d.hf p 4 0 3 == 3 || d.neighbours.any (fun q => d.hf q 4 4 1 == 1 && genNewer (d.hf q 4 13 8) (d.get R.discStatRootGen))
    || decide (2 ≤ d.disc.ofsRun) || decide (2 ≤ d.disc.tickRun)

/-- A newer generation that a neighbour with RPATH shows is adopted (R265, R297). -/
def adoptGen (d : Die) : Die :=
  match d.neighbours.find? (fun q => d.hf q 4 4 1 == 1 && genNewer (d.hf q 4 13 8) (d.get R.discStatRootGen)) with
  | none => d
  | some q =>
    let d := (d.set R.discStatRootGen (d.hf q 4 13 8)).raise I.discNewroot
    (d.set64 R.discRootLo R.discRootHi (d.hRoot q)).setBit R.discStatIsroot false

/-- The node enters holdover (R287, R288, R297). -/
def enterHoldover (d : Die) : Die :=
  let d := { d with disc := { d.disc with
    lastHops := BitVec.ofNat 4 (d.get R.discStatHops), rpath := false, rnMiss := 0, ofsRun := 0, tickRun := 0 } }
  let d := (((d.set R.tickStatState 2).set R.discHoldTicks 0).bump R.discHoldEntries).raise I.discHoldover
  (d.setBit R.discParentValid false).refreshHellos

end Die

/-- HOLDOVER: at the first edge at which a condition of R287 holds; an old root of a superseded generation enters it too
(R287, R288, R290, R297). -/
def execHoldover (s : State) : Host.Outcome State Fault Refusal :=
  act s (fun d =>
    let newer := d.neighbours.any (fun q => d.hf q 4 4 1 == 1 && genNewer (d.hf q 4 13 8) (d.get R.discStatRootGen))
    if d.tstate = 1 ∧ ((d.isRoot ∧ newer) ∨ (¬ d.isRoot ∧ d.bit R.discParentValid ∧ d.lostParent)) then
      d.enterHoldover.adoptGen
    else d)

/-- CDR_LOCK_LOSS: a lane loses CDR lock, and with it block and superframe lock; on the tick-parent lane this is a condition
of R287 (R169, R182, R287). -/
def execCdrLockLoss (p : BitVec 6) (lane : BitVec 2) (s : State) : Host.Outcome State Fault Refusal :=
  act s (fun d =>
    let p := p.toNat
    let l := lane.toNat
    let phys := if d.bit R.laneqPstatReversed p then 3 else 0
    let parent := d.bit R.discParentValid && d.get R.discParentPort == p && l == phys
    let d := (d.setBit R.laneqLaneLstatCdrLock false p l).loseBl p l
    if parent then { d with disc := { d.disc with cdrLost := true } } else d)

/-- REPARENT: a node in holdover chooses a parent again, in its first 12 ticks only one no farther than before, and is
LOCKED (R278, R289, R296). -/
def execReparent (s : State) : Host.Outcome State Fault Refusal :=
  act s (fun d =>
    if d.tstate ≠ 2 then d
    else
      let d := d.adoptGen
      let lim := if d.get R.discHoldTicks ≤ 12 then d.disc.lastHops.toNat else 11
      match d.chooseParent lim with
      | none => d
      | some p =>
        let d := (d.takeParent p).set R.tickStatState 1
        let d := { d with disc := { d.disc with rpath := true, cdrLost := false, rnMiss := 0, ofsRun := 0, tickRun := 0 } }
        (((d.set R.discHoldTicks 0).bump R.discEvtReparent).raise I.discReparent).refreshHellos)

/-- HOLDOVER_EXPIRE: the 256th holdover tick closes, and the die runs down; once IDLE, the node enters OUT and its TRUNK
ports carry no flits (R291). -/
def execHoldoverExpire (s : State) : Host.Outcome State Fault Refusal :=
  act s (fun d =>
    if d.tstate = 2 ∧ 256 ≤ d.get R.discHoldTicks then
      if (d.rundown .die).phase = .idle then
        let d := (d.set R.tickStatState 3).raise I.discOut
        (d.set R.discStatPhase 0).refreshHellos
      else (d.startRundown .die 64).hset R.hdrCtlRundown 1 .tick
    else d)

/-- OUT_REJOIN: a parent that meets R278 has appeared, and the join procedure runs again (R292, R298). -/
def execOutRejoin (s : State) : Host.Outcome State Fault Refusal :=
  act s (fun d =>
    if d.tstate ≠ 3 then d
    else
      let d := d.adoptGen
      match d.chooseParent 11 with
      | none => d
      | some p => ((d.takeParent p).set R.discStatPhase 4).refreshHellos)

/-- ROOT_FAILOVER: a standby whose RPATH has been clear for 16 ticks takes over (R294). -/
def execRootFailover (s : State) : Host.Outcome State Fault Refusal :=
  act s (fun d => if d.bit R.discStatIsstby && !d.isRoot && decide (16 ≤ d.disc.rpathClear) then d.failover else d)

/-- LEFT: 64 ticks after LEAVING, the node's TRUNK ports carry no flits and it shows LEFT (R300). -/
def execLeft (s : State) : Host.Outcome State Fault Refusal :=
  act s (fun d =>
    match d.disc.leaving with
    | some n => if 64 ≤ n ∧ d.phase = 9 then
        ((d.set R.discStatPhase 10).setBit R.discStatIsroot false).refreshHellos else d
    | none => d)

/-- RNFWD_RX: a relay die forwards the arrival of a parent rennet to the acting master (R280, R282, R285, R323). -/
def execRnfwdRx (p : BitVec 6) (tick : BitVec 16) (arr : BitVec 23) (s : State) : Host.Outcome State Fault Refusal :=
  act s (fun d =>
    if !d.isStack p.toNat then d
    else
      let d := d.heardFrom (d.attrOf p.toNat)
      if d.isMaster && d.bit R.discParentRelay && d.bit R.discParentValid then
        let q := d.get R.discParentPort
        let l := ((smapGet none d.disc.lat q).getD 0).toNat
        { d with disc := { d.disc with
            rnSeen := some ((arr.toNat : Int) - l), rnWrong := tick.toNat != d.tick.count.toNat % 65536 } }
      else d)

end Sys2Proof.Machine
end

