-- ==== Sys2Proof/Machine/Switch.lean ====
section
/-!
DEFINITION. Machine/Switch.lean: routing, the dateline, node credits, the waiting heads and the grants of the outputs, and the
harp (spec 07, R313 to R344; spec 09, R403 to R408, R426 to R435).
-/
namespace Sys2Proof.Machine

/-- Where a packet leaves a die. -/
inductive Route where
  /-- It is for this die. -/
  | here
  /-- It leaves by a port on a VC, with a D bit, and by `far` from the next die when the port is a STACK port. -/
  | out (port vc : Nat) (d : Bool) (far : Option (Nat × Nat))
  /-- No ACTIVE port leads on (R338). -/
  | dead
  deriving DecidableEq, Repr

/-- A coordinate of a node index, as an EID holds it: X, Y, Z for 0, 1, 2. -/
def nodeCoord (n k : Nat) : Nat := n / 8 ^ (2 - k) % 8

namespace Die

/-- The own node's index. -/
def selfNode (d : Die) : Nat :=
  let c := d.get R.discCoordXyz
  (c % 8) * 64 + (c / 8 % 8) * 8 + c / 64

/-! ### Route-table windows (R335, R336) -/

/-- RT.NODE.REACH of a node; this node's is kept by Kesil (R336). -/
def rtReach (d : Die) (n : Nat) : Bool :=
  if n = d.selfNode then d.get R.cascStatState == 1 && (d.get R.cascTopoMode == 0 || d.bit R.discCoordValid)
  else d.bit R.rtNodeReach n

/-- RT.NODE.DIES of a node. -/
def rtDies (d : Die) (n : Nat) : Nat := if n = d.selfNode then d.get R.cascStatPresent else d.get R.rtNodeDies n

/-- The RT.EIDV bit of a port of a node; a fenced port of this die is not valid (table Fences). -/
def rtEidv (d : Die) (n die p : Nat) : Bool :=
  if n = d.selfNode then (d.nodeRole die p).1 == 1 && !(die == d.pos && d.hget R.hdrStatFenced .port p == 1) else d.bit R.rtEidvV n (2 * die + p / 32) (p % 32)

/-- Is an EID valid as a destination (R124, R335)? -/
def eidValid (d : Die) (e : BitVec 17) : Bool :=
  d.rtReach (eidNode e) && d.rtDies (eidNode e) / 2 ^ eidDie e % 2 == 1 && d.rtEidv (eidNode e) (eidDie e) (eidPort e)

/-! ### Routing (R325 to R333) -/

/-- Does a MESH or TORUS packet at coordinate `c` toward `t` in a dimension of size `n` go the + way (R326)? -/
def goesPlus (d : Die) (c t n : Nat) (tie : Bool) : Bool :=
  if d.get R.cascTopoMode = 2 then
    let δ := (t + n - c) % n
    if 2 * δ < n then true else if n < 2 * δ then false else tie
  else decide (c < t)

/-- Does a hop from coordinate `c` cross the dateline link of its direction (R331)? -/
def crossesDateline (d : Die) (c n : Nat) (plus : Bool) : Bool :=
  d.get R.cascTopoMode == 2 && (if plus then c + 1 == n else c == 0)

/-- Is a member of a bundle ACTIVE? -/
def memberUp (d : Die) (x : Nat × Nat) : Bool :=
  if x.1 = d.pos then d.link x.2 == 2 else d.diePresent x.1 && Config.sibUp d.fresh x.1 x.2

/-- The member of a direction's bundle that a packet uses in dimension `k` (R327). -/
def member (d : Die) (dir path k : Nat) : Option (Nat × Nat) :=
  let b := d.bundle dir
  if b.length = 0 then none
  else
    let i := (path % b.length + k) % b.length
    (b.drop i ++ b.take i).find? d.memberUp

/-- The STACK port toward a die (R329). -/
def stackToward (d : Die) (die path : Nat) : Option Nat :=
  let ps := d.stackPorts die
  if ps.length = 0 then none else ps[path % ps.length]?

/-- Is the packet handed to an endpoint of its destination die, and not consumed by the die itself? -/
def leavesOnDrop (op : Nat) : Bool := op == 1 || op == 2 || op == 0x12 || op == 0x32

/-- Where a packet that came by `inPort` (none at its source die) leaves this die (R325 to R333). -/
def route (d : Die) (pk : Packet) (inPort : Option Nat) : Route :=
  let node := eidNode pk.deid
  let path := pk.path.toNat
  let cls := pk.cls.toNat
  let multi := d.get R.cascTopoMode != 0 && node != d.selfNode
  let dim := (List.range 3).find? (fun k => multi && nodeCoord node k != nodeCoord d.selfNode k)
  match dim with
  | none =>
    if node ≠ d.selfNode then .dead
    else if eidDie pk.deid = d.pos then .here
    else match d.stackToward (eidDie pk.deid) path with
      | none => .dead
      | some p =>
        let keep := inPort.isSome && pk.d
        .out p (2 * cls + keep.toNat) keep
          (if leavesOnDrop pk.op.toNat then some (eidDie pk.deid, 8 * eidPort pk.deid + 2 * cls) else none)
  | some k =>
    let c := nodeCoord d.selfNode k
    let n := d.size k
    let plus := d.goesPlus c (nodeCoord node k) n (path / 2 ^ (3 - k) % 2 == 1)
    let dir := 2 * k + (if plus then 0 else 1)
    let began := match inPort with
      | none => true
      | some q => d.isTrunk q && d.attrOf q / 2 != k
    let d0 := !began && pk.d
    let d1 := d0 || d.crossesDateline c n plus
    match d.member dir path k with
    | none => .dead
    | some (die, p) =>
      if die = d.pos then .out p (2 * cls + d1.toNat) d1 none
      else match d.stackToward die path with
        | none => .dead
        | some q => .out q (2 * cls + d0.toNat) d0 (some (die, 8 * p + 2 * cls + d1.toNat))

/-! ### Waiting heads and node credits -/

/-- The heads that wait at an output VC, oldest first. -/
def heads (d : Die) (k : Nat) : List QEnt := smapGet [] d.sw.queue k

/-- The grant of an output VC. -/
def grantAt (d : Die) (k : Nat) : Option Grant := smapGet none d.sw.grant k

/-- Bytes of flits routed to an output VC and not yet sent (R403). -/
def outDepth (d : Die) (k : Nat) : Nat :=
  64 * ((d.heads k).foldl (fun n e => n + e.pkt.flits) 0 + (match d.grantAt k with | some g => g.left | none => 0))

/-- The greatest depth of the running tick under a key takes a depth into account (R924). -/
def noteDepth (d : Die) (key depth : Nat) : Die := { d with telem := { d.telem with cur := smapMod 0 d.telem.cur key (max depth) } }

/-- A head joins an output VC. -/
def enqueue (d : Die) (port vc : Nat) (e : QEnt) : Die :=
  let d : Die := { d with sw := { d.sw with
    queue := smapMod [] d.sw.queue (8 * port + vc) (· ++ [{ e with age := d.sw.age }]), age := d.sw.age + 1 } }
  d.noteDepth (8 * port + vc) (d.outDepth (8 * port + vc))

/-- A packet leaves by a TRUNK or STACK port: HOPCNT rises (R339), D is as routed. -/
def hopped (d : Die) (port : Nat) (pk : Packet) (dbit : Bool) : Packet :=
  if d.isDrop port then pk else { pk with d := dbit, hopcnt := pk.hopcnt + 1 }

/-- Node credit held for an output VC of a sibling (R320, R322). -/
def nodeCredit (d : Die) (far : Nat × Nat) : Nat :=
  let k := 512 * far.1 + far.2
  d.sw.nallot - (smapGet 0 d.sw.ncUsed k - smapGet 0 d.sw.ncFreed k).toNat

/-- Does an entry hold the node credit that its output asks (R320)? -/
def hasNodeCredit (d : Die) (e : QEnt) : Bool :=
  match e.far with
  | none => true
  | some f => decide (e.pkt.flits ≤ d.nodeCredit f)

/-- The space that a packet's flits held where it came in is free: a TRUNK receive buffer counts in RET, a node allotment in the
totals of NCRED (R228, R317, R322). -/
def leaveInput (d : Die) (e : QEnt) (port vc : Nat) : Die :=
  if 64 ≤ e.inPort then d
  else if d.isStack e.inPort then
    let k := 512 * d.attrOf e.inPort + 8 * port + vc
    { d with sw := { d.sw with
        ncOut := smapMod 0 d.sw.ncOut k (· + BitVec.ofNat 16 e.pkt.flits)
        ncDirty := if d.sw.ncDirty.contains k then d.sw.ncDirty else d.sw.ncDirty ++ [k] } }
  else d.freeFlits e.inPort e.inVc e.pkt.flits

/-- At an edge, one NCRED for each sibling whose totals changed (R322). -/
def edgeNcred (d : Die) : Die :=
  let dies := (List.range 4).filter (fun x => d.sw.ncDirty.any (fun k => k / 512 == x))
  let d := d.forAll dies (fun d x =>
    d.emit (.ncred x ((d.sw.ncDirty.filter (fun k => k / 512 == x)).map
      (fun k => (k % 512 / 8, k % 8, (smapGet 0 d.sw.ncOut k).toNat)))))
  { d with sw := { d.sw with ncDirty := [] } }

/-! ### Arbitration (R426 to R432) -/

/-- The effective priority of a packet at a port (R429). -/
def effPrio (d : Die) (p : Nat) (pk : Packet) : Nat :=
  min pk.prio.toNat (d.get R.portTcapCap p (pk.tid.toNat / 8) (pk.tid.toNat % 8))

/-- The weight of a tenant at a port (R431). -/
def weight (d : Die) (p t : Nat) : Nat := d.get R.portTwgtW p (t / 4) (t % 4)

/-- The oldest of a list of heads; equal ages by input port, then VC (R432). -/
def oldest (l : List QEnt) : Option QEnt :=
  l.foldl (fun m e => match m with
    | none => some e
    | some x => if e.age < x.age ∨ (e.age = x.age ∧ (e.inPort < x.inPort ∨ (e.inPort = x.inPort ∧ e.inVc < x.inVc)))
        then some e else m) none

/-- The tenants of a list of heads, in round robin from `start`. -/
def tenantsFrom (l : List QEnt) (start : Nat) : List Nat :=
  ((List.range 256).map (fun i => (start + i) % 256)).filter (fun t => l.any (fun e => e.pkt.tid.toNat == t))

/-- A tenant's floor credit at a port (R430). -/
def floorCredit (d : Die) (p t : Nat) : Nat := smapGet 0 d.sw.fc (256 * p + t)

/-- The floor tier's pick (R430). -/
def floorPick (d : Die) (p : Nat) (cand : List QEnt) : Option QEnt :=
  let ok := cand.filter (fun e => decide (e.pkt.flits ≤ d.floorCredit p e.pkt.tid.toNat))
  match tenantsFrom ok (smapGet 0 d.sw.rrFloor p) with
  | [] => none
  | t :: _ => oldest (ok.filter (fun e => e.pkt.tid.toNat == t))

/-- The key of a deficit. -/
def deficitKey (p t lvl : Nat) : Nat := 8 * (256 * p + t) + lvl

/-- Deficits of a port whose tenant has no head waiting at the level return to 0 (R431). -/
def clearDeficits (d : Die) (p : Nat) : Die :=
  let all := (List.range 8).flatMap (fun v => d.heads (8 * p + v))
  { d with sw := { d.sw with deficit := d.sw.deficit.filter (fun e =>
      e.1 / 2048 != p || all.any (fun q => deficitKey p q.pkt.tid.toNat (d.effPrio p q.pkt) == e.1)) } }

/-- Deficit round robin within a level: visits in turn until a tenant wins (R431). -/
def drrPick : Nat → Die → Nat → Nat → List QEnt → Die × Option QEnt
  | 0, d, _, _, _ => (d, none)
  | f + 1, d, p, lvl, cand =>
    match tenantsFrom cand (smapGet 0 d.sw.rrTen p) with
    | [] => (d, none)
    | t :: _ =>
      let k := deficitKey p t lvl
      let def1 := smapGet 0 d.sw.deficit k + 16 * d.weight p t
      let d := { d with sw := { d.sw with rrTen := smapSet 0 d.sw.rrTen p ((t + 1) % 256) } }
      match oldest (cand.filter (fun e => e.pkt.tid.toNat == t)) with
      | none => (d, none)
      | some h =>
        if h.pkt.flits ≤ def1 then
          ({ d with sw := { d.sw with deficit := smapSet 0 d.sw.deficit k (def1 - h.pkt.flits) } }, some h)
        else drrPick f { d with sw := { d.sw with deficit := smapSet 0 d.sw.deficit k def1 } } p lvl cand

/-- The arbitration of R428: the winner, and whether by the floor tier. -/
def arb (d : Die) (p : Nat) (cand : List QEnt) : Die × Option (QEnt × Bool) :=
  match d.floorPick p cand with
  | some h =>
    let t := h.pkt.tid.toNat
    let d := { d with sw := { d.sw with
      fc := smapMod 0 d.sw.fc (256 * p + t) (· - h.pkt.flits), rrFloor := smapSet 0 d.sw.rrFloor p ((t + 1) % 256) } }
    (d, some (h, true))
  | none =>
    let lvl := cand.foldl (fun m e => max m (d.effPrio p e.pkt)) 0
    let top := cand.filter (fun e => d.effPrio p e.pkt == lvl && d.weight p e.pkt.tid.toNat != 0)
    match drrPick (6 * top.length + 1) d p lvl top with
    | (d, some h) => (d, some (h, false))
    | (d, none) => (d, none)

/-- Is the packet one that Kesil originates or of management (R427)? -/
def ownOrMgmt (pk : Packet) : Bool := pk.mgmt || decide (0x20 ≤ pk.op.toNat ∧ pk.op.toNat ≤ 0x24)

/-- The winner of a free output VC (R426 to R428). -/
def pickHead (d : Die) (p v : Nat) : Die × Option (QEnt × Bool) :=
  let cand := (d.heads (8 * p + v)).filter d.hasNodeCredit
  if v / 2 = 1 then (d, (cand.head?).map (fun h => (h, false)))
  else if v / 2 = 0 then
    match oldest (cand.filter (fun e => ownOrMgmt e.pkt)) with
    | some h => (d, some (h, false))
    | none => (d.clearDeficits p).arb p cand
  else (d.clearDeficits p).arb p cand

/-- MARK on a head granted by a TRUNK output of C2 or C3 above the threshold (R404). -/
def markAt (d : Die) (p v : Nat) (e : QEnt) : Die × QEnt :=
  if d.isTrunk p && decide (4 ≤ v) && d.bit R.portCcMarkEn p && decide (1024 * d.get R.portCcMarkThresh p < d.outDepth (8 * p + v)) then
    ((d.bump R.portMarks p).raise I.portMarking p, { e with pkt := { e.pkt with mark := true } })
  else (d, e)

/-- A free output VC grants a head (R315, R428). -/
def outputGrant (d : Die) (p v : Nat) : Die :=
  let k := 8 * p + v
  if (d.grantAt k).isSome then d
  else match d.pickHead p v with
    | (d, none) => d
    | (d, some (h, fl)) =>
      let (d, h') := d.markAt p v h
      let g : Grant := { ent := h', left := h'.pkt.flits, floorTier := fl, prio := d.effPrio p h'.pkt, padded := false }
      let d := { d with sw := { d.sw with
        queue := smapMod [] d.sw.queue k (fun l => l.filter (fun e => e.age != h.age)), grant := smapSet none d.sw.grant k (some g) } }
      d.clearDeficits p

end Die

/-! ### The harp (R340 to R344) -/

/-- A row whose paths all weigh `w`. -/
def HarpRow.start (w : Nat) : HarpRow :=
  { w := List.replicate 16 w, acc := List.replicate 16 0, echo := List.replicate 16 0 }

/-- The pick of a row among the eligible paths: the row afterwards and the path, `none` when no path is eligible (R341). -/
def HarpRow.pick (r : HarpRow) (elig : Nat) : HarpRow × Option Nat :=
  let el := (List.range 16).filter (fun i => elig / 2 ^ i % 2 == 1)
  let acc := (List.range 16).map (fun i => r.acc.getD i 0 + if el.contains i then (r.w.getD i 0 : Int) else 0)
  let best := el.foldl (fun m i => match m with
    | none => some i
    | some b => if acc.getD b 0 < acc.getD i 0 then some i else m) none
  match best with
  | none => (r, none)
  | some b =>
    let sum : Int := el.foldl (fun n i => n + (r.w.getD i 0 : Int)) 0
    ({ r with acc := acc.modify b (· - sum) }, some b)

/-- A weight at a tick edge (R343). -/
def harpWeight (winc wdec wmin : Nat) (marked : Bool) (w : Nat) : Nat :=
  if marked then max wmin (w - w / 2 ^ wdec) else min 255 (w + winc)

namespace Die

/-- A row of the harp. -/
def harpRow (d : Die) (n : Nat) : HarpRow := smapGet (HarpRow.start d.harp.base) d.harp.rows n

/-- A row of the harp written. -/
def setHarpRow (d : Die) (n : Nat) (r : HarpRow) : Die :=
  { d with harp := { d.harp with rows := smapSet (HarpRow.start d.harp.base) d.harp.rows n r } }

/-- The harp picks a path toward a node; `excl` are the paths excluded for the item (R341, R342). -/
def harpPick (d : Die) (n : Nat) (excl : List Nat) : Die × Nat :=
  let mask := d.get R.rtPathmaskMask n
  let elig := (List.range 16).foldl (fun m i => if mask / 2 ^ i % 2 == 1 || excl.contains i then m else m + 2 ^ i) 0
  let d := d.bump64 R.harpPicksLo R.harpPicksHi
  match (d.harpRow n).pick elig with
  | (r, some b) => (d.setHarpRow n r, b)
  | (_, none) => (d, ((List.range 16).find? (fun i => mask / 2 ^ i % 2 == 0)).getD 0)

/-- Every row updated from the echoes of the closing tick (R343). -/
def edgeHarp (d : Die) : Die :=
  let f := harpWeight (d.get R.harpCfgWinc) (d.get R.harpCfgWdec) (d.get R.harpCfgWmin)
  let base := f false d.harp.base
  let rows := d.harp.rows.map (fun e : Nat × HarpRow => (e.1,
    { e.2 with w := (List.range 16).map (fun i => f (decide (0 < e.2.echo.getD i 0)) (e.2.w.getD i 0)), echo := List.replicate 16 0 }))
  { d with harp := { base := base, rows := rows.filter (fun e => e.2 != HarpRow.start base) } }

/-- Every row starts at WINIT when the die enters FORMED (R344). -/
def startHarp (d : Die) : Die := { d with harp := { base := d.get R.harpCfgWinit, rows := [] } }

/-- A row starts again when its node becomes reachable (R344). -/
def startHarpRow (d : Die) (n : Nat) : Die := d.setHarpRow n (HarpRow.start (d.get R.harpCfgWinit))

/-! ### Arrival on TRUNK and STACK ports -/

/-- A packet is discarded on arrival: its flits free, a count, a cause and a log entry (R313, R338, R339, R347). -/
def dropTransit (d : Die) (p : Nat) (pk : Packet) (cnt : Fld) (q : Irq) (code : Nat) : Die :=
  let d := (d.freeFlits p pk.vc pk.flits).bump cnt
  (d.raise q).logErr .harp 0 code 0 (leBytes 1 p ++ leBytes 1 pk.op.toNat)

/-- Op codes that a die consumes whatever node and die the header names: those of STACK ports (R323) and C1 (R334). -/
def consumedOnArrival (op : Nat) : Bool := decide (0x33 ≤ op ∧ op ≤ 0x35) || op == 0x11

/-- A packet for this die is handed on; its flits are free (R323, R350, R376). -/
def handOn (d : Die) (p : Nat) (pk : Packet) : Die := (d.freeFlits p pk.vc pk.flits).emit (.handPacket p pk)

/-- A head flit on a TRUNK or STACK port: checked, routed and queued (R313, R325, R338, R339, R347, R348). -/
def transitHead (d : Die) (p : Nat) (pk : Packet) : Die :=
  let op := pk.op.toNat
  if !pk.hcrcOk then d.dropTransit p pk R.harpHcrcDrop I.harpHcrc 0x0603
  else if (opClass op).isNone || (d.isTrunk p && decide (0x33 ≤ op ∧ op ≤ 0x35)) then
    d.dropTransit p pk R.harpUnroute I.harpUnroute 0x0600
  else if 17 ≤ pk.hopcnt.toNat then d.dropTransit p pk R.harpHoplim I.harpHoplim 0x0602
  else if consumedOnArrival op then d.handOn p pk
  else if !d.rtReach (eidNode pk.deid) then d.dropTransit p pk R.harpUnroute I.harpUnroute 0x0601
  else match (if op = 0x12 then Route.here else d.route pk (some p)) with
    | .dead => d.dropTransit p pk R.harpUnroute I.harpUnroute 0x0601
    | .here => d.handOn p pk
    | .out q v dbit far =>
      let d := if d.isStack p then d.freeFlits p pk.vc pk.flits else d
      d.enqueue q v { pkt := d.hopped q pk dbit, inPort := p, inVc := pk.vc, age := 0, carried := false, ledger := none, far := far
                      held := 0, cell := none }

end Die

/-- TRANSIT_HEAD_RX: a head flit arrives, with the flits of its packet behind it (R325, R347, log entry 13). -/
def execTransitHeadRx (p : BitVec 6) (pk : Packet) (s : State) : Host.Outcome State Fault Refusal :=
  act s (fun d =>
    let p := p.toNat
    if d.isStack p then
      if d.dieFenced (d.attrOf p) then d else ((d.heardFrom (d.attrOf p)).transitHead p pk).used
    else if d.isTrunk p then (d.transitHead p pk).used
    else d)

/-- NCRED_RX: a sibling's totals of freed flits (R322, R323). -/
def execNcredRx (p : BitVec 6) (totals : List (BitVec 6 × BitVec 3 × BitVec 16)) (s : State) : Host.Outcome State Fault Refusal :=
  act s (fun d =>
    let x := d.attrOf p.toNat
    if !d.isStack p.toNat || d.dieFenced x then d
    else (d.heardFrom x).forAll totals (fun d t =>
      { d with sw := { d.sw with ncFreed := smapSet 0 d.sw.ncFreed (512 * x + 8 * t.1.toNat + t.2.1.toNat) t.2.2 } }))

/-- OUTPUT_GRANT: a free output VC grants a waiting head (R315, R428). -/
def execOutputGrant (p : BitVec 6) (v : BitVec 3) (s : State) : Host.Outcome State Fault Refusal :=
  act s (fun d => d.outputGrant p.toNat v.toNat)

end Sys2Proof.Machine
end

