-- ==== Sys2Proof/Machine/Delivery.lean ====
section
/-!
DEFINITION. Machine/Delivery.lean: the delivery contract's shared operations (spec 08, R351 to R395; spec 09, R409 to R421;
spec 19, R777, R778): tenants at the ports, the ledger, flows, receipts, the source's copies and the destination's answers.
-/
namespace Sys2Proof.Machine

/-- A ledger entry that is not claimed. -/
def LedEnt.init : LedEnt :=
  { state := .free, lsn := 0, fseq := 0, flow := 0, cell := 0, att := 0, due := 0, last := 0, fail := [], out := 0, path := 0
    waiting := false, ready := false, own := false, injected := false, pkt := Packet.blank }

/-- The flow of a packet; a management packet's PORT field is ignored (R126). -/
def flowKey (pk : Packet) : FlowKey :=
  { seid := pk.seid, deid := if pk.mgmt then BitVec.ofNat 17 (pk.deid.toNat / 64 * 64) else pk.deid, tid := pk.tid, cls := pk.cls }

/-- The reason code of an outcome (RTND under R216). -/
def abortReason : AbortKind → BitVec 3
  | .none => 0
  | .aborted => 1
  | .killed => 3

namespace Die

/-! ### Tenants at the ports (R777, R778, R782) -/

/-- A tenant's state code (TEN.STAT.STATE). -/
def tenState (d : Die) (t : Nat) : Nat := d.get R.tenStatState (t / 4) (t % 4)

/-- Is a tenant ACTIVE? -/
def tenActive (d : Die) (t : Nat) : Bool := d.tenState t == 1

/-- Does a port lie in a tenant's port set in force, and count (R778, R789)? -/
def tenPort (d : Die) (t p : Nat) : Bool :=
  d.tenActive t && (smapGet 0 d.ten.ports t).toNat / 2 ^ p % 2 == 1 && d.isDrop p

/-- Is a port a management port (R782)? -/
def mgmtPort (d : Die) (p : Nat) : Bool :=
  d.isDrop p && (if p < 32 then d.get R.secMgmtPortsLo / 2 ^ p else d.get R.secMgmtPortsHi / 2 ^ (p - 32)) % 2 == 1

/-! ### The ledger (R356) -/

/-- A ledger entry. -/
def led (d : Die) (k : Nat) : LedEnt := smapGet LedEnt.init d.dlv.ledger k

/-- A ledger entry written. -/
def setLed (d : Die) (k : Nat) (e : LedEnt) : Die :=
  { d with dlv := { d.dlv with ledger := smapSet LedEnt.init d.dlv.ledger k e } }

/-- A ledger entry changed. -/
def modLed (d : Die) (k : Nat) (f : LedEnt → LedEnt) : Die := d.setLed k (f (d.led k))

/-- The claimed entries of a port. -/
def ledOf (d : Die) (p : Nat) : List (Nat × LedEnt) := d.dlv.ledger.filter (fun e => e.1 / 4096 == p)

/-- The lowest free entry of a port's ledger (R356, log entry 14). -/
def freeLed (d : Die) (p : Nat) : Option Nat :=
  if 4096 ≤ (d.ledOf p).length then none
  else ((List.range ((d.ledOf p).length + 1)).map (fun i => 4096 * p + i)).find? (fun k => (d.led k).state == .free)

/-! ### The flow table (R363, R367) -/

/-- A flow-table entry. -/
def flow (d : Die) (f : Nat) : FlowEnt := smapGet .free d.dlv.flows f

/-- A flow-table entry written. -/
def setFlow (d : Die) (f : Nat) (e : FlowEnt) : Die := { d with dlv := { d.dlv with flows := smapSet .free d.dlv.flows f e } }

/-- The flow entry that this die sources for a key. -/
def srcFlow (d : Die) (k : FlowKey) : Option (Nat × SrcFlow) :=
  d.dlv.flows.findSome? (fun e => match e.2 with
    | .src f => if f.key = k then some (e.1, f) else none
    | _ => none)

/-- The flow entry of which this die is the destination, for a key. -/
def dstFlow (d : Die) (k : FlowKey) : Option (Nat × DstFlow) :=
  d.dlv.flows.findSome? (fun e => match e.2 with
    | .dst f => if f.key = k then some (e.1, f) else none
    | _ => none)

/-- The lowest free flow-table index (R363, log entry 14). -/
def freeFlow (d : Die) : Option Nat :=
  if 65536 ≤ d.dlv.flows.length then none
  else (List.range (d.dlv.flows.length + 1)).find? (fun i => d.flow i == .free)

/-- A source flow changed. -/
def modSrc (d : Die) (f : Nat) (g : SrcFlow → SrcFlow) : Die :=
  match d.flow f with
  | .src x => d.setFlow f (.src (g x))
  | _ => d

/-- A destination flow changed. -/
def modDst (d : Die) (f : Nat) (g : DstFlow → DstFlow) : Die :=
  match d.flow f with
  | .dst x => d.setFlow f (.dst (g x))
  | _ => d

/-- The unsettled entries of a source flow. -/
def unsettled (d : Die) (f : Nat) : List (Nat × LedEnt) :=
  d.dlv.ledger.filter (fun e => e.2.flow == f && e.2.state != .settled)

/-- The oldest unsettled FSEQ of a source flow: the next FSEQ when there is none (R366, R370). -/
def floorOf (d : Die) (f : Nat) : BitVec 32 :=
  match d.flow f with
  | .src x => (d.unsettled f).foldl (fun m e => if (x.nextFseq - m).toNat < (x.nextFseq - e.2.fseq).toNat then e.2.fseq else m) x.nextFseq
  | _ => 0

/-! ### Ingress depth and withholding (R420 to R422) -/

/-- Flits of VCs 4 and 6 that a DROP port holds: those of packets that wait, and of items not yet sent (R420). -/
def ingressFlits (d : Die) (p : Nat) : Nat :=
  (d.dlv.waiting.foldl (fun n w => if w.port = p && decide (4 ≤ w.vc) then n + w.pkt.flits else n) 0)
    + ((d.ledOf p).foldl (fun n e => if e.2.state == .queued && decide (2 ≤ e.2.pkt.cls.toNat) then n + e.2.pkt.flits else n) 0)

/-- Does the port withhold credit now (R421)? The flag follows the depth, and WITHHOLD sets when it begins. -/
def updateWithhold (d : Die) (p : Nat) : Die :=
  let now := d.isDrop p && d.bit R.portCcDropEn p && decide (1024 * d.get R.portCcDropThresh p < 64 * d.ingressFlits p)
  if now && !smapGet false d.withholding p then
    { d with withholding := smapSet false d.withholding p true }.raise I.portWithhold p
  else d

/-- The waiting heads that do not meet a property, by output key, are withdrawn. -/
def filterQueue (d : Die) (keep : Nat → QEnt → Bool) : Die :=
  let q := d.sw.queue.map (fun q : Nat × List QEnt => (q.1, q.2.filter (keep q.1)))
  { d with sw := { d.sw with queue := q.filter (fun q => !q.2.isEmpty) } }

/-! ### Receipts and settlement at the source (R356, R357, R391) -/

/-- The counters and the cause of an outcome at the item's ingress port. -/
def countOutcome (d : Die) (p : Nat) (out : BitVec 3) : Die :=
  let d : Die := if out.toNat = 0 then d
    else { d with host := { d.host with returned := smapMod 0 d.host.returned (4 * p + (min out.toNat 4 - 1)) (· + 1) } }
  match out.toNat with
  | 0 => d.bump64 R.portDlvdLo R.portDlvdHi p
  | 1 => d.bump R.portRtAborted p
  | 2 => (d.bump R.portRtUndeliv p).raise I.portUndeliv p
  | 3 => d.bump R.portRtKilled p
  | _ => d.bump R.portRtRejected p

/-- The receipt of a settled entry is queued, and the entry frees (R356, R357, R391). -/
def queueReceipt (d : Die) (k : Nat) : Die :=
  let e := d.led k
  let p := k / 4096
  let d := if e.injected then d else d.queueMsg p (if e.out = 0 then .dlvd e.lsn 1 else .rtnd e.lsn e.out)
  let d := d.countOutcome p e.out
  let d := d.hoopRelease e.cell.toNat (owner 2 p)
  let d := d.setLed k LedEnt.init
  -- a copy of the entry that still waits at an output is withdrawn
  d.filterQueue (fun _ x => x.ledger != some (p, k % 4096))

/-- An item is settled with an outcome, once (R377, R385). -/
def settle (d : Die) (k : Nat) (out : BitVec 3) : Die :=
  let e := d.led k
  if e.state = .free ∨ e.state = .settled then d
  else (d.modLed k (fun e => { e with state := .settled, out := out })).queueReceipt k

/-! ### The timing wheel and copies (R409 to R419) -/

/-- Wheel time in 1/256 cycle (R413). -/
def wheelNow (d : Die) : Nat := (d.tick.count.toNat * d.tickCycles + d.cycle) * 256

/-- DUE after a copy of `n` flits (R415). -/
def advanceDue (rate due now n : Nat) : Nat := max due now + (n * 102 * 4096 + rate - 1) / rate

/-- The first timeout of attempt `k` (R380). -/
def rto (d : Die) (p k : Nat) : Nat := min (d.get R.portDlvCfgRto p * 2 ^ (k - 1)) (d.get R.portDlvCfgRtoMax p)

/-- A copy has left the source die: the attempt counts, and the flow's DUE advances (R380, R384, R415). -/
def copySent (d : Die) (k : Nat) : Die :=
  let e := d.led k
  if e.state = .free ∨ e.state = .settled then d
  else
    let p := k / 4096
    let att := if e.state = .held then e.att else e.att + 1
    let st := if e.state = .queued then .sent else e.state
    let d := d.modLed k (fun e => { e with
      state := st, att := att, last := d.tick.count, due := d.tick.count + BitVec.ofNat 48 (d.rto p att), waiting := false })
    d.modSrc e.flow (fun f => { f with elig := false, due := advanceDue f.rate f.due d.wheelNow e.pkt.flits })

/-- The copy of an entry as it leaves now: PATH, FLOOR and the header check (R304, R370). -/
def copyOf (d : Die) (e : LedEnt) : Packet :=
  ({ e.pkt with path := e.path, fseq := e.fseq, floor := d.floorOf e.flow, d := false, mark := false, hopcnt := 0, lsn := 0 }).seal

/-- A copy of an entry is offered to the switch core (R325, R414). -/
def offerCopy (d : Die) (k : Nat) : Die :=
  let e := d.led k
  let pk := d.copyOf e
  let d := d.modLed k (fun e => { e with ready := false })
  match d.route pk none with
  | .here => (d.copySent k).emit (.handPacket 64 pk)
  | .dead =>
    let d := d.copySent k
    ((d.bump R.harpUnroute).raise I.harpUnroute).logErr .harp 0 0x0601 0 (leBytes 1 (k / 4096) ++ leBytes 1 pk.op.toNat)
  | .out q v dbit far =>
    d.enqueue q v { pkt := d.hopped q pk dbit, inPort := 64, inVc := v, age := 0, carried := false
                    ledger := some (k / 4096, k % 4096), far := far, held := 0, cell := some e.cell.toNat }

/-- The head item of a flow: the lowest FSEQ whose copy waits on the wheel and that the window of R366 lets go. -/
def headItem (d : Die) (f : Nat) : Option Nat :=
  let fl := d.floorOf f
  ((d.unsettled f).filter (fun e => e.2.ready && decide ((e.2.fseq - fl).toNat < 1024))).foldl
    (fun m e => match m with
      | none => some e.1
      | some k => if (e.2.fseq - fl).toNat < ((d.led k).fseq - fl).toNat then some e.1 else m) none

/-- A failed attempt (R381, R382): the path's count, its exclusion, and the next copy after this tick. -/
def failAttempt (d : Die) (k : Nat) : Die :=
  let e := d.led k
  let p := k / 4096
  let n := min 7 (smapGet 0 e.fail e.path.toNat + 1)
  let d := if n = 4 then d.set R.portExcl (min 0xFFFF (d.get R.portExcl p + 1)) p else d
  d.modLed k (fun e => { e with fail := smapSet 0 e.fail e.path.toNat n, waiting := true, due := d.tick.count + 1 })

/-- The paths excluded for an item (R382). -/
def excluded (e : LedEnt) : List Nat := (e.fail.filter (fun x => decide (4 ≤ x.2))).map (·.1)

/-- Is the ingress port's, the die's or the tenant's work being aborted, so that no retransmission starts (R100, R789)? -/
def abortsAt (d : Die) (p : Nat) (pk : Packet) : Bool :=
  (d.rundown (.port (BitVec.ofNat 6 p))).abort != .none || (d.rundown .die).abort != .none
    || (!pk.mgmt && d.tenState pk.tid.toNat == 2)

/-! ### End-to-end packets from the destination die (R375, R376) -/

/-- A packet that Kesil originates leaves, or is handed on when it is for this die (R312, R329). -/
def originate (d : Die) (pk : Packet) : Die :=
  match d.route pk none with
  | .here => d.emit (.handPacket 64 pk)
  | .dead => ((d.bump R.harpUnroute).raise I.harpUnroute).logErr .harp 0 0x0601 0 (leBytes 1 64 ++ leBytes 1 pk.op.toNat)
  | .out q v dbit far =>
    d.enqueue q v { pkt := d.hopped q pk dbit, inPort := 64, inVc := v, age := 0, carried := false, ledger := none, far := far
                    held := 0, cell := none }

/-- A packet of end-to-end records of a flow (R375). -/
def e2ePacket (d : Die) (op : BitVec 8) (f : DstFlow) (recs : List Nat) : Packet :=
  ({ Packet.blank with
      op := op, tid := f.key.tid, seid := f.key.deid, deid := f.key.seid, addr := f.key.cls.setWidth 64, path := f.path
      epoch := BitVec.ofNat 8 (d.hget R.hdrEpoch .port (eidPort f.key.deid)), payload := recs.flatMap (leBytes 8) }).finish

/-- Records sent, at most eight in a packet. -/
def sendRecords : Nat → Die → BitVec 8 → DstFlow → List Nat → Die
  | 0, d, _, _, _ => d
  | _, d, _, _, [] => d
  | n + 1, d, op, f, recs => sendRecords n (d.originate (d.e2ePacket op f (recs.take 8))) op f (recs.drop 8)

/-- The record of one FSEQ's present state: its op and its bits (table End-to-end records). -/
def recordOf (d : Die) (fi : Nat) (f : DstFlow) (s : BitVec 32) : Option (BitVec 8 × Nat) :=
  if 2 ^ 31 ≤ (s - f.next).toNat then
    match d.dlv.rlog.find? (fun r => r.1 == fi && r.2.1 == s) with
    | some r => some (0x22, s.toNat + 2 ^ 32 * r.2.2.toNat)
    | none => match f.rtn with
      | some (a, b, why) =>
        if (s - a).toNat < (b - a).toNat then some (0x22, s.toNat + 2 ^ 32 * why.toNat) else some (0x20, s.toNat + 2 ^ 32)
      | none => some (0x20, s.toNat + 2 ^ 32)
  else if f.items.any (fun i => i.fseq == s) then some (0x20, s.toNat + 2 ^ 48)
  else none

/-- The records of a list of FSEQs sent, by op. -/
def report (d : Die) (fi : Nat) (ss : List (BitVec 32)) : Die :=
  match d.flow fi with
  | .dst f =>
    let rs := ss.filterMap (d.recordOf fi f)
    let d := sendRecords (rs.length + 1) d 0x20 f ((rs.filter (fun r => r.1 == 0x20)).map (·.2))
    sendRecords (rs.length + 1) d 0x22 f ((rs.filter (fun r => r.1 == 0x22)).map (·.2))
  | _ => d

/-! ### Settlement at the destination (R369, R378, R379, R388) -/

/-- A destination item's cell is let go. -/
def dropItem (d : Die) (f : DstFlow) (i : DstItem) : Die :=
  match i.cell with
  | some h => d.hoopRelease h (owner 3 (eidPort f.key.deid))
  | none => d

/-- NEXT settles and advances: the item leaves, and its outcome is to be reported at the next edge (R369, R375). -/
def advanceNext (d : Die) (fi : Nat) : Die :=
  match d.flow fi with
  | .dst f =>
    let d := d.forAll (f.items.filter (fun i => i.fseq == f.next)) (fun d i => d.dropItem f i)
    -- the run that an abort returned is passed over at once
    let after := match f.rtn with
      | some (a, b, _) => if f.next + 1 = a then b else f.next + 1
      | none => f.next + 1
    d.modDst fi (fun f => { f with
      items := f.items.filter (fun i => i.fseq != f.next), changed := f.changed ++ [f.next], next := after
      top := if (f.top - f.next).toNat = 0 then after else f.top, gap := 0, wait := 0 })
  | _ => d

/-- NEXT of a flow is RETURNED with a reason, or held back while the return log is full (R378, R379). -/
def returnNext (d : Die) (fi : Nat) (why : BitVec 3) : Die :=
  match d.flow fi with
  | .dst f =>
    if 8192 ≤ d.dlv.rlog.length then
      let d := d.raise I.portRlogFull (eidPort f.key.deid)
      if d.dlv.heldRtn.any (fun r => r.1 == fi && r.2.1 == f.next) then d
      else { d with dlv := { d.dlv with heldRtn := d.dlv.heldRtn ++ [(fi, f.next, why)] } }
    else { d with dlv := { d.dlv with rlog := d.dlv.rlog ++ [(fi, f.next, why)] } }.advanceNext fi
  | _ => d

/-- Held returns are tried again, and return-log entries more than 1,024 below NEXT are freed (R378, R379). -/
def edgeReturns (d : Die) : Die :=
  let held := d.dlv.heldRtn
  let d := { d with dlv := { d.dlv with heldRtn := [] } }
  let d := d.forAll held (fun d r => match d.flow r.1 with
    | .dst f => if f.next = r.2.1 then d.returnNext r.1 r.2.2 else d
    | _ => d)
  { d with dlv := { d.dlv with rlog := d.dlv.rlog.filter (fun r => match d.flow r.1 with
      | .dst f => decide ((f.next - r.2.1).toNat ≤ 1024)
      | _ => false) } }

/-- The egress copies of an item that still wait at the DROP output are withdrawn. -/
def withdrawEgress (d : Die) (f : DstFlow) (s : BitVec 32) : Die :=
  d.filterQueue (fun k x => !(k / 8 == eidPort f.key.deid && flowKey x.pkt == f.key && x.pkt.fseq == s))

/-- An egress packet judged not received: sent again, or its item returned (R101, R386, R389). -/
def egressLost (d : Die) (p : Nat) (o : EgressOut) : Die :=
  let d := (d.modPort p (fun s => { s with egressOut := s.egressOut.filter (fun x => x.lsn != o.lsn) })).bump R.portNotRecv p
  if 65536 ≤ o.flow then d.enqueue p 2 (QEnt.mk o.pkt 64 0 0 true none none 0 none)
  else match d.flow o.flow with
  | .dst f =>
    match f.items.find? (fun i => i.fseq == o.fseq) with
    | none => d
    | some i =>
      let later := (d.port p).egressOut.any (fun x => x.flow == o.flow && decide (0 < (x.fseq - o.fseq).toNat ∧ (x.fseq - o.fseq).toNat < 2 ^ 31))
      if f.abort ≠ .none then
        if f.next = o.fseq then d.returnNext o.flow (abortReason f.abort) else d
      else if later then (if f.next = o.fseq then d.returnNext o.flow 2 else d)
      else
        let d := d.set R.portEgResend (min (2 ^ 32 - 1) (d.get R.portEgResend p + 1)) p
        let d := d.modDst o.flow (fun f => { f with items := f.items.map (fun x : DstItem => if x.fseq = o.fseq then { x with sent := false } else x) })
        d.enqueue p (2 * i.pkt.cls.toNat) { pkt := i.pkt, inPort := 64, inVc := 0, age := 0, carried := false, ledger := none
                                            far := none, held := 0, cell := none }
  | _ => d

/-! ### Aborts at the two ends (R386) -/

/-- A flow's work at the destination is aborted: what is neither DELIVERED nor sent on egress is RETURNED, and reported with
ABOVE = 1 (R386, log entry 15). -/
def abortDst (d : Die) (fi : Nat) (k : AbortKind) : Die :=
  match d.flow fi with
  | .dst f =>
    if f.abort ≠ .none then d
    else
      let out := f.items.filter (fun i => i.sent)
      let fr := out.foldl (fun m i => if (m - f.next).toNat < (i.fseq + 1 - f.next).toNat then i.fseq + 1 else m) f.next
      let gone := f.items.filter (fun i => !i.sent)
      let d := d.forAll gone (fun d i => (d.withdrawEgress f i.fseq).dropItem f i)
      let top := if (f.top - f.next).toNat < (fr - f.next).toNat then fr else f.top
      if out.isEmpty then
        d.modDst fi (fun f => { f with items := [], abort := k, next := top, top := top, rtn := some (fr, top, abortReason k), gap := 0, wait := 0 })
      else d.modDst fi (fun f => { f with items := out, abort := k, top := top, rtn := some (fr, top, abortReason k) })
  | _ => d

/-- The E2E_RTND record with ABOVE = 1 of an aborted flow (R386). -/
def sendAbove (d : Die) (f : DstFlow) : Die :=
  match f.rtn with
  | some (a, _, why) => d.originate (d.e2ePacket 0x22 f [a.toNat + 2 ^ 32 * why.toNat + 2 ^ 35])
  | none => d

/-- The flows of which this die is the destination that meet a property are aborted. -/
def abortDstAll (d : Die) (p : FlowKey → Bool) (k : AbortKind) : Die :=
  d.forAll (d.dlv.flows.filter (fun e => match e.2 with | .dst f => p f.key | _ => false)) (fun d e => d.abortDst e.1 k)

/-- The end of an abort's bound: destination flows leave it, and the source settles every unsettled item of the scope for which no
HELD bit has arrived (R386). -/
def abortEnd (d : Die) (dst : FlowKey → Bool) (src : Nat → LedEnt → Bool) (k : AbortKind) : Die :=
  let d := { d with dlv := { d.dlv with flows := d.dlv.flows.map (fun e : Nat × FlowEnt => match e.2 with
    | .dst f => if dst f.key then (e.1, .dst { f with abort := .none }) else e
    | _ => e) } }
  d.forAll (d.dlv.ledger.filter (fun e => src (e.1 / 4096) e.2 && e.2.state != .held && e.2.state != .settled))
    (fun d e => d.settle e.1 (abortReason k))

/-! ### What a tick edge does (R343, R374, R375, R379, R386, R406, R410) -/

/-- One destination flow at an edge: its counts, its records, its ECHO and its abort's record. -/
def edgeDst (d : Die) (fi : Nat) : Die :=
  match d.flow fi with
  | .dst f =>
    let d := d.report fi f.changed
    let d := if f.abort ≠ .none then d.sendAbove f else d
    let d := if f.marks = 0 then d
      else d.originate (d.e2ePacket 0x23 f [f.pmask.toNat + 2 ^ 16 * min 0xFFFF f.marks])
    let has := f.items.any (fun i => i.fseq == f.next)
    let waits := f.items.any (fun i => i.fseq == f.next && !i.sent)
    d.modDst fi (fun f => { f with
      changed := [], marks := 0, pmask := 0, idle := if f.items.isEmpty then f.idle + 1 else 0
      gap := if !has && !f.items.isEmpty then f.gap + 1 else 0, wait := if waits then f.wait + 1 else 0 })
  | _ => d

/-- One source flow at an edge: its RATE and its idle ticks (R371, R410, R411). -/
def edgeSrc (d : Die) (fi : Nat) : Die :=
  match d.flow fi with
  | .src f =>
    let rmin := d.get R.portCcRminRmin f.port
    let rate := if f.echoed then max rmin (f.rate - f.rate / 8) else min 4096 (f.rate + d.get R.portCcRateAi f.port)
    let d := if f.echoed then d.bump R.portCuts f.port else d
    let d := if rate = rmin ∧ f.rate ≠ rmin then d.raise I.portAtRmin f.port else d
    d.setFlow fi (.src { f with rate := rate, echoed := false, idle := if (d.unsettled fi).isEmpty then f.idle + 1 else 0 })
  | _ => d

/-- Receipts whose queueing waited for the edge (R359). -/
def edgeReceipts (d : Die) : Die :=
  d.forAll (d.dlv.ledger.filter (fun e => e.2.state == .settled)) (fun d e => d.queueReceipt e.1)

/-- Delivery at a tick edge. -/
def edgeDelivery (d : Die) : Die :=
  let fs := d.dlv.flows.map (·.1)
  let d := d.forAll fs edgeDst
  let d := d.forAll fs edgeSrc
  let d := d.edgeReturns.edgeReceipts
  { d with sw := { d.sw with queue := d.sw.queue.map (fun q : Nat × List QEnt => (q.1, q.2.map (fun e => { e with held := e.held + 1 }))) } }

/-! ### Ingress (R236 to R240, R346, R351 to R355) -/

/-- The first ingress check that fails: its reason, and whether it counts against the tenant (table Ingress checks, R785). -/
def ingressFail (d : Die) (p : Nat) (pk : Packet) : Option (BitVec 4 × Bool) :=
  let op := pk.op.toNat
  if !opEndpoint op || opClass op != some pk.cls.toNat || decide (4096 < pk.len.toNat) || pk.first != (pk.pktidx == 0) || pk.rsvd then
    some (2, false)
  else if pk.mgmt != opMgmt op || (pk.mgmt && pk.tid != 0) then some (2, false)
  else if pk.mgmt && !d.mgmtPort p then some (3, true)
  else if eidNode pk.seid != d.selfNode || eidDie pk.seid != d.pos || eidPort pk.seid != p then some (3, false)
  else if !pk.mgmt && !d.tenPort pk.tid.toNat p then some (3, true)
  else if !(if pk.mgmt then d.rtReach (eidNode pk.deid) && d.rtDies (eidNode pk.deid) / 2 ^ eidDie pk.deid % 2 == 1 else d.eidValid pk.deid) then
    some (3, false)
  else if !pk.crc64Ok then some (3, false)
  else none

/-- A packet is refused (R239, R354, R785). -/
def refusePacket (d : Die) (p : Nat) (pk : Packet) (why : BitVec 4) (tenant : Bool) : Die :=
  let d := (d.queueMsg p (.refuse pk.lsn why)).bump R.portRefused p
  if tenant then d.bump R.tenCntRefused (pk.tid.toNat / 4) (pk.tid.toNat % 4) else d

/-- A packet on a DROP ingress; that of a replay port's endpoint is discarded (R236, R239, R346, R769). -/
def dropPacket (d : Die) (p v : Nat) (pk : Packet) (poisoned beyond : Nat) : Die :=
  let ahead := (pk.lsn - BitVec.ofNat 16 (d.get R.portLsnRx p)).toNat < 32768
  let d := if ahead then d.set R.portLsnRx ((pk.lsn + 1).toNat) p else d.protoErr p
  let whole := pk.flits - poisoned - beyond
  if poisoned ≠ 0 || d.replayPort p then d.freeFlits p v whole
  else if beyond ≠ 0 then (d.refusePacket p pk 1 false).freeFlits p v whole
  else match d.ingressFail p pk with
    | some (why, t) => (d.refusePacket p pk why t).freeFlits p v whole
    | none =>
      let w : WaitPkt := { port := p, vc := v, pkt := pk, counted := false }
      let d : Die := { d with dlv := { d.dlv with waiting := d.dlv.waiting ++ [w] } }
      (d.noteDepth (512 + p) (64 * d.ingressFlits p)).updateWithhold p

/-- A packet waits for a resource: counted once (R353). -/
def countWait (d : Die) (p v : Nat) : Die :=
  match d.dlv.waiting.find? (fun w => w.port == p && w.vc == v) with
  | some w =>
    if w.counted then d
    else
      let i := d.dlv.waiting.findIdx (fun w => w.port == p && w.vc == v)
      { d with dlv := { d.dlv with waiting := d.dlv.waiting.modify i (fun w => { w with counted := true }) } }.bump R.portWait p
  | none => d

/-- The first packet of a port's VC that waits, taken out. -/
def takeWaiting (d : Die) (p v : Nat) : Die :=
  let i := d.dlv.waiting.findIdx (fun w => w.port == p && w.vc == v)
  { d with dlv := { d.dlv with waiting := d.dlv.waiting.eraseIdx i } }

/-- The flow entry for a packet this die sources: the one it has, or a new one at RINIT (R364, R409). -/
def claimFlow (d : Die) (p : Nat) (k : FlowKey) : Option (Die × Nat) :=
  match d.srcFlow k with
  | some (i, _) => some (d, i)
  | none => d.freeFlow.map (fun i => (d.setFlow i (.src
      { key := k, port := p, nextFseq := 0, rate := d.get R.portCcRateRinit p, echoed := false, due := 0, elig := false, idle := 0 }), i))

/-- Is the packet an item that stays on its ingress die: CONTRIB or CCTL (R393, R626)? -/
def staysHere (pk : Packet) : Bool := pk.op == 0x10 || pk.op == 0x08

/-- The output that a packet's EGRESS owner names at ALLOC (R465). -/
def egressOwner (d : Die) (pk : Packet) : List (BitVec 16) :=
  match d.route pk none with
  | .out q _ _ _ => [owner 3 q]
  | _ => []

/-- The acceptance point (R351, R352, R364): the entry claimed, or nothing when a resource lacks. A packet whose tenant no longer
holds the port fails check 5 after all (R777, R789). -/
def acceptItem (d : Die) (p v : Nat) (found : Option (List Byte)) : Die × Option Nat :=
  match d.dlv.waiting.find? (fun w => w.port == p && w.vc == v) with
  | none => (d, none)
  | some w =>
    let pk := w.pkt
    if !pk.mgmt && !d.tenPort pk.tid.toNat p then
      (((d.takeWaiting p v).refusePacket p pk 3 true).freeFlits p v pk.flits, none)
    else if !d.admits (.port (BitVec.ofNat 6 p)) then (d.countWait p v, none)
    else match d.freeLed p with
      | none => ((d.countWait p v).raise I.portLedgerFull p, none)
      | some k =>
        match d.claimFlow p (flowKey pk) with
        | none => ((d.countWait p v).raise I.portFlowFull p, none)
        | some (df, fi) =>
          let (dp, path) := if staysHere pk then (df, 0) else df.harpPick (eidNode pk.deid) []
          let pk := { pk with path := BitVec.ofNat 4 path, d := false, mark := false, hopcnt := 0, lsn := 0, epoch := 0, floor := 0 }
          let owners := [owner 1 p, owner 2 p] ++ (if staysHere pk then [] else dp.egressOwner pk)
          match dp.hoopAlloc { size := BitVec.ofNat 32 (max 1 pk.len.toNat), tid := pk.tid, mgmt := pk.mgmt, owners := owners } found with
          | (da, 0, h) =>
            let fseq := match da.flow fi with | .src f => f.nextFseq | _ => 0
            let pk := ({ pk with fseq := fseq }).seal
            let da := da.modSrc fi (fun f => { f with nextFseq := f.nextFseq + 1, idle := 0 })
            let da := da.cellStore (h / 2 ^ 30) (h % 2 ^ 20) pk.payload
            let da := (da.modCell (h / 2 ^ 30) (h % 2 ^ 20) (fun c => { c with hdr := leBytes 64 pk.bits })).hoopRelease h (owner 1 p)
            let da := da.setLed k { LedEnt.init with
              state := .queued, lsn := w.pkt.lsn, fseq := fseq, flow := fi, cell := BitVec.ofNat 32 h, path := BitVec.ofNat 4 path
              ready := !staysHere pk, own := staysHere pk, pkt := pk }
            let da := (da.takeWaiting p v).queueMsg p (.accept w.pkt.lsn 1)
            let da := (da.bump64 R.portAccLo R.portAccHi p).raiseTo R.portLedgerPeak (da.ledOf p).length p
            (((da.updateWithhold p).freeFlits p v pk.flits), some k)
          | (da, _, _) =>
            -- no cell: what the pools did stands, nothing else of the attempt does
            let back : Die := { da with dlv := d.dlv, harp := d.harp }
            ((back.set64 R.harpPicksLo R.harpPicksHi (d.get64 R.harpPicksLo R.harpPicksHi)).countWait p v, none)

end Die
end Sys2Proof.Machine
end

