-- ==== Sys2Proof/Machine/DeliveryCmds.lean ====
section
/-!
DEFINITION. Machine/DeliveryCmds.lean: the commands of the delivery contract and of pacing (spec 05, R227, R236 to R242; spec 08,
R368 to R390; spec 09, R407, R414, R421).
-/
namespace Sys2Proof.Machine
namespace Die

/-- A new destination entry: NEXT is the copy's FLOOR (R370). -/
def newDst (k : FlowKey) (fl : BitVec 32) : DstFlow :=
  { key := k, next := fl, top := fl, items := [], gap := 0, wait := 0, idle := 0, pmask := 0, marks := 0, changed := [], abort := .none
    rtn := none, path := 0 }

/-- The destination entry of a flow, found or created (R370). -/
def claimDst (d : Die) (k : FlowKey) (fl : BitVec 32) : Option (Die × Nat) :=
  match d.dstFlow k with
  | some (i, _) => some (d, i)
  | none => d.freeFlow.map (fun i => (d.setFlow i (.dst (newDst k fl)), i))

/-- A copy is stored in a hoop cell charged to its tenant; without a cell it is not stored, and not answered (R318, log entry 16). -/
def storeCopy (d : Die) (fi p : Nat) (pk : Packet) : Die :=
  match d.hoopAlloc { size := BitVec.ofNat 32 (max 1 pk.len.toNat), tid := pk.tid, mgmt := pk.mgmt, owners := [owner 3 p] } none with
  | (d, 0, h) =>
    let d := d.cellStore (h / 2 ^ 30) (h % 2 ^ 20) pk.payload
    let d := d.modCell (h / 2 ^ 30) (h % 2 ^ 20) (fun c => { c with hdr := leBytes 64 pk.bits })
    let it : DstItem := { fseq := pk.fseq, pkt := pk, cell := some h, handed := false, sent := false }
    d.modDst fi (fun f => { f with
      items := f.items ++ [it], changed := f.changed ++ [pk.fseq]
      top := if (f.top - f.next).toNat ≤ (pk.fseq - f.next).toNat then pk.fseq + 1 else f.top })
  | (d, _, _) => d

/-- A copy of an item at its destination die (R368, R370, R374, R406). -/
def copyArrives (d : Die) (pk : Packet) : Die :=
  let k := flowKey pk
  let p := eidPort pk.deid
  let d := if pk.crc64Ok then d else d.bump R.portCrcBad p
  match d.claimDst k pk.floor with
  | none => (d.bump R.portWinDrop p).raise I.portFlowFull p
  | some (d, fi) =>
    let d := d.modDst fi (fun f => { f with
      idle := 0, path := pk.path
      marks := if pk.mark then f.marks + 1 else f.marks
      pmask := if pk.mark then f.pmask ||| BitVec.ofNat 16 (2 ^ pk.path.toNat) else f.pmask })
    match d.flow fi with
    | .dst f =>
      let δ := (pk.fseq - f.next).toNat
      if 2 ^ 31 ≤ δ then (d.bump R.portDupRx p).report fi [pk.fseq]
      else if f.abort ≠ .none then
        d.modDst fi (fun f => { f with
          top := if (f.top - f.next).toNat ≤ δ ∧ δ < 1024 then pk.fseq + 1 else f.top
          next := if f.items.isEmpty ∧ δ < 1024 then pk.fseq + 1 else f.next
          rtn := f.rtn.map (fun r => (r.1, (if δ < 1024 then pk.fseq + 1 else r.2.1), r.2.2)) })
      else if 1024 ≤ δ then d.bump R.portWinDrop p
      else if f.items.any (fun i => i.fseq == pk.fseq) then (d.bump R.portDupRx p).report fi [pk.fseq]
      else if !pk.crc64Ok then d.originate (d.e2ePacket 0x21 f [pk.fseq.toNat + 2 ^ 32 * pk.path.toNat])
      else d.storeCopy fi p pk
    | _ => d

/-! ### Records at the source (R377, R381) -/

/-- The records of an end-to-end packet. -/
def e2eRecords (pk : Packet) : List Nat :=
  (List.range (pk.len.toNat / 8)).map (fun i => leNat ((pk.payload.drop (8 * i)).take 8))

/-- The source flow that an end-to-end packet names: its SEID is the flow's DEID (R375). -/
def e2eFlow (d : Die) (pk : Packet) : Option (Nat × SrcFlow) :=
  d.srcFlow { seid := pk.deid, deid := pk.seid, tid := pk.tid, cls := BitVec.ofNat 2 (pk.addr.toNat % 4) }

/-- The ledger entry of an FSEQ of a flow. -/
def entryOf (d : Die) (fi : Nat) (s : BitVec 32) : Option Nat :=
  (d.dlv.ledger.find? (fun e => e.2.flow == fi && e.2.fseq == s && !e.2.own)).map (·.1)

/-- An outcome record for one item: an entry not yet settled takes it; a lost entry whose receipt is not queued takes it in place of
its own outcome (R359, R377). -/
def applyOutcome (d : Die) (fi : Nat) (s : BitVec 32) (out : BitVec 3) : Die :=
  match d.entryOf fi s with
  | none => d
  | some k => if (d.led k).state = .settled then d.modLed k (fun e => { e with out := out }) else d.settle k out

/-- A HELD bit for one item (R377, R384). -/
def applyHeld (d : Die) (fi : Nat) (s : BitVec 32) : Die :=
  match d.entryOf fi s with
  | none => d
  | some k =>
    let e := d.led k
    if e.state = .queued ∨ e.state = .sent then d.modLed k (fun e => { e with state := .held, waiting := false, ready := false }) else d

/-- One E2E_DLVD record. -/
def applyDlvd (d : Die) (fi r : Nat) : Die :=
  let d := d.forAll (List.range 16) (fun d i =>
    if r / 2 ^ (32 + i) % 2 = 1 then d.applyOutcome fi (BitVec.ofNat 32 (r + i)) 0 else d)
  d.forAll (List.range 16) (fun d i => if r / 2 ^ (48 + i) % 2 = 1 then d.applyHeld fi (BitVec.ofNat 32 (r + i)) else d)

/-- One E2E_RTND record (table End-to-end records). -/
def applyRtnd (d : Die) (fi r : Nat) : Die :=
  let s := BitVec.ofNat 32 r
  let why := BitVec.ofNat 3 (r / 2 ^ 32)
  if r / 2 ^ 35 % 2 = 1 then
    d.forAll ((d.unsettled fi).filter (fun e => !e.2.own && decide ((e.2.fseq - s).toNat < 2 ^ 31))) (fun d e => d.settle e.1 why)
  else d.applyOutcome fi s why

/-- One E2E_NAK record: the present attempt fails when it went by that path (R381). -/
def applyNak (d : Die) (fi r : Nat) : Die :=
  match d.entryOf fi (BitVec.ofNat 32 r) with
  | none => d
  | some k =>
    let d := d.bump R.portNakRx (k / 4096)
    let e := d.led k
    if e.state = .sent && !e.waiting && e.path.toNat == r / 2 ^ 32 % 16 then d.failAttempt k else d

/-- An end-to-end packet for this die whose checks hold has its records applied to the flow it names (R376, R377). -/
def onRecords (d : Die) (pk : Packet) (op : BitVec 8) (f : Die → Nat → Nat → Die) : Die :=
  if pk.op ≠ op || eidDie pk.deid ≠ d.pos || !pk.hcrcOk || !pk.crc64Ok then d
  else match d.e2eFlow pk with
    | none => d
    | some (fi, _) => d.forAll (e2eRecords pk) (fun d r => f d fi r)

/-! ### Egress (R241, R242, R388) -/

/-- The egress packets of a port that meet a property are judged not received. -/
def loseEgress (d : Die) (p : Nat) (lost : EgressOut → Bool) : Die :=
  d.forAll ((d.port p).egressOut.filter lost) (fun d o => d.egressLost p o)

/-- A TAKEN for one egress packet: its item is DELIVERED, and NEXT advances (R388). -/
def takenOne (d : Die) (p : Nat) (o : EgressOut) : Die :=
  let d := d.modPort p (fun s => { s with egressOut := s.egressOut.filter (fun x => x.lsn != o.lsn) })
  if 65536 ≤ o.flow then
    { d with coll := { d.coll with taken := d.coll.taken ++ [(o.flow - 65536, o.fseq.toNat, p, o.pkt.addr.toNat)] } }
  else
  match d.flow o.flow with
  | .dst f => if f.next = o.fseq then d.advanceNext o.flow else d
  | _ => d

/-- A TAKEN for a run of LSNs (R388). -/
def takenRun (d : Die) (p : Nat) (first : BitVec 16) (count : Nat) : Die :=
  d.forAll ((d.port p).egressOut.filter (fun o => decide ((o.lsn - first).toNat < count))) (fun d o => d.takenOne p o)

end Die

/-- DROP_PACKET_RX: a packet has arrived on a DROP ingress; `poisoned` and `beyond` count its poisoned flits and those that the
receiver dropped beyond credit (R233, R236, R239, R346). -/
def execDropPacketRx (p : BitVec 6) (v : BitVec 3) (pk : Packet) (poisoned beyond : BitVec 7) (s : State) :
    Host.Outcome State Fault Refusal :=
  act s (fun d => if d.isDrop p.toNat then d.dropPacket p.toNat v.toNat pk poisoned.toNat beyond.toNat else d)

/-- E2E_COPY_RX: a copy of an item at its destination die (R368). -/
def execE2eCopyRx (pk : Packet) (s : State) : Host.Outcome State Fault Refusal :=
  act s (fun d =>
    let op := pk.op.toNat
    if (op = 1 ∨ op = 2 ∨ op = 0x30 ∨ op = 0x31) ∧ eidDie pk.deid = d.pos ∧ pk.hcrcOk then d.copyArrives pk else d)

/-- E2E_DLVD_RX (R377). -/
def execE2eDlvdRx (pk : Packet) (s : State) : Host.Outcome State Fault Refusal :=
  act s (fun d => d.onRecords pk 0x20 Die.applyDlvd)

/-- E2E_NAK_RX (R381). -/
def execE2eNakRx (pk : Packet) (s : State) : Host.Outcome State Fault Refusal :=
  act s (fun d => d.onRecords pk 0x21 Die.applyNak)

/-- E2E_RTND_RX (R377, R386). -/
def execE2eRtndRx (pk : Packet) (s : State) : Host.Outcome State Fault Refusal :=
  act s (fun d => d.onRecords pk 0x22 Die.applyRtnd)

/-- ECHO_RX: an echo is applied to its flow and to the harp row of the flow's destination node (R407). -/
def execEchoRx (pk : Packet) (s : State) : Host.Outcome State Fault Refusal :=
  act s (fun d =>
    if pk.op ≠ 0x23 ∨ eidDie pk.deid ≠ d.pos ∨ ¬ pk.hcrcOk ∨ ¬ pk.crc64Ok then d
    else
      let n := eidNode pk.seid
      let mask := leNat (pk.payload.take 2)
      let r := d.harpRow n
      let d := (d.setHarpRow n { r with echo := (List.range 16).map (fun i => r.echo.getD i 0 + mask / 2 ^ i % 2) }).bump R.harpEchoes
      match d.e2eFlow pk with
      | none => d
      | some (fi, f) => (d.modSrc fi (fun f => { f with echoed := true })).bump R.portEchoRx f.port)

/-- ATTEMPT_TIMEOUT: an attempt has timed out; `bad` counts the copies of the entry that fail their check (R358, R359, R380). -/
def execAttemptTimeout (p : BitVec 6) (i : BitVec 12) (bad : BitVec 2) (s : State) : Host.Outcome State Fault Refusal :=
  act s (fun d =>
    let k := 4096 * p.toNat + i.toNat
    let e := d.led k
    if e.state = .free ∨ e.state = .settled then d
    else
      let d := if bad = 1 then d.logErr .port p.toNat 0x0700 0 (leBytes 2 i.toNat) else d
      if 2 ≤ bad.toNat then
        let d := d.logErr .port p.toNat 0x0701 1 (leBytes 2 i.toNat)
        d.modLed k (fun e => { e with state := .settled, out := 2 })
      else if e.state = .sent ∧ ¬ e.waiting ∧ e.due.toNat ≤ d.tick.count.toNat then (d.bump R.portTimeout p.toNat).failAttempt k
      else d)

/-- RETRANSMIT: in the tick after a failed attempt the next copy is made ready (R341, R382). -/
def execRetransmit (p : BitVec 6) (i : BitVec 12) (s : State) : Host.Outcome State Fault Refusal :=
  act s (fun d =>
    let k := 4096 * p.toNat + i.toNat
    let e := d.led k
    if e.state = .sent ∧ e.waiting ∧ ¬ e.ready ∧ e.att < 16 ∧ e.due.toNat ≤ d.tick.count.toNat ∧ ¬ d.abortsAt p.toNat e.pkt then
      let (d, path) := d.harpPick (eidNode e.pkt.deid) (Die.excluded e)
      (d.modLed k (fun e => { e with path := BitVec.ofNat 4 path, ready := true })).bump R.portRetx p.toNat
    else d)

/-- PROBE: a HELD item is sent again every RTO_MAX ticks, without counting attempts (R384). -/
def execProbe (p : BitVec 6) (i : BitVec 12) (s : State) : Host.Outcome State Fault Refusal :=
  act s (fun d =>
    let k := 4096 * p.toNat + i.toNat
    let e := d.led k
    if e.state = .held ∧ ¬ e.ready ∧ ¬ e.own ∧ e.last.toNat + d.get R.portDlvCfgRtoMax p.toNat ≤ d.tick.count.toNat then
      d.modLed k (fun e => { e with ready := true })
    else d)

/-- GIVE_UP: after the 16th failed attempt, no earlier than 2,176 ticks after LAST (R383). -/
def execGiveUp (p : BitVec 6) (i : BitVec 12) (s : State) : Host.Outcome State Fault Refusal :=
  act s (fun d =>
    let k := 4096 * p.toNat + i.toNat
    let e := d.led k
    if e.state = .sent ∧ e.waiting ∧ 16 ≤ e.att ∧ e.last.toNat + 2176 ≤ d.tick.count.toNat then d.settle k 2 else d)

/-- DEID_INVALID_SETTLE: the DEID of an unsettled item is no longer valid (R387). -/
def execDeidInvalidSettle (p : BitVec 6) (i : BitVec 12) (s : State) : Host.Outcome State Fault Refusal :=
  act s (fun d =>
    let k := 4096 * p.toNat + i.toNat
    let e := d.led k
    let valid := if e.pkt.mgmt then d.rtReach (eidNode e.pkt.deid) && d.rtDies (eidNode e.pkt.deid) / 2 ^ eidDie e.pkt.deid % 2 == 1
      else d.eidValid e.pkt.deid
    if e.state = .free ∨ e.state = .settled ∨ valid then d
    else if e.state = .queued ∨ e.last.toNat + 2176 ≤ d.tick.count.toNat then d.settle k 2
    else d)

/-- GAP_SETTLE: NEXT has been missing for GAP ticks while a later FSEQ is held (R374). -/
def execGapSettle (f : BitVec 16) (s : State) : Host.Outcome State Fault Refusal :=
  act s (fun d =>
    match d.flow f.toNat with
    | .dst x =>
      let p := eidPort x.key.deid
      if d.get R.portDlvCfg2Gap p ≤ x.gap ∧ ¬ x.items.isEmpty then
        let d := (d.set R.portGapRt (min 0xFFFF (d.get R.portGapRt p + 1)) p).raise I.portGap p
        d.returnNext f.toNat 2
      else d
    | _ => d)

/-- EGRESS_TIMEOUT: NEXT has waited EGRESS_MAX ticks without being sent on egress (R390). -/
def execEgressTimeout (f : BitVec 16) (s : State) : Host.Outcome State Fault Refusal :=
  act s (fun d =>
    match d.flow f.toNat with
    | .dst x =>
      if d.get R.portDlvCfg2EgressMax (eidPort x.key.deid) ≤ x.wait ∧ x.items.any (fun i => i.fseq == x.next && !i.sent) then
        (d.withdrawEgress x x.next).returnNext f.toNat 2
      else d
    | _ => d)

/-- DEST_FLOW_RELEASE (R371). -/
def execDestFlowRelease (f : BitVec 16) (s : State) : Host.Outcome State Fault Refusal :=
  act s (fun d =>
    match d.flow f.toNat with
    | .dst x => if 131072 ≤ x.idle ∧ x.items.isEmpty then
        let d := d.setFlow f.toNat .free
        { d with dlv := { d.dlv with rlog := d.dlv.rlog.filter (fun r => r.1 != f.toNat) } } else d
    | _ => d)

/-- SOURCE_FLOW_RELEASE (R371). -/
def execSourceFlowRelease (f : BitVec 16) (s : State) : Host.Outcome State Fault Refusal :=
  act s (fun d =>
    match d.flow f.toNat with
    | .src x => if 262144 ≤ x.idle ∧ (d.unsettled f.toNat).isEmpty then d.setFlow f.toNat .free else d
    | _ => d)

/-- COPY_LIFETIME_DROP: copies of items that an output has held for 128 ticks are discarded (R373). -/
def execCopyLifetimeDrop (p : BitVec 6) (v : BitVec 3) (s : State) : Host.Outcome State Fault Refusal :=
  act s (fun d =>
    let k := 8 * p.toNat + v.toNat
    let old (e : QEnt) : Bool := decide (128 ≤ e.held) && opEndpoint e.pkt.op.toNat && !d.isDrop p.toNat
    let gone := (d.heads k).filter old
    let d := d.filterQueue (fun q e => q != k || !old e)
    d.forAll gone (fun d e =>
      let d := (d.bump R.portLifeDrop p.toNat).leaveInput e p.toNat v.toNat
      match e.ledger with
      | none => d
      | some (q, i) =>
        -- the item keeps its state; its copy waits on the wheel again
        let key := 4096 * q + i
        (d.modLed key (fun x => { x with ready := true })).modSrc (d.led key).flow (fun x => { x with elig := false })))

/-- FLOW_DUE: the flow's head item becomes eligible and is offered to the switch core (R414, R415, R418). -/
def execFlowDue (f : BitVec 16) (s : State) : Host.Outcome State Fault Refusal :=
  act s (fun d =>
    match d.flow f.toNat with
    | .src x =>
      if x.elig || decide (d.tick.count.toNat < x.due / 256 / d.tickCycles) then d
      else match d.headItem f.toNat with
        | none => d
        | some k => (d.modSrc f.toNat (fun x => { x with elig := true })).offerCopy k
    | _ => d)

/-- WITHHOLD_END: at the first superframe with the depth at or below the threshold, the withheld count joins RET_4 (R421). -/
def execWithholdEnd (p : BitVec 6) (s : State) : Host.Outcome State Fault Refusal :=
  act s (fun d =>
    let p := p.toNat
    if smapGet false d.withholding p ∧
        (64 * d.ingressFlits p ≤ 1024 * d.get R.portCcDropThresh p ∨ ¬ d.bit R.portCcDropEn p) then
      let d := d.modVc p 4 (fun s => { s with ret := s.ret + BitVec.ofNat 15 s.withheld, withheld := 0 })
      { d with withholding := smapSet false d.withholding p false }
    else d)

/-- CREDIT_SLOT_RX: the far end's RET counts and its MACK and MLAST; egress packets that they show as not received are settled
(R220, R227, R241, R243, R389). -/
def execCreditSlotRx (p : BitVec 6) (vcp : BitVec 2) (retA retB : BitVec 15) (mack mlast : BitVec 6) (s : State) :
    Host.Outcome State Fault Refusal :=
  act s (fun d =>
    let p := p.toNat
    let d := d.takeAck p mack mlast
    let take (d : Die) (v : Nat) (r : BitVec 15) : Die := d.modVc p v (fun s => { s with retRx := r, gRx := some (s.gRx.getD r) })
    let d := take (take d (2 * vcp.toNat) retA) (2 * vcp.toNat + 1) retB
    let d := d.modPort p (fun s => { s with credSeen := s.credSeen ||| BitVec.ofNat 4 (2 ^ vcp.toNat) })
    if d.isDrop p ∧ d.get R.portMsgMackOut p = mlast.toNat then
      d.loseEgress p (fun o =>
        let g := ((d.vc p o.vc).gRx.getD 0)
        o.vc / 2 == vcp.toNat && decide (((d.vc p o.vc).retRx - (g + o.tailK)).toNat < 2 ^ 14))
    else d)

/-- RX_SETTLED: packets without a receipt below the LSN are not received (R242, R243, R389). -/
def execRxSettled (p : BitVec 6) (lsn : BitVec 16) (s : State) : Host.Outcome State Fault Refusal :=
  act s (fun d =>
    let p := p.toNat
    if !d.isDrop p then d.protoErr p
    else
      let d := d.modPort p (fun s => { s with settledIn := true })
      d.loseEgress p (fun o => decide (0 < (lsn - o.lsn).toNat ∧ (lsn - o.lsn).toNat ≤ 32768)))

/-- TAKEN: the endpoint has received egress packets intact, and their items are DELIVERED (R239, R253, R388). -/
def execTaken (p : BitVec 6) (first : BitVec 16) (count : BitVec 6) (s : State) : Host.Outcome State Fault Refusal :=
  act s (fun d =>
    let p := p.toNat
    if !d.isDrop p || count == 0 then d.protoErr p
    else (d.recTaken p first.toNat count.toNat false).takenRun p first count.toNat)

end Sys2Proof.Machine
end

