-- ==== Sys2Proof/Machine/GroupBase.lean ====
section
/-!
DEFINITION. Machine/GroupBase.lean: plan slots and groups as the other units see them: the plan's records of a group, its members and
trees on this die (spec 15, R610 to R614; spec 17), run-down bounds (R93), overruns (R78 to R85) and the end of a collective.
-/
namespace Sys2Proof.Machine

/-- An empty plan slot. -/
def PlanSlot.empty : PlanSlot := { state := 0, ofs := 0, img := none, ltag := 0, placed := [], leaving := false }

/-- A group that does not exist. -/
def GroupSt.init : GroupSt :=
  { ent := none, sqHead := 0, sqTail := 0, cqHead := 0, cqTail := 0, wait := 0, stalled := false, heldRec := none, run := none
    early := [], resend := [], cmds := [], draining := false }

/-- A chunk of which this die holds nothing. -/
def ChunkSt.init : ChunkSt :=
  { contrib := [], parts := [], admitted := none, stage := 0, open_ := 0, stored := [], finished := false, results := []
    kept := [], kidsDone := [], doneAt := none, fin := none, tree := 0, alt := false }

namespace Die

/-- A plan slot. -/
def plan (d : Die) (s : Nat) : PlanSlot := smapGet PlanSlot.empty d.plans.slots s

/-- A plan slot changed. -/
def modPlan (d : Die) (s : Nat) (f : PlanSlot → PlanSlot) : Die :=
  { d with plans := { d.plans with slots := smapMod PlanSlot.empty d.plans.slots s f } }

/-- The images of the slots in some states: 2 PENDING, 3 ACTIVE. -/
def plansIn (d : Die) (st : List Nat) : List (Nat × PlanImg) :=
  d.plans.slots.filterMap (fun e => if st.contains e.2.state then e.2.img.map (fun i => (e.1, i)) else none)

/-- Is any plan loaded (PENDING or ACTIVE)? -/
def planLoaded (d : Die) : Bool := !(d.plansIn [2, 3]).isEmpty

/-- A group on this die. -/
def group (d : Die) (g : Nat) : GroupSt := smapGet GroupSt.init d.coll.groups g

/-- A group changed. -/
def modGroup (d : Die) (g : Nat) (f : GroupSt → GroupSt) : Die :=
  { d with coll := { d.coll with groups := smapMod GroupSt.init d.coll.groups g f } }

/-- The running collective of a group changed. -/
def modRun (d : Die) (g : Nat) (f : CollRun → CollRun) : Die :=
  d.modGroup g (fun s => { s with run := s.run.map f })

/-- A chunk of the running collective. -/
def chunkOf (d : Die) (g c : Nat) : ChunkSt :=
  match (d.group g).run with
  | some r => smapGet ChunkSt.init r.chunks c
  | none => ChunkSt.init

/-- A chunk of the running collective changed. -/
def modChunk (d : Die) (g c : Nat) (f : ChunkSt → ChunkSt) : Die :=
  d.modRun g (fun r => { r with chunks := smapMod ChunkSt.init r.chunks c f })

/-- The image of the plan that declares a group. -/
def groupImg (d : Die) (g : Nat) : Option PlanImg :=
  match (d.group g).ent with
  | some e => (d.plan e.slot).img
  | none => none

/-- The members of a group, in order (R613, R714). -/
def members (d : Die) (g : Nat) : List (BitVec 17) :=
  match (d.group g).ent, d.groupImg g with
  | some e, some i => ((i.mem.drop e.mbase).take e.nmem).map (BitVec.ofNat 17)
  | _, _ => []

/-- Is an EID on this die? -/
def onThisDie (d : Die) (e : BitVec 17) : Bool := eidNode e == d.selfNode && eidDie e == d.pos

/-- The members of a group on this die: (index, port). -/
def localMembers (d : Die) (g : Nat) : List (Nat × Nat) :=
  let ms := d.members g
  ((List.range ms.length).zip ms).filterMap (fun m => if d.onThisDie m.2 then some (m.1, eidPort m.2) else none)

/-- The TREE record of a group on this die (R716, R717). -/
def treeRec (d : Die) (g t : Nat) (alt : Bool) : Option TreeRec :=
  match d.groupImg g with
  | some i => i.trees.find? (fun r => r.group == g && r.tree == t && r.alt == alt)
  | none => none

/-- The recipe set of a group (R722). -/
def rsetOf (d : Die) (g n : Nat) : Option RsetRec :=
  match d.groupImg g with
  | some i => i.rsets.find? (fun r => r.group == g && r.rset == n)
  | none => none

/-- Is this die the HOME die of a group? -/
def isHome (d : Die) (g : Nat) : Bool :=
  match (d.group g).ent with
  | some e => e.hasq && e.home == d.pos
  | none => false

/-- The EID of a die: PORT is 0. -/
def dieEid (node die : Nat) : Nat := 256 * node + 64 * die

/-! ### Run-down bounds (R93) -/

/-- The greatest depth of plans, or 64 when there is none. -/
def depthOf (l : List PlanImg) : Nat := if l.isEmpty then 64 else l.foldl (fun m i => max m i.depth) 0

/-- The plans that a vat serves: those that name its logical number. -/
def vatPlans (d : Die) (v : Nat) : List PlanImg :=
  ((d.plansIn [3]).map (fun p => p.2)).filter (fun i => d.bit R.vatStatLvalid v && i.rcps.any (fun r => r.lvat == d.get R.vatStatLogical v))

/-- The plans that a port serves: reservations, trees or members on it. -/
def portPlans (d : Die) (p : Nat) : List PlanImg :=
  ((d.plansIn [3]).map (fun x => x.2)).filter (fun i => i.rsvs.any (fun r => r.port == p)
    || i.trees.any (fun t => (!t.root && t.upPort == p) || t.kids.any (fun k => k.2.2 == p))
    || i.mem.any (fun e => d.onThisDie (BitVec.ofNat 17 e) && e % 64 == p))

/-- D of a unit; the die's is the greatest of its units' (R93, R99). -/
def unitBound (d : Die) : UnitId → Nat
  | .die =>
    (List.range 64).foldl (fun m p => max m (depthOf (d.portPlans p)))
      ((List.range 32).foldl (fun m v => max m (depthOf (d.vatPlans v))) (depthOf ((d.plansIn [3]).map (fun p => p.2))))
  | .port p => depthOf (d.portPlans p.toNat)
  | .vat v => depthOf (d.vatPlans v.toNat)
  | .group g => depthOf ((d.groupImg g.toNat).toList)

/-- Does a group admit new work: it, its die and its page's stall allow it? -/
def groupOpen (d : Die) (g : Nat) : Bool := d.admits (.group (BitVec.ofNat 12 g)) && !d.stalled .coll (g / 256)

/-! ### Overruns (R78 to R85) -/

/-- The code of an overrun cause (table Overrun causes). -/
def ovrCode : OvrCause → Nat
  | .refresh => 1
  | .retrans => 2
  | .reexec => 3
  | .tree => 4
  | .carry => 5

/-- The lowest chunk of a group's collective that is admitted and not finished; 0 for none. -/
def openChunk (d : Die) (g : Nat) : Nat :=
  match (d.group g).run with
  | some r => ((r.chunks.filter (fun e => e.2.admitted.isSome && e.2.fin.isNone)).map (fun e => e.1)).headD 0
  | none => 0

/-- An overrun is logged for the tick that the latest edge closed, counted and latched; the group is in overrun at that edge, and its
collective is no longer timing-exact (R78, R82, R83, R85). -/
def logOverrun (d : Die) (g : Nat) (c : OvrCause) : Die :=
  let tick := d.tick.count - 1
  let tid := match (d.group g).ent with
    | some e => e.tid
    | none => 0
  let d : Die := { d with telem := { d.telem with ovr := d.telem.ovr + 1 } }
  let d := d.logErr .tick 0 0x0100 0 (leBytes 2 g ++ leBytes 1 tid ++ leBytes 1 (ovrCode c)) (some tid) false (some tick)
  let d := (d.bump R.tickOvrTotalTotal).bump R.tickOvrCauseCount 0 (ovrCode c - 1)
  let d := ((d.set64 R.tickOvrLastTickLo R.tickOvrLastTickHi tick.toNat).set R.tickOvrLastCause (ovrCode c))
  let d := ((d.set R.tickOvrWhoGroup g).set R.tickOvrWhoTid tid).raise I.tickOverrun
  let d := match c with
    | .refresh => d.excCount false g (d.openChunk g)
    | .retrans => d.excCount true g (d.openChunk g)
    | _ => d
  let d := d.modRun g (fun r => { r with exact := false, ovr := min 0xFFFF (r.ovr + 1) })
  if d.tick.ovrNow.contains g then d
  else { d with tick := { d.tick with ovrNow := d.tick.ovrNow ++ [g], ovrRun := smapMod 0 d.tick.ovrRun g (· + 1) } }

/-- A control packet of the collective engine to a die (table CCTL kinds). -/
def cctlTo (d : Die) (g dst kind cid chunk arg : Nat) (payload : List Byte) : Die :=
  let tid := match (d.group g).ent with
    | some e => e.tid
    | none => 0
  d.originate ({ Packet.blank with
    op := 0x08, cls := 0, tid := BitVec.ofNat 8 tid, seid := BitVec.ofNat 17 (dieEid d.selfNode d.pos), deid := BitVec.ofNat 17 dst
    group := BitVec.ofNat 12 g, cid := BitVec.ofNat 16 cid, chunk := BitVec.ofNat 32 chunk, addr := BitVec.ofNat 64 kind
    arg := BitVec.ofNat 64 arg, payload := payload }).finish

/-- The running collective is to end with a status and a reason; the first decision stands. A die that is not HOME tells HOME with a CMD_FWD of
ABORT that carries the reason in ARG[7:4] (log entry 22). -/
def endColl (d : Die) (g status reason : Nat) : Die :=
  match (d.group g).run with
  | none => d
  | some r =>
    if r.ended.isSome then d
    else
      let d := d.modRun g (fun r => { r with ended := some (status, reason) })
      if d.isHome g then d else d.cctlTo g r.home 0xC r.d.cid 0 (2 + 16 * reason) []

end Die
end Sys2Proof.Machine
end

