-- ==== Sys2Proof/Machine/VatBase.lean ====
section
/-!
DEFINITION. Machine/VatBase.lean: a vat's parts as its steps and the other units use them: logical numbers (R515 to R522), handles
(R507, R577 to R583), wipes (R586 to R589), faults (R517) and the dispatch queue (R511 to R514).
-/
namespace Sys2Proof.Machine

/-- A vat that has done nothing. -/
def VatSt.init : VatSt :=
  { handles := [], recipe := [], queue := [], mem := [], wipes := [], fault := none, injRes := false, injRcp := false, hard := []
    passAt := 0, late := false, wback := [] }

namespace Die

/-- A vat beside its page. -/
def vat (d : Die) (v : Nat) : VatSt := smapGet VatSt.init d.vats v

/-- A vat changed. -/
def modVat (d : Die) (v : Nat) (f : VatSt → VatSt) : Die := { d with vats := smapMod VatSt.init d.vats v f }

/-- The physical vat that holds a logical number (R515, R518). -/
def holder (d : Die) (lv : Nat) : Option Nat :=
  (List.range 32).find? (fun v => d.bit R.vatStatLvalid v && d.get R.vatStatLogical v == lv && d.get R.vatStatState v == 0)

/-- A vat's state and logical number written. -/
def setServing (d : Die) (v st : Nat) (lv : Option Nat) : Die :=
  ((d.set R.vatStatState st v).setBit R.vatStatLvalid lv.isSome v).set R.vatStatLogical (lv.getD 0) v

/-- At cascade formation the vats that are not fenced take logical numbers, and the highest VAT.RSV of them are reserve vats (R515). -/
def assignVats (d : Die) : Die :=
  let live := (List.range 32).filter (fun v => d.get R.vatStatState v != 2)
  let n := live.length - d.get R.vatRsv
  d.forAll ((List.range live.length).zip live) (fun d x => if x.1 < n then d.setServing x.2 0 (some x.1) else d.setServing x.2 1 none)

/-- The lowest-numbered free reserve vat (R518). -/
def freeReserve (d : Die) : Option Nat := (List.range 32).find? (fun v => d.get R.vatStatState v == 1)

/-! ### Handles and the scratchpad -/

/-- A handle entry. -/
def handleEnt (d : Die) (v h : Nat) : Option HandleEnt := smapGet none (d.vat v).handles h

/-- First and end word of an entry's region (R580). -/
def HandleEnt.words (e : HandleEnt) : Nat × Nat := (8 * e.base, 8 * (e.base + e.len + 1))

/-- The valid handle whose region covers a word. -/
def coverOf (d : Die) (v w : Nat) : Option (Nat × HandleEnt) :=
  (d.vat v).handles.findSome? (fun x => match x.2 with
    | some e => if e.valid && decide ((HandleEnt.words e).1 ≤ w ∧ w < (HandleEnt.words e).2) then some (x.1, e) else none
    | none => none)

/-- Is a word W-class (R564)? -/
def wordW (d : Die) (v w : Nat) : Bool :=
  match d.coverOf v w with
  | some (_, e) => e.cls
  | none => false

/-- Is a word under wipe (R588)? -/
def underWipe (d : Die) (v w : Nat) : Bool := (d.vat v).wipes.any (fun x => decide (x.1 ≤ w ∧ w < x.1 + x.2))

/-- A wipe of words begins: what is there is zero once anyone can read it, and write-backs waiting there are dropped (R586 to R589). -/
def startWipe (d : Die) (v w n : Nat) : Die :=
  let keep (x : Nat) : Bool := decide (x < w ∨ w + n ≤ x)
  let d := d.modVat v (fun s => { s with
    wipes := s.wipes ++ [(w, n)], mem := s.mem.filter (fun e => keep (e.1 / 8)), wback := s.wback.filter keep })
  d.setBit R.vatSpStatWiping true v

/-- The handle entries of a vat that meet a property become invalid, and their regions are wiped (R587, R588). -/
def wipeHandles (d : Die) (v : Nat) (p : HandleEnt → Bool) : Die :=
  let es := (d.vat v).handles.filterMap (fun x => match x.2 with
    | some e => if e.valid && p e then some (x.1, e) else none
    | none => none)
  d.forAll es (fun d x =>
    let d := d.modVat v (fun s => { s with handles := smapSet none s.handles x.1 none })
    d.startWipe v (HandleEnt.words x.2).1 ((HandleEnt.words x.2).2 - (HandleEnt.words x.2).1))

/-- The whole scratchpad of a vat is wiped, and every entry becomes invalid (R587). -/
def wipeAll (d : Die) (v : Nat) : Die := (d.modVat v (fun s => { s with handles := [] })).startWipe v 0 262144

/-- The scratchpad bytes of a region. -/
def spadRead (d : Die) (v a n : Nat) : List Byte := (List.range n).map (fun i => smapGet 0 (d.vat v).mem (a + i))

/-- Bytes written to a region; pending write-backs of its words are dropped (R568). -/
def spadWrite (d : Die) (v a : Nat) (bs : List Byte) : Die :=
  let keep (w : Nat) : Bool := decide (8 * w + 8 ≤ a ∨ a + bs.length ≤ 8 * w)
  d.modVat v (fun s => { s with mem := bytesPut s.mem a bs, wback := s.wback.filter keep })

/-! ### Faults (R517, table Vat fault causes) -/

/-- A vat fault: logged with its cause, latched in VAT.FAULT, and the vat is to be fenced at the edge that closes this tick. -/
def vatFault (d : Die) (v cause step : Nat) : Die :=
  if (d.vat v).fault.isSome || d.get R.vatStatState v == 2 then d
  else
    let d := d.modVat v (fun s => { s with fault := some (cause, step) })
    let d := ((d.set R.vatFaultCause cause v).set R.vatFaultStep step v).set R.vatFaultTick (d.tick.count.toNat % 2 ^ 16) v
    d.logErr .vat v 0x0900 2 (leBytes 1 cause ++ leBytes 1 step)

/-- SP_ERR latches an uncorrectable word (VAT.SP_ERR). -/
def latchSpad (d : Die) (v w src : Nat) : Die :=
  let c := d.coverOf v w
  let d := ((d.set R.vatSpErrWord w v).setBit R.vatSpErrClass (d.wordW v w) v).set R.vatSpErrSrc src v
  match c with
  | some (h, _) => (d.set R.vatSpErrHandle h v).setBit R.vatSpErrHvalid true v
  | none => (d.set R.vatSpErrHandle 0 v).setBit R.vatSpErrHvalid false v

/-! ### Dispatch (R511 to R514, R518 to R520) -/

/-- Groups whose plan maps work to a logical number run down, since it has no holder (R520). -/
def noHolder (d : Die) (lv : Nat) : Die :=
  d.forAll ((d.plansIn [3]).flatMap (fun p => (p.2.rsets.filter (fun r => r.lv.contains lv)).map (fun r => r.group))) (fun d g =>
    (d.startRundown (.group (BitVec.ofNat 12 g)) (d.unitBound (.group (BitVec.ofNat 12 g)))).endColl g 2 8)

/-- A dispatch record goes to the vat that holds its logical number: planned records in order before carried ones (R511, R513), or waits
in the engine when the queue is full (R514). -/
def dispatch (d : Die) (t : TileRun) : Die :=
  match d.holder t.lvat with
  | none => d.noHolder t.lvat
  | some v =>
    if 16 ≤ (d.vat v).queue.length then
      let d := (d.bump R.vatHeld v).logOverrun t.group .carry
      { d with coll := { d.coll with waiting := d.coll.waiting ++ [{ t with carried := true }] } }
    else
      let place (q : List TileRun) : List TileRun :=
        if t.carried then q ++ [t] else q.takeWhile (fun x => !x.carried) ++ [t] ++ q.dropWhile (fun x => !x.carried)
      d.modVat v (fun s => { s with queue := place s.queue })

/-- A tile taken out of a vat's queue. -/
def dropTile (d : Die) (v i : Nat) : Die := d.modVat v (fun s => { s with queue := s.queue.eraseIdx i })

/-- A tile changed. -/
def modTile (d : Die) (v i : Nat) (f : TileRun → TileRun) : Die := d.modVat v (fun s => { s with queue := s.queue.modify i f })

/-- Wipes after `b` more words: those that end leave the list, the last one when WIPE_DONE comes (R586, R589). -/
def wipeOn : Nat → List (Nat × Nat) → List (Nat × Nat)
  | _, [] => []
  | b, (w, n) :: r => if b < n then (w + b, n - b) :: r else if r.isEmpty then [(w, n)] else wipeOn (b - n) r

/-- At an edge: what is still queued is carried, records that found a full queue are tried again, and wipes go on (R509, R513, R514,
R586). -/
def edgeVats (d : Die) (running : List Nat) : Die :=
  let d := d.forAll running (fun d v => (d.bump R.vatCuts v).raise I.vatCut v)
  let words := 4 * d.tickCycles
  let carry (q : List TileRun) : List TileRun := q.map (fun t : TileRun => { t with carried := true })
  let vs := d.vats.map (fun e : Nat × VatSt => (e.1, { e.2 with queue := carry e.2.queue, wipes := wipeOn words e.2.wipes }))
  let w := d.coll.waiting
  let d := { d with vats := vs, coll := { d.coll with waiting := [] } }
  d.forAll w dispatch

end Die
end Sys2Proof.Machine
end

