-- ==== Sys2Proof/Machine/Tiles.lean ====
section
/-!
DEFINITION. Machine/Tiles.lean: how a chunk is cut into tiles and dispatched (spec 16, R667 to R680, R687 to R689; spec 15, R641, R652 to
R656), and what STORE_TILE, EMIT and the end of a tile do to the chunk (R643, R644, R677, R690). What the spec leaves to the
recipe set's own meaning here is in log entries 23 to 27.
-/
namespace Sys2Proof.Machine

/-- Bytes of a unit in 1/256 byte (table Bytes per element). -/
def unit256 (f : Nat) : Nat := if f = 0xE then 1280 else if isMx f then superBytes f else 32 * elemBits f

/-- Bytes of the smallest whole piece of a format (R629). -/
def unitBytes (f : Nat) : Nat :=
  if f = 0xE then 40 else if isMx f then superBytes f else if f = 0xD then 1 else elemBits f / 8

/-- Values in that piece. -/
def unitVals (f : Nat) : Nat := if f = 0xE then 8 else if isMx f then 256 else if f = 0xD then 2 else 1

/-- The op that makes a recipe a row operator: merge, sampling, top-k, or a combine with one weight per term and element
(R668, R697). -/
def rowOp (steps : List Nat) : Nat :=
  match steps.find? (fun w => decide (6 ≤ swOp w ∧ swOp w ≤ 8) || (swOp w == 5 && !swMode w && swBits w 64 2 == 1)) with
  | some w => swOp w
  | none => 0

/-- Candidates per row of a recipe: K of its TOPK, else 1. -/
def candsPerRow (steps : List Nat) : Nat :=
  match steps.find? (fun w => swOp w == 8) with
  | some w => swBits w 64 9 + 1
  | none => 1

/-- Do the recipe's sampling steps read candidates (R693, R696)? -/
def readsCands (steps : List Nat) : Bool := steps.any (fun w => (swOp w == 7 || swOp w == 8) && swAuxv w)

/-- Bytes of a row of a local member's chunk. -/
def rowLocal (op : Nat) (r : RsetRec) (steps : List Nat) : Nat :=
  match op with
  | 6 => stateRowBytes r.ufmt (r.rowlen + 1)
  | 5 => r.rowlen * elemBits r.ufmt / 8
  | _ => if readsCands steps then 8 * candsPerRow steps else (r.rowlen * elemBits r.ufmt + 7) / 8

/-- Bytes of a row of a child's partial. -/
def rowChild (op : Nat) (r : RsetRec) (steps : List Nat) : Nat :=
  match op with
  | 6 => stateRowBytes 0xE (r.rowlen + 1)
  | 5 => 40 * ((r.rowlen + 7) / 8)
  | _ => 8 * candsPerRow steps

/-- A cutting: whether units are rows, pieces of one row, or elements; units per tile; tiles per chunk (R668 to R671). -/
structure Cut where
  rowwise : Bool
  pieces : Nat
  tu : Nat
  ntc : Nat
  deriving DecidableEq, Repr

/-- The greatest multiple of `a` whose tile fits in 64 KiB (R669). -/
def tileUnits (a sum256 : Nat) : Nat := if sum256 = 0 then a else 65536 * 256 / sum256 / a * a

/-- The cutting of a chunk of `units` values or rows, over `nloc` local sources and `nkid` child sources (R667 to R671). -/
def cutOf (r : RsetRec) (steps : List Nat) (nloc nkid units : Nat) : Cut :=
  let op := rowOp steps
  let a := if isMx r.ufmt then 256 else 64
  let per (l k : Nat) : Nat := if r.separate then max (if nloc = 0 then 0 else l) (if nkid = 0 then 0 else k) else nloc * l + nkid * k
  let elems := per (unit256 r.ufmt) (unit256 0xE)
  if op = 0 then
    let tu := tileUnits a elems
    { rowwise := false, pieces := 0, tu := tu, ntc := (units + tu - 1) / max 1 tu }
  else
    let rows := per (256 * (rowLocal op r steps + if op = 5 then 4 else 0)) (256 * rowChild op r steps)
    let tu := tileUnits 1 rows
    if 1 ≤ tu then { rowwise := true, pieces := 0, tu := tu, ntc := (units + tu - 1) / tu }
    else
      let te := max 1 (tileUnits a elems)
      let pc := (r.rowlen + te - 1) / te
      { rowwise := true, pieces := pc, tu := te, ntc := units * pc }

/-- What tile `n` covers: its context's shape, and its first row and column or first element (R670, R671, R673). -/
def tileShape (r : RsetRec) (c : Cut) (units n : Nat) : Nat × Nat × Nat × Nat × Nat × Nat :=
  -- rows, rowsIn, cols, colsIn, first unit (row or element), first column
  if !c.rowwise then (1, 1, c.tu, min c.tu (units - n * c.tu), n * c.tu, 0)
  else if c.pieces = 0 then (c.tu, min c.tu (units - n * c.tu), r.rowlen, r.rowlen, n * c.tu, 0)
  else (1, 1, c.tu, min c.tu (r.rowlen - n % c.pieces * c.tu), n / c.pieces, n % c.pieces * c.tu)

namespace Die

/-! ### Chunks of the running collective -/

/-- The tree that a chunk uses (R652, R653, R663). -/
def treeOf (r : CollRun) (c : Nat) (nt : Nat) : Nat × Bool :=
  let t := if r.alg = 1 then 6 else (c - r.d.chunk0) % max 1 nt
  (t, r.switched.contains t)

/-- The tree of a chunk on this die. -/
def chunkTree (d : Die) (g : Nat) (r : CollRun) (c : Nat) : Option TreeRec :=
  match (d.group g).ent with
  | some e => let (t, a) := treeOf r c e.nt; d.treeRec g t a
  | none => none

/-- Bytes that each member contributes to a chunk (R630). -/
def chunkBytes (r : CollRun) (c : Nat) : Nat := min r.chunkB (r.total - c * r.chunkB)

/-- The local members that owe a contribution to a chunk (R648, R679). -/
def owing (d : Die) (g : Nat) (r : CollRun) (tr : TreeRec) : List Nat :=
  match d.rsetOf g r.d.rset with
  | some rs =>
    if r.d.op = 6 && !rs.inputs then []
    else if r.d.op = 4 then tr.locals.filter (· == r.d.root)
    else tr.locals
  | none => tr.locals

/-- Packets of a member's chunk (R638). -/
def chunkPackets (r : CollRun) (c : Nat) : Nat := (chunkBytes r c + 4095) / 4096

/-- Does the die hold every contribution that its members owe to a chunk (R633, R641)? -/
def contribComplete (d : Die) (g : Nat) (r : CollRun) (c : Nat) (tr : TreeRec) : Bool :=
  let ch := d.chunkOf g c
  (d.owing g r tr).all (fun m => (List.range (chunkPackets r c)).all (fun k => ch.contrib.any (fun x => x.1 == m && x.2.1 == k)))

/-- The rounds of a multi-round merge: block and round of a chunk (R687). -/
def roundOf (rs : RsetRec) (c : Nat) : Nat × Nat := (c % max 1 rs.nb, c / max 1 rs.nb)

/-- The round kind of a chunk at this die: ONE, FIRST, MID or LAST (R687). -/
def roundKind (rs : RsetRec) (c : Nat) : Nat :=
  if rs.nq ≤ 1 then 0 else let q := (roundOf rs c).2; if q = 0 then 1 else if q + 1 < rs.nq then 2 else 3

/-- The logical vat of a tile of a stage (R676, R677). -/
def stageVat (rs : RsetRec) (stage n : Nat) : Nat :=
  if rs.staged then rs.lv.getD stage 0 else rs.lv.getD (n % max 1 rs.lv.length) 0

/-- The recipe of a stage for a logical vat: its steps and the index it was placed at (R724). -/
def stageRecipe (d : Die) (g : Nat) (rs : RsetRec) (stage c lv : Nat) : Option (List Nat × Nat) :=
  match (d.group g).ent, rs.stages[stage]? with
  | some e, some st =>
    let rid := (st.rid[roundKind rs c]?).getD 0xFF
    match (d.plan e.slot).img with
    | some i =>
      match i.rcps.find? (fun x => x.lvat == lv && x.rid == rid), (d.plan e.slot).placed.find? (fun x => x.1 == lv && x.2.1 == rid) with
      | some rc, some pl => some (rc.steps, pl.2.2)
      | _, _ => none
    | none => none
  | _, _ => none

/-- Units of a chunk: values, or rows for a row operator. -/
def chunkUnits (rs : RsetRec) (steps : List Nat) (r : CollRun) (c : Nat) : Nat :=
  let op := rowOp steps
  let b := chunkBytes r c
  if op = 0 then b / unitBytes rs.ufmt * unitVals rs.ufmt
  else if op = 5 then b / (rowLocal 5 rs steps + 4)
  else b / max 1 (rowLocal op rs steps)

/-- Bytes of a chunk's output toward the parent: the length that a complete partial has. -/
def partialBytes (rs : RsetRec) (steps : List Nat) (units : Nat) (dbl : Bool) : Nat :=
  let op := rowOp steps
  if op = 0 then tileBytes 0xE units dbl else if op = 5 then units * (if dbl then 2 else 1) * rowChild 5 rs steps else units * rowChild op rs steps

/-- The partial pieces of a source, in order of their offsets. -/
def piecesOf (ch : ChunkSt) (src : Nat) : List (Nat × Nat × Nat × Nat) :=
  sortLe (fun a b => decide (a.2.1 ≤ b.2.1)) (ch.parts.filter (fun p => p.1 == src))

/-- A cell of the pools read from its handle. -/
def readHandle (d : Die) (h n : Nat) : List Byte := d.cellRead (h / 2 ^ 30) (h % 2 ^ 20) 0 n

/-- Is a child's partial in double form, by its first group (R556)? -/
def partialDouble (d : Die) (ch : ChunkSt) (src : Nat) : Bool :=
  match piecesOf ch src with
  | p :: _ => wpDouble (bytesNat (d.readHandle p.2.2.1 40))
  | [] => false

/-- Is a child's partial of a chunk complete (R641)? -/
def partialComplete (d : Die) (rs : RsetRec) (steps : List Nat) (r : CollRun) (c : Nat) (ch : ChunkSt) (src : Nat) : Bool :=
  let got := ((piecesOf ch src).map (fun p => p.2.2.2)).sum
  decide (0 < got ∧ partialBytes rs steps (chunkUnits rs steps r c) (d.partialDouble ch src) ≤ got)

/-- Operations whose data pass unchanged: ALL_GATHER, BROADCAST, ALL_TO_ALL (R650). -/
def passesOn (op : Nat) : Bool := op == 3 || op == 4 || op == 5

/-- The children of a tree in ascending EID (R667). -/
def kidsOf (tr : TreeRec) : List Nat := sortLe (fun a b => decide (a ≤ b)) (tr.kids.map (fun k => dieEid k.1 k.2.1))

/-! ### Building dispatch records (R511, R512, R672) -/

/-- The cells of a member's contribution to a chunk, in packet order. -/
def contribCells (d : Die) (ch : ChunkSt) (m : Nat) : List Nat :=
  (sortLe (fun a b => decide (a.2.1 ≤ b.2.1)) (ch.contrib.filter (fun x => x.1 == m))).map (fun x => (d.led x.2.2).cell.toNat)

/-- A local member's part of a tile. -/
def localSrc (d : Die) (rs : RsetRec) (steps : List Nat) (ch : ChunkSt) (cut : Cut) (units n rep m : Nat) : SlotSrc :=
  let (rows, rowsIn, cols, colsIn, u0, col0) := tileShape rs cut units n
  let op := rowOp steps
  let cells := d.contribCells ch m
  if 1 < rep then { fmt := 1, n := rows, valid := rowsIn, child := false, rep := rep, cells := cells, cave := none, ofs := 4 * u0, len := 4 * rowsIn }
  else
    let base := if op = 5 then 4 * rs.rb else 0
    let rb := rowLocal op rs steps
    if !cut.rowwise then
      { fmt := rs.ufmt, n := cols, valid := colsIn, child := false, rep := 1, cells := cells, cave := none
        ofs := u0 * unit256 rs.ufmt / 256, len := tileBytes rs.ufmt colsIn }
    else if cut.pieces = 0 then
      let vals (k : Nat) : Nat := if op = 5 || (op ≠ 6 && !readsCands steps) then k * rs.rowlen else 2 * k * candsPerRow steps
      { fmt := rs.ufmt, n := if op = 6 then rowsIn else vals rows, valid := if op = 6 then rowsIn else vals rowsIn, child := false, rep := 1
        cells := cells, cave := none, ofs := base + u0 * rb, len := rowsIn * rb }
    else
      { fmt := rs.ufmt, n := cols, valid := colsIn, child := false, rep := 1, cells := cells, cave := none
        ofs := base + u0 * rb + col0 * elemBits rs.ufmt / 8, len := (colsIn * elemBits rs.ufmt + 7) / 8 }

/-- A child's part of a tile. -/
def childSrc (d : Die) (rs : RsetRec) (steps : List Nat) (ch : ChunkSt) (cut : Cut) (units n src : Nat) : SlotSrc :=
  let (rows, rowsIn, cols, colsIn, u0, _) := tileShape rs cut units n
  let op := rowOp steps
  let dbl := d.partialDouble ch src
  let cells := (piecesOf ch src).map (fun p => p.2.2.1)
  if !cut.rowwise then
    { fmt := 0xE, n := cols, valid := colsIn, child := true, rep := 1, cells := cells, cave := none, ofs := tileBytes 0xE u0 dbl
      len := tileBytes 0xE colsIn dbl }
  else
    let rb := if op = 5 ∧ dbl then 2 * rowChild 5 rs steps else rowChild op rs steps
    { fmt := if op = 5 ∨ op = 6 then 0xE else 1, n := if op = 5 then rows * rs.rowlen else rowsIn, valid := if op = 5 then rowsIn * rs.rowlen else rowsIn
      child := op == 5 || op == 6, rep := 1, cells := cells, cave := none, ofs := u0 * rb, len := rowsIn * rb }

/-- A cave buffer of a multi-round merge: the address of a tile's rows in buffer `buf` (R688). -/
def spillAddr (d : Die) (g : Nat) (rs : RsetRec) (region buf block row0 : Nat) : Option Nat :=
  match (d.group g).ent, d.groupImg g with
  | some e, some i =>
    match i.caves.find? (fun c => c.1 == region) with
    | some (_, ofs, _) =>
      let rb := stateRowBytes 0xE (rs.rowlen + 1)
      d.caveAddr (.tenant e.tid) (ofs + ((buf * rs.nb + block) * rs.rb + row0) * rb) 1
    | none => none
  | _, _ => none

/-- One operand slot of a tile (table Slot sources). `who` is the member or the child of a SEPARATE tile. -/
def buildSlot (d : Die) (g : Nat) (rs : RsetRec) (steps : List Nat) (r : CollRun) (c : Nat) (tr : TreeRec) (cut : Cut) (units stage n : Nat)
    (who : Option (Nat ⊕ Nat)) (s : Nat × Nat × Nat) : OpSlot :=
  let ch := d.chunkOf g c
  let (src, rep, region) := s
  let (_, rowsIn, _, _, u0, _) := tileShape rs cut units n
  let (b, q) := roundOf rs c
  let rb := stateRowBytes 0xE (rs.rowlen + 1)
  match src with
  | 1 => { kind := 1, srcs := (d.owing g r tr).map (d.localSrc rs steps ch cut units n rep), cave := none }
  | 2 => { kind := 2, srcs := (kidsOf tr).map (d.childSrc rs steps ch cut units n), cave := none }
  | 3 =>
    let srcs := match who with
      | some (.inl m) => [d.localSrc rs steps ch cut units n rep m]
      | some (.inr k) => [d.childSrc rs steps ch cut units n k]
      | none => []
    { kind := 3, srcs := srcs, cave := none }
  | 4 => { kind := 4, srcs := [], cave := d.spillAddr g rs region (q % 2) b u0 }
  | 5 =>
    let a := d.spillAddr g rs region ((q + 1) % 2) b u0
    let one : SlotSrc := { fmt := 0xE, n := rowsIn, valid := rowsIn, child := true, rep := 1, cells := [], cave := a, ofs := 0, len := rowsIn * rb }
    { kind := 5, srcs := [one], cave := none }
  | 6 =>
    let cells := (ch.stored.filter (fun x => x.1 + 1 == stage && x.2.1 == n)).map (fun x => x.2.2)
    let one : SlotSrc := { fmt := 0xFF, n := 0, valid := 0, child := false, rep := 1, cells := cells, cave := none, ofs := 0, len := 4096 * cells.length }
    { kind := 6, srcs := [one], cave := none }
  | k => { kind := k, srcs := [], cave := none }

/-- The tiles of a stage of a chunk, in order: the sources of a SEPARATE set one after the other (R667, R672, R706). -/
def stageTiles (d : Die) (g : Nat) (rs : RsetRec) (r : CollRun) (c stage : Nat) (tr : TreeRec) : List TileRun :=
  match (d.group g).ent, d.groupImg g with
  | some e, some img =>
    let steps0 := match d.stageRecipe g rs 0 c (stageVat rs 0 0) with
      | some x => x.1
      | none => []
    let units := chunkUnits rs steps0 r c
    let kids := if passesOn r.d.op then [] else kidsOf tr
    let loc := if r.d.op = 6 && !rs.inputs then tr.locals else d.owing g r tr
    let cut := cutOf rs steps0 loc.length kids.length units
    let order : List (Option (Nat ⊕ Nat)) := if rs.separate then loc.map (fun m => some (.inl m)) ++ kids.map (fun k => some (.inr k)) else [none]
    -- the member that a source stands for: a child counts as the lowest member on its die (log entry 24)
    let memberOf (w : Option (Nat ⊕ Nat)) : Nat := match w with
      | some (.inl m) => m
      | some (.inr k) => ((d.members g).findIdx (fun x => x.toNat / 64 * 64 == k))
      | none => 0
    order.flatMap (fun w => (List.range cut.ntc).filterMap (fun n =>
      let lv := stageVat rs stage n
      match d.stageRecipe g rs stage c lv, rs.stages[stage]? with
      | some (_, at'), some st =>
        let (rows, rowsIn, cols, colsIn, _, col0) := tileShape rs cut units n
        let tile := if rs.separate && !(rs.fillSame && !rs.inputs) then memberOf w * cut.ntc + n else n
        let ctx : TileCtx :=
          { seed := ⟨img.pseed, BitVec.ofNat 12 g, BitVec.ofNat 16 r.d.cid, BitVec.ofNat 32 c, BitVec.ofNat 16 tile⟩
            rowlen := rs.rowlen, member := memberOf w, rows := rows, rowsIn := rowsIn, cols := cols, colsIn := colsIn, col0 := col0 }
        some { tid := e.tid, group := g, cid := r.d.cid, chunk := c, tile := n, slot := e.slot, rset := r.d.rset, stage := stage
               tree := tr.tree, alt := tr.alt, lvat := lv, first := at', step := 0
               slots := st.slots.map (d.buildSlot g rs steps0 r c tr cut units stage n w)
               ctx := ctx, bufs := [], emax := [], born := d.tick.count, carried := false, reexec := false }
      | _, _ => none))
  | _, _ => []

/-- The steps that decide a chunk's cutting and its partials: those of stage 0. -/
def cutSteps (d : Die) (g : Nat) (rs : RsetRec) (c : Nat) : List Nat :=
  match d.stageRecipe g rs 0 c (stageVat rs 0 0) with
  | some x => x.1
  | none => []

/-- Has the die every partial that the chunk's first stage needs (R636, R641)? -/
def partsComplete (d : Die) (g : Nat) (rs : RsetRec) (r : CollRun) (c : Nat) (tr : TreeRec) : Bool :=
  passesOn r.d.op || (kidsOf tr).all (d.partialComplete rs (d.cutSteps g rs c) r c (d.chunkOf g c))

/-- The next stage of an admitted chunk is dispatched at an edge, once the stage before is complete and its inputs are held (R511,
R633, R636, R677). -/
def dispatchStage (d : Die) (g c : Nat) : Die :=
  match (d.group g).run with
  | none => d
  | some r =>
    let ch := d.chunkOf g c
    match d.chunkTree g r c, d.rsetOf g r.d.rset with
    | some tr, some rs =>
      if ch.admitted.isNone || ch.open_ ≠ 0 || decide (rs.stages.length ≤ ch.stage) || r.ended.isSome || !d.partsComplete g rs r c tr then d
      else
        let ts := d.stageTiles g rs r c ch.stage tr
        let d := d.modChunk g c (fun x => { x with stage := x.stage + 1, open_ := ts.length, tree := tr.tree, alt := tr.alt })
        let d := if ts.isEmpty ∧ ch.stage + 1 = rs.stages.length then d.modChunk g c (fun x => { x with finished := tr.root }) else d
        d.forAll ts dispatch
    | _, _ => d

/-! ### What leaves a die (R643, R644, R650, R656) -/

/-- A packet in class C1 follows the port its tree names (R334). -/
def sendC1 (d : Die) (p : Nat) (pk : Packet) (cell : Option Nat) : Die :=
  d.enqueue p 2 (QEnt.mk pk 64 0 0 false none none 0 cell)

/-- The cell of a packet that the engine holds: charged to the tenant, owned by the group and, when it leaves, by the output. -/
def collCell (d : Die) (g tid p : Nat) (bs : List Byte) : Die × Option Nat :=
  match d.hoopAlloc { size := BitVec.ofNat 32 (max 1 bs.length), tid := BitVec.ofNat 8 tid, mgmt := false
                      owners := [owner 5 g, owner 3 p] } none with
  | (d, 0, h) => (d.cellStore (h / 2 ^ 30) (h % 2 ^ 20) bs, some h)
  | (d, _, _) => (d, none)

/-- The group keeps a cell that a packet of a chunk left from, until TAKEN or FIN (R644, R646). -/
def keepCell (d : Die) (g c : Nat) (cell : Option Nat) (result : Bool) : Die :=
  match cell with
  | some h => d.modChunk g c (fun x => { x with kept := x.kept ++ [(h, result)] })
  | none => d

/-- A PARTIAL to a die of the tree (R643). -/
def sendPartial (d : Die) (g : Nat) (tr : TreeRec) (cid c dst port : Nat) (down : Bool) (ofs : Nat) (bs : List Byte) : Die :=
  match (d.group g).ent with
  | none => d
  | some e =>
    let (d, cell) := d.collCell g e.tid port bs
    let d := d.keepCell g c cell false
    d.sendC1 port ({ Packet.blank with
      op := 0x11, cls := 1, tid := BitVec.ofNat 8 e.tid, seid := BitVec.ofNat 17 (dieEid d.selfNode d.pos), deid := BitVec.ofNat 17 dst
      group := BitVec.ofNat 12 g, cid := BitVec.ofNat 16 cid, chunk := BitVec.ofNat 32 c, addr := BitVec.ofNat 64 ofs
      arg := BitVec.ofNat 64 (tr.tree + 8 * down.toNat + 16 * tr.alt.toNat), payload := bs }).finish cell

/-- The part of a piece of output that a member receives: its own offset and bytes (R648). `outB` is the output of the whole collective per
member position, and `total` a member's contribution. -/
def shareOf (r : CollRun) (scatter : Bool) (nmem m outB ofs : Nat) (bs : List Byte) : Nat × List Byte :=
  let cutAt (lo hi base : Nat) : Nat × List Byte :=
    let a := max lo ofs
    let b := min hi (ofs + bs.length)
    if a < b then (base + (a - lo), (bs.drop (a - ofs)).take (b - a)) else (0, [])
  if r.d.op = 5 then
    let blk := r.total / max 1 nmem
    let src := ofs / max 1 r.total
    cutAt (src * r.total + m * blk) (src * r.total + (m + 1) * blk) (src * blk)
  else if scatter then
    let blk := outB / max 1 nmem
    cutAt (m * blk) ((m + 1) * blk) 0
  else (ofs, bs)

/-- A RESULT to a local member, kept until its TAKEN (R643, R644). -/
def sendResult (d : Die) (g cid c port : Nat) (eid : BitVec 17) (ofs : Nat) (bs : List Byte) : Die :=
  match (d.group g).ent with
  | none => d
  | some e =>
    if bs.isEmpty then d
    else
      let (d, cell) := d.collCell g e.tid port bs
      let d := (d.keepCell g c cell true).modChunk g c (fun x => { x with results := x.results ++ [(port, ofs)] })
      d.sendC1 port ({ Packet.blank with
        op := 0x12, cls := 1, tid := BitVec.ofNat 8 e.tid, seid := eid, deid := eid, group := BitVec.ofNat 12 g, cid := BitVec.ofNat 16 cid
        chunk := BitVec.ofNat 32 c, addr := BitVec.ofNat 64 ofs, payload := bs }).finish cell

/-- Does the collective give each member its own block of one output (R648, R679)? -/
def scatters (r : CollRun) (rs : RsetRec) : Bool := r.d.op == 2 || (r.d.op == 6 && rs.scatter)

/-- The output of a whole collective in bytes, in a format. -/
def outTotal (r : CollRun) (rs : RsetRec) (f : Nat) : Nat := r.total / unitBytes rs.ufmt * unitVals rs.ufmt * unit256 f / 256

/-- A piece of final output goes to the local members of the tree and to its children (R643, R656). A member's block of a
REDUCE_SCATTER is rounded from WP40 on the member's die (R648, log entry 26). -/
def sendDown (d : Die) (g : Nat) (r : CollRun) (rs : RsetRec) (tr : TreeRec) (c f ofs : Nat) (bs : List Byte) (only : Option Nat) : Die :=
  let d := if only.isSome then d else d.forAll tr.kids (fun d k => d.sendPartial g tr r.d.cid c (dieEid k.1 k.2.1) k.2.2 true ofs bs)
  let ms := d.members g
  d.forAll (tr.locals.filter (fun m => only.isNone || only == some m)) (fun d m =>
    match ms[m]? with
    | none => d
    | some eid =>
      let (o, b) := shareOf r (scatters r rs) ms.length m (outTotal r rs f) ofs bs
      if r.d.op = 2 ∧ f = 0xE then
        let vs := ((wpGroups b).flatMap wpVals).map Val.res
        let o' := outTotal r rs rs.ufmt * o / max 1 (outTotal r rs 0xE)
        d.sendResult g r.d.cid c (eidPort eid) eid o' (packTile rs.ufmt false { rnd := 0, sat := true, draws := [], padk := 0, padv := 0 } vs.length vs).1
      else d.sendResult g r.d.cid c (eidPort eid) eid o b)

/-- Where a tile's output stands in the member-sized output of the collective, given its format and the bytes of a whole tile (R643). -/
def tileOffset (d : Die) (t : TileRun) (r : CollRun) (rs : RsetRec) (f whole : Nat) : Nat :=
  let steps := d.cutSteps t.group rs t.chunk
  let units := chunkUnits rs steps r 0
  let op := rowOp steps
  let perChunk := if op = 0 then units * unit256 f / 256 else units * (whole / max 1 t.ctx.rows)
  let base := t.chunk * perChunk + t.tile * whole
  if rs.separate && passesOn r.d.op then t.ctx.member * r.total + t.chunk * r.chunkB + t.tile * whole else base

/-- EMIT: the output leaves as PARTIAL packets to the parent, or as RESULT to the members and PARTIAL to the children (R643). -/
def emitTile (d : Die) (t : TileRun) (kind : Nat) (s : Src) : Die :=
  match (d.group t.group).run, d.treeRec t.group t.tree t.alt, d.rsetOf t.group t.rset with
  | some r, some tr, some rs =>
    if r.d.cid ≠ t.cid then d
    else
      let ofs := d.tileOffset t r rs s.fmt s.bytes.length
      let bs := s.bytes.take s.live
      let pieces := (List.range ((bs.length + 4095) / 4096)).map (fun i => (ofs + 4096 * i, (bs.drop (4096 * i)).take 4096))
      if kind = 8 then
        if tr.root then d else d.forAll pieces (fun d x => d.sendPartial t.group tr r.d.cid t.chunk (dieEid tr.parent.1 tr.parent.2) tr.upPort false x.1 x.2)
      else
        let only := if r.d.op = 6 && !rs.inputs then some t.ctx.member else none
        d.forAll pieces (fun d x => d.sendDown t.group r rs tr t.chunk s.fmt x.1 x.2 only)
  | _, _, _ => d

/-- STORE_TILE into hoop cells for the next stage: one cell per 4 KiB, owned by the VAT owner IDs of both stages (R677). -/
def storeCells (d : Die) (t : TileRun) (v h : Nat) (bs : List Byte) : Die :=
  match d.rsetOf t.group t.rset with
  | none => d
  | some rs =>
    let nextV := ((d.holder (stageVat rs (t.stage + 1) t.tile)).getD v)
    let own := if nextV = v then [owner 4 (64 * v + h), owner 5 t.group] else [owner 4 (64 * v + h), owner 4 (64 * nextV + h)]
    d.forAll ((List.range ((bs.length + 4095) / 4096)).map (fun i => (bs.drop (4096 * i)).take 4096)) (fun d b =>
      match d.hoopAlloc { size := BitVec.ofNat 32 b.length, tid := BitVec.ofNat 8 t.tid, mgmt := false, owners := own } none with
      | (d, 0, hd) =>
        let d := d.cellStore (hd / 2 ^ 30) (hd % 2 ^ 20) b
        let d := d.hoopRelease hd (owner 4 (64 * v + h))
        d.modChunk t.group t.chunk (fun x => { x with stored := x.stored ++ [(t.stage, t.tile, hd)] })
      | (d, _, _) => d)

/-- The cells that a stage has loaded are released once its tile is complete (R677). -/
def releaseStored (d : Die) (t : TileRun) : Die :=
  if t.stage = 0 then d
  else
    let ch := d.chunkOf t.group t.chunk
    let mine := ch.stored.filter (fun x => x.1 + 1 == t.stage && x.2.1 == t.tile)
    let d := d.forAll mine (fun d x =>
      d.forAll (d.hcell (x.2.2 / 2 ^ 30) (x.2.2 % 2 ^ 20)).owners (fun d o => d.hoopRelease x.2.2 o))
    d.modChunk t.group t.chunk (fun c => { c with stored := c.stored.filter (fun x => !(x.1 + 1 == t.stage && x.2.1 == t.tile)) })

/-- A tile is complete: its stage has one less to do, and at the root the last stage finishes the chunk; a round before the last is delivered
by its stores (R689, R690). -/
def tileDone (d : Die) (t : TileRun) : Die :=
  match (d.group t.group).run, d.rsetOf t.group t.rset with
  | some r, some rs =>
    if r.d.cid ≠ t.cid then d
    else
      let d := d.releaseStored t
      let last := decide (rs.stages.length ≤ (d.chunkOf t.group t.chunk).stage)
      let root := match d.treeRec t.group t.tree t.alt with
        | some tr => tr.root || (r.d.op == 6 && !rs.inputs)
        | none => false
      d.modChunk t.group t.chunk (fun x => { x with open_ := x.open_ - 1, finished := x.finished || (root && last && x.open_ == 1) })
  | _, _ => d

end Die
end Sys2Proof.Machine
end

