-- ==== Sys2Proof/Machine/VatSteps.lean ====
section
/-!
DEFINITION. Machine/VatSteps.lean: a step of a tile completes on its unit (spec 11, R481, R484 to R510; spec 13, R566, R567, R573; spec 16):
LOAD_TILE on the mover-in, the array steps, STORE_TILE and EMIT on the mover-out. Each command names a vat, a place in its dispatch
queue and what the step met in the memories; a step acts only in its turn (log entry 28).
-/
namespace Sys2Proof.Machine

/-- The handles a step names, as (handle, whether it is read). -/
def namedHandles (w : Nat) : List (Nat × Bool) :=
  let aux := if swAuxv w || (swOp w == 6 && swBits w 64 1 == 0) then [(swHaux w, true)] else []
  match swOp w with
  | 1 => [(swHout w, false)]
  | 2 => (swHin w, true) :: aux
  | 0xE => [(swHout w, false)]
  | 0xF => [(swHin w, true)]
  | 0x10 => [(swHin w, true)]
  | _ => (swHin w, true) :: (swHout w, false) :: aux

namespace Die

/-- The step words of a tile from step `k` of its recipe on, to LAST (R502). -/
def recipeFrom (d : Die) (v : Nat) (t : TileRun) (k : Nat) : List Nat :=
  let ws := (List.range (32 - (t.first + k))).filterMap (fun i =>
    match smapGet none (d.vat v).recipe (t.first + k + i) with
    | some (w, s) => if s = t.slot then some w else none
    | none => none)
  match ws.findIdx? swLast with
  | some i => ws.take (i + 1)
  | none => ws

/-- The tile at a place of the queue whose next step has an op, when that step may run: the vat serves, and on the step's unit every earlier
tile has finished (R481, R504, R513). -/
def stepReady (d : Die) (v i op : Nat) : Option (TileRun × Nat × List Nat) :=
  if d.get R.vatStatState v ≠ 0 || (d.vat v).fault.isSome || d.hget R.hdrStatGated .vat v = 1 || d.hget R.hdrStatReset .vat v = 1 then none
  else match (d.vat v).queue[i]? with
    | none => none
    | some t =>
      match d.recipeFrom v t t.step with
      | [] => none
      | w :: later =>
        let busy := ((d.vat v).queue.take i).any (fun x => (d.recipeFrom v x x.step).any (fun y => swUnit y == swUnit w))
        if swOp w = op && !busy then some (t, w, later) else none

/-- The tile's outputs are discarded and its collective ends ABORTED with a reason (R507, R556, R890). -/
def abandonTile (d : Die) (v i : Nat) (t : TileRun) (reason : Nat) : Die := (d.dropTile v i).endColl t.group 2 reason

/-- A step that names an invalid, stale or foreign handle (R507, R582). -/
def handleFault (d : Die) (v i : Nat) (t : TileRun) (h : Nat) (stale : Bool) : Die :=
  let d := (d.setBit R.vatSpErrStale stale v).logErr .vat v 0x0902 1 (leBytes 1 (t.first + t.step) ++ leBytes 1 h) (some t.tid)
  (d.raise I.vatHandle v).abandonTile v i t 8

/-- Is a handle good for a tile's step, and if not, is it stale (R507, R582)? -/
def handleOk (d : Die) (v : Nat) (t : TileRun) (h : Nat) : Bool × Bool :=
  match d.handleEnt v h with
  | none => (false, false)
  | some e =>
    let stale := e.valid && e.ltag != (d.plan t.slot).ltag
    (e.valid && !stale && !e.mgmt && e.tid == t.tid, stale)

/-- Corrected scratchpad reads: counted by class, and their write-backs wait (R566). -/
def spadCorrected (d : Die) (v : Nat) (ws : List (BitVec 18)) : Die :=
  d.forAll ws (fun d w =>
    let d := d.bump (if d.wordW v w.toNat then R.vatSpCeW else R.vatSpCeA) v
    d.modVat v (fun s => { s with wback := if s.wback.contains w.toNat then s.wback else s.wback ++ [w.toNat] }))

/-- An uncorrectable word met by a step (R567). -/
def spadUncorrected (d : Die) (v w step : Nat) : Die :=
  (((d.bump R.vatSpUe v).latchSpad v w 0).raise I.vatUe v).vatFault v 5 step

/-- What comes before any step acts: its word is fetched, its handles are checked, its reads are found good. `none` when the step does not
complete (R507, R517, R567, R573, R577). -/
def beginStep (d : Die) (v i : Nat) (t : TileRun) (w : Nat) (x : StepFind) : Die × Bool :=
  let ix := t.first + t.step
  let d := if x.rcpCe then ((d.bump R.vatRcorr v).logErr .vat v 0x0903 0 (leBytes 1 ix)).raise I.vatRcorr v else d
  if x.rcpUe || (d.vat v).injRcp then
    let inj := (d.vat v).injRcp
    ((d.modVat v (fun s => { s with injRcp := false })).vatFault v (if inj then 7 else 2) ix, false)
  else if x.hdlUe then (d.vatFault v 3 ix, false)
  else
    let d := d.bump R.vatSpCeA v 0 x.hdlCe.toNat
    match (namedHandles w).find? (fun h => !(d.handleOk v t h.1).1) with
    | some h => (d.handleFault v i t h.1 (d.handleOk v t h.1).2, false)
    | none =>
      let poisoned := (namedHandles w).any (fun h => h.2 && match d.handleEnt v h.1 with
        | some e => e.poison
        | none => false)
      if poisoned then (d.vatFault v 5 ix, false)
      else
        let d := d.spadCorrected v x.spadCe
        match x.spadUe with
        | some wd => (d.spadUncorrected v wd.toNat ix, false)
        | none => (d.forAll x.refDelay (fun d c => d.refreshDelay c.toNat), true)

/-- The step is complete: the next step is due, or the tile is (R504, R508). -/
def endStep (d : Die) (v i w : Nat) : Die :=
  match (d.vat v).queue[i]? with
  | none => d
  | some t =>
    if swLast w || t.step + 1 = 32 then
      let d := (d.dropTile v i).bump R.vatTiles v
      (if t.reexec then d.bump R.vatReexec v else d).tileDone t
    else d.modTile v i (fun t => { t with step := t.step + 1 })

/-- A region as a tile's step reads it: what this run of the recipe wrote, or the plan's W-class contents (R674). -/
def region (d : Die) (v : Nat) (t : TileRun) (h : Nat) : List Src :=
  match smapGet [] t.bufs h with
  | [] =>
    match d.handleEnt v h with
    | some e => [{ fmt := 0xFF, n := 0, valid := 0, child := false, live := 0, bytes := d.spadRead v (64 * e.base) (64 * (e.len + 1)) }]
    | none => []
  | l => l

/-- A region written: the tile's own copy, and the scratchpad words (R563, R568). -/
def putRegion (d : Die) (v i h : Nat) (l : List Src) : Die :=
  let d := match d.handleEnt v h with
    | some e => d.spadWrite v (64 * e.base) ((l.flatMap (fun s : Src => s.bytes)).take (64 * (e.len + 1)))
    | none => d
  d.modTile v i (fun t => { t with bufs := smapSet [] t.bufs h l })

/-- The bytes that a source of a slot holds (R674). -/
def slotBytes (d : Die) (s : SlotSrc) : List Byte :=
  match s.cave with
  | some a => d.caveRead (a + s.ofs) s.len
  | none =>
    let first := s.ofs / 4096
    let all := ((s.cells.drop first).take ((s.ofs % 4096 + s.len + 4095) / 4096)).flatMap (fun h => d.readHandle h 4096)
    (all.drop (s.ofs % 4096)).take s.len

/-- A source as LOAD_TILE lays it out: each element REP times, and padded to the tile's length (R527, R584, R585, R680). -/
def loadSrc (d : Die) (s : SlotSrc) (padk padv : Nat) : Src :=
  let bs := d.slotBytes s
  let w := elemBits s.fmt
  let plain := w ≠ 0 && !isMx s.fmt
  let dbl := s.fmt == 0xE && (wpGroups bs).any wpDouble
  let bytes :=
    if plain then
      let es := (elemsOf w s.valid bs).flatMap (fun e => List.replicate s.rep e)
      layElems w (es ++ List.replicate ((s.n - s.valid) * s.rep) (padElem s.fmt padk padv))
    else
      let have_ := valuesIn s.fmt bs
      if s.fmt = 0xFF ∨ s.n ≤ have_ then bs else bs ++ padTile s.fmt (s.n - have_) padk padv dbl
  let n := if plain then s.n * s.rep else s.n
  { fmt := s.fmt, n := n, valid := s.valid * s.rep, child := s.child, live := s.len, bytes := bytes }

/-- LOAD_TILE (R508, R509, R573, R674): a slot of child partials joins the local contributions that the same tile loaded before it into the same
region, as the further sources of one stacked tile (R667, log entry 23). -/
def loadTile (d : Die) (v i : Nat) (t : TileRun) (w : Nat) (x : StepFind) : Die :=
  let slot := t.slots.getD (swSlot w) { kind := 0, srcs := [], cave := none }
  let h := swHout w
  let pad := match d.handleEnt v h with
    | some e => (e.padk, e.padv)
    | none => (0, 0)
  let ce := x.caveCe.map (·.toNat)
  let ue := x.caveUe.map (·.toNat)
  let (d, bad) := slot.srcs.foldl (fun (a : Die × Bool) s => match s.cave with
    | some c => let (d, b) := a.1.caveFetch (c + s.ofs) s.len ce ue; (d, a.2 || b.isSome)
    | none => a) (d, false)
  if bad then d.abandonTile v i t 8
  else
    let srcs := slot.srcs.map (fun s => d.loadSrc s pad.1 pad.2)
    let before := if slot.kind = 2 then smapGet [] t.bufs h else []
    let all := before ++ srcs
    let held : Nat := (all.map (fun s : Src => s.bytes.length)).sum
    let full : Bool := match d.handleEnt v h with
      | some e => decide (64 * (e.len + 1) ≤ held)
      | none => false
    let d := d.putRegion v i h all
    let d := if full then
        let clear (e : HandleEnt) : HandleEnt := { e with poison := false }
        d.modVat v (fun s => { s with handles := smapMod none s.handles h (Option.map clear) })
      else d
    d.endStep v i w

/-- An array step (R484 to R501): its result is packed into HOUT, and it counts. -/
def arrayOp (d : Die) (v i : Nat) (t : TileRun) (w : Nat) (later : List Nat) (x : StepFind) : Die :=
  let hin := if swOp w = 0xE then [] else d.region v t (swHin w)
  let haux := if swAuxv w || swOp w = 6 then d.region v t (swHaux w) else []
  let pad := match d.handleEnt v (swHout w) with
    | some e => (e.padk, e.padv)
    | none => (0, 0)
  let o := arrayStep w t.step later t.ctx hin haux t.emax pad.1 pad.2
  if o.mixed then
    (d.logErr .vat v 0x0904 1 (leBytes 2 t.group ++ leBytes 4 t.chunk) (some t.tid)).abandonTile v i t 9
  else if isPass w && (x.residue || (d.vat v).injRes) then
    let inj := (d.vat v).injRes
    (d.modVat v (fun s => { s with injRes := false })).vatFault v (if inj then 7 else 1) (t.first + t.step)
  else
    let outs := match o.out with
      | some s => s.n
      | none => match o.emax with
        | some l => l.length
        | none => 0
    let d := d.bump R.vatBusy v 0 (arrayCycles w later ((hin.map (fun s => s.bytes.length)).sum) outs)
    let d := (d.bump R.vatRange v 0 o.range).bump64 R.rngDrawsLo R.rngDrawsHi 0 0 o.draws
    let d := d.setBit R.vatStatGated false v
    let d := match o.emax with
      | some l => d.modTile v i (fun t => { t with emax := l })
      | none => d
    let d := match o.out with
      | some s => d.putRegion v i (swHout w) [s]
      | none => d
    d.endStep v i w

/-- STORE_TILE: the units inside the collective go to a cave region or to hoop cells (R673, R677, R688). -/
def storeTile (d : Die) (v i : Nat) (t : TileRun) (w : Nat) : Die :=
  let slot := t.slots.getD (swSlot w) { kind := 0, srcs := [], cave := none }
  let bs := ((d.region v t (swHin w)).map (fun s => s.bytes.take s.live)).flatten
  let d := match slot.kind, slot.cave with
    | 4, some a => d.caveWrite a bs
    | 7, _ => d.storeCells t v (swHin w) bs
    | _, _ => d
  d.endStep v i w

/-- EMIT (R643, R673). -/
def emitStep (d : Die) (v i : Nat) (t : TileRun) (w : Nat) : Die :=
  let slot := t.slots.getD (swSlot w) { kind := 0, srcs := [], cave := none }
  let d := d.forAll (d.region v t (swHin w)) (fun d s => d.emitTile t slot.kind s)
  d.endStep v i w

/-- A step of an op completes: the checks that come before any step, and the op's own effect. -/
def runStep (d : Die) (op v i : Nat) (x : StepFind) (f : Die → TileRun → Nat → List Nat → Die) : Die :=
  match d.stepReady v i op with
  | none => d
  | some (t, w, later) =>
    let (d, ok) := d.beginStep v i t w x
    if ok then f d t w later else d

/-- An array step of an op completes. -/
def runArray (d : Die) (op v i : Nat) (x : StepFind) : Die :=
  d.runStep op v i x (fun d t w later => d.arrayOp v i t w later x)

end Die

/-- LOAD_TILE (R508). -/
def execLoadTile (v : BitVec 5) (q : BitVec 4) (x : StepFind) (s : State) : Host.Outcome State Fault Refusal :=
  act s (fun d => d.runStep 0x01 v.toNat q.toNat x (fun d t w _ => d.loadTile v.toNat q.toNat t w x))

/-- EXP_SCAN (R489, R1060). -/
def execExpScan (v : BitVec 5) (q : BitVec 4) (x : StepFind) (s : State) : Host.Outcome State Fault Refusal :=
  act s (fun d => d.runArray 0x02 v.toNat q.toNat x)

/-- REDUCE (R488 to R495). -/
def execReduce (v : BitVec 5) (q : BitVec 4) (x : StepFind) (s : State) : Host.Outcome State Fault Refusal :=
  act s (fun d => d.runArray 0x03 v.toNat q.toNat x)

/-- SCALE (R484, R485, R497). -/
def execScale (v : BitVec 5) (q : BitVec 4) (x : StepFind) (s : State) : Host.Outcome State Fault Refusal :=
  act s (fun d => d.runArray 0x04 v.toNat q.toNat x)

/-- COMBINE (R697 to R699). -/
def execCombine (v : BitVec 5) (q : BitVec 4) (x : StepFind) (s : State) : Host.Outcome State Fault Refusal :=
  act s (fun d => d.runArray 0x05 v.toNat q.toNat x)

/-- MERGE_SOFTMAX (R681 to R685). -/
def execMergeSoftmax (v : BitVec 5) (q : BitVec 4) (x : StepFind) (s : State) : Host.Outcome State Fault Refusal :=
  act s (fun d => d.runArray 0x06 v.toNat q.toNat x)

/-- SAMPLE_GUMBEL (R693 to R695). -/
def execSampleGumbel (v : BitVec 5) (q : BitVec 4) (x : StepFind) (s : State) : Host.Outcome State Fault Refusal :=
  act s (fun d => d.runArray 0x07 v.toNat q.toNat x)

/-- TOPK (R696). -/
def execTopk (v : BitVec 5) (q : BitVec 4) (x : StepFind) (s : State) : Host.Outcome State Fault Refusal :=
  act s (fun d => d.runArray 0x08 v.toNat q.toNat x)

/-- QUANT (R535 to R537, R701). -/
def execQuant (v : BitVec 5) (q : BitVec 4) (x : StepFind) (s : State) : Host.Outcome State Fault Refusal :=
  act s (fun d => d.runArray 0x09 v.toNat q.toNat x)

/-- DEQUANT (R702). -/
def execDequant (v : BitVec 5) (q : BitVec 4) (x : StepFind) (s : State) : Host.Outcome State Fault Refusal :=
  act s (fun d => d.runArray 0x0A v.toNat q.toNat x)

/-- CAST (R546). -/
def execCast (v : BitVec 5) (q : BitVec 4) (x : StepFind) (s : State) : Host.Outcome State Fault Refusal :=
  act s (fun d => d.runArray 0x0B v.toNat q.toNat x)

/-- CLAMP (R551). -/
def execClamp (v : BitVec 5) (q : BitVec 4) (x : StepFind) (s : State) : Host.Outcome State Fault Refusal :=
  act s (fun d => d.runArray 0x0C v.toNat q.toNat x)

/-- MASK_DROP (R704, R705). -/
def execMaskDrop (v : BitVec 5) (q : BitVec 4) (x : StepFind) (s : State) : Host.Outcome State Fault Refusal :=
  act s (fun d => d.runArray 0x0D v.toNat q.toNat x)

/-- FILL_RANDOM (R604). -/
def execFillRandom (v : BitVec 5) (q : BitVec 4) (x : StepFind) (s : State) : Host.Outcome State Fault Refusal :=
  act s (fun d => d.runArray 0x0E v.toNat q.toNat x)

/-- STORE_TILE (R508, R677, R688). -/
def execStoreTile (v : BitVec 5) (q : BitVec 4) (x : StepFind) (s : State) : Host.Outcome State Fault Refusal :=
  act s (fun d => d.runStep 0x0F v.toNat q.toNat x (fun d t w _ => d.storeTile v.toNat q.toNat t w))

/-- EMIT (R643). -/
def execEmit (v : BitVec 5) (q : BitVec 4) (x : StepFind) (s : State) : Host.Outcome State Fault Refusal :=
  act s (fun d => d.runStep 0x10 v.toNat q.toNat x (fun d t w _ => d.emitStep v.toNat q.toNat t w))

end Sys2Proof.Machine
end

