-- ==== Sys2Proof/Machine/VatCmds.lean ====
section
/-!
DEFINITION. Machine/VatCmds.lean: what happens to a vat besides its steps: the watchdog, injected faults and fencing (spec 11, R517 to R522), brine,
write-backs and wipes (spec 13, R566 to R576, R586 to R589), clock gating (R482), and the probe of the RNG page (spec 14).
-/
namespace Sys2Proof.Machine
namespace Die

/-- A handle entry as an HDL record of a plan gives it (R577, R725). -/
def planHandle (s : Nat) (p : PlanSlot) (i : PlanImg) (h : HdlRec) : HandleEnt :=
  { valid := true, cls := h.cls, poison := false, mgmt := false, padk := h.padk, tid := i.tid, base := h.base, len := h.len
    ltag := p.ltag, padv := h.padv, slot := s }

/-- The contents that a W-class handle of a plan carries, on a region that is zero (R581, R726). -/
def planContents (d : Die) (v : Nat) (i : PlanImg) (h : HdlRec) : Die :=
  let a := 64 * h.base
  let n := 64 * (h.len + 1)
  let d := d.modVat v (fun s => { s with mem := s.mem.filter (fun e => decide (e.1 < a ∨ a + n ≤ e.1)) })
  if h.cls && h.wofs != 0xFFFFFFFF then d.spadWrite v a ((i.wdata.drop h.wofs).take h.wlen) else d

/-- The recipes of a plan slot for a logical vat are written into a vat's recipe memory (R503, R724). -/
def writeRecipes (d : Die) (v lv s : Nat) : Die :=
  let p := d.plan s
  match p.img with
  | none => d
  | some i =>
    d.forAll (p.placed.filter (fun x => x.1 == lv)) (fun d x =>
      match i.rcps.find? (fun r => r.lvat == lv && r.rid == x.2.1) with
      | none => d
      | some r =>
        d.forAll ((List.range r.steps.length).zip r.steps) (fun d w =>
          d.modVat v (fun t => { t with recipe := smapSet none t.recipe (x.2.2 + w.1) (some (w.2, s)) })))

/-- The handle entries of a plan slot for a logical vat become valid on a vat (R578, R583, R731). -/
def writeHandles (d : Die) (v lv s : Nat) : Die :=
  let p := d.plan s
  match p.img with
  | none => d
  | some i =>
    d.forAll (i.hdls.filter (fun h => h.lvat == lv)) (fun d h =>
      d.modVat v (fun t => { t with handles := smapSet none t.handles h.handle (some (planHandle s p i h)) }))

/-- The regions of a plan slot for a logical vat are zero but for their contents (R581, R583, R726). -/
def writeRegions (d : Die) (v lv s : Nat) : Die :=
  match (d.plan s).img with
  | none => d
  | some i => d.forAll (i.hdls.filter (fun h => h.lvat == lv)) (fun d h => d.planContents v i h)

/-- A reserve vat takes a logical number: its recipe memory and its handles are written from plan memory, and its regions are as the
loaded plans give them (R518, R583). -/
def takeNumber (d : Die) (v lv : Nat) : Die :=
  let d := (d.setServing v 0 (some lv)).modVat v (fun s => { s with recipe := [], handles := [] })
  let d := d.forAll (d.plansIn [2, 3]) (fun d p => d.writeRegions v lv p.1)
  let d := d.forAll (d.plansIn [3]) (fun d p => (d.writeRecipes v lv p.1).writeHandles v lv p.1)
  d.raise I.vatTook v

/-- The fence map of the CHIP page changes (R518, R914). -/
def fenceMap (d : Die) (f : Fld) (bit : Nat) (on : Bool) : Die :=
  let m := d.get f
  let has := m / 2 ^ bit % 2 = 1
  if has = on then d else (d.set f (if on then m + 2 ^ bit else m - 2 ^ bit)).fenceChanged

/-- A discarded tile runs again from its first step, its inputs fetched afresh, as an overrun of cause REEXEC (R519). -/
def reexecTile (d : Die) (t : TileRun) : Die :=
  let mine (x : Nat × Nat × Nat) : Bool := x.1 == t.stage && x.2.1 == t.tile
  let old := (d.chunkOf t.group t.chunk).stored.filter mine
  let d := d.forAll old (fun d x => d.forAll (d.hcell (x.2.2 / 2 ^ 30) (x.2.2 % 2 ^ 20)).owners (fun d o => d.hoopRelease x.2.2 o))
  let d := d.modChunk t.group t.chunk (fun c => { c with stored := c.stored.filter (fun x => !mine x) })
  let t : TileRun := { t with step := 0, bufs := [], emax := [], born := d.tick.count, carried := true, reexec := true }
  (d.logOverrun t.group .reexec).dispatch t

/-- A vat leaves service: its queue, recipe memory and handles empty, its scratchpad is wiped, its number goes to the lowest free reserve
vat, and its tiles run again there (R518 to R520, R906, R907). -/
def retireVat (d : Die) (v st : Nat) : Die :=
  let lv := d.get R.vatStatLogical v
  let had := d.get R.vatStatState v == 0 && d.bit R.vatStatLvalid v
  let tiles := (d.vat v).queue
  let d := d.modVat v (fun s => { s with queue := [], recipe := [], fault := none, injRes := false, injRcp := false, hard := [], wback := [] })
  let d := (d.setServing v st none).wipeAll v
  if !had then d
  else match (List.range 32).find? (fun r => r != v && d.get R.vatStatState r == 1 && (d.vat r).fault.isNone && d.hget R.hdrStatReset .vat r == 0) with
    | some r => (d.takeNumber r lv).forAll tiles reexecTile
    | none => ((d.logErr .vat v 0x0901 2 (leBytes 1 lv)).raise I.vatNoSpare v).noHolder lv

/-- A vat is fenced (R518, R914, R947). -/
def fenceVat (d : Die) (v : Nat) : Die :=
  let d := (d.hset R.hdrCtlFence 1 .vat v).hset R.hdrStatFenced 1 .vat v
  ((d.retireVat v 2).fenceMap R.chipFenceVats v true).raise I.vatFenced v

/-- The vats that fault, in the order in which they are fenced: those without a number, then by logical number (R521). -/
def faulted (d : Die) : List Nat :=
  let all := (List.range 32).filter (fun v => (d.vat v).fault.isSome && d.get R.vatStatState v != 2)
  let key (v : Nat) : Nat := if d.get R.vatStatState v = 0 then 1 + d.get R.vatStatLogical v else 0
  sortLe (fun a b => decide (key a ≤ key b)) all

/-- Is debug unlocked (R807)? -/
def debugOpen (d : Die) : Bool := d.get R.secDbgState == 1

/-- An injection through VAT.INJECT (R517): refused unless debug is unlocked. -/
def injectVat (d : Die) (c : Cls) (v : Nat) (f : VatSt → VatSt) : Die :=
  if d.debugOpen then d.modVat v f else d.refuse .vat v c 0x50

/-! ### Brine (R569 to R576) -/

/-- Microseconds of a number of ticks (R60). -/
def microOf (d : Die) (ticks : Nat) : Nat := ticks * 2 ^ d.tick.len.toNat

/-- The DETAIL of a scratchpad record: word, class and handle. -/
def spadDetail (d : Die) (v w : Nat) : List Byte :=
  leBytes 3 w ++ leBytes 1 (d.wordW v w).toNat ++ (match d.coverOf v w with
    | some (h, _) => leBytes 1 h
    | none => [0xFF])

/-- The cursor moves on; at the end of a pass its duration is kept (R569). -/
def brineNext (d : Die) (v : Nat) : Die :=
  let w := d.get R.vatBrineStatCursor v
  if w < 262143 then d.set R.vatBrineStatCursor (w + 1) v
  else
    let ms := d.microOf (d.tick.count - (d.vat v).passAt).toNat / 1000
    let d := ((d.set R.vatBrineStatCursor 0 v).set R.vatBrinePassLastMs (min 0xFFFF ms) v).bump R.vatBrinePassPasses v
    d.modVat v (fun s => { s with passAt := d.tick.count, late := false })

/-- Brine finds the cursor word correctable: it is written back, and the fourth pass in a row makes a hard fault (R571, R574). -/
def brineFix (d : Die) (v w : Nat) : Die :=
  let n := smapGet 0 (d.vat v).hard w + 1
  let d := (d.bump R.vatSpFix v).modVat v (fun s => { s with hard := smapSet 0 s.hard w n })
  if n < 4 then d
  else ((d.logErr .vat v 0x0906 1 (d.spadDetail v w)).raise I.vatHard v).vatFault v 5 0

/-- Brine finds the cursor word uncorrectable (R572). -/
def brineUe (d : Die) (v w : Nat) : Die :=
  let d := ((d.bump R.vatSpUe v).latchSpad v w 1).raise I.vatUe v
  let det := d.spadDetail v w
  match d.coverOf v w with
  | some (h, e) =>
    let d := d.modVat v (fun s => { s with handles := smapSet none s.handles h (some { e with poison := true }) })
    (d.logErr .vat v 0x0905 1 det (some e.tid) e.mgmt).raise I.vatPoison v
  | none => (d.spadWrite v (8 * w) (List.replicate 8 0)).logErr .vat v 0x0905 0 det

/-- A visit of brine: `found` is 0 for a good word, 1 for a correctable one, else uncorrectable. A word under wipe is not visited (R570). -/
def brineVisit (d : Die) (v found : Nat) : Die :=
  let w := d.get R.vatBrineStatCursor v
  if d.underWipe v w then d
  else
    let d := if found = 1 then d.brineFix v w
      else
        let d := d.modVat v (fun s => { s with hard := smapErase s.hard w })
        if found = 0 then d else d.brineUe v w
    d.brineNext v

/-! ### Wipes (R586 to R589) -/

/-- Words that the pending wipes still have to zero. -/
def wipeLeft (d : Die) (v : Nat) : Nat := ((d.vat v).wipes.map (fun x => x.2)).sum

/-- Every pending wipe of a vat has ended; a vat under reset is in service again (R589, R906). -/
def wipesEnd (d : Die) (v : Nat) : Die :=
  let d := (d.modVat v (fun s => { s with wipes := [] })).setBit R.vatSpStatWiping false v
  (d.hset R.hdrStatReset 0 .vat v).raise I.vatWipeDone v

/-- At an edge, a vat whose PAGE_CTL.fence is clear returns as a reserve vat once its wipe has ended (R522, R916). -/
def edgeUnfence (d : Die) : Die :=
  d.forAll ((List.range 32).filter (fun v => d.get R.vatStatState v == 2 && d.hget R.hdrCtlFence .vat v == 0 && (d.vat v).wipes.isEmpty)) (fun d v =>
    ((d.setServing v 1 none).hset R.hdrStatFenced 0 .vat v).fenceMap R.chipFenceVats v false)

/-! ### The RNG probe -/

/-- A write of RNG.PCMD: the seed first, then the leap (R592, R593, R596). -/
def rngCommand (d : Die) (seed leap_ : Bool) : Die :=
  let lane := d.get R.rngPselLane
  let c : SeedCtx :=
    { pseed := BitVec.ofNat 64 (d.get64 R.rngPseedLo R.rngPseedHi), group := BitVec.ofNat 12 (d.get R.rngPctxGroup)
      cid := BitVec.ofNat 16 (d.get R.rngPctxCid), chunk := BitVec.ofNat 32 (d.get R.rngPchunkChunk), tile := BitVec.ofNat 16 (d.get R.rngPposTile) }
  let s := if seed then seedOf c (d.get R.rngPposStep) lane else BitVec.ofNat 64 (d.get64 R.rngPstateStateLo R.rngPstateStateHi)
  let s := if leap_ then leap (tapsOf lane) s else s
  d.set64 R.rngPstateStateLo R.rngPstateStateHi s.toNat

end Die

/-- VAT_WATCHDOG: a tile still not complete 8 ticks after its dispatch is a vat fault (R517). -/
def execVatWatchdog (v : BitVec 5) (q : BitVec 4) (s : State) : Host.Outcome State Fault Refusal :=
  act s (fun d =>
    match (d.vat v.toNat).queue[q.toNat]? with
    | some t => if 8 ≤ (d.tick.count - t.born).toNat then d.vatFault v.toNat 4 (t.first + t.step) else d
    | none => d)

/-- VAT_FENCE: at the edge, every vat that faulted in the tick just closed is fenced (R518, R521). -/
def execVatFence (s : State) : Host.Outcome State Fault Refusal := act s (fun d => d.forAll d.faulted Die.fenceVat)

/-- VAT_INJECT_RESIDUE: a mismatch at the next pass end (R517). -/
def execVatInjectResidue (c : Cls) (v : BitVec 5) (s : State) : Host.Outcome State Fault Refusal :=
  act s (fun d => d.onPage c .vat v.toNat (fun d => d.injectVat c v.toNat (fun x => { x with injRes := true })))

/-- VAT_INJECT_RECIPE: an uncorrectable read at the next recipe fetch (R517). -/
def execVatInjectRecipe (c : Cls) (v : BitVec 5) (s : State) : Host.Outcome State Fault Refusal :=
  act s (fun d => d.onPage c .vat v.toNat (fun d => d.injectVat c v.toNat (fun x => { x with injRcp := true })))

/-- BRINE_VISIT (R569 to R574). -/
def execBrineVisit (v : BitVec 5) (found : BitVec 2) (s : State) : Host.Outcome State Fault Refusal :=
  act s (fun d => d.brineVisit v.toNat found.toNat)

/-- BRINE_LATE: a pass has not ended within 1 s of its start (R576). -/
def execBrineLate (v : BitVec 5) (s : State) : Host.Outcome State Fault Refusal :=
  act s (fun d =>
    let v := v.toNat
    if !(d.vat v).late && decide (1000000 ≤ d.microOf (d.tick.count - (d.vat v).passAt).toNat) then
      ((d.modVat v (fun x => { x with late := true })).logErr .vat v 0x0907 0).raise I.vatBrineLate v
    else d)

/-- SPAD_WRITEBACK: the oldest corrected word that waits is written back (R566, R568). -/
def execSpadWriteback (v : BitVec 5) (s : State) : Host.Outcome State Fault Refusal :=
  act s (fun d => d.modVat v.toNat (fun x => { x with wback := x.wback.drop 1 }))

/-- VAT.WIPE.ALL written: only a reserve or fenced vat obeys (R587). -/
def Die.wipeAllWrite (d : Die) (c : Cls) (v : Nat) : Die :=
  if d.get R.vatStatState v = 1 ∨ d.get R.vatStatState v = 2 then d.wipeAll v else d.refuse .vat v c 0x138

/-- VAT_WIPE_ALL: VAT.WIPE.ALL is written (R587). -/
def execVatWipeAll (c : Cls) (v : BitVec 5) (s : State) : Host.Outcome State Fault Refusal :=
  act s (fun d => d.onPage c .vat v.toNat (fun d => d.wipeAllWrite c v.toNat))

/-- VAT_CLOCK_GATE: a unit has had no step for 16 vat cycles: `u` is 0 the array, 1 the mover-in, 2 the mover-out, and `cycles` the vat cycles it
then stays gated; VAT.STAT and VAT.GATED show the array (R482). -/
def execVatClockGate (v : BitVec 5) (u : BitVec 2) (cycles : BitVec 32) (s : State) : Host.Outcome State Fault Refusal :=
  act s (fun d => if u = 0 then (d.setBit R.vatStatGated true v.toNat).bump R.vatGated v.toNat 0 cycles.toNat else d)

/-- RNG_PROBE_SEED: RNG.PCMD is written with SEED set (R596). -/
def execRngProbeSeed (c : Cls) (w : Word) (s : State) : Host.Outcome State Fault Refusal :=
  act s (fun d => d.onPage c .rng 0 (fun d => if w.getLsbD 0 then d.rngCommand true (w.getLsbD 1) else d))

/-- RNG_PROBE_LEAP: RNG.PCMD is written with LEAP set (R593). -/
def execRngProbeLeap (c : Cls) (w : Word) (s : State) : Host.Outcome State Fault Refusal :=
  act s (fun d => d.onPage c .rng 0 (fun d => if w.getLsbD 1 then d.rngCommand (w.getLsbD 0) true else d))

end Sys2Proof.Machine
end

