-- ==== Sys2Proof/Machine/Power.lean ====
section
/-!
DEFINITION. Machine/Power.lean: the power states of ports (spec 05, R245 to R251) and of the die (spec 27, R1042 to R1049).
-/
namespace Sys2Proof.Machine

/-- An eight-bit temperature, signed (PWR.TJ). -/
def tempOf (n : Nat) : Int := if n < 128 then n else (n : Int) - 256

namespace Die

/-! ### Ports -/

/-- Does a loaded plan reference the port: its reservations, its trees or its members (R246)? -/
def planNames (d : Die) (p : Nat) : Bool :=
  ((d.plansIn [2, 3]).map (fun x => x.2)).any (fun i => i.rsvs.any (fun r => r.port == p)
    || i.trees.any (fun t => (!t.root && t.upPort == p) || t.kids.any (fun k => k.2.2 == p))
    || i.mem.any (fun e => d.onThisDie (BitVec.ofNat 17 e) && e % 64 == p))

/-- Does the port carry the tick toward a parent or a child: it is the tick parent's, or its far end names this die as its parent? -/
def tickPath (d : Die) (p : Nat) : Bool :=
  (d.bit R.discParentValid && d.get R.discParentPort == p) || d.hf p 4 10 1 == 1

/-- Are flits queued for the port? -/
def flitsQueued (d : Die) (p : Nat) : Bool :=
  (List.range 8).any (fun v => !(d.heads (8 * p + v)).isEmpty || (d.grantAt (8 * p + v)).isSome)

/-- Is the port the last STACK link to its sibling that is UP and not asked into PS2? -/
def lastStack (d : Die) (p : Nat) : Bool :=
  d.isStack p && !(d.portsWith (fun q => q != p && d.isStack q && d.attrOf q == d.attrOf p)).any (fun q =>
    d.get R.laneqPstatState q == 2 && d.get R.portLinkPs q != 2 && (d.port q).psReq != some 2 && (d.port q).psAgreed != some 2)

/-- The lowest reason of the table Power refusal reasons that applies to a request for a state; 0 for none (R246). -/
def psReason (d : Die) (p tgt : Nat) : Nat :=
  let s := d.port p
  if d.planNames p then 1
  else if tgt = 2 ∧ d.tickPath p then 2
  else if d.link p = 1 ∨ d.flitsQueued p ∨ !d.allCredit p ∨ !s.unacked.isEmpty ∨ !s.sendq.isEmpty then 3
  else if !(if tgt = 1 then d.bit R.portPsctlAllow1 p else d.bit R.portPsctlAllow2 p) then 4
  else if tgt = 2 ∧ d.lastStack p then 5
  else 0

/-- The deepest state that a die in QUIET asks a port into (R1043): tick-path ports and the lowest UP STACK link to each sibling stay in PS1. -/
def quietTarget (d : Die) (p : Nat) : Nat :=
  if d.role p = 0 ∨ d.planNames p then 0
  else if d.tickPath p then 1
  else if d.isStack p ∧ (d.portsWith (fun q => d.isStack q && d.attrOf q == d.attrOf p && d.get R.laneqPstatState q == 2)).head? = some p then 1
  else 2

/-- The power state that Kesil wants a port in: PORT.PSCTL.TGT, or deeper in QUIET (R245, R1043). -/
def psWant (d : Die) (p : Nat) : Nat :=
  if d.get R.pwrModeState = 2 then max (d.get R.portPsctlTgt p) (d.quietTarget p) else d.get R.portPsctlTgt p

/-- A request for the state that Kesil wants goes out once the port has sent no flits for 4 superframes, holds all of its credits and has no
message outstanding (R245). -/
def tryPsReq (d : Die) (p : Nat) : Die :=
  let s := d.port p
  let t := d.psWant p
  let on := d.link p == 2 || (d.link p == 3 && d.get R.portLinkPs p == 1)
  if on && decide (d.get R.portLinkPs p < t) && decide (4 ≤ s.quiet) && s.psReq.isNone && s.psAgreed.isNone && s.unacked.isEmpty
      && s.sendq.isEmpty && d.allCredit p && !d.flitsQueued p then
    (d.modPort p (fun s => { s with psReq := some (BitVec.ofNat 2 t) })).queueMsg p (.lcmd 1 (BitVec.ofNat 16 t))
  else d

/-- A port leaves PS2, or PS1 with a lane that has lost superframe lock: it comes up through INIT (R201, R202, R250). -/
def wakeDown (d : Die) (p : Nat) : Die := (d.linkOffline p).set R.portLinkPs 0 p

/-- A port in PS1 is in PS0 and ACTIVE again, when all of its lanes still hold superframe lock (R200, R202, R249). -/
def wakeUp (d : Die) (p : Nat) : Die :=
  if (List.range 4).all (fun l => d.bit R.laneqLaneLstatSfLock p l) then
    ((d.set R.portLinkPs 0 p).set R.portLinkState 2 p).raise I.portPs p
  else d.wakeDown p

/-- Requests and agreements of a port's power handshake are withdrawn (R251). -/
def withdrawPs (d : Die) (p : Nat) : Die := d.modPort p (fun s => { s with psReq := none, psAgreed := none })

/-- Kesil wakes a port: with WAKE from PS1, by its transmitter from PS2; in PS0 it withdraws a request (R249 to R251). -/
def wakePort (d : Die) (p : Nat) : Die :=
  let s := d.port p
  let asked := s.psReq.isSome || s.psAgreed.isSome
  let d := d.withdrawPs p
  match d.get R.portLinkPs p with
  | 0 => if asked then d.queueMsg p (.lcmd 4 0) else d
  | 1 => (d.queueMsg p (.lcmd 4 0)).wakeUp p
  | _ => d.wakeDown p

/-! ### The die -/

/-- PWR.MODE.STATE changes, and reports it. -/
def pwrState (d : Die) (st : Nat) : Die :=
  if d.get R.pwrModeState = st then d else (d.set R.pwrModeState st).raise I.pwrMode

/-- Does a cause hold for which a write of RUN is discarded (R1049)? -/
def quietHeld (d : Die) : Bool :=
  decide ((d.get R.pwrThermCtlCrit : Int) ≤ tempOf (d.get R.pwrTjCur)) || (d.pwr.therm && d.get R.pwrThermCtlPinAct == 2)
    || (d.pwr.caveHot && d.get R.pwrThermCtlCaveAct == 2)

/-- Ports that sleep and whose PORT.PSCTL.TGT is 0. -/
def sleepers (d : Die) : List Nat := d.portsWith (fun p => d.get R.portLinkPs p != 0 && d.link p == 3 && d.get R.portPsctlTgt p == 0)

/-- LEAVING: every port whose TGT is 0 goes back to PS0 (R1044). -/
def leaveQuiet (d : Die) : Die :=
  let ps := d.sleepers
  let d := (d.pwrState 3).forAll ps wakePort
  { d with pwr := { d.pwr with woken := ps, runAsked := false } }

/-- The die enters QUIET: its ports ask for their deepest states (R1043); a RUN written during ENTERING takes effect now (R1044). -/
def enterQuiet (d : Die) : Die :=
  let d := (d.pwrState 2).forAll (d.portsWith (fun p => d.role p != 0)) tryPsReq
  if d.pwr.runAsked then d.leaveQuiet else d

/-- Entry to QUIET: a die-wide run-down, or the one that runs already (R97, R1043, R1047). -/
def startQuiet (d : Die) : Die :=
  let st := d.get R.pwrModeState
  if st = 2 then d
  else
    let own := d.pwr.quiet || (d.rundown .die).phase == .run
    let d := (d.pwrState 1).startRundown .die (d.unitBound .die)
    let d : Die := { d with pwr := { d.pwr with quiet := own, runAsked := false, woken := [] } }
    if (d.rundown .die).phase = .idle then d.enterQuiet else d

/-- A DROP port that an endpoint wakes sets DROP in PWR.WAKE_CAUSE, and in QUIET with AUTO set starts LEAVING (R858, R1045). -/
def dropWoken (d : Die) (p : Nat) : Die :=
  if d.isDrop p then
    let d := d.wakeCause 0
    if d.get R.pwrModeState = 2 ∧ d.bit R.pwrModeAuto ∧ !d.quietHeld then (d.set R.pwrModeReq 0).leaveQuiet else d
  else d

end Die
end Sys2Proof.Machine
end

