-- ==== Sys2Proof/Machine/Claims.lean ====
section
/-!
DEFINITION. Machine/Claims.lean: the resource ownership table (spec 25, R990 to R992): tick-local timers, cave share units (spec 21, R878, R879) and
HOOP_D_RESERVE.
-/
namespace Sys2Proof.Machine
namespace Die

/-- A refused claim: latched, counted and raised (R992, GPIO.CONF_LAST). `res` is the resource as GPIO.OWN_SEL numbers it; a share has no number
there, and what CONF_LAST then shows is open (log entry 3). -/
def refusedClaim (d : Die) (res : Option Nat) (who : Nat) : Die :=
  let (d, r) := match res with
    | some r => (d, r)
    | none => (d.used, (d.free 6).toNat)
  (((d.set R.gpioConfRes r).set R.gpioConfClaimant who).bump R.gpioConfCnt).raise I.gpioConflict

/-! ### Timers -/

/-- The owner of a tick-local timer, coded as GPIO.OWNER codes it; 0 is free. -/
def timerOwner (d : Die) (i : Nat) : Nat := d.own.timers.getD i 0

/-- The lowest free timer. -/
def freeTimer (d : Die) : Option Nat := [0, 1].find? (fun i => d.timerOwner i == 0)

/-- Does a unit hold a timer? -/
def hasTimer (d : Die) (who : Nat) : Bool := d.own.timers.contains who

/-- A timer is granted. -/
def takeTimer (d : Die) (i who : Nat) : Die :=
  { d with own := { d.own with timers := [if i = 0 then who else d.timerOwner 0, if i = 1 then who else d.timerOwner 1] } }

/-- A unit's timer is free again. -/
def letTimer (d : Die) (who : Nat) : Die := { d with own := { d.own with timers := d.own.timers.map (fun x : Nat => if x = who then 0 else x) } }

/-! ### Cave shares -/

/-- The CAVE.SHARE field of a client (table Share clients). -/
def shareFld : Nat → Fld
  | 0 => R.caveShare0Vat
  | 1 => R.caveShare0Dma
  | 2 => R.caveShare0Host
  | 3 => R.caveShare1Rec
  | 4 => R.caveShare1Telem
  | _ => R.caveShare1Sys

/-- Units that a client holds. -/
def shareHeld (d : Die) (k : Nat) : Nat := smapGet 0 d.own.shares k

/-- Units held by all granted claims (CAVE.SHSTAT.GRANTED). -/
def shareTotal (d : Die) : Nat := (d.own.shares.map (fun e => e.2)).sum

/-- May a client hold `n` units: the die's total stays within 64 (R879)? -/
def shareFits (d : Die) (k n : Nat) : Bool := decide (d.shareTotal - d.shareHeld k + n ≤ 64)

/-- A client's units set; 0 releases them. -/
def setShare (d : Die) (k n : Nat) : Die := { d with own := { d.own with shares := smapSet 0 d.own.shares k n } }

/-- One share unit in lines per tick (R878). -/
def shareUnit (d : Die) : Nat := 18000 * 2 ^ d.tick.len.toNat / 64

/-- Who claims for a client, coded as GPIO.OWNER codes it: the plan engine for VAT, the host for DMA and HOST. -/
def shareWho : Nat → Nat
  | 0 => 9
  | 1 => 2
  | 2 => 2
  | 3 => 10
  | 4 => 6
  | _ => 1

/-- Does a client hold units: VAT, DMA, HOST and SYS always, REC and TELEM while they run (R879, R762, R931)? -/
def shareClaimed (d : Die) (k : Nat) : Bool := if k = 3 then d.hasTimer 10 else if k = 4 then d.shareHeld 4 != 0 else true

/-- One field of a CAVE.SHARE write at its edge: accepted, or discarded with ACCESS_ERR and CONFLICT (R882). -/
def shareField (d : Die) (c : Cls) (reg k : Nat) (w : Word) : Die :=
  let f := shareFld k
  let n := fieldGet w f.lsb f.width
  if n = d.get f then d
  else if !d.shareClaimed k then d.set f n
  else if d.shareFits k n then (d.set f n).setShare k n
  else ((d.refuse .cave 0 c (0x90 + 4 * reg)).refusedClaim none (shareWho k)).raise I.caveConflict

/-- Share writes take effect at an edge, in the clients' order (R882, R991). -/
def edgeShares (d : Die) : Die :=
  let ask (d : Die) (reg : Nat) (ks : List Nat) : Die := match smapGet none d.own.shareAsk reg with
    | some (w, c) => d.forAll ks (fun d k => d.shareField c reg k w)
    | none => d
  let d := (ask d 0 [0, 1, 2]).forAll [()] (fun d _ => ask d 1 [3, 4])
  { d with own := { d.own with shareAsk := [] } }

/-! ### The record unit (R762, R763) -/

/-- The claims of record and replay at an edge, as a code of the table Replay codes: 0 granted, 5 a claim was refused, 7 the reserve is too small.
What the unit holds already stays its own. -/
def recClaims (d : Die) : Die × Nat :=
  if d.hasTimer 10 then (d, 0)
  else if d.hoops.drsv < 4 then (d, 7)
  else match d.freeTimer with
    | none => (d.refusedClaim (some 0x10) 10, 5)
    | some i =>
      let n := d.get R.caveShare1Rec
      if !d.shareFits 3 n then (d.refusedClaim none 10, 5)
      else
        let d := (d.takeTimer i 10).setShare 3 n
        ({ d with own := { d.own with hoopD := true } }, 0)

/-- What record and replay no longer need is free again (R990). -/
def recRelease (d : Die) : Die :=
  let d := (d.letTimer 10).setShare 3 0
  { d with own := { d.own with hoopD := false } }

end Die
end Sys2Proof.Machine
end

