-- ==== Sys2Proof/Machine/CaveCmds.lean ====
section
/-!
DEFINITION. Machine/CaveCmds.lean: shares, refresh, failure, the maps of cave space and the tag sweep (spec 21, R868 to R891), and what DIE_FATAL
starts (spec 22, R904).
-/
namespace Sys2Proof.Machine
namespace Die

/-- A DIE_FATAL record: a run-down with a bound of 0, and from the next edge on nothing is sent (R904). -/
def dieFatal (d : Die) : Die :=
  let d := d.startRundown .die 0
  let d := d.setRundown .die { d.rundown .die with bound := 0, left := 0 }
  if d.tick.fatal = 0 then { d with tick := { d.tick with fatal := 1 } } else d

/-- CAVE.SHARE is written: the claim waits for the edge (R882). -/
def caveShareWrite (d : Die) (c : Cls) (reg : Nat) (w : Word) : Die :=
  let d := { d with own := { d.own with shareAsk := smapSet none d.own.shareAsk reg (some (w, c)) } }
  if reg = 0 then d.fpDirty else d

/-- Do two GiB ranges meet? -/
def rangesMeet (b1 s1 b2 s2 : Nat) : Bool := decide (b1 < b2 + s2 ∧ b2 < b1 + s1)

/-- CAVE.TMAP is written for the tenant that TSEL names (R871, R872). -/
def tmapWrite (d : Die) (c : Cls) (w : Word) : Die :=
  let t := d.get R.caveTselTid
  let b := fieldGet w 0 10
  let n := fieldGet w 16 10
  let meets := d.cave.tmap.any (fun e => e.1 != t && rangesMeet b n (fieldGet e.2 0 10) (fieldGet e.2 16 10))
  if d.get R.tenStatState (t / 4) (t % 4) ≠ 0 ∨ (n ≠ 0 ∧ (b < d.mgmtGib ∨ 558 < b + n)) ∨ meets then d.refuse .cave 0 c 0x88
  else
    let v := BitVec.ofNat 32 (b + 2 ^ 16 * n)
    if smapGet 0 d.cave.tmap t = v then d
    else ({ d with cave := { d.cave with tmap := smapSet 0 d.cave.tmap t v } }).fpDirty

/-- CAVE.MGMT.GIB is written (R870, R872). -/
def mgmtGibWrite (d : Die) (c : Cls) (w : Word) : Die :=
  let n := fieldGet w 0 7
  if d.locked .cave then d.accErr .cave 0 c true (0x1000 * pageIndex .cave 0 + 0x80) .locked
  else if n = d.mgmtGib then d
  else if n < 2 ∨ 64 < n ∨ d.cave.tmap.any (fun e => fieldGet e.2 16 10 != 0 && decide (fieldGet e.2 0 10 < n)) then d.refuse .cave 0 c 0x80
  else (d.set R.caveMgmtGib n).fpDirty

/-- The owner whose range a sweep serves: 256 is MGMT. -/
def sweepSpace (o : Nat) : Space := if o = 256 then .mgmt else .tenant o

/-- A sweep ends: tags of the owner's range that are not of its generation are 0 (R877). -/
def sweepDone (d : Die) : Die :=
  match d.cave.sweeps with
  | [] => d
  | o :: r =>
    let sp := sweepSpace o
    let keep (e : Nat × BitVec 16) : Bool := d.caveOwner (4096 * e.1) != some sp || e.2 == d.caveGen sp
    { d with cave := { d.cave with sweeps := r, tags := d.cave.tags.filter keep } }

/-- A controller fails (R891, R904). -/
def caveFails (d : Die) (k : Nat) : Die :=
  if d.get R.caveStatState k = 2 then d
  else (((d.set R.caveStatState 2 k).logErr .cave k 0x0C03 3 (leBytes 1 k)).raise I.caveFail k).dieFatal

/-- The refresh rates that packages report, from the edge on (R885). -/
def edgeRates (d : Die) (rates : List (BitVec 4 × BitVec 1 × BitVec 2)) : Die :=
  d.forAll rates (fun d x =>
    let k := x.1.toNat
    let f := if x.2.1 = 0 then R.caveStatRate0 else R.caveStatRate1
    let r := x.2.2.toNat
    if 10 ≤ k ∨ d.get f k = r then d
    else
      let d := (d.set f r k).raise I.caveRate k
      if r = 3 then (d.logErr .cave k 0x0C02 1 (leBytes 1 k ++ leBytes 1 x.2.1.toNat)).raise I.caveHot k else d)

end Die

/-- CAVE_REFRESH: the controller's next refresh falls due; `extra` is one that R885 adds (R884 to R886). Requests that wait for the bank are counted
where they wait. -/
def execCaveRefresh (ctl : BitVec 4) (extra : Bool) (s : State) : Host.Outcome State Fault Refusal :=
  act s (fun d =>
    let k := ctl.toNat
    if k < 10 ∧ extra ∧ d.get R.caveStatState k = 1 ∧ (d.get R.caveStatRate0 k ≠ 0 ∨ d.get R.caveStatRate1 k ≠ 0) then d.bump R.caveExtraRef k
    else d)

/-- CAVE_FAIL (R891). -/
def execCaveFail (ctl : BitVec 4) (s : State) : Host.Outcome State Fault Refusal :=
  act s (fun d => if ctl.toNat < 10 then d.caveFails ctl.toNat else d)

/-- CAVE_SHARE_WRITE (R882). -/
def execCaveShareWrite (c : Cls) (reg : BitVec 1) (w : Word) (s : State) : Host.Outcome State Fault Refusal :=
  act s (fun d => d.onPage c .cave 0 (fun d => d.caveShareWrite c reg.toNat w))

/-- TAG_SWEEP_DONE (R877). -/
def execTagSweepDone (s : State) : Host.Outcome State Fault Refusal := act s Die.sweepDone

end Sys2Proof.Machine
end

