-- ==== Sys2Proof/Machine/Queues.lean ====
section
/-!
DEFINITION. Machine/Queues.lean: rings in the queue region (spec 15, R615 to R628; R836 for the DMA queues): PHASE and LOCK, the doorbells of a group,
its descriptors and its completion records.
-/
namespace Sys2Proof.Machine

/-! ### Rings: where slots lie, PHASE and LOCK (R616, R617, R822) -/

/-- The PHASE that a slot of the pass of an index carries: 1 on the first pass, then alternately (R617, R622). -/
def ringPhase (ix : Nat) : Bool := ix / 256 % 2 == 0

/-- The cave address of an SQ slot of a group (table Control slice). -/
def sqAddr (g ix : Nat) : Nat := 0x6000 * g + 64 * (ix % 256)

/-- The cave address of a CQ slot of a group. -/
def cqAddr (g ix : Nat) : Nat := 0x6000 * g + 0x4000 + 32 * (ix % 256)

/-- Indices from `a` up to `b`, modulo 512. -/
def ringSpan (a b : Nat) : List Nat := (List.range ((b + 512 - a) % 512)).map (fun i => (a + i) % 512)

namespace Die

/-- PHASE and LOCK of the slot at a cave address. -/
def slotPhase (d : Die) (a : Nat) : Bool := (d.caveByte a).getLsbD 0
/-- See `slotPhase`. -/
def slotLock (d : Die) (a : Nat) : Bool := (d.caveByte a).getLsbD 1

/-- LOCK of a slot written (R616). -/
def setLock (d : Die) (a : Nat) (on : Bool) : Die :=
  let b := d.caveByte a
  d.caveWrite a [if on then b ||| 2#8 else b &&& 0xFD#8]

/-- Does the slot show the expected PHASE? An uncorrectable line never does (table Uncorrectable line outcomes). -/
def phaseOk (d : Die) (a n ix : Nat) : Bool := (d.caveFirstBad a n).isNone && d.slotPhase a == ringPhase ix

/-! ### The doorbells of a group (R618, R623) -/

/-- A doorbell that does not fit is discarded: counted and logged (R618). -/
def badDoorbell (d : Die) (g : Nat) : Die :=
  (d.bump R.collOverwrite (g / 256)).logErr .coll (g / 256) 0x0A02 0 (leBytes 2 g)

/-- The SQ doorbell of a group; whether it was accepted (R618). -/
def sqDb (d : Die) (g tail : Nat) : Die × Bool :=
  let s := d.group g
  let had := (s.sqTail + 512 - s.sqHead) % 512
  let now := (tail + 512 - s.sqHead) % 512
  if now ≤ 256 ∧ had ≤ now then
    let d := d.forAll (ringSpan s.sqTail tail) (fun d i => d.setLock (sqAddr g i) true)
    (d.modGroup g (fun s => { s with sqTail := tail }), true)
  else (d.badDoorbell g, false)

/-- The CQ doorbell of a group; whether it was accepted (R623). -/
def cqDb (d : Die) (g head : Nat) : Die × Bool :=
  let s := d.group g
  if (head + 512 - s.cqHead) % 512 ≤ (s.cqTail + 512 - s.cqHead) % 512 then
    let gone := ringSpan s.cqHead head
    let d := d.forAll gone (fun d i => d.setLock (cqAddr g i) false)
    (d.modGroup g (fun s => { s with cqHead := head, resend := s.resend.filter (fun r => !gone.contains r.1) }), true)
  else (d.badDoorbell g, false)

/-- Is a slot of the SQ pending? -/
def sqPending (d : Die) (g : Nat) : Bool := (d.group g).sqHead != (d.group g).sqTail

/-- The slot at SQ_HEAD is drained: its bytes, LOCK cleared, SQ_HEAD advanced (R620). -/
def drainSq (d : Die) (g : Nat) : Die × List Byte :=
  let a := sqAddr g (d.group g).sqHead
  let bs := d.caveRead a 64
  ((d.setLock a false).modGroup g (fun s => { s with sqHead := (s.sqHead + 1) % 512, wait := 0, stalled := false }), bs)

/-! ### States of a group (COLL.GVIEW.STATE) -/

/-- 0 IDLE, 1 RUNNING, 2 STOPPING, 3 STOPPED, 4 ABORTING. -/
def groupState (d : Die) (g : Nat) : Nat :=
  let r := d.rundown (.group (BitVec.ofNat 12 g))
  let s := d.group g
  if s.draining || (r.abort != .none && r.phase != .idle && r.phase != .run) then 4
  else match r.phase with
    | .idle => 3
    | .closing | .draining => 2
    | .run => if s.run.isSome then 1 else 0

/-! ### Completion records (R622 to R624, R628) -/

/-- A completion record (table Completion record) but PHASE and LOCK. -/
def recordBytes (r : CollRun) (nt status reason : Nat) : List Byte :=
  let bad := ((List.range (r.fins.length + 1)).find? (fun i => !r.fins.contains (r.d.chunk0 + i))).getD 0
  let firstBad := if r.d.chunk0 + bad < r.nchunks then r.d.chunk0 + bad else 0xFFFFFFFF
  let w0 := status * 2 ^ 8 + reason * 2 ^ 12 + r.exact.toNat * 2 ^ 16 + r.slow.toNat * 2 ^ 17 + r.anySwitch.toNat * 2 ^ 18
    + r.alg * 2 ^ 19 + (if r.alg = 2 then nt else if r.alg = 1 then 1 else 0) * 2 ^ 21 + r.sqSlot % 256 * 2 ^ 24
  leBytes 4 w0 ++ leBytes 2 r.d.cid ++ leBytes 2 r.ovr ++ leBytes 6 r.start.toNat ++ leBytes 2 (min 0xFFFF r.held)
    ++ leBytes 6 r.lastFin.toNat ++ [0, 0] ++ leBytes 4 r.fins.length ++ leBytes 4 firstBad

/-- A record is sent to an endpoint leader as a RESP packet (R628). -/
def sendRecord (d : Die) (g ix : Nat) : Die :=
  match (d.group g).ent with
  | none => d
  | some e =>
    d.originate ({ Packet.blank with
      op := 0x02, cls := 3, tid := BitVec.ofNat 8 e.tid, seid := BitVec.ofNat 17 (dieEid d.selfNode d.pos), deid := e.leid
      group := BitVec.ofNat 12 g, addr := 4, arg := BitVec.ofNat 64 (ix % 256), payload := d.caveRead (cqAddr g ix) 32 }).finish

/-- The record is written at CQ_TAIL with PHASE and LOCK; NOTIFY interrupts, and an endpoint leader is sent the record (R622, R628). -/
def putRecord (d : Die) (g : Nat) (h : HeldRec) : Die :=
  let s := d.group g
  let a := cqAddr g s.cqTail
  let status := (leNat (h.bytes.take 4)) / 2 ^ 8 % 16
  let bs := match h.bytes with
    | b :: r => (b ||| BitVec.ofNat 8 (2 + (ringPhase s.cqTail).toNat)) :: r
    | [] => []
  let d := (d.caveWrite a bs).modGroup g (fun s => { s with cqTail := (s.cqTail + 1) % 512, heldRec := none })
  let d := d.bump R.collDone (g / 256)
  let d := if status = 2 ∨ status = 3 then (d.bump R.collAborts (g / 256)).raise I.collAborted (g / 256) else d
  let d := if h.notify then (d.raise I.collComplete (g / 256) g).wakeCause 3 else d
  match s.ent with
  | some e => if e.lkind then (d.modGroup g (fun x => { x with resend := x.resend ++ [(s.cqTail, d.tick.count)] })).sendRecord g s.cqTail else d
  | none => d

/-- A record is written, or held while the slot at CQ_TAIL is locked (R624). -/
def completeWith (d : Die) (g : Nat) (h : HeldRec) : Die :=
  if d.slotLock (cqAddr g (d.group g).cqTail) then
    let d := (d.modGroup g (fun s => { s with heldRec := some h })).bump R.collOverwrite (g / 256)
    (d.logErr .coll (g / 256) 0x0A01 0 (leBytes 2 g)).raise I.collOverwrite (g / 256)
  else d.putRecord g h

/-- Records that no CQ doorbell covers are sent again every 16 ticks (R628). -/
def resendRecords (d : Die) (g : Nat) : Die :=
  let due := (d.group g).resend.filter (fun r => decide (16 ≤ (d.tick.count - r.2).toNat))
  let now := d.tick.count
  let d := d.modGroup g (fun s => { s with resend := s.resend.map (fun r : Nat × BitVec 48 =>
    if 16 ≤ (now - r.2).toNat then (r.1, now) else r) })
  d.forAll due (fun d r => d.sendRecord g r.1)

end Die
end Sys2Proof.Machine
end

