-- ==== Sys2Proof/Machine/CollBase.lean ====
section
/-!
DEFINITION. Machine/CollBase.lean: a collective on one die (spec 15): the descriptor and its checks (R629 to R631), the run it starts (R632, R635),
its control packets (table CCTL kinds), contributions (R638 to R641), results, DONE and FIN (R644 to R646), and how it ends (R657 to R666).
-/
namespace Sys2Proof.Machine

/-- A descriptor read from its 64 bytes (table Descriptor). -/
def readDescr (bs : List Byte) : Descr :=
  let n := leNat bs
  let f (lsb w : Nat) : Nat := n / 2 ^ lsb % 2 ^ w
  { op := f 8 4, alg := f 12 2, rset := f 16 4, notify := f 20 1 = 1, cid := f 32 16, root := f 48 12, count := f 64 64, chunk0 := f 128 32
    cunits := f 160 32, reserved := f 2 6 != 0 || f 14 2 != 0 || f 21 11 != 0 || f 60 4 != 0 || f 192 320 != 0 }

/-- SMALL_MAX in bytes. -/
def smallBytes (e : GroupEnt) : Nat := 1024 * e.smallMax

/-- Units per chunk of a descriptor: its own, or the recipe set's. -/
def unitsOf (de : Descr) (r : RsetRec) : Nat := if de.cunits = 0 then r.cunits else de.cunits

namespace Die

/-- The reason for which a descriptor is rejected, if it is (R629 to R631, R648, R649, table Completion reasons). -/
def descrReason (d : Die) (g : Nat) (de : Descr) : Option Nat :=
  match (d.group g).ent, d.rsetOf g de.rset with
  | some e, some r =>
    let u := unitBytes r.ufmt
    let cu := unitsOf de r
    let bytes := de.count * u
    if de.reserved || de.op = 0 || 6 < de.op || de.alg = 3 || !r.opmask.testBit de.op then some 1
    else if bytes = 0 || 2 ^ 40 < bytes || cu = 0 || e.chunkMax < cu * u || (de.count + cu - 1) / cu ≤ de.chunk0
        || ((de.op = 2 || de.op = 5) && de.count % max 1 e.nmem != 0) then some 2
    else if (de.op = 4 && e.nmem ≤ de.root) || (de.op ≠ 4 && de.root ≠ 0) then some 3
    else if de.alg = 1 && smallBytes e < bytes then some 4
    else none
  | _, _ => some 1

/-- Has a tree lost a link on this die: some TRUNK or STACK port that it names is not ACTIVE, or is fenced (R663)? -/
def treeLost (d : Die) (t : TreeRec) : Bool :=
  let ps := (if t.root then [] else [t.upPort]) ++ t.kids.map (fun k => k.2.2)
  ps.any (fun p => (d.isTrunk p || d.isStack p) && (d.link p != 2 || d.hget R.hdrStatFenced .port p == 1))

/-- The primary trees of a group that have lost a link on this die. -/
def lostTrees (d : Die) (g : Nat) : List Nat :=
  match d.groupImg g with
  | some i => (i.trees.filter (fun t => t.group == g && !t.alt && d.treeLost t)).map (fun t => t.tree)
  | none => []

/-- The run of a descriptor that starts at tick `st` (R630, R632, R651). -/
def mkRun (d : Die) (g : Nat) (de : Descr) (home slot : Nat) (st : BitVec 48) : CollRun :=
  let (u, cu) := match d.rsetOf g de.rset with
    | some r => (unitBytes r.ufmt, unitsOf de r)
    | none => (1, 1)
  let bytes := de.count * u
  let small := match (d.group g).ent with
    | some e => smallBytes e
    | none => 0
  let alg := if de.alg = 0 then (if bytes ≤ small then 1 else 2) else de.alg
  let lost := d.lostTrees g
  { d := de, home := home, sqSlot := slot, start := st, alg := alg, chunkB := cu * u, total := bytes, nchunks := (de.count + cu - 1) / max 1 cu
    next := de.chunk0, cstop := none, acked := [], fins := [], lastFin := 0, ovr := 0, held := 0, exact := true, slow := false
    switched := lost, anySwitch := !lost.isEmpty, arrived := d.tick.count, ended := none, chunks := [] }

/-- The other dies of a group that this die's plan lists: those of its members, and of its trees (R632). -/
def groupDies (d : Die) (g : Nat) : List Nat :=
  match d.groupImg g with
  | none => []
  | some i =>
    let mem := (d.members g).map (fun e => e.toNat / 64 * 64)
    let tr := (i.trees.filter (fun t => t.group == g)).flatMap (fun t =>
      (if t.root then [] else [dieEid t.parent.1 t.parent.2]) ++ t.kids.map (fun k => dieEid k.1 k.2.1))
    let home := match (d.group g).run with
      | some r => [r.home]
      | none => []
    ((mem ++ tr ++ home).eraseDups).filter (· != dieEid d.selfNode d.pos)

/-- The 64 bytes of a descriptor, as START carries it (log entry 29). -/
def descrBytes (de : Descr) : List Byte :=
  leBytes 64 (de.op * 2 ^ 8 + de.alg * 2 ^ 12 + de.rset * 2 ^ 16 + de.notify.toNat * 2 ^ 20 + de.cid * 2 ^ 32 + de.root * 2 ^ 48
    + de.count * 2 ^ 64 + de.chunk0 * 2 ^ 128 + de.cunits * 2 ^ 160)

/-- START to the dies of the group that have not acknowledged it (R632). -/
def sendStart (d : Die) (g : Nat) : Die :=
  match (d.group g).run with
  | some r =>
    d.forAll ((d.groupDies g).filter (fun x => !r.acked.contains x)) (fun d x =>
      d.cctlTo g x 8 r.d.cid 0 (r.start.toNat + 2 ^ 48 * r.d.cid) (descrBytes r.d))
  | none => d

/-! ### Contributions (R638 to R641) -/

/-- Is a CONTRIB right for a running collective: its place, its length, its member (R638, R639)? -/
def contribFits (d : Die) (g : Nat) (r : CollRun) (m : Nat) (pk : Packet) : Bool :=
  let a := pk.addr.toNat
  let c := pk.chunk.toNat
  let b := chunkBytes r c
  let k := (a - c * r.chunkB) / 4096
  let inputs := match d.rsetOf g r.d.rset with
    | some rs => rs.inputs || r.d.op != 6
    | none => true
  inputs && (r.d.op != 4 || m == r.d.root) && decide (c = a / max 1 r.chunkB ∧ r.d.chunk0 ≤ c ∧ c < r.nchunks)
    && decide ((a - c * r.chunkB) % 4096 = 0 ∧ pk.len.toNat = min 4096 (b - 4096 * k) ∧ 0 < pk.len.toNat)

/-- A contribution is held in its chunk, or rejected as a second one (R395, R639, R641). -/
def holdContrib (d : Die) (g k m : Nat) (pk : Packet) : Die :=
  match (d.group g).run with
  | none => d
  | some r =>
    let c := pk.chunk.toNat
    let i := (pk.addr.toNat - c * r.chunkB) / 4096
    let ch := d.chunkOf g c
    if !d.contribFits g r m pk then d.settle k 4
    else if ch.fin.isSome || ch.contrib.any (fun x => x.1 == m && x.2.1 == i) then (d.bump R.collDup (g / 256)).settle k 4
    else (d.modChunk g c (fun x => { x with contrib := x.contrib ++ [(m, i, k)] })).modLed k (fun e => { e with state := .held })

/-- The member index of an EID in a group. -/
def memberIx (d : Die) (g : Nat) (e : BitVec 17) : Option Nat := (d.members g).findIdx? (· == e)

/-- The key of what is held before a start (R640). -/
def earlyKey (cid c : Nat) : Nat := 2 ^ 32 * cid + c

/-- The entries of what is held before a start for a CID. -/
def earlyOf (d : Die) (g cid : Nat) : List (Nat × ChunkSt) := (d.group g).early.filter (fun e => e.1 / 2 ^ 32 == cid)

/-- May one more packet of a CONTRIB be accepted before its collective starts: at most EARLY chunks per member (R640)? -/
def earlyRoom (d : Die) (g m : Nat) (pk : Packet) : Bool :=
  let mine := (d.earlyOf g pk.cid.toNat).filter (fun e => e.2.contrib.any (fun x => x.1 == m))
  let lim := match (d.group g).ent with
    | some e => e.early
    | none => 0
  mine.any (fun e => e.1 % 2 ^ 32 == pk.chunk.toNat) || decide (mine.length < lim)

/-- Is the CONTRIB for a collective that has not started on this die? -/
def isEarly (d : Die) (g : Nat) (pk : Packet) : Bool :=
  match (d.group g).run with
  | some r => decide (r.d.cid ≠ pk.cid.toNat)
  | none => true

/-- Must a waiting packet go on waiting for room under EARLY (R640, R353)? -/
def contribWaits (d : Die) (pk : Packet) : Bool :=
  let g := pk.group.toNat
  pk.op == 0x10 && (d.group g).ent.isSome && d.isEarly g pk && match d.memberIx g pk.seid with
    | some m => !d.earlyRoom g m pk
    | none => false

/-- A CONTRIB is held before its collective starts (R640). -/
def holdEarly (d : Die) (g k m : Nat) (pk : Packet) : Die :=
  let add (x : ChunkSt) : ChunkSt := { x with contrib := x.contrib ++ [(m, pk.addr.toNat, k)] }
  let key := earlyKey pk.cid.toNat pk.chunk.toNat
  (d.modGroup g (fun s => { s with early := smapMod ChunkSt.init s.early key add })).modLed k (fun e => { e with state := .held })

/-- A CONTRIB has been accepted as an item: it is held, or RETURNED(REJECTED) (R393, R639, R640). -/
def takeContrib (d : Die) (k : Nat) : Die :=
  let pk := (d.led k).pkt
  let g := pk.group.toNat
  match (d.group g).ent, d.memberIx g pk.seid with
  | some e, some m =>
    if e.tid ≠ pk.tid.toNat then d.settle k 4
    else match (d.group g).run with
      | some r =>
        if r.d.cid = pk.cid.toNat then d.holdContrib g k m pk
        else if (BitVec.ofNat 16 r.d.cid - pk.cid).toNat < 2 ^ 15 then d.settle k 4
        else d.holdEarly g k m pk
      | none => d.holdEarly g k m pk
  | _, _ => d.settle k 4

/-! ### Cells and the end of chunks -/

/-- Every ownership of a cell by the group is released. -/
def letCell (d : Die) (g h : Nat) : Die :=
  d.forAll ((d.hcell (h / 2 ^ 30) (h % 2 ^ 20)).owners.filter (· == owner 5 g)) (fun d o => d.hoopRelease h o)

/-- A stored cell between stages is released whole. -/
def letStored (d : Die) (h : Nat) : Die :=
  d.forAll (d.hcell (h / 2 ^ 30) (h % 2 ^ 20)).owners (fun d o => d.hoopRelease h o)

/-- What a chunk holds on this die is released, and its contributions settle (R394, R395, R646). -/
def closeChunk (d : Die) (g : Nat) (ch : ChunkSt) (out : BitVec 3) : Die :=
  let d := d.forAll ch.contrib (fun d x => d.settle x.2.2 out)
  let d := d.forAll ch.parts (fun d x => d.letCell g x.2.2.1)
  let d := d.forAll ch.stored (fun d x => d.letStored x.2.2)
  d.forAll ch.kept (fun d x => d.letCell g x.1)

/-- The tiles of chunks of a group that meet a property leave the vats and the engine. -/
def dropTiles (d : Die) (g : Nat) (p : Nat → Bool) : Die :=
  let keep (t : TileRun) : Bool := !(t.group == g && p t.chunk)
  let vs := d.vats.map (fun e : Nat × VatSt => (e.1, { e.2 with queue := e.2.queue.filter keep }))
  { d with vats := vs, coll := { d.coll with waiting := d.coll.waiting.filter keep } }

/-- The running collective leaves this die: unfinished chunks settle with an outcome, queued RESULT and PARTIAL packets are withdrawn
(R95, R102, R661). -/
def dropRun (d : Die) (g : Nat) (out : BitVec 3) : Die :=
  match (d.group g).run with
  | none => d
  | some r =>
    let d := d.forAll r.chunks (fun d c => if c.2.fin.isSome then d else d.closeChunk g c.2 out)
    let d := (d.dropTiles g (fun _ => true)).filterQueue (fun _ x =>
      !((x.pkt.op == 0x11 || x.pkt.op == 0x12) && x.pkt.group.toNat == g && x.inPort == 64))
    d.modGroup g (fun s => { s with run := none })

/-- What is held before a start is let go with an outcome. -/
def dropEarly (d : Die) (g : Nat) (p : Nat → Bool) (out : BitVec 3) : Die :=
  let gone := (d.group g).early.filter (fun e => p (e.1 / 2 ^ 32))
  let d := d.forAll gone (fun d e => d.closeChunk g e.2 out)
  d.modGroup g (fun s => { s with early := s.early.filter (fun e => !p (e.1 / 2 ^ 32)) })

/-! ### Start -/

/-- A run begins on this die; what was held for its CID joins it, and what does not fit is rejected (R635, R639, R640). -/
def beginRun (d : Die) (g : Nat) (r : CollRun) : Die :=
  let pre := d.earlyOf g r.d.cid
  let d := d.modGroup g (fun s => { s with run := some r, early := s.early.filter (fun e => e.1 / 2 ^ 32 != r.d.cid) })
  d.forAll pre (fun d e =>
    let d := d.forAll e.2.contrib (fun d x => d.holdContrib g x.2.2 x.1 (d.led x.2.2).pkt)
    let c := e.1 % 2 ^ 32
    let nt := match (d.group g).ent with
      | some x => x.nt
      | none => 1
    let good := decide (treeOf r c nt = (e.2.tree, e.2.alt))
    if good then d.modChunk g c (fun x => { x with parts := e.2.parts })
    else d.forAll e.2.parts (fun d x => (d.bump R.collDup (g / 256)).letCell g x.2.2.1))

/-! ### DONE and FIN (R645, R646) -/

/-- Bytes of output that a chunk sends down a tree, in a format (log entry 27). -/
def downBytes (d : Die) (g : Nat) (r : CollRun) (rs : RsetRec) (c : Nat) : Nat :=
  let nm := (d.members g).length
  let b := chunkBytes r c
  match r.d.op with
  | 3 => nm * b
  | 5 => nm * b
  | 2 => b / unitBytes rs.ufmt * unitVals rs.ufmt * unit256 0xE / 256
  | 6 =>
    let steps := d.cutSteps g rs c
    let op := rowOp steps
    if op = 7 ∨ op = 8 then chunkUnits rs steps r c * 8 * candsPerRow steps
    else if op = 6 then chunkUnits rs steps r c * (rs.rowlen * elemBits rs.ufmt / 8)
    else b
  | _ => b

/-- Has all the output of a chunk reached this die (log entry 27)? -/
def outputHere (d : Die) (g : Nat) (r : CollRun) (rs : RsetRec) (tr : TreeRec) (c : Nat) : Bool :=
  let ch := d.chunkOf g c
  if tr.root && !passesOn r.d.op then ch.finished
  else if r.d.op = 6 && !rs.inputs then ch.finished
  else
    let got := (ch.parts.filter (fun p => tr.root || p.1 == dieEid tr.parent.1 tr.parent.2)).map (fun p => p.2.2.2)
    let own := if tr.root then (d.owing g r tr).length * chunkBytes r c else 0
    decide (d.downBytes g r rs c ≤ got.sum + own)

/-- FIN for a chunk on this die: its contributions are DELIVERED and its cells released; HOME counts it (R646, R647). -/
def chunkFin (d : Die) (g c : Nat) : Die :=
  match (d.group g).run with
  | none => d
  | some r =>
    let ch := d.chunkOf g c
    if ch.fin.isSome then d
    else
      let d := d.closeChunk g ch 0
      let now := d.tick.count
      let d := d.modChunk g c (fun x => { x with
        contrib := [], parts := [], stored := [], kept := [], results := [], fin := some now })
      d.modRun g (fun x => if r.fins.contains c then x else { x with fins := x.fins ++ [c], lastFin := now })

/-- Does every chunk that concerns this die have its FIN? -/
def allFin (d : Die) (g : Nat) (r : CollRun) : Bool :=
  if d.isHome g then decide (r.nchunks - r.d.chunk0 ≤ r.fins.length)
  else (List.range (r.nchunks - r.d.chunk0)).all (fun i => r.fins.contains (r.d.chunk0 + i) || (d.chunkTree g r (r.d.chunk0 + i)).isNone)

/-- DONE for a chunk comes about: it goes up, or at the root FIN goes to every die of the group (R645). -/
def tryDone (d : Die) (g c : Nat) : Die :=
  match (d.group g).run with
  | none => d
  | some r =>
    let ch := d.chunkOf g c
    match d.chunkTree g r c, d.rsetOf g r.d.rset with
    | some tr, some rs =>
      if ch.doneAt.isSome || ch.fin.isSome || ch.admitted.isNone || r.ended.isSome || !ch.results.isEmpty
          || !(kidsOf tr).all (fun k => ch.kidsDone.contains k) || !d.outputHere g r rs tr c then d
      else
        let now := d.tick.count
        let d := d.modChunk g c (fun x => { x with doneAt := some now })
        if tr.root then (d.forAll (d.groupDies g) (fun d x => d.cctlTo g x 0xB r.d.cid c 0 [])).chunkFin g c
        else d.cctlTo g (dieEid tr.parent.1 tr.parent.2) 0xA r.d.cid c 0 []
    | _, _ => d

/-- A die that is not HOME is through with a collective whose chunks all have their FIN. -/
def leaveRun (d : Die) (g : Nat) : Die :=
  match (d.group g).run with
  | some r => if !d.isHome g && d.allFin g r then d.modGroup g (fun s => { s with run := none }) else d
  | none => d

end Die
end Sys2Proof.Machine
end

