-- ==== Sys2Proof/Machine/Collectives.lean ====
section
/-!
DEFINITION. Machine/Collectives.lean: the commands of the collective engine (spec 15): doorbells, admission of descriptors and chunks, START, PARTIAL, DONE and
FIN, completion records, group commands, and what a tick edge does to the groups.
-/
namespace Sys2Proof.Machine
namespace Die

/-- Groups of this die's table. -/
def groupsHere (d : Die) : List Nat := (d.coll.groups.filter (fun e => e.2.ent.isSome)).map (fun e => e.1)

/-! ### Descriptors (R620, R621, R631, R632) -/

/-- May HOME take a descriptor from the ring now (R620, R624, R658)? -/
def mayDrain (d : Die) (g : Nat) : Bool :=
  let s := d.group g
  d.isHome g && s.run.isNone && s.heldRec.isNone && !s.draining && d.groupOpen g && d.sqPending g

/-- Does the slot at SQ_HEAD show the expected PHASE? -/
def sqReady (d : Die) (g : Nat) : Bool := d.phaseOk (sqAddr g (d.group g).sqHead) 64 (d.group g).sqHead

/-- A descriptor is drained and admitted: START goes out, or the record will say REJECTED (R620, R631, R632). -/
def admitDescr (d : Die) (g : Nat) : Die :=
  if !d.mayDrain g || !d.sqReady g then d
  else
    let slot := (d.group g).sqHead
    let (d, bs) := d.drainSq g
    let de := readDescr bs
    let lead := match (d.group g).ent with
      | some e => e.lead
      | none => 16
    let r := d.mkRun g de (dieEid d.selfNode d.pos) slot (d.tick.count + BitVec.ofNat 48 lead)
    match d.descrReason g de with
    | some why => d.modGroup g (fun s => { s with run := some { r with ended := some (4, why) } })
    | none => (d.beginRun g r).sendStart g

/-- The record of a descriptor that an ABORT drains (R660). -/
def drainAborted (d : Die) (g : Nat) : Die :=
  if d.sqPending g then
    let slot := (d.group g).sqHead
    let (d, bs) := d.drainSq g
    let de := readDescr bs
    let r := d.mkRun g de 0 slot 0
    d.completeWith g { bytes := recordBytes { r with alg := 0, anySwitch := false } 0 2 5, notify := de.notify }
  else
    let d := d.modGroup g (fun s => { s with draining := false })
    (d.setRundown (.group (BitVec.ofNat 12 g)) RunDown.none).raise I.collRundownDone (g / 256)

/-- A command goes to the other dies of the group, and is repeated until they have acknowledged it (R657). -/
def forwardCmd (d : Die) (g code cstop cid : Nat) : Die :=
  let d := d.modGroup g (fun s => { s with cmds := s.cmds ++ [(code, cstop, cid, [])] })
  d.forAll (d.groupDies g) (fun d x => d.cctlTo g x 0xC cid 0 (code + 2 ^ 32 * cstop) [])

/-- HOME completes the running collective at an edge at which it holds every FIN, or at which its end is decided (R647, R659 to R661); all FINs held
decide for OK over an ABORT at the same edge. -/
def completeRun (d : Die) (g : Nat) (r : CollRun) : Die :=
  let nt := match (d.group g).ent with
    | some e => e.nt
    | none => 0
  let ok := d.allFin g r && (r.ended.isNone || r.ended == some (2, 5))
  let verdict : Option (Nat × Nat) := if ok then some (0, 0) else r.ended
  match verdict with
  | none => d
  | some (st, why) =>
    let h : HeldRec := { bytes := recordBytes r nt st why, notify := r.d.notify }
    let d := d.dropRun g (if st = 3 then 3 else 1)
    let d := if st = 2 ∧ why ≠ 5 then d.forwardCmd g (2 + 16 * why) 0 r.d.cid else d
    d.completeWith g h

/-- COMPLETION_WRITE on the HOME die: a held record, the running collective, or a descriptor that an ABORT drains. -/
def completion (d : Die) (g : Nat) : Die :=
  let s := d.group g
  if !d.isHome g then d
  else match s.heldRec with
    | some h => if d.slotLock (cqAddr g s.cqTail) then d else d.putRecord g h
    | none =>
      match s.run with
      | some r => d.completeRun g r
      | none => if s.draining then d.drainAborted g else d

/-! ### Chunks (R633 to R637, R689) -/

/-- The planned tick of a chunk (R633). -/
def plannedTick (r : CollRun) (c : Nat) : BitVec 48 := r.start + BitVec.ofNat 48 (c - r.d.chunk0)

/-- Has tick `t` come (counts modulo 2^48, R70)? -/
def reached (d : Die) (t : BitVec 48) : Bool := decide ((d.tick.count - t).toNat < 2 ^ 47)

/-- The next chunk that the die admits: chunks whose tree does not touch the die are passed over. -/
def nextChunk (d : Die) (g : Nat) (r : CollRun) : Nat :=
  match (List.range (r.nchunks - r.next)).find? (fun i => (d.chunkTree g r (r.next + i)).isSome) with
  | some i => r.next + i
  | none => r.nchunks

/-- May the root admit a chunk of a later round of a multi-round merge (R689)? -/
def roundReady (d : Die) (g : Nat) (r : CollRun) (tr : TreeRec) (c : Nat) : Bool :=
  match d.rsetOf g r.d.rset with
  | some rs =>
    !tr.root || decide (rs.nq ≤ 1) || decide (c < rs.nb + r.d.chunk0)
      || (d.chunkOf g (c - rs.nb)).finished || r.fins.contains (c - rs.nb)
  | none => true

/-- May the next chunk be admitted now (R633, R634, R658)? -/
def chunkReady (d : Die) (g : Nat) (r : CollRun) (c : Nat) : Bool :=
  match d.chunkTree g r c with
  | some tr =>
    r.ended.isNone && decide (c < r.nchunks) && (match r.cstop with | some x => decide (c < x) | none => true)
      && d.reached (plannedTick r c) && d.contribComplete g r c tr && d.roundReady g r tr c
      && !r.chunks.any (fun x => x.2.admitted == some d.tick.count) && d.phaseOpen .die
  | none => false

/-- A chunk is admitted, and its first stage goes to the vats (R511, R633); one that a late START delayed is an overrun (R635). -/
def admitChunk (d : Die) (g : Nat) : Die :=
  match (d.group g).run with
  | none => d
  | some r =>
    let c := d.nextChunk g r
    if !d.chunkReady g r c then d
    else
      let late := decide ((r.arrived - r.start).toNat < 2 ^ 47 ∧ r.arrived ≠ r.start ∧ (r.arrived - plannedTick r c).toNat < 2 ^ 47)
      let d := if late && !d.isHome g then d.logOverrun g .retrans else d
      let now := d.tick.count
      let d := (d.modRun g (fun x => { x with next := c + 1 })).modChunk g c (fun x => { x with admitted := some now })
      d.dispatchStage g c

/-- The member whose contribution or TAKEN a chunk lacks. -/
def lateMember (d : Die) (g : Nat) (r : CollRun) (c : Nat) : Nat :=
  match d.chunkTree g r c with
  | some tr =>
    let ch := d.chunkOf g c
    ((d.owing g r tr).find? (fun m => (List.range (chunkPackets r c)).any (fun k => !ch.contrib.any (fun x => x.1 == m && x.2.1 == k)))).getD 0
  | none => 0

/-- COLL_MEMBER_LATE: a chunk has been held for HOLD_MAX ticks (R637). -/
def memberLate (d : Die) (g : Nat) : Die :=
  match (d.group g).run, (d.group g).ent with
  | some r, some e =>
    let c := d.nextChunk g r
    let waits := decide (c < r.nchunks) && d.reached (plannedTick r c + BitVec.ofNat 48 e.holdMax)
    let stuck := r.chunks.find? (fun x => x.2.fin.isNone && match x.2.admitted with
      | some a => d.reached (a + BitVec.ofNat 48 e.holdMax)
      | none => false)
    let which := if waits then some c else stuck.map (fun x => x.1)
    match which with
    | none => d
    | some c =>
      if r.ended.isSome then d
      else
        let d := d.logErr .coll (g / 256) 0x0A03 1 (leBytes 2 g ++ leBytes 4 c ++ leBytes 2 (d.lateMember g r c)) (some e.tid)
        (d.raise I.collMember (g / 256)).endColl g 2 6
  | _, _ => d

/-! ### PARTIAL (R636, R642, R650, R656) -/

/-- A PARTIAL that does not count is discarded (R642). -/
def dupPartial (d : Die) (g : Nat) : Die := d.bump R.collDup (g / 256)

/-- A partial held in a cell of the group: the cell, if there is one. -/
def holdPartial (d : Die) (g : Nat) (pk : Packet) : Die × Option Nat :=
  match d.hoopAlloc { size := BitVec.ofNat 32 (max 1 pk.payload.length), tid := pk.tid, mgmt := false, owners := [owner 5 g] } none with
  | (d, 0, h) => (d.cellStore (h / 2 ^ 30) (h % 2 ^ 20) pk.payload, some h)
  | (d, _, _) => (d, none)

/-- A PARTIAL of the running collective: its bit is set, and what goes down, or passes unchanged, goes on (R642, R650, R656). -/
def takePartial (d : Die) (g : Nat) (r : CollRun) (tr : TreeRec) (pk : Packet) : Die :=
  let c := pk.chunk.toNat
  let src := pk.seid.toNat
  let down := pk.arg.toNat / 8 % 2 == 1
  let ofs := pk.addr.toNat
  let known := if down then !tr.root && src == dieEid tr.parent.1 tr.parent.2 else (kidsOf tr).contains src
  if !known || (d.chunkOf g c).fin.isSome || (d.chunkOf g c).parts.any (fun x => x.1 == src && x.2.1 == ofs) then d.dupPartial g
  else
    match d.holdPartial g pk with
    | (d, none) => d
    | (d, some h) =>
      let d := d.modChunk g c (fun x => { x with parts := x.parts ++ [(src, ofs, h, pk.payload.length)] })
      match d.rsetOf g r.d.rset with
      | none => d
      | some rs =>
        if down then d.sendDown g r rs tr c (if r.d.op = 2 then 0xE else rs.ufmt) ofs pk.payload none
        else if !passesOn r.d.op then d
        else if tr.root then d.sendDown g r rs tr c rs.ufmt ofs pk.payload none
        else d.sendPartial g tr r.d.cid c (dieEid tr.parent.1 tr.parent.2) tr.upPort false ofs pk.payload

/-- A PARTIAL that comes before its START is held with its tree (R635, R636). -/
def earlyPartial (d : Die) (g : Nat) (pk : Packet) : Die :=
  match d.holdPartial g pk with
  | (d, none) => d
  | (d, some h) =>
    let t := pk.arg.toNat % 8
    let alt := pk.arg.toNat / 16 % 2 == 1
    let add (x : ChunkSt) : ChunkSt := { x with parts := x.parts ++ [(pk.seid.toNat, pk.addr.toNat, h, pk.payload.length)], tree := t, alt := alt }
    let key := earlyKey pk.cid.toNat pk.chunk.toNat
    d.modGroup g (fun s => { s with early := smapMod ChunkSt.init s.early key add })

/-- PARTIAL_RX (R642). -/
def partialRx (d : Die) (pk : Packet) : Die :=
  let g := pk.group.toNat
  if pk.op ≠ 0x11 || !pk.hcrcOk || !pk.crc64Ok then d
  else match (d.group g).ent with
    | none => d
    | some e =>
      if e.tid ≠ pk.tid.toNat then d
      else match (d.group g).run with
        | none => d.earlyPartial g pk
        | some r =>
          let c := pk.chunk.toNat
          if r.d.cid ≠ pk.cid.toNat then
            if (BitVec.ofNat 16 r.d.cid - pk.cid).toNat < 2 ^ 15 then d.dupPartial g else d.earlyPartial g pk
          else match d.chunkTree g r c with
            | none => d.dupPartial g
            | some tr => if (tr.tree, tr.alt) = (pk.arg.toNat % 8, pk.arg.toNat / 16 % 2 == 1) then d.takePartial g r tr pk else d.dupPartial g

/-! ### Control packets between dies (table CCTL kinds) -/

/-- A control packet of Kesil for a group of this die, of a kind (R635, R645, R657). -/
def isCctl (d : Die) (pk : Packet) (kind : Nat) : Bool :=
  pk.op == 0x08 && pk.hcrcOk && pk.crc64Ok && pk.addr.toNat % 16 == kind && match (d.group pk.group.toNat).ent with
    | some e => e.tid == pk.tid.toNat
    | none => false

/-- START at a die of the group (R635). -/
def startRx (d : Die) (pk : Packet) : Die :=
  let g := pk.group.toNat
  if !d.isCctl pk 8 || d.isHome g then d
  else
    let ack (d : Die) : Die := d.cctlTo g pk.seid.toNat 9 pk.cid.toNat 0 0 []
    match (d.group g).run with
    | some r => if r.d.cid = pk.cid.toNat then ack d else d
    | none =>
      let r := d.mkRun g (readDescr pk.payload) pk.seid.toNat 0 (BitVec.ofNat 48 pk.arg.toNat)
      ack (d.beginRun g r)

/-- START_ACK at HOME: of a START, or of a command whose code ARG names (R632, R657, log entry 30). -/
def startAckRx (d : Die) (pk : Packet) : Die :=
  let g := pk.group.toNat
  if d.isCctl pk 9 && pk.arg == 0 then d.modRun g (fun r => if r.d.cid = pk.cid.toNat then { r with acked := r.acked ++ [pk.seid.toNat] } else r) else d

/-- DONE from a tree child: FIN again when the chunk is finished here, else it counts (R645). -/
def doneRx (d : Die) (pk : Packet) : Die :=
  let g := pk.group.toNat
  let c := pk.chunk.toNat
  if !d.isCctl pk 0xA then d
  else match (d.group g).run with
    | none => d.cctlTo g pk.seid.toNat 0xB pk.cid.toNat c 0 []
    | some r =>
      if r.d.cid ≠ pk.cid.toNat || (d.chunkOf g c).fin.isSome then d.cctlTo g pk.seid.toNat 0xB pk.cid.toNat c 0 []
      else
        let add (l : List Nat) : List Nat := if l.contains pk.seid.toNat then l else l ++ [pk.seid.toNat]
        (d.modChunk g c (fun x => { x with kidsDone := add x.kidsDone })).tryDone g c

/-- FIN (R646). -/
def finRx (d : Die) (pk : Packet) : Die :=
  let g := pk.group.toNat
  if !d.isCctl pk 0xB then d
  else match (d.group g).run with
    | none => d
    | some r => if r.d.cid = pk.cid.toNat then (d.chunkFin g pk.chunk.toNat).leaveRun g else d

/-- DONE and FIN are repeated every 4 ticks (R645). -/
def doneRepeat (d : Die) (g c : Nat) : Die :=
  match (d.group g).run with
  | none => d
  | some r =>
    let ch := d.chunkOf g c
    let due (t : Option (BitVec 48)) : Bool := match t with
      | some t => d.tick.count != t && (d.tick.count - t).toNat % 4 == 0
      | none => false
    match d.chunkTree g r c with
    | none => d
    | some tr =>
      if tr.root then (if due ch.fin then d.forAll (d.groupDies g) (fun d x => d.cctlTo g x 0xB r.d.cid c 0 []) else d)
      else if ch.fin.isNone && due ch.doneAt then d.cctlTo g (dieEid tr.parent.1 tr.parent.2) 0xA r.d.cid c 0 []
      else d

/-! ### Group commands (R657 to R660) -/

/-- CSTOP: the first chunk whose planned tick is not before the next edge (R658). -/
def cstopOf (d : Die) (r : CollRun) : Nat :=
  let next := d.tick.count + 1
  if (next - r.start).toNat < 2 ^ 47 then min r.nchunks (r.d.chunk0 + (next - r.start).toNat) else min r.nchunks r.d.chunk0

/-- Stages of chunks at or above CSTOP are discarded (R658). -/
def discardFrom (d : Die) (g cstop : Nat) : Die :=
  match (d.group g).run with
  | none => d
  | some r =>
    let hit := r.chunks.filter (fun x => decide (cstop ≤ x.1) && x.2.admitted.isSome && x.2.fin.isNone)
    let d := d.dropTiles g (fun c => decide (cstop ≤ c))
    let d := d.forAll hit (fun d x =>
      let d := d.forAll x.2.stored (fun d y => d.letStored y.2.2)
      d.modChunk g x.1 (fun y => { y with admitted := none, stage := 0, open_ := 0, stored := [], finished := false }))
    d.modRun g (fun x => { x with cstop := some cstop, next := min x.next (max cstop x.d.chunk0) })

/-- A group command on the HOME die: 1 STOP, 2 ABORT, 3 RESUME (table Group commands). -/
def groupCmd (d : Die) (g op : Nat) : Die :=
  let u := UnitId.group (BitVec.ofNat 12 g)
  let cid := match (d.group g).run with
    | some r => r.d.cid
    | none => 0
  if op = 1 then
    if (d.rundown u).phase ≠ .run then d
    else
      let cs := match (d.group g).run with
        | some r => d.cstopOf r
        | none => 0
      ((d.startRundown u (d.unitBound u)).discardFrom g cs).forwardCmd g 1 cs cid
  else if op = 2 then
    let d := (d.startAbort u (d.unitBound u) .aborted).modGroup g (fun s => { s with draining := true })
    (d.modRun g (fun r => if r.ended.isNone then { r with ended := some (2, 5) } else r)).forwardCmd g (2 + 16 * 5) 0 cid
  else (d.clearRundown u).forwardCmd g 3 0 cid

/-- CMD_FWD at a die of the group; at HOME it tells of a fault on another die (R657, R658, R660, log entry 22). -/
def cmdFwdRx (d : Die) (pk : Packet) : Die :=
  let g := pk.group.toNat
  let u := UnitId.group pk.group
  let op := pk.arg.toNat % 16
  let why := pk.arg.toNat / 16 % 16
  let mine := match (d.group g).run with
    | some r => r.d.cid == pk.cid.toNat
    | none => false
  if !d.isCctl pk 0xC then d
  else if d.isHome g then (if mine && op == 2 then d.endColl g 2 why else d)
  else
    let d := d.cctlTo g pk.seid.toNat 9 pk.cid.toNat 0 (pk.arg.toNat % 256) []
    if op = 1 then (if (d.rundown u).phase = .run then (d.startRundown u (d.unitBound u)).discardFrom g (pk.arg.toNat / 2 ^ 32) else d)
    else if op = 2 then
      if why = 5 then (d.dropRun g 1).dropEarly g (fun _ => true) 1
      else if mine then d.dropRun g 1 else d
    else if op = 3 then d.clearRundown u else d

/-- The acknowledgement of a forwarded command (R657). -/
def cmdAckRx (d : Die) (pk : Packet) : Die :=
  let g := pk.group.toNat
  if !d.isCctl pk 9 || pk.arg == 0 then d
  else
    let mark (x : Nat × Nat × Nat × List Nat) : Nat × Nat × Nat × List Nat :=
      if x.1 = pk.arg.toNat then (x.1, x.2.1, x.2.2.1, x.2.2.2 ++ [pk.seid.toNat]) else x
    let all := d.groupDies g
    let live (x : Nat × Nat × Nat × List Nat) : Bool := !all.all (fun y => x.2.2.2.contains y)
    d.modGroup g (fun s => { s with cmds := (s.cmds.map mark).filter live })

/-! ### CCTL from an endpoint leader (R626, R627) -/

/-- A CCTL applied on the HOME die; `false` when it is to be RETURNED(REJECTED) (R627). -/
def applyCctl (d : Die) (pk : Packet) (kind : Nat) : Die × Bool :=
  let g := pk.group.toNat
  match (d.group g).ent with
  | none => (d, false)
  | some e =>
    if !d.isHome g || e.tid ≠ pk.tid.toNat || !e.lkind || e.leid ≠ pk.seid || pk.addr.toNat % 16 ≠ kind then (d, false)
    else if kind = 0 then
      let a := sqAddr g (pk.addr.toNat / 16 % 256)
      if d.slotLock a then
        (((d.bump R.collOverwrite (g / 256)).logErr .coll (g / 256) 0x0A01 0 (leBytes 2 g)).raise I.collOverwrite (g / 256), false)
      else
        let bs := match pk.payload.take 64 with
          | b :: r => (b &&& 0xFD#8) :: r
          | [] => []
        (d.caveWrite a bs, true)
    else if kind = 1 then d.sqDb g (pk.arg.toNat % 512)
    else if kind = 2 then d.cqDb g (pk.arg.toNat % 512)
    else if 1 ≤ pk.arg.toNat % 16 ∧ pk.arg.toNat % 16 ≤ 3 then (d.groupCmd g (pk.arg.toNat % 16), true)
    else (d, false)

/-- A request that finds the engine under reset goes back as RETRY, with its own EPOCH (R910, R912). -/
def sendRetry (d : Die) (pk : Packet) : Die :=
  let page := pageIndex .coll (pk.group.toNat / 256)
  let r := page + 2 ^ 16 * d.pos + 2 ^ 18 * d.hget R.hdrEpoch .coll (pk.group.toNat / 256) + 2 ^ 32 * (pk.arg.toNat % 2 ^ 32)
  d.originate ({ Packet.blank with
    op := 0x24, cls := 0, seid := BitVec.ofNat 17 (dieEid d.selfNode d.pos), deid := pk.seid, epoch := pk.epoch
    payload := leBytes 8 r }).finish

/-- A CCTL of a kind: an item of this die's ledger (port and index), applied here or forwarded to the HOME die and settled by its answer; or, from
port 64, one that a sibling forwarded (R626, R627). -/
def cctlCmd (d : Die) (p i : Nat) (pk : Packet) (ans : Option Bool) (kind : Nat) : Die :=
  if p = 64 then
    if pk.op ≠ 0x08 || pk.addr.toNat % 16 ≠ kind then d
    else if d.underReset .coll (pk.group.toNat / 256) then d.sendRetry pk
    else
      let (d, ok) := d.applyCctl pk kind
      d.emit (.toDie (eidDie pk.seid) "CCTL_ANSWER" [eidPort pk.seid, pk.fseq.toNat, ok.toNat])
  else
    let k := 4096 * p + i
    let x := d.led k
    if !x.own || x.pkt.op ≠ 0x08 || x.pkt.addr.toNat % 16 ≠ kind || x.state = .settled then d
    else
      let g := x.pkt.group.toNat
      match ans, (d.group g).ent with
      | some ok, _ => if x.state = .held then d.settle k (if ok then 0 else 4) else d
      | none, none => d.settle k 4
      | none, some e =>
        if !e.hasq then d.settle k 4
        else if d.isHome g then
          let (d, ok) := d.applyCctl x.pkt kind
          d.settle k (if ok then 0 else 4)
        else if x.state = .held then d
        else (d.modLed k (fun y => { y with state := .held })).originate ({ x.pkt with deid := BitVec.ofNat 17 (dieEid d.selfNode e.home) }).finish

/-! ### A tick edge -/

/-- A chunk's tree is lost: it runs on the alternate from its contributions, or the collective ends (R663 to R665). -/
def switchTree (d : Die) (g t : Nat) : Die :=
  match (d.group g).run, (d.group g).ent with
  | some r, some e =>
    let hit := r.chunks.filter (fun x => x.2.admitted.isSome && x.2.fin.isNone && (treeOf r x.1 e.nt).1 == t)
    let d := (d.modRun g (fun x => { x with switched := x.switched ++ [t], anySwitch := true })).bump R.collTreesw (g / 256)
    let d := (d.logErr .coll (g / 256) 0x0A04 0 (leBytes 2 g ++ leBytes 1 t) (some e.tid)).raise I.collTreeSw (g / 256)
    let mine (c : Nat) : Bool := hit.any (fun x => x.1 == c)
    let d := d.dropTiles g mine
    d.forAll hit (fun d x =>
      let d := d.forAll x.2.stored (fun d y => d.letStored y.2.2)
      let d := d.forAll x.2.parts (fun d y => (d.bump R.collDup (g / 256)).letCell g y.2.2.1)
      let d := d.modChunk g x.1 (fun y => { y with stage := 0, open_ := 0, stored := [], parts := [], finished := false, kidsDone := [], doneAt := none })
      d.logOverrun g .tree)
  | _, _ => d

/-- Trees of the running collectives that have lost a link (R663, R665). -/
def edgeTrees (d : Die) : Die :=
  d.forAll d.groupsHere (fun d g =>
    match (d.group g).run, (d.group g).ent with
    | some r, some e =>
      let used := if r.alg = 1 then [6] else List.range e.nt
      d.forAll used (fun d t =>
        let lost (alt : Bool) : Bool := match d.treeRec g t alt with
          | some x => d.treeLost x
          | none => false
        if r.ended.isSome then d
        else if r.switched.contains t then (if lost true then d.endColl g 2 7 else d)
        else if lost false then (if lost true then d.endColl g 2 7 else d.switchTree g t) else d)
    | _, _ => d)

/-- RESULT packets that TAKEN covered in the closing tick: their cells go once no RESULT of the chunk is open (R644). -/
def edgeTaken (d : Die) : Die :=
  let l := d.coll.taken
  let d : Die := { d with coll := { d.coll with taken := [] } }
  d.forAll l (fun d x =>
    let (g, c, p, a) := x
    let d := d.modChunk g c (fun y => { y with results := y.results.erase (p, a) })
    let ch := d.chunkOf g c
    if ch.results.isEmpty then
      let d := d.forAll (ch.kept.filter (fun y => y.2)) (fun d y => d.letCell g y.1)
      d.modChunk g c (fun y => { y with kept := y.kept.filter (fun z => !z.2) })
    else d)

/-- HELD at an edge: chunks whose planned tick has passed unadmitted (R634). -/
def edgeHeld (d : Die) (g : Nat) (r : CollRun) : Die :=
  let c := d.nextChunk g r
  let stop := match r.cstop with
    | some x => min x r.nchunks
    | none => r.nchunks
  let past := (d.tick.count - plannedTick r c).toNat
  if r.ended.isSome || stop ≤ c || 2 ^ 47 ≤ past || past = 0 then d
  else
    let n := min (stop - c) past
    (d.modRun g (fun x => { x with held := min 0xFFFF (x.held + n) })).bump R.collHeld (g / 256) 0 n

/-- One group at an edge: START and commands repeated, stages dispatched, DONE where it comes about, and the wait of R621. -/
def edgeGroup (d : Die) (g : Nat) : Die :=
  let d := if d.isHome g then d.sendStart g else d
  let d := d.forAll (d.group g).cmds (fun d x =>
    d.forAll ((d.groupDies g).filter (fun y => !x.2.2.2.contains y)) (fun d y => d.cctlTo g y 0xC x.2.2.1 0 (x.1 + 2 ^ 32 * x.2.1) []))
  let d := match (d.group g).run with
    | some r =>
      let d := d.edgeHeld g r
      let live := (r.chunks.filter (fun x : Nat × ChunkSt => x.2.admitted.isSome && x.2.fin.isNone)).map (fun x : Nat × ChunkSt => x.1)
      d.forAll live (fun d c => (d.dispatchStage g c).tryDone g c)
    | none => d
  let bad := d.mayDrain g && !d.sqReady g
  d.modGroup g (fun s => { s with wait := if bad then s.wait + 1 else 0 })

/-- The collective engine at a tick edge. -/
def edgeColl (d : Die) : Die :=
  let d := d.edgeTaken.edgeTrees
  d.forAll d.groupsHere edgeGroup

end Die

/-- The tenant of a group. -/
def Die.groupTid (d : Die) (g : Nat) : Nat :=
  match (d.group g).ent with
  | some e => e.tid
  | none => 0

/-- A host write to a group's queues or commands that takes effect is recorded (R757); `inj` is one that replay injects. -/
def Die.recGroup (d : Die) (k g ofs : Nat) (data : List Byte) (inj : Bool) : Die :=
  d.recHost k (pageIndex .coll (g / 256)) ofs (some (g, d.groupTid g)) data inj

/-- A write of COLL.SQDB (R618). Only the HOME die serves it, and not while replay stands for the host (R769). -/
def Die.sqDbWrite (d : Die) (c : Cls) (g tail : Nat) (inj : Bool := false) : Die :=
  let ofs := 0x800 + 8 * (g % 256)
  if d.isHome g && (inj || !d.replayGroup g) then
    match d.sqDb g tail with
    | (d, true) => d.recGroup 1 g ofs (leBytes 4 tail) inj
    | (d, false) => d
  else d.refuse .coll (g / 256) c ofs

/-- A write of COLL.CQDB (R623, R769). -/
def Die.cqDbWrite (d : Die) (c : Cls) (g head : Nat) (inj : Bool := false) : Die :=
  let ofs := 0x804 + 8 * (g % 256)
  if d.isHome g && (inj || !d.replayGroup g) then
    match d.cqDb g head with
    | (d, true) => d.recGroup 2 g ofs (leBytes 4 head) inj
    | (d, false) => d
  else d.refuse .coll (g / 256) c ofs

/-- A command written to COLL.CMD: on a die that is not HOME it is discarded (COLL.CMD_STAT), and while replay stands for the host (R769). -/
def Die.collCommand (d : Die) (c : Cls) (g op : Nat) (inj : Bool := false) : Die :=
  let k := g / 256
  if d.isHome g then
    if !inj && d.replayGroup g then d.refuse .coll k c 0x40
    else ((d.recGroup 3 g 0x40 (leBytes 4 (g % 256 + 2 ^ 8 * op)) inj).set R.collCmdStatStatus 0 k).groupCmd g op
  else (d.set R.collCmdStatStatus (if (d.group g).ent.isSome then 1 else 2) k).refuse .coll k c 0x40

/-- SQ_DOORBELL: COLL.SQDB is written, or a mailbox command rings it (R618). -/
def execSqDoorbell (c : Cls) (g : BitVec 12) (tail : BitVec 9) (s : State) : Host.Outcome State Fault Refusal :=
  act s (fun d => d.onPage c .coll (g.toNat / 256) (fun d => d.sqDbWrite c g.toNat tail.toNat))

/-- CQ_DOORBELL: COLL.CQDB is written, or a mailbox command rings it (R623). -/
def execCqDoorbell (c : Cls) (g : BitVec 12) (head : BitVec 9) (s : State) : Host.Outcome State Fault Refusal :=
  act s (fun d => d.onPage c .coll (g.toNat / 256) (fun d => d.cqDbWrite c g.toNat head.toNat))

/-- DESC_ADMIT (R620, R631, R632). -/
def execDescAdmit (g : BitVec 12) (s : State) : Host.Outcome State Fault Refusal := act s (fun d => d.admitDescr g.toNat)

/-- QUEUE_UNDERFILL: 16 ticks without a matching PHASE (R621). -/
def execQueueUnderfill (g : BitVec 12) (s : State) : Host.Outcome State Fault Refusal :=
  act s (fun d =>
    let g := g.toNat
    if 16 ≤ (d.group g).wait ∧ ¬ (d.group g).stalled then
      let d := (d.modGroup g (fun x => { x with stalled := true })).bump R.collUnderfill (g / 256)
      (d.logErr .coll (g / 256) 0x0A00 1 (leBytes 2 g)).raise I.collUnderfill (g / 256)
    else d)

/-- COMPLETION_WRITE (R622, R624, R647, R660). -/
def execCompletionWrite (g : BitVec 12) (s : State) : Host.Outcome State Fault Refusal := act s (fun d => d.completion g.toNat)

/-- CCTL_DESC (R627). -/
def execCctlDesc (p : BitVec 7) (i : BitVec 12) (pk : Packet) (ans : Option Bool) (s : State) : Host.Outcome State Fault Refusal :=
  act s (fun d => d.cctlCmd p.toNat i.toNat pk ans 0)

/-- CCTL_SQ_DB (R627). -/
def execCctlSqDb (p : BitVec 7) (i : BitVec 12) (pk : Packet) (ans : Option Bool) (s : State) : Host.Outcome State Fault Refusal :=
  act s (fun d => d.cctlCmd p.toNat i.toNat pk ans 1)

/-- CCTL_CQ_DB (R627). -/
def execCctlCqDb (p : BitVec 7) (i : BitVec 12) (pk : Packet) (ans : Option Bool) (s : State) : Host.Outcome State Fault Refusal :=
  act s (fun d => d.cctlCmd p.toNat i.toNat pk ans 2)

/-- CCTL_CMD (R657). -/
def execCctlCmd (p : BitVec 7) (i : BitVec 12) (pk : Packet) (ans : Option Bool) (s : State) : Host.Outcome State Fault Refusal :=
  act s (fun d => d.cctlCmd p.toNat i.toNat pk ans 3)

/-- CQ_RECORD_RESEND (R628). -/
def execCqRecordResend (g : BitVec 12) (s : State) : Host.Outcome State Fault Refusal := act s (fun d => d.resendRecords g.toNat)

/-- START (R635). -/
def execStart (pk : Packet) (s : State) : Host.Outcome State Fault Refusal := act s (fun d => d.startRx pk)

/-- START_ACK (R632). -/
def execStartAck (pk : Packet) (s : State) : Host.Outcome State Fault Refusal := act s (fun d => d.startAckRx pk)

/-- CHUNK_ADMIT (R633 to R635). -/
def execChunkAdmit (g : BitVec 12) (s : State) : Host.Outcome State Fault Refusal := act s (fun d => d.admitChunk g.toNat)

/-- COLL_MEMBER_LATE (R637). -/
def execCollMemberLate (g : BitVec 12) (s : State) : Host.Outcome State Fault Refusal := act s (fun d => d.memberLate g.toNat)

/-- PARTIAL_RX (R642): a PARTIAL has come by a port, or from this die's own vats (port 64). -/
def execPartialRx (_p : BitVec 7) (pk : Packet) (s : State) : Host.Outcome State Fault Refusal := act s (fun d => d.partialRx pk)

/-- DONE (R645). -/
def execDone (pk : Packet) (s : State) : Host.Outcome State Fault Refusal := act s (fun d => d.doneRx pk)

/-- FIN (R646). -/
def execFin (pk : Packet) (s : State) : Host.Outcome State Fault Refusal := act s (fun d => d.finRx pk)

/-- DONE_FIN_REPEAT (R645). -/
def execDoneFinRepeat (g : BitVec 12) (c : BitVec 32) (s : State) : Host.Outcome State Fault Refusal :=
  act s (fun d => d.doneRepeat g.toNat c.toNat)

/-- CMD_FWD (R658). -/
def execCmdFwd (pk : Packet) (s : State) : Host.Outcome State Fault Refusal := act s (fun d => d.cmdFwdRx pk)

/-- CMD_FWD_ACK (R657). -/
def execCmdFwdAck (pk : Packet) (s : State) : Host.Outcome State Fault Refusal := act s (fun d => d.cmdAckRx pk)

/-- GROUP_STOP (R658). -/
def execGroupStop (c : Cls) (g : BitVec 12) (s : State) : Host.Outcome State Fault Refusal :=
  act s (fun d => d.onPage c .coll (g.toNat / 256) (fun d => d.collCommand c g.toNat 1))

/-- GROUP_ABORT (R660). -/
def execGroupAbort (c : Cls) (g : BitVec 12) (s : State) : Host.Outcome State Fault Refusal :=
  act s (fun d => d.onPage c .coll (g.toNat / 256) (fun d => d.collCommand c g.toNat 2))

/-- GROUP_RESUME (R657). -/
def execGroupResume (c : Cls) (g : BitVec 12) (s : State) : Host.Outcome State Fault Refusal :=
  act s (fun d => d.onPage c .coll (g.toNat / 256) (fun d => d.collCommand c g.toNat 3))

end Sys2Proof.Machine
end

