-- ==== Sys2Proof/Machine/PlanImage.lean ====
section
/-!
DEFINITION. Machine/PlanImage.lean: a plan image read from its bytes (spec 17, R709 to R727), each record with its offset in the image, and which
of its reserved bits are set.
-/
namespace Sys2Proof.Machine

/-- Bits of a number. -/
def nbits (n lsb w : Nat) : Nat := n / 2 ^ lsb % 2 ^ w

/-- `n` bytes of an image from an offset, as a number. -/
def imgNat (im : List Byte) (o n : Nat) : Nat := leNat ((im.drop o).take n)

/-- Offset and count of a section (R711). -/
def sectOf (im : List Byte) (i : Nat) : Nat × Nat := (imgNat im (0x30 + 8 * i) 4, imgNat im (0x34 + 8 * i) 4)

/-- The size of a TREE record (R716). -/
def treeSize (im : List Byte) (o : Nat) : Nat := (16 + 4 * imgNat im (o + 3) 1 + 2 * imgNat im (o + 4) 2 + 15) / 16 * 16

/-- The size of an RSET record (R722). -/
def rsetSize (im : List Byte) (o : Nat) : Nat := 64 + 48 * imgNat im (o + 5) 1

/-- The size of an RCP record (R723). -/
def rcpSize (im : List Byte) (o : Nat) : Nat := 16 + 16 * imgNat im (o + 2) 1

/-- The size of record `o` of a section. -/
def recordSize (im : List Byte) (sect o : Nat) : Nat :=
  match sect with
  | 0 => 32
  | 1 => 4
  | 2 => treeSize im o
  | 3 => 16
  | 4 => rsetSize im o
  | 5 => rcpSize im o
  | 6 => 32
  | 7 => 1
  | _ => 16

/-- The offsets of `n` records of a section from an offset on, and where they end. -/
def recordOffsets (im : List Byte) (sect : Nat) : Nat → Nat → List Nat × Nat
  | 0, o => ([], o)
  | n + 1, o =>
    let (l, e) := recordOffsets im sect n (o + recordSize im sect o)
    (o :: l, e)

/-- The records of a section; WDATA, whose records are bytes, is taken whole. A count beyond the image is cut to the image's length. -/
def sectRecords (im : List Byte) (i : Nat) : List Nat × Nat :=
  let (o, n) := sectOf im i
  if i = 7 then ([], o + n) else recordOffsets im i (min n im.length) o

/-- A GRP record. -/
def readGrp (im : List Byte) (o : Nat) : GrpRec :=
  let fl := imgNat im (o + 2) 1
  { group := nbits (imgNat im o 2) 0 12, home := nbits fl 0 2, hasq := nbits fl 2 1 = 1, lkind := nbits fl 3 1 = 1, nt := imgNat im (o + 3) 1
    leid := imgNat im (o + 4) 4, nmem := imgNat im (o + 8) 2, smallMax := imgNat im (o + 10) 2, lead := imgNat im (o + 12) 1
    early := imgNat im (o + 13) 1, holdMax := imgNat im (o + 14) 2, memOfs := imgNat im (o + 16) 4, chunkMax := imgNat im (o + 20) 4 }

/-- A TREE record. -/
def readTree (im : List Byte) (o : Nat) : TreeRec :=
  let fl := imgNat im (o + 2) 1
  let nk := imgNat im (o + 3) 1
  let nl := imgNat im (o + 4) 2
  let par := imgNat im (o + 6) 2
  let kid (i : Nat) : Nat × Nat × Nat :=
    let w := imgNat im (o + 16 + 4 * i) 4
    (nbits w 0 9, nbits w 9 2, nbits w 11 6)
  { group := nbits (imgNat im o 2) 0 12, tree := nbits fl 0 3, alt := nbits fl 3 1 = 1, root := nbits fl 4 1 = 1
    parent := (nbits par 0 9, nbits par 9 2), upPort := imgNat im (o + 8) 1, kids := (List.range nk).map kid
    locals := (List.range nl).map (fun i => imgNat im (o + 16 + 4 * nk + 2 * i) 2) }

/-- An RSV record. -/
def readRsv (im : List Byte) (o : Nat) : RsvRec :=
  let use := imgNat im (o + 10) 1
  { port := nbits (imgNat im o 1) 0 6, vc := imgNat im (o + 1) 1, tofs := imgNat im (o + 2) 2, start := imgNat im (o + 4) 2
    count := imgNat im (o + 6) 2, group := nbits (imgNat im (o + 8) 2) 0 12, tree := nbits use 0 3, alt := nbits use 3 1 = 1
    xdir := nbits use 4 1 = 1, kind := nbits use 5 2 }

/-- A stage entry. -/
def readStage (im : List Byte) (o : Nat) : StageRec :=
  let slot (i : Nat) : Nat × Nat × Nat :=
    let w := imgNat im (o + 8 + 4 * i) 4
    (nbits w 0 4, nbits w 8 16 + 1, nbits w 24 8)
  { rid := (List.range 4).map (fun i => imgNat im (o + i) 1), slots := (List.range 8).map slot }

/-- An RSET record. -/
def readRset (im : List Byte) (o : Nat) : RsetRec :=
  let m := imgNat im (o + 4) 1
  let st := imgNat im (o + 5) 1
  let staged := nbits m 4 1 = 1
  { group := nbits (imgNat im o 2) 0 12, rset := imgNat im (o + 2) 1, opmask := imgNat im (o + 3) 1, separate := nbits m 0 1 = 1
    scatter := nbits m 1 1 = 1, inputs := nbits m 2 1 = 1, fillSame := nbits m 3 1 = 1, staged := staged, ufmt := imgNat im (o + 6) 1
    rowlen := imgNat im (o + 8) 4, rb := imgNat im (o + 12) 4, nb := imgNat im (o + 16) 4, nq := imgNat im (o + 20) 4
    cunits := imgNat im (o + 24) 4, spill := imgNat im (o + 28) 1
    lv := ((im.drop (o + 32)).take (min 32 (if staged then st else imgNat im (o + 7) 1))).map (·.toNat)
    stages := (List.range st).map (fun i => readStage im (o + 64 + 48 * i)) }

/-- An RCP record. -/
def readRcp (im : List Byte) (o : Nat) : RcpRec :=
  { lvat := imgNat im o 1, rid := imgNat im (o + 1) 1, steps := (List.range (imgNat im (o + 2) 1)).map (fun i => imgNat im (o + 16 + 16 * i) 16) }

/-- An HDL record. -/
def readHdl (im : List Byte) (o : Nat) : HdlRec :=
  let fl := imgNat im (o + 2) 1
  { lvat := imgNat im o 1, handle := imgNat im (o + 1) 1, cls := nbits fl 0 1 = 1, padk := nbits fl 1 2, base := imgNat im (o + 4) 2
    len := imgNat im (o + 6) 2, padv := imgNat im (o + 8) 4, wofs := imgNat im (o + 12) 4, wlen := imgNat im (o + 16) 4 }

/-- A CAVE record: region, offset, length in 4 KiB units. -/
def readCave (im : List Byte) (o : Nat) : Nat × Nat × Nat := (imgNat im o 1, imgNat im (o + 4) 8, imgNat im (o + 12) 4)

/-- The shifted hash: SHA-384 over the image with BASE and bytes 0x80 to 0xAF set to 0 (R750). -/
def shiftedHash (im : List Byte) : Nat :=
  leNat ((sha384 (im.take 0x10 ++ List.replicate 8 0 ++ (im.drop 0x18).take 0x68 ++ List.replicate 48 0 ++ im.drop 0xB0)).take 8)

/-- The image read (R709 to R727). -/
def readImage (im : List Byte) : PlanImg :=
  { tid := imgNat im 6 1, repl := nbits (imgNat im 7 1) 0 1 = 1, len := imgNat im 8 4, planId := imgNat im 0x0C 4, base := imgNat im 0x10 8
    period := imgNat im 0x18 2, depth := imgNat im 0x1A 1, replaces := imgNat im 0x1E 1, pseed := BitVec.ofNat 64 (imgNat im 0x20 8)
    hash := BitVec.ofNat 64 (imgNat im 0x80 8), shash := BitVec.ofNat 64 (shiftedHash im), grps := (sectRecords im 0).1.map (readGrp im)
    mem := (sectRecords im 1).1.map (fun o => imgNat im o 4), trees := (sectRecords im 2).1.map (readTree im)
    rsvs := (sectRecords im 3).1.map (readRsv im), rsets := (sectRecords im 4).1.map (readRset im)
    rcps := (sectRecords im 5).1.map (readRcp im), hdls := (sectRecords im 6).1.map (readHdl im)
    wdata := (im.drop (sectOf im 7).1).take (sectOf im 7).2, caves := (sectRecords im 8).1.map (readCave im) }

/-! ### Reserved bits of records (R709) -/

/-- Are `n` bytes of the image zero? -/
def zeroAt (im : List Byte) (o n : Nat) : Bool := imgNat im o n == 0

/-- Are the reserved bits of a GRP record 0? -/
def grpClean (im : List Byte) (o : Nat) : Bool :=
  imgNat im o 2 < 4096 && imgNat im (o + 2) 1 < 16 && imgNat im (o + 4) 4 < 2 ^ 17 && zeroAt im (o + 24) 8

/-- Those of a TREE record, its padding among them. -/
def treeClean (im : List Byte) (o : Nat) : Bool :=
  let nk := imgNat im (o + 3) 1
  let nl := imgNat im (o + 4) 2
  let fin := 16 + 4 * nk + 2 * nl
  imgNat im o 2 < 4096 && imgNat im (o + 2) 1 < 32 && imgNat im (o + 6) 2 < 2048 && imgNat im (o + 8) 1 < 64 && zeroAt im (o + 9) 7
    && (List.range nk).all (fun i => decide (imgNat im (o + 16 + 4 * i) 4 < 2 ^ 17)) && zeroAt im (o + fin) (treeSize im o - fin)

/-- Those of an RSV record. -/
def rsvClean (im : List Byte) (o : Nat) : Bool :=
  imgNat im o 1 < 64 && imgNat im (o + 8) 2 < 4096 && imgNat im (o + 10) 1 < 128 && zeroAt im (o + 11) 5

/-- Those of an RSET record. -/
def rsetClean (im : List Byte) (o : Nat) : Bool :=
  imgNat im o 2 < 4096 && imgNat im (o + 2) 1 < 16 && imgNat im (o + 3) 1 % 2 == 0 && imgNat im (o + 3) 1 < 128 && imgNat im (o + 4) 1 < 32
    && zeroAt im (o + 29) 3
    && (List.range (imgNat im (o + 5) 1)).all (fun i =>
      let s := o + 64 + 48 * i
      zeroAt im (s + 4) 4 && zeroAt im (s + 40) 8 && (List.range 8).all (fun k => nbits (imgNat im (s + 8 + 4 * k) 1) 4 4 == 0))

/-- Those of an HDL record. -/
def hdlClean (im : List Byte) (o : Nat) : Bool :=
  imgNat im (o + 2) 1 < 8 && zeroAt im (o + 3) 1 && imgNat im (o + 4) 2 < 2 ^ 15 && imgNat im (o + 6) 2 < 2 ^ 15 && zeroAt im (o + 20) 12

/-- Those of the header (table Plan header). -/
def headClean (im : List Byte) : Bool :=
  imgNat im 7 1 < 2 && zeroAt im 0x16 2 && imgNat im 0x1C 2 < 2048 && zeroAt im 0x28 8 && zeroAt im 0x78 8 && zeroAt im 0xB0 16

/-- Does the image keep R709 and R711: its length, and its sections aligned, in order, inside it and apart? -/
def imageShaped (im : List Byte) (len room : Nat) : Bool :=
  let used := (List.range 9).filter (fun i => (sectOf im i).2 != 0)
  let ends := used.map (fun i => ((sectOf im i).1, (sectRecords im i).2))
  len % 16 == 0 && decide (0xC0 ≤ len ∧ len ≤ 2 ^ 23 ∧ len ≤ room)
    && (List.range 9).all (fun i => (sectOf im i).2 != 0 || (sectOf im i).1 == 0)
    && used.all (fun i => decide ((sectOf im i).2 ≤ len ∧ (sectOf im i).1 % 16 = 0 ∧ 0xC0 ≤ (sectOf im i).1))
    && ends.all (fun e => decide (e.2 ≤ len)) && (ends.zip (ends.drop 1)).all (fun p => decide (p.1.2 ≤ p.2.1))

/-- Does HASH hold (table Plan header)? -/
def hashOk (im : List Byte) : Bool :=
  sha384 (im.take 0x80 ++ List.replicate 48 0 ++ im.drop 0xB0) == (im.drop 0x80).take 48

end Sys2Proof.Machine
end

