-- ==== Sys2Proof/Machine/PlanCheck.lean ====
section
/-!
DEFINITION. Machine/PlanCheck.lean: validation of a plan image (spec 17, R728, R737 to R741, table Rejection codes): one check per code, in the order of
the table, each answering the offset of the record that fails.
-/
namespace Sys2Proof.Machine

/-- The first record that a property does not hold of. -/
def firstBad {α : Type} (os : List Nat) (rs : List α) (ok : Nat → α → Bool) : Option Nat :=
  ((os.zip rs).find? (fun x => !ok x.1 x.2)).map (fun x => x.1)

/-- A condition on the header: offset 0 when it fails. -/
def headIf (ok : Bool) : Option Nat := if ok then none else some 0

/-- What validation looks at: the image's bytes and records, its first page, and the other loaded plans with their slots (R737). -/
structure PlanCtx where
  im : List Byte
  img : PlanImg
  page : Nat
  rest : List (Nat × PlanImg)
  deriving DecidableEq, Repr

/-- Offsets of the records of a section. -/
def PlanCtx.ofs (x : PlanCtx) (i : Nat) : List Nat := (sectRecords x.im i).1

/-- The GRP record of a group in the image. -/
def PlanCtx.grp (x : PlanCtx) (g : Nat) : Option GrpRec := x.img.grps.find? (fun r => r.group == g)

/-- The TREE record in the image. -/
def PlanCtx.tree (x : PlanCtx) (g t : Nat) (alt : Bool) : Option TreeRec :=
  x.img.trees.find? (fun r => r.group == g && r.tree == t && r.alt == alt)

/-- Members of a group as the image lists them. -/
def imgMembers (i : PlanImg) (g : GrpRec) : List Nat := (i.mem.drop g.memOfs).take g.nmem

/-! ### Step words (R496, R500, R506, R550, R551, R585, R684, R694, R702) -/

/-- An order key of an FP32 bit pattern that is not NaN, −0 below +0. -/
def fp32Key (b : Nat) : Int := if 2 ^ 31 ≤ b then -Int.ofNat (b - 2 ^ 31) - 1 else Int.ofNat b

/-- Is an FP32 bit pattern a NaN? -/
def fp32Nan (b : Nat) : Bool := decide (0x7F800000 < b % 2 ^ 31)

/-- The op-specific bits that an op names, as (lowest bit, width). -/
def opBits : Nat → List (Nat × Nat)
  | 0x1 => [(64, 3)]
  | 0x3 => [(64, 2)]
  | 0x4 => [(64, 1), (96, 32)]
  | 0x5 => [(64, 2)]
  | 0x6 => [(64, 2)]
  | 0x7 => [(96, 32)]
  | 0x8 => [(64, 10)]
  | 0x9 => [(64, 2)]
  | 0xA => [(65, 1)]
  | 0xC => [(64, 64)]
  | 0xD => [(64, 17)]
  | 0xE => [(64, 2), (80, 32)]
  | 0xF => [(64, 3)]
  | 0x10 => [(64, 4)]
  | _ => []

/-- Are the reserved bits of a step word 0 (R506)? -/
def stepClean (w : Nat) : Bool :=
  let named := (opBits (swOp w)).foldl (fun m b => m + (2 ^ b.2 - 1) * 2 ^ b.1) 0
  swBits w 39 1 == 0 && swBits w 55 9 == 0 && (w / 2 ^ 64 &&& (2 ^ 64 - 1 - named / 2 ^ 64)) % 2 ^ 64 == 0

/-- Are the codes of a step word defined, and MODE where it may be (R506)? -/
def stepCodes (w : Nat) : Bool :=
  decide (1 ≤ swOp w ∧ swOp w ≤ 0x10 ∧ swFin w ≠ 0xF ∧ swFout w ≠ 0xF ∧ swPasses w ≠ 0)
    && (!swMode w || ((swOp w == 4 || swOp w == 5) && decide (swBits w 40 15 ≤ 15)))
    && (match swOp w with
      | 0x3 => swBits w 64 2 != 3
      | 0x5 => swBits w 64 2 != 3 && ((swBits w 64 2 == 2) == swMode w)
      | 0x9 => swBits w 64 1 == 1 || decide (0xA ≤ swFout w ∧ swFout w ≤ 0xD)
      | 0xE => decide (swBits w 64 2 ≤ 1)
      | _ => true)

/-- Does a step write no region that it reads (R506, R684)? -/
def stepApart (w : Nat) : Bool :=
  let hs := namedHandles w
  let out := (hs.filter (fun h => !h.2)).map (fun h => h.1)
  let ins := (hs.filter (fun h => h.2)).map (fun h => h.1)
  out.all (fun h => !ins.contains h) && (swOp w != 6 || swHout w != swHaux w)

/-- The formats a step may use (R500, R550, R702). -/
def stepFormats (w : Nat) : Bool :=
  let op := swOp w
  let wide (f : Nat) : Bool := f == 0 || f == 0xA || f == 0xE
  let mover := op == 1 || op == 0xF || op == 0x10
  (!wide (swFin w) || mover || op == 2 || op == 3 || op == 0xB)
    && (swFout w != 0xE || (op == 3 && swBits w 64 2 == 0) || op == 4 || op == 5 || op == 0xB || mover)
    && !(op == 0xA && swBits w 65 1 == 1 && isMx (swFin w)) && !(op == 9 && swBits w 65 1 == 1 && (isMx (swFout w) || swBits w 64 1 == 1))

/-- What single ops ask of their constants (R551, R694). -/
def stepConsts (w : Nat) : Bool :=
  match swOp w with
  | 0xC => !fp32Nan (swBits w 64 32) && !fp32Nan (swBits w 96 32) && decide (fp32Key (swBits w 64 32) ≤ fp32Key (swBits w 96 32))
  | 0x7 => decide (0 < swBits w 96 32 ∧ swBits w 96 32 ≤ 0x7F800000) && swRnd w == 0 && swFout w == 1
  | _ => true

/-- Has a pass the scan that R496 asks, given the steps before it, latest first? -/
def scanBefore (w : Nat) : List Nat → Bool
  | [] => false
  | p :: r =>
    if swOp p = 2 then
      swHin p == swHin w && swHaux p == swHaux w && swAuxv p == swAuxv w && swT p == swT w && swFin p == swFin w && swPasses p == swPasses w
    else if (namedHandles p).any (fun h => !h.2 && (h.1 == swHin w || (swAuxv w && h.1 == swHaux w))) then false
    else scanBefore w r

/-- Are the steps of a recipe valid (R506)? `pat` says which handles pad with a pattern (R585). -/
def recipeOk (steps : List Nat) (pat : Nat → Bool) : Bool :=
  steps.any swLast && (List.range steps.length).all (fun i =>
    let w := steps.getD i 0
    stepClean w && stepCodes w && stepApart w && stepFormats w && stepConsts w
      && (!isPass w || scanBefore w (steps.take i).reverse) && !(swOp w == 1 && swFin w == 0xE && pat (swHout w)))

/-- Does a recipe read only regions it has written, or W-class ones (R674)? -/
def readsWritten (steps : List Nat) (wcls : Nat → Bool) : Bool :=
  (steps.foldl (fun (a : Bool × List Nat) w =>
    let hs := namedHandles w
    let ok := hs.all (fun h => !h.2 || a.2.contains h.1 || wcls h.1)
    (a.1 && ok, a.2 ++ (hs.filter (fun h => !h.2)).map (fun h => h.1))) (true, [])).1

/-! ### Costs (R740) -/

/-- Vat cycles of a recipe by unit, over a tile whose slots hold `elems` values in `bytes` bytes (table Step costs, log entry 32). -/
def recipeCost (steps : List Nat) (elems bytes : Nat) : Nat × Nat × Nat :=
  let init : (Nat × Nat × Nat) × SMap (Nat × Nat) := ((0, 0, 0), [])
  let go (a : (Nat × Nat × Nat) × SMap (Nat × Nat)) (i : Nat) : (Nat × Nat × Nat) × SMap (Nat × Nat) :=
    let w := steps.getD i 0
    let (c, regs) := a
    let hin := smapGet (elems, bytes) regs (swHin w)
    match swUnit w with
    | 0 => ((c.1 + 4 + (bytes + 511) / 512, c.2.1, c.2.2), smapSet (0, 0) regs (swHout w) (elems, bytes))
    | 2 => ((c.1, c.2.1, c.2.2 + 4 + (hin.2 + 511) / 512), regs)
    | _ =>
      let perEl := decide (9 ≤ swOp w)
      let e := if perEl then hin.1 else (hin.1 + swT w - 1) / swT w
      let regs := if swOp w = 2 then regs else smapSet (0, 0) regs (swHout w) (e, tileBytes (swFout w) e false)
      ((c.1, c.2.1 + arrayCycles w (steps.drop (i + 1)) hin.2 e, c.2.2), regs)
  ((List.range steps.length).foldl go init).1

/-! ### The checks -/

namespace Die

/-- 0x0A: GRP records (R614, table Group record). -/
def checkGroups (d : Die) (x : PlanCtx) : Option Nat :=
  firstBad (x.ofs 0) x.img.grps (fun o g =>
    grpClean x.im o && decide (1 ≤ g.nt ∧ g.nt ≤ 6 ∧ 1 ≤ g.nmem ∧ g.nmem ≤ 4096 ∧ g.smallMax ≤ 512 ∧ g.lead ≠ 1 ∧ g.early ≤ 16)
      && decide ((g.holdMax = 0 ∨ 64 ≤ g.holdMax) ∧ 1 ≤ g.chunkMax ∧ g.chunkMax ≤ 2 ^ 22) && (g.lkind || g.leid == 0)
      && (x.img.grps.filter (fun h => h.group == g.group)).length == 1 && !x.rest.any (fun p => p.2.grps.any (fun h => h.group == g.group))
      && (!g.lkind || (g.hasq == (g.leid / 256 == d.selfNode))) && (!g.hasq || g.home == d.pos || d.diePresent g.home)
      && (!g.lkind || !d.onThisDie (BitVec.ofNat 17 g.leid) || d.tenPort x.img.tid (g.leid % 64)))

/-- 0x0B: members (R613, R714). -/
def checkMembers (d : Die) (x : PlanCtx) : Option Nat :=
  let bad1 := firstBad (x.ofs 1) x.img.mem (fun _ e =>
    decide (e < 2 ^ 17) && (!d.onThisDie (BitVec.ofNat 17 e) || (d.isDrop (e % 64) && d.tenPort x.img.tid (e % 64))))
  bad1.or (firstBad (x.ofs 0) x.img.grps (fun _ g =>
    decide (g.memOfs + g.nmem ≤ x.img.mem.length) && (imgMembers x.img g).eraseDups.length == g.nmem))

/-- The node that lies next in a direction (R741). -/
def neighbour (d : Die) (dir : Nat) : Option Nat :=
  let k := dir / 2
  let c := nodeCoord d.selfNode k
  let n := d.size k
  let step := 8 ^ (2 - k)
  let to_ (c' : Nat) : Nat := d.selfNode + c' * step - c * step
  if 2 < k || n ≤ 1 then none
  else if dir % 2 = 0 then (if c + 1 < n then some (to_ (c + 1)) else if d.get R.cascTopoMode = 2 then some (to_ 0) else none)
  else if 0 < c then some (to_ (c - 1)) else if d.get R.cascTopoMode = 2 then some (to_ (n - 1)) else none

/-- Does a port lead to a die, as R741 asks? -/
def leadsTo (d : Die) (p node die : Nat) : Bool :=
  if node = d.selfNode then d.isStack p && d.attrOf p == die else d.isTrunk p && d.neighbour (d.attrOf p) == some node

/-- 0x0C: trees (R716, R717, R741). -/
def checkTrees (d : Die) (x : PlanCtx) : Option Nat :=
  firstBad (x.ofs 2) x.img.trees (fun o t =>
    treeClean x.im o && decide (t.kids.length ≤ 32 ∧ t.locals.length ≤ 64) && (t.tree == 6 || decide (t.tree < 6))
      && (match x.grp t.group with
        | none => false
        | some g =>
          let ms := imgMembers x.img g
          let here := (List.range ms.length).filter (fun m => d.onThisDie (BitVec.ofNat 17 (ms.getD m 0)))
          (t.tree == 6 || decide (t.tree < g.nt))
            && (if t.root then t.parent == (0, 0) && t.upPort == 0 else d.leadsTo t.upPort t.parent.1 t.parent.2)
            && t.kids.all (fun k => d.leadsTo k.2.2 k.1 k.2.1) && t.locals.eraseDups.length == t.locals.length
            && t.locals.all here.contains && here.all t.locals.contains
            && (!t.root || decide (here.length = ms.length) || !t.kids.isEmpty))
      && (x.img.trees.filter (fun u => u.group == t.group && u.tree == t.tree && u.alt == t.alt)).length == 1
      && (x.tree t.group t.tree (!t.alt)).isSome)

/-- Are two reservations in ascending order (R718)? -/
def rsvLe (a b : RsvRec) : Bool :=
  let key (r : RsvRec) : Nat := ((r.port * 2 + r.xdir.toNat) * 2 ^ 16 + r.tofs) * 2 ^ 16 + r.start
  decide (key a ≤ key b)

/-- 0x0D: reservations (R718, R719, R741). -/
def checkRsvs (d : Die) (x : PlanCtx) : Option Nat :=
  let l := x.img.rsvs
  let one := firstBad (x.ofs 3) l (fun o r =>
    rsvClean x.im o && r.vc == 2 && decide (r.tofs < x.img.period ∧ 161 ≤ r.start ∧ 1 ≤ r.count ∧ r.start + r.count + 1 ≤ d.positions)
      && (x.grp r.group).isSome && (!r.xdir || r.kind == 0)
      && (match r.kind with
        | 0 => d.isDrop r.port
        | 3 => d.isDrop r.port
        | k => match x.tree r.group r.tree r.alt with
          | some t => if k = 1 then !t.root && t.upPort == r.port else t.kids.any (fun y => y.2.2 == r.port)
          | none => false))
  one.or (((x.ofs 3).drop 1).zip (l.zip (l.drop 1)) |>.findSome? (fun y => if rsvLe y.2.1 y.2.2 then none else some y.1))

/-- Are two plans aligned (R738)? -/
def aligned (a b : PlanImg) : Bool := a.period == b.period && a.base % max 1 a.period == b.base % max 1 b.period

/-- Do two reservations meet, when their plans are aligned or not (R739)? -/
def rsvMeet (same : Bool) (a b : RsvRec) : Bool :=
  a.port == b.port && a.xdir == b.xdir && (!same || a.tofs == b.tofs) && decide (a.start < b.start + b.count ∧ b.start < a.start + a.count)

/-- 0x0E: no overlap (R739). -/
def checkOverlap (x : PlanCtx) : Option Nat :=
  let l := x.img.rsvs
  let n := l.length
  ((List.range n).find? (fun i =>
    let r := l.getD i { port := 0, vc := 0, tofs := 0, start := 0, count := 0, group := 0, tree := 0, alt := false, xdir := false, kind := 0 }
    (l.take i).any (rsvMeet true r) || x.rest.any (fun p => p.2.rsvs.any (rsvMeet (aligned x.img p.2) r)))).map (fun i => (x.ofs 3).getD i 0)

/-- The reserved count of a plan on a direction of a port at an offset. -/
def reservedAt (i : PlanImg) (p : Nat) (xdir : Bool) (o : Nat) : Nat :=
  ((i.rsvs.filter (fun r => r.port == p && r.xdir == xdir && r.tofs == o)).map (fun r => r.count)).sum

/-- The greatest reserved count of plans on a direction of a port: aligned plans add offset by offset, others by their greatest count (R738). -/
def reservedPeak : Nat → List PlanImg → Nat → Bool → Nat
  | 0, _, _, _ => 0
  | _, [], _, _ => 0
  | n + 1, i :: r, p, xdir =>
    let cls := i :: r.filter (fun j => aligned i j)
    let peak := (List.range i.period).foldl (fun m o => max m ((cls.map (fun j => reservedAt j p xdir o)).sum)) 0
    peak + reservedPeak n (r.filter (fun j => !aligned i j)) p xdir

/-- 0x0F: the limit of R65 under R738. -/
def checkLimit (d : Die) (x : PlanCtx) : Option Nat :=
  let all := x.img :: x.rest.map (fun p => p.2)
  firstBad (x.ofs 3) x.img.rsvs (fun _ r => decide (reservedPeak all.length all r.port r.xdir ≤ d.positions * 9 / 10))

/-- 0x10: receive reservations for every member port at every offset (R720). -/
def checkChunk (d : Die) (x : PlanCtx) : Option Nat :=
  firstBad (x.ofs 0) x.img.grps (fun _ g =>
    ((imgMembers x.img g).filter (fun e => d.onThisDie (BitVec.ofNat 17 e))).all (fun e =>
      (List.range x.img.period).all (fun o =>
        let sum := ((x.img.rsvs.filter (fun r => r.port == e % 64 && r.xdir && r.tofs == o && r.group == g.group)).map (fun r => r.count)).sum
        decide ((g.chunkMax + 4095) / 4096 * 65 ≤ sum))))

/-- Does a recipe set suit the operations it names (R649): only an OPERATOR may have members that do not contribute, and a reduction stacks its
sources? -/
def rsetSuits (r : RsetRec) : Bool :=
  let has (op : Nat) : Bool := r.opmask.testBit op
  r.opmask != 0 && ((List.range 6).all (fun op => !has op || r.inputs)) && (!(has 1 || has 2) || !r.separate)

/-- The recipes that a set names for a stage and a logical vat. -/
def rsetRids (r : RsetRec) (s : StageRec) : List Nat :=
  if r.nq ≤ 1 then s.rid.take 1 else if r.nq = 2 then [s.rid.getD 1 0xFF, s.rid.getD 3 0xFF] else s.rid.drop 1

/-- The logical vats of a stage. -/
def rsetLvats (r : RsetRec) (s : Nat) : List Nat := if r.staged then [r.lv.getD s 0] else r.lv

/-- The steps of a recipe of the image. -/
def imgSteps (x : PlanCtx) (lv rid : Nat) : List Nat :=
  match x.img.rcps.find? (fun c => c.lvat == lv && c.rid == rid) with
  | some c => c.steps
  | none => []

/-- The cuttings of a recipe set on this die, one per tree and recipe of stage 0, with their sources and the units of a whole chunk (R669). -/
def rsetCuts (x : PlanCtx) (r : RsetRec) : List (Cut × Nat × Nat) :=
  match x.grp r.group, r.stages with
  | some g, st :: _ =>
    let lv := (rsetLvats r 0).getD 0 0
    (rsetRids r st).flatMap (fun rid =>
      let steps := imgSteps x lv rid
      (x.img.trees.filter (fun t => t.group == r.group)).map (fun t =>
        let op := rowOp steps
        let units := if op = 0 then g.chunkMax / unitBytes r.ufmt * unitVals r.ufmt else g.chunkMax / max 1 (rowLocal op r steps)
        let nk := if r.opmask.testBit 1 || r.opmask.testBit 2 || r.opmask.testBit 6 then t.kids.length else 0
        (cutOf r steps t.locals.length nk units, g.nmem, units)))
  | _, _ => []

/-- Is TU of a row operator or of an element cutting 0 (R669)? -/
def cutZero (c : Cut) : Bool := c.tu == 0

/-- 0x11: recipe sets (R649, R669, R672, R722). -/
def checkRsets (x : PlanCtx) : Option Nat :=
  firstBad (x.ofs 4) x.img.rsets (fun o r =>
    rsetClean x.im o && (x.grp r.group).isSome && (x.img.rsets.filter (fun q => q.group == r.group && q.rset == r.rset)).length == 1
      && decide (r.ufmt < 0xF) && (if r.staged then decide (2 ≤ r.stages.length ∧ r.stages.length ≤ 8) && imgNat x.im (o + 7) 1 == 0
        else r.stages.length == 1 && decide (1 ≤ imgNat x.im (o + 7) 1 ∧ imgNat x.im (o + 7) 1 ≤ 32))
      && [r.rowlen, r.rb, r.nb, r.nq].all (fun n => decide (1 ≤ n ∧ n ≤ 65536)) && r.lv.all (fun l => decide (l < 32)) && rsetSuits r
      && (r.nq == 1 || x.img.caves.any (fun c => c.1 == r.spill))
      && (List.range r.stages.length).all (fun s => match r.stages[s]? with
        | some st =>
          (rsetLvats r s).all (fun lv => (rsetRids r st).all (fun rid => rid != 0xFF && !(imgSteps x lv rid).isEmpty))
            && st.slots.all (fun y => decide (y.1 ≤ 9))
        | none => true)
      && (rsetCuts x r).all (fun c => !cutZero c.1 && decide ((if r.separate then c.2.1 * c.1.ntc else c.1.ntc) ≤ 65536)))

/-- Handles of a logical vat in the image. -/
def hdlOf (x : PlanCtx) (lv h : Nat) : Option HdlRec := x.img.hdls.find? (fun y => y.lvat == lv && y.handle == h)

/-- 0x12: step words. -/
def checkSteps (x : PlanCtx) : Option Nat :=
  firstBad (x.ofs 5) x.img.rcps (fun o c =>
    zeroAt x.im (o + 3) 13 && decide (1 ≤ c.steps.length ∧ c.steps.length ≤ 32)
      && (x.img.rcps.filter (fun q => q.lvat == c.lvat && q.rid == c.rid)).length == 1
      && recipeOk c.steps (fun h => match hdlOf x c.lvat h with
        | some y => y.padk == 1
        | none => false))

/-- 0x13: regions read before they are written (R674). -/
def checkReads (x : PlanCtx) : Option Nat :=
  firstBad (x.ofs 5) x.img.rcps (fun _ c => readsWritten c.steps (fun h => match hdlOf x c.lvat h with
    | some y => y.cls
    | none => false))

/-- The logical vats that an image names. -/
def lvatsOf (i : PlanImg) : List Nat :=
  (i.rcps.map (fun c => c.lvat) ++ i.hdls.map (fun h => h.lvat) ++ i.rsets.flatMap (fun r => r.lv)).eraseDups

/-- 0x14: logical vats (R515, R780). -/
def checkVats (d : Die) (x : PlanCtx) : Option Nat :=
  let ls := lvatsOf x.img
  let mine := ((x.rest.filter (fun p => p.2.tid == x.img.tid)).flatMap (fun p => lvatsOf p.2) ++ ls).eraseDups
  headIf (ls.all (fun l => (d.holder l).isSome) && decide (mine.length ≤ d.get R.tenVatVatmax x.img.tid))

/-- The tiles of every stage that one chunk of a group asks of a logical vat, as cycles by unit: the greatest over its sets and trees. -/
def groupCost (i : PlanImg) (g : GrpRec) (lv : Nat) : Nat × Nat × Nat :=
  let x : PlanCtx := { im := [], img := i, page := 0, rest := [] }
  let maxc (a b : Nat × Nat × Nat) : Nat × Nat × Nat := (max a.1 b.1, max a.2.1 b.2.1, max a.2.2 b.2.2)
  (i.rsets.filter (fun r => r.group == g.group)).foldl (fun m r =>
    (rsetCuts x r).foldl (fun m c =>
      let per := (List.range r.stages.length).foldl (fun (a : Nat × Nat × Nat) s =>
        let tiles := if r.staged then (if r.lv.getD s 0 = lv then c.1.ntc else 0)
          else ((List.range c.1.ntc).filter (fun n => r.lv.getD (n % max 1 r.lv.length) 0 == lv)).length
        let rid := match r.stages[s]? with
          | some st => (rsetRids r st).getD 0 0xFF
          | none => 0xFF
        let n := min c.1.tu c.2.2
        let k := recipeCost (imgSteps x lv rid) n (n * unit256 r.ufmt / 256)
        (a.1 + tiles * k.1, a.2.1 + tiles * k.2.1, a.2.2 + tiles * k.2.2)) (0, 0, 0)
      maxc m per) m) (0, 0, 0)

/-- 0x15: the budget of R75 per logical vat, each unit by itself (R740, log entry 32). -/
def checkBudget (d : Die) (x : PlanCtx) : Option Nat :=
  let lim := d.tickCycles / 2 * 9 / 10
  let all := x.img :: x.rest.map (fun p => p.2)
  headIf ((lvatsOf x.img).all (fun lv =>
    let t := all.foldl (fun (a : Nat × Nat × Nat) i => i.grps.foldl (fun (a : Nat × Nat × Nat) g =>
      let c := groupCost i g lv
      (a.1 + c.1, a.2.1 + c.2.1, a.2.2 + c.2.2)) a) (0, 0, 0)
    decide (t.1 ≤ lim ∧ t.2.1 ≤ lim ∧ t.2.2 ≤ lim)))

/-- 0x16: stages and tree levels that this die can see fit in DEPTH (log entry 32). -/
def checkDepth (x : PlanCtx) : Option Nat :=
  firstBad (x.ofs 4) x.img.rsets (fun _ r =>
    (x.img.trees.filter (fun t => t.group == r.group)).all (fun t =>
      decide (r.stages.length + (if t.kids.isEmpty then 0 else 1) + (if t.root then 0 else 1) ≤ x.img.depth)))

/-- The recipe-memory indices that loaded plans hold on a logical vat. -/
def usedSteps (d : Die) (x : PlanCtx) (lv : Nat) : List Nat :=
  x.rest.flatMap (fun p => ((d.plan p.1).placed.filter (fun q => q.1 == lv)).flatMap (fun q =>
    match p.2.rcps.find? (fun c => c.lvat == lv && c.rid == q.2.1) with
    | some c => (List.range c.steps.length).map (fun i => q.2.2 + i)
    | none => []))

/-- Recipes placed in record order, each at the lowest free run (R724); `none` when one finds no room. -/
def placeRecipes (d : Die) (x : PlanCtx) : List RcpRec → List (Nat × Nat × Nat) → Option (List (Nat × Nat × Nat))
  | [], done => some done
  | c :: r, done =>
    let mine := (done.filter (fun q => q.1 == c.lvat)).flatMap (fun q => (List.range (imgSteps x q.1 q.2.1).length).map (fun i => q.2.2 + i))
    let used := usedSteps d x c.lvat ++ mine
    match (List.range 32).find? (fun a => decide (a + c.steps.length ≤ 32) && (List.range c.steps.length).all (fun i => !used.contains (a + i))) with
    | none => none
    | some a => placeRecipes d x r (done ++ [(c.lvat, c.rid, a)])

/-- Do two regions meet, in units of 64 bytes (R580)? -/
def hdlMeet (a b : HdlRec) : Bool := decide (a.base < b.base + b.len + 1 ∧ b.base < a.base + a.len + 1)

/-- 0x18: handles and regions (R580, R686, R726). -/
def checkHandles (x : PlanCtx) : Option Nat :=
  let bad1 := firstBad (x.ofs 6) x.img.hdls (fun o h =>
    let peers := (x.img.hdls.filter (fun y => y.lvat == h.lvat && y != h)) ++ x.rest.flatMap (fun p => p.2.hdls.filter (fun y => y.lvat == h.lvat))
    hdlClean x.im o && decide (h.lvat < 32 ∧ h.handle < 64 ∧ 8 * (h.base + h.len + 1) ≤ 262144)
      && (x.img.hdls.filter (fun y => y.lvat == h.lvat && y.handle == h.handle)).length == 1
      && peers.all (fun y => y.handle != h.handle && !hdlMeet y h)
      && (h.wofs == 0xFFFFFFFF || (h.cls && decide (h.wlen ≤ 64 * (h.len + 1) ∧ h.wofs + h.wlen ≤ x.img.wdata.length))))
  bad1.or (firstBad (x.ofs 4) x.img.rsets (fun _ r =>
    r.stages.all (fun st => (rsetRids r st).all (fun rid => (rsetLvats r 0).all (fun lv =>
      (imgSteps x lv rid).all (fun w => swOp w != 6 || decide (stateRowBytes r.ufmt (r.rowlen + 1) ≤ 65536)))))))

/-- 0x19: cave regions (R727). -/
def checkCaves (d : Die) (x : PlanCtx) : Option Nat :=
  firstBad (x.ofs 8) x.img.caves (fun o c =>
    zeroAt x.im (o + 1) 3 && c.2.1 % 4096 == 0 && (c.2.2 == 0 || (d.caveAddr (.tenant x.img.tid) c.2.1 (4096 * c.2.2)).isSome)
      && (x.img.caves.filter (fun y => y.1 == c.1)).length == 1)

/-- Pages of plan memory that an image takes. -/
def pagesOf (len : Nat) : Nat := (len + 4095) / 4096

/-- 0x09: plan memory of loaded slots. -/
def checkSpace (d : Die) (x : PlanCtx) : Option Nat :=
  headIf (x.rest.all (fun p =>
    let o := (d.plan p.1).ofs
    decide (x.page + pagesOf x.img.len ≤ o ∨ o + pagesOf p.2.len ≤ x.page)))

/-- 0x08: the plan that is replaced (R733). -/
def checkRepl (d : Die) (i : PlanImg) : Option Nat :=
  headIf (!i.repl || match (d.plan i.replaces).img with
    | some j => ((d.plan i.replaces).state == 2 || (d.plan i.replaces).state == 3) && j.tid == i.tid
    | none => false)

/-- The rest of the header (codes 0x04 to 0x07). -/
def checkHead (d : Die) (im : List Byte) (i : PlanImg) : Option Nat :=
  let t := imgNat im 0x1C 2
  if t % 2048 ≠ d.selfNode + 512 * d.pos then some 0x04
  else if imgNat im 0x1B 1 ≠ d.tick.len.toNat then some 0x05
  else if !headClean im || !decide (1 ≤ i.period ∧ i.period ≤ 1024 ∧ 1 ≤ i.depth ∧ i.depth ≤ 64 ∧ imgNat im 0x1F 1 ≤ 32)
      || (i.repl && decide (15 < i.replaces)) || !d.tenActive i.tid then some 0x06
  else if i.base < d.tick.count.toNat + 128 then some 0x07
  else none

/-- The memory of a plan image as its LEN gives it. -/
def planBytes (d : Die) (page n : Nat) : List Byte := (List.range n).map (fun k => smapGet 0 d.plans.mem (4096 * page + k))

/-- Validation of the image at a page, in the order of the table Rejection codes: the code and the offset of what failed, or the image and where its
recipes go (R724, R728). -/
def validate (d : Die) (page : Nat) : (Nat × Nat) ⊕ (PlanImg × List (Nat × Nat × Nat)) :=
  let hd := d.planBytes page 0xC0
  let len := imgNat hd 8 4
  let room := 2 ^ 23 - 4096 * page
  if imgNat hd 0 4 ≠ 0x4E4C504B ∨ imgNat hd 4 2 ≠ 1 then .inl (0x01, 0)
  else
    let im := d.planBytes page (min len room)
    if !imageShaped im len room then .inl (0x02, 0)
    else if !hashOk im then .inl (0x03, 0)
    else
      let i := readImage im
      match d.checkHead im i with
      | some c => .inl (c, 0)
      | none =>
        let rest := (d.plansIn [2, 3]).filter (fun p => !(i.repl && p.1 == i.replaces))
        let x : PlanCtx := { im := im, img := i, page := page, rest := rest }
        let place := d.placeRecipes x i.rcps []
        let checks : List (Nat × Option Nat) :=
          [(0x08, d.checkRepl i), (0x09, d.checkSpace x), (0x0A, d.checkGroups x), (0x0B, d.checkMembers x), (0x0C, d.checkTrees x),
           (0x0D, d.checkRsvs x), (0x0E, checkOverlap x), (0x0F, d.checkLimit x), (0x10, d.checkChunk x), (0x11, checkRsets x),
           (0x12, checkSteps x), (0x13, checkReads x), (0x14, d.checkVats x), (0x15, d.checkBudget x), (0x16, checkDepth x),
           (0x17, headIf place.isSome), (0x18, checkHandles x), (0x19, d.checkCaves x)]
        match checks.findSome? (fun c => c.2.map (fun o => (c.1, o))) with
        | some e => .inl e
        | none => .inr (i, place.getD [])

end Die
end Sys2Proof.Machine
end

