-- ==== Sys2Proof/Machine/Plans.lean ====
section
/-!
DEFINITION. Machine/Plans.lean: plans are loaded, validated, activated, replaced and unloaded (spec 17, R728 to R736; spec 11, R503; spec 13, R578 to R581).
-/
namespace Sys2Proof.Machine
namespace Die

/-- PLAN.RES at the end of a command. -/
def planDone (d : Die) (code : Nat) : Die := ((d.set R.planResCode code).setBit R.planResBusy false).setBit R.planResDone true

/-- The regions of a plan on the vats that hold its logical numbers, as (vat, first word, words). -/
def planRegions (d : Die) (s : Nat) : List (Nat × Nat × Nat) :=
  match (d.plan s).img with
  | none => []
  | some i => i.hdls.filterMap (fun h => (d.holder h.lvat).map (fun v => (v, 8 * h.base, 8 * (h.len + 1))))

/-- Is some region of a plan still under wipe (R581, R732)? -/
def planWiping (d : Die) (s : Nat) : Bool :=
  (d.planRegions s).any (fun r => (d.vat r.1).wipes.any (fun w => decide (w.1 < r.2.1 + r.2.2 ∧ r.2.1 < w.1 + w.2)))

/-- The wipes of a plan's regions start (R581, R587). -/
def wipePlan (d : Die) (s : Nat) : Die := d.forAll (d.planRegions s) (fun d r => d.startWipe r.1 r.2.1 r.2.2)

/-- Slots whose unload wipes have ended become EMPTY (R734). -/
def freeSlots (d : Die) : Die :=
  d.forAll ((List.range 16).filter (fun s => (d.plan s).state == 4 && !d.planWiping s)) (fun d s =>
    (d.modPlan s (fun _ => PlanSlot.empty)).raise I.planUnloaded)

/-- A PENDING slot leaves: its regions are wiped, and it is EMPTY once that has ended (R734). -/
def leaveSlot (d : Die) (s : Nat) : Die := ((d.wipePlan s).modPlan s (fun p => { p with state := 4, leaving := false })).freeSlots

/-- The group entries of a plan become invalid; what was held for collectives to come is returned (R610, R734). -/
def dropGroups (d : Die) (s : Nat) : Die :=
  let gs := (d.coll.groups.filter (fun e => match e.2.ent with
    | some x => x.slot == s
    | none => false)).map (fun e : Nat × GroupSt => e.1)
  d.forAll gs (fun d g =>
    let d := (d.dropRun g 1).dropEarly g (fun _ => true) 4
    let d := d.setRundown (.group (BitVec.ofNat 12 g)) RunDown.none
    d.modGroup g (fun _ => GroupSt.init))

/-- An ACTIVE plan is unloaded at an edge: groups invalid, recipes removed, regions wiped, reservations released (R503, R734, R743). -/
def unloadPlan (d : Die) (s : Nat) : Die :=
  let d := d.dropGroups s
  let d := d.forAll (List.range 32) (fun d v =>
    let keep (e : Nat × Option (Nat × Nat)) : Bool := match e.2 with
      | some x => x.2 != s
      | none => false
    let d := d.modVat v (fun t => { t with recipe := t.recipe.filter keep })
    d.wipeHandles v (fun e => e.slot == s))
  ((d.modPlan s (fun p => { p with state := 4, leaving := false })).freeSlots).fpTouch

/-- The groups of a slot. -/
def slotGroups (d : Die) (s : Nat) : List Nat :=
  match (d.plan s).img with
  | some i => i.grps.map (fun g => g.group)
  | none => []

/-- May the plan of a slot be unloaded: its groups IDLE or STOPPED, and no completion record held (R734)? -/
def mayUnload (d : Die) (s : Nat) (held : Bool) : Bool :=
  (d.slotGroups s).all (fun g => (d.groupState g == 0 || d.groupState g == 3) && (!held || (d.group g).heldRec.isNone))

/-- PLAN.CMD with OP = LOAD (R728). A slot that is not EMPTY takes no load (log entry 33). -/
def planLoad (d : Die) (c : Cls) (w : Word) (inj : Bool := false) : Die :=
  let s := fieldGet w 4 4
  if fieldGet w 0 2 ≠ 0 then d
  else if d.plans.job.isSome || (d.plan s).state != 0 then d.refuse .plan 0 c 0x40
  else
    let d := ((d.recHost 4 0xD 0x40 none (leBytes 4 w.toNat) inj).setBit R.planResDone false).setBit R.planResBusy true
    let d := d.modPlan s (fun p => { p with state := 1, ofs := fieldGet w 12 11 })
    { d with plans := { d.plans with job := some s } }

/-- Validation ends (R728 to R730). -/
def planValidated (d : Die) : Die :=
  match d.plans.job with
  | none => d
  | some s =>
    let d : Die := { d with plans := { d.plans with job := none } }
    match d.validate (d.plan s).ofs with
    | .inl (code, o) =>
      let d := (d.modPlan s (fun _ => PlanSlot.empty)).planDone code
      ((d.set R.planErrOfsOfs o).bump R.planRejects).raise I.planRejected
    | .inr (i, place) =>
      let tag := d.plans.ltag + 1
      let d : Die := { d with plans := { d.plans with ltag := tag } }
      let d := d.modPlan s (fun p => { p with state := 2, img := some i, ltag := tag, placed := place })
      let d := d.wipePlan s
      let d := d.forAll i.hdls (fun d h => match d.holder h.lvat with
        | some v => d.planContents v i h
        | none => d)
      let d : Die := if d.own.timers.contains 9 then d else { d with own := { d.own with planAsked := true } }
      ((d.planDone 0).bump R.planLoads).raise I.planPending

/-- PLAN.CMD with OP = UNLOAD (R734). An EMPTY slot, or one already leaving, has nothing to unload (log entry 33). -/
def planUnload (d : Die) (c : Cls) (w : Word) (inj : Bool := false) : Die :=
  let s := fieldGet w 4 4
  if fieldGet w 0 2 ≠ 1 then d
  else if d.plans.job.isSome || (d.plan s).state = 0 || (d.plan s).state = 4 then d.refuse .plan 0 c 0x40
  else
    let d := (d.recHost 4 0xD 0x40 none (leBytes 4 w.toNat) inj).setBit R.planResDone false
    if (d.plan s).state = 2 then (d.planDone 0).leaveSlot s
    else if d.mayUnload s true then d.modPlan s (fun p => { p with leaving := true })
    else d.planDone 0x1C

/-- The table entry of a group record: 0 stands for the values of the table Group table entry (R610, R713). -/
def groupEnt (s : Nat) (p : PlanSlot) (i : PlanImg) (g : GrpRec) : GroupEnt :=
  { tid := i.tid, home := g.home, hasq := g.hasq, lkind := g.lkind, leid := BitVec.ofNat 17 g.leid, nmem := g.nmem
    smallMax := if g.smallMax = 0 then 64 else g.smallMax, nt := g.nt, lead := if g.lead = 0 then 16 else g.lead
    early := if g.early = 0 then 4 else g.early, holdMax := if g.holdMax = 0 then 4096 else g.holdMax, ltag := p.ltag, mbase := g.memOfs
    slot := s, chunkMax := g.chunkMax }

/-- A group's ring starts unlocked on the HOME die (log entry 33). -/
def openRing (d : Die) (g : Nat) : Die :=
  if d.isHome g then
    let d := d.forAll (List.range 256) (fun d i => if d.slotLock (sqAddr g i) then d.setLock (sqAddr g i) false else d)
    d.forAll (List.range 256) (fun d i => if d.slotLock (cqAddr g i) then d.setLock (cqAddr g i) false else d)
  else d

/-- A PENDING plan becomes ACTIVE (R731). -/
def startPlan (d : Die) (s : Nat) (i : PlanImg) : Die :=
  let d := d.modPlan s (fun p => { p with state := 3 })
  let p := d.plan s
  let d := d.forAll i.grps (fun d g => (d.modGroup g.group (fun _ => { GroupSt.init with ent := some (groupEnt s p i g) })).openRing g.group)
  let d := d.forAll (lvatsOf i) (fun d lv => match d.holder lv with
    | some v => (d.writeRecipes v lv s).writeHandles v lv s
    | none => d)
  (d.raise I.planActive).fpTouch

/-- Activation fails: the plan's regions are wiped, and its slot is freed (R732, R733). -/
def failPlan (d : Die) (s code : Nat) : Die := ((d.set R.planResCode code).leaveSlot s).raise I.planActFail

/-- The edge that opens BASE of a PENDING plan (R731 to R733). -/
def activatePlan (d : Die) (s : Nat) : Die :=
  match (d.plan s).img with
  | none => d
  | some i =>
    if d.planWiping s then d.failPlan s 0x1A
    else if i.repl then
      if d.mayUnload i.replaces false then (d.unloadPlan i.replaces).startPlan s i else d.failPlan s 0x1B
    else d.startPlan s i

/-- The slots of which this is the edge that opens BASE. -/
def plansDue (d : Die) : List Nat :=
  (List.range 16).filter (fun s => (d.plan s).state == 2 && match (d.plan s).img with
    | some i => BitVec.ofNat 48 i.base == d.tick.count
    | none => false)

/-- An uncorrectable word in the memory of an ACTIVE plan: logged, and its groups run down (R736). -/
def planEcc (d : Die) (s : Nat) : Die :=
  if (d.plan s).state ≠ 3 then d
  else
    let d := (d.logErr .plan 0 0x0B00 2 (leBytes 1 s)).raise I.planEcc
    d.forAll (d.slotGroups s) (fun d g => d.startRundown (.group (BitVec.ofNat 12 g)) (d.unitBound (.group (BitVec.ofNat 12 g))))

/-- Plans at a tick edge: unloads take effect, slots whose wipes have ended are EMPTY, and ECC errors found in the closing tick count (R734, R736). -/
def edgePlans (d : Die) (ecc : List Nat) : Die :=
  let d := d.forAll ecc planEcc
  let d := d.forAll ((List.range 16).filter (fun s => (d.plan s).leaving)) (fun d s => (d.unloadPlan s).planDone 0)
  d.freeSlots

end Die

/-- WIPE_DONE: every pending wipe of the vat has ended (R589). -/
def execWipeDone (v : BitVec 5) (s : State) : Host.Outcome State Fault Refusal :=
  act s (fun d => if !(d.vat v.toNat).wipes.isEmpty && decide (d.wipeLeft v.toNat ≤ 4 * d.tickCycles) then (d.wipesEnd v.toNat).freeSlots else d)

/-- PLAN_LOAD (R728). -/
def execPlanLoad (c : Cls) (w : Word) (s : State) : Host.Outcome State Fault Refusal := act s (fun d => d.onPage c .plan 0 (fun d => d.planLoad c w))

/-- PLAN_VALIDATED (R728, R730). -/
def execPlanValidated (s : State) : Host.Outcome State Fault Refusal := act s Die.planValidated

/-- PLAN_UNLOAD (R734). -/
def execPlanUnload (c : Cls) (w : Word) (s : State) : Host.Outcome State Fault Refusal := act s (fun d => d.onPage c .plan 0 (fun d => d.planUnload c w))

/-- PLAN_ACTIVATE: the edge just passed opens BASE of one or more PENDING plans (R731). -/
def execPlanActivate (s : State) : Host.Outcome State Fault Refusal := act s (fun d => d.forAll d.plansDue Die.activatePlan)

end Sys2Proof.Machine
end

