-- ==== Sys2Proof/Machine/Tenants.lean ====
section
/-!
DEFINITION. Machine/Tenants.lean: tenants are admitted, killed, wiped and freed (spec 19, R775 to R796).
-/
namespace Sys2Proof.Machine
namespace Die

/-- A tenant's state written (TEN.STAT.STATE). -/
def setTen (d : Die) (t st : Nat) : Die := d.set R.tenStatState st (t / 4) (t % 4)

/-! ### TEN.CTL (R776, R781, R786, R787) -/

/-- KTICK of a tenant. -/
def ktick (d : Die) (t : Nat) : Nat := d.get64 R.tenKillAtKtickLo R.tenKillAtKtickHi (t / 4) (t % 4)

/-- The tick in whose opening edge a kill is to take effect: 0 means the next edge (R786). -/
def scheduleKill (d : Die) (t k : Nat) : Die :=
  let at_ := if k = 0 then (d.tick.count + 1).toNat else k
  { d with ten := { d.ten with killAt := smapSet none d.ten.killAt t (some at_) } }

/-- A KILL write for an ACTIVE tenant: KTICK is 0, or at least 16 ticks ahead (R787). -/
def killWrite (d : Die) (c : Cls) (t : Nat) : Die :=
  let k := d.ktick t
  let ahead := (BitVec.ofNat 48 k - d.tick.count).toNat
  if d.tenState t ≠ 1 then d
  else if k ≠ 0 ∧ (ahead < 16 ∨ 2 ^ 47 ≤ ahead) then d.refuse .ten (t / 4) c (0x400 * (t % 4) + 0x40)
  else d.scheduleKill t k

/-- TEN.CTL.EN is written (R776, R781). While Gnotik does not run, no tenant is admitted (R35). -/
def tenEnWrite (d : Die) (c : Cls) (t : Nat) (en : Bool) : Die :=
  let st := d.tenState t
  let ref (d : Die) : Die := d.refuse .ten (t / 4) c (0x400 * (t % 4) + 0x40)
  if en then
    if st = 2 ∨ st = 3 then ref d
    else if st = 1 then d.setBit R.tenCtlEn true (t / 4) (t % 4)
    else if !d.boot.gnotik then ref d
    else
      let d := d.setBit R.tenCtlEn true (t / 4) (t % 4)
      if d.ten.admits.contains t then d else { d with ten := { d.ten with admits := d.ten.admits ++ [t] } }
  else
    let d := d.setBit R.tenCtlEn false (t / 4) (t % 4)
    if st = 1 then d.scheduleKill t 0 else { d with ten := { d.ten with admits := d.ten.admits.filter (· != t) } }

/-- TEN.CTL is written whole. -/
def tenCtlWrite (d : Die) (c : Cls) (t : Nat) (w : Word) : Die :=
  let d := (d.setBit R.tenCtlDebugAllow (w.getLsbD 2) (t / 4) (t % 4)).setBit R.tenCtlHostCave (w.getLsbD 3) (t / 4) (t % 4)
  let d := d.tenEnWrite c t (w.getLsbD 0)
  if w.getLsbD 1 then d.killWrite c t else d

/-- A loaded plan of a tenant names a port of this die as a member (R779). -/
def planMember (d : Die) (t p : Nat) : Bool :=
  ((d.plansIn [2, 3]).map (fun x => x.2)).any (fun i => i.tid == t && i.mem.any (fun e => d.onThisDie (BitVec.ofNat 17 e) && e % 64 == p))

/-- TEN.PORTS is written, `hi` for ports 32 to 63: a bit that a loaded plan needs may not be cleared (R779). -/
def tenPortsWrite (d : Die) (c : Cls) (t : Nat) (hi : Bool) (w : Word) : Die :=
  let f := if hi then R.tenPortsHi else R.tenPortsLo
  let base := if hi then 32 else 0
  let cleared := (List.range 32).filter (fun b => d.get f (t / 4) (t % 4) / 2 ^ b % 2 == 1 && !w.getLsbD b)
  if cleared.any (fun b => d.planMember t (base + b)) then d.refuse .ten (t / 4) c (0x400 * (t % 4) + (if hi then 0x54 else 0x50))
  else if d.get f (t / 4) (t % 4) = w.toNat then d
  else (d.set f w.toNat (t / 4) (t % 4)).fpDirty

/-- TEN.VAT is written: above 32 is a reserved code (R19, R780). -/
def tenVatWrite (d : Die) (c : Cls) (t : Nat) (w : Word) : Die :=
  let n := fieldGet w 0 6
  if 32 < n then d.accErr .ten (t / 4) c true (0x1000 * pageIndex .ten (t / 4) + 0x400 * (t % 4) + 0x58) .code
  else if d.get R.tenVatVatmax (t / 4) (t % 4) = n then d
  else (d.set R.tenVatVatmax n (t / 4) (t % 4)).fpDirty

/-! ### Edges -/

/-- A FREE tenant becomes ACTIVE: a key is generated, and its account starts at 0 (R776, R929). -/
def admitTenant (d : Die) (t : Nat) : Die :=
  if d.tenState t ≠ 0 then d
  else
    let d := (d.setTen t 1).set R.tenStatKeygen (d.get R.tenStatKeygen (t / 4) (t % 4) + 1) (t / 4) (t % 4)
    { d with telem := { d.telem with acct := smapErase d.telem.acct t, acct0 := smapErase d.telem.acct0 t } }

/-- The port sets come into force (R778). -/
def takePortSets (d : Die) : Die :=
  d.forAll (List.range 256) (fun d t =>
    let v := BitVec.ofNat 64 (d.get64 R.tenPortsLo R.tenPortsHi (t / 4) (t % 4))
    { d with ten := { d.ten with ports := smapSet 0 d.ten.ports t v } })

/-- Tenants at an edge: admissions, port sets, and the bounds of kills (R776, R778, R789). -/
def edgeTenants (d : Die) : Die :=
  let d := d.forAll d.ten.admits admitTenant
  let d : Die := { d with ten := { d.ten with admits := [] } }
  let d := if d.det.dirty then d.takePortSets else d
  d.forAll ((List.range 256).filter (fun t => d.tenState t == 2)) (fun d t =>
    d.set R.tenStatLeft (d.get R.tenStatLeft (t / 4) (t % 4) - 1) (t / 4) (t % 4))

/-! ### The kill edge (R789) -/

/-- The groups of a tenant. -/
def tenGroups (d : Die) (t : Nat) : List Nat :=
  (d.coll.groups.filter (fun e => match e.2.ent with
    | some x => x.tid == t
    | none => false)).map (fun e => e.1)

/-- D of a kill (R789). -/
def killBound (d : Die) (t : Nat) : Nat := depthOf (((d.plansIn [3]).map (fun p => p.2)).filter (fun i => i.tid == t))

/-- A group of a killed tenant admits nothing, and its collective ends KILLED (R661, R789); a bound that runs already stays. -/
def killGroup (d : Die) (g bound : Nat) : Die :=
  let u : UnitId := .group (BitVec.ofNat 12 g)
  let r := d.rundown u
  let r : RunDown := match r.phase with
    | .draining => { r with abort := .killed }
    | .idle => r
    | _ => { r with phase := .draining, bound := bound, left := bound, abort := .killed }
  (d.setRundown u r).modRun g (fun x => { x with ended := match x.ended with
    | some e => some e
    | none => some (3, 0) })

/-- Record mode of a killed tenant stops (R766). -/
def killRecord (d : Die) (t : Nat) : Die :=
  if (d.get R.detRecState = 1 ∨ d.get R.detRecState = 2) ∧ !d.bit R.detRecCtlOwnerMgmt ∧ d.get R.detRecCtlOwner = t then
    let d : Die := { d with det := { d.det with buf := [], lost := 0 } }
    ((d.set R.detRecState 3).set R.detRecCode 3).raise I.detRecStop
  else d

/-- DMA descriptors of a tenant move no further line (R840). -/
def abortDma (d : Die) (p : DmaJob → Bool) : Die :=
  let stop (j : DmaJob) : DmaJob := if p j && j.status.isNone then { j with status := some 8 } else j
  { d with host := { d.host with dma := d.host.dma.map (fun e : Nat × DmaQ => (e.1, { e.2 with jobs := e.2.jobs.map stop })) } }

/-- Flows of a killed tenant: what is not decided settles as TENANT_KILLED, also where another abort came first (R1058). -/
def killFlows (d : Die) (t : Nat) : Die :=
  let d := d.abortDstAll (fun k => k.tid.toNat == t) .killed
  { d with dlv := { d.dlv with flows := d.dlv.flows.map (fun e : Nat × FlowEnt => match e.2 with
      | .dst f => if f.key.tid.toNat = t then (e.1, .dst { f with abort := .killed }) else e
      | _ => e) } }

/-- The kill edge (R789). -/
def killEdge (d : Die) (t : Nat) : Die :=
  let bound := d.killBound t
  let d := ((d.setTen t 2).set R.tenStatLeft bound (t / 4) (t % 4)).raise (I.tenKilling (t % 4)) (t / 4)
  let d : Die := { d with ten := { d.ten with killAt := smapErase d.ten.killAt t } }
  let d := d.forAll (d.tenGroups t) (fun d g => d.killGroup g bound)
  let pend := ((d.plansIn [2]).filter (fun p => p.2.tid == t)).map (fun p => p.1)
  let d := d.forAll pend leaveSlot
  ((d.killFlows t).abortDma (fun j => !j.mgmt && j.tid == t)).killRecord t

/-! ### The wipe (R790) -/

/-- Has the abort of a kill nothing left on this die? -/
def killIdle (d : Die) (t : Nat) : Bool :=
  d.dlv.ledger.all (fun e => e.2.pkt.mgmt || e.2.pkt.tid.toNat != t || e.2.state == .settled || e.2.state == .free)
    && d.dlv.flows.all (fun e => match e.2 with
      | .dst f => f.key.tid.toNat != t || f.items.isEmpty
      | _ => true)
    && (d.tenGroups t).all (fun g => (d.group g).run.isNone)

/-- The tenant's hoop cells lose their owners and are queued for zeroing (R790, R791). -/
def wipeCells (d : Die) (t : Nat) : Die :=
  let f (c : HoopCell) : HoopCell := if !c.owners.isEmpty && !c.mgmt && c.tid.toNat == t then { c with owners := [], queued := true } else c
  { d with hoops := { d.hoops with cells := d.hoops.cells.map (fun e : Nat × HoopCell => (e.1, f e.2)) } }

/-- Flow entries and return-log entries of the tenant are released; a flow whose last egress packets still wait for their receipts stays until
they are settled (R103, R790). -/
def wipeFlows (d : Die) (t : Nat) : Die :=
  let stays (e : Nat × FlowEnt) : Bool := match e.2 with
    | .free => true
    | .src f => f.key.tid.toNat != t || !(d.unsettled e.1).isEmpty
    | .dst f => f.key.tid.toNat != t || !f.items.isEmpty
  let keep := d.dlv.flows.filter stays
  let live (x : Nat × BitVec 32 × BitVec 3) : Bool := match d.flow x.1 with
    | .dst f => f.key.tid.toNat != t
    | _ => true
  { d with dlv := { d.dlv with flows := keep, rlog := d.dlv.rlog.filter live, heldRtn := d.dlv.heldRtn.filter live } }

/-- The tenant's key is destroyed: its generation moves on, skipping 0, and the tag sweep starts (R794, R795, R875, R877). -/
def dropKey (d : Die) (t : Nat) : Die :=
  let g := d.caveGen (.tenant t)
  let n : BitVec 16 := if g = 0xFFFF then 1 else g + 1
  { d with cave := { d.cave with tgen := smapSet 1 d.cave.tgen t n, sweeps := d.cave.sweeps.filter (· != t) ++ [t] } }

/-- The tenant becomes WIPING (R790). -/
def tenantWipe (d : Die) (t : Nat) : Die :=
  let d := d.abortEnd (fun k => k.tid.toNat == t) (fun _ e => !e.pkt.mgmt && e.pkt.tid.toNat == t) .killed
  let d := d.forAll (d.tenGroups t) (fun d g =>
    let d := match (d.group g).run with
      | some r => if d.isHome g then d.completeRun g r else d
      | none => d
    (d.dropRun g 3).dropEarly g (fun _ => true) 3)
  let act := ((d.plansIn [3]).filter (fun p => p.2.tid == t)).map (fun p => p.1)
  let d := d.forAll act unloadPlan
  ((((d.wipeCells t).wipeFlows t).dropKey t).setTen t 3).set R.tenStatLeft 0 (t / 4) (t % 4)

/-- Have every wipe and zeroing of the tenant ended (R792)? -/
def wipeOver (d : Die) (t : Nat) : Bool :=
  d.hoops.cells.all (fun e => !e.2.queued || e.2.mgmt || e.2.tid.toNat != t)
    && d.plans.slots.all (fun e => e.2.state != 4 || match e.2.img with
      | some i => i.tid != t
      | none => true)

/-- The tenant becomes FREE (R792). -/
def tenantFree (d : Die) (t : Nat) : Die :=
  (((d.setTen t 0).setBit R.tenCtlDebugAllow false (t / 4) (t % 4)).setBit R.tenCtlHostCave false (t / 4) (t % 4)).raise
    (I.tenKillDone (t % 4)) (t / 4)

end Die

/-- TENANT_ADMIT: TEN.CTL is written with EN = 1 (R776). -/
def execTenantAdmit (c : Cls) (t : BitVec 8) (w : Word) (s : State) : Host.Outcome State Fault Refusal :=
  act s (fun d => if w.getLsbD 0 then d.onPage c .ten (t.toNat / 4) (fun d => d.tenCtlWrite c t.toNat w) else d)

/-- TENANT_EN_CLEAR: TEN.CTL is written with EN = 0 (R781). -/
def execTenantEnClear (c : Cls) (t : BitVec 8) (w : Word) (s : State) : Host.Outcome State Fault Refusal :=
  act s (fun d => if w.getLsbD 0 then d else d.onPage c .ten (t.toNat / 4) (fun d => d.tenCtlWrite c t.toNat w))

/-- TENANT_KILL: TEN.CTL is written with KILL = 1 (R786, R787). -/
def execTenantKill (c : Cls) (t : BitVec 8) (w : Word) (s : State) : Host.Outcome State Fault Refusal :=
  act s (fun d => if w.getLsbD 1 then d.onPage c .ten (t.toNat / 4) (fun d => d.tenCtlWrite c t.toNat w) else d)

/-- KILL_EDGE: the edge just passed is that of a scheduled kill (R789). -/
def execKillEdge (t : BitVec 8) (s : State) : Host.Outcome State Fault Refusal :=
  act s (fun d =>
    match smapGet none d.ten.killAt t.toNat with
    | some k => if d.tenState t.toNat = 1 ∧ d.reached (BitVec.ofNat 48 k) then d.killEdge t.toNat else d
    | none => d)

/-- TENANT_WIPE: the kill's abort is IDLE, or its bound has ended (R790). -/
def execTenantWipe (t : BitVec 8) (s : State) : Host.Outcome State Fault Refusal :=
  act s (fun d =>
    let t := t.toNat
    if d.tenState t = 2 ∧ (d.get R.tenStatLeft (t / 4) (t % 4) = 0 ∨ d.killIdle t) then d.tenantWipe t else d)

/-- TENANT_FREE: at an edge every wipe and zeroing of the tenant has ended (R792). -/
def execTenantFree (t : BitVec 8) (s : State) : Host.Outcome State Fault Refusal :=
  act s (fun d => if d.tenState t.toNat = 3 ∧ d.wipeOver t.toNat then d.tenantFree t.toNat else d)

end Sys2Proof.Machine
end

