-- ==== Sys2Proof/Machine/Units.lean ====
section
/-!
DEFINITION. Machine/Units.lean: how a unit of the die runs down, is cut at its bound, reaches IDLE, is gated, fenced and comes back (spec 02, R89 to
R99; spec 22, R905, R914 to R917; spec 24, R945 to R947).
-/
namespace Sys2Proof.Machine

/-- The unit that a page with controls shows; the CHIP and TICK pages both speak of the die. -/
def ctlUnit : CtlPage → UnitId
  | .chip => .die
  | .tick => .die
  | .port p => .port p
  | .vat v => .vat v

/-- The page of a unit's controls. -/
def ctlPageOf : CtlPage → PageType × Nat
  | .chip => (.chip, 0)
  | .tick => (.tick, 0)
  | .port p => (.port, p.toNat)
  | .vat v => (.vat, v.toNat)

namespace Die

/-! ### Is anything admitted left (R94)? -/

/-- Has a group no admitted chunk that is not finished, and none left to admit before its CSTOP? -/
def groupEmpty (d : Die) (g : Nat) : Bool :=
  match (d.group g).run with
  | none => true
  | some r => r.chunks.all (fun e => e.2.admitted.isNone || e.2.fin.isSome) && match r.cstop with
    | some x => decide (min x r.nchunks ≤ r.next)
    | none => true

/-- Is every entry of a port's ledger free or settled? -/
def ledgerEmpty (d : Die) (p : Nat) : Bool := (d.ledOf p).all (fun e => e.2.state == .free || e.2.state == .settled)

/-- Does the die hold no item for an egress port? -/
def egressEmpty (d : Die) (p : Nat) : Bool :=
  d.dlv.flows.all (fun e => match e.2 with
    | .dst f => eidPort f.key.deid != p || !d.onThisDie f.key.deid || f.items.isEmpty
    | _ => true)

/-- The groups whose plans a port serves. -/
def portGroups (d : Die) (p : Nat) : List Nat :=
  (d.groupsHere).filter (fun g => match d.groupImg g with
    | some i => (d.portPlans p).contains i
    | none => false)

/-- Does nothing admitted remain in a unit (R94)? -/
def unitEmpty (d : Die) : UnitId → Bool
  | .die => (List.range 64).all (fun p => d.ledgerEmpty p && d.egressEmpty p) && d.groupsHere.all d.groupEmpty
      && d.vats.all (fun e => e.2.queue.isEmpty) && d.host.dma.all (fun e => e.2.jobs.isEmpty)
  | .port p => d.ledgerEmpty p.toNat && d.egressEmpty p.toNat && (d.portGroups p.toNat).all d.groupEmpty
  | .vat v => (d.vat v.toNat).queue.isEmpty
      && !(d.coll.waiting.any (fun t => d.bit R.vatStatLvalid v.toNat && t.lvat == d.get R.vatStatLogical v.toNat))
  | .group g => d.groupEmpty g.toNat

/-! ### The end of the bound (R95) -/

/-- A group whose bound ends: HOME completes its collective as a cut run-down, another die lets its part go (R95, R659). -/
def cutGroup (d : Die) (g : Nat) : Die := if d.isHome g then d.endColl g 1 0 else d.dropRun g 1

/-- What is unfinished when the bound ends meets the outcomes of an abort (R95, R101, R102). -/
def cutUnit (d : Die) : UnitId → Die
  | .die =>
    let d := (d.forAll d.groupsHere cutGroup).abortDma (fun _ => true)
    let d := (d.abortDstAll (fun _ => true) .aborted).abortEnd (fun _ => false) (fun _ _ => true) .aborted
    { d with vats := d.vats.map (fun e : Nat × VatSt => (e.1, { e.2 with queue := [] })), coll := { d.coll with waiting := [] } }
  | .port p =>
    let d := d.forAll ((d.portGroups p.toNat).filter (fun g => !d.groupEmpty g)) cutGroup
    (d.abortDstAll (fun k => eidPort k.deid == p.toNat && d.onThisDie k.deid) .aborted).abortEnd (fun _ => false) (fun q _ => q == p.toNat) .aborted
  | .vat v =>
    let gs := ((d.vat v.toNat).queue.map (fun t => t.group)).dedup
    (d.forAll gs cutGroup).modVat v.toNat (fun s => { s with queue := [] })
  | .group g => d.cutGroup g.toNat

/-! ### Ports asleep and back (R915, R916, R946) -/

/-- Kesil holds a port's lanes in PS2 (R915, R946). -/
def sleepPort (d : Die) (p : Nat) : Die :=
  let d := ((d.linkOffline p).set R.portLinkPs 2 p).set R.laneqPstatState 0 p
  let d := d.forAll (List.range 4) (fun d l =>
    ((d.setBit R.laneqLaneLstatCdrLock false p l).setBit R.laneqLaneLstatBlLock false p l).setBit R.laneqLaneLstatSfLock false p l)
  d.modPort p (fun s => { s with hold := some 2 })

/-- The hold ends, and the lanes hunt again (R916, R946). -/
def releasePort (d : Die) (p : Nat) : Die :=
  if d.hget R.hdrStatGated .port p = 1 ∨ d.hget R.hdrStatFenced .port p = 1 ∨ d.hget R.hdrStatFenced .chip = 1 then d
  else (d.modPort p (fun s => { s with hold := none })).set R.portLinkPs 0 p

/-- The heads that wait at a TRUNK or STACK port which has left service are routed again (R327, table Fences). -/
def reroute (d : Die) (p : Nat) : Die :=
  if d.isDrop p then d
  else
    let es := (List.range 8).flatMap (fun v => d.heads (8 * p + v))
    let d : Die := { d with sw := { d.sw with queue := d.sw.queue.filter (fun q => q.1 / 8 != p) } }
    d.forAll es (fun d e =>
      match d.route e.pkt (if e.inPort < 64 then some e.inPort else none) with
      | .out q v dbit far => d.enqueue q v { e with pkt := { e.pkt with d := dbit }, far := far }
      | _ => (((d.leaveInput e p e.pkt.vc).bump R.harpUnroute).raise I.harpUnroute).logErr .harp 0 0x0601 0 (leBytes 1 e.inPort ++ leBytes 1 e.pkt.op.toNat))

/-- The fence-map bit of a port. -/
def mapPort (d : Die) (p : Nat) (on : Bool) : Die :=
  d.fenceMap (if p < 32 then R.chipFencePortsLo else R.chipFencePortsHi) (p % 32) on

/-- A port is fenced (R914, R915, R947). -/
def fencePort (d : Die) (p : Nat) : Die :=
  let d := (d.hset R.hdrCtlFence 1 .port p).hset R.hdrStatFenced 1 .port p
  ((d.mapPort p true).sleepPort p).reroute p

/-- This die is fenced: it holds every port in PS2 (R914, R915, R947). -/
def fenceSelf (d : Die) : Die :=
  let d := (d.hset R.hdrCtlFence 1 .chip).hset R.hdrStatFenced 1 .chip
  ((d.fenceDie d.pos)).forAll (d.portsWith (fun p => d.role p != 0)) sleepPort

/-! ### IDLE and re-opening (R94, R96, R98, R914, R946) -/

/-- May an IDLE unit admit work again: no control, fence or reset holds it? -/
def mayReopen (d : Die) (u : UnitId) : Bool :=
  !(d.rundown u).reset && match u with
    | .die => d.hget R.hdrCtlRundown .tick == 0 && d.hget R.hdrStatFenced .chip == 0 && d.hget R.hdrCtlFence .chip == 0
        && d.get R.pwrModeState == 0 && d.tick.fatal == 0
    | .port p => d.hget R.hdrCtlRundown .port p.toNat == 0 && d.hget R.hdrCtlEnable .port p.toNat == 1
        && d.hget R.hdrCtlFence .port p.toNat == 0 && d.hget R.hdrStatFenced .port p.toNat == 0
    | .vat v => d.hget R.hdrCtlRundown .vat v.toNat == 0 && d.hget R.hdrCtlEnable .vat v.toNat == 1
    | .group _ => (d.rundown u).reopen

/-- An IDLE unit re-opens at the next edge if nothing holds it. -/
def tryReopen (d : Die) (u : UnitId) : Die :=
  let r := d.rundown u
  if r.phase = .idle then d.setRundown u { r with reopen := d.mayReopen u } else d

/-- Is the HOME die of a group fenced (R917)? -/
def homeLost (d : Die) (g : Nat) : Bool :=
  match (d.group g).ent with
  | some e => d.dieFenced e.home
  | none => false

/-- What becomes of a unit at the edge at which it is IDLE (R94, R98, R914, R917, R946, R1043). -/
def goIdle (d : Die) (u : UnitId) : Die :=
  let r := d.rundown u
  -- a run-down that only the entry to QUIET started reports its end in PWR.MODE (R94)
  let own := u == .die && d.pwr.quiet && d.get R.pwrModeState != 0 && d.hget R.hdrCtlRundown .tick == 0 && !r.reset && !r.fence
  let d := if own then d.setRundown u { r with phase := .idle, left := 0, cleared := false } else d.reachIdle u
  let r := d.rundown u
  match u with
  | .die =>
    let d := if r.fence then d.fenceSelf else d
    let d := if d.get R.pwrModeState = 1 then d.enterQuiet else d
    d.tryReopen u
  | .port p =>
    let d := if r.gate then (d.hset R.hdrStatGated 1 .port p.toNat).sleepPort p.toNat else d
    let d := if r.fence then d.fencePort p.toNat else d
    d.tryReopen u
  | .vat v =>
    let d := if r.gate then d.hset R.hdrStatGated 1 .vat v.toNat else d
    d.tryReopen u
  | .group g =>
    if d.homeLost g.toNat then
      let d := (d.dropRun g.toNat 1).dropEarly g.toNat (fun _ => true) 1
      (d.modGroup g.toNat (fun s => { s with ent := none })).setRundown u RunDown.none
    else d

/-! ### Requests -/

/-- PAGE_CTL.run-down of a unit's page is set (R89, R97). -/
def rundownSet (d : Die) (t : PageType) (i : Nat) (u : UnitId) : Die :=
  let d := (d.hset R.hdrCtlRundown 1 t i).startRundown u (d.unitBound u)
  d.setRundown u { d.rundown u with cleared := false, reopen := false }

/-- A unit's run-down is requested: the die, a port or a vat by its PAGE_CTL, a group by a STOP (R89, R97, R656). -/
def rundownAsk (d : Die) (c : Cls) (u : UnitId) : Die :=
  match u with
  | .group g => d.collCommand c g.toNat 1
  | .die => d.rundownSet .tick 0 .die
  | .port p => d.rundownSet .port p.toNat (.port p)
  | .vat v => d.rundownSet .vat v.toNat (.vat v)

/-- PAGE_CTL.run-down of a port or vat page is cleared (R96). -/
def rundownReset (d : Die) (t : PageType) (i : Nat) (u : UnitId) : Die :=
  let d := d.hset R.hdrCtlRundown 0 t i
  if (d.rundown u).phase = .idle then d.tryReopen u else d.clearRundown u

/-- PAGE_CTL.run-down of the TICK page is cleared; the die stays run down while QUIET, a fence or a fatal error holds it (R96, R904, R1044). -/
def rundownResetDie (d : Die) : Die :=
  let d := (d.hset R.hdrCtlRundown 0 .tick 0).setBit R.tickRdStatDone false
  if (d.rundown .die).phase = .idle then d.tryReopen .die
  else if d.get R.pwrModeState = 0 ∧ d.tick.fatal = 0 then d.clearRundown .die else d

/-- The control is cleared (R96); a group's by a RESUME (R656). -/
def rundownLift (d : Die) (c : Cls) (u : UnitId) : Die :=
  match u with
  | .group g => d.collCommand c g.toNat 3
  | .die => d.rundownResetDie
  | .port p => d.rundownReset .port p.toNat (.port p)
  | .vat v => d.rundownReset .vat v.toNat (.vat v)

/-- PAGE_CTL.reset is written 1 (R98, R907, R919, R945). -/
def resetAsk (d : Die) (c : Cls) (pg : CtlPage) : Die :=
  match pg with
  | .tick => d.refuse .tick 0 c 0x08
  | _ =>
    let u := ctlUnit pg
    let d := d.startRundown u (d.unitBound u)
    d.setRundown u { d.rundown u with reset := true, reopen := false }

/-- PAGE_CTL.fence is written 1 (R914, R945, R947): a vat is fenced at the next edge, a port and the die run down first. -/
def fenceAsk (d : Die) (c : Cls) (pg : CtlPage) : Die :=
  match pg with
  | .tick => d.refuse .tick 0 c 0x08
  | .vat v => if d.hget R.hdrCtlFence .vat v.toNat = 1 then d else (d.hset R.hdrCtlFence 1 .vat v.toNat).vatFault v.toNat 6 0
  | .port p =>
    if d.hget R.hdrCtlFence .port p.toNat = 1 then d
    else
      let u := ctlUnit pg
      let d := (d.hset R.hdrCtlFence 1 .port p.toNat).startRundown u (d.unitBound u)
      let r := d.rundown u
      let d := d.setRundown u { r with fence := true, reopen := false }
      if r.phase = .idle then d.fencePort p.toNat else d
  | .chip =>
    if d.hget R.hdrCtlFence .chip = 1 then d
    else
      let d := (d.hset R.hdrCtlFence 1 .chip).startRundown .die 0
      let r := d.rundown .die
      let d := d.setRundown .die { r with fence := true, reopen := false }
      if r.phase = .idle then d.fenceSelf else d

/-- Does a page hold a UNIT_FATAL record, queued or PEND (R905)? -/
def fatalHeld (d : Die) (t : PageType) (i : Nat) : Bool :=
  (d.pageErr (pageIndex t i)).fifo.any (fun r => r.sev == 2) || (d.pendOf (pageIndex t i)).any (fun e => e.r.sev == 2)

/-- PAGE_CTL.fence is written 0 (R905, R916, R947): a vat or a port comes back at an edge; the die's own fence ends only with a warm reset. -/
def unfenceAsk (d : Die) (c : Cls) (pg : CtlPage) : Die :=
  let (t, i) := ctlPageOf pg
  if d.hget R.hdrCtlFence t i = 0 then d
  else if pg = .chip ∨ d.fatalHeld t i then d.refuse t i c 0x08
  else
    let d := d.hset R.hdrCtlFence 0 t i
    match pg with
    | .port p =>
      let u := UnitId.port p
      (d.setRundown u { d.rundown u with fence := false }).tryReopen u
    | _ => d

/-- PAGE_CTL.enable is written (R945, R946). -/
def enableWrite (d : Die) (c : Cls) (pg : CtlPage) (on : Bool) : Die :=
  let (t, i) := ctlPageOf pg
  match pg with
  | .chip | .tick => if on then d else d.refuse t i c 0x08
  | _ =>
    let u := ctlUnit pg
    let d := d.hset R.hdrCtlEnable (if on then 1 else 0) t i
    if on then d.setRundown u { d.rundown u with gate := false }
    else
      let d := d.startRundown u (d.unitBound u)
      let r := d.rundown u
      let d := d.setRundown u { r with gate := true, reopen := false }
      if r.phase = .idle then
        let d := d.hset R.hdrStatGated 1 t i
        if t = .port then d.sleepPort i else d
      else d

/-! ### At a tick edge -/

/-- Ports and vats whose enable is set again are ungated, and admit work from the edge after (R946). -/
def edgeUngate (d : Die) : Die :=
  let one (d : Die) (t : PageType) (i : Nat) (u : UnitId) : Die :=
    if d.hget R.hdrStatGated t i = 1 ∧ d.hget R.hdrCtlEnable t i = 1 then
      let d := d.hset R.hdrStatGated 0 t i
      (if t = .port then d.releasePort i else d).tryReopen u
    else d
  let d := d.forAll (List.range 64) (fun d p => one d .port p (.port (BitVec.ofNat 6 p)))
  d.forAll (List.range 32) (fun d v => one d .vat v (.vat (BitVec.ofNat 5 v)))

/-- Ports whose fence is clear return to service: they hunt again (R914, R916). -/
def edgeUnfencePorts (d : Die) : Die :=
  d.forAll ((List.range 64).filter (fun p => d.hget R.hdrStatFenced .port p == 1 && d.hget R.hdrCtlFence .port p == 0)) (fun d p =>
    (((d.hset R.hdrStatFenced 0 .port p).mapPort p false).releasePort p).tryReopen (.port (BitVec.ofNat 6 p)))

/-- Ports that a tree of a loaded plan names and that have left ACTIVE are fenced by Kesil itself (R663, R914). -/
def edgeFencePorts (d : Die) : Die :=
  let named : List Nat := ((d.plansIn [2, 3]).flatMap (fun x => x.2.trees.flatMap (fun t => (if t.root then [] else [t.upPort]) ++ t.kids.map (fun k => k.2.2)))).dedup
  let d := d.forAll (named.filter (fun p => (d.isTrunk p || d.isStack p) && (d.port p).leftUp && d.hget R.hdrStatFenced .port p == 0)) fencePort
  d.forAll (List.range 64) (fun d p => d.modPort p (fun s => { s with leftUp := false }))

/-- Groups whose HOME die is fenced run down (R917). -/
def edgeHomeLost (d : Die) : Die :=
  d.forAll (d.groupsHere.filter d.homeLost) (fun d g =>
    let u := UnitId.group (BitVec.ofNat 12 g)
    d.startRundown u (d.unitBound u))

end Die

/-! ### The commands -/

/-- RUNDOWN_REQUEST (R89, R97). -/
def execRundownRequest (c : Cls) (u : UnitId) (s : State) : Host.Outcome State Fault Refusal :=
  act s (fun d => match unitPage u with
    | some (t, i) => d.onPage c t i (fun d => d.rundownAsk c u)
    | none => d.rundownAsk c u)

/-- RUNDOWN_CLEAR (R96). -/
def execRundownClear (c : Cls) (u : UnitId) (s : State) : Host.Outcome State Fault Refusal :=
  act s (fun d => match unitPage u with
    | some (t, i) => d.onPage c t i (fun d => d.rundownLift c u)
    | none => d.rundownLift c u)

/-- RUNDOWN_IDLE: nothing admitted remains in a unit that drains (R94). -/
def execRundownIdle (u : UnitId) (s : State) : Host.Outcome State Fault Refusal :=
  act s (fun d => if (d.rundown u).phase == .draining && d.unitEmpty u then d.goIdle u else d)

/-- RUNDOWN_BOUND_END: the bound of a unit that drains has ended (R93, R95). -/
def execRundownBoundEnd (u : UnitId) (s : State) : Host.Outcome State Fault Refusal :=
  act s (fun d => if (d.rundown u).phase == .draining && (d.rundown u).left == 0 then (d.cutUnit u).goIdle u else d)

/-- PAGE_RESET_REQUEST (R98, R919). -/
def execPageResetRequest (c : Cls) (pg : CtlPage) (s : State) : Host.Outcome State Fault Refusal :=
  act s (fun d => d.onPage c (ctlPageOf pg).1 (ctlPageOf pg).2 (fun d => d.resetAsk c pg))

/-- PAGE_FENCE_REQUEST (R914, R947). -/
def execPageFenceRequest (c : Cls) (pg : CtlPage) (s : State) : Host.Outcome State Fault Refusal :=
  act s (fun d => d.onPage c (ctlPageOf pg).1 (ctlPageOf pg).2 (fun d => d.fenceAsk c pg))

/-- PAGE_UNFENCE (R905, R916, R947). -/
def execPageUnfence (c : Cls) (pg : CtlPage) (s : State) : Host.Outcome State Fault Refusal :=
  act s (fun d => d.onPage c (ctlPageOf pg).1 (ctlPageOf pg).2 (fun d => d.unfenceAsk c pg))

/-- PAGE_ENABLE_WRITE (R946). -/
def execPageEnableWrite (c : Cls) (pg : CtlPage) (on : Bool) (s : State) : Host.Outcome State Fault Refusal :=
  act s (fun d => d.onPage c (ctlPageOf pg).1 (ctlPageOf pg).2 (fun d => d.enableWrite c pg on))

end Sys2Proof.Machine
end

