-- ==== Sys2Proof/Machine/Faults.lean ====
section
/-!
DEFINITION. Machine/Faults.lean: the error registers of a page, the watchdog, RETRY, and the failure of dies of the node (spec 22, R894 to R918; spec
03, R148 to R153; spec 24, R950).
-/
namespace Sys2Proof.Machine
namespace Die

/-! ### PAGE_ERR_HEAD and PAGE_ERR_POP (R894, R902) -/

/-- Dword k of the head record of a page, and the die after the read (PAGE_ERR_HEAD). -/
def errHead (d : Die) (idx : Nat) : Die × Word :=
  let p := d.pageErr idx
  match p.fifo with
  | [] => (d, 0)
  | r :: _ => (d.setPageErr idx { p with k := (p.k + 1) % 8 }, BitVec.ofNat 32 (leNat ((r.bytes.drop (4 * p.k)).take 4)))

/-- PAGE_ERR_POP.REWIND. -/
def errRewind (d : Die) (idx : Nat) : Die := d.setPageErr idx { d.pageErr idx with k := 0 }

/-- PAGE_ERR_POP.CLRCNT. -/
def errClear (d : Die) (idx : Nat) : Die := d.setPageErr idx { d.pageErr idx with dropped := 0 }

/-- PAGE_ERR_POP.POP; a rejected hoop command that waits for a log entry goes on (R470, R894). -/
def errPop (d : Die) (idx : Nat) : Die := (d.popHead idx).hoopResume

/-- A write of PAGE_ERR_POP: every control whose bit is 1, the lowest first. -/
def errPopWrite (d : Die) (idx : Nat) (w : Word) : Die :=
  let d := if w.getLsbD 0 then d.errPop idx else d
  let d := if w.getLsbD 1 then d.errRewind idx else d
  if w.getLsbD 2 then d.errClear idx else d

/-- A write served by the header of any page, an unimplemented one refused (check 1, R908). -/
def onIndex (d : Die) (c : Cls) (page : Nat) (ofs : Nat) (f : Die → PageType → Nat → Die) : Die :=
  match pageAt page with
  | none => d.accErr .chip 0 c true (0x1000 * page + ofs) .unimplPage
  | some (t, i) => d.onPage c t i (fun d => f d t i)

/-- A read of PAGE_ERR_HEAD by a requester. -/
def errHeadRead (d : Die) (c : Cls) (page : Nat) : Die :=
  let a := 0x1000 * page + 0x10
  match pageAt page with
  | none => (d.accErr .chip 0 c false a .unimplPage).emit (.answer c a .ur [])
  | some (t, i) =>
    if d.underReset t i then (d.busyReset c t i).emit (.answer c a .reset (leBytes 4 (0xDEAD0000 + page)))
    else
      let (d, w) := d.errHead page
      d.emit (.answer c a .ok (leBytes 4 w.toNat))

/-- PAGE_LOCK is written: LOCK is an RWL field itself, so that a locked page discards the write (R22, R950). -/
def lockPage (d : Die) (c : Cls) (t : PageType) (i : Nat) (on : Bool) : Die :=
  if d.locked t i then d.accErr t i c true (0x1000 * pageIndex t i + 0x2C) .locked
  else if on then d.hset R.hdrLock 1 t i
  else d

/-! ### The steward's watchdog (R902) -/

/-- ERRLOG.CTL.KICK. -/
def kick (d : Die) : Die := { d with err := { d.err with wdogLogged := false } }

/-- The watchdog's period has passed without a KICK. -/
def watchdog (d : Die) : Die :=
  if d.get R.errlogCfgWdog = 0 ∨ d.err.wdogLogged ∨ d.boot.stage = 0 then d
  else { (d.logErr .errlog 0 0x0D01 1).raise I.errlogWdog with err := { (d.logErr .errlog 0 0x0D01 1).err with wdogLogged := true } }

/-! ### RETRY (R910 to R913) -/

/-- A RETRY packet arrives: a stale one is discarded and counted; another waits for the next edge to be reissued (R911 to R913). -/
def retryRx (d : Die) (pk : Packet) : Die :=
  if pk.op ≠ 0x24 then d
  else if pk.epoch.toNat ≠ d.hget R.hdrEpoch .coll (pk.group.toNat / 256) then d.bump R.errlogStale
  else
    let r := leNat (pk.payload.take 8)
    { d.bump R.errlogRetry with returned := d.returned ++ [(r % 2 ^ 16, r / 2 ^ 16 % 4, r / 2 ^ 18 % 256, r / 2 ^ 32 % 2 ^ 32)] }

/-- The oldest returned request is sent again to the die that serves its group (table Reissue). -/
def reissue (d : Die) : Die :=
  match d.returned with
  | [] => d
  | (_, die, _, arg) :: rest =>
    let mine (e : LedEnt) : Bool := e.own && e.state == .held && e.pkt.op == 0x08 && e.pkt.arg.toNat % 2 ^ 32 == arg
      && (match (d.group e.pkt.group.toNat).ent with
        | some g => g.home == die
        | none => false)
    let items := (d.dlv.ledger.filter (fun e => mine e.2)).map (fun e => e.2.pkt)
    let d : Die := { d with returned := rest }
    d.forAll items (fun d pk => d.originate ({ pk with deid := BitVec.ofNat 17 (dieEid d.selfNode die) }).finish)

/-! ### Dies of the node (R148 to R150, R904) -/

/-- Has this follower's takeover count been reached in heartbeats (R148)? -/
def beatsGone (d : Die) : Bool :=
  d.get R.cascStatState == 1 && !d.isMaster && decide (d.takeoverCount ≤ d.get R.cascHbMiss) && d.hget R.hdrStatFenced .chip == 0

/-- Is MALIVE wired, and does it still toggle (R148, R149)? -/
def maliveLives (d : Die) : Bool := d.bit R.cascCfgMalive && decide (d.get R.cascHbMaMiss < d.takeoverCount)

/-- This die is cut off: it runs down and is fenced (R149). -/
def isolate (d : Die) : Die :=
  let d := (d.logErr .casc 0 0x0203 2).raise I.cascIsolated
  let d := d.startRundown .die (d.unitBound .die)
  d.setRundown .die { d.rundown .die with fence := true, reopen := false }

/-- The acting master fences a follower that has been silent for 8 ticks (R904). -/
def loseDie (d : Die) (x : Nat) : Die :=
  if d.get R.cascStatState = 1 ∧ d.isMaster ∧ x ≠ d.pos ∧ d.diePresent x ∧ 8 ≤ smapGet 0 d.casc.silent x then
    (d.fenceDie x).logErr .casc 0 0x0205 1 (leBytes 1 x)
  else d

end Die

/-! ### The commands -/

/-- ERR_HEAD_READ (R894). -/
def execErrHeadRead (c : Cls) (page : BitVec 10) (s : State) : Host.Outcome State Fault Refusal := act s (fun d => d.errHeadRead c page.toNat)

/-- POP (R894, R898, R902). -/
def execPop (c : Cls) (page : BitVec 10) (s : State) : Host.Outcome State Fault Refusal :=
  act s (fun d => d.onIndex c page.toNat 0x14 (fun d _ _ => d.errPop page.toNat))

/-- REWIND (R902). -/
def execRewind (c : Cls) (page : BitVec 10) (s : State) : Host.Outcome State Fault Refusal :=
  act s (fun d => d.onIndex c page.toNat 0x14 (fun d _ _ => d.errRewind page.toNat))

/-- CLRCNT. -/
def execClrcnt (c : Cls) (page : BitVec 10) (s : State) : Host.Outcome State Fault Refusal :=
  act s (fun d => d.onIndex c page.toNat 0x14 (fun d _ _ => d.errClear page.toNat))

/-- KICK (R902). -/
def execKick (c : Cls) (s : State) : Host.Outcome State Fault Refusal := act s (fun d => d.onPage c .errlog 0 Die.kick)

/-- STEWARD_WDOG (R902). -/
def execStewardWdog (s : State) : Host.Outcome State Fault Refusal := act s Die.watchdog

/-- RETRY (R911, R912). -/
def execRetry (pk : Packet) (s : State) : Host.Outcome State Fault Refusal := act s (fun d => d.retryRx pk)

/-- REQUEST_REISSUE (R913). -/
def execRequestReissue (s : State) : Host.Outcome State Fault Refusal := act s Die.reissue

/-- PAGE_LOCK_WRITE: LOCK is written 1; only a warm or cold reset clears it (R22, R950). -/
def execPageLockWrite (c : Cls) (page : BitVec 10) (s : State) : Host.Outcome State Fault Refusal :=
  act s (fun d => d.onIndex c page.toNat 0x2C (fun d t i => d.lockPage c t i true))

/-- CASC_DIE_LOST (R904). -/
def execCascDieLost (die : BitVec 2) (s : State) : Host.Outcome State Fault Refusal := act s (fun d => d.loseDie die.toNat)

/-- MASTER_TAKEOVER: the takeover count is reached in heartbeats, and in MALIVE where it is wired (R148, R150). -/
def execMasterTakeover (s : State) : Host.Outcome State Fault Refusal :=
  act s (fun d => if d.beatsGone && !d.maliveLives then d.takeOverNode else d)

/-- CASC_ISOLATED: heartbeats are gone while MALIVE keeps toggling (R149). -/
def execCascIsolated (s : State) : Host.Outcome State Fault Refusal :=
  act s (fun d => if d.beatsGone && d.maliveLives && !(d.rundown .die).fence then d.isolate else d)

end Sys2Proof.Machine
end

