-- ==== Sys2Proof/Machine/LinkCmds.lean ====
section
/-!
DEFINITION. Machine/LinkCmds.lean: the link layer's own commands (spec 05): CSYNC, the power handshake, replay, and the move to ACTIVE.
-/
namespace Sys2Proof.Machine
namespace Die

/-- Flits that a CSYNC shows as lost on a VC: (SENT − RCV) mod 2^15 (R231). -/
def csyncLoss (d : Die) (p v : Nat) (sent : BitVec 15) : Nat := (sent - (d.vc p v).rcv).toNat

/-- Lost flits of a VC are attributed and freed, and its open packet is discarded until the next HEAD (R231). -/
def csyncRepair (d : Die) (p v n : Nat) : Die :=
  if n = 0 then d
  else ((d.modVc p v (fun s => { s with
    rcv := s.rcv + BitVec.ofNat 15 n, ret := s.ret + BitVec.ofNat 15 n, discard := true, openLeft := 0, poisoned := false })).bump
      R.portCsyncFlits p 0 n).raise I.portCsync p

/-- A CSYNC for a VC pair; one beyond G is a protocol error and is ignored (R231). -/
def csyncTake (d : Die) (p vcp : Nat) (a b : BitVec 15) : Die :=
  let la := d.csyncLoss p (2 * vcp) a
  let lb := d.csyncLoss p (2 * vcp + 1) b
  let g := fun v => if d.isDrop p && v % 2 == 1 then 0 else (d.port p).grantG
  if g (2 * vcp) < la ∨ g (2 * vcp + 1) < lb then d.protoErr p
  else (d.csyncRepair p (2 * vcp) la).csyncRepair p (2 * vcp + 1) lb

/-- Does the supervisory field of a port flow: INIT, ACTIVE, or PS1 (R249)? -/
def supervised (d : Die) (p : Nat) : Bool := d.link p == 1 || d.link p == 2 || (d.link p == 3 && d.get R.portLinkPs p == 1)

/-- A power-down request of the far end (R246, R248). -/
def psRequest (d : Die) (p tgt : Nat) : Die :=
  if tgt = 0 ∨ tgt = 3 then d.protoErr p
  else match (d.port p).psReq with
    | some own =>
      d.modPort p (fun s => { s with psReq := none, psAgreed := some (BitVec.ofNat 2 (min own.toNat tgt)) })
    | none =>
      match d.psReason p tgt with
      | 0 => (d.queueMsg p (.lcmd 2 (BitVec.ofNat 16 tgt))).modPort p (fun s => { s with psAgreed := some (BitVec.ofNat 2 tgt) })
      | r => (d.queueMsg p (.lcmd 3 (BitVec.ofNat 16 r))).set R.portLinkNakrsn r p

/-- A port enters the agreed power state (R200, R201, R247). -/
def enterPs (d : Die) (p t : Nat) : Die :=
  let d := ((d.set R.portLinkState 3 p).set R.portLinkPs t p).withdrawPs p
  let d := d.raise I.portPs p
  if t = 2 then
    let d := d.set R.laneqPstatState 0 p
    d.forAll (List.range 4) (fun d l =>
      ((d.setBit R.laneqLaneLstatCdrLock false p l).setBit R.laneqLaneLstatBlLock false p l).setBit R.laneqLaneLstatSfLock false p l)
  else d

/-- May a port in INIT become ACTIVE (R135, R243, R300)? -/
def mayActivate (d : Die) (p : Nat) : Bool :=
  let s := d.port p
  d.link p == 1 && d.helloComplete p && !s.mismatch && s.hold.isNone && s.credSeen == 15
    && (!d.isDrop p || (s.settledIn && s.settledOut))
    && (d.isStack p || d.get R.cascStatState == 1) && (!d.isTrunk p || d.phase != 8)

/-- PORT.PSCTL is written: code 3 of TGT is refused, the rest takes effect; TGT 0 wakes the port, another asks (R19, R245, R251). -/
def psctlWrite (d : Die) (c : Cls) (p : Nat) (w : Word) : Die :=
  let t := w.toNat % 4
  let d := (d.setBit R.portPsctlAllow1 (w.getLsbD 2) p).setBit R.portPsctlAllow2 (w.getLsbD 3) p
  if t = 3 then d.accErr .port p c true (0x1000 * pageIndex .port p + 0x44) .code
  else
    let d := d.set R.portPsctlTgt t p
    if t = 0 ∧ d.get R.pwrModeState ≠ 2 then d.wakePort p else d.tryPsReq p

end Die

/-- CSYNC_RX (R231). -/
def execCsyncRx (p : BitVec 6) (vcp : BitVec 2) (sentA sentB : BitVec 15) (s : State) : Host.Outcome State Fault Refusal :=
  act s (fun d => if d.supervised p.toNat then d.csyncTake p.toNat vcp.toNat sentA sentB else d)

/-- CSYNC_PERIODIC: CSYNC for all four VC pairs is due once in 1,024 superframes (R230). -/
def execCsyncPeriodic (p : BitVec 6) (s : State) : Host.Outcome State Fault Refusal :=
  act s (fun d => d.modPort p.toNat (fun s => { s with csyncDue := [0, 1, 2, 3] }))

/-- CSYNC_REQ: the far end asks for CSYNC for all four VC pairs (R230). -/
def execCsyncReq (p : BitVec 6) (s : State) : Host.Outcome State Fault Refusal :=
  act s (fun d => if d.supervised p.toNat then d.modPort p.toNat (fun s => { s with csyncReq := [0, 1, 2, 3] }) else d)

/-- PS_REQ (R246, R248). -/
def execPsReq (p : BitVec 6) (tgt : BitVec 2) (s : State) : Host.Outcome State Fault Refusal :=
  act s (fun d => if d.supervised p.toNat then d.psRequest p.toNat tgt.toNat else d)

/-- PS_ACK: the far end agrees; a state already entered is ignored (R222, R247). -/
def execPsAck (p : BitVec 6) (tgt : BitVec 2) (s : State) : Host.Outcome State Fault Refusal :=
  act s (fun d =>
    if (d.port p.toNat).psReq.isSome && d.supervised p.toNat then
      d.modPort p.toNat (fun s => { s with psReq := none, psAgreed := some tgt })
    else d)

/-- PS_NAK: the request is over; the next one needs 4 superframes without flits again (R245, R246). -/
def execPsNak (p : BitVec 6) (reason : BitVec 4) (s : State) : Host.Outcome State Fault Refusal :=
  act s (fun d =>
    if d.supervised p.toNat then
      (d.modPort p.toNat (fun s => { s with psReq := none, quiet := 0 })).set R.portLinkNakrsn reason.toNat p.toNat
    else d)

/-- WAKE: the far end wakes the port from PS1; in PS0 it only withdraws requests (R222, R249, R251). -/
def execWake (p : BitVec 6) (s : State) : Host.Outcome State Fault Refusal :=
  act s (fun d =>
    let d := d.withdrawPs p.toNat
    if d.link p.toNat = 3 ∧ d.get R.portLinkPs p.toNat = 1 then (d.wakeUp p.toNat).dropWoken p.toNat else d)

/-- MSG_REPLAY: 16 superframes without MACK progress while messages are outstanding (R220). -/
def execMsgReplay (p : BitVec 6) (s : State) : Host.Outcome State Fault Refusal :=
  act s (fun d =>
    let x := d.port p.toNat
    if 16 ≤ x.noProg ∧ !x.unacked.isEmpty then
      ((d.modPort p.toNat (fun s => { s with replay := s.unacked, noProg := 0 })).bump R.portReplays p.toNat).raise I.portReplay p.toNat
    else d)

/-- LINK_ACTIVE: hello, credits and receipts are exchanged, and flits may flow (R243). -/
def execLinkActive (p : BitVec 6) (s : State) : Host.Outcome State Fault Refusal :=
  act s (fun d => if d.mayActivate p.toNat then (d.set R.portLinkState 2 p.toNat).raise I.portActive p.toNat else d)

/-- PSCTL_WRITE: PORT.PSCTL is written (R245, R251). -/
def execPsctlWrite (c : Cls) (p : BitVec 6) (w : Word) (s : State) : Host.Outcome State Fault Refusal :=
  act s (fun d => d.onPage c .port p.toNat (fun d => d.psctlWrite c p.toNat w))

/-- PS_ENTER: 64 superframes after the agreement (R247). -/
def execPsEnter (p : BitVec 6) (s : State) : Host.Outcome State Fault Refusal :=
  act s (fun d =>
    match (d.port p.toNat).psAgreed with
    | some t => if d.get R.portLinkPs p.toNat < t.toNat ∧ d.supervised p.toNat then d.enterPs p.toNat t.toNat else d.withdrawPs p.toNat
    | none => d)

/-- SIGNAL_DETECT: a receiver in PS2 detects the far end's transmitter (R250). -/
def execSignalDetect (p : BitVec 6) (s : State) : Host.Outcome State Fault Refusal :=
  act s (fun d =>
    if d.get R.portLinkPs p.toNat = 2 ∧ (d.port p.toNat).hold.isNone then ((d.withdrawPs p.toNat).wakeDown p.toNat).dropWoken p.toNat else d)

/-- PORT_WAKE: Kesil wakes a sleeping port: flits are queued for it, a loaded plan references it, or TGT is 0 (R251). -/
def execPortWake (p : BitVec 6) (s : State) : Host.Outcome State Fault Refusal :=
  act s (fun d =>
    let p := p.toNat
    if d.link p = 3 ∧ (d.port p).hold.isNone ∧ (d.flitsQueued p ∨ d.planNames p ∨ (d.get R.portPsctlTgt p = 0 ∧ d.get R.pwrModeState ≠ 2)) then
      d.wakePort p
    else d)

end Sys2Proof.Machine
end

