-- ==== Sys2Proof/Machine/HostLink.lean ====
section
/-!
DEFINITION. Machine/HostLink.lean: the host link, its power states, MSI-X and resets (spec 20, R810 to R816, R831, R854 to R862).
-/
namespace Sys2Proof.Machine
namespace Die

/-- Is a requester ID held in a valid HOST.RID_ALLOW entry (R831)? -/
def ridAllowed (d : Die) (rid : Nat) : Bool :=
  (List.range 4).any (fun i => d.bit R.hostRidAllowValid 0 i && d.get R.hostRidAllowRid 0 i == rid)

/-- A request of a requester that is not allowed (R831). -/
def peerUr (d : Die) : Die := (d.bump R.hostPeerUr).raise I.hostPeerUr

/-- Does the function serve memory requests: not in D3hot (R857)? -/
def inD0 (d : Die) : Bool := d.get R.hostLinkDstate != 3

/-! ### MSI-X (R854 to R856) -/

/-- A vector that is pending and may be sent now is sent, or marked in the gap that runs. -/
def sendPending (d : Die) (v : Nat) : Die :=
  if d.msix.enabled && d.inD0 && smapGet false d.msix.unmasked v && smapGet false d.msix.pba v then
    { d with msix := { d.msix with pba := smapSet false d.msix.pba v false } }.raiseVector v
  else d

/-- Every pending vector is tried. -/
def sendAllPending (d : Die) : Die := d.forAll (d.msix.pba.map (fun e => e.1)) sendPending

/-- A mask bit of a vector, or MSI-X enable, is written (R855). -/
def msixMask (d : Die) (v : Option Nat) (on : Bool) : Die :=
  match v with
  | some v => { d with msix := { d.msix with unmasked := smapSet false d.msix.unmasked v on } }.sendPending v
  | none => { d with msix := { d.msix with enabled := on } }.sendAllPending

/-- The gap of a vector ends; causes set during it go with one message, which starts the next gap (R856). -/
def gapEnd (d : Die) (v : Nat) : Die :=
  match smapGet none d.msix.gap v with
  | none => d
  | some marked =>
    let d : Die := { d with msix := { d.msix with gap := smapSet none d.msix.gap v none } }
    if marked then d.raiseVector v else d

/-! ### Link and power states (R811, R857 to R861) -/

/-- The link trains: CXL comes up only at 32 or 64 GT/s and at x8 or x16, and the host then enables CXL.mem (R810, R811). -/
def linkUp (d : Die) (speed width : Nat) (cxl : Bool) : Die :=
  if speed = 0 ∨ speed = 7 ∨ !([1, 2, 4, 8, 16] : List Nat).contains width then d
  else
    let on := cxl && decide (5 ≤ speed) && decide (8 ≤ width)
    let d := ((d.set R.hostLinkSpeed speed).set R.hostLinkWidth width).setBit R.hostLinkFlit (speed == 6)
    ((d.setBit R.hostLinkCxl on).setBit R.hostLinkMemEn (on && d.host.memActive)).raise I.hostLinkUp

/-- The link state as it reads when the link is down. -/
def clearLink (d : Die) : Die :=
  ((((d.set R.hostLinkSpeed 0).set R.hostLinkWidth 0).setBit R.hostLinkFlit false).setBit R.hostLinkCxl false).setBit R.hostLinkMemEn false

/-- The link goes down; in D3hot that is the way into L2 (log entry 37). -/
def hostLinkFalls (d : Die) : Die :=
  if d.get R.hostLinkSpeed = 0 then d
  else
    let d := if d.inD0 then d else { d with wake := { d.wake with l2 := true } }
    d.clearLink.raise I.hostLinkDown

/-- PMCSR is written (R857, R859): D0 opens the resume window, D3hot starts a residency; other states are not supported. -/
def pmcsr (d : Die) (st : Nat) : Die :=
  if st = 0 then (if d.inD0 then d else { d with wake := { d.wake with window := true } })
  else if st = 3 then
    if d.inD0 then { d.set R.hostLinkDstate 3 with wake := { d.wake with window := false, sent := false } } else d
  else d

/-- The function is in D0: the window closes, WAKE# is released, and latched causes set the WAKE cause (R855, R859, R860). -/
def enterD0 (d : Die) : Die :=
  if d.inD0 then d
  else
    let low := d.wake.sent && d.wake.l2
    let d : Die := { d.set R.hostLinkDstate 0 with wake := { d.wake with window := false, l2 := false } }
    let d := if low then d.drive 2 .wake true else d
    let d := if d.get R.pwrWakeCauseCause = 0 then d else d.raise I.hostWake
    d.sendAllPending

/-! ### PERST#, FLR and a lost link (R815, R862, R906) -/

/-- A page at its reset values: fields marked RWS stay, as does PAGE_LOCK, which only a warm or cold reset clears (R950), and
PAGE_EPOCH, which advances (R909). -/
def resetPage (d : Die) (t : PageType) (inst : Nat) : Die :=
  let pg := pageIndex t inst
  let keep (e : Nat × Word) : Bool := e.1 / 0x1000 != pg || e.1 % 0x1000 == 0x24 || e.1 % 0x1000 == 0x2C
  let d : Die := { d with regs := d.regs.filter keep, latch := d.latch.filter (fun e => e.1 / 4 / 0x1000 != pg) }
  d.hset R.hdrEpoch (d.hget R.hdrEpoch t inst + 1) t inst

/-- Is a queue-region address the first byte of a mailbox slot or of a DMA queue's slot? -/
def hostSlotStart (a : Nat) : Bool :=
  (decide (0x6010000 ≤ a ∧ a < 0x6011000) && a % 64 == 0)
    || (decide (0x6000000 ≤ a ∧ a < 0x6010000) && ((decide (a % 0x4000 < 0x2000) && a % 32 == 0)
      || (decide (0x2000 ≤ a % 0x4000 ∧ a % 0x4000 < 0x3000) && a % 16 == 0)))

/-- LOCK of every mailbox and DMA slot is cleared (R862). -/
def unlockSlots (d : Die) : Die :=
  let f (e : Nat × Byte) : Nat × Byte := if hostSlotStart e.1 then (e.1, e.2 &&& 0xFD#8) else e
  { d with cave := { d.cave with mem := (d.cave.mem.map f).filter (fun e => e.2 != 0) } }

/-- PERST# or an FLR resets the host interface (R815, R862): descriptors in flight stop with no record; the node runs on. PERST# after L2 opens the
resume window (R859). -/
def hostReset (d : Die) (flr : Bool) : Die :=
  let d := (((d.resetPage .host 0).resetPage .mbox 0).resetPage .dma 0).unlockSlots
  let win := !flr && d.wake.l2
  let d : Die := { d with
    msix := { enabled := false, unmasked := [], pba := [], gap := [] }
    host := { d.host with dma := [], mbox := [], order := [] }
    wake := { window := win, sent := false, l2 := false } }
  let d := if win then d.set R.hostLinkDstate 3 else d
  d.raise I.hostFlr

end Die

/-- HOST_RESET: `flr` is false for PERST# (R815). -/
def execHostReset (flr : Bool) (s : State) : Host.Outcome State Fault Refusal := act s (fun d => d.hostReset flr)

/-- HOST_LINK_UP (R811). -/
def execHostLinkUp (speed : BitVec 3) (width : BitVec 5) (cxl : Bool) (s : State) : Host.Outcome State Fault Refusal :=
  act s (fun d => d.linkUp speed.toNat width.toNat cxl)

/-- HOST_LINK_LOSS: the link has been down for 100 ms without PERST# (R815). -/
def execHostLinkLoss (s : State) : Host.Outcome State Fault Refusal := act s (fun d => if d.get R.hostLinkSpeed = 0 then d.hostReset true else d)

/-- HOST_LINK_DOWN (R815). -/
def execHostLinkDown (s : State) : Host.Outcome State Fault Refusal := act s Die.hostLinkFalls

/-- MSIX_GAP_END (R856). -/
def execMsixGapEnd (v : BitVec 8) (s : State) : Host.Outcome State Fault Refusal := act s (fun d => d.gapEnd v.toNat)

/-- MSIX_UNMASK: the mask bit of a vector, or with none the enable bit of MSI-X, is written; `on` lets messages go (R855). -/
def execMsixUnmask (v : Option (BitVec 8)) (on : Bool) (s : State) : Host.Outcome State Fault Refusal :=
  act s (fun d => d.msixMask (v.map BitVec.toNat) on)

/-- PMCSR_WRITE (R859). -/
def execPmcsrWrite (state : BitVec 2) (s : State) : Host.Outcome State Fault Refusal := act s (fun d => d.pmcsr state.toNat)

/-- D0_ENTERED (R860). -/
def execD0Entered (s : State) : Host.Outcome State Fault Refusal := act s Die.enterD0

end Sys2Proof.Machine
end

