-- ==== Sys2Proof/Machine/HostMem.lean ====
section
/-!
DEFINITION. Machine/HostMem.lean: the control region and its filter (spec 15, R615 to R625; spec 20, R818, R821 to R828, R844), and the cave aperture
(R819, R820, R796).
-/
namespace Sys2Proof.Machine

/-- The parts of a die's slice of the control region (table Control slice). -/
inductive Area where
  | sq (g : Nat) | cq (g : Nat) | dmaSq (q : Nat) | dmaCq (q : Nat) | mbox | none
  deriving DecidableEq, Repr

/-- The part that holds a slice offset. -/
def areaOf (a : Nat) : Area :=
  if a < 0x6000000 then (if a % 0x6000 < 0x4000 then .sq (a / 0x6000) else .cq (a / 0x6000))
  else if a < 0x6010000 then
    (if a % 0x4000 < 0x2000 then .dmaSq ((a - 0x6000000) / 0x4000) else if a % 0x4000 < 0x3000 then .dmaCq ((a - 0x6000000) / 0x4000) else .none)
  else if a < 0x6011000 then .mbox
  else .none

/-- The slot size of a part. -/
def slotSize : Area → Nat
  | .dmaSq _ => 32
  | .dmaCq _ => 16
  | _ => 64

/-- The runs of enabled bytes of a write from an address up. -/
def enRuns : Nat → List (Option Byte) → List (Nat × List Byte)
  | _, [] => []
  | a, Option.none :: r => enRuns (a + 1) r
  | a, some b :: r => match enRuns (a + 1) r with
    | (x, bs) :: t => if x = a + 1 then (a, b :: bs) :: t else (a, [b]) :: (x, bs) :: t
    | [] => [(a, [b])]

/-- A run cut where slots of `n` bytes end, at most `fuel` pieces. -/
def slotCuts : Nat → Nat → Nat → List Byte → List (Nat × List Byte)
  | 0, _, _, _ => []
  | _, _, _, [] => []
  | f + 1, n, a, bs => (a, bs.take (n - a % n)) :: slotCuts f n (a / n * n + n) (bs.drop (n - a % n))

namespace Die

/-- What the filter lets through: byte 0 of the slot keeps the bits that Kesil keeps (R616, R844). -/
def filtered (d : Die) (n mask a : Nat) (bs : List Byte) : List Byte :=
  match bs with
  | b :: r => if a % n = 0 then (b &&& ~~~(BitVec.ofNat 8 mask) ||| d.caveByte a &&& BitVec.ofNat 8 mask) :: r else bs
  | [] => []

/-- A host write that a named rule discards, shown in a page (R952). -/
def hostRefuse (d : Die) (t : PageType) (inst : Nat) : Die := d.accErr t inst .host true (0x1000 * pageIndex t inst) .refused

/-- A filtered write lands; a partial write to an uncorrectable line is discarded with ACCESS_ERR (R889). -/
def slotPut (d : Die) (t : PageType) (inst n mask a : Nat) (bs : List Byte) : Die × Bool :=
  match d.caveWriteLine a (d.filtered n mask a bs) with
  | (d, true) => (d, true)
  | (d, false) => (d.hostRefuse t inst, false)

/-- LOCK of the slot that holds an address. -/
def slotLocked (d : Die) (n a : Nat) : Bool := d.slotLock (a / n * n)

/-- A write to part of one slot of this die's slice passes the queue filter (R615 to R619, R625, R823, R844). `live` is false for an event that
replay injects (R769). -/
def slotWrite (d : Die) (live : Bool) (a : Nat) (bs : List Byte) : Die :=
  match areaOf a with
  | .sq g =>
    if !d.isHome g then d
    else if live && d.replayGroup g then d.hostRefuse .coll (g / 256)
    else if d.slotLocked 64 a then
      ((d.bump R.collOverwrite (g / 256)).logErr .coll (g / 256) 0x0A01 0 (leBytes 2 g)).raise I.collOverwrite (g / 256)
    else match d.slotPut .coll (g / 256) 64 2 a bs with
      | (d, true) => d.recHost 0 (a / 0x1000) (a % 0x1000) (some (g, d.groupTid g)) bs !live
      | (d, false) => d
  | .cq g => if d.isHome g then d.hostRefuse .coll (g / 256) else d
  | .dmaSq q =>
    if d.slotLocked 32 a then (d.logErr .dma 0 0x0A01 0 (leBytes 1 q)).raise (I.dmaOverwrite q)
    else (d.slotPut .dma 0 32 2 a bs).1
  | .dmaCq _ => d.hostRefuse .dma 0
  | .mbox =>
    if !d.isMaster then d
    else if d.slotLocked 64 a then ((d.bump R.mboxOverwrite).logErr .mbox 0 0x0A01 0 (leBytes 1 (a % 0x1000 / 64))).raise I.mboxOverwrite
    else (d.slotPut .mbox 0 64 6 a bs).1
  | .none => d

/-- A host write of one control line of this die's slice: its enabled bytes, slot by slot. -/
def lineWrite (d : Die) (a : Nat) (bytes : List (Option Byte)) : Die :=
  let n := slotSize (areaOf a)
  d.forAll ((enRuns a bytes).flatMap (fun r => slotCuts 65 n r.1 r.2)) (fun d p => d.slotWrite true p.1 p.2)

/-- Bytes and enables as a message to another die carries them: 256 is a byte not enabled. -/
def enNats (bytes : List (Option Byte)) : List Nat := bytes.map (fun b => match b with
  | some b => b.toNat
  | none => 256)

/-- A write to the control region: on the acting master it is the host's, and goes to the slice of its die; a follower applies what reaches it
(R814, R821, R823). -/
def regionWrite (d : Die) (ofs : Nat) (bytes : List (Option Byte)) : Die :=
  let x := ofs / 0x8000000
  if x = d.pos then (if d.underReset .cave 0 then d else d.lineWrite (ofs % 0x8000000) bytes)
  else if d.isMaster && d.diePresent x then d.emit (.toDie x "SLOT" (ofs :: enNats bytes))
  else d

/-- QUEUE_SLOT_WRITE through the alias of BAR2: it serves only while CXL.mem is not enabled, and only requesters that are allowed (R818, R831). -/
def aliasWrite (d : Die) (rid ofs : Nat) (bytes : List (Option Byte)) : Die :=
  if !d.inD0 || !d.isMaster || d.bit R.hostLinkMemEn then d.emit (.answer .host ofs .ur [])
  else if !d.ridAllowed rid then d.peerUr.emit (.answer .host ofs .ur [])
  else d.regionWrite ofs bytes

/-! ### Ledger summaries (R828) -/

/-- Ledger entries of a port in a state. -/
def ledIn (d : Die) (p : Nat) (st : LedState → Bool) : Nat := ((d.ledOf p).filter (fun e => st e.2.state)).length

/-- PORT.LEDGER.USED. -/
def ledUsed (d : Die) (p : Nat) : Nat := d.ledIn p (fun s => s != .free)

/-- PORT.DLV_HELD.SRC: entries in HELD (spec 08). -/
def heldSrc (d : Die) (p : Nat) : Nat := d.ledIn p (fun s => s == .held)

/-- PORT.DLV_HELD.DST: items stored for the port and not yet TAKEN. -/
def heldDst (d : Die) (p : Nat) : Nat :=
  min 0xFFFF (d.dlv.flows.map (fun e => match e.2 with
    | .dst f => if eidPort f.key.deid = p then f.items.length else 0
    | _ => 0)).sum

/-- A port's summary line but for TICK (table Ledger summary line). -/
def summaryTail (d : Die) (p : Nat) : List Byte :=
  leBytes 2 (d.ledUsed p) ++ leBytes 2 (d.heldSrc p) ++ leBytes 2 (d.heldDst p) ++ leBytes 4 0 ++ leBytes 8 (d.get64 R.portAccLo R.portAccHi p)
    ++ leBytes 8 (d.get64 R.portDlvdLo R.portDlvdHi p)
    ++ (List.range 4).flatMap (fun i => leBytes 4 (smapGet 0 d.host.returned (4 * p + i)).toNat) ++ leBytes 16 0

/-- The lines of DROP ports of which some field has changed are written anew (R828). -/
def edgeSummaries (d : Die) : Die :=
  if d.underReset .cave 0 then d
  else d.forAll (d.portsWith d.isDrop) (fun d p =>
    let a := 0x6020000 + 64 * p
    let t := d.summaryTail p
    if d.caveRead (a + 6) 58 = t then d else d.caveWrite a (leBytes 6 d.tick.count.toNat ++ t))

/-! ### The cave aperture (R819, R820, R796) -/

/-- A window access that R796 turns away: zeros, or nothing written, and ACCESS_ERR. -/
def windowClosed (d : Die) (ofs n : Nat) (write : Bool) : Die :=
  let d := d.accErr .chip 0 .host write (ofs % 0x4000000) .window
  if write then d else d.emit (.answer .host ofs .access (List.replicate n 0))

/-- A host write of cave bytes, line by line; a partial write to an uncorrectable line is discarded with ACCESS_ERR (R820, R889). -/
def hostCaveWrite (d : Die) (ofs a : Nat) (bytes : List (Option Byte)) : Die :=
  d.forAll ((enRuns a bytes).flatMap (fun r => lineCuts (r.2.length / 64 + 2) r.1 r.2)) (fun d p =>
    match d.caveWriteLine p.1 p.2 with
    | (d, true) => d
    | (d, false) => d.accErr .chip 0 .host true (ofs % 0x4000000) .refused)

/-- A read of this die's cave: an uncorrectable line completes as Unsupported Request (table Uncorrectable line outcomes). -/
def hostCaveRead (d : Die) (ofs a n : Nat) (ce ue : List Nat) : Die :=
  match d.caveFetch a n ce ue with
  | (d, none) => d.emit (.answer .host ofs .ok (d.caveRead a n))
  | (d, some _) => d.emit (.answer .host ofs .ur [])

/-- An access through a cave window. -/
def windowAccess (d : Die) (rid ofs : Nat) (write : Bool) (bytes : List (Option Byte)) (ce ue : List Nat) : Die :=
  let ur (d : Die) : Die := d.emit (.answer .host ofs .ur [])
  if !d.inD0 || !d.isMaster then ur d
  else if !d.ridAllowed rid then ur d.peerUr
  else
    let n := ofs / 2 ^ 30 % 16
    let len := bytes.length
    let die := d.get R.hostCwinDie 0 n
    let mg := d.bit R.hostCwinMgmt 0 n
    let t := d.get R.hostCwinTid 0 n
    let o := d.get R.hostCwinGib 0 n * 2 ^ 30 + ofs % 2 ^ 30
    if !d.bit R.hostCwinValid 0 n then ur d
    else if die ≠ d.pos then
      if d.diePresent die then d.emit (.toDie die "CWIN" ([mg.toNat, t, o, write.toNat] ++ enNats bytes)) else ur d
    else if d.underReset .cave 0 then ur d
    else match d.caveAddr (if mg then .mgmt else .tenant t) o len with
      | none => ur d
      | some a =>
        if !mg && !d.bit R.tenCtlHostCave (t / 4) (t % 4) then d.windowClosed ofs len write
        else if write then d.hostCaveWrite ofs a bytes
        else d.hostCaveRead ofs a len ce ue

end Die

/-- QUEUE_SLOT_WRITE: through CXL.mem, or with `bar2` through the alias (R615, R619, R818, R825). What a back-invalidation returns comes as this
command too. -/
def execQueueSlotWrite (bar2 : Bool) (rid : BitVec 16) (ofs : BitVec 29) (bytes : List (Option Byte)) (s : State) :
    Host.Outcome State Fault Refusal :=
  act s (fun d =>
    if bar2 then d.aliasWrite rid.toNat ofs.toNat bytes
    else if d.isMaster && !(d.inD0 && d.bit R.hostLinkMemEn) then d
    else d.regionWrite ofs.toNat bytes)

/-- CAVE_WINDOW_ACCESS (R819, R820). -/
def execCaveWindowAccess (rid : BitVec 16) (ofs : BitVec 34) (write : Bool) (bytes : List (Option Byte)) (ce ue : List (BitVec 34)) (s : State) :
    Host.Outcome State Fault Refusal :=
  act s (fun d => d.windowAccess rid.toNat ofs.toNat write bytes (ce.map BitVec.toNat) (ue.map BitVec.toNat))

end Sys2Proof.Machine
end

