-- ==== Sys2Proof/Machine/MboxBase.lean ====
section
/-!
DEFINITION. Machine/MboxBase.lean: the slots of the mailbox and its doorbells (spec 20, R841 to R847, R851).
-/
namespace Sys2Proof.Machine

/-- A mailbox slot that has done nothing: its expected PHASE is 1 (R841). -/
def MboxSlot.init : MboxSlot := { toggled := false, wait := 0, rung := 0 }

/-- The cave address of a mailbox slot (R822). -/
def mboxAddr (i : Nat) : Nat := 0x6010000 + 64 * i

namespace Die

/-- A mailbox slot. -/
def mboxSlot (d : Die) (i : Nat) : MboxSlot := smapGet MboxSlot.init d.host.mbox i

/-- A mailbox slot changed. -/
def modMbox (d : Die) (i : Nat) (f : MboxSlot → MboxSlot) : Die :=
  { d with host := { d.host with mbox := smapMod MboxSlot.init d.host.mbox i f } }

/-- The die's time in cycles (R60, log entry 4). -/
def nowCycles (d : Die) : Nat := d.tick.count.toNat * d.tickCycles + d.cycle

/-- MBOX.DBi is written 1 (R842, R843): the slot is locked and waits to be read, or the doorbell is discarded. -/
def mboxDoorbell (d : Die) (i : Nat) : Die :=
  if !d.isMaster then d
  else if d.slotLock (mboxAddr i) then (d.bump R.mboxBaddb).raise I.mboxBadDb
  else
    let d := d.caveWrite (mboxAddr i) [(d.caveByte (mboxAddr i) ||| 2#8) &&& 0xFB#8]
    let now := d.nowCycles
    let d := d.used.modMbox i (fun s => { s with wait := 0, rung := now })
    { d with host := { d.host with order := d.host.order ++ [i] } }

end Die

/-- MBOX_DOORBELL: MBOX.DBi is written 1 (R842, R843). -/
def execMboxDoorbell (c : Cls) (i : BitVec 6) (s : State) : Host.Outcome State Fault Refusal :=
  act s (fun d => d.onPage c .mbox 0 (fun d => d.mboxDoorbell i.toNat))

end Sys2Proof.Machine
end

