-- ==== Sys2Proof/Machine/Sideband.lean ====
section
/-!
DEFINITION. Machine/Sideband.lean: the SMB controller and target ports, the flash, JTAG and the GPIOs (spec 25, R967 to R992).
-/
namespace Sys2Proof.Machine
namespace Die

/-! ### The controller port (R967 to R974) -/

/-- The PMBus address of this die's VDD_CORE regulator; 0 for none (board header, VRADDR). -/
def vrAddr (d : Die) : Nat := (d.casc.vrAddr.getD d.pos 0).toNat

/-- Does Kesil talk to the regulator (R1030)? -/
def avsOn (d : Die) : Bool := d.vrAddr != 0 && d.bit R.pwrAvsEn

/-- The target address of a transaction (R977, R1027). -/
def jobAddr (d : Die) : SmbJob → Nat
  | .eeprom _ _ => 0x50
  | _ => d.vrAddr

/-- May Kesil originate a transaction (R967, R1030)? A VOUT_COMMAND carries the setpoint last commanded. -/
def jobAllowed (d : Die) : SmbJob → Bool
  | .eeprom _ n => d.boot.gnotik && decide (1 ≤ n.toNat ∧ n.toNat ≤ 256)
  | .vout code => d.boot.gnotik && d.avsOn && code.toNat == d.get R.pwrAvsSet
  | .sensors => d.boot.gnotik && d.avsOn

/-- The PMBus word of a setpoint code, in units of 1/4,096 V as the worked case under R974 has it (log entry 41). -/
def voutWord (code : Nat) : Nat := (600 + 5 * code) * 4096 / 1000

/-- What a whole transaction puts on the bus; PMBus transactions carry PEC (R968, R977, R1028). -/
def sendJob (d : Die) (j : SmbJob) : Die :=
  let a := d.jobAddr j
  match j with
  | .eeprom o _ => d.emit (.smb a false [BitVec.ofNat 8 (o.toNat / 256), BitVec.ofNat 8 o.toNat])
  | .vout c =>
    let bs := BitVec.ofNat 8 0x21 :: leBytes 2 (voutWord c.toNat)
    d.emit (.smb a true (bs ++ [BitVec.ofNat 8 (crc8 (BitVec.ofNat 8 (2 * a) :: bs))]))
  | .sensors => d.forAll [0x8B, 0x8C, 0x8D] (fun d c => d.emit (.smb a false [BitVec.ofNat 8 c]))

/-- The back-off of a retry (R972). -/
def backOff (d : Die) : Die := d.set R.smbBackoff (1 + (d.tick.count.toNat % 8 + 2 * d.pos) % 8)

/-- A transaction ends (R970 to R974, R1029): whole, lost, or NACKed and to be sent again after the back-off. -/
def smbEnd (d : Die) (j : SmbJob) (e : SmbEnd) : Die :=
  if !d.jobAllowed j then d
  else match e with
    | .ok _ =>
      let d : Die := { d.sendJob j with smb := { (d.sendJob j).smb with job := none } }
      match j with
      | .vout _ =>
        let d := d.bump R.pwrPmbWrites
        { d with pwr := { d.pwr with fails := 0 } }
      | _ => d
    | .lost byte bit ack =>
      let d := (d.bump R.smbArbLost).raise I.smbArbLost
      let d := ((d.set R.smbLossAddr (d.jobAddr j)).set R.smbLossByte byte.toNat).set R.smbLossBit bit.toNat
      let d := (d.setBit R.smbLossAck ack).backOff
      { d with smb := { d.smb with job := some j } }
    | .nak =>
      let d := ((d.bump R.smbNak).raise I.smbNak).backOff
      { d with smb := { d.smb with job := some j } }

/-! ### The flash (R982, R983, R1002) -/

/-- Does a slot of the flash run: boot has passed step 2 from it (R983, R1001, R1003)? -/
def slotRuns (d : Die) : Bool := decide (3 ≤ d.boot.stage) && !d.boot.recovery && !d.bit R.chipStrapBootSrc

/-- The flash address of a command: FL_ADDR aligned down to the command's size. -/
def flashAt (d : Die) (code : Nat) : Nat :=
  let n := if code = 1 then 65536 else 256
  d.get R.smbFlAddr / n * n

/-- A write of SMB.FL_CMD (R983, R1002). -/
def flashCmd (d : Die) (c : Cls) (code : Nat) : Die :=
  let a := d.flashAt code
  let src := d.bit R.chipStrapBootSrc
  if d.bit R.smbFlBusy then d.refuse .smb 0 c 0x80
  else if src && code == 1 then d.refuse .smb 0 c 0x80
  else if d.slotRuns && a / 0x02000000 == d.get R.secBootSlot then d.refuse .smb 0 c 0x80
  else
    let d : Die := { d with smb := { d.smb with cmd := some (code, a) } }
    let d := d.setBit R.smbFlBusy true
    if src && code == 2 then d
    else d.emit (.flash code a (if code = 2 then (List.range 64).flatMap (fun i => leBytes 4 (d.get R.smbFlBuf 0 i)) else []))

/-- The buffer's 256 bytes. -/
def flashBuf (d : Die) : List Byte := (List.range 64).flatMap (fun i => leBytes 4 (d.get R.smbFlBuf 0 i))

/-- A byte of the flash; an erased one reads 0xFF. -/
def flashByte (d : Die) (a : Nat) : Byte := smapGet 0xFF d.smb.flash a

/-- Bytes of the flash set. -/
def flashPut (d : Die) (a : Nat) (bs : List Byte) : Die :=
  { d with smb := { d.smb with flash := (bs.zipIdx).foldl (fun m x => smapSet 0xFF m (a + x.2) x.1) d.smb.flash } }

/-- A byte programmed: over an erased byte the byte itself, over another one an open value (log entry 3). -/
def programByte (d : Die) (a : Nat) (b : Byte) : Die :=
  if d.flashByte a = 0xFF then d.flashPut a [b] else d.used.flashPut a [d.free 8]

/-- The running flash command completes; what one that failed at the device leaves in its range is open (log entry 3). -/
def flashDone (d : Die) (err : Bool) : Die :=
  match d.smb.cmd with
  | none => d
  | some (code, a) =>
    let d : Die := { d with smb := { d.smb with cmd := none } }
    let d := ((d.setBit R.smbFlBusy false).setBit R.smbFlErr err).raise I.smbFlDone
    if code = 1 then
      if err then d.used.flashPut a (leBytes 65536 (d.free (8 * 65536)).toNat)
      else { d with smb := { d.smb with flash := d.smb.flash.filter (fun e => !decide (a ≤ e.1 ∧ e.1 < a + 65536)) } }
    else if code = 2 then
      if d.bit R.chipStrapBootSrc then
        { d with smb := { d.smb with
          image := (d.flashBuf.zipIdx).foldl (fun m x => smapSet 0 m (a + x.2) x.1) d.smb.image, imageTop := max d.smb.imageTop (a + 256) } }
      else if err then d.used.flashPut a (leBytes 256 (d.free (8 * 256)).toNat)
      else d.forAll (d.flashBuf.zipIdx) (fun d x => d.programByte (a + x.2) x.1)
    else
      let (d, bs) : Die × List Byte :=
        if err then (d.used, leBytes 256 (d.free (8 * 256)).toNat) else (d, (List.range 256).map (fun i => d.flashByte (a + i)))
      d.forAll (List.range 64) (fun d i => d.set R.smbFlBuf (leNat ((bs.drop (4 * i)).take 4)) 0 i)

/-! ### GPIOs (R989 to R992) -/

/-- The function in force on a pin. -/
def pinFunc (d : Die) (n : Nat) : Nat := d.get R.gpioFunc 0 (n / 8) (n % 8)

/-- The unit that owns a function, coded as GPIO.OWNER codes it (table GPIO functions). -/
def funcOwner (f : Nat) : Nat := ([0, 1, 2, 3, 4, 5, 6, 7, 8] : List Nat).getD f 0

/-- A claim or a release of a pin at its edge (R989, R990, R992). -/
def claimPin (d : Die) (n f : Nat) : Die :=
  let cur := d.pinFunc n
  let held := decide (2 ≤ f) && (List.range 16).any (fun m => m != n && d.pinFunc m == f)
  if f = cur then d
  else if held || (cur != 0 && f != 0) then d.refusedClaim (some n) 1
  else d.set R.gpioFunc f 0 (n / 8) (n % 8)

/-- GPIO.FUNC is written: a reserved code is discarded, every other field claims or releases its pin at the next edge (R19, R990, R992). -/
def gpioFuncWrite (d : Die) (c : Cls) (reg : Nat) (w : Word) : Die :=
  d.forAll (List.range 8) (fun d j =>
    let f := fieldGet w (4 * j) 4
    if 9 ≤ f then d.accErr .gpio 0 c true (0x1000 * pageIndex .gpio 0 + 0x40 + 4 * reg) .code
    else if f = d.pinFunc (8 * reg + j) then d
    else { d with own := { d.own with pinAsk := d.own.pinAsk ++ [(8 * reg + j, f, c)] } })

/-- Pin claims and releases take effect at an edge, in the order of the accesses (R990, R991). -/
def edgePins (d : Die) : Die :=
  let l := d.own.pinAsk
  { d with own := { d.own with pinAsk := [] } }.forAll l (fun d x => d.claimPin x.1 x.2.1)

/-- The level that a SW pin drives: none while its output is off. -/
def swLevel (d : Die) (n : Nat) : Option Bool :=
  if d.pinFunc n = 1 ∧ d.get R.gpioOe / 2 ^ n % 2 = 1 then some (d.get R.gpioOut / 2 ^ n % 2 == 1) else none

/-- SW pins follow GPIO.OUT and GPIO.OE: those whose level changed are driven. -/
def swUpdate (before d : Die) : Die :=
  d.forAll (List.range 16) (fun d n => match d.swLevel n with
    | some l => if before.swLevel n = some l then d else d.emit (.pin (.sw n) l)
    | none => d)

/-- A pin changes its level: GPIO.IN follows, a SW pin reports the edge it watches, and MALIVE counts as a toggle (R147, R148). -/
def pinChange (d : Die) (n : Nat) (level : Bool) : Die :=
  let was := d.get R.gpioIn / 2 ^ n % 2 == 1
  if was = level then d
  else
    let m := d.get R.gpioIn
    let d := d.set R.gpioIn (if level then m + 2 ^ n else m - 2 ^ n)
    if d.pinFunc n = 7 then { d with casc := { d.casc with maSeen := true } }
    else if d.pinFunc n = 1 ∧ d.get R.gpioEdge 0 0 n / (if level then 1 else 2) % 2 = 1 then d.raise (I.gpioEdge n)
    else d

end Die

/-! ### The commands -/

/-- MCTP: a packet of MCTP over SMBus for this die; the SPDM request that it carries is a command of its own (R802, R975). -/
def execMctp (_data : List Byte) (s : State) : Host.Outcome State Fault Refusal := act s (fun d => d.bump R.smbTgtXfer)

/-- RADDR: a die-space address for RREAD and RWRITE (R975). -/
def execRaddr (a : Word) (s : State) : Host.Outcome State Fault Refusal :=
  act s (fun d => { d.bump R.smbTgtXfer with smb := { (d.bump R.smbTgtXfer).smb with raddr := a.setWidth 26 } })

/-- SMB_TARGET_UNKNOWN_COMMAND: a target transaction with a bad PEC or a command that the table Target commands lacks (R975). -/
def execSmbTargetUnknownCommand (code : BitVec 8) (badPec : Bool) (s : State) : Host.Outcome State Fault Refusal :=
  act s (fun d =>
    if badPec || !decide (0x0F ≤ code.toNat ∧ code.toNat ≤ 0x12) then (d.bump R.smbTgtErr).raise I.smbTgtErr else d)

/-- SMB_TRANSACTION: a transaction of the controller port ends (R967 to R974). -/
def execSmbTransaction (j : SmbJob) (e : SmbEnd) (s : State) : Host.Outcome State Fault Refusal := act s (fun d => d.smbEnd j e)

/-- SMB_BACKOFF_END: the transaction that waits is sent again, whole; how that attempt ends is a command of its own (R972). -/
def execSmbBackoffEnd (s : State) : Host.Outcome State Fault Refusal := act s (fun d => { d with smb := { d.smb with job := none } })

/-- SMB_SCL_TIMEOUT: SCL has stayed low for more than 25 ms (R973). -/
def execSmbSclTimeout (s : State) : Host.Outcome State Fault Refusal :=
  act s (fun d => ((d.bump R.smbTimeout).raise I.smbTimeout).backOff)

/-- ERASE of the block at FL_ADDR (R983). -/
def execErase (c : Cls) (s : State) : Host.Outcome State Fault Refusal := act s (fun d => d.onPage c .smb 0 (fun d => d.flashCmd c 1))

/-- PROGRAM of 256 bytes from the buffer (R983, R1002). -/
def execProgram (c : Cls) (s : State) : Host.Outcome State Fault Refusal := act s (fun d => d.onPage c .smb 0 (fun d => d.flashCmd c 2))

/-- FLASH_READ: 256 bytes into the buffer (R983). -/
def execFlashRead (c : Cls) (s : State) : Host.Outcome State Fault Refusal := act s (fun d => d.onPage c .smb 0 (fun d => d.flashCmd c 3))

/-- FL_DONE: the running flash command completes. -/
def execFlDone (err : Bool) (s : State) : Host.Outcome State Fault Refusal := act s (fun d => d.flashDone err)

/-- JTAG_IR_UPDATE: an instruction is loaded. One that drives pins starts a die-wide run-down, at whose end the die leaves the node as a fenced
die; while debug is locked, only those of R806 exist (R806, R984, R985). -/
def execJtagIrUpdate (ir : JtagIr) (s : State) : Host.Outcome State Fault Refusal :=
  actRaw s (fun d =>
    let d : Die := { d with smb := { d.smb with jtag := if ir = .other ∧ !d.debugOpen then .bypass else ir } }
    if d.alive ∧ (ir = .extest ∨ ir = .extestPulse ∨ ir = .extestTrain) then
      let d := d.startRundown .die (d.unitBound .die)
      d.setRundown .die { d.rundown .die with fence := true, reopen := false }
    else d)

/-- JTAG_RESET: TRST# or Test-Logic-Reset returns the TAP to IDCODE, and not the die (R985). -/
def execJtagReset (_trst : Bool) (s : State) : Host.Outcome State Fault Refusal :=
  actRaw s (fun d => { d with smb := { d.smb with jtag := .idcode } })

/-- GPIO_FUNC_WRITE (R992). -/
def execGpioFuncWrite (c : Cls) (reg : BitVec 1) (w : Word) (s : State) : Host.Outcome State Fault Refusal :=
  act s (fun d => d.onPage c .gpio 0 (fun d => d.gpioFuncWrite c reg.toNat w))

/-- GPIO_EDGE: a pin has changed its level. -/
def execGpioEdge (n : BitVec 4) (level : Bool) (s : State) : Host.Outcome State Fault Refusal := act s (fun d => d.pinChange n.toNat level)

end Sys2Proof.Machine
end

