-- ==== Sys2Proof/Machine/PowerCmds.lean ====
section
/-!
DEFINITION. Machine/PowerCmds.lean: adaptive voltage, QUIET, temperatures and THERM# (spec 27, R1026 to R1050).
-/
namespace Sys2Proof.Machine
namespace Die

/-- An AVS period: the margin is read, and the setpoint moves within the floor and 0.80 V (R1027). -/
def avsPeriod (d : Die) (margin : BitVec 8) (stayed : Bool) : Die :=
  if !d.boot.gnotik || !d.avsOn then d
  else
    let d := d.set R.pwrAvsMargin margin.toNat
    let m := tempOf margin.toNat
    let now := d.get R.pwrAvsSet
    let want := if m < 0 then now + 2 else if 24 < m ∧ stayed then now - 1 else now
    d.set R.pwrAvsSet (max (d.get R.pwrAvsFloor) (min 0x28 want))

/-- The three sensor reads of the regulator (R1028); a power beyond CORE_P's 20 bits is an open value (log entry 3). -/
def pmbusPoll (d : Die) (vout iout temp : Nat) : Die :=
  if !d.boot.gnotik || !d.avsOn then d
  else
    let d := ((d.set R.pwrCoreVout vout).set R.pwrCoreIout iout).set R.pwrCoreTemp temp
    let d : Die := { d with pwr := { d.pwr with fails := 0 } }
    if vout * iout < 2 ^ 20 then d.set R.pwrCorePMw (vout * iout) else d.used.set R.pwrCorePMw (d.free 20).toNat

/-- A PMBus transaction is abandoned (R1029). -/
def pmbusAbandon (d : Die) : Die :=
  if !d.avsOn then d
  else
    let n := d.pwr.fails + 1
    let d : Die := { d.bump R.pwrPmbFail with pwr := { d.pwr with fails := n }, smb := { d.smb with job := none } }
    if n = 3 then d.raise I.pwrAvsFail else d

/-- PWR.MODE.REQ is written QUIET (R1042, R1043). -/
def quietAsk (d : Die) (c : Cls) : Die :=
  if d.planLoaded then d.refuse .pwr 0 c 0x40 else (d.set R.pwrModeReq 1).startQuiet

/-- PWR.MODE.REQ is written RUN (R1044, R1049). -/
def runAsk (d : Die) (c : Cls) : Die :=
  if d.quietHeld then d.refuse .pwr 0 c 0x40
  else
    let d := d.set R.pwrModeReq 0
    match d.get R.pwrModeState with
    | 1 => { d with pwr := { d.pwr with runAsked := true } }
    | 2 => d.leaveQuiet
    | _ => d

/-- LEAVING ends: every port that was to wake is ACTIVE; a run-down that PAGE_CTL holds stays (R1044). -/
def quietLeft (d : Die) : Die :=
  if d.get R.pwrModeState = 3 ∧ d.pwr.woken.all (fun p => d.link p == 2) then
    let d : Die := { d.pwrState 0 with pwr := { (d.pwrState 0).pwr with woken := [], quiet := false } }
    if d.mayReopen .die then d.setRundown .die RunDown.none else d
  else d

/-- The temperatures of the junction sensors (R1046, R1047, R1050). -/
def tjSample (d : Die) (temps : List (BitVec 8)) : Die :=
  let ts := temps.map (fun t : BitVec 8 => tempOf t.toNat)
  match ts.max? with
  | none => d
  | some hot =>
    let was := tempOf (d.get R.pwrTjCur)
    let code (t : Int) : Nat := (t % 256).toNat
    let d := (d.set R.pwrTjCur (code hot)).set R.pwrTjHot (ts.findIdx (· == hot))
    let d := if tempOf (d.get R.pwrTjMax) < hot then d.set R.pwrTjMax (code hot) else d
    let cross (lim : Nat) : Bool := decide (was < (lim : Int) ∧ (lim : Int) ≤ hot)
    let d := if cross (d.get R.pwrThermCtlWarn) then d.raise I.pwrTjWarn else d
    let d := if cross (d.get R.pwrThermCtlCrit) then (d.raise I.pwrTjCrit).startQuiet else d
    if 125 ≤ hot then
      let d := d.drive 4 .errFatal false
      { d with pwr := { d.pwr with tripped := true }, boot := { d.boot with cause := 3 } }
    else d

/-- THERM# asserts or deasserts, where PWR holds the pin (R1048). -/
def thermPin (d : Die) (on : Bool) : Die :=
  if (d.pinOf 3).isNone || d.pwr.therm == on then d
  else
    let d : Die := { d with pwr := { d.pwr with therm := on } }
    if on then
      let d := (d.raise I.pwrThermPin).wakeCause 4
      if d.get R.pwrThermCtlPinAct = 2 then d.startQuiet else d
    else d

/-- PWR.THERM_CTL is written: thresholds out of their ranges discard the write; a reserved action keeps its field (R19, R1047, R1048). -/
def thermWrite (d : Die) (c : Cls) (w : Word) : Die :=
  let warn := fieldGet w 0 8
  let crit := fieldGet w 8 8
  if warn < 60 ∨ 105 < warn ∨ crit ≤ warn ∨ 115 < crit then d.refuse .pwr 0 c 0x44
  else
    let d := (d.set R.pwrThermCtlWarn warn).set R.pwrThermCtlCrit crit
    let act (d : Die) (f : Fld) : Die :=
      let v := fieldGet w f.lsb 2
      if v = 3 then d.accErr .pwr 0 c true (0x1000 * pageIndex .pwr 0 + 0x44) .code else d.set f v
    act (act d R.pwrThermCtlPinAct) R.pwrThermCtlCaveAct

end Die

/-- AVS_PERIOD (R1027). -/
def execAvsPeriod (margin : BitVec 8) (stayed : Bool) (s : State) : Host.Outcome State Fault Refusal := act s (fun d => d.avsPeriod margin stayed)

/-- PMBUS_POLL (R1028). -/
def execPmbusPoll (vout iout : BitVec 12) (temp : BitVec 8) (s : State) : Host.Outcome State Fault Refusal :=
  act s (fun d => d.pmbusPoll vout.toNat iout.toNat temp.toNat)

/-- PMBUS_ABANDON (R1029). -/
def execPmbusAbandon (s : State) : Host.Outcome State Fault Refusal := act s Die.pmbusAbandon

/-- QUIET_REQUEST (R1042, R1043). -/
def execQuietRequest (c : Cls) (s : State) : Host.Outcome State Fault Refusal := act s (fun d => d.onPage c .pwr 0 (fun d => d.quietAsk c))

/-- RUN_REQUEST (R1044, R1049). -/
def execRunRequest (c : Cls) (s : State) : Host.Outcome State Fault Refusal := act s (fun d => d.onPage c .pwr 0 (fun d => d.runAsk c))

/-- QUIET_LEAVE_DONE (R1044). -/
def execQuietLeaveDone (s : State) : Host.Outcome State Fault Refusal := act s Die.quietLeft

/-- TJ_SAMPLE (R1046). -/
def execTjSample (temps : List (BitVec 8)) (s : State) : Host.Outcome State Fault Refusal := act s (fun d => d.tjSample temps)

/-- THERM_ASSERT (R1048). -/
def execThermAssert (on : Bool) (s : State) : Host.Outcome State Fault Refusal := act s (fun d => d.thermPin on)

end Sys2Proof.Machine
end

