-- ==== Sys2Proof/Machine/Security.lean ====
section
/-!
DEFINITION. Machine/Security.lean: the debug lock, the fuses and SPDM (spec 19, R797 to R809). Whether a signature verifies comes with the command;
signatures that Kesil makes, its certificate chain and its ROM digest are open values (log entry 3).
-/
namespace Sys2Proof.Machine
namespace Die

/-! ### Debug (R806 to R808) -/

/-- SEC.DBG.STATE changes, and reports it. -/
def setDebug (d : Die) (st : Nat) : Die :=
  if d.get R.secDbgState = st then d else (d.set R.secDbgState st).raise I.secDbgChange

/-- The 256 bytes of the debug token. -/
def debugToken (d : Die) : List Byte := (List.range 64).flatMap (fun i => leBytes 4 (d.get R.secDbgTokToken 0 i))

/-- The die serial from fuses (CHIP.SERIAL). -/
def chipSerial (d : Die) : Nat := d.get64 R.chipSerialLo R.chipSerialHi

/-- Is a fuse slot revoked? -/
def keyRevoked (d : Die) (i : Nat) : Bool := d.get R.secFuseStatRevoked / 2 ^ i % 2 == 1

/-- Does a key hash stand in a fuse slot that is not revoked? -/
def keyFused (d : Die) (h : List Byte) : Bool := (List.range 4).any (fun i => !d.keyRevoked i && d.sec.keys.getD i [] == h)

/-- The token is good (R807). -/
def tokenOk (d : Die) (sigOk : Bool) : Bool :=
  let t := d.debugToken
  sigOk && t.take 8 == leBytes 8 d.chipSerial && (t.drop 8).take 8 == leBytes 8 d.sec.nonce.toNat
    && ((t.drop 16).take 48).all (· == 0) && d.keyFused (sha384 ((t.drop 64).take 96))

/-- SEC.DBG.UNLOCK is written (R807); in production test debug stays locked (R987). -/
def debugUnlock (d : Die) (sigOk : Bool) : Die :=
  if d.bit R.chipStrapTestMode then d else d.setDebug (if d.tokenOk sigOk then 1 else 2)

/-- The latch key of the high dword at a die-space address, for a requester class (R955). -/
def latchKey (a : Nat) (c : Cls) : Nat := 4 * a + clsCode c

/-- A read of DBG_NONCE_LO: a fresh nonce, its high half latched for the class (R807, R955). -/
def nonceRead (d : Die) (c : Cls) : Die × Word :=
  let n := d.free 64
  let d := d.used
  let hi := BitVec.ofNat 32 (n.toNat / 2 ^ 32)
  ({ d with sec := { d.sec with nonce := n }, latch := smapSet 0 d.latch (latchKey (0x1000 * pageIndex .sec 0 + 0x60) c) hi }, BitVec.ofNat 32 n.toNat)

/-! ### Fuses (R800) -/

/-- May a fuse command run? -/
def fuseOpen (d : Die) : Bool := !d.debugOpen && !d.locked .sec

/-- SVN_COMMIT (R800). -/
def svnCommit (d : Die) (c : Cls) : Die :=
  if d.fuseOpen then (d.set R.secFuseStatFsvn (max (d.get R.secFuseStatFsvn) (d.get R.secBootSvn))).raise I.secFuseDone
  else d.refuse .sec 0 c 0x6C

/-- REVOKE of a slot other than the running image's (R800). -/
def revoke (d : Die) (c : Cls) (slot : Nat) : Die :=
  if d.fuseOpen && slot != d.get R.secBootKeyidx then
    (d.set R.secFuseStatRevoked (d.get R.secFuseStatRevoked ||| 2 ^ slot)).raise I.secFuseDone
  else d.refuse .sec 0 c 0x6C

/-! ### SPDM (R802 to R805) -/

/-- The connection state of a transport. -/
def spdmState (d : Die) (m : Bool) : Nat := smapGet 0 d.sec.spdm m.toNat

/-- The connection state written. -/
def setSpdm (d : Die) (m : Bool) (v : Nat) : Die := { d with sec := { d.sec with spdm := smapSet 0 d.sec.spdm m.toNat v } }

/-- A response. -/
def spdmOut (d : Die) (code : Nat) (body : List Byte) : Die := d.emit (.spdm code body)

/-- An ERROR response with its error code. -/
def spdmError (d : Die) (e : Nat) : Die := d.spdmOut 0x7F [BitVec.ofNat 8 e]

/-- A request is served once Gnotik runs, over DOE only on the acting master (R802, R1004); it counts, and one that the connection's state does not
allow is answered with ERROR UnexpectedRequest. -/
def spdm (d : Die) (m : Bool) (need : Nat) (f : Die → Die) : Die :=
  if !d.boot.gnotik || (!m && !d.isMaster) then d
  else
    let d := if m then d.bump R.secSpdmMctpReq else d.bump R.secSpdmDoeReq
    if d.spdmState m < need then d.spdmError 4 else f d

/-- `n` bytes of an open value. -/
def freeBytes (d : Die) (n : Nat) : Die × List Byte := (d.used, leBytes n (d.free (8 * n)).toNat)

/-- The image that runs, signature block and BODY, from flash or from image memory (R798, R1002). -/
def runningImage (d : Die) : List Byte :=
  let base := if d.bit R.secBootSlot then 0x02000000 else 0
  let byte (o : Nat) : Byte := if d.bit R.chipStrapBootSrc then smapGet 0 d.smb.image o else smapGet 0xFF d.smb.flash (base + o)
  let blen := leNat ((List.range 4).map (fun i => byte (0x18 + i)))
  (List.range (0x200 + blen)).map byte

/-- The value of a measurement block of this die (table Measurement blocks); block 1's digests are open. -/
def measurement (d : Die) (k : Nat) : List Byte :=
  let e : Die := { d with regs := d.sec.snap }
  match k with
  | 1 => leBytes 48 (d.free 384).toNat
  | 2 => sha384 d.runningImage
  | 3 => sha384 d.boot.tables
  | 4 => sha384 (d.fpPlans.flatMap (fun p => leBytes 1 p.tid ++ leBytes 4 p.planId ++ leBytes 8 p.hash.toNat))
  | 5 => leBytes 8 (e.get64 R.detFpLo R.detFpHi) ++ leBytes 8 (e.get64 R.detSfpLo R.detSfpHi)
  | 6 => [BitVec.ofNat 8 (e.get R.secDbgState)] ++ (List.range 32).map (fun i =>
      BitVec.ofNat 8 ((List.range 8).map (fun b => 2 ^ b * e.get R.tenCtlDebugAllow ((8 * i + b) / 4) ((8 * i + b) % 4))).sum)
  | _ => [BitVec.ofNat 8 (e.get R.secBootSvn), BitVec.ofNat 8 (e.get R.secFuseStatFsvn)]

/-- One measurement block: its index, its length and its value. -/
def blockBytes (ix : Nat) (v : List Byte) : List Byte := leBytes 1 ix ++ leBytes 2 v.length ++ v

/-- The blocks that a transport reports: the die's own, and over DOE those of the other present dies, which come with the command (R804). -/
def blocks (d : Die) (m : Bool) (others : List (BitVec 8 × List Byte)) : List (Nat × List Byte) :=
  let own := (List.range 7).map (fun i => (16 * d.pos + i + 1, d.measurement (i + 1)))
  let far := others.filterMap (fun x => let die := x.1.toNat / 16
    if !m && die != d.pos && d.diePresent die && decide (1 ≤ x.1.toNat % 16 ∧ x.1.toNat % 16 ≤ 7) then some (x.1.toNat, x.2) else none)
  sortLe (fun a b => decide (a.1 ≤ b.1)) (own ++ far)

/-- GET_MEASUREMENTS: operation 0 asks for the number of blocks, 0xFF for all, another for that block (R805). -/
def spdmMeasure (d : Die) (m : Bool) (op : Nat) (sign : Bool) (nonce : List Byte) (others : List (BitVec 8 × List Byte)) : Die :=
  let bs := d.blocks m others
  let pick := if op = 0xFF then bs else bs.filter (fun x => x.1 == op)
  let d := d.used
  if op = 0 then d.spdmOut 0x60 [BitVec.ofNat 8 bs.length]
  else if pick.isEmpty then d.spdmError 1
  else
    let (d, sig) := if sign then d.freeBytes 96 else (d, [])
    d.spdmOut 0x60 ([BitVec.ofNat 8 pick.length] ++ pick.flatMap (fun x => blockBytes x.1 x.2) ++ (if sign then nonce else []) ++ sig)

end Die

/-- DEBUG_UNLOCK (R807). -/
def execDebugUnlock (c : Cls) (sigOk : Bool) (s : State) : Host.Outcome State Fault Refusal :=
  act s (fun d => d.onPage c .sec 0 (fun d => d.debugUnlock sigOk))

/-- DEBUG_LOCK (R808). -/
def execDebugLock (c : Cls) (s : State) : Host.Outcome State Fault Refusal := act s (fun d => d.onPage c .sec 0 (fun d => d.setDebug 0))

/-- DBG_NONCE_READ (R807). -/
def execDbgNonceRead (c : Cls) (s : State) : Host.Outcome State Fault Refusal :=
  act s (fun d => d.onPage c .sec 0 (fun d => match d.nonceRead c with
    | (d, w) => d.emit (.answer c (0x1000 * pageIndex .sec 0 + 0x5C) .ok (leBytes 4 w.toNat))))

/-- SVN_COMMIT (R800). -/
def execSvnCommit (c : Cls) (s : State) : Host.Outcome State Fault Refusal := act s (fun d => d.onPage c .sec 0 (fun d => d.svnCommit c))

/-- REVOKE (R800). -/
def execRevoke (c : Cls) (slot : BitVec 2) (s : State) : Host.Outcome State Fault Refusal :=
  act s (fun d => d.onPage c .sec 0 (fun d => d.revoke c slot.toNat))

/-- GET_VERSION: SPDM 1.3 (R802). It opens a connection. -/
def execGetVersion (mctp : Bool) (s : State) : Host.Outcome State Fault Refusal :=
  act s (fun d => d.spdm mctp 0 (fun d => (d.setSpdm mctp 1).spdmOut 0x04 [0x13]))

/-- GET_CAPABILITIES: certificates, challenges and signed measurements; no session, key exchange or mutual authentication (R802). -/
def execGetCapabilities (mctp : Bool) (s : State) : Host.Outcome State Fault Refusal :=
  act s (fun d => d.spdm mctp 1 (fun d => (d.setSpdm mctp (max 2 (d.spdmState mctp))).spdmOut 0x61 []))

/-- NEGOTIATE_ALGORITHMS: ECDSA P-384 and SHA-384 (R803). -/
def execNegotiateAlgorithms (mctp : Bool) (s : State) : Host.Outcome State Fault Refusal :=
  act s (fun d => d.spdm mctp 2 (fun d => (d.setSpdm mctp 3).spdmOut 0x63 []))

/-- GET_DIGESTS: the digest of slot 0's chain; slots 1 to 7 are empty (R803). -/
def execGetDigests (mctp : Bool) (s : State) : Host.Outcome State Fault Refusal :=
  act s (fun d => d.spdm mctp 3 (fun d => match d.freeBytes 48 with
    | (d, b) => d.spdmOut 0x01 ([1] ++ b)))

/-- GET_CERTIFICATE: a part of the identity chain of slot 0; another slot is empty (R803). -/
def execGetCertificate (mctp : Bool) (slot : BitVec 4) (_ofs len : BitVec 16) (s : State) : Host.Outcome State Fault Refusal :=
  act s (fun d => d.spdm mctp 3 (fun d =>
    if slot ≠ 0 then d.spdmError 1
    else match d.freeBytes len.toNat with
      | (d, b) => d.spdmOut 0x02 b))

/-- CHALLENGE: slot 0 signs over the nonce (R802, R803). -/
def execChallenge (mctp : Bool) (slot : BitVec 4) (nonce : List Byte) (s : State) : Host.Outcome State Fault Refusal :=
  act s (fun d => d.spdm mctp 3 (fun d =>
    if slot ≠ 0 then d.spdmError 1
    else match d.freeBytes 144 with
      | (d, b) => d.spdmOut 0x03 (nonce ++ b)))

/-- GET_MEASUREMENTS (R804, R805). -/
def execGetMeasurements (mctp : Bool) (op : BitVec 8) (sign : Bool) (nonce : List Byte) (others : List (BitVec 8 × List Byte)) (s : State) :
    Host.Outcome State Fault Refusal :=
  act s (fun d => d.spdm mctp 3 (fun d => d.spdmMeasure mctp op.toNat sign nonce others))

/-- SPDM_UNSUPPORTED: any other request, whatever its code (R802). -/
def execSpdmUnsupported (mctp : Bool) (code : BitVec 8) (s : State) : Host.Outcome State Fault Refusal :=
  act s (fun d => d.spdm mctp 0 (fun d => d.spdmOut 0x7F [7, code]))

end Sys2Proof.Machine
end

