-- ==== Sys2Proof/Machine/Boot.lean ====
section
/-!
DEFINITION. Machine/Boot.lean: resets of the die, the boot ROM, the board tables and host-ready (spec 22, R906 to R909; spec 25, R977 to R988;
spec 26, R993 to R1017; spec 04, R188 to R194).
-/
namespace Sys2Proof.Machine

/-! ### Images (R797 to R803) -/

/-- `n` bytes of an image from byte `o`. -/
def imgBytes (img : Nat → Byte) (o n : Nat) : List Byte := (List.range n).map (fun i => img (o + i))

/-- BLEN of an image (table Image signature block). -/
def imgLen (img : Nat → Byte) : Nat := leNat (imgBytes img 0x18 4)

/-- Are MAGIC, VERSION, BLEN's bound and the reserved bytes as given (R798, R799)? -/
def imgForm (img : Nat → Byte) : Bool :=
  imgBytes img 0 4 == [0x4B, 0x47, 0x4E, 0x4B] && leNat (imgBytes img 4 2) == 1 && decide (imgLen img ≤ 0x01FFFE00)
    && (imgBytes img 0x1C 4 ++ imgBytes img 0xE0 288).all (· == 0)

/-! ### Board tables (R189 to R194, R977 to R980) -/

/-- Byte `o` of a table. -/
def tb (t : List Byte) (o : Nat) : Nat := (t.getD o 0).toNat

/-- `n` bytes of a table from byte `o`, as a number. -/
def tn (t : List Byte) (o n : Nat) : Nat := leNat ((t.drop o).take n)

/-- Is the board header valid (R979)? -/
def headerOk (t : List Byte) : Bool :=
  t.length == 64 && t.take 4 == [0x4B, 0x42, 0x52, 0x44] && tb t 4 == 1 && decide (1 ≤ tb t 5 ∧ tb t 5 ≤ 4) && decide (tb t 6 < 4) && tb t 7 == 0
    && ((t.drop 0x2E).take 14).all (· == 0) && tn t 0x3C 4 == crc32 (t.take 0x3C)

/-- The role of a die's port in the wiring table (CASC.ROLE0 to ROLE3). -/
def wiredRole (t : List Byte) (die p : Nat) : Nat := tb t (0x10 + 96 * die + p / 4) / 2 ^ (2 * (p % 4)) % 4

/-- The attribute of a die's port in the wiring table (CASC.ATTR0 to ATTR7). -/
def wiredAttr (t : List Byte) (die p : Nat) : Nat := tb t (0x20 + 96 * die + p / 2) / 2 ^ (4 * (p % 2)) % 16

/-- Is the attribute a code that the role has (table Port attribute codes)? -/
def attrOk (role attr : Nat) : Bool :=
  match role with
  | 2 => decide (attr ≤ 5)
  | 3 => decide (attr ≤ 3)
  | _ => attr == 0

/-- The members of a direction's bundle in the table, by die and port (R120, R121). -/
def wiredBundle (t : List Byte) (dies dir : Nat) : List Nat :=
  ((List.range (64 * dies)).filter (fun k => wiredRole t (k / 64) (k % 64) == 2 && wiredAttr t (k / 64) (k % 64) == dir)).map (· / 64)

/-- Do the bundles hold at most 16 ports, as many on + as on −, member for member on the same die (R120, R328)? -/
def bundlesOk (t : List Byte) (dies : Nat) : Bool :=
  [0, 2, 4].all (fun dir => decide ((wiredBundle t dies dir).length ≤ 16) && wiredBundle t dies dir == wiredBundle t dies (dir + 1))

/-- Is the wiring table valid beside a valid header (R979)? -/
def wiringOk (h t : List Byte) : Bool :=
  let dies := tb h 5
  t.length == 512 && t.take 4 == [0x4B, 0x57, 0x49, 0x52] && tb t 4 == 1 && ((t.drop 5).take 3).all (· == 0)
    && (t.drop 8).take 8 == (h.drop 8).take 8 && ((t.drop 0x190).take 108).all (· == 0) && tn t 0x1FC 4 == crc32 (t.take 0x1FC)
    && (List.range 4).all (fun x => ((t.drop (0x10 + 96 * x + 72)).take 24).all (· == 0)
      && (decide (x < dies) || ((t.drop (0x10 + 96 * x)).take 96).all (· == 0))
      && (List.range 64).all (fun p => attrOk (wiredRole t x p) (wiredAttr t x p)))
    && bundlesOk t dies

/-- Is the EQ table valid for a die position (R189 to R193)? -/
def eqOk (h t : List Byte) (pos : Nat) : Bool :=
  t.length == 4128 && t.take 4 == [0x4B, 0x45, 0x51, 0x54] && tb t 4 == 1 && tb t 5 == pos && tn t 6 2 == 256
    && (t.drop 8).take 8 == (h.drop 8).take 8 && tn t 0x1C 4 == crc32 (t.take 0x1C ++ t.drop 0x20)

/-- A signed byte. -/
def sb (n : Nat) : Int := tempOf n

/-- Is the EQ entry of a lane valid and marked USED (R192, R194)? -/
def eqEntryOk (t : List Byte) (lane : Nat) : Bool :=
  let e := (t.drop (0x20 + 16 * lane)).take 16
  let abs (o : Nat) : Nat := (sb (tb e o)).natAbs
  decide (abs 0 ≤ 16 ∧ abs 1 ≤ 40 ∧ 40 ≤ tb e 2 ∧ tb e 2 ≤ 128 ∧ abs 3 ≤ 40 ∧ tb e 4 < 32 ∧ tb e 10 < 4 ∧ abs 0 + abs 1 + tb e 2 + abs 3 ≤ 128)
    && [5, 6, 7, 8, 9].all (fun o => decide (-64 ≤ sb (tb e o) ∧ sb (tb e o) ≤ 63)) && tb e 11 == 1 && tb e 14 == 0 && tb e 15 == 0

namespace Die

/-! ### Resets (R906 to R909) -/

/-- Every implemented page. -/
def allPages (_d : Die) : List Nat := (List.range 0x400).filter (fun i => (pageAt i).isSome)

/-- The fused fields, which no reset changes, and the straps, which only CHIP_RST# samples (R906, R986). -/
def fused : List Fld :=
  [R.chipIdentForm, R.chipSerialLo, R.chipSerialHi, R.chipStrapCascPos, R.chipStrapBootSrc, R.chipStrapSmbAddr, R.chipStrapTestMode,
   R.secRomVer, R.secFuseStatFsvn, R.secFuseStatRevoked, R.pwrAvsFloor]

/-- A register dword as a warm reset leaves it: its RWS fields keep their values (R906). -/
def keepRws (e : Nat × Word) : Word :=
  match pageAt (e.1 / 0x1000) with
  | none => regReset e.1
  | some (t, _) =>
    ((fieldsAt t (e.1 % 0x1000)).filter (fun f => f.acc == .rws || f.acc == .rwsRwl || f.acc == .rwsW1c)).foldl
      (fun w f => (f.locsAt e.1 (e.1 % 0x1000)).foldl (fun w l => fieldSet w l.2.lsb l.2.width (fieldGet e.2 l.2.lsb l.2.width)) w) (regReset e.1)

/-- A cold reset of the die: fuses, straps and flash stay (R906, R909). -/
def coldReset (d : Die) : Die :=
  let e := fused.foldl (fun (e : Die) f => e.set f (d.get f)) Die.reset
  let e : Die := { e with fresh := d.fresh, out := d.out, sec := { e.sec with keys := d.sec.keys }
                          smb := { e.smb with flash := d.smb.flash }, boot := { e.boot with cause := d.boot.cause } }
  e.resetHoops true

/-- A warm reset of the die: RWS fields stay too, and every PAGE_EPOCH advances (R906, R909, R1016). -/
def warmReset (d : Die) : Die :=
  let e := d.coldReset
  let e := d.regs.foldl (fun (e : Die) x => let w := keepRws x; if w = regReset x.1 then e else e.setDword x.1 w) e
  let e := fused.foldl (fun (e : Die) f => e.set f (d.get f)) e
  let e := (d.allPages).foldl (fun (e : Die) i => e.set R.hdrEpoch (d.get R.hdrEpoch i + 1) i) e
  let e : Die := { e with hoops := d.hoops, smb := { e.smb with jtag := d.smb.jtag }, boot := { e.boot with cause := 4 } }
  e.resetHoops false

/-- A port's own reset takes effect (R906, R909). -/
def portReset (d : Die) (p : Nat) : Die :=
  let u := UnitId.port (BitVec.ofNat 6 p)
  let old := d.port p
  let d := (d.forAll (List.range 4) (fun d l => d.loseBl p l)).linkOffline p
  let d := d.modPort p (fun _ => { PortSt.init with recorded := old.recorded, lanes := (d.port p).lanes, egressOut := old.egressOut
                                                    hold := old.hold, leftUp := (d.port p).leftUp })
  let ep (d : Die) (t : PageType) : Die := (d.hset R.hdrEpoch (d.hget R.hdrEpoch t p + 1) t p).hset R.hdrStatReset 1 t p
  let d := ep (ep d .port) .laneq
  (d.setRundown u { d.rundown u with reset := false }).tryReopen u

/-- A vat's own reset takes effect: a serving vat hands its number over first (R906, R907, R909, R912). -/
def vatReset (d : Die) (v : Nat) : Die :=
  let u := UnitId.vat (BitVec.ofNat 5 v)
  let n := if d.get R.vatStatState v = 0 ∧ d.bit R.vatStatLvalid v then (d.vat v).queue.length else 0
  let fencedNow := d.get R.vatStatState v == 2
  let d := (d.retireVat v (if fencedNow then 2 else 1)).forAll (List.range n) (fun d _ => d.bump R.errlogRetry)
  let d := (d.hset R.hdrEpoch (d.hget R.hdrEpoch .vat v + 1) .vat v).hset R.hdrStatReset 1 .vat v
  (d.setRundown u { d.rundown u with reset := false }).tryReopen u

/-! ### Step 2 (R797 to R803, R1000 to R1003) -/

/-- Why an image fails, as AFAIL codes it; 0 when it passes. -/
def imgFail (d : Die) (img : Nat → Byte) (readBad sigOk : Bool) : Nat :=
  let k := (img 6).toNat
  if readBad then 6
  else if !imgForm img then 1
  else if 4 ≤ k ∨ sha384 (imgBytes img 0x20 96) ≠ d.sec.keys.getD k [] then 2
  else if d.keyRevoked k then 3
  else if (img 7).toNat < d.get R.secFuseStatFsvn ∨ 64 ≤ (img 7).toNat then 4
  else if !sigOk then 5
  else 0

/-- The image that passed is shown in the SEC page. -/
def runImage (d : Die) (slot : Nat) (img : Nat → Byte) : Die :=
  let d := ((d.set R.secBootSlot slot).set R.secBootKeyidx (img 6).toNat).set R.secBootSvn (img 7).toNat
  d.forAll (List.range 4) (fun d i => d.set R.secFwBuild (leNat (imgBytes img (8 + 4 * i) 4)) 0 i)

/-- Step 2; the flag says whether an image runs. -/
def imageCheck (d : Die) (b : BootIn) : Die × Bool :=
  if d.bit R.chipStrapBootSrc then
    let img (o : Nat) : Byte := smapGet 0 d.smb.image o
    if d.smb.imageTop < 0x200 ∨ d.smb.imageTop < 0x200 + imgLen img then (d, false)
    else match d.imgFail img false (b.sigOk.getLsbD 0) with
      | 0 => ((d.runImage 0 img).set R.secBootAfail 0, true)
      | k => ({ d.set R.secBootAfail k with smb := { d.smb with image := [], imageTop := 0 } }, false)
  else
    let a (o : Nat) : Byte := d.flashByte o
    let bb (o : Nat) : Byte := d.flashByte (0x02000000 + o)
    match d.imgFail a (b.readBad.getLsbD 0) (b.sigOk.getLsbD 0) with
    | 0 => (d.runImage 0 a, true)
    | ka =>
      let d := d.set R.secBootAfail ka
      match d.imgFail bb (b.readBad.getLsbD 1) (b.sigOk.getLsbD 1) with
      | 0 => (d.runImage 1 bb, true)
      | kb => ({ d.set R.secBootBfail kb with boot := { d.boot with recovery := true } }, false)

/-! ### Steps 4 to 7 (R1005 to R1008) -/

/-- Header and wiring table are loaded (R1005, table Board header, table Wiring table). -/
def loadBoard (d : Die) (h w : List Byte) : Die :=
  let p := d.pos
  let d := ((d.set R.cascCfgDies (tb h 5 - 1)).set R.cascCfgMalive (tb h 6 / 2)).set R.discCfgElig (tb h 6 % 2)
  let topo := tn h 0x28 2
  let d := (((d.set R.cascTopoMode (topo % 4)).set R.cascTopoDx (topo / 16 % 16)).set R.cascTopoDy (topo / 256 % 16)).set R.cascTopoDz (topo / 4096)
  let d := d.set64 R.cascSerialLo R.cascSerialHi (tn h 0x10 8)
  let d := d.forAll (List.range 4) (fun d i => d.setDword (0x304C + 4 * i) (BitVec.ofNat 32 (tn w (0x10 + 96 * p + 4 * i) 4)))
  let d := d.forAll (List.range 8) (fun d i => d.setDword (0x305C + 4 * i) (BitVec.ofNat 32 (tn w (0x20 + 96 * p + 4 * i) 4)))
  let d := (d.set R.secMgmtPortsLo (tn w (0x40 + 96 * p) 4)).set R.secMgmtPortsHi (tn w (0x44 + 96 * p) 4)
  let d := d.forAll (List.range 16) (fun d n => let f := tb w (0x48 + 96 * p + n); if 9 ≤ f then d else d.claimPin n f)
  let roles := (List.range 64).foldl (fun m q => smapSet 0 m q (BitVec.ofNat 2 (wiredRole w p q))) []
  let attrs := (List.range 64).foldl (fun m q => smapSet 0 m q (BitVec.ofNat 4 (wiredAttr w p q))) []
  let all := (List.range 256).foldl (fun m k => smapSet 0 m k (BitVec.ofNat 6 (wiredRole w (k / 64) (k % 64) + 4 * wiredAttr w (k / 64) (k % 64)))) []
  { d with casc := { d.casc with role := roles, attr := attrs, wiring := all, vrAddr := (h.drop 0x2A).take 4, tablesOk := true } }

/-- The EQ registers of a lane (R188, table EQ lane entry). -/
def loadEq (d : Die) (t : List Byte) (p l : Nat) : Die :=
  let e := t.drop (0x20 + 16 * (4 * p + l))
  let a := 0x1000 * (0x050 + p) + 64 * l
  ((d.setDword (a + 0x84) (BitVec.ofNat 32 (tn e 0 4))).setDword (a + 0x88) (BitVec.ofNat 32 (tn e 4 4))).setDword (a + 0x8C)
    (BitVec.ofNat 32 (tn e 8 4))

/-- A port that may not transmit stays in PS2 (R193, R194). -/
def holdPort (d : Die) (p : Nat) : Die := (d.modPort p (fun s => { s with hold := some 2 })).set R.portLinkPs 2 p

/-- The EQ table is loaded; a port in use with a bad entry stays in PS2 (R188, R194). -/
def loadEqs (d : Die) (t : List Byte) : Die :=
  let d := d.forAll (List.range 256) (fun d k => d.loadEq t (k / 4) (k % 4))
  d.forAll ((d.portsWith (fun p => d.role p != 0)).filter (fun p => !(List.range 4).all (fun l => eqEntryOk t (4 * p + l)))) (fun d p =>
    ((d.logErr .laneq p 0x0401 1 (leBytes 1 p)).raise I.laneqEqBad p).holdPort p)

/-- A board table is invalid: no lane leaves PS2 and the die takes no part in formation (R193, R980). -/
def tableBad (d : Die) (which : Nat) : Die :=
  (d.logErr .laneq 0 0x0400 2 (leBytes 1 which)).forAll (List.range 64) holdPort

/-- Step 4 with the tables as read; the first that is invalid decides (R979, R980). -/
def boardTables (d : Die) (h w e : List Byte) : Die :=
  if !headerOk h then d.tableBad 1
  else if !wiringOk h w then d.tableBad 2
  else if !eqOk h e d.pos then d.tableBad 0
  else
    let d := (d.loadBoard h w).loadEqs e
    let d := if d.avsOn then d.set R.pwrAvsSet (min 0x28 (d.get R.pwrAvsFloor + 4)) else d
    ({ d with boot := { d.boot with tables := e ++ w } }).fpDirty

/-- Step 5: each controller trains (R1007); those that do not, fail (R891). Entries held until then reach the mirror. -/
def trainCave (d : Die) (ok : BitVec 10) : Die :=
  let d := d.forAll (List.range 10) (fun d k => if ok.getLsbD k then d.set R.caveStatState 1 k else d.caveFails k)
  if d.bit R.errlogCfgMirror then
    d.forAll d.err.log (fun d e => (d.caveWrite (0x08000000 + 32 * e.slot) e.r.bytes).caveWrite (0x08008000 + 32 * e.slot) e.r.bytes)
  else d

/-- The boot claims of cave shares (table Share clients). -/
def bootShares (d : Die) : Die := d.forAll [0, 1, 2, 5] (fun d k => d.setShare k (d.get (shareFld k)))

/-- Steps 4 to 7; a table that has not been read whole is awaited until its deadline (R978, R1005 to R1008). -/
def bootRest (d : Die) (b : BootIn) : Die :=
  let d : Die := { d.bootShares with boot := { d.boot with stage := 5 } }
  let d := d.trainCave b.train
  match b.header, b.wiring, b.eq with
  | some h, some w, some e =>
    let d := d.boardTables h w e
    { d with boot := { d.boot with stage := 7 } }
  | _, _, _ => d

/-- The boot sequence from its start, from step 2 once an image has been stored, or from step 4 once the steward has been reset
(R994, R1002, R1015). -/
def bootRun (d : Die) (b : BootIn) : Die :=
  let again := d.boot.stage == 2 && d.bit R.chipStrapBootSrc
  if d.boot.stage = 3 ∧ d.boot.gnotik then d.bootRest b
  else if d.boot.stage ≠ 0 ∧ !again then d
  else
    let d := if again then d else d.set R.pwrRstcauseCause d.boot.cause
    if d.bit R.chipStrapTestMode then { d with boot := { d.boot with stage := 1 } }
    else
      let (d, ok) := ({ d with boot := { d.boot with stage := 2 } } : Die).imageCheck b
      if !ok then d
      else
        let d : Die := { d with boot := { d.boot with stage := 3, gnotik := b.gnotik } }
        if b.gnotik then d.bootRest b else d

/-- A board table has not checked within 500 ms of its first read (R978): the code is DETAIL's (R980). -/
def tableLate (d : Die) (which : Nat) : Die :=
  if d.boot.stage = 5 ∧ which < 3 then { (d.tableBad which) with boot := { (d.tableBad which).boot with stage := 7 } } else d

/-! ### Step 9 (R1012, R1013) -/

/-- Are the dies of a set all those present? -/
def allPresent (d : Die) (s : BitVec 4) : Bool := (List.range 4).all (fun x => !d.diePresent x || s.getLsbD x)

/-- Is every controller of this die READY? -/
def caveReady (d : Die) : Bool := (List.range 10).all (fun k => d.get R.caveStatState k == 1)

/-- Host-ready: MBOX and DMA come into service, and on the acting master Memory_Active sets (R1012, R1013). -/
def becomeReady (d : Die) (locked caves : BitVec 4) : Die :=
  if d.boot.hostReady || d.boot.stage != 7 || d.get R.cascStatState != 1 || !(d.allPresent locked && d.allPresent caves) || d.get R.tickStatState != 1
      || !d.caveReady then d
  else
    let d : Die := { d with boot := { d.boot with hostReady := true } }
    if !d.isMaster then d
    else
      let d : Die := { d with host := { d.host with memActive := true } }
      let d := d.setBit R.hostLinkMemEn (d.bit R.hostLinkCxl)
      if d.get R.hostLinkSpeed = 0 then d else d.raise I.hostLinkUp

end Die

/-! ### The commands -/

/-- RESET_TAKES_EFFECT: the edge at which the reset of a domain takes effect (R98, R906 to R909, R919). -/
def execResetTakesEffect (dm : Domain) (s : State) : Host.Outcome State Fault Refusal :=
  act s (fun d =>
    let due (u : UnitId) : Bool := (d.rundown u).reset && (d.rundown u).phase == .idle
    match dm with
    | .port p => if due (.port p) then d.portReset p.toNat else d
    | .vat v => if due (.vat v) then d.vatReset v.toNat else d
    | .steward => if 3 ≤ d.boot.stage then { d with boot := { d.boot with gnotik := true } } else d
    | .host => d.hostReset true
    | .die => if due .die then d.warmReset else d)

/-- The steward domain is reset: its slot verifies again or not (R906). -/
def Die.restartSteward (d : Die) (ok : Bool) : Die :=
  { d with boot := { d.boot with gnotik := ok && decide (3 ≤ d.boot.stage) }, err := { d.err with wdogLogged := d.err.wdogLogged && !ok } }

/-- STW_RESET: ERRLOG.CTL.STW_RESET is written; the running slot is verified again, and Gnotik starts anew or not (R906). -/
def execStwReset (c : Cls) (ok : Bool) (s : State) : Host.Outcome State Fault Refusal :=
  act s (fun d => d.onPage c .errlog 0 (fun d => d.restartSteward ok))

/-- CHIP_RST#: low holds the die in cold reset; at its deassertion the straps are sampled (R986, R988, R1022, R1050). -/
def execChipRst (low : Bool) (straps : BitVec 7) (s : State) : Host.Outcome State Fault Refusal :=
  actRaw s (fun d =>
    if low then
      if d.boot.held then d
      else
        let cause := if d.pwr.tripped then 3 else if d.boot.brown || (d.boot.cause == 2 && d.boot.stage == 0) then 2 else 1
        let e := d.coldReset
        { e with boot := { e.boot with held := true, brown := d.boot.brown, cause := cause } }
    else if d.boot.held || d.boot.stage == 0 then
      let n := straps.toNat
      let d := ((d.set R.chipStrapCascPos (n % 4)).set R.chipStrapBootSrc (n / 4 % 2)).set R.chipStrapSmbAddr (n / 8 % 8)
      let d := d.set R.chipStrapTestMode (n / 64)
      { d with boot := { d.boot with held := false } }
    else d)

/-- BROWNOUT: VDD_CORE or VDD_SRAM has stayed low; or the rail is back and 10 ms have passed (R1024). -/
def execBrownout (ends : Bool) (s : State) : Host.Outcome State Fault Refusal :=
  actRaw s (fun d =>
    if ends then { d with boot := { d.boot with brown := false } }
    else
      let e := d.coldReset
      { e with boot := { e.boot with held := d.boot.held, brown := true, cause := 2 } })

/-- BOOT_START: the boot runs (R993 to R1008). -/
def execBootStart (b : BootIn) (s : State) : Host.Outcome State Fault Refusal := act s (fun d => d.bootRun b)

/-- TABLE_READ_DEADLINE (R978, R980). -/
def execTableReadDeadline (table : BitVec 2) (s : State) : Host.Outcome State Fault Refusal := act s (fun d => d.tableLate table.toNat)

/-- HOST_READY: the dies whose lock and whose caves' READY the acting master has seen (R1013). -/
def execHostReady (locked caves : BitVec 4) (s : State) : Host.Outcome State Fault Refusal := act s (fun d => d.becomeReady locked caves)

end Sys2Proof.Machine
end

