-- ==== Sys2Proof/Machine/Egress.lean ====
section
/-!
DEFINITION. Machine/Egress.lean: what leaves a port (spec 04, R154 to R166; spec 05, R203 to R221, R237; spec 09, R424 to R430; spec 08, R369, R388),
acceptance as a whole (spec 08, R351) and the zeroing of cells (spec 19, R791).
-/
namespace Sys2Proof.Machine

/-! ### Messages, slots and lanes as bits -/

/-- TYPE and BODY of a message (table Message types). -/
def msgBits : Msg → Nat × Nat
  | .null => (0, 0)
  | .hello f x => (1, f.toNat + 2 ^ 4 * x.toNat)
  | .lcmd c a => (2, c.toNat + 2 ^ 4 * a.toNat)
  | .csync v a b => (3, v.toNat + 2 ^ 2 * a.toNat + 2 ^ 17 * b.toNat)
  | .accept f c => (4, f.toNat + 2 ^ 16 * c.toNat)
  | .refuse l r => (5, l.toNat + 2 ^ 16 * r.toNat)
  | .dlvd b m => (6, b.toNat + 2 ^ 16 * m.toNat)
  | .rtnd l r => (7, l.toNat + 2 ^ 16 * r.toNat)
  | .taken f c => (8, f.toNat + 2 ^ 16 * c.toNat)
  | .reserved t b => (t.toNat, b.toNat)

/-- The slot of logical lane 3: MSN, TYPE and BODY (R216). -/
def messageSlot (msn : Nat) (m : Msg) : Nat := msn + 2 ^ 6 * (msgBits m).1 + 2 ^ 10 * (msgBits m).2

/-- The slot of logical lane 2 (R212). -/
def slotBits (s : Slot) (mack mlast : Nat) : Nat :=
  2 * mack + 2 ^ 7 * mlast + match s with
    | .credit v a b => 2 ^ 13 * v.toNat + 2 ^ 15 * a.toNat + 2 ^ 30 * b.toNat
    | .rennet p t => 1 + 2 ^ 13 * p.toNat + 2 ^ 25 * t.toNat

/-- The segments of a superframe's positions: start, VC and kind, from position `f` on; `prev` is the VC of the segment that runs. -/
def segsOf : Nat → Option (Option Nat) → List TxPos → List (Nat × Nat × Nat)
  | _, _, [] => []
  | f, prev, .idle :: r => if prev = some none then segsOf (f + 1) prev r else (f, 0, 0) :: segsOf (f + 1) (some none) r
  | f, prev, .flit v hd :: r =>
    if hd then (f, v, 2) :: segsOf (f + 1) (some (some v)) r
    else if prev = some (some v) then segsOf (f + 1) prev r
    else (f, v, 1) :: segsOf (f + 1) (some (some v)) r

/-- The segment map of a superframe (R205, R206). -/
def mapBits (pos : List TxPos) : Nat :=
  let segs := segsOf 0 none pos
  if pos.all (· == .idle) then 0
  else segs.length + ((List.range segs.length).map (fun i =>
    let s := segs.getD i (0, 0, 0)
    2 ^ (4 + 11 * i) * (s.1 + 2 ^ 6 * s.2.1 + 2 ^ 9 * s.2.2))).sum

/-- The data bits that logical lane `l` carries for a list of flits (R203). -/
def laneData (flits : List (List Byte)) (l : Nat) : List Bool :=
  flits.flatMap (fun b => ((b.drop (16 * l)).take 16).flatMap (fun x => natBits 8 x.toNat))

/-- The bytes of flit `i` of a packet: the header, then the payload, padded with zeros (R301, R306). -/
def flitOf (pk : Packet) (i : Nat) : List Byte :=
  if i = 0 then leBytes 64 pk.bits
  else
    let b := (pk.payload.drop (64 * (i - 1))).take 64
    b ++ List.replicate (64 - b.length) 0

namespace Die

/-! ### Packets on a DROP egress (R237, R388, R389, R757, R769) -/

/-- What an egress packet is, for its receipt: a RESULT of a group, or an item of a destination flow. Other packets of Kesil are not retained. -/
def egressItem (d : Die) (pk : Packet) : Option (Nat × BitVec 32) :=
  if pk.op = 0x12 then some (65536 + pk.group.toNat, pk.chunk)
  else match d.dstFlow (flowKey pk) with
    | some (fi, f) => if f.items.any (fun i => i.fseq == pk.fseq) then some (fi, pk.fseq) else none
    | none => none

/-- An egress packet is out: it waits for its receipt, and its item shows as sent. -/
def awaitTaken (d : Die) (p vc : Nat) (pk : Packet) : Die :=
  match d.egressItem pk with
  | none => d
  | some (fl, s) =>
    let o : EgressOut := { lsn := pk.lsn, flow := fl, fseq := s, vc := vc, tailK := (d.vc p vc).sent, pkt := pk }
    let d := d.modPort p (fun x => { x with egressOut := x.egressOut ++ [o] })
    d.modDst fl (fun f => { f with items := f.items.map (fun i : DstItem => if i.fseq = s then { i with sent := true } else i) })

/-- Does the log hold a TAKEN for an LSN of a port (R769)? -/
def takenLogged (d : Die) (p : Nat) (lsn : BitVec 16) : Bool :=
  (d.rpFind rpFuel 0 (fun e => e.kind == 2 && e.port == p && decide ((lsn - BitVec.ofNat 16 e.arg).toNat < e.arg / 2 ^ 16 % 64))).isSome

/-- A packet has been sent on a DROP port: recorded, compared, and kept until its receipt (R388, R757, R771). -/
def dropSent (d : Die) (p vc tick fofs : Nat) (pk : Packet) : Die :=
  let ev := packetEvent 4 p tick fofs pk
  ((d.recPacket ev (d.replayPort p)).compare ev).awaitTaken p vc pk

/-- A packet toward a replay port is consumed by the compare unit under the LSN that was recorded for it, and is TAKEN on arrival when the log has
no TAKEN for it (R769). -/
def replayEgress (d : Die) (p vc : Nat) (pk : Packet) : Die :=
  let lsn := match d.cmpNext 4 p with
    | some e => BitVec.ofNat 16 e.arg
    | none => BitVec.ofNat 16 (d.get R.portLsnTx p)
  let d := d.dropSent p vc d.tick.count.toNat d.fofs { pk with lsn := lsn }
  if d.takenLogged p lsn then d else d.takenRun p lsn 1

/-- The hoop access of an egress item's cell (table Energy charges). -/
def chargeItem (d : Die) (pk : Packet) : Die :=
  match d.dstFlow (flowKey pk) with
  | some (_, f) => match f.items.find? (fun i => i.fseq == pk.fseq) with
    | some i => match i.cell with
      | some h => d.chargeCell (h / 2 ^ 30) (h % 2 ^ 20) pk.payload.length
      | none => d
    | none => d
  | none => d

/-- A held item at NEXT passes the egress check and goes to its DROP output; MRD and MWR go to this die's steward (R349, R350, R369). -/
def itemEgress (d : Die) (fi : Nat) : Die :=
  match d.flow fi with
  | .dst f =>
    match f.items.find? (fun i => i.fseq == f.next && !i.handed) with
    | none => d
    | some i =>
      let pk := i.pkt
      let p := eidPort pk.deid
      let op := pk.op.toNat
      let d := d.modDst fi (fun f => { f with items := f.items.map (fun x : DstItem => if x.fseq = f.next then { x with handed := true } else x) })
      if op = 0x30 ∨ op = 0x31 then (d.emit (.handPacket 64 pk)).advanceNext fi
      else if !(if op = 0x32 then d.mgmtPort p else d.isDrop p && d.rtEidv d.selfNode d.pos p && d.tenPort pk.tid.toNat p) then
        if pk.mgmt then d.returnNext fi 4 else (d.returnNext fi 4).bump R.tenCntEgReject (pk.tid.toNat / 4) (pk.tid.toNat % 4)
      else if d.replayPort p then (d.chargeItem pk).replayEgress p (2 * pk.cls.toNat) pk
      else d.enqueue p (2 * pk.cls.toNat) (QEnt.mk pk 64 0 0 false none none 0 none)
  | _ => d

/-! ### One flit position (R424 to R426, R742) -/

/-- The reservation of a port's transmit position at a tick and offset, among ACTIVE plans (R718, R743). -/
def rsvAt (d : Die) (p tick o : Nat) : Option RsvRec :=
  (d.plansIn [3]).findSome? (fun x => x.2.rsvs.find? (fun r => r.port == p && !r.xdir && decide (r.start ≤ o ∧ o < r.start + r.count)
    && (tick + 2 ^ 48 - x.2.base) % 2 ^ 48 % max 1 x.2.period == r.tofs))

/-- Is a C1 packet the one that a reservation is for (table Reservation record)? -/
def rsvFor (r : RsvRec) (pk : Packet) : Bool :=
  let a := pk.arg.toNat
  pk.group.toNat == r.group && (if pk.op = 0x12 then r.kind == 3
    else pk.op == 0x11 && (r.kind == (if a / 8 % 2 = 1 then 2 else 1)) && a % 8 == r.tree && (a / 16 % 2 == 1) == r.alt)

/-- A C1 packet claims the C1 output VC of a port (R426). -/
def grantC1 (d : Die) (p : Nat) (e : QEnt) : Die :=
  let k := 8 * p + 2
  let g : Grant := { ent := e, left := e.pkt.flits, floorTier := false, prio := 0, padded := false }
  { d with sw := { d.sw with queue := smapMod [] d.sw.queue k (fun l => l.filter (fun x => x.age != e.age)), grant := smapSet none d.sw.grant k (some g) } }

/-- The C1 output VC holds a packet that meets a property, after a free one has claimed the first such head that waits. -/
def claimC1 (d : Die) (p : Nat) (ok : QEnt → Bool) : Die × Bool :=
  match d.grantAt (8 * p + 2) with
  | some g => (d, ok g.ent)
  | none => match (d.heads (8 * p + 2)).find? ok with
    | some e => (d.grantC1 p e, true)
    | none => (d, false)

/-- The VCs, from one on, in round robin. -/
def vcsFrom (n : Nat) : List Nat := (List.range 8).map (fun i => (n + i) % 8)

/-- The pick among best-effort rows 2 to 5 of the table Position order: `ok` says which VCs may send. -/
def bestPick (d : Die) (p : Nat) (guard : Bool) (ok : Nat → Bool) : Option Nat :=
  let has := fun (q : Grant → Bool) (v : Nat) => match d.grantAt (8 * p + v) with
    | some g => ok v && q g
    | none => false
  let row2 := if guard then none else (List.range 8).find? (has (fun g => g.ent.carried))
  let row3 := [0, 1].find? (has (fun _ => true))
  let row4 := [4, 5, 6, 7].find? (has (fun g => g.floorTier))
  let top := ([4, 5, 6, 7].filter (has (fun _ => true))).foldl (fun m v => max m ((d.grantAt (8 * p + v)).elim 0 (·.prio))) 0
  let row5 := ((vcsFrom (smapGet 0 d.sw.rrVc p)).filter (fun v => decide (4 ≤ v))).find? (has (fun g => g.prio == top))
  row2 <|> row3 <|> row4 <|> row5

/-- The packet's tail has left (R228, R317, R380, R388). -/
def txTail (d : Die) (p v tick o : Nat) (e : QEnt) : Die :=
  let d := (d.leaveInput e p v).emit (.packet p e.pkt)
  let d := match e.cell with
    | some h => (d.chargeCell (h / 2 ^ 30) (h % 2 ^ 20) e.pkt.payload.length).hoopRelease h (owner 3 p)
    | none => d.chargeItem e.pkt
  let d := match e.ledger with
    | some (lp, i) => d.copySent (4096 * lp + i)
    | none => d
  if d.isDrop p then d.dropSent p v tick o e.pkt else d

/-- The head flit leaves: a DROP egress numbers the packet (R237), a STACK port consumes node credit (R320). -/
def txHead (d : Die) (p : Nat) (e : QEnt) : Die × QEnt :=
  let d := match e.far with
    | some f => { d with sw := { d.sw with ncUsed := smapMod 0 d.sw.ncUsed (512 * f.1 + f.2) (· + BitVec.ofNat 16 e.pkt.flits) } }
    | none => d
  if d.isDrop p then
    let n := d.get R.portLsnTx p
    (d.set R.portLsnTx ((n + 1) % 65536) p, { e with pkt := { e.pkt with lsn := BitVec.ofNat 16 n } })
  else (d, e)

/-- One flit of the packet that holds an output VC is sent (R226, R227): its position and its bytes. -/
def txFlit (d : Die) (p v tick o : Nat) : Die × TxPos × List Byte :=
  let k := 8 * p + v
  match d.grantAt k with
  | none => (d, .idle, [])
  | some g =>
    let i := g.ent.pkt.flits - g.left
    let (d, e) := if i = 0 then d.txHead p g.ent else (d, g.ent)
    let d := d.modVc p v (fun s => { s with sent := s.sent + 1 })
    let d := (d.tcount (portTel p v) 1).charge (if e.pkt.mgmt then 256 else e.pkt.tid.toNat) 0 1
    let d := if i = 0 then d.tcount (portTel p (0x10 + v)) 1 else d
    let g' : Option Grant := if g.left ≤ 1 then none else some { g with ent := e, left := g.left - 1 }
    let d : Die := { d with sw := { d.sw with grant := smapSet none d.sw.grant k g' } }
    let d := if g.left ≤ 1 then d.txTail p v tick o e else d
    (d, .flit v (i == 0), flitOf e.pkt i)

end Die

/-- What has been chosen of a superframe: positions and flits, segments so far and the VC whose segment runs (`none` before any position), and how many
positions went to best effort. -/
structure TxAcc where
  d : Die
  pos : List TxPos
  flits : List (List Byte)
  segs : Nat
  run : Option (Option Nat)
  best : Nat

namespace Die

/-- May a VC send at position `f`, given the segments so far (R206, R207, log entry 36)? -/
def segRoom (d : Die) (p f : Nat) (a : TxAcc) (rsvLater : Bool) (v : Nat) : Bool :=
  match d.grantAt (8 * p + v) with
  | none => false
  | some g =>
    let cont := a.run == some (some v) && g.left != g.ent.pkt.flits
    let fills := decide (38 - f ≤ g.left ∧ 38 - f ≤ d.credit p v) && !rsvLater
    decide (0 < d.credit p v) && (cont || decide (a.segs ≤ 6) || (a.segs == 7 && fills))

/-- One position of a superframe of an ACTIVE port (R424, R425, R742). -/
def txPos (p : Nat) (place : Nat → Nat × Nat) (a : TxAcc) (f : Nat) : TxAcc :=
  let d := a.d
  let (tick, o) := place f
  let rsv := if (d.port p).shifted then none else d.rsvAt p tick o
  let later := (List.range (37 - f)).any (fun i => (d.rsvAt p (place (f + 1 + i)).1 (place (f + 1 + i)).2).isSome)
  let guard := decide (o ≤ 160)
  let (d, planned) := match rsv with
    | some r => if guard then (d, false) else d.claimC1 p (fun e => rsvFor r e.pkt)
    | none => (d, false)
  let planned := planned && d.segRoom p f a later 2
  let d := if rsv.isSome && !planned then d.bump R.planUnused else d
  let d := if planned || guard then d else (d.claimC1 p (fun e => e.carried)).1
  let pick := if planned then some 2 else d.bestPick p guard (d.segRoom p f a later)
  match pick with
  | some v =>
    let hd := match d.grantAt (8 * p + v) with
      | some g => g.left == g.ent.pkt.flits
      | none => false
    let new := hd || a.run != some (some v)
    let (d, t, bs) := d.txFlit p v tick o
    let d : Die := if !planned && 4 ≤ v then { d with sw := { d.sw with rrVc := smapSet 0 d.sw.rrVc p ((v + 1) % 8) } } else d
    { d := d, pos := a.pos ++ [t], flits := a.flits ++ [bs], segs := a.segs + new.toNat, run := some (some v)
      best := a.best + (if planned || v = 2 then 0 else 1) }
  | none =>
    let new := a.run != some none
    let idle : List Byte := leBytes 64 (Config.freeBits 512 (d.fresh + f)).toNat
    { d := d, pos := a.pos ++ [.idle], flits := a.flits ++ [idle], segs := a.segs + new.toNat, run := some none, best := a.best + 1 }

/-- Floor credits after `n` best-effort positions of an output (R430). -/
def floorTick (d : Die) (p n : Nat) : Die :=
  let ts := (((List.range 8).flatMap (fun v => d.heads (8 * p + v))).map (fun e => e.pkt.tid.toNat)).eraseDups
  d.forAll ts (fun d t =>
    let c := smapGet 0 d.sw.posCount (256 * p + t) + n
    { d with sw := { d.sw with posCount := smapSet 0 d.sw.posCount (256 * p + t) (c % 1024)
                               fc := smapMod 0 d.sw.fc (256 * p + t) (fun x => min 65 (x + c / 1024)) } })

/-! ### The supervisory field (R211 to R221) -/

/-- The message of a superframe with its MSN, by the precedence of R221. -/
def txMsg (d : Die) (p : Nat) : Die × Msg × Nat :=
  let s := d.port p
  let sync (v : BitVec 2) : Msg := .csync v (d.vc p (2 * v.toNat)).sent (d.vc p (2 * v.toNat + 1)).sent
  match s.csyncReq, s.replay, s.sendq, s.csyncDue with
  | v :: r, _, _, _ => (d.modPort p (fun s => { s with csyncReq := r }), sync v, 0)
  | [], (n, m) :: r, _, _ => (d.modPort p (fun s => { s with replay := r }), m, n.toNat)
  | [], [], q, due =>
    if !q.isEmpty && decide (s.unacked.length < 32) then
      let m := q.headD .null
      let n := d.get R.portMsgNextMsn p
      let d := d.modPort p (fun s => { s with
        sendq := q.drop 1, unacked := s.unacked ++ [(BitVec.ofNat 6 n, m)], mlastOut := BitVec.ofNat 6 n
        settledOut := s.settledOut || (match m with | .lcmd c _ => c == 6 | _ => false) })
      (d.set R.portMsgNextMsn ((n + 1) % 64) p, m, n)
    else match due with
      | v :: r => (d.modPort p (fun s => { s with csyncDue := r }), sync v, 0)
      | [] => (d, .null, 0)

/-- The slot of a superframe: RENNET in the one that carries the tick edge, else CREDIT for the next VC pair (R212 to R214). -/
def txSlot (d : Die) (p : Nat) (edge : Option (BitVec 12)) : Die × Slot :=
  let s := d.port p
  match edge, s.rennetDue with
  | some o, true => (d.modPort p (fun s => { s with rennetDue := false }), .rennet o (BitVec.ofNat 16 d.tick.count.toNat))
  | _, _ =>
    let a := 2 * s.vcp.toNat
    let d := d.modPort p (fun s => { s with vcp := s.vcp + 1 })
    let d := d.modVc p a (fun x => { x with lastRet := x.ret })
    let d := d.modVc p (a + 1) (fun x => { x with lastRet := x.ret })
    (d, .credit s.vcp (d.vc p a).ret (d.vc p (a + 1)).ret)

/-- The four lanes' symbols of a superframe (R154 to R166, R175, R203, R211). -/
def txLanes (d : Die) (p : Nat) (pos : List TxPos) (flits : List (List Byte)) (s q : Nat) : Die × List (List (BitVec 10)) :=
  let x := d.port p
  let m := mapBits pos
  let body := fun l => match l with
    | 0 => m % 2 ^ 46
    | 1 => m / 2 ^ 46
    | 2 => s
    | _ => q
  let enc := (List.range 4).map (fun l =>
    sfEncode (smapGet 0 x.txHist l) (laneData flits l) (natBits 56 (l + 2 ^ 2 * x.txSeq.toNat + 2 ^ 10 * body l)))
  let hist := (List.range 4).foldl (fun h l => smapSet 0 h l ((enc.getD l ([], 0)).2)) x.txHist
  (d.modPort p (fun x => { x with txHist := hist, txSeq := x.txSeq + 1 }), enc.map (fun e => e.1.map (BitVec.ofNat 10)))

/-- The transmitter of a port is on: its role is not OFF, its lanes are not in PS2, and the die has not failed (R105, R193, R201, R904). -/
def transmits (d : Die) (p : Nat) : Bool := d.tick.fatal != 2 && d.role p != 0 && (d.port p).hold != some 2 && d.get R.portLinkPs p != 2

/-- Tick and flit offset of position `f` of a superframe that starts at offset `ofs`; once the edge it carries has been applied, the running tick is
the one that the edge opened (R61, R204). -/
def txPlace (d : Die) (p ofs : Nat) (edge : Bool) (f : Nat) : Nat × Nat :=
  let first := if edge && (d.port p).rennetDue then d.tick.count.toNat + 2 ^ 48 - 1 else d.tick.count.toNat
  if ofs + f < d.positions then (first % 2 ^ 48, ofs + f) else ((first + 1) % 2 ^ 48, ofs + f - d.positions)

/-- What waits for a replay port is consumed by the compare unit instead of the line (R769). -/
def replayDrain (d : Die) (p : Nat) : Die :=
  (List.range 8).foldl (fun d v =>
    let k := 8 * p + v
    let es := (d.grantAt k).toList.map (·.ent) ++ d.heads k
    let d : Die := { d with sw := { d.sw with queue := smapErase d.sw.queue k, grant := smapErase d.sw.grant k } }
    d.forAll es (fun d e =>
      let d := d.leaveInput e p v
      let d := match e.cell with
        | some h => d.hoopRelease h (owner 3 p)
        | none => d
      d.replayEgress p v e.pkt)) d

/-- A superframe is sent (R204, R205, R212 to R221, R424 to R430). -/
def superframeTx (d : Die) (p ofs : Nat) (edge : Option (BitVec 12)) : Die :=
  if !d.transmits p then d
  else
    let place := d.txPlace p ofs edge.isSome
    let d := if d.replayPort p then d.replayDrain p else d
    let d := if smapGet false d.withholding p then d.bump R.portWhSf p else d
    let (d, msg, msn) := if d.supervised p then d.txMsg p else (d, .null, 0)
    let on := d.link p == 2
    let start : TxAcc := { d := d, pos := [], flits := [], segs := 0, run := none, best := 0 }
    let a := if on then (List.range 38).foldl (txPos p place) start
      else { start with pos := List.replicate 38 .idle
                        flits := (List.range 38).map (fun f => leBytes 64 (Config.freeBits 512 (d.fresh + f)).toNat) }
    let d := a.d.used 38
    let d := if on then d.floorTick p a.best else d
    let quiet := a.pos.all (· == .idle)
    let d := d.modPort p (fun s => { s with quiet := if quiet then min 4 (s.quiet + 1) else 0 })
    let mack := d.get R.portMsgMackOut p
    let mlast := (d.port p).mlastOut.toNat
    let (d, slot) := d.txSlot p edge
    let (d, lanes) := d.txLanes p a.pos a.flits (slotBits slot mack mlast) (messageSlot msn msg)
    (d.emit (.superframe p a.pos slot msg msn mack mlast lanes)).tryPsReq p

/-! ### Acceptance as a whole (R351, R393, R626, R757) -/

/-- What an accepted item of its own die does next: a CONTRIB is held (R393), a CCTL of an endpoint waits for its command or is REJECTED for a kind
that endpoints may not send (R626). -/
def afterAccept (d : Die) (k : Nat) : Die :=
  let pk := (d.led k).pkt
  if pk.op = 0x10 then d.takeContrib k
  else if pk.op = 0x08 ∧ 3 < pk.addr.toNat % 16 then d.settle k 4
  else d

/-- The first packet of a port's VC that waits is accepted, if it may be (R351 to R353, R640, R757): its ledger entry. -/
def acceptPacket (d : Die) (p v : Nat) (found : Option (List Byte)) (replayed : Bool) : Die × Option Nat :=
  match d.dlv.waiting.find? (fun w => w.port == p && w.vc == v) with
  | none => (d, none)
  | some w =>
    if d.contribWaits w.pkt then (d.countWait p v, none)
    else match d.acceptItem p v found with
      | (d, none) => (d, none)
      | (d, some k) => ((d.recPacket (packetEvent 1 p d.tick.count.toNat d.fofs w.pkt) replayed).afterAccept k, some k)

/-- The lowest queued cell of a pool is zeroed and threaded (R791). -/
def cellZeroed (d : Die) (n : Nat) : Die :=
  match d.hoops.cells.find? (fun e => e.1 / 2 ^ 20 == n && e.2.queued) with
  | none => d
  | some (k, _) =>
    let ix := k % 2 ^ 20
    let size := if n = 0 then 256 else if n = 1 then 1024 else if n = 2 then 4096 else 65536
    (((d.charge 256 7 (size / 64)).zeroCell n ix).modCell n ix (fun c => { c with queued := false })).freeCell n ix

end Die

/-- PACKET_ACCEPT (R351). -/
def execPacketAccept (p : BitVec 6) (v : BitVec 3) (found : Option (List Byte)) (s : State) : Host.Outcome State Fault Refusal :=
  act s (fun d => (d.acceptPacket p.toNat v.toNat found false).1)

/-- ITEM_EGRESS (R369). -/
def execItemEgress (f : BitVec 16) (s : State) : Host.Outcome State Fault Refusal := act s (fun d => d.itemEgress f.toNat)

/-- SUPERFRAME_TX (R424). -/
def execSuperframeTx (p : BitVec 6) (ofs : BitVec 16) (edge : Option (BitVec 12)) (s : State) : Host.Outcome State Fault Refusal :=
  act s (fun d => d.superframeTx p.toNat ofs.toNat edge)

/-- CELL_ZEROED (R791). -/
def execCellZeroed (pool : BitVec 2) (s : State) : Host.Outcome State Fault Refusal := act s (fun d => d.cellZeroed pool.toNat)

end Sys2Proof.Machine
end

