-- ==== Sys2Proof/Machine/Determin.lean ====
section
/-!
DEFINITION. Machine/Determin.lean: the fingerprint, record, replay and compare (spec 18, R744 to R774).
-/
namespace Sys2Proof.Machine

/-! ### The canonical image (R750, R752, R753) -/

/-- An entry of the canonical image's register list: page index, offset, index and value. -/
def detEntry (page ofs ix v : Nat) : List Byte := leBytes 2 page ++ leBytes 2 ofs ++ leBytes 2 ix ++ leBytes 6 0 ++ leBytes 4 v

namespace FpSnap

/-- The dword of a register as it stood at the snapshot. -/
def dword (s : FpSnap) (page ofs : Nat) : Nat := (smapGet (regReset (0x1000 * page + ofs)) s.regs (0x1000 * page + ofs)).toNat

/-- The entries of det registers at fixed offsets of a page. -/
def fixed (s : FpSnap) (page : Nat) (ofs : List Nat) : List (List Byte) := ofs.map (fun o => detEntry page o 0 (s.dword page o))

/-- Every register marked det, by page index, offset and index (R753). -/
def dets (s : FpSnap) : List (List Byte) :=
  s.fixed 0x001 [0x40]
    ++ s.fixed 0x003 ([0x40, 0x48] ++ (List.range 4).map (fun i => 0x4C + 4 * i) ++ (List.range 8).map (fun i => 0x5C + 4 * i))
    ++ s.fixed 0x008 [0x64, 0x68]
    ++ s.fixed 0x00B [0x40, 0x44]
    ++ (List.range 4).flatMap (fun n => (List.range 256).map (fun t => detEntry 0x00B (0xB4 + 4 * n) t (smapGet 0xFFFFF s.quota (256 * n + t))))
    ++ (List.range 64).flatMap (fun p => s.fixed (0x010 + p) [0x48])
    ++ (List.range 32).flatMap (fun v => s.fixed (0x0A0 + v) [0xC0])
    ++ (List.range 64).flatMap (fun k => s.fixed (0x0C0 + k) ((List.range 4).flatMap (fun j => [0x400 * j + 0x50, 0x400 * j + 0x54, 0x400 * j + 0x58])))
    ++ [detEntry 0x100 0x80 0 (s.dword 0x100 0x80 % 128)]
    ++ (List.range 256).map (fun t => detEntry 0x100 0x88 t (smapGet 0 s.tmap t).toNat)
    ++ s.fixed 0x100 [0x90]

/-- A plan entry; a shifted one shows the shifted hash, and BASE less `bmin` (R750). -/
def planEntry (shifted : Bool) (bmin : Nat) (p : FpPlan) : List Byte :=
  leBytes 1 p.tid ++ leBytes 3 0 ++ leBytes 4 p.planId ++ leBytes 8 (if shifted then p.shash else p.hash).toNat ++ leBytes 8 p.pseed.toNat
    ++ leBytes 8 (p.base - bmin)

/-- The die block (table Die block). -/
def block (s : FpSnap) (die : Nat) (shifted : Bool) (bmin : Nat) : List Byte :=
  let dets := s.dets
  leBytes 1 die ++ leBytes 1 s.plans.length ++ leBytes 2 dets.length ++ leBytes 4 0
    ++ [0x50, 0x54, 0x58, 0x5C].flatMap (fun o => leBytes 4 (s.dword 0 o))
    ++ s.plans.flatMap (planEntry shifted bmin) ++ dets.flatten

end FpSnap

/-- NPLAN of a die block. -/
def blockPlans (b : List Byte) : Nat := leNat ((b.drop 1).take 1)

/-- The BASE values of a die block's plan entries. -/
def blockBases (b : List Byte) : List Nat := (List.range (blockPlans b)).map (fun i => leNat ((b.drop (0x18 + 32 * i + 24)).take 8))

/-- A die block with BASE of its plan entries counted from `bmin` (R750). -/
def blockShift (bmin : Nat) (b : List Byte) : List Byte :=
  (List.range (blockPlans b)).foldl (fun b i =>
    let o := 0x18 + 32 * i + 24
    b.take o ++ leBytes 8 (leNat ((b.drop o).take 8) - bmin) ++ b.drop (o + 8)) b

namespace Die

/-- The header of the canonical image (table Canonical image). -/
def imageHead (d : Die) (n : Nat) : List Byte :=
  [0x4B, 0x46, 0x50, 0x49, 0x01] ++ leBytes 1 n ++ leBytes 2 0 ++ (List.range 4).flatMap (fun i => leBytes 4 (d.get R.secFwBuild 0 i))
    ++ leBytes 4 (d.get R.secRomVer) ++ leBytes 1 d.master ++ leBytes 1 (d.get R.cascStatPresent) ++ leBytes 2 0
    ++ leBytes 4 (d.get R.discCoordXyz + 2 ^ 9 * d.get R.discCoordValid + 2 ^ 10 * d.get R.discCoordSizes) ++ leBytes 4 0

/-- The die blocks of the node in ascending position: this die's and what the others contribute. -/
def nodeBlocks (d : Die) (mine : List Byte) (others : List (Nat × List Byte)) : List (List Byte) :=
  (List.range 4).filterMap (fun x => if x = d.pos then some mine else (others.find? (fun o => o.1 == x)).map (fun o => o.2))

/-- The first 64 bits of SHA-384, little-endian (R752). -/
def hash64 (bs : List Byte) : Nat := leNat ((sha384 bs).take 8)

/-- FP and SFP of the node (R750, R752). BMIN is taken over the plans of the node (log entry 39). -/
def fingerprints (d : Die) (others : List FpBlock) : Nat × Nat :=
  let s := d.det.snap
  let bases := s.plans.map (fun p => p.base) ++ others.flatMap (fun o => blockBases o.block)
  let bmin := match bases with
    | [] => 0
    | b :: r => r.foldl min b
  let plain := d.nodeBlocks (s.block d.pos false 0) (others.map (fun o => (o.die.toNat, o.block)))
  let shift := d.nodeBlocks (s.block d.pos true bmin) (others.map (fun o => (o.die.toNat, blockShift bmin o.shifted)))
  (hash64 (d.imageHead plain.length ++ plain.flatten), hash64 (d.imageHead shift.length ++ shift.flatten))

/-- DET.FP and DET.SFP. -/
def fpNow (d : Die) : Nat := d.get64 R.detFpLo R.detFpHi
/-- See `fpNow`. -/
def sfpNow (d : Die) : Nat := d.get64 R.detSfpLo R.detSfpHi

/-- The event of a new fingerprint: recorded, and compared (R754, R771). -/
def fpEvent (d : Die) : Die :=
  let ev : RecEvent := { kind := 5, port := 0, tid := 0, mgmt := false, tick := d.get64 R.detFpTickLo R.detFpTickHi, fofs := 0, crc := d.sfpNow
                         arg := d.fpNow, data := [], pkt := none }
  let d := if d.recLive then d.recEvent ev false else d
  d.compare ev

/-- A fingerprint is shown (R752, R755). -/
def showFp (d : Die) (fp sfp : Nat) : Die :=
  let d := ((d.set64 R.detFpLo R.detFpHi fp).set64 R.detSfpLo R.detSfpHi sfp).setBit R.detFpPending false
  (d.raise I.detFpChange).fpEvent

/-- The acting master publishes the pending value, and its followers mirror it (R752, R755). -/
def publish (d : Die) (others : List FpBlock) : Die :=
  let (fp, sfp) := d.fingerprints others
  let d := d.showFp fp sfp
  d.forAll d.followers (fun d x => d.emit (.toDie x "FP" [fp, sfp, d.get R.detFpGen]))

/-! ### Record (R756 to R766) -/

/-- DET.REC_CTL is written (R762, R765, table DET.REC_CTL). -/
def recCtlWrite (d : Die) (c : Cls) (w : Word) : Die :=
  let busy := d.bit R.detRecCtlEn || d.get R.detRecState == 2
  let fs : List Fld := [R.detRecCtlDigest, R.detRecCtlRing, R.detRecCtlOutput, R.detRecCtlHost, R.detRecCtlOwnerMgmt, R.detRecCtlOwner]
  let d := if fs.all (fun f => fieldGet w f.lsb f.width == d.get f) then d
    else if busy then d.refuse .det 0 c 0x70
    else d.forAll fs (fun d f => d.set f (fieldGet w f.lsb f.width))
  let was := d.bit R.detRecCtlEn
  let on := w.getLsbD 0
  let d := d.setBit R.detRecCtlEn on
  if on && !was then { d with det := { d.det with recAsked := true } }
  else if !on && was then
    let d : Die := { d with det := { d.det with recAsked := false, drain := 0 } }
    if d.get R.detRecState = 1 then d.set R.detRecState 2 else d
  else d

/-- Recording stops (R764, R765): what is left of the buffer is lost. -/
def recStop (d : Die) (code : Nat) : Die :=
  let d := d.bump R.detRecLost 0 0 d.det.buf.length
  let d : Die := { d with det := { d.det with buf := [], lost := 0 } }
  ((d.set R.detRecState 3).set R.detRecCode code).raise I.detRecStop

/-- An entry is written to the log region (R756, R764). The flag says that the region is full and does not wrap. An entry that no longer fits the
owner's space, or the whole region, is lost. -/
def recStore (d : Die) (e : List Byte) : Die × Bool :=
  let len := 4096 * d.get R.detRecLen
  let wrap := decide (len < 16 * d.get R.detRecWptr + e.length)
  if wrap && !d.bit R.detRecCtlRing then (d, true)
  else
    let d := if wrap then (d.set R.detRecWptr 0).setBit R.detRecWrapped true else d
    let o := 16 * d.get R.detRecWptr
    if len < e.length then (d.bump R.detRecLost, false)
    else match d.caveAddr d.logSpace (4096 * d.get R.detRecBase + o) e.length with
      | none => (d.bump R.detRecLost, false)
      | some a => (((d.caveWrite a e).set R.detRecWptr ((o + e.length) / 16)).bump R.detRecEntries, false)

/-- The buffer goes to the cave, oldest entry first, within a budget of bytes. -/
def recDrain : List (List Byte) → Nat → Die → Die
  | [], _, d => d
  | e :: r, n, d =>
    if n < e.length then d
    else match d.recStore e with
      | (d, true) => d.recStop 2
      | (d, false) => recDrain r (n - e.length) { d with det := { d.det with buf := d.det.buf.drop 1 } }

/-- Bytes that the record unit's share moves in a tick (R761, R878). -/
def recBudget (d : Die) : Nat := 64 * d.shareHeld 3 * d.shareUnit

/-- Recording opens with a MARK entry (R762). -/
def recOpen (d : Die) : Die :=
  let d : Die := { d with det := { d.det with recAsked := false, buf := [], lost := 0 } }
  let d := (((d.set R.detRecState 1).set R.detRecCode 0).setBit R.detRecWrapped false).set R.detRecWptr 0
  d.recPut (logEntry d.tick.count.toNat 0 8 0 0 0 d.sfpNow d.fpNow [])

/-- Recording at a tick edge: what has been asked starts if its claims are granted (R762, R763), and the buffer drains. -/
def edgeRecord (d : Die) : Die :=
  let d : Die := if d.get R.detRecState = 2 then { d with det := { d.det with drain := d.det.drain + 1 } } else d
  let d := if d.det.recAsked && d.bit R.detRecCtlEn && d.get R.detRecState != 2 then
      match d.recClaims with
      | (d, 0) => d.recOpen
      | (d, n) => { d with det := { d.det with recAsked := false } }.set R.detRecCode (if n = 7 then 4 else 1)
    else d
  if d.get R.detRecState = 1 ∨ d.get R.detRecState = 2 then recDrain d.det.buf d.recBudget d else d

/-- The run-down of recording ends: entries not written are counted in one GAP entry (R765). -/
def recordStopped (d : Die) : Die :=
  let n := d.det.lost + d.det.buf.length
  let d := if n = 0 then d
    else (d.recStore (logEntry d.tick.count.toNat d.fofs 7 0 0 0 0 (n % 2 ^ 32) [])).1.raise I.detRecGap
  d.recStop 0

/-! ### Replay (R767 to R770, R774) -/

/-- CMP_CNT and both latches are cleared (R772). -/
def cmpClear (d : Die) : Die :=
  let b := [R.detCmpBTick, R.detCmpBTickh, R.detCmpBPort, R.detCmpBKind, R.detCmpBValid, R.detCmpBSeid, R.detCmpBTid, R.detCmpBClass, R.detCmpBDeid,
            R.detCmpTTick, R.detCmpTTickh, R.detCmpTPort, R.detCmpTKind, R.detCmpTValid, R.detCmpTExc, R.detCmpCnt]
  (d.forAll b (fun d f => d.set f 0)).set R.detCmpBFlit 0x7F

/-- DET.RP_CTL is written (R768, R772, R774). -/
def rpCtlWrite (d : Die) (w : Word) : Die :=
  let was := d.bit R.detRpCtlEn
  let on := w.getLsbD 0
  let d := (((d.setBit R.detRpCtlEn on).setBit R.detRpCtlInject (w.getLsbD 1)).setBit R.detRpCtlCmp (w.getLsbD 2)).setBit R.detRpCtlTiming (w.getLsbD 3)
  let d := if w.getLsbD 4 then d.cmpClear else d
  if on == was then d else { d with det := { d.det with rpAsked := on } }

/-- Does an entry take effect in this replay (R767)? HOST entries carry no port of their own (log entry 40). -/
def rpActs (d : Die) (e : RpEnt) : Bool := d.bit R.detRpCtlInject && (e.kind == 3 || ((e.kind == 1 || e.kind == 2) && d.rpPort e.port))

/-- Has an entry's shifted tick come? -/
def rpDue (d : Die) (e : RpEnt) : Bool := d.reached (BitVec.ofNat 48 (d.rpTick e))

/-- Is an entry's shifted tick less than 16 ticks ahead? -/
def rpNear (d : Die) (e : RpEnt) : Bool :=
  let k := (BitVec.ofNat 48 (d.rpTick e) - d.tick.count).toNat
  decide (k < 16 ∨ 2 ^ 47 ≤ k)

/-- Why replay does not start at this edge; 0 when the log allows it (R768). -/
def rpRefusal (d : Die) : Nat :=
  match d.rpRead 0 with
  | none => 1
  | some m =>
    if m.kind ≠ 8 ∨ m.bad then 1
    else if m.crc ≠ d.sfpNow then 2
    else if (d.rpFind rpFuel 0 (fun e => e.kind != 2 && d.rpActs e && e.flags % 2 == 1)).isSome then 3
    else if (d.rpFind rpFuel 0 d.rpNear).isSome then 4
    else 0

/-- Replay starts after the MARK. -/
def rpOpen (d : Die) : Die :=
  let o := match d.rpRead 0 with
    | some m => m.next
    | none => 0
  let d : Die := { d with det := { d.det with rpAsked := false, rpStop := false, late := [], cmp := [], exc := false } }
  ((d.set R.detRpState 1).set R.detRpCode 0).set R.detRpRptr (o / 16)

/-- Replay at a tick edge: its start, with its claims, and the edge after it was disabled (R768, R774). -/
def edgeReplay (d : Die) : Die :=
  let d : Die := { d with det := { d.det with rpStop := d.rpOn && !d.bit R.detRpCtlEn } }
  if !d.det.rpAsked || d.rpOn then d
  else
    let (d, code) := match d.rpRefusal with
      | 0 => d.recClaims
      | n => (d, n)
    if code = 0 then d.rpOpen else { d with det := { d.det with rpAsked := false } }.set R.detRpCode code

/-- What record and replay no longer need is released at an edge (R765, R774, R990). -/
def edgeRecRelease (d : Die) : Die :=
  if d.hasTimer 10 && d.get R.detRecState != 1 && d.get R.detRecState != 2 && !d.rpOn then d.recRelease else d

/-- The offset from one on past the entries that need no effect and whose shifted tick has come. -/
def rpSkip : Nat → Die → Nat → Nat
  | 0, _, o => o
  | n + 1, d, o =>
    match d.rpRead o with
    | none => o
    | some e => if e.kind == 7 || e.bad || d.rpActs e || !d.rpDue e then o else rpSkip n d e.next

/-- Replay ends (R774). -/
def rpEnd (d : Die) (code : Nat) : Die :=
  let d : Die := { d with det := { d.det with late := [] } }
  ((d.set R.detRpState 2).set R.detRpCode code).raise I.detRpDone

/-- The packet of an ACCEPT entry is accepted in its endpoint's place: no credit moves and no receipt goes out (R767, R769). The flag says that
it could not be accepted yet. -/
def injectAccept (d : Die) (p : Nat) (data : List Byte) : Die × Bool :=
  let pk := packetOf data
  let v := 2 * pk.cls.toNat
  let w : WaitPkt := { port := p, vc := v, pkt := pk, counted := true }
  let d' : Die := { d with dlv := { d.dlv with waiting := w :: d.dlv.waiting } }
  let (e, k) := d'.acceptPacket p v none true
  let stays := e.dlv.waiting.length == d'.dlv.waiting.length
  let e : Die := { e with ports := d.ports, withholding := d.withholding, dlv := { e.dlv with waiting := d.dlv.waiting } }
  match k with
  | some k => (if (e.led k).state = .free then e else e.modLed k (fun x => { x with injected := true }), false)
  | none => (e, stays)

/-- A HOST entry is applied as the host write that it records (R767). -/
def injectHost (d : Die) (e : RpEnt) : Die :=
  let page := e.arg % 2 ^ 16
  let ofs := e.arg / 2 ^ 16 % 2 ^ 12
  let g := e.arg / 2 ^ 32 % 2 ^ 12
  let w := leNat e.data
  match e.arg / 2 ^ 28 % 16 with
  | 0 => d.slotWrite false (0x1000 * page + ofs) e.data
  | 1 => d.sqDbWrite .host g (w % 512) true
  | 2 => d.cqDbWrite .host g (w % 512) true
  | 3 => d.collCommand .host g (w / 2 ^ 8 % 4) true
  | 4 => (d.planLoad .host (BitVec.ofNat 32 w) true).planUnload .host (BitVec.ofNat 32 w) true
  | _ => d

/-- An entry takes effect; an ACCEPT that lacks a resource waits and counts as late (R767, R769, R770). -/
def injectEntry (d : Die) (e : RpEnt) : Die :=
  match e.kind with
  | 1 => match d.injectAccept e.port e.data with
    | (d, false) => d
    | (d, true) =>
      let d : Die := { d with det := { d.det with late := d.det.late ++ [BitVec.ofNat 8 e.port :: e.data] } }
      (d.bump R.detRpLate).timeDiverge e.tick e.port 1
  | 2 => (d.recTaken e.port (e.arg % 2 ^ 16) (e.arg / 2 ^ 16 % 64) true).takenRun e.port (BitVec.ofNat 16 e.arg) (e.arg / 2 ^ 16 % 64)
  | 3 => d.injectHost e
  | _ => d

/-- The next entry that takes effect, if its tick has come; a GAP entry ends replay (R767, R774). -/
def replayInject (d : Die) : Die :=
  let o := rpSkip rpFuel d (16 * d.get R.detRpRptr)
  let d := d.set R.detRpRptr (o / 16)
  match d.rpRead o with
  | none => d
  | some e =>
    if e.kind = 7 ∨ e.bad then d.rpEnd 6
    else if d.rpActs e && d.rpDue e then (d.set R.detRpRptr (e.next / 16)).injectEntry e
    else d

/-- The first injected event that waits is tried again (R770). -/
def replayLate (d : Die) : Die :=
  match d.det.late with
  | (p :: data) :: r => match d.injectAccept p.toNat data with
    | (d, false) => { d with det := { d.det with late := r } }
    | (d, true) => d
  | _ => d

/-- Has replay nothing left to do: its last entry has taken effect, or it was disabled and what it injected has come to its outcome (R774)? -/
def replayOver (d : Die) : Bool :=
  if d.det.rpStop then d.dlv.ledger.all (fun e => !e.2.injected || e.2.state == .settled || e.2.state == .free)
  else d.det.late.isEmpty && (d.rpRead (rpSkip rpFuel d (16 * d.get R.detRpRptr))).isNone

end Die

/-- FP_PUBLISH: the acting master publishes the pending fingerprint; a follower mirrors what the master sends (R752, R755). -/
def execFpPublish (others : List FpBlock) (mirror : Option (BitVec 64 × BitVec 64 × BitVec 16)) (s : State) : Host.Outcome State Fault Refusal :=
  act s (fun d =>
    if d.isMaster then (if d.bit R.detFpPending then d.publish others else d)
    else match mirror with
      | some (fp, sfp, gen) => (d.set R.detFpGen gen.toNat).showFp fp.toNat sfp.toNat
      | none => d)

/-- RECORD_ENABLE: DET.REC_CTL is written with EN = 1 (R762). -/
def execRecordEnable (c : Cls) (w : Word) (s : State) : Host.Outcome State Fault Refusal :=
  act s (fun d => if w.getLsbD 0 then d.onPage c .det 0 (fun d => d.recCtlWrite c w) else d)

/-- RECORD_DISABLE: DET.REC_CTL is written with EN = 0 (R765). -/
def execRecordDisable (c : Cls) (w : Word) (s : State) : Host.Outcome State Fault Refusal :=
  act s (fun d => if w.getLsbD 0 then d else d.onPage c .det 0 (fun d => d.recCtlWrite c w))

/-- RECORD_STOPPED: the buffer has been written out, or 16 ticks have passed (R765). -/
def execRecordStopped (s : State) : Host.Outcome State Fault Refusal :=
  act s (fun d => if d.get R.detRecState = 2 ∧ 1 ≤ d.det.drain ∧ (d.det.buf.isEmpty ∨ 16 ≤ d.det.drain) then d.recordStopped else d)

/-- GAP_ENTRY: there is room again after entries were dropped (R761). -/
def execGapEntry (s : State) : Host.Outcome State Fault Refusal := act s (fun d => if d.recLive then d.gapPut else d)

/-- REPLAY_ENABLE: DET.RP_CTL is written with EN = 1 (R768). -/
def execReplayEnable (c : Cls) (w : Word) (s : State) : Host.Outcome State Fault Refusal :=
  act s (fun d => if w.getLsbD 0 then d.onPage c .det 0 (fun d => d.rpCtlWrite w) else d)

/-- REPLAY_INJECT: the moment of the next entry of the log (R767). -/
def execReplayInject (s : State) : Host.Outcome State Fault Refusal := act s (fun d => if d.rpOn && !d.det.rpStop then d.replayInject else d)

/-- REPLAY_LATE: an injected event that waited can take effect (R770). -/
def execReplayLate (s : State) : Host.Outcome State Fault Refusal := act s (fun d => if d.rpOn && !d.det.rpStop then d.replayLate else d)

/-- REPLAY_DISABLE: DET.RP_CTL is written with EN = 0 (R774). -/
def execReplayDisable (c : Cls) (w : Word) (s : State) : Host.Outcome State Fault Refusal :=
  act s (fun d => if w.getLsbD 0 then d else d.onPage c .det 0 (fun d => d.rpCtlWrite w))

/-- REPLAY_END (R774). -/
def execReplayEnd (s : State) : Host.Outcome State Fault Refusal := act s (fun d => if d.rpOn && d.replayOver then d.rpEnd 0 else d)

/-- CMP_CLEAR: DET.RP_CTL.CLR is written (R772). -/
def execCmpClear (c : Cls) (s : State) : Host.Outcome State Fault Refusal := act s (fun d => d.onPage c .det 0 Die.cmpClear)

end Sys2Proof.Machine
end

