-- ==== Sys2Proof/Machine/Dma.lean ====
section
/-!
DEFINITION. Machine/Dma.lean: the DMA queues of the die (spec 20, R835 to R840, R849 to R852).
-/
namespace Sys2Proof.Machine

/-- A DMA queue that has done nothing. -/
def DmaQ.init : DmaQ := { jobs := [], wait := 0, heldRec := none, closing := false }

namespace Die

/-- A DMA queue. -/
def dmaQ (d : Die) (q : Nat) : DmaQ := smapGet DmaQ.init d.host.dma q

/-- A DMA queue changed. -/
def modDma (d : Die) (q : Nat) (f : DmaQ → DmaQ) : Die := { d with host := { d.host with dma := smapMod DmaQ.init d.host.dma q f } }

/-- The cave address of a DMA queue's SQ slot (table Control slice). -/
def dmaSqAddr (q ix : Nat) : Nat := 0x6000000 + 0x4000 * q + 32 * (ix % 256)

/-- The cave address of a DMA queue's CQ slot. -/
def dmaCqAddr (q ix : Nat) : Nat := 0x6002000 + 0x4000 * q + 16 * (ix % 256)

/-- Does a host range lie wholly inside one valid window (R830)? -/
def inHmem (d : Die) (a n : Nat) : Bool :=
  (List.range 8).any (fun i =>
    let b := 4096 * d.get R.hostHmemBaseLo 0 i + 2 ^ 32 * d.get R.hostHmemBaseHi 0 i
    d.bit R.hostHmemValid 0 i && decide (b ≤ a ∧ a + n ≤ b + 4096 * d.get R.hostHmemSize 0 i))

/-- May a descriptor touch its owner's cave space (R837)? -/
def dmaTenant (d : Die) (j : DmaJob) : Bool :=
  j.mgmt || (d.get R.tenStatState (j.tid / 4) (j.tid % 4) == 1 && d.bit R.tenCtlHostCave (j.tid / 4) (j.tid % 4))

/-- The owner's space of a descriptor. -/
def jobSpace (j : DmaJob) : Space := if j.mgmt then .mgmt else .tenant j.tid

/-- The status with which a descriptor ends before it moves a byte, by the order of the table DMA status; none when it may run. `bad` says that
reserved bits are set. -/
def dmaCheck (d : Die) (j : DmaJob) (bad : Bool) : Option Nat :=
  if bad || j.op = 0 || 4 < j.op then some 1
  else if 3 ≤ j.op then (if j.mgmt || j.tid ≠ 0 || j.len ≠ 0 || j.haddr ≠ 0 || j.cofs ≠ 0 then some 1 else none)
  else if j.mgmt && j.tid ≠ 0 then some 1
  else if j.len % 64 ≠ 0 || j.len < 64 || 2 ^ 30 < j.len || j.haddr % 64 ≠ 0 || j.cofs % 64 ≠ 0 then some 2
  else if !d.inHmem j.haddr j.len then some 3
  else if (d.caveAddr (jobSpace j) j.cofs j.len).isNone then some 4
  else if !d.dmaTenant j then some 5
  else none

/-- A descriptor read from its 32 bytes (table DMA descriptor). -/
def readDma (d : Die) (slot : Nat) (bs : List Byte) : DmaJob :=
  let n := leNat bs
  let f (lsb w : Nat) : Nat := n / 2 ^ lsb % 2 ^ w
  let j : DmaJob :=
    { slot := slot, op := f 8 8, irq := f 16 1 = 1, mgmt := f 17 1 = 1, tid := f 24 8, len := f 32 32, haddr := f 64 64, cofs := f 128 64
      tag := f 192 32, moved := 0, status := none }
  { j with status := d.dmaCheck j (f 2 6 != 0 || f 18 6 != 0 || f 224 32 != 0) }

/-- May the queue read its next slot now: enabled, room for one of 4, no record held, no FENCE in flight, a slot pending and its PHASE there
(R621, R624, R836, R838, R851)? -/
def dmaMay (d : Die) (q : Nat) : Bool :=
  let s := d.dmaQ q
  let h := d.get R.dmaQSqHead 0 q
  (d.bit R.dmaQEn 0 q || s.closing) && s.heldRec.isNone && decide (s.jobs.length < 4) && h != d.get R.dmaQSqTail 0 q
    && !s.jobs.any (fun j => j.op == 3 && j.status.isNone)

/-- The next slot is drained (R620 for a DMA queue). -/
def dmaDrain (d : Die) (q : Nat) : Die :=
  let h := d.get R.dmaQSqHead 0 q
  let a := dmaSqAddr q h
  if d.dmaMay q && d.phaseOk a 32 h then
    let j := d.readDma (h % 256) (d.caveRead a 32)
    let d := ((d.setLock a false).set R.dmaQSqHead ((h + 1) % 512) 0 q).setBit R.dmaQStalled false 0 q
    d.modDma q (fun s => { s with jobs := s.jobs ++ [j], wait := 0 })
  else d

/-- Slots are read while the engine has room. -/
def dmaFill (d : Die) (q : Nat) : Die := d.forAll (List.range 4) (fun d _ => d.dmaDrain q)

/-- A doorbell that does not fit is logged (R618 for a DMA queue). -/
def dmaBadDb (d : Die) (q : Nat) : Die := d.logErr .dma 0 0x0A02 0 (leBytes 1 q)

/-- The SQ doorbell (R618, R836). -/
def dmaSqDb (d : Die) (q tail : Nat) : Die :=
  let h := d.get R.dmaQSqHead 0 q
  let t := d.get R.dmaQSqTail 0 q
  if (tail + 512 - h) % 512 ≤ 256 ∧ (t + 512 - h) % 512 ≤ (tail + 512 - h) % 512 then
    let d := d.forAll (ringSpan t tail) (fun d i => d.setLock (dmaSqAddr q i) true)
    (d.set R.dmaQSqTail tail 0 q).dmaFill q
  else d.dmaBadDb q

/-- A completion record is written at CQ_TAIL (R622, table DMA completion record). -/
def dmaPut (d : Die) (q : Nat) (bs : List Byte) (irq : Bool) : Die :=
  let t := d.get R.dmaQCqTail 0 q
  let bs := match bs with
    | _ :: r => BitVec.ofNat 8 (2 + (ringPhase t).toNat) :: r
    | [] => []
  let d := (d.caveWrite (dmaCqAddr q t) bs).set R.dmaQCqTail ((t + 1) % 512) 0 q
  let d := (d.modDma q (fun s => { s with heldRec := none })).setBit R.dmaQCqWait false 0 q
  if irq then d.raise (I.dmaComplete q) else d

/-- A held record is tried again (R624). -/
def dmaRetry (d : Die) (q : Nat) : Die :=
  match (d.dmaQ q).heldRec with
  | some (bs, irq) => if d.slotLock (dmaCqAddr q (d.get R.dmaQCqTail 0 q)) then d else d.dmaPut q bs irq
  | none => d

/-- The CQ doorbell (R623, R836). -/
def dmaCqDb (d : Die) (q head : Nat) : Die :=
  let h := d.get R.dmaQCqHead 0 q
  let t := d.get R.dmaQCqTail 0 q
  if (head + 512 - h) % 512 ≤ (t + 512 - h) % 512 then
    (d.forAll (ringSpan h head) (fun d i => d.setLock (dmaCqAddr q i) false)).set R.dmaQCqHead head 0 q
  else d.dmaBadDb q

/-- The job that a command moves on: the first with an operation that has not ended. -/
def dmaJob (d : Die) (q op : Nat) : Option DmaJob := (d.dmaQ q).jobs.find? (fun j => j.op == op && j.status.isNone)

/-- A job changed, by its slot. -/
def modJob (d : Die) (q slot : Nat) (f : DmaJob → DmaJob) : Die :=
  d.modDma q (fun s => { s with jobs := s.jobs.map (fun j : DmaJob => if j.slot = slot then f j else j) })

/-- Bytes moved, with the status when the descriptor has ended by it (DMA.QqBYTES). -/
def dmaMoved (d : Die) (q : Nat) (j : DmaJob) (n : Nat) (st : Option Nat) : Die :=
  let st := match st with
    | some e => some e
    | none => if j.moved + n = j.len then some 0 else none
  (d.modJob q j.slot (fun j => { j with moved := j.moved + n, status := st })).bump64 R.dmaQBytesLo R.dmaQBytesHi 0 q n

/-- H2C: host data arrives and is written under the owner's key; with `err` the line after it failed (R834, R839). -/
def dmaH2c (d : Die) (q : Nat) (data : List Byte) (err : Bool) : Die :=
  match d.dmaJob q 1 with
  | none => d
  | some j =>
    let n := min (data.length / 64 * 64) (j.len - j.moved)
    match d.caveAddr (jobSpace j) (j.cofs + j.moved) n with
    | none => d
    | some a =>
      let d := (d.emit (.hostRead (j.haddr + j.moved) n)).caveWrite a (data.take n)
      d.dmaMoved q j n (if err && decide (j.moved + n < j.len) then some 6 else none)

/-- C2H: cave data leaves for host memory; an uncorrectable line ends the descriptor with what moved before it (R839, R890). -/
def dmaC2h (d : Die) (q n : Nat) (ce ue : List Nat) : Die :=
  match d.dmaJob q 2 with
  | none => d
  | some j =>
    let n := min (n / 64 * 64) (j.len - j.moved)
    match d.caveAddr (jobSpace j) (j.cofs + j.moved) n with
    | none => d
    | some a =>
      match d.caveFetch a n ce ue with
      | (d, none) => (d.emit (.hostWrite (j.haddr + j.moved) (d.caveRead a n))).dmaMoved q j n none
      | (d, some l) => (d.emit (.hostWrite (j.haddr + j.moved) (d.caveRead a (64 * l - a)))).dmaMoved q j (64 * l - a) (some 7)

/-- FENCE: every earlier descriptor has completed (R850). -/
def dmaFence (d : Die) (q : Nat) : Die :=
  match (d.dmaQ q).jobs with
  | j :: _ => if j.op = 3 ∧ j.status.isNone then d.modJob q j.slot (fun j => { j with status := some 0 }) else d
  | [] => d

/-- The record of a finished descriptor but its byte 0. -/
def dmaRecord (j : DmaJob) (st : Nat) : List Byte :=
  [0, BitVec.ofNat 8 st, BitVec.ofNat 8 j.slot, 0] ++ leBytes 4 j.tag ++ leBytes 4 j.moved ++ leBytes 4 0

/-- The head descriptor has finished: its record is written in queue order, or held (R622, R624, R838). -/
def dmaComplete (d : Die) (q : Nat) : Die :=
  let s := d.dmaQ q
  match s.jobs with
  | [] => d
  | j :: r =>
    match j.status with
    | none => d
    | some st =>
      if s.heldRec.isSome then d
      else
        let d := d.modDma q (fun s => { s with jobs := r })
        let d := if st = 0 then d
          else ((d.set R.dmaQLasterr st 0 q).set R.dmaQErrslot j.slot 0 q).raise (I.dmaErr q)
        let d := if st = 6 then d.raise I.hostHostErr else d
        let b := dmaRecord j st
        let d := if d.slotLock (dmaCqAddr q (d.get R.dmaQCqTail 0 q)) then
            (((d.modDma q (fun s => { s with heldRec := some (b, j.irq) })).setBit R.dmaQCqWait true 0 q).logErr .dma 0 0x0A01 0 (leBytes 1 q)).raise
              (I.dmaOverwrite q)
          else d.dmaPut q b j.irq
        d.dmaFill q

/-- EN of a queue is written: clearing it runs the queue down, setting it lets slots be read (R836). -/
def dmaEnWrite (d : Die) (q : Nat) (en : Bool) : Die :=
  let was := d.bit R.dmaQEn 0 q
  let d := d.setBit R.dmaQEn en 0 q
  if en then (d.modDma q (fun s => { s with closing := false })).dmaFill q
  else if was then d.modDma q (fun s => { s with closing := true })
  else d

/-- The DMA queues at an edge: a queue that closes reads no more, a slot without its PHASE is read again and counts, held records are tried again
(R621, R624, R836). -/
def edgeDma (d : Die) : Die :=
  d.forAll (List.range 4) (fun d q =>
    let d := (d.modDma q (fun s => { s with closing := false })).dmaRetry q
    let h := d.get R.dmaQSqHead 0 q
    let d := d.dmaFill q
    if d.dmaMay q && d.get R.dmaQSqHead 0 q == h then
      let n := (d.dmaQ q).wait + 1
      let d := d.modDma q (fun s => { s with wait := n })
      if 16 ≤ n ∧ !d.bit R.dmaQStalled 0 q then
        ((d.setBit R.dmaQStalled true 0 q).logErr .dma 0 0x0A00 1 (leBytes 1 q)).raise (I.dmaUnderfill q)
      else d
    else d)

end Die

/-- DMA_SQ_DOORBELL (R836). -/
def execDmaSqDoorbell (c : Cls) (q : BitVec 2) (tail : BitVec 9) (s : State) : Host.Outcome State Fault Refusal :=
  act s (fun d => d.onPage c .dma 0 (fun d => d.dmaSqDb q.toNat tail.toNat))

/-- DMA_CQ_DOORBELL (R836). -/
def execDmaCqDoorbell (c : Cls) (q : BitVec 2) (head : BitVec 9) (s : State) : Host.Outcome State Fault Refusal :=
  act s (fun d => d.onPage c .dma 0 (fun d => d.dmaCqDb q.toNat head.toNat))

/-- H2C (R839). -/
def execH2c (q : BitVec 2) (data : List Byte) (err : Bool) (s : State) : Host.Outcome State Fault Refusal :=
  act s (fun d => d.dmaH2c q.toNat data err)

/-- C2H (R839). -/
def execC2h (q : BitVec 2) (n : BitVec 31) (ce ue : List (BitVec 34)) (s : State) : Host.Outcome State Fault Refusal :=
  act s (fun d => d.dmaC2h q.toNat n.toNat (ce.map BitVec.toNat) (ue.map BitVec.toNat))

/-- DMA_FENCE (R850). -/
def execDmaFence (q : BitVec 2) (s : State) : Host.Outcome State Fault Refusal := act s (fun d => d.dmaFence q.toNat)

/-- DMA_NOP (R836). A reserved operation has ended with BAD_OP when its slot was read. -/
def execDmaNop (q : BitVec 2) (s : State) : Host.Outcome State Fault Refusal :=
  act s (fun d => match d.dmaJob q.toNat 4 with
    | some j => d.modJob q.toNat j.slot (fun j => { j with status := some 0 })
    | none => d)

/-- DMA_COMPLETE (R838). -/
def execDmaComplete (q : BitVec 2) (s : State) : Host.Outcome State Fault Refusal := act s (fun d => d.dmaComplete q.toNat)

/-- DMA_QUEUE_DISABLE: DMA.QqCTL.EN is cleared (R836). -/
def execDmaQueueDisable (c : Cls) (q : BitVec 2) (s : State) : Host.Outcome State Fault Refusal :=
  act s (fun d => d.onPage c .dma 0 (fun d => d.dmaEnWrite q.toNat false))

end Sys2Proof.Machine
end

