-- ==== Sys2Proof/Machine/Telemetry.lean ====
section
/-!
DEFINITION. Machine/Telemetry.lean: snapshots, the ring and the maxima of telemetry (spec 23, R924, R928, R931 to R941). The counters and accounts
themselves are charged where their events occur (Machine/Ops.lean).
-/
namespace Sys2Proof.Machine

/-- A record's size in bytes (R935). -/
def snapSize : Nat := 20480

namespace Die

/-- Telemetry counter of a key. -/
def telemCnt (d : Die) (k : Nat) : Nat := smapGet 0 d.telem.cnt k

/-- Account of a tenant or MGMT (256) in fJ. -/
def account (d : Die) (who : Nat) : Nat := smapGet 0 d.telem.acct who

/-! ### TELEM.CTL and the ring registers (R931, R939, R940) -/

/-- Does STATE show RUNNING or DRAINING? -/
def telemBusy (d : Die) : Bool := d.get R.telemStatState == 1 || d.get R.telemStatState == 2

/-- TELEM.CTL is written. -/
def telemCtlWrite (d : Die) (c : Cls) (w : Word) : Die :=
  let was := d.bit R.telemCtlEn
  let on := w.getLsbD 0
  if d.telemBusy && !(was && !on) then d.refuse .telem 0 c 0x40
  else
    let fs : List Fld := [R.telemCtlEn, R.telemCtlDest, R.telemCtlWrap, R.telemCtlSect, R.telemCtlNm1]
    let d := d.forAll fs (fun d f => d.set f (fieldGet w f.lsb f.width))
    let d := if was && !on && d.get R.telemStatState = 1 then d.set R.telemStatState 2 else d
    if on == was then d else { d with telem := { d.telem with asked := on } }

/-- A write to one of TELEM.RING_LO, RING_HI and RING_LEN (R940; RING_LEN below 2 is discarded). -/
def telemRingWrite (d : Die) (c : Cls) (ofs : Nat) (w : Word) : Die :=
  if d.telemBusy || (ofs == 0x50 && decide (fieldGet w 0 16 < 2)) then d.refuse .telem 0 c ofs
  else
    let f := if ofs = 0x48 then R.telemRingLo else if ofs = 0x4C then R.telemRingHi else R.telemRingLen
    d.set f (fieldGet w f.lsb f.width)

/-! ### Where records go (R932, R935) -/

/-- The ring's base: a host address, or an address in MGMT space. -/
def ringBase (d : Die) : Nat := 4096 * d.get R.telemRingLo + 2 ^ 32 * d.get R.telemRingHi

/-- Does the ring lie where DEST allows (R932)? -/
def ringOk (d : Die) : Bool :=
  let n := d.get R.telemRingLen
  if d.bit R.telemCtlDest then (List.range n).all (fun s => d.inHmem (d.ringBase + snapSize * s) snapSize)
  else (d.caveAddr .mgmt d.ringBase (snapSize * n)).isSome

/-- One part of a record written at an offset of its slot. -/
def ringWrite (d : Die) (slot ofs : Nat) (bs : List Byte) : Die :=
  let a := d.ringBase + snapSize * slot + ofs
  if d.bit R.telemCtlDest then d.emit (.hostWrite a bs) else d.caveWrite a bs

/-! ### Captures (R933, R934, R941) -/

/-- A 32-bit difference of a counter since the previous capture (R934). -/
def cntDiff (d : Die) (k : Nat) : Nat := min 0xFFFFFFFF ((d.telemCnt k + 2 ^ 64 - smapGet 0 d.telem.cnt0 k) % 2 ^ 64)

/-- The change of an account in nJ (table Snapshot record). -/
def nanoDiff (d : Die) (who : Nat) : Nat := d.account who / 10 ^ 6 - smapGet 0 d.telem.acct0 who / 10 ^ 6

/-- The greatest depth of the interval under a key, in KiB. -/
def topKib (d : Die) (k : Nat) : Nat := min 0xFFFF (smapGet 0 d.telem.top k / 1024)

/-- A port entry. -/
def snapPort (d : Die) (p : Nat) : List Byte :=
  (List.range 0x2A).flatMap (fun i => leBytes 4 (d.cntDiff (portTel p i)))
    ++ leBytes 2 ((List.range 8).foldl (fun m v => max m (d.topKib (8 * p + v))) 0) ++ leBytes 2 (d.topKib (512 + p)) ++ leBytes 84 0

/-- A vat entry. -/
def snapVat (d : Die) (v : Nat) : List Byte := (List.range 6).flatMap (fun i => leBytes 4 (d.cntDiff (vatTel v i))) ++ leBytes 8 0

/-- A hoop entry. -/
def snapHoop (d : Die) (n : Nat) : List Byte :=
  (List.range 4).flatMap (fun i => leBytes 4 (d.cntDiff (hoopTel n i))) ++ leBytes 4 (smapGet 0xFFFFF d.telem.least n) ++ leBytes 12 0

/-- The header (table Snapshot header). -/
def snapHead (d : Die) : List Byte :=
  [0x4B, 0x54, 0x4C, 0x4D] ++ leBytes 4 (d.get R.telemSeq) ++ leBytes 6 d.tick.count.toNat ++ leBytes 2 (d.get R.telemCtlNm1 + 1)
    ++ leBytes 1 d.pos ++ leBytes 1 (d.get R.telemCtlSect) ++ leBytes 2 (min 0xFFFF d.telem.lostNow) ++ leBytes 4 (min 0xFFFFFFFF d.telem.ovr)
    ++ leBytes 8 (d.get64 R.detFpLo R.detFpHi) ++ leBytes 32 0

/-- The record as parts with their offsets, the trailer last (table Snapshot record, R941). -/
def snapRecord (d : Die) : List (Nat × List Byte) :=
  let sect := d.get R.telemCtlSect
  let on (i : Nat) (l : List (Nat × List Byte)) : List (Nat × List Byte) := if sect / 2 ^ i % 2 = 1 then l else []
  [(0, d.snapHead)]
    ++ on 0 ((List.range 64).map (fun p => (0x40 + 256 * p, d.snapPort p)))
    ++ on 1 ((List.range 32).map (fun v => (0x4040 + 32 * v, d.snapVat v)))
    ++ on 2 ((List.range 4).map (fun n => (0x4440 + 32 * n, d.snapHoop n)))
    ++ on 3 ((List.range 256).map (fun t => (0x44C0 + 8 * t, leBytes 8 (d.nanoDiff t))))
    ++ [(0x4CC0, leBytes 4 (d.get R.telemSeq) ++ leBytes 4 (min 0xFFFFFFFF (d.nanoDiff 256)) ++ leBytes 56 0)]

/-- A record that is not written counts (R937). -/
def recordLost (d : Die) : Die :=
  ({ d with telem := { d.telem with lostNow := d.telem.lostNow + 1 } }.bump R.telemLost).raise I.telemLost

/-- The values from which the next record's differences are taken, and its maxima, start anew (R933, R934). -/
def snapRestart (d : Die) : Die :=
  let least := (List.range 4).foldl (fun m n => smapSet 0xFFFFF m n (d.hfree n)) []
  { d with telem := { d.telem with cnt0 := d.telem.cnt, acct0 := d.telem.acct, top := [], least := least, e0 := some d.tick.count.toNat, ovr := 0 } }

/-- Is a record not written, at its capture edge (R936, R937)? -/
def snapMissed (d : Die) : Bool :=
  d.telem.writing.isSome || (d.bit R.telemCtlDest && (!d.inD0 || d.get R.hostLinkSpeed == 0))
    || (!d.bit R.telemCtlWrap && (d.get R.telemTail + 1) % d.get R.telemRingLen == d.get R.telemHead)

/-- Is the present edge a capture edge (R933)? -/
def captureDue (d : Die) : Bool :=
  match d.telem.e0 with
  | some e => d.get R.telemStatState == 1 && (d.tick.count.toNat + 2 ^ 48 - e) % 2 ^ 48 == d.get R.telemCtlNm1 + 1
  | none => false

/-- A capture (R933 to R937); PERF_TRIG pulses (table GPIO functions). -/
def capture (d : Die) : Die :=
  let d := if d.snapMissed then d.recordLost
    else { d with telem := { d.telem with writing := some d.snapRecord, lostNow := 0 } }
  (((d.drive 6 .perfTrig true).drive 6 .perfTrig false).set R.telemSeq (d.get R.telemSeq + 1)).snapRestart

/-- The record has been written to its slot (R935), or could not be. -/
def snapWritten (d : Die) (ok : Bool) : Die :=
  match d.telem.writing with
  | none => d
  | some l =>
    let d : Die := { d with telem := { d.telem with writing := none } }
    if !ok then d.recordLost
    else
      let n := d.get R.telemRingLen
      let slot := d.get R.telemTail % n
      let d := d.forAll l (fun d x => d.ringWrite slot x.1 x.2)
      (d.set R.telemTail ((slot + 1) % n)).raise I.telemRecord

/-! ### The edge (R924, R928, R931, R933, R939) -/

/-- The claims of telemetry (R931): the timer, and the cave share when DEST is the cave. -/
def telemClaims (d : Die) : Die × Bool :=
  match d.freeTimer with
  | none => (d.refusedClaim (some 0x10) 6, false)
  | some i =>
    let n := d.get R.caveShare1Telem
    if d.bit R.telemCtlDest then (d.takeTimer i 6, true)
    else if !d.shareFits 4 n then (d.refusedClaim none 6, false)
    else ((d.takeTimer i 6).setShare 4 n, true)

/-- Telemetry asks to start: its ring and its claims (R931 to R933). -/
def telemStart (d : Die) : Die :=
  let d : Die := { d with telem := { d.telem with asked := false } }
  if !d.ringOk then (d.set R.telemStatState 4).raise I.telemRange
  else match d.telemClaims with
    | (d, false) => (d.set R.telemStatState 3).raise I.telemConflict
    | (d, true) =>
      let d := ((d.set R.telemStatState 1).set R.telemSeq 0).snapRestart
      { d with telem := { d.telem with lostNow := 0 } }

/-- The end of a run-down of telemetry at an edge: what it held is free (R939, R990). -/
def edgeTelemRelease (d : Die) : Die :=
  let st := d.get R.telemStatState
  if !d.bit R.telemCtlEn && (st == 3 || st == 4 || (st == 2 && d.telem.writing.isNone)) then
    let d := ((d.set R.telemStatState 0).letTimer 6).setShare 4 0
    { d with telem := { d.telem with e0 := none } }
  else d

/-- The claims of telemetry at an edge (R931, R991). -/
def edgeTelemClaims (d : Die) : Die := if d.telem.asked && !d.telemBusy then d.telemStart else d

/-- The depths at which the maxima of a new tick start (R924). -/
def depthsNow (d : Die) : SMap Nat :=
  let outs := (List.range 512).foldl (fun m k => smapSet 0 m k (d.outDepth k)) []
  (d.portsWith d.isDrop).foldl (fun m p => smapSet 0 m (512 + p) (64 * d.ingressFlits p)) outs

/-- The maxima move on, and the energy table comes into force (R924, R928). -/
def edgeDepths (d : Die) : Die :=
  let top := d.telem.cur.foldl (fun m (e : Nat × Nat) => smapMod 0 m e.1 (max e.2)) d.telem.top
  let etab := (List.range 8).foldl (fun m n => smapSet (etabDefault n) m n (d.get R.telemEtabFj 0 n)) d.telem.etab
  { d with telem := { d.telem with prev := d.telem.cur, top := top, cur := d.depthsNow, etab := etab } }

/-- The cycles of the closing tick that stall counters count (R922, R923). -/
def edgeStalls (d : Die) (l : List (BitVec 1 × BitVec 6 × BitVec 6 × BitVec 17)) : Die :=
  d.forAll l (fun d x =>
    let i := x.2.2.1.toNat
    let n := min x.2.2.2.toNat d.tickCycles
    if x.1 = 0 then (if 0x27 ≤ i ∧ i ≤ 0x29 then d.tcount (portTel x.2.1.toNat i) n else d)
    else if i = 2 ∧ x.2.1.toNat < 32 then d.tcount (vatTel x.2.1.toNat 2) n
    else d)

end Die

/-- TELEM_ENABLE: TELEM.CTL is written with EN = 1 (R931). -/
def execTelemEnable (c : Cls) (w : Word) (s : State) : Host.Outcome State Fault Refusal :=
  act s (fun d => if w.getLsbD 0 then d.onPage c .telem 0 (fun d => d.telemCtlWrite c w) else d)

/-- TELEM_CAPTURE: the edge just passed is a capture edge (R933). -/
def execTelemCapture (s : State) : Host.Outcome State Fault Refusal := act s (fun d => if d.captureDue then d.capture else d)

/-- TELEM_RECORD_WRITTEN: the record under way has been written, or `ok` is false and it could not be (R935). -/
def execTelemRecordWritten (ok : Bool) (s : State) : Host.Outcome State Fault Refusal := act s (fun d => d.snapWritten ok)

/-- TELEM_DISABLE: TELEM.CTL is written with EN = 0 (R939). -/
def execTelemDisable (c : Cls) (w : Word) (s : State) : Host.Outcome State Fault Refusal :=
  act s (fun d => if w.getLsbD 0 then d else d.onPage c .telem 0 (fun d => d.telemCtlWrite c w))

end Sys2Proof.Machine
end

