-- ==== Sys2Proof/Machine/View.lean ====
section
/-!
DEFINITION. Machine/View.lean: what a register dword holds when it is read. Most dwords are the register file's; a field that shows a queue, a table, a
selected row or another part of the state is computed from that part (the register tables of the chapters). WO fields read 0 (R25). A value the spec
leaves to the moment of the read is a free value (log entry 3).
-/
namespace Sys2Proof.Machine

/-- A field of a dword, shown. -/
def put (f : Fld) (v : Nat) (w : Word) (j : Nat := 0) : Word := fieldSet w (f.lsb + f.fstep * j) f.width v

/-- A truth value as a one-bit field. -/
def putBit (f : Fld) (b : Bool) (w : Word) : Word := put f (if b then 1 else 0) w

/-- The dword without its WO fields (R25). -/
def noWo (t : PageType) (o : Nat) (w : Word) : Word :=
  ((fieldsAt t o).filter (fun f => f.acc == .wo && f.covers o)).foldl (fun w f => (List.range f.fn).foldl (fun w j => put f 0 w j) w) w

/-- Bits `[32 n + 31 : 32 n]` of a number, as a dword. -/
def dwordOf (v n : Nat) : Word := BitVec.ofNat 32 (v / 2 ^ (32 * n))

/-- The 128 bits of a handle entry (table Handle entry, R577). -/
def HandleEnt.bits (e : HandleEnt) : Nat :=
  e.valid.toNat + 2 * e.cls.toNat + 2 ^ 2 * e.poison.toNat + 2 ^ 3 * e.mgmt.toNat + 2 ^ 4 * e.padk + 2 ^ 8 * e.tid + 2 ^ 16 * e.base
    + 2 ^ 32 * e.len + 2 ^ 48 * e.ltag.toNat + 2 ^ 64 * e.padv

/-- The 256 bits of a group table window entry (table Group table window entry, R962). -/
def GroupEnt.bits (e : GroupEnt) : Nat :=
  1 + 2 * e.tid + 2 ^ 9 * e.home + 2 ^ 11 * e.hasq.toNat + 2 ^ 12 * e.lkind.toNat + 2 ^ 13 * e.leid.toNat + 2 ^ 30 * e.nmem + 2 ^ 43 * e.smallMax
    + 2 ^ 53 * e.nt + 2 ^ 56 * e.lead + 2 ^ 64 * e.early + 2 ^ 69 * e.holdMax + 2 ^ 85 * e.ltag.toNat + 2 ^ 128 * e.mbase

/-- Registers of a PORT page that act on DROP ports only: on other roles they read 0 and ignore writes (spec 08 and 09, Registers). -/
def dropOnly (o : Nat) : Bool :=
  decide (0x400 ≤ o) || o == 0x84 || o == 0x88 || o == 0x98 || o == 0x9C

namespace Die

/-- PAGE_ERR_CNT of a page. -/
def viewErrCnt (d : Die) (idx : Nat) : Word :=
  let p := d.pageErr idx
  let sev := match p.fifo with
    | [] => 0
    | r :: _ => r.sev.toNat
  put R.hdrErrCntDepth p.fifo.length (put R.hdrErrCntHeadsev sev (putBit R.hdrErrCntStall p.stall
    (put R.hdrErrCntDropped p.dropped (put R.hdrErrCntPend (d.pendOf idx).length 0))))

/-- The common page header (spec 24, R942, R949). PAGE_ERR_HEAD is read by `errHead`. -/
def viewHdr (d : Die) (t : PageType) (inst o : Nat) (w : Word) : Word :=
  if o = 0 then put R.hdrIdInstance inst (put R.hdrIdType (pageTypeCode t) w)
  else if o = 0x18 then d.viewErrCnt (pageIndex t inst)
  else w

/-- The greatest depth of a loaded plan (TICK.STAT.DEPTH). -/
def planDepth (d : Die) : Nat := (d.plansIn [2, 3]).foldl (fun m p => max m p.2.depth) 0

/-- TICK. -/
def viewTick (d : Die) (o : Nat) (w : Word) : Word :=
  if o = 0x44 then put R.tickStatDepth d.planDepth w
  else if o = 0x48 then dwordOf d.tick.count.toNat 0
  else if o = 0x4C then dwordOf d.tick.count.toNat 1
  else if o = 0x50 then put R.tickCycleCyc d.cycle w
  else w

/-- DISC.LAT: the recorded latency of a link of this die (R283, log entry 9). -/
def viewDisc (d : Die) (o : Nat) (w : Word) : Word :=
  if o = 0x68 then
    match (if d.get R.discLatselDie = d.pos then smapGet none d.disc.lat (d.get R.discLatselPort) else none) with
    | some l => put R.discLatL l.toNat (putBit R.discLatValid true w)
    | none => w
  else w

/-- The entry of the global log that ERRLOG.SEL names. -/
def selEntry (d : Die) : Option LogEnt := d.err.log.find? (fun e => e.r.seq.toNat == d.get R.errlogSelSeq)

/-- ERRLOG. -/
def viewErrlog (d : Die) (o : Nat) (w : Word) : Word :=
  if o = 0x48 then
    put R.errlogStatUsed d.err.log.length (put R.errlogStatPend (d.err.log.filter (fun e => e.pend)).length
      (putBit R.errlogStatPin d.errPin (put R.errlogStatMaxsev (d.maxSev - 1) w)))
  else if o = 0x4C then d.err.seq
  else if 0x54 ≤ o ∧ o ≤ 0x70 then
    match d.selEntry with
    | some e => dwordOf (leNat e.r.bytes) ((o - 0x54) / 4)
    | none => 0
  else if o = 0x74 then
    match d.selEntry with
    | some e => putBit R.errlogSelstatFound true (putBit R.errlogSelstatPend e.pend w)
    | none => w
  else w

/-- GPIO.OWN: owner and function of the resource that GPIO.OWN_SEL names (R990). -/
def viewGpio (d : Die) (o : Nat) (w : Word) : Word :=
  if o = 0x5C then
    let n := d.get R.gpioOwnSel
    if n < 16 then put R.gpioOwnOwner (funcOwner (d.pinFunc n)) (put R.gpioOwnFunc (d.pinFunc n) w)
    else if n = 0x10 ∨ n = 0x11 then put R.gpioOwnOwner (d.timerOwner (n - 0x10)) w
    else if n = 0x12 then put R.gpioOwnOwner (if d.own.hoopD then 10 else 0) w
    else w
  else w

/-- The key of the counter that TELEM.CSEL names; pools, vats and ports that do not exist count nothing. -/
def cselKey (d : Die) : Option Nat :=
  let i := d.get R.telemCselInst
  let n := d.get R.telemCselCnt
  match d.get R.telemCselKind with
  | 0 => some (portTel i n)
  | 1 => if i < 32 then some (vatTel i n) else none
  | 2 => if i < 4 then some (hoopTel i n) else none
  | _ => none

/-- The account that TELEM.TSEL names, in fJ. -/
def tselAcct (d : Die) : Nat := d.account (if d.bit R.telemTselMgmt then 256 else d.get R.telemTselTid)

/-- TELEM (R920, R924, R930). -/
def viewTelem (d : Die) (o : Nat) (w : Word) : Word :=
  let cnt := match d.cselKey with
    | some k => d.telemCnt k
    | none => 0
  if o = 0x68 then dwordOf cnt 0
  else if o = 0x6C then dwordOf cnt 1
  else if o = 0x74 then dwordOf (d.tselAcct / 10 ^ 9) 0
  else if o = 0x78 then dwordOf (d.tselAcct / 10 ^ 9) 1
  else if o = 0xA4 then
    let p := d.get R.telemQselPort
    let kib (k : Nat) : Nat := min 0x1FFF (smapGet 0 d.telem.prev k / 1024)
    put R.telemQviewOutprev (kib (8 * p + d.get R.telemQselVc)) (put R.telemQviewIngprev (kib (512 + p)) w)
  else w

/-- HOOP. -/
def viewHoop (d : Die) (o : Nat) (w : Word) : Word :=
  let n := (o - 0x50) / 16
  let t := d.get R.hoopQselTid
  if 0x50 ≤ o ∧ o < 0x90 then
    match o % 16 with
    | 0 => put R.hoopPoolSize (d.poolCells n) w
    | 4 => put R.hoopPoolFree (d.hfree n) (put R.hoopPoolState (d.hstate n) w)
    | 8 => put R.hoopPoolRsv (if n = 2 then d.hoops.linkRsv else if n = 3 then d.hoops.drsv else 0) w
    | _ => w
  else if 0x90 ≤ o ∧ o < 0xA0 then BitVec.ofNat 32 (d.hoopHead ((o - 0x90) / 4))
  else if 0xB4 ≤ o ∧ o < 0xC4 then put R.hoopQuotaLimit (d.hquota ((o - 0xB4) / 4) t) 0
  else if 0xC4 ≤ o ∧ o < 0xD4 then put R.hoopQuseUsed (d.hused ((o - 0xC4) / 4) t) 0
  else w

/-- HARP.WGT: the row that HARP.ROWSEL names (R340). -/
def viewHarp (d : Die) (o : Nat) (w : Word) : Word :=
  if 0x48 ≤ o ∧ o ≤ 0x54 then
    let r := d.harpRow (d.get R.harpRowselNode)
    (List.range 4).foldl (fun w j => put R.harpWgtW (r.w.getD (4 * ((o - 0x48) / 4) + j) 0) w j) 0
  else w

/-- Pages that a slot holds: its image's, or while it is validated those that the header in plan memory says (R729). -/
def slotPages (d : Die) (s : PlanSlot) : Nat :=
  let n := match s.img with
    | some i => i.len
    | none => leNat ((List.range 4).map (fun i => smapGet 0 d.plans.mem (4096 * s.ofs + 8 + i)))
  max 1 ((n + 4095) / 4096)

/-- Does a page of plan memory belong to a slot that is not EMPTY? -/
def planPageUsed (d : Die) (pg : Nat) : Bool :=
  d.plans.slots.any (fun e => e.2.state != 0 && decide (e.2.ofs ≤ pg ∧ pg < e.2.ofs + d.slotPages e.2))

/-- The longest run of free pages of plan memory. -/
def planRun (d : Die) : Nat :=
  ((List.range 2048).foldl (fun (a : Nat × Nat) pg => if d.planPageUsed pg then (a.1, 0) else (max a.1 (a.2 + 1), a.2 + 1)) (0, 0)).1

/-- PLAN: the slot that PLAN.SLOTSEL names, and what the plans of the die hold together. -/
def viewPlan (d : Die) (o : Nat) (w : Word) : Word :=
  let s := d.plan (d.get R.planSlotselSlot)
  let img (f : PlanImg → Nat) : Nat := match s.img with
    | some i => if s.state = 0 then 0 else f i
    | none => 0
  if o = 0x50 then put R.planSviewState s.state (put R.planSviewTid (img (·.tid)) (put R.planSviewDepth (img (·.depth)) w))
  else if o = 0x54 then BitVec.ofNat 32 (img (·.planId))
  else if o = 0x58 then dwordOf (img (·.base)) 0
  else if o = 0x5C then put R.planVBaseHi (img (·.base) / 2 ^ 32) 0
  else if o = 0x60 then put R.planVPeriod (img (·.period)) (put R.planVOfs (if s.state = 0 then 0 else s.ofs) 0)
  else if o = 0x64 then dwordOf (img (fun i => i.hash.toNat)) 0
  else if o = 0x68 then dwordOf (img (fun i => i.hash.toNat)) 1
  else if o = 0x6C then
    put R.planUsed ((List.range 2048).filter d.planPageUsed).length (put R.planRun d.planRun 0)
  else if o = 0x74 then
    let l := (d.plansIn [2, 3]).map (fun p => p.2)
    put R.planPeak (reservedPeak l.length l (d.get R.planPort) (d.bit R.planXdir)) (put R.planLimit (d.positions * 9 / 10) 0)
  else w

/-- RNG: taps of the selected lane and coefficients of the selected row (R591, R605). -/
def viewRng (d : Die) (o : Nat) (w : Word) : Word :=
  if o = 0x44 then
    let t := tapsOf (d.get R.rngPselLane)
    put R.rngPolyTapa t.1 (put R.rngPolyTapb t.2.1 (put R.rngPolyTapc t.2.2 w))
  else if 0x4C ≤ o ∧ o ≤ 0x54 then
    if d.bit R.rngTselTab ∧ 512 ≤ d.get R.rngTselSeg then 0 else Config.coef (d.bit R.rngTselTab) (d.get R.rngTselSeg) ((o - 0x4C) / 4)
  else w

/-- PORT. -/
def viewPort (d : Die) (p o : Nat) (w : Word) : Word :=
  if dropOnly o && !d.isDrop p then 0
  else if 0x50 ≤ o ∧ o ≤ 0x5C then
    let n := (o - 0x50) / 4
    put R.portTxcredEven (d.credit p (2 * n)) (put R.portTxcredOdd (d.credit p (2 * n + 1)) w)
  else if o = 0x90 then
    let out := (List.range 8).foldl (fun m v => max m (d.outDepth (8 * p + v))) 0
    put R.portCcDepthIngress (min 8191 (64 * d.ingressFlits p / 1024)) (put R.portCcDepthOutmax (min 8191 (out / 1024)) w)
  else if o = 0xA8 then
    match d.flow (d.get R.portCcFselFlow p) with
    | .src f =>
      if f.port = p then put R.portCcFviewRate f.rate (putBit R.portCcFviewEchoed f.echoed (putBit R.portCcFviewElig f.elig w)) else w
    | _ => w
  else if o = 0x408 then put R.portLedgerUsed (d.ledUsed p) w
  else if o = 0x40C then put R.portDlvHeldSrc (d.heldSrc p) (put R.portDlvHeldDst (d.heldDst p) w)
  else if o = 0x458 then put R.portDlvDieFlows (d.dlv.flows.filter (fun e => match e.2 with | .free => false | _ => true)).length w
  else if o = 0x45C then put R.portDlvRlogUsed d.dlv.rlog.length w
  else w

/-- Vats in a state. -/
def vatsIn (d : Die) (st : Nat) : Nat := ((List.range 32).filter (fun v => d.get R.vatStatState v == st && (st != 0 || d.bit R.vatStatLvalid v))).length

/-- VAT. Whether a step runs at the moment of the read is a free value when the dispatch queue holds a record; VAT.CUR shows the front record. -/
def viewVat (d : Die) (v o : Nat) (w : Word) : Word :=
  let s := d.vat v
  if o = 0x40 then
    let busy := !s.queue.isEmpty && (d.free 1).getLsbD 0
    putBit R.vatStatBusy busy (put R.vatStatQdepth s.queue.length (put R.vatStatRsteps (s.recipe.filter (fun e => e.2.isSome)).length w))
  else if o = 0x44 ∨ o = 0x48 then
    match s.queue with
    | [] => 0
    | t :: _ =>
      if o = 0x48 then BitVec.ofNat 32 t.chunk
      else put R.vatCurGroup t.group (put R.vatCurTid t.tid (put R.vatCurStep (t.first + t.step) 0))
  else if o = 0xC0 then d.dword (0x1000 * pageIndex .vat 0 + 0xC0)
  else if o = 0xC4 then put R.vatDieServing (d.vatsIn 0) (put R.vatDieSpares (d.vatsIn 1) (put R.vatDieFenced (d.vatsIn 2) 0))
  else if o = 0x100 then
    let poisoned := s.handles.any (fun x => match x.2 with | some e => e.valid && e.poison | none => false)
    putBit R.vatSpStatPoisoned poisoned (put R.vatSpStatWleft (min 0xFFFF ((d.wipeLeft v + 7) / 8)) w)
  else if 0x128 ≤ o ∧ o ≤ 0x134 then
    match d.handleEnt v (d.get R.vatHselIndex v) with
    | some e => dwordOf e.bits ((o - 0x128) / 4)
    | none => 0
  else if 0x200 ≤ o ∧ o < 0x400 then
    match smapGet none s.recipe ((o - 0x200) / 16) with
    | some x => dwordOf x.1 ((o - 0x200) % 16 / 4)
    | none => 0
  else w

/-- The die-wide part of the CAVE pages (offsets 0x080 to 0x09C): pages 1 to 9 read page 0's values. -/
def viewCave (d : Die) (o : Nat) (w : Word) : Word :=
  let t := d.get R.caveTselTid
  if 0x80 ≤ o ∧ o ≤ 0x9C then
    let w := d.dword (0x1000 * pageIndex .cave 0 + o)
    if o = 0x88 then smapGet 0 d.cave.tmap t
    else if o = 0x8C then put R.caveTgenGen (smapGet 1 d.cave.tgen t).toNat 0
    else if o = 0x98 then put R.caveShstatGranted d.shareTotal (put R.caveShstatUnit d.shareUnit 0)
    else if o = 0x9C then
      match d.cave.sweeps with
      | [] => 0
      | s :: _ => putBit R.caveSweepActive true (putBit R.caveSweepMgmt (s == 256) (put R.caveSweepTid (if s = 256 then 0 else s) 0))
    else w
  else w

/-- The LOCK bits of mailbox slots: bit i of the result is slot `first + i`'s (R842). -/
def mboxLocks (d : Die) (first : Nat) : Nat :=
  (List.range 32).foldl (fun n i => if d.slotLock (0x6010000 + 64 * (first + i)) then n + 2 ^ i else n) 0

/-- MBOX.LOCK. -/
def viewMbox (d : Die) (o : Nat) (w : Word) : Word :=
  if o = 0x40 then BitVec.ofNat 32 (d.mboxLocks 0) else if o = 0x44 then BitVec.ofNat 32 (d.mboxLocks 32) else w

/-- DMA.QqCTL.IDLE. -/
def viewDma (d : Die) (o : Nat) (w : Word) : Word :=
  if 0x40 ≤ o ∧ o < 0xC0 ∧ o % 0x20 = 0 then putBit R.dmaQIdle (d.dmaQ ((o - 0x40) / 0x20)).jobs.isEmpty w else w

/-- COLL: the group that COLL.SEL names. -/
def viewColl (d : Die) (k o : Nat) (w : Word) : Word :=
  let g := 256 * k + d.get R.collSelGrp k
  let s := d.group g
  if o = 0x4C then
    match s.ent with
    | none => 0
    | some e =>
      putBit R.collGviewValid true (put R.collGviewHome e.home (putBit R.collGviewLkind e.lkind (put R.collGviewState (d.groupState g)
        (putBit R.collGviewStalled s.stalled (put R.collGviewTid e.tid (put R.collGviewNmem e.nmem 0))))))
  else if o = 0x50 then put R.collQviewSqHead s.sqHead (put R.collQviewSqTail s.sqTail 0)
  else if o = 0x54 then put R.collCviewCqHead s.cqHead (put R.collCviewCqTail s.cqTail (putBit R.collCviewCqWait s.heldRec.isSome 0))
  else if o = 0x58 then
    match s.run with
    | none => 0
    | some r =>
      let nt := match s.ent with
        | some e => if r.alg = 2 then e.nt else if r.alg = 1 then 1 else 0
        | none => 0
      put R.collCurCid r.d.cid (put R.collCurAlg r.alg (put R.collCurNt nt (putBit R.collCurTreeSwitched r.anySwitch
        (putBit R.collCurSlow r.slow (putBit R.collCurTimingExact r.exact 0)))))
  else if o = 0x5C then
    match s.run with
    | none => 0
    | some r => BitVec.ofNat 32 r.next
  else w

/-- RT: the window of this node is kept by Kesil (R336). -/
def viewRt (d : Die) (n o : Nat) (w : Word) : Word :=
  if n ≠ d.selfNode then w
  else if o = 0x40 then
    putBit R.rtNodeReach (d.rtReach n) (putBit R.rtNodeSelf true (put R.rtNodeDies (d.rtDies n) 0))
  else if 0x80 ≤ o ∧ o ≤ 0x9C then
    (List.range 32).foldl (fun w i =>
      let k := (o - 0x80) / 4
      if d.rtEidv n (k / 2) (32 * (k % 2) + i) then w ||| BitVec.ofNat 32 (2 ^ i) else w) 0
  else w

/-- The dword at an offset of a page, as a read shows it, latches apart. -/
def viewDword (d : Die) (t : PageType) (inst o : Nat) : Word :=
  let w := noWo t o (d.dword (0x1000 * pageIndex t inst + o))
  if o < 0x40 then d.viewHdr t inst o w
  else match t with
    | .tick => d.viewTick o w
    | .disc => d.viewDisc o w
    | .casc => if o = 0x44 then put R.cascStatPos d.pos w else w
    | .errlog => d.viewErrlog o w
    | .gpio => d.viewGpio o w
    | .smb => if o = 0x40 then put R.smbTaddr (0x2C + d.get R.chipStrapSmbAddr) w else w
    | .telem => d.viewTelem o w
    | .hoop => d.viewHoop o w
    | .harp => d.viewHarp o w
    | .plan => d.viewPlan o w
    | .rng => d.viewRng o w
    | .port => d.viewPort inst o w
    | .vat => d.viewVat inst o w
    | .cave => d.viewCave o w
    | .host => if o = 0x18C then d.free 32 else w
    | .mbox => d.viewMbox o w
    | .dma => d.viewDma o w
    | .coll => d.viewColl inst o w
    | .rt => d.viewRt inst o w
    | .hdr | .chip | .pwr | .sec | .det | .laneq | .ten => w

end Die
end Sys2Proof.Machine
end

