-- ==== Sys2Proof/Machine/RegRead.lean ====
section
/-!
DEFINITION. Machine/RegRead.lean: a served read of registers: what it returns, the latches of pairs, and what it clears (spec 00, R24; spec 24, R953 to
R955).
-/
namespace Sys2Proof.Machine

/-- Is a dword read through a latch: the high half of a pair marked "64", and what the same read latches beside it (TICK.OVR_WHO, TELEM.EREM)? -/
def latchedDword (t : PageType) (o : Nat) : Bool :=
  (pairsOf t).any (fun p => p + 4 == o) || (t == .tick && o == 0x60) || (t == .telem && o == 0x7C)

/-- The offsets that a read of a dword latches (R955, TICK.OVR_LAST, TELEM.EUJ). -/
def latchedBy (t : PageType) (o : Nat) : List Nat :=
  (if (pairsOf t).contains o then [o + 4] else []) ++ (if t == .tick && o == 0x58 then [0x60] else [])
    ++ (if t == .telem && o == 0x74 then [0x7C] else [])

/-- Does a dword's view rest on a free value or on the moment of the read? -/
def viewOpen (t : PageType) (o : Nat) : Bool := (t == .vat && o == 0x40) || (t == .host && o == 0x18C) || (t == .tick && o == 0x50)

namespace Die

/-- The value that a latched dword shows at the moment of latching. -/
def latchView (d : Die) (t : PageType) (inst o : Nat) : Word :=
  if t == .telem && o == 0x7C then dwordOf (d.tselAcct % 10 ^ 9) 0 else d.viewDword t inst o

/-- What an RC field holds after a read (R24; the extremes start anew from the present value: HOOP.MINFREE, PORT.LEDGER.PEAK, PWR.TJ.MAX, MBOX.LATMAX). -/
def rcRestart (d : Die) (f : Fld) (inst o : Nat) : Nat :=
  if f = R.hoopMinfreeMin then d.hfree ((o - 0xA0) / 4)
  else if f = R.portLedgerPeak then d.ledUsed inst
  else if f = R.pwrTjMax then d.get R.pwrTjCur
  else if f = R.mboxLatmax then d.get R.mboxLat
  else 0

/-- The read side effects of every field of a dword (R24, R953). Registers that act on DROP ports only have none elsewhere. -/
def readEffects (d : Die) (t : PageType) (inst o : Nat) : Die :=
  let a := 0x1000 * pageIndex t inst + o
  let d := if viewOpen t o then d.used else d
  if t == .port && dropOnly o && !d.isDrop inst then d
  else d.forAll ((fieldsAt t o).filter (fun f => f.acc == .rc && f.covers o)) (fun d f =>
    let v := d.rcRestart f inst o
    (List.range f.fn).foldl (fun d j => d.setDword a (fieldSet (d.dword a) (f.lsb + f.fstep * j) f.width v)) d)

/-- A latch of a class written (R955). -/
def setLatch (d : Die) (a : Nat) (c : Cls) (w : Word) : Die := { d with latch := smapSet 0 d.latch (latchKey a c) w }

/-- The dwords at offsets `l` of a page are latched for a class, as they stand (R955, R958). -/
def takeLatches (d : Die) (c : Cls) (t : PageType) (inst : Nat) (l : List Nat) : Die :=
  d.forAll (l.map (fun x : Nat => (x, d.latchView t inst x))) (fun d x => d.setLatch (0x1000 * pageIndex t inst + x.1) c x.2)

/-- A read of one dword: the die after it, and the dword (R24, R953, R955). -/
def readDword (d : Die) (c : Cls) (t : PageType) (inst o : Nat) : Die × Word :=
  let a := 0x1000 * pageIndex t inst + o
  if o = 0x10 then d.errHead (pageIndex t inst)
  else if t = .sec ∧ o = 0x5C then d.nonceRead c
  else if latchedDword t o then (d, smapGet 0 d.latch (latchKey a c))
  else ((d.takeLatches c t inst (latchedBy t o)).readEffects t inst o, d.viewDword t inst o)

/-- A pair access that reads: both halves from one instant, with no latch for the high half (R954). -/
def readPair (d : Die) (c : Cls) (t : PageType) (inst o : Nat) : Die × Word × Word :=
  if t = .sec then
    let k := latchKey (0x1000 * pageIndex .sec 0 + 0x60) c
    let old := smapGet 0 d.latch k
    let (d, lo) := d.nonceRead c
    ({ d with latch := smapSet 0 d.latch k old }, lo, smapGet 0 d.latch k)
  else
    let e := d.takeLatches c t inst ((latchedBy t o).filter (fun x => x != o + 4))
    ((e.readEffects t inst o).readEffects t inst (o + 4), d.viewDword t inst o, d.viewDword t inst (o + 4))

end Die
end Sys2Proof.Machine
end

