-- ==== Sys2Proof/Machine/RegWrite.lean ====
section
/-!
DEFINITION. Machine/RegWrite.lean: a served write of one register dword: access types and locks, the fields that rules discard, and the registers whose
write is a command (spec 00, R18 to R25; spec 24, R945 to R950, R956, R966; the Registers sections of the chapters).
-/
namespace Sys2Proof.Machine

/-- The unit whose controls a page shows (table Page controls). -/
def ctlPageAt (t : PageType) (i : Nat) : Option CtlPage :=
  match t with
  | .chip => some .chip
  | .tick => some .tick
  | .port => some (.port (BitVec.ofNat 6 i))
  | .vat => some (.vat (BitVec.ofNat 5 i))
  | _ => none

/-- Registers marked det whose write is a plain store (R57, R58). -/
def detPlain (t : PageType) (o : Nat) : Bool :=
  (t == .casc && (o == 0x40 || o == 0x48)) || (t == .sec && (o == 0x64 || o == 0x68)) || (t == .port && o == 0x48) || (t == .vat && o == 0xC0)
    || (t == .hoop && o == 0x44)

namespace Die

/-! ### Errors of a write -/

/-- A write, or a field of it, is discarded with an access error of a kind (check 8). -/
def discard (d : Die) (t : PageType) (i : Nat) (c : Cls) (o : Nat) (k : AccKind) : Die := d.accErr t i c true (0x1000 * pageIndex t i + o) k

/-- A write with the errors it causes counted as one in CHIP.ACC_CNT, and whether it caused any (R952). -/
def countOnce (d : Die) (f : Die → Die) : Die × Bool :=
  let was := d.get R.chipAccCntCount
  let e := f (d.set R.chipAccCntCount 0)
  let n := e.get R.chipAccCntCount
  (e.set R.chipAccCntCount (min (was + min n 1) 0xFFFFFFFF), n != 0)

/-! ### The page header (R945 to R950, R966) -/

/-- A field of PAGE_CTL is written: a page without the control takes its fixed value only (R945). -/
def ctlField (d : Die) (t : PageType) (i : Nat) (c : Cls) (has : Bool) (now new fixed : Bool) (act : Die → Die) : Die :=
  if has then (if new = now then d else act d) else if new = fixed then d else d.refuse t i c 0x08

/-- PAGE_CTL is written, field by field (R945). -/
def pageCtlWrite (d : Die) (t : PageType) (i : Nat) (c : Cls) (w : Word) : Die :=
  let pg := (ctlPageAt t i).getD .chip
  let unit := t == .port || t == .vat
  let en := w.getLsbD 0
  let fe := w.getLsbD 2
  let rd := w.getLsbD 3
  let d := d.ctlField t i c unit (d.hget R.hdrCtlEnable t i == 1) en true (fun d => d.enableWrite c pg en)
  let d := d.ctlField t i c (unit || t == .chip) false (w.getLsbD 1) false (fun d => d.resetAsk c pg)
  let d := d.ctlField t i c (unit || t == .chip) (d.hget R.hdrCtlFence t i == 1) fe false
    (fun d => if fe then d.fenceAsk c pg else d.unfenceAsk c pg)
  d.ctlField t i c (unit || t == .tick) (d.hget R.hdrCtlRundown t i == 1) rd false
    (fun d => if rd then d.rundownAsk c (ctlUnit pg) else d.rundownLift c (ctlUnit pg))

/-- The group for which a late enable of COLL COMPLETE raises its vector is open: one of the page's (log entry 3). -/
def lateGroup (d : Die) (t : PageType) (i : Nat) : Nat := if t = .coll then 256 * i + (d.free 8).toNat else 0

/-- PAGE_IRQ_EN is written: an enable that sets over a cause that is set raises the vector (R966). -/
def irqEnWrite (d : Die) (t : PageType) (i : Nat) (w : Word) : Die :=
  let a := hdrAddr t i 0x1C
  let old := (d.dword a).toNat
  let new := w.toNat &&& irqMask t
  let st := (d.dword (hdrAddr t i 0x20)).toNat
  let late := (List.range 32).filter (fun b => new / 2 ^ b % 2 == 1 && old / 2 ^ b % 2 == 0 && st / 2 ^ b % 2 == 1)
  let d := d.setDword a (BitVec.ofNat 32 new)
  if late.isEmpty then d
  else
    let g := d.lateGroup t i
    d.used.forAll late (fun d b => d.raiseVector (vectorOf ⟨t, b⟩ d.pos g))

/-- Bits of a dword cleared by ones written. -/
def clearOnes (d : Die) (a : Nat) (w : Word) : Die := d.setDword a (d.dword a &&& ~~~w)

/-- A write to the header of a page. -/
def hdrWrite (d : Die) (t : PageType) (i : Nat) (c : Cls) (o : Nat) (w : Word) : Die :=
  let a := 0x1000 * pageIndex t i + o
  match o with
  | 0x08 => d.pageCtlWrite t i c w
  | 0x0C => d.clearOnes a (w &&& 0x100#32)
  | 0x14 => d.errPopWrite (pageIndex t i) w
  | 0x1C => d.irqEnWrite t i w
  | 0x20 => d.clearOnes a w
  | 0x24 => d.setDword a (w &&& 0xFF#32)
  | 0x2C => d.lockPage c t i (w.getLsbD 0)
  | _ => d

/-! ### Plain registers -/

/-- The kind of error with which a rule discards a value of a field, if one does (R19 and the rules that the field's register names). -/
def fieldBad (d : Die) (f : Fld) (i v : Nat) : Option AccKind :=
  let code (b : Bool) : Option AccKind := if b then some .code else none
  let ref (b : Bool) : Option AccKind := if b then some .refused else none
  if f = R.cascTopoMode then code (v == 3)
  else if f = R.cascTopoDx ∨ f = R.cascTopoDy ∨ f = R.cascTopoDz then code (decide (8 < v))
  else if f = R.harpCfgWdec ∨ f = R.harpCfgWmin ∨ f = R.harpCfgWinit then code (v == 0)
  else if f = R.portCcRateAi then code (v == 0)
  else if f = R.telemCselKind then code (v == 3)
  else if f = R.tickOutWidth then ref (v == 0)
  else if f = R.portDlvCfg2Gap ∨ f = R.portDlvCfg2EgressMax then ref (decide (v < 256))
  else if f = R.portCcMarkThresh then ref (v == 0 || decide (4096 < v))
  else if f = R.portCcDropThresh then ref (decide (v < 16 ∨ 4096 < v))
  else if f = R.portCcRateRinit then ref (decide (v < d.get R.portCcRminRmin i ∨ 4096 < v))
  else if f = R.portCcRminRmin then ref (v == 0 || decide (d.get R.portCcRateRinit i < v))
  else if f = R.vatBrineCfgStride then ref (v == 0 || decide (1024 < v))
  else if f = R.vatRsv then ref (decide (16 < v) || d.planLoaded)
  else if f = R.rtPathmaskMask then ref (v == 0xFFFF)
  else if f = R.portGrant then
    ref (d.isDrop i || decide (v < 256 ∨ 8192 < v)
      || !d.reserveOk (fun q => if q = i then v else d.get R.portGrant q) (d.get R.harpNallotAllot) (d.get R.hoopSplitC))
  else if f = R.harpNallotAllot then
    ref (decide (v < 130 ∨ 1040 < v) || !d.reserveOk (fun q => d.get R.portGrant q) v (d.get R.hoopSplitC))
  else if f = R.hoopCfgDrsv then ref (decide (512 < v) || (d.own.hoopD && decide (v < 4)))
  else none

/-- One copy of a field at dword `a`, written under its access type (R18, R20, R22, R23, R25, R956). -/
def fieldWrite (d : Die) (t : PageType) (i : Nat) (c : Cls) (o : Nat) (f : Fld) (lsb : Nat) (w : Word) : Die :=
  let a := 0x1000 * pageIndex t i + o
  let v := fieldGet w lsb f.width
  let store (d : Die) : Die := match d.fieldBad f i v with
    | some k => d.discard t i c o k
    | none => d.setDword a (fieldSet (d.dword a) lsb f.width v)
  match f.acc with
  | .ro | .rc | .wo => d
  | .w1c | .rwsW1c => d.setDword a (fieldSet (d.dword a) lsb f.width (fieldGet (d.dword a &&& ~~~w) lsb f.width))
  | .rw | .rws => store d
  | .rwl | .rwsRwl => if d.locked t i then d.discard t i c o .locked else store d

/-- Every field of a dword written under its own type (R956). -/
def fieldsWrite (d : Die) (t : PageType) (i : Nat) (c : Cls) (o : Nat) (w : Word) : Die :=
  d.forAll ((fieldsOf t).filter (fun f => f.covers o)) (fun d f =>
    (List.range f.fn).foldl (fun d j => d.fieldWrite t i c o f (f.lsb + f.fstep * j) w) d)

/-- A plain write; one that changes a register marked det changes the fingerprint at the next edge (R58, R754). -/
def plainWrite (d : Die) (t : PageType) (i : Nat) (c : Cls) (o : Nat) (w : Word) : Die :=
  let a := 0x1000 * pageIndex t i + o
  let e := d.fieldsWrite t i c o w
  if detPlain t o && d.dword a != e.dword a then e.fpDirty else e

/-! ### Registers whose write is a command -/

/-- TICK.CFG is written (R66, R19, R22): the length in force follows at the next edge. -/
def tickLenWrite (d : Die) (c : Cls) (w : Word) : Die :=
  let v := fieldGet w 0 3
  let ph := d.phase
  if d.locked .tick then d.discard .tick 0 c 0x40 .locked
  else if 5 ≤ v then d.discard .tick 0 c 0x40 .code
  else if d.planLoaded || (d.get R.cascTopoMode != 0 && ph != 0 && ph != 8 && ph != 10) then d.refuse .tick 0 c 0x40
  else if v = d.get R.tickCfgLen then d
  else (d.set R.tickCfgLen v).fpDirty

/-- DISC.CTL is written (R275, R283, R300). -/
def discCtlWrite (d : Die) (c : Cls) (w : Word) : Die :=
  let d := if w.getLsbD 0 then d.retryDisc else d
  let d := if w.getLsbD 1 then d.leaveNode else d.set R.discCtlLeave 0
  if w.getLsbD 2 then d.remeasure c else d

/-- The field of a port in CASC.ROLE or CASC.ATTR, written (R19, R109): 3 STACK takes attributes 0 to 3, other roles 0 to 5. -/
def portField (d : Die) (c : Cls) (o : Nat) (f : Fld) (p n j v : Nat) : Die :=
  if v = d.get f 0 n j then d
  else if f = R.cascAttr ∧ (6 ≤ v ∨ (d.get R.cascRole 0 (p / 16) (p % 16) = 3 ∧ 4 ≤ v)) then d.discard .casc 0 c o .code
  else if d.portIdle p && !d.planNames p then (d.set f v 0 n j).fpDirty
  else d.refuse .casc 0 c o

/-- CASC.ROLEn, for `idx` 0 to 3, or CASC.ATTRn, for `idx` 4 to 11, is written (R109). -/
def roleWrite (d : Die) (c : Cls) (idx : Nat) (w : Word) : Die :=
  if idx < 4 then
    let o := 0x4C + 4 * idx
    if d.locked .casc then d.discard .casc 0 c o .locked
    else d.forAll (List.range 16) (fun d j => d.portField c o R.cascRole (16 * idx + j) idx j (fieldGet w (2 * j) 2))
  else
    let n := idx - 4
    let o := 0x5C + 4 * n
    if d.locked .casc then d.discard .casc 0 c o .locked
    else d.forAll (List.range 8) (fun d j => d.portField c o R.cascAttr (8 * n + j) n j (fieldGet w (4 * j) 4))

/-- ERRLOG.CTL is written; whether the slot verifies is an open value here (R902, R906, log entry 3). -/
def errCtlWrite (d : Die) (w : Word) : Die :=
  let d := if w.getLsbD 0 then d.kick else d
  if w.getLsbD 1 then d.used.restartSteward ((d.free 1).getLsbD 0) else d

/-- PWR.MODE is written (R1042 to R1045). -/
def modeWrite (d : Die) (c : Cls) (w : Word) : Die :=
  let d := d.setBit R.pwrModeAuto (w.getLsbD 8)
  if w.getLsbD 0 then d.quietAsk c else d.runAsk c

/-- SEC.DBG is written; whether the token's signature verifies is an open value here (R807, R808, log entry 3). -/
def dbgWrite (d : Die) (w : Word) : Die :=
  let d := if w.getLsbD 0 then d.used.debugUnlock ((d.free 1).getLsbD 0) else d
  if w.getLsbD 1 then d.setDebug 0 else d

/-- SEC.FUSE_CMD is written (R800). -/
def fuseWrite (d : Die) (c : Cls) (w : Word) : Die :=
  let d := if w.getLsbD 0 then d.svnCommit c else d
  if w.getLsbD 1 then d.revoke c (fieldGet w 2 2) else d

/-- HOOP.SPLIT is written (R22, R444, R449): every pool keeps 1 MiB of the 160. -/
def splitWrite (d : Die) (c : Cls) (w : Word) : Die :=
  let a := fieldGet w 0 8
  let b := fieldGet w 8 8
  let cc := fieldGet w 16 8
  if d.locked .hoop then d.discard .hoop 0 c 0x40 .locked
  else if a = 0 ∨ b = 0 ∨ cc = 0 ∨ 160 ≤ a + b + cc ∨ !d.reserveOk (fun p => d.get R.portGrant p) (d.get R.harpNallotAllot) cc then d.refuse .hoop 0 c 0x40
  else if a = d.get R.hoopSplitA ∧ b = d.get R.hoopSplitB ∧ cc = d.get R.hoopSplitC then d
  else (((d.set R.hoopSplitA a).set R.hoopSplitB b).set R.hoopSplitC cc).fpDirty

/-- HOOP.QUOTAn of the tenant that QSEL names is written (R472). -/
def quotaWrite (d : Die) (n : Nat) (w : Word) : Die :=
  let k := 256 * n + d.get R.hoopQselTid
  let v := fieldGet w 0 20
  if smapGet 0xFFFFF d.hoops.quota k = v then d
  else ({ d with hoops := { d.hoops with quota := smapSet 0xFFFFF d.hoops.quota k v } }).fpDirty

/-- HOOP.CMD is written: the steward's owner ID issues the command (HOOP.CMD, R451 to R470). What the pop finds is the header that Kesil wrote. -/
def hoopCmdWrite (d : Die) (c : Cls) (w : Word) : Die :=
  let op := fieldGet w 0 2
  let o := owner 7 (fieldGet w 17 11)
  let arg := d.get R.hoopCmdArgArg
  let d := d.setBit R.hoopCmdResDone false
  if op = 3 then d.discard .hoop 0 c 0xE0 .code
  else
    if op = 0 then
      let r : HoopReq := { size := BitVec.ofNat 32 arg, tid := BitVec.ofNat 8 (fieldGet w 8 8), mgmt := w.getLsbD 16, owners := [o] }
      let (d, st, h) := d.hoopAlloc r none
      (if st = 0 then d.set R.hoopCmdHandleHandle h else d).hoopResult st
    else match d.hoopLetGo (op == 2) (BitVec.ofNat 32 arg) o none false with
      | (d, some st) => d.hoopResult st
      | (d, none) => d

/-- PLAN.CMD is written (R728, R734). -/
def planCmdWrite (d : Die) (c : Cls) (w : Word) : Die :=
  if 2 ≤ fieldGet w 0 2 then d.discard .plan 0 c 0x40 .code
  else if fieldGet w 0 2 = 0 then d.planLoad c w else d.planUnload c w

/-- PORT.DLV_CFG is written, checked as a whole (spec 08, Registers). -/
def dlvCfgWrite (d : Die) (p : Nat) (c : Cls) (w : Word) : Die :=
  let r := fieldGet w 0 8
  let m := fieldGet w 8 12
  if r = 0 ∨ m < r then d.refuse .port p c 0x400 else (d.set R.portDlvCfgRto r p).set R.portDlvCfgRtoMax m p

/-- VAT.INJECT is written (R517). -/
def injectWrite (d : Die) (v : Nat) (c : Cls) (w : Word) : Die :=
  d.injectVat c v (fun x => { x with injRes := x.injRes || w.getLsbD 0, injRcp := x.injRcp || w.getLsbD 1 })

/-- COLL.CMD is written: codes other than STOP, ABORT and RESUME are reserved. -/
def collCmdWrite (d : Die) (k : Nat) (c : Cls) (w : Word) : Die :=
  let op := fieldGet w 8 3
  if op = 0 ∨ 3 < op then d.discard .coll k c 0x40 .code else d.collCommand c (256 * k + fieldGet w 0 8) op

/-- A write to a TEN page: block k of 0x400 bytes serves tenant 4 · page + k (spec 19, Registers). -/
def tenWrite (d : Die) (i : Nat) (c : Cls) (o : Nat) (w : Word) : Die :=
  let t := 4 * i + o / 0x400
  match o % 0x400 with
  | 0x40 => d.tenCtlWrite c t w
  | 0x50 => d.tenPortsWrite c t false w
  | 0x54 => d.tenPortsWrite c t true w
  | 0x58 => d.tenVatWrite c t w
  | _ => d.plainWrite .ten i c o w

/-- A write to the HOOP page. -/
def hoopWrite (d : Die) (c : Cls) (o : Nat) (w : Word) : Die :=
  if o = 0x40 then d.splitWrite c w
  else if 0xB4 ≤ o ∧ o < 0xC4 then d.quotaWrite ((o - 0xB4) / 4) w
  else if o = 0xE0 then d.hoopCmdWrite c w
  else if o = 0xF0 then d.rebuildWrite c w
  else d.plainWrite .hoop 0 c o w

/-- A write to the CAVE page. -/
def caveWriteReg (d : Die) (i : Nat) (c : Cls) (o : Nat) (w : Word) : Die :=
  match o with
  | 0x80 => d.mgmtGibWrite c w
  | 0x88 => d.tmapWrite c w
  | 0x90 => d.caveShareWrite c 0 w
  | 0x94 => d.caveShareWrite c 1 w
  | _ => d.plainWrite .cave i c o w

/-- A write to a DMA queue's block of 0x20 bytes. -/
def dmaWrite (d : Die) (c : Cls) (o : Nat) (w : Word) : Die :=
  let q := (o - 0x40) / 0x20
  let r := (o - 0x40) % 0x20
  if r = 0 then d.dmaEnWrite q (w.getLsbD 0)
  else if r = 4 then d.dmaSqDb q (fieldGet w 0 9)
  else if r = 8 then d.dmaCqDb q (fieldGet w 0 9)
  else d.plainWrite .dma 0 c o w

/-- A write to a COLL page. -/
def collWrite (d : Die) (k : Nat) (c : Cls) (o : Nat) (w : Word) : Die :=
  if o = 0x40 then d.collCmdWrite k c w
  else if 0x800 ≤ o then
    let g := 256 * k + (o - 0x800) / 8
    if o % 8 = 0 then d.sqDbWrite c g (fieldGet w 0 9) else d.cqDbWrite c g (fieldGet w 0 9)
  else d.plainWrite .coll k c o w

/-- A write to the TELEM page. -/
def telemWrite (d : Die) (c : Cls) (o : Nat) (w : Word) : Die :=
  if o = 0x40 then d.telemCtlWrite c w
  else if o = 0x48 ∨ o = 0x4C ∨ o = 0x50 then d.telemRingWrite c o w
  else d.plainWrite .telem 0 c o w

/-- A write to a VAT page; VAT.RSV stands on page 0 only. -/
def vatWrite (d : Die) (v : Nat) (c : Cls) (o : Nat) (w : Word) : Die :=
  if o = 0x50 then d.injectWrite v c w
  else if o = 0x138 then (if w.getLsbD 0 then d.wipeAllWrite c v else d)
  else if o = 0xC0 then (if v = 0 then d.plainWrite .vat 0 c o w else d)
  else d.plainWrite .vat v c o w

/-- A write to a PORT page; registers that act on DROP ports only ignore it elsewhere. -/
def portWrite (d : Die) (p : Nat) (c : Cls) (o : Nat) (w : Word) : Die :=
  if dropOnly o && !d.isDrop p then d
  else if o = 0x44 then d.psctlWrite c p w
  else if o = 0x400 then d.dlvCfgWrite p c w
  else d.plainWrite .port p c o w

/-- A write to the GPIO page. -/
def gpioWrite (d : Die) (c : Cls) (o : Nat) (w : Word) : Die :=
  if o = 0x40 ∨ o = 0x44 then d.gpioFuncWrite c ((o - 0x40) / 4) w
  else swUpdate d (d.plainWrite .gpio 0 c o w)

/-- A write to the ERRLOG page. -/
def errlogWrite (d : Die) (c : Cls) (o : Nat) (w : Word) : Die :=
  if o = 0x44 then d.errCtlWrite w else errPinUpdate d (d.plainWrite .errlog 0 c o w)

/-- A write to the SMB page. -/
def smbWrite (d : Die) (c : Cls) (o : Nat) (w : Word) : Die :=
  if o = 0x80 then (if fieldGet w 0 2 = 0 then d.discard .smb 0 c 0x80 .code else d.flashCmd c (fieldGet w 0 2))
  else d.plainWrite .smb 0 c o w

/-- A write to the SEC page; the token's dwords are WO, and kept. -/
def secWrite (d : Die) (c : Cls) (o : Nat) (w : Word) : Die :=
  if o = 0x58 then d.dbgWrite w
  else if o = 0x6C then d.fuseWrite c w
  else if 0x100 ≤ o then d.setDword (0x1000 * pageIndex .sec 0 + o) w
  else d.plainWrite .sec 0 c o w

/-- A write to the DET page. -/
def detPageWrite (d : Die) (c : Cls) (o : Nat) (w : Word) : Die :=
  if o = 0x70 then d.recCtlWrite c w else if o = 0xC0 then d.rpCtlWrite w else d.plainWrite .det 0 c o w

/-- A write to the PWR page. -/
def pwrWrite (d : Die) (c : Cls) (o : Nat) (w : Word) : Die :=
  if o = 0x40 then d.modeWrite c w else if o = 0x44 then d.thermWrite c w else d.plainWrite .pwr 0 c o w

/-- A write to the CASC page. -/
def cascWrite (d : Die) (c : Cls) (o : Nat) (w : Word) : Die :=
  if 0x4C ≤ o ∧ o < 0x7C then d.roleWrite c ((o - 0x4C) / 4) w else d.plainWrite .casc 0 c o w

/-- A write to a route-table window: that of this node is kept by Kesil but for PATHMASK (R336). -/
def rtWrite (d : Die) (n : Nat) (c : Cls) (o : Nat) (w : Word) : Die :=
  if n = d.selfNode ∧ o ≠ 0x44 then d else d.plainWrite .rt n c o w

/-- A served write of one dword (check 8 and 9). -/
def writeDword (d : Die) (c : Cls) (t : PageType) (i o : Nat) (w : Word) : Die :=
  if o < 0x40 then d.hdrWrite t i c o w
  else match t with
    | .tick => if o = 0x40 then d.tickLenWrite c w else d.plainWrite .tick 0 c o w
    | .disc => if o = 0x44 then d.discCtlWrite c w else d.plainWrite .disc 0 c o w
    | .casc => d.cascWrite c o w
    | .errlog => d.errlogWrite c o w
    | .gpio => d.gpioWrite c o w
    | .smb => d.smbWrite c o w
    | .pwr => d.pwrWrite c o w
    | .sec => d.secWrite c o w
    | .telem => d.telemWrite c o w
    | .det => d.detPageWrite c o w
    | .hoop => d.hoopWrite c o w
    | .plan => if o = 0x40 then d.planCmdWrite c w else d.plainWrite .plan 0 c o w
    | .rng => if o = 0x6C then d.rngCommand (w.getLsbD 0) (w.getLsbD 1) else d.plainWrite .rng 0 c o w
    | .port => d.portWrite i c o w
    | .laneq => if o = 0x44 then (if w.getLsbD 0 then d.rehunt c i else d) else d.plainWrite .laneq i c o w
    | .vat => d.vatWrite i c o w
    | .ten => d.tenWrite i c o w
    | .cave => d.caveWriteReg i c o w
    | .mbox => if 0x80 ≤ o then (if w.getLsbD 0 then d.mboxDoorbell ((o - 0x80) / 4) else d) else d.plainWrite .mbox 0 c o w
    | .dma => d.dmaWrite c o w
    | .coll => d.collWrite i c o w
    | .rt => d.rtWrite i c o w
    | .hdr | .chip | .harp | .host => d.plainWrite t i c o w

end Die

/-- TICK_CFG_LEN_WRITE: TICK.CFG is written (R66). -/
def execTickCfgLenWrite (c : Cls) (w : Word) (s : State) : Host.Outcome State Fault Refusal :=
  act s (fun d => d.onPage c .tick 0 (fun d => d.tickLenWrite c w))

/-- ROLE_ATTR_WRITE: CASC.ROLE0 to ROLE3 (`idx` 0 to 3) or CASC.ATTR0 to ATTR7 (`idx` 4 to 11) is written (R109). -/
def execRoleAttrWrite (c : Cls) (idx : Fin 12) (w : Word) (s : State) : Host.Outcome State Fault Refusal :=
  act s (fun d => d.onPage c .casc 0 (fun d => (d.countOnce (fun d => d.roleWrite c idx.val w)).1))

end Sys2Proof.Machine
end

