-- ==== Sys2Proof/Machine/Access.lean ====
section
/-!
DEFINITION. Machine/Access.lean: accesses to the node space: the checks of register pages, pairs and narrow accesses, the bulk windows, the way to
a sibling die, management packets and the SMBus target (spec 03, R139 to R145; spec 24, R951 to R965, R1055; spec 25, R975).
-/
namespace Sys2Proof.Machine

/-- Bytes that are not enabled at the start of an access. -/
def leadOff : List (Option Byte) → Nat
  | none :: r => leadOff r + 1
  | _ => 0

/-- The bytes of an access from its first enabled one to its last. -/
def trimBytes (bs : List (Option Byte)) : List (Option Byte) :=
  ((((bs.drop (leadOff bs)).reverse).drop (leadOff (bs.drop (leadOff bs)).reverse)).reverse)

/-- Answer bytes back at their places among `n`. -/
def placeBytes (lead n : Nat) (data : List Byte) : List Byte := (List.replicate lead 0 ++ data ++ List.replicate n 0).take n

/-- A dword with the enabled bytes among `bs`, from byte `k` of it on, replaced (R953). -/
def mergeBytes (w : Word) : Nat → List (Option Byte) → Word
  | _, [] => w
  | k, none :: r => mergeBytes w (k + 1) r
  | k, some b :: r => mergeBytes (fieldSet w (8 * k) 8 b.toNat) (k + 1) r

/-- The number that whole bytes spell; `none` when some byte is not enabled. -/
def wholeNat : List (Option Byte) → Option Nat
  | [] => some 0
  | none :: _ => none
  | some b :: r => (wholeNat r).map (fun n => b.toNat + 256 * n)

/-- Registers marked BW (spec 24, Registers): CHIP.SCRATCH. -/
def isBw (t : PageType) (o : Nat) : Bool := t == .chip && decide (0x70 ≤ o ∧ o < 0x80)

/-- Is a dword at an offset of a page an unimplemented one (R1056, and the chapters' own lists)? -/
def unimplOffset (t : PageType) (i o : Nat) (write : Bool) : Bool :=
  if o < 0x40 then false
  else if t = .ten ∧ 0x400 ≤ o ∧ o % 0x400 < 0x40 then true
  else if (t = .ten ∧ 0x64 ≤ o % 0x400 ∧ o % 0x400 < 0x70) ∨ (t = .smb ∧ o = 0x58) then false
  else if t = .cave ∧ i ≠ 0 ∧ write ∧ 0x80 ≤ o ∧ o ≤ 0x9C then true
  else !(fieldsOf t).any (fun f => f.covers o)

/-- Does an access of `n` bytes lie in the reserved offsets 0x030 to 0x03C, which read 0 and ignore writes without an error (spec 24, Registers; log
entry 144)? -/
def reservedOfs (o n : Nat) : Bool := decide (0x30 ≤ o ∧ o + n ≤ 0x40)

/-- The value that a read of a page under reset returns (R908). -/
def resetWord (pg : Nat) : Nat := 0xDEAD0000 + pg

/-- What an access comes to: the die after it, how it completes, and the bytes a read returns. -/
structure Served where
  d : Die
  r : Resp
  data : List Byte
  deriving DecidableEq, Repr

namespace Die

/-! ### Register pages (R951 to R956) -/

/-- An access that ends in Unsupported Request at this die (checks 1 to 3). -/
def accUr (d : Die) (c : Cls) (write : Bool) (a : Nat) (k : AccKind) : Served := ⟨d.accErr .chip 0 c write a k, .ur, []⟩

/-- An access that a page turns away (checks 5 to 7): reads return zeros. -/
def accZero (d : Die) (t : PageType) (i : Nat) (c : Cls) (write : Bool) (a n : Nat) (k : AccKind) : Served :=
  ⟨d.accErr t i c write a k, .access, if write then [] else List.replicate n 0⟩

/-- An access to a page under reset (R908); for a forwarded one the acting master logs BUSY_RESET. -/
def accReset (d : Die) (c : Cls) (fwd write : Bool) (t : PageType) (i a n : Nat) : Served :=
  let d := if fwd then d else d.busyReset c t i
  let w := leBytes 4 (resetWord (pageIndex t i))
  ⟨d, .reset, if write then [] else (List.range n).map (fun k => w.getD ((a + k) % 4) 0)⟩

/-- A served read of a dword, of part of one, or of a pair (R953 to R955). -/
def serveRead (d : Die) (c : Cls) (t : PageType) (i o n : Nat) : Served :=
  if n ≤ 4 then
    let (d, w) := d.readDword c t i (o / 4 * 4)
    ⟨d, .ok, ((leBytes 4 w.toNat).drop (o % 4)).take n⟩
  else
    let (d, lo, hi) := d.readPair c t i o
    ⟨d, .ok, leBytes 4 lo.toNat ++ leBytes 4 hi.toNat⟩

/-- A write of whole dwords, or of bytes of a BW register (checks 7 to 9). -/
def serveWrite (d : Die) (c : Cls) (t : PageType) (i o a : Nat) (bs : List (Option Byte)) : Served :=
  let n := bs.length
  let done (x : Die × Bool) : Served := ⟨x.1, if x.2 then .access else .ok, []⟩
  match n, wholeNat bs with
  | 8, some v =>
    done (d.countOnce (fun d => (d.writeDword c t i o (BitVec.ofNat 32 v)).writeDword c t i (o + 4) (BitVec.ofNat 32 (v / 2 ^ 32))))
  | 4, some v => done (d.countOnce (fun d => d.writeDword c t i o (BitVec.ofNat 32 v)))
  | _, _ =>
    if isBw t o ∧ n ≤ 4 then
      let o4 := o / 4 * 4
      done (d.countOnce (fun d => d.writeDword c t i o4 (mergeBytes (d.dword (0x1000 * pageIndex t i + o4)) (o % 4) bs)))
    else d.accZero t i c true a n .narrow

/-- An access to a register page of this die, in the order of the table Access checks (R951). `bs` begins and ends with an enabled byte. -/
def regAccess (d : Die) (c : Cls) (fwd write : Bool) (a : Nat) (bs : List (Option Byte)) : Served :=
  let n := bs.length
  let o := a % 0x1000
  match pageAt (a / 0x1000) with
  | none => d.accUr c write a .unimplPage
  | some (t, i) =>
    let pair := n == 8 && (pairsOf t).contains o
    if 8 < n then d.accUr c write a .tooLong
    else if !(decide (o % 4 + n ≤ 4) || (n == 8 && o % 8 == 0) || pair) then d.accUr c write a .cross
    else if d.underReset t i then d.accReset c fwd write t i a n
    else if reservedOfs o n then ⟨d, .ok, if write then [] else List.replicate n 0⟩
    else if unimplOffset t i (o / 4 * 4) write || (n == 8 && unimplOffset t i (o + 4) write) then d.accZero t i c write a n .unimplOfs
    else if n = 8 ∧ !pair then d.accZero t i c write a n .wide
    else if write then d.serveWrite c t i o a bs
    else d.serveRead c t i o n

/-! ### Bulk windows (R961 to R965) -/

/-- The page that serves a window: the group table its COLL page, plan memory PLAN, the scratchpads the VAT page selected. -/
def windowPage (d : Die) (a : Nat) : Option (PageType × Nat) :=
  if 0x400000 ≤ a ∧ a < 0x420000 then some (.coll, (a - 0x400000) / 32 / 256)
  else if 0x800000 ≤ a ∧ a < 0x1000000 then some (.plan, 0)
  else if 0x1000000 ≤ a ∧ a < 0x1200000 then some (.vat, d.get R.chipSpdSelVat)
  else none

/-- A byte of the group table window (R962). -/
def groupByte (d : Die) (a : Nat) : Byte :=
  let x := a - 0x400000
  match (d.group (x / 32)).ent with
  | some e => BitVec.ofNat 8 (e.bits / 2 ^ (8 * (x % 32)))
  | none => 0

/-- A byte of the scratchpad window and whether it is refused (R590); a byte of a word with bit errors is a free value. -/
def spadByte (d : Die) (v : Nat) (bad : List Nat) (x : Nat) : Byte × Bool :=
  let w := x / 8
  if !d.debugOpen then (0, true)
  else if d.underWipe v w then (0, false)
  else match d.coverOf v w with
    | none => (0, false)
    | some (_, e) =>
      if !e.mgmt && !d.bit R.tenCtlDebugAllow (e.tid / 4) (e.tid % 4) then (0, true)
      else if bad.contains w then ((Config.freeBits 8 (d.fresh + x % 64)), false)
      else (smapGet 0 (d.vat v).mem x, false)

/-- A refused window access (R961 to R964). -/
def windowErr (d : Die) (c : Cls) (write : Bool) (a : Nat) : Die := d.accErr .chip 0 c write a .window

/-- A write through a window: only free pages of plan memory take it (R590, R612, R729). -/
def windowWrite (d : Die) (c : Cls) (a : Nat) (bs : List (Option Byte)) : Served :=
  if a < 0x800000 ∨ 0x1000000 ≤ a ∨ d.planPageUsed ((a - 0x800000) / 4096) then ⟨d.windowErr c true a, .access, []⟩
  else
    let mem := (enRuns (a - 0x800000) bs).foldl (fun (m : SMap Byte) (r : Nat × List Byte) => bytesPut m r.1 r.2) d.plans.mem
    ⟨{ d with plans := { d.plans with mem := mem } }, .ok, []⟩

/-- A read through a window (R590, R962, R963). -/
def windowRead (d : Die) (c : Cls) (a n : Nat) (bad : List Nat) : Served :=
  let at_ (f : Nat → Byte) : List Byte := (List.range n).map (fun k => f (a + k))
  if a < 0x800000 then ⟨d, .ok, at_ d.groupByte⟩
  else if a < 0x1000000 then ⟨d, .ok, at_ (fun x => smapGet 0 d.plans.mem (x - 0x800000))⟩
  else
    let v := d.get R.chipSpdSelVat
    let l := (List.range n).map (fun k => d.spadByte v bad (a + k - 0x1000000))
    let e := d.used 64
    if l.any (fun x => x.2) then ⟨e.windowErr c false a, .access, l.map (fun x => x.1)⟩ else ⟨e, .ok, l.map (fun x => x.1)⟩

/-- An access to a bulk window of this die. `bad` are scratchpad words in which a read meets bit errors. -/
def winAccess (d : Die) (c : Cls) (fwd write : Bool) (a : Nat) (bs : List (Option Byte)) (bad : List Nat) : Served :=
  let n := bs.length
  match d.windowPage a with
  | none => d.accUr c write a .unimplPage
  | some (t, i) =>
    if 64 < a % 64 + n then d.accUr c write a .cross
    else if d.underReset t i then d.accReset c fwd write t i a n
    else if write then d.windowWrite c a bs
    else d.windowRead c a n bad

/-! ### Accesses of a die -/

/-- Checks 1 and 4 alone, for an access that enables no byte (R1055). -/
def emptyAccess (d : Die) (c : Cls) (fwd write : Bool) (a n : Nat) : Served :=
  match (if a < 0x400000 then pageAt (a / 0x1000) else d.windowPage a) with
  | none => d.accUr c write a .unimplPage
  | some (t, i) =>
    if d.underReset t i then d.accReset c fwd write t i a n else ⟨d, .ok, if write then [] else List.replicate n 0⟩

/-- An access at a byte address of this die's space. -/
def localAccess (d : Die) (c : Cls) (fwd write : Bool) (a : Nat) (bs : List (Option Byte)) (bad : List Nat := []) : Served :=
  let l := leadOff bs
  let core := trimBytes bs
  if core.isEmpty then d.emptyAccess c fwd write a bs.length
  else
    let s := if a + l < 0x400000 then d.regAccess c fwd write (a + l) core else d.winAccess c fwd write (a + l) core bad
    if write ∨ s.r = .ur then s else { s with data := placeBytes l bs.length s.data }

/-! ### The node (R139 to R145) -/

/-- PAGE_CTL.fence of a sibling is written through the acting master: 1 fences the die here; 0 is honoured once a complete hello of the die is held
(R914, R916, R947). -/
def siblingFence (d : Die) (x : Nat) (on : Bool) : Die :=
  if on then (if d.diePresent x then d.fenceDie x else d)
  else if d.dieFenced x && d.heard.any (fun h => h.1 == x) then
    let d := d.set R.chipFenceDies (d.get R.chipFenceDies &&& (15 - 2 ^ x))
    ((d.set R.cascStatPresent (d.get R.cascStatPresent ||| 2 ^ x)).rerank).fenceChanged
  else d

/-- Does an access write PAGE_CTL of a CHIP page: with which value of fence? -/
def fenceWritten (write : Bool) (a : Nat) (bs : List (Option Byte)) : Option Bool :=
  if write ∧ a % 0x4000000 = 8 ∧ bs.length = 4 then (wholeNat bs).map (fun v => v / 4 % 2 == 1) else none

/-- An access to a sibling: forwarded when the node is formed and the die present; else Unsupported Request at the acting master (R140, R144). A write
of 0 to a fenced die's PAGE_CTL.fence comes here too (R916). -/
def farAccess (d : Die) (c : Cls) (write : Bool) (addr : Nat) (bs : List (Option Byte)) : Die :=
  let x := addr / 0x4000000
  let f := fenceWritten write addr bs
  if d.get R.cascStatState = 1 ∧ d.diePresent x then
    let d := d.forward c addr write bs bs.length
    if f = some true then d.siblingFence x true else d
  else if d.get R.cascStatState = 1 ∧ d.dieFenced x ∧ f = some false ∧ d.heard.any (fun h => h.1 == x) then d.siblingFence x false
  else ((d.accErr .chip 0 c write (addr % 0x4000000) .unimplPage).emit (.answer c addr .ur []))

/-- The answer to an access: reads are answered, and what completes as Unsupported Request. -/
def answered (s : Served) (c : Cls) (addr : Nat) (write : Bool) : Die :=
  if write ∧ s.r ≠ .ur then s.d else s.d.emit (.answer c addr s.r s.data)

/-- A host access through BAR0 (R140, R145, R814, R831, R857). -/
def hostAccess (d : Die) (x : Access) (write : Bool) (bad : List Nat) : Die :=
  let addr := x.addr.toNat
  let ur (d : Die) : Die := d.emit (.answer .host addr .ur [])
  let mine := addr / 0x4000000 = d.pos
  if !d.inD0 then ur d
  else if !d.ridAllowed x.rid.toNat then ur d.peerUr
  else if !d.isMaster then
    if mine ∧ !write ∧ addr % 0x4000000 < 0x1000 then answered (d.localAccess .host false false (addr % 0x4000000) x.bytes) .host addr false
    else ur d
  else if mine then answered (d.localAccess .host false write (addr % 0x4000000) x.bytes bad) .host addr write
  else d.farAccess .host write addr x.bytes

/-- An access to the node space. A forwarded one is served here (R140); management packets name their die by DEID (R959); the steward of the acting
master reaches the whole node, any other its own die. -/
def nodeAccess (d : Die) (x : Access) (write : Bool) (bad : List Nat := []) : Die :=
  let addr := x.addr.toNat
  if x.fwd then answered (d.localAccess x.cls true write (addr % 0x4000000) x.bytes bad) x.cls addr write
  else match x.cls with
    | .host => d.hostAccess x write bad
    | .mgmt => answered (d.localAccess .mgmt false write (addr % 0x4000000) x.bytes bad) .mgmt addr write
    | .steward | .mbox =>
      if addr / 0x4000000 = d.pos then answered (d.localAccess x.cls false write (addr % 0x4000000) x.bytes bad) x.cls addr write
      else if d.isMaster then d.farAccess x.cls write addr x.bytes
      else (d.accErr .chip 0 x.cls write (addr % 0x4000000) .unimplPage).emit (.answer x.cls addr .ur [])

/-! ### Management packets (R959, R960) -/

/-- The MRSP that answers an MRD. -/
def mgmtReply (d : Die) (pk : Packet) (s : Resp) (data : List Byte) : Die :=
  let code : Nat := match s with
    | .ok => 0
    | .ur => 1
    | .access => 2
    | .reset => 3
  d.originate ({ Packet.blank with
    op := 0x32, cls := 0, mgmt := true, seid := BitVec.ofNat 17 (dieEid d.selfNode d.pos), deid := pk.seid, addr := pk.addr
    arg := BitVec.ofNat 64 (code + 2 ^ 8 * (pk.arg.toNat / 2 ^ 8 % 256)), payload := data }).finish

/-- An MRD is served as an access of class MGMT and answered (R960); what an MRSP of an Unsupported Request carries is open. -/
def mgmtRead (d : Die) (pk : Packet) : Die :=
  let n := pk.arg.toNat % 16
  let a := pk.addr.toNat % 0x4000000
  let s := if n = 0 ∨ 8 < n then d.accUr .mgmt false a .tooLong else d.localAccess .mgmt false false a (List.replicate n (some 0))
  if s.r = .ur then (s.d.freeBytes n).1.mgmtReply pk .ur (s.d.freeBytes n).2 else s.d.mgmtReply pk s.r s.data

/-- An MWR is served as an access of class MGMT and not answered (R960). -/
def mgmtWrite (d : Die) (pk : Packet) : Die :=
  let n := pk.arg.toNat % 16
  let a := pk.addr.toNat % 0x4000000
  if n = 0 ∨ 8 < n then d.accErr .chip 0 .mgmt true a .tooLong
  else (d.localAccess .mgmt false true a ((pk.payload.take n).map some)).d

end Die

/-- REGISTER_WRITE (R951). -/
def execRegisterWrite (a : Access) (s : State) : Host.Outcome State Fault Refusal := act s (fun d => d.nodeAccess a true)

/-- RC_READ: a read of a register with RC fields, as of any other (R24, R953). -/
def execRcRead (a : Access) (s : State) : Host.Outcome State Fault Refusal := act s (fun d => d.nodeAccess a false)

/-- PAIR_LOW_READ: a read that touches the low dword of a pair, as any other read (R955). -/
def execPairLowRead (a : Access) (s : State) : Host.Outcome State Fault Refusal := act s (fun d => d.nodeAccess a false)

/-- BULK_WINDOW_ACCESS: `ce` and `ue` are scratchpad words in which a read finds bit errors (R961 to R965). -/
def execBulkWindowAccess (a : Access) (write : Bool) (ce ue : List (BitVec 18)) (s : State) : Host.Outcome State Fault Refusal :=
  act s (fun d => d.nodeAccess a write ((ce ++ ue).map BitVec.toNat))

/-- MRD (R959, R960). -/
def execMrd (pk : Packet) (s : State) : Host.Outcome State Fault Refusal := act s (fun d => d.mgmtRead pk)

/-- MWR (R959, R960). -/
def execMwr (pk : Packet) (s : State) : Host.Outcome State Fault Refusal := act s (fun d => d.mgmtWrite pk)

/-- SMB_RREAD: a 4-byte register read at RADDR through the target port (R975). -/
def execSmbRread (s : State) : Host.Outcome State Fault Refusal :=
  act s (fun d =>
    let d := d.bump R.smbTgtXfer
    let x := d.localAccess .mgmt false false d.smb.raddr.toNat (List.replicate 4 (some 0))
    match x.r with
    | .ok => x.d.emit (.smbReply (x.data ++ [0]))
    | .ur => (x.d.freeBytes 4).1.emit (.smbReply ((x.d.freeBytes 4).2 ++ [1]))
    | .access => x.d.emit (.smbReply (x.data ++ [2]))
    | .reset => x.d.emit (.smbReply (x.data ++ [3])))

/-- SMB_RWRITE: a 4-byte register write at RADDR through the target port (R975). -/
def execSmbRwrite (w : Word) (s : State) : Host.Outcome State Fault Refusal :=
  act s (fun d =>
    let d := d.bump R.smbTgtXfer
    (d.localAccess .mgmt false true d.smb.raddr.toNat ((leBytes 4 w.toNat).map some)).d)

end Sys2Proof.Machine
end

