-- ==== Sys2Proof/Machine/Mailbox.lean ====
section
/-!
DEFINITION. Machine/Mailbox.lean: the commands of the mailbox (spec 20, R841 to R852).
-/
namespace Sys2Proof.Machine

/-- A field of the 64 bytes of a mailbox slot, by bit (table Mailbox slot). -/
def slotField (bs : List Byte) (lsb w : Nat) : Nat := leNat bs / 2 ^ lsb % 2 ^ w

namespace Die

/-! ### Slots (R841 to R845, R851) -/

/-- Is a rung slot readable: its line is good and shows the expected PHASE (R842, R890)? -/
def mboxShown (d : Die) (i : Nat) : Bool :=
  !d.caveBad (mboxAddr i) && d.slotPhase (mboxAddr i) == !(d.mboxSlot i).toggled

/-- Does a FENCE whose doorbell came earlier hold the slot back (R851)? -/
def mboxHeld (d : Die) (i : Nat) : Bool :=
  (d.host.order.takeWhile (fun j => j != i)).any (fun j => d.mboxShown j && d.caveByte (mboxAddr j + 1) == 5#8)

/-- May Kesil serve the slot: rung, not held back, and readable? -/
def mboxReady (d : Die) (i : Nat) : Bool :=
  d.isMaster && d.host.order.contains i && d.slotLock (mboxAddr i) && !d.mboxHeld i && d.mboxShown i

/-- Completion of a slot in one line update: STATUS, DATA, DONE, LOCK and the toggled PHASE; IRQ and the latency (R845, MBOX.DONE, MBOX.LAT). -/
def mboxComplete (d : Die) (i st : Nat) (data : List Byte) : Die :=
  let a := mboxAddr i
  let bs := d.caveRead a 64
  let irq := slotField bs 24 1 == 1
  let b0 := bs.getD 0 0 &&& 0xFD#8 ||| 4#8
  let b2 := bs.getD 2 0 &&& 0xF0#8 ||| BitVec.ofNat 8 st
  let line := [b0, bs.getD 1 0, b2, bs.getD 3 0] ++ (bs.drop 4).take 12 ++ data ++ bs.drop (16 + data.length)
  let lat := min 0xFFFF (d.nowCycles - (d.mboxSlot i).rung)
  let d := (d.used).caveWrite a line
  let d := ((d.set R.mboxLat lat).raiseTo R.mboxLatmax lat).set (if i < 32 then R.mboxStallLo else R.mboxStallHi)
    (d.get (if i < 32 then R.mboxStallLo else R.mboxStallHi) &&& (2 ^ 32 - 1 - 2 ^ (i % 32)))
  let d := d.modMbox i (fun s => { s with toggled := !s.toggled, wait := 0 })
  let d : Die := { d with host := { d.host with order := d.host.order.filter (fun j => j != i) } }
  if irq then
    let f := if i < 32 then R.mboxDoneLo else R.mboxDoneHi
    (d.set f (d.get f ||| 2 ^ (i % 32))).raiseVector (32 + i)
  else d

/-- The mailbox at an edge: a rung slot without its PHASE is read again, and waits (R842). -/
def edgeMbox (d : Die) : Die :=
  d.forAll d.host.order (fun d i =>
    if d.isMaster && !d.mboxHeld i && !d.mboxShown i then d.modMbox i (fun s => { s with wait := s.wait + 1 }) else d)

/-- QUEUE_UNDERFILL of a slot (R842). -/
def mboxUnderfill (d : Die) (i : Nat) : Die :=
  let f := if i < 32 then R.mboxStallLo else R.mboxStallHi
  if d.isMaster && d.host.order.contains i && !d.mboxShown i && decide (16 ≤ (d.mboxSlot i).wait) && d.get f / 2 ^ (i % 32) % 2 == 0 then
    ((d.set f (d.get f ||| 2 ^ (i % 32))).logErr .mbox 0 0x0A00 1 (leBytes 1 i)).raise I.mboxUnderfill
  else d

/-! ### Commands (table Mailbox commands) -/

/-- Are reserved bits of a slot set: of bytes 0, 2 and 3, or of ARG outside `argMask` (BAD_OP)? -/
def mboxBad (bs : List Byte) (argMask : Nat) : Bool :=
  slotField bs 3 5 != 0 || slotField bs 20 4 != 0 || slotField bs 26 6 != 0 || slotField bs 32 32 &&& (2 ^ 32 - 1 - argMask) != 0

/-- A command of a slot: `f` gives the die after it, its status and its output. It runs when the slot is ready and holds its OP (R846). -/
def mboxRun (d : Die) (i op argMask : Nat) (f : Die → List Byte → Die × Nat × List Byte) : Die :=
  let bs := d.caveRead (mboxAddr i) 64
  if !d.mboxReady i || slotField bs 8 8 != op then d
  else if mboxBad bs argMask then d.mboxComplete i 1 []
  else
    let r := f d bs
    r.1.mboxComplete i r.2.1 r.2.2

/-- NOP, and every reserved OP. -/
def mboxNop (d : Die) (i : Nat) : Die :=
  let bs := d.caveRead (mboxAddr i) 64
  let op := slotField bs 8 8
  if !d.mboxReady i || (op != 0 && decide (op < 8)) then d
  else d.mboxComplete i (if op = 0 ∧ !mboxBad bs (2 ^ 32 - 1) then 0 else 1) []

/-- The status of an access (table Mailbox status): a write to a page under reset is discarded and is no RESET. -/
def mboxStatus (write : Bool) : Resp → Nat
  | .ok => 0
  | .ur => 2
  | .access => 3
  | .reset => if write then 0 else 4

/-- One access of a command on this die; what a read in Unsupported Request leaves in DATA is open. -/
def mboxAccess (d : Die) (write : Bool) (a : Nat) (bs : List (Option Byte)) : Die × Nat × List Byte :=
  let s := d.localAccess .mbox false write a bs
  if !write ∧ s.r = .ur then
    let x := s.d.freeBytes bs.length
    (x.1, 2, x.2)
  else (s.d, mboxStatus write s.r, s.data)

/-- A command's accesses on this die: one for each dword of a register page, one for all in a bulk window. The first status that is not OK stands. -/
def mboxLocal (d : Die) (write : Bool) (a : Nat) (bs : List (Option Byte)) : Die × Nat × List Byte :=
  if 0x400000 ≤ a then d.mboxAccess write a bs
  else (List.range (bs.length / 4)).foldl (fun (r : Die × Nat × List Byte) k =>
    let x := r.1.mboxAccess write (a + 4 * k) ((bs.drop (4 * k)).take 4)
    (x.1, if r.2.1 = 0 then x.2.1 else r.2.1, r.2.2 ++ x.2.2)) (d, 0, [])

/-- An access of a command that no answer came to within 16 ticks (R143). -/
def mboxLost (d : Die) (x addr n : Nat) : Die × Nat × List Byte :=
  let d := ((d.setBit R.cascErrFwdTimeout true).logErr .casc 0 0x0202 1 (leBytes 1 x ++ leBytes 4 addr)).raise I.cascFwdLost
  let y := d.freeBytes n
  (y.1, 2, y.2)

/-- The dwords of a command go to a follower (R140, log entry 60). -/
def mboxForward (d : Die) (write : Bool) (addr : Nat) (bs : List (Option Byte)) : Die :=
  match d.stackPorts (addr / 0x4000000) with
  | [] => d
  | p :: _ => d.forAll (List.range (bs.length / 4)) (fun d k =>
      (d.bump R.cascFwdCntCount).emit (.forward p .mbox (addr + 4 * k) write (if write then (bs.drop (4 * k)).take 4 else []) 4))

/-- RREAD and RWRITE (table Mailbox commands, R140, R144). -/
def mboxReg (d : Die) (write : Bool) (bs : List Byte) (far : Option (Nat × List Byte)) : Die × Nat × List Byte :=
  let n := 4 * (slotField bs 32 4 + 1)
  let addr := slotField bs 64 64
  let x := addr / 0x4000000
  let a := addr % 0x4000000
  let data : List (Option Byte) := ((bs.drop 16).take n).map some
  if 48 < n then (d, 1, [])
  else if x = d.pos then d.mboxLocal write a data
  else if 4 ≤ x ∨ d.get R.cascStatState ≠ 1 ∨ !d.diePresent x ∨ (d.stackPorts x).isEmpty then
    let f := if 4 ≤ x ∨ d.get R.cascStatState ≠ 1 ∨ n ≠ 4 then none else fenceWritten write addr data
    if f = some false ∧ d.dieFenced x ∧ d.heard.any (fun h => h.1 == x) then (d.siblingFence x false, 0, [])
    else
      let y := (d.accErr .chip 0 .mbox write a .unimplPage).freeBytes (if write then 0 else n)
      (y.1, 2, y.2)
  else
    let d := d.mboxForward write addr data
    match write, far with
    | true, r =>
      let d := if fenceWritten true addr (data.take 4) = some true then d.siblingFence x true else d
      (d, (r.map (fun y : Nat × List Byte => y.1)).getD 0, [])
    | false, some r => (d, r.1, r.2.take n)
    | false, none => d.mboxLost x addr n

/-- A cave command's write on this die, as the host's through BAR4 (R846, R889). -/
def mboxCavePut (d : Die) (a : Nat) (bs : List Byte) : Die × Nat :=
  (lineCuts (bs.length / 64 + 2) a bs).foldl (fun (r : Die × Nat) p =>
    match r.1.caveWriteLine p.1 p.2 with
    | (d, true) => (d, r.2)
    | (d, false) => (d.accErr .chip 0 .mbox true (a % 0x4000000) .refused, 3)) (d, 0)

/-- CREAD and CWRITE (table Mailbox commands, R796, R837, R890). -/
def mboxCave (d : Die) (write : Bool) (bs : List Byte) (ce ue : List Nat) (far : Option (Nat × List Byte)) : Die × Nat × List Byte :=
  let x := slotField bs 32 2
  let t := slotField bs 40 8
  let n := slotField bs 48 6
  let o := slotField bs 64 64
  let mg := slotField bs 25 1 == 1
  let data := (bs.drop 16).take n
  let ur (d : Die) : Die × Nat × List Byte :=
    let y := d.freeBytes (if write then 0 else n)
    (y.1, 2, y.2)
  if n = 0 ∨ 48 < n then (d, 1, [])
  else if x ≠ d.pos then
    if d.get R.cascStatState ≠ 1 ∨ !d.diePresent x then ur d
    else
      let d := d.emit (.toDie x (if write then "CWRITE" else "CREAD") ([mg.toNat, t, o, n] ++ (if write then data.map BitVec.toNat else [])))
      match write, far with
      | true, r => (d, (r.map (fun y : Nat × List Byte => y.1)).getD 0, [])
      | false, some r => (d, r.1, r.2.take n)
      | false, none => d.mboxLost x (o % 2 ^ 32) n
  else if d.underReset .cave 0 then ur d
  else match d.caveAddr (if mg then .mgmt else .tenant t) o n with
    | none => ur d
    | some a =>
      if !mg && !d.bit R.tenCtlHostCave (t / 4) (t % 4) then
        (d.accErr .chip 0 .mbox write (o % 0x4000000) .window, 5, if write then [] else List.replicate n 0)
      else if !mg && d.get R.tenStatState (t / 4) (t % 4) != 1 then (d, 5, if write then [] else List.replicate n 0)
      else if write then
        let hit (l : Nat) : Bool := decide (a / 64 ≤ l ∧ 64 * l < a + n) && !coversLine a n l && d.caveClean (64 * l) && !d.cave.bad.contains l
        let r := (d.forAll (ue.filter hit) caveUe).mboxCavePut a data
        (r.1, r.2, [])
      else match d.caveFetch a n ce ue with
        | (d, none) => (d, 0, d.caveRead a n)
        | (d, some _) => ur d

/-- SQDB and CQDB: the doorbell rings on the group's HOME die (R618, R623). -/
def mboxDb (d : Die) (sq : Bool) (bs : List Byte) (far : Option Nat) : Die × Nat × List Byte :=
  let g := slotField bs 32 12
  let v := slotField bs 48 9
  match (d.group g).ent with
  | some e =>
    if e.home ≠ d.pos then (d.emit (.toDie e.home (if sq then "SQDB" else "CQDB") [g, v]), far.getD 0, [])
    else if d.underReset .coll (g / 256) then (d.busyReset .mbox .coll (g / 256), 0, [])
    else
      let ok := if sq then (d.sqDb g v).2 else (d.cqDb g v).2
      let st := if d.replayGroup g then 3 else if ok then 0 else 6
      (if sq then d.sqDbWrite .mbox g v else d.cqDbWrite .mbox g v, st, [])
  | none =>
    if d.underReset .coll (g / 256) then (d.busyReset .mbox .coll (g / 256), 0, [])
    else (d.refuse .coll (g / 256) .mbox ((if sq then 0x800 else 0x804) + 8 * (g % 256)), 3, [])

/-- FENCE: it completes when every slot rung before it has (R850, R851). -/
def mboxFence (d : Die) (i : Nat) : Die :=
  if d.host.order.head? = some i then d.mboxRun i 5 (2 ^ 32 - 1) (fun d _ => (d, 0, [])) else d

end Die

/-- What a follower answered: a status and data. -/
def farOf (far : Option (BitVec 4 × List Byte)) : Option (Nat × List Byte) := far.map (fun x : BitVec 4 × List Byte => (x.1.toNat, x.2))

/-- A status alone. -/
def farSt (far : Option (BitVec 4)) : Option (Nat × List Byte) := far.map (fun x => (x.toNat, []))

/-- MBOX_UNDERFILL (R842). -/
def execMboxUnderfill (i : BitVec 6) (s : State) : Host.Outcome State Fault Refusal := act s (fun d => d.mboxUnderfill i.toNat)

/-- MBOX_NOP: NOP, or a slot with a reserved OP (R845, table Mailbox commands). -/
def execMboxNop (i : BitVec 6) (s : State) : Host.Outcome State Fault Refusal := act s (fun d => d.mboxNop i.toNat)

/-- MBOX_RREAD; `far` is what a follower answered, `none` when no answer came (R846, R143). -/
def execMboxRread (i : BitVec 6) (far : Option (BitVec 4 × List Byte)) (s : State) : Host.Outcome State Fault Refusal :=
  act s (fun d => d.mboxRun i.toNat 1 0xF (fun d bs => d.mboxReg false bs (farOf far)))

/-- MBOX_RWRITE (R846). -/
def execMboxRwrite (i : BitVec 6) (far : Option (BitVec 4)) (s : State) : Host.Outcome State Fault Refusal :=
  act s (fun d => d.mboxRun i.toNat 2 0xF (fun d bs => d.mboxReg true bs (farSt far)))

/-- MBOX_CREAD (R846). -/
def execMboxCread (i : BitVec 6) (ce ue : List (BitVec 34)) (far : Option (BitVec 4 × List Byte)) (s : State) : Host.Outcome State Fault Refusal :=
  act s (fun d => d.mboxRun i.toNat 3 0x3FFF03 (fun d bs => d.mboxCave false bs (ce.map BitVec.toNat) (ue.map BitVec.toNat) (farOf far)))

/-- MBOX_CWRITE: `ue` are lines that the write finds uncorrectable (R846, R889). -/
def execMboxCwrite (i : BitVec 6) (ue : List (BitVec 34)) (far : Option (BitVec 4)) (s : State) : Host.Outcome State Fault Refusal :=
  act s (fun d => d.mboxRun i.toNat 4 0x3FFF03 (fun d bs => d.mboxCave true bs [] (ue.map BitVec.toNat) (farSt far)))

/-- MBOX_FENCE (R850). -/
def execMboxFence (i : BitVec 6) (s : State) : Host.Outcome State Fault Refusal := act s (fun d => d.mboxFence i.toNat)

/-- MBOX_SQDB (R618, R846). -/
def execMboxSqdb (i : BitVec 6) (far : Option (BitVec 4)) (s : State) : Host.Outcome State Fault Refusal :=
  act s (fun d => d.mboxRun i.toNat 6 0x1FF0FFF (fun d bs => d.mboxDb true bs (far.map BitVec.toNat)))

/-- MBOX_CQDB (R623, R846). -/
def execMboxCqdb (i : BitVec 6) (far : Option (BitVec 4)) (s : State) : Host.Outcome State Fault Refusal :=
  act s (fun d => d.mboxRun i.toNat 7 0x1FF0FFF (fun d bs => d.mboxDb false bs (far.map BitVec.toNat)))

end Sys2Proof.Machine
end

