-- ==== Sys2Proof/Machine/Tick.lean ====
section
/-!
DEFINITION. Machine/Tick.lean: the tick edge, which applies every tick-dependent decision and every effect that waits for it (spec 02, R66 to R88, R1054;
spec 95, TICK_EDGE), and SLOW.
-/
namespace Sys2Proof.Machine
namespace Die

/-! ### The counter and the registers in force (R66, R68, R71, R109) -/

/-- The counter advances by one, and wraps with COUNT_WRAP (R68, R71). -/
def edgeCount (d : Die) : Die :=
  let d : Die := { d with tick := { d.tick with count := d.tick.count + 1, fatal := if d.tick.fatal = 1 then 2 else d.tick.fatal } }
  if d.tick.count = 0 then d.raise I.tickCountWrap else d

/-- What the registers hold comes into force: the tick length, and the roles and attributes of ports once the tables are loaded (R66, R109). -/
def edgeInForce (d : Die) : Die :=
  let d : Die := { d with tick := { d.tick with len := BitVec.ofNat 3 (d.get R.tickCfgLen) }, sec := { d.sec with snap := d.regs } }
  if !d.casc.tablesOk then d
  else
    let roles := (List.range 64).foldl (fun m p => smapSet 0 m p (BitVec.ofNat 2 (d.get R.cascRole 0 (p / 16) (p % 16)))) []
    let attrs := (List.range 64).foldl (fun m p => smapSet 0 m p (BitVec.ofNat 4 (d.get R.cascAttr 0 (p / 8) (p % 8)))) []
    { d with casc := { d.casc with role := roles, attr := attrs } }

/-- TICK_OUT pulses at cycle 0 (TICK.OUT). -/
def edgeTickOut (d : Die) : Die := if d.bit R.tickOutEn then (d.drive 5 .tickOut true).drive 5 .tickOut false else d

/-- A RENNET slot is due on every port that is not OFF (R213). -/
def edgeRennets (d : Die) : Die :=
  d.forAll (d.portsWith (fun p => d.role p != 0)) (fun d p => d.modPort p (fun s => { s with rennetDue := true }))

/-- The crossing FIFOs of a port are centred once, at the first edge at which both ends are frequency-locked (R185, R187). -/
def centrePort (d : Die) (p : Nat) : Die :=
  let d := d.forAll (List.range 4) (fun d l => (d.set R.laneqLanePhaseFill 8 p l).modLane p l (fun s => { s with fillRec := some 8 }))
  (d.setBit R.laneqPstatCentred true p).set R.laneqLatRxlat (d.get R.laneqLatCurlat p) p

/-- FIFO_CENTRE (R185): the far end reports its lock in hello fragment 4, which an endpoint does not send. -/
def edgeCentre (d : Die) : Die :=
  if d.disc.flock then
    d.forAll (d.portsWith (fun p => d.role p != 0 && d.get R.laneqPstatState p == 2 && !d.bit R.laneqPstatCentred p && d.hf p 4 3 1 == 1)) centrePort
  else d

/-! ### Formation (R131, R319, R344, R448, R515) -/

/-- At the edge after the announcement the node is FORMED with its present dies. -/
def edgeFormed (d : Die) : Die :=
  match d.casc.announced with
  | none => d
  | some mask =>
    let d : Die := { d with casc := { d.casc with announced := none, silent := [] } }
    let d := ((d.set R.cascStatState 1).set R.cascStatPresent mask.toNat).rerank
    ((d.formReserve.startHarp).assignVats).raise I.cascFormed

/-! ### Overruns (R78 to R83) -/

/-- Planned packets still waiting at the edge are carried (R79). -/
def edgeCarry (d : Die) : Die :=
  let old (e : QEnt) : QEnt := if e.pkt.cls = 1 then { e with carried := true } else e
  let q := d.sw.queue.map (fun x : Nat × List QEnt => (x.1, x.2.map old))
  let g := d.sw.grant.map (fun x : Nat × Option Grant => (x.1, x.2.map (fun g : Grant => { g with ent := old g.ent })))
  { d with sw := { d.sw with queue := q, grant := g } }

/-- Runs of groups that were not in overrun at the latest edge end; the stages that are late now are logged (R78, R83). -/
def edgeOverruns (d : Die) (late : List Late) : Die :=
  let now := d.tick.ovrNow
  let d : Die := { d with tick := { d.tick with ovrRun := d.tick.ovrRun.filter (fun e => now.contains e.1), ovrNow := [] } }
  d.forAll late (fun d l => d.logOverrun l.group.toNat l.cause)

/-- Flows that an abort ended take items again once the units in whose scope they lie run (R96). -/
def edgeFlowMarks (d : Die) : Die :=
  let open_ (f : DstFlow) : Bool :=
    f.abort == .aborted && f.items.isEmpty && (d.rundown .die).phase == .run && (d.rundown (.port (BitVec.ofNat 6 (eidPort f.key.deid)))).phase == .run
  { d with dlv := { d.dlv with flows := d.dlv.flows.map (fun e : Nat × FlowEnt => match e.2 with
    | .dst f => if open_ f then (e.1, .dst { f with abort := .none }) else e
    | _ => e) } }

/-! ### Claims (R990, R991) -/

/-- The plan engine's timer: held while a plan is PENDING or ACTIVE. -/
def edgePlanTimer (d : Die) : Die := if d.hasTimer 9 && (d.plansIn [2, 3]).isEmpty then d.letTimer 9 else d

/-- The plan engine's claim. -/
def edgePlanClaim (d : Die) : Die :=
  if !d.own.planAsked then d
  else
    let d : Die := { d with own := { d.own with planAsked := false } }
    if d.hasTimer 9 || (d.plansIn [2, 3]).isEmpty then d
    else match d.freeTimer with
      | some i => d.takeTimer i 9
      | none => d.refusedClaim (some 0x10) 9

/-- Releases, then claims: plan, record/replay, telemetry, the other share clients. -/
def edgeClaims (d : Die) : Die :=
  let d := (d.edgePlanTimer.edgeRecRelease).edgeTelemRelease
  let d := (d.edgePlanClaim.edgeRecord).edgeReplay
  d.edgeTelemClaims.edgeShares

/-! ### The cave (R885, R1048) -/

/-- Refresh rates, and what PWR.THERM_CTL.CAVE_ACT does at a CAVE_HOT (R1048). -/
def edgeCave (d : Die) (rates : List (BitVec 4 × BitVec 1 × BitVec 2)) : Die :=
  let d := d.edgeRates rates
  let hot := (List.range 10).any (fun k => d.get R.caveStatRate0 k == 3 || d.get R.caveStatRate1 k == 3)
  let fresh := hot && !d.pwr.caveHot
  let d : Die := { d with pwr := { d.pwr with caveHot := hot } }
  if fresh && d.get R.pwrThermCtlCaveAct == 2 then d.startQuiet else d

/-! ### The fingerprint and the node (R58, R754, R996) -/

/-- The det writes of the closing tick change the fingerprint at this edge. -/
def edgeFp (d : Die) : Die :=
  if d.det.dirty then
    let d : Die := { d with det := { d.det with dirty := false } }
    d.fpTouch
  else d

/-- Is every wired TRUNK and STACK port of a present die ACTIVE, and every cave controller of it READY (R996)? -/
def dieUp (d : Die) (x : Nat) : Bool :=
  let wired (p : Nat) : Bool := let r := (smapGet 0 d.casc.wiring (64 * x + p)).toNat % 4; r == 2 || r == 3
  if x = d.pos then
    (List.range 64).all (fun p => !wired p || d.link p == 2) && (List.range 10).all (fun k => d.get R.caveStatState k == 1)
  else
    (List.range 64).all (fun p => !wired p || Config.sibUp d.fresh x p) && (List.range 10).all (fun k => Config.sibUp d.fresh x (64 + k))

/-- FABRIC_READY, as the acting master finds it (R996). -/
def edgeReady (d : Die) : Die :=
  if d.isMaster && !d.boot.fabricReady && d.get R.cascStatState == 1 && d.tstate == 1 && d.boot.hostReady
      && ((List.range 4).filter d.diePresent).all d.dieUp then
    { d.used with boot := { d.boot with fabricReady := true } }
  else d

/-! ### The edge -/

/-- Time itself: the counter, what comes into force, formation, and late work (R68 to R88). -/
def edgeTime (d : Die) (e : EdgeIn) : Die :=
  let d := (d.edgeCount.edgeInForce).edgeFormed
  let d := (d.edgeTickOut.edgeRennets).edgeCentre
  d.edgeCarry.edgeOverruns e.late

/-- Units: run-downs, gating, fences, pins, stalls (R91, R914, R946, R990, R898). -/
def edgeUnits (d : Die) : Die :=
  let d := (d.edgeRundowns.edgeUngate).edgeUnfencePorts
  let d := (d.edgeFencePorts.edgeFlowMarks).edgePins
  d.edgeStall

/-- The node and the fabric: discovery, heartbeats, node credits, the harp, delivery. -/
def edgeFabric (d : Die) : Die :=
  let d := (d.edgeDisc.edgeHeartbeat).edgeSilence
  let d := (d.edgeForwards.edgeNcred).edgeHarp
  d.edgeDelivery

/-- Compute: vats, plans, collectives, tenants. -/
def edgeCompute (d : Die) (e : EdgeIn) : Die :=
  let d := (d.edgeVats (e.running.map BitVec.toNat)).edgeUnfence
  let d := d.edgePlans (e.planEcc.map BitVec.toNat)
  (d.edgeColl.edgeHomeLost).edgeTenants

/-- The host side: claims, the cave, queues, summaries and counters. -/
def edgeHost (d : Die) (e : EdgeIn) : Die :=
  let d := d.edgeClaims.edgeCave e.rates
  let d := (d.edgeDma.edgeMbox).edgeSummaries
  d.edgeDepths.edgeStalls e.stalls

/-- A tick edge (spec 95, TICK_EDGE). -/
def tickEdge (d : Die) (e : EdgeIn) : Die :=
  let d := (d.edgeTime e).edgeUnits
  let d := (d.edgeFabric.edgeCompute e).edgeHost e
  d.edgeFp.edgeReady

/-- SLOW (R83): a collective in overrun in 5 consecutive ticks is marked at the fifth closing edge. -/
def markSlow (d : Die) (g : Nat) : Die :=
  match (d.group g).run with
  | none => d
  | some r =>
    if r.slow || decide (smapGet 0 d.tick.ovrRun g < 5) then d
    else ((d.modRun g (fun r => { r with slow := true })).bump R.tickSlowCntSlow).raise I.tickSlow

end Die

/-- TICK_EDGE (R68, R74, R1054). -/
def execTickEdge (e : EdgeIn) (s : State) : Host.Outcome State Fault Refusal := act s (fun d => d.tickEdge e)

/-- SLOW (R83, R84). -/
def execSlow (g : BitVec 12) (s : State) : Host.Outcome State Fault Refusal := act s (fun d => d.markSlow g.toNat)

end Sys2Proof.Machine
end

