-- ==== Sys2Proof/Machine/Dispatch.lean ====
section
/-!
DEFINITION. Machine/Dispatch.lean: one arm per command, each one direct call of the command's meaning.
-/
namespace Sys2Proof.Machine

def exec (i : Instr) (s : State) : Host.Outcome State Fault Refusal :=
  match i with
  | .tickEdge e => Sys2Proof.Machine.execTickEdge e s
  | .slow g => Sys2Proof.Machine.execSlow g s
  | .tickCfgLenWrite c w => Sys2Proof.Machine.execTickCfgLenWrite c w s
  | .rundownRequest c u => Sys2Proof.Machine.execRundownRequest c u s
  | .rundownIdle u => Sys2Proof.Machine.execRundownIdle u s
  | .rundownBoundEnd u => Sys2Proof.Machine.execRundownBoundEnd u s
  | .rundownClear c u => Sys2Proof.Machine.execRundownClear c u s
  | .pageResetRequest c pg => Sys2Proof.Machine.execPageResetRequest c pg s
  | .resetTakesEffect dm => Sys2Proof.Machine.execResetTakesEffect dm s
  | .pageFenceRequest c pg => Sys2Proof.Machine.execPageFenceRequest c pg s
  | .pageUnfence c pg => Sys2Proof.Machine.execPageUnfence c pg s
  | .pageEnableWrite c pg on => Sys2Proof.Machine.execPageEnableWrite c pg on s
  | .pageLockWrite c page => Sys2Proof.Machine.execPageLockWrite c page s
  | .roleAttrWrite c idx w => Sys2Proof.Machine.execRoleAttrWrite c idx w s
  | .helloRx p frag data => Sys2Proof.Machine.execHelloRx p frag data s
  | .cascFormWindowEnd gap => Sys2Proof.Machine.execCascFormWindowEnd gap s
  | .actingMasterForm => Sys2Proof.Machine.execActingMasterForm s
  | .hbeatRx p die => Sys2Proof.Machine.execHbeatRx p die s
  | .masterTakeover => Sys2Proof.Machine.execMasterTakeover s
  | .cascIsolated => Sys2Proof.Machine.execCascIsolated s
  | .fwdReadComplete tag epoch data busy => Sys2Proof.Machine.execFwdReadComplete tag epoch data busy s
  | .cascFwdLost tag => Sys2Proof.Machine.execCascFwdLost tag s
  | .cascDieLost die => Sys2Proof.Machine.execCascDieLost die s
  | .cdrLock p lane => Sys2Proof.Machine.execCdrLock p lane s
  | .blLock p lane => Sys2Proof.Machine.execBlLock p lane s
  | .blLockLoss p lane bad => Sys2Proof.Machine.execBlLockLoss p lane bad s
  | .superframeRx p f => Sys2Proof.Machine.execSuperframeRx p f s
  | .sfLock p lane ofs => Sys2Proof.Machine.execSfLock p lane ofs s
  | .sfLockLoss p lane => Sys2Proof.Machine.execSfLockLoss p lane s
  | .hintPol p lane => Sys2Proof.Machine.execHintPol p lane s
  | .deskewRetry p d0 d1 d2 d3 lat => Sys2Proof.Machine.execDeskewRetry p d0 d1 d2 d3 lat s
  | .linkDown p => Sys2Proof.Machine.execLinkDown p s
  | .rehunt c p => Sys2Proof.Machine.execRehunt c p s
  | .creditSlotRx p vcp retA retB mack mlast => Sys2Proof.Machine.execCreditSlotRx p vcp retA retB mack mlast s
  | .rennetRx p pos tick mack mlast arr => Sys2Proof.Machine.execRennetRx p pos tick mack mlast arr s
  | .csyncRx p vcp sentA sentB => Sys2Proof.Machine.execCsyncRx p vcp sentA sentB s
  | .csyncPeriodic p => Sys2Proof.Machine.execCsyncPeriodic p s
  | .csyncReq p => Sys2Proof.Machine.execCsyncReq p s
  | .psReq p tgt => Sys2Proof.Machine.execPsReq p tgt s
  | .psAck p tgt => Sys2Proof.Machine.execPsAck p tgt s
  | .psNak p reason => Sys2Proof.Machine.execPsNak p reason s
  | .wake p => Sys2Proof.Machine.execWake p s
  | .rxSettled p lsn => Sys2Proof.Machine.execRxSettled p lsn s
  | .taken p first count => Sys2Proof.Machine.execTaken p first count s
  | .msgReplay p => Sys2Proof.Machine.execMsgReplay p s
  | .linkActive p => Sys2Proof.Machine.execLinkActive p s
  | .psctlWrite c p w => Sys2Proof.Machine.execPsctlWrite c p w s
  | .psEnter p => Sys2Proof.Machine.execPsEnter p s
  | .signalDetect p => Sys2Proof.Machine.execSignalDetect p s
  | .portWake p => Sys2Proof.Machine.execPortWake p s
  | .helloPeriodic p => Sys2Proof.Machine.execHelloPeriodic p s
  | .rootElection => Sys2Proof.Machine.execRootElection s
  | .candidacyPass => Sys2Proof.Machine.execCandidacyPass s
  | .walkTimeout dim => Sys2Proof.Machine.execWalkTimeout dim s
  | .discRetry => Sys2Proof.Machine.execDiscRetry s
  | .discLeave => Sys2Proof.Machine.execDiscLeave s
  | .discRemeasure c => Sys2Proof.Machine.execDiscRemeasure c s
  | .flock => Sys2Proof.Machine.execFlock s
  | .latencyMeasured p => Sys2Proof.Machine.execLatencyMeasured p s
  | .joinAlign => Sys2Proof.Machine.execJoinAlign s
  | .holdover => Sys2Proof.Machine.execHoldover s
  | .reparent => Sys2Proof.Machine.execReparent s
  | .holdoverExpire => Sys2Proof.Machine.execHoldoverExpire s
  | .outRejoin => Sys2Proof.Machine.execOutRejoin s
  | .rootFailover => Sys2Proof.Machine.execRootFailover s
  | .left => Sys2Proof.Machine.execLeft s
  | .transitHeadRx p pk => Sys2Proof.Machine.execTransitHeadRx p pk s
  | .ncredRx p totals => Sys2Proof.Machine.execNcredRx p totals s
  | .rnfwdRx p tick arr => Sys2Proof.Machine.execRnfwdRx p tick arr s
  | .mrd pk => Sys2Proof.Machine.execMrd pk s
  | .mwr pk => Sys2Proof.Machine.execMwr pk s
  | .dropPacketRx p v pk poisoned beyond => Sys2Proof.Machine.execDropPacketRx p v pk poisoned beyond s
  | .packetAccept p v found => Sys2Proof.Machine.execPacketAccept p v found s
  | .e2eCopyRx pk => Sys2Proof.Machine.execE2eCopyRx pk s
  | .e2eDlvdRx pk => Sys2Proof.Machine.execE2eDlvdRx pk s
  | .e2eNakRx pk => Sys2Proof.Machine.execE2eNakRx pk s
  | .e2eRtndRx pk => Sys2Proof.Machine.execE2eRtndRx pk s
  | .attemptTimeout p n bad => Sys2Proof.Machine.execAttemptTimeout p n bad s
  | .retransmit p n => Sys2Proof.Machine.execRetransmit p n s
  | .probe p n => Sys2Proof.Machine.execProbe p n s
  | .giveUp p n => Sys2Proof.Machine.execGiveUp p n s
  | .gapSettle f => Sys2Proof.Machine.execGapSettle f s
  | .egressTimeout f => Sys2Proof.Machine.execEgressTimeout f s
  | .destFlowRelease f => Sys2Proof.Machine.execDestFlowRelease f s
  | .sourceFlowRelease f => Sys2Proof.Machine.execSourceFlowRelease f s
  | .copyLifetimeDrop p v => Sys2Proof.Machine.execCopyLifetimeDrop p v s
  | .itemEgress f => Sys2Proof.Machine.execItemEgress f s
  | .deidInvalidSettle p n => Sys2Proof.Machine.execDeidInvalidSettle p n s
  | .flowDue f => Sys2Proof.Machine.execFlowDue f s
  | .outputGrant p v => Sys2Proof.Machine.execOutputGrant p v s
  | .echoRx pk => Sys2Proof.Machine.execEchoRx pk s
  | .withholdEnd p => Sys2Proof.Machine.execWithholdEnd p s
  | .hoopAlloc r found => Sys2Proof.Machine.execHoopAlloc r found s
  | .hoopRelease h o found recBad => Sys2Proof.Machine.execHoopRelease h o found recBad s
  | .hoopFree h o found recBad => Sys2Proof.Machine.execHoopFree h o found recBad s
  | .hoopRebuild c w => Sys2Proof.Machine.execHoopRebuild c w s
  | .rebuilt pool => Sys2Proof.Machine.execRebuilt pool s
  | .cellZeroed pool => Sys2Proof.Machine.execCellZeroed pool s
  | .loadTile v q x => Sys2Proof.Machine.execLoadTile v q x s
  | .expScan v q x => Sys2Proof.Machine.execExpScan v q x s
  | .reduce v q x => Sys2Proof.Machine.execReduce v q x s
  | .scale v q x => Sys2Proof.Machine.execScale v q x s
  | .combine v q x => Sys2Proof.Machine.execCombine v q x s
  | .mergeSoftmax v q x => Sys2Proof.Machine.execMergeSoftmax v q x s
  | .sampleGumbel v q x => Sys2Proof.Machine.execSampleGumbel v q x s
  | .topk v q x => Sys2Proof.Machine.execTopk v q x s
  | .quant v q x => Sys2Proof.Machine.execQuant v q x s
  | .dequant v q x => Sys2Proof.Machine.execDequant v q x s
  | .cast v q x => Sys2Proof.Machine.execCast v q x s
  | .clamp v q x => Sys2Proof.Machine.execClamp v q x s
  | .maskDrop v q x => Sys2Proof.Machine.execMaskDrop v q x s
  | .fillRandom v q x => Sys2Proof.Machine.execFillRandom v q x s
  | .storeTile v q x => Sys2Proof.Machine.execStoreTile v q x s
  | .emit v q x => Sys2Proof.Machine.execEmit v q x s
  | .vatWatchdog v q => Sys2Proof.Machine.execVatWatchdog v q s
  | .vatFence => Sys2Proof.Machine.execVatFence s
  | .vatInjectResidue c v => Sys2Proof.Machine.execVatInjectResidue c v s
  | .vatInjectRecipe c v => Sys2Proof.Machine.execVatInjectRecipe c v s
  | .brineVisit v found => Sys2Proof.Machine.execBrineVisit v found s
  | .brineLate v => Sys2Proof.Machine.execBrineLate v s
  | .spadWriteback v => Sys2Proof.Machine.execSpadWriteback v s
  | .wipeDone v => Sys2Proof.Machine.execWipeDone v s
  | .vatWipeAll c v => Sys2Proof.Machine.execVatWipeAll c v s
  | .rngProbeSeed c w => Sys2Proof.Machine.execRngProbeSeed c w s
  | .rngProbeLeap c w => Sys2Proof.Machine.execRngProbeLeap c w s
  | .queueSlotWrite bar2 rid ofs bytes => Sys2Proof.Machine.execQueueSlotWrite bar2 rid ofs bytes s
  | .sqDoorbell c g tail => Sys2Proof.Machine.execSqDoorbell c g tail s
  | .cqDoorbell c g head => Sys2Proof.Machine.execCqDoorbell c g head s
  | .descAdmit g => Sys2Proof.Machine.execDescAdmit g s
  | .queueUnderfill g => Sys2Proof.Machine.execQueueUnderfill g s
  | .completionWrite g => Sys2Proof.Machine.execCompletionWrite g s
  | .cctlDesc p n pk ans => Sys2Proof.Machine.execCctlDesc p n pk ans s
  | .cctlSqDb p n pk ans => Sys2Proof.Machine.execCctlSqDb p n pk ans s
  | .cctlCqDb p n pk ans => Sys2Proof.Machine.execCctlCqDb p n pk ans s
  | .cctlCmd p n pk ans => Sys2Proof.Machine.execCctlCmd p n pk ans s
  | .cqRecordResend g => Sys2Proof.Machine.execCqRecordResend g s
  | .start pk => Sys2Proof.Machine.execStart pk s
  | .startAck pk => Sys2Proof.Machine.execStartAck pk s
  | .chunkAdmit g => Sys2Proof.Machine.execChunkAdmit g s
  | .collMemberLate g => Sys2Proof.Machine.execCollMemberLate g s
  | .partialRx p pk => Sys2Proof.Machine.execPartialRx p pk s
  | .done pk => Sys2Proof.Machine.execDone pk s
  | .fin pk => Sys2Proof.Machine.execFin pk s
  | .doneFinRepeat g c => Sys2Proof.Machine.execDoneFinRepeat g c s
  | .cmdFwd pk => Sys2Proof.Machine.execCmdFwd pk s
  | .groupStop c g => Sys2Proof.Machine.execGroupStop c g s
  | .groupAbort c g => Sys2Proof.Machine.execGroupAbort c g s
  | .groupResume c g => Sys2Proof.Machine.execGroupResume c g s
  | .planLoad c w => Sys2Proof.Machine.execPlanLoad c w s
  | .planValidated => Sys2Proof.Machine.execPlanValidated s
  | .planUnload c w => Sys2Proof.Machine.execPlanUnload c w s
  | .planActivate => Sys2Proof.Machine.execPlanActivate s
  | .fpPublish others mirror => Sys2Proof.Machine.execFpPublish others mirror s
  | .recordEnable c w => Sys2Proof.Machine.execRecordEnable c w s
  | .recordDisable c w => Sys2Proof.Machine.execRecordDisable c w s
  | .recordStopped => Sys2Proof.Machine.execRecordStopped s
  | .gapEntry => Sys2Proof.Machine.execGapEntry s
  | .replayEnable c w => Sys2Proof.Machine.execReplayEnable c w s
  | .replayInject => Sys2Proof.Machine.execReplayInject s
  | .replayLate => Sys2Proof.Machine.execReplayLate s
  | .replayDisable c w => Sys2Proof.Machine.execReplayDisable c w s
  | .replayEnd => Sys2Proof.Machine.execReplayEnd s
  | .cmpClear c => Sys2Proof.Machine.execCmpClear c s
  | .tenantAdmit c t w => Sys2Proof.Machine.execTenantAdmit c t w s
  | .tenantEnClear c t w => Sys2Proof.Machine.execTenantEnClear c t w s
  | .tenantKill c t w => Sys2Proof.Machine.execTenantKill c t w s
  | .killEdge t => Sys2Proof.Machine.execKillEdge t s
  | .tenantWipe t => Sys2Proof.Machine.execTenantWipe t s
  | .tagSweepDone => Sys2Proof.Machine.execTagSweepDone s
  | .tenantFree t => Sys2Proof.Machine.execTenantFree t s
  | .debugUnlock c sigOk => Sys2Proof.Machine.execDebugUnlock c sigOk s
  | .debugLock c => Sys2Proof.Machine.execDebugLock c s
  | .dbgNonceRead c => Sys2Proof.Machine.execDbgNonceRead c s
  | .svnCommit c => Sys2Proof.Machine.execSvnCommit c s
  | .revoke c slot => Sys2Proof.Machine.execRevoke c slot s
  | .getVersion mctp => Sys2Proof.Machine.execGetVersion mctp s
  | .getCapabilities mctp => Sys2Proof.Machine.execGetCapabilities mctp s
  | .negotiateAlgorithms mctp => Sys2Proof.Machine.execNegotiateAlgorithms mctp s
  | .getDigests mctp => Sys2Proof.Machine.execGetDigests mctp s
  | .getCertificate mctp slot ofs len => Sys2Proof.Machine.execGetCertificate mctp slot ofs len s
  | .challenge mctp slot nonce => Sys2Proof.Machine.execChallenge mctp slot nonce s
  | .getMeasurements mctp op sign nonce others => Sys2Proof.Machine.execGetMeasurements mctp op sign nonce others s
  | .spdmUnsupported mctp code => Sys2Proof.Machine.execSpdmUnsupported mctp code s
  | .hostReset flr => Sys2Proof.Machine.execHostReset flr s
  | .hostLinkUp speed width cxl => Sys2Proof.Machine.execHostLinkUp speed width cxl s
  | .hostLinkLoss => Sys2Proof.Machine.execHostLinkLoss s
  | .caveWindowAccess rid ofs write bytes ce ue => Sys2Proof.Machine.execCaveWindowAccess rid ofs write bytes ce ue s
  | .dmaSqDoorbell c q tail => Sys2Proof.Machine.execDmaSqDoorbell c q tail s
  | .dmaCqDoorbell c q head => Sys2Proof.Machine.execDmaCqDoorbell c q head s
  | .h2c q data err => Sys2Proof.Machine.execH2c q data err s
  | .c2h q n ce ue => Sys2Proof.Machine.execC2h q n ce ue s
  | .dmaFence q => Sys2Proof.Machine.execDmaFence q s
  | .dmaNop q => Sys2Proof.Machine.execDmaNop q s
  | .dmaComplete q => Sys2Proof.Machine.execDmaComplete q s
  | .dmaQueueDisable c q => Sys2Proof.Machine.execDmaQueueDisable c q s
  | .mboxDoorbell c n => Sys2Proof.Machine.execMboxDoorbell c n s
  | .mboxUnderfill n => Sys2Proof.Machine.execMboxUnderfill n s
  | .mboxNop n => Sys2Proof.Machine.execMboxNop n s
  | .mboxRread n far => Sys2Proof.Machine.execMboxRread n far s
  | .mboxRwrite n far => Sys2Proof.Machine.execMboxRwrite n far s
  | .mboxCread n ce ue far => Sys2Proof.Machine.execMboxCread n ce ue far s
  | .mboxCwrite n ue far => Sys2Proof.Machine.execMboxCwrite n ue far s
  | .mboxFence n => Sys2Proof.Machine.execMboxFence n s
  | .mboxSqdb n far => Sys2Proof.Machine.execMboxSqdb n far s
  | .mboxCqdb n far => Sys2Proof.Machine.execMboxCqdb n far s
  | .msixGapEnd v => Sys2Proof.Machine.execMsixGapEnd v s
  | .msixUnmask v on => Sys2Proof.Machine.execMsixUnmask v on s
  | .pmcsrWrite state => Sys2Proof.Machine.execPmcsrWrite state s
  | .d0Entered => Sys2Proof.Machine.execD0Entered s
  | .caveRefresh ctl extra => Sys2Proof.Machine.execCaveRefresh ctl extra s
  | .caveFail ctl => Sys2Proof.Machine.execCaveFail ctl s
  | .caveShareWrite c reg w => Sys2Proof.Machine.execCaveShareWrite c reg w s
  | .errHeadRead c page => Sys2Proof.Machine.execErrHeadRead c page s
  | .pop c page => Sys2Proof.Machine.execPop c page s
  | .rewind c page => Sys2Proof.Machine.execRewind c page s
  | .clrcnt c page => Sys2Proof.Machine.execClrcnt c page s
  | .kick c => Sys2Proof.Machine.execKick c s
  | .stewardWdog => Sys2Proof.Machine.execStewardWdog s
  | .stwReset c ok => Sys2Proof.Machine.execStwReset c ok s
  | .retry pk => Sys2Proof.Machine.execRetry pk s
  | .requestReissue => Sys2Proof.Machine.execRequestReissue s
  | .telemEnable c w => Sys2Proof.Machine.execTelemEnable c w s
  | .telemCapture => Sys2Proof.Machine.execTelemCapture s
  | .telemRecordWritten ok => Sys2Proof.Machine.execTelemRecordWritten ok s
  | .telemDisable c w => Sys2Proof.Machine.execTelemDisable c w s
  | .registerWrite a => Sys2Proof.Machine.execRegisterWrite a s
  | .rcRead a => Sys2Proof.Machine.execRcRead a s
  | .pairLowRead a => Sys2Proof.Machine.execPairLowRead a s
  | .bulkWindowAccess a write ce ue => Sys2Proof.Machine.execBulkWindowAccess a write ce ue s
  | .mctp data => Sys2Proof.Machine.execMctp data s
  | .raddr a => Sys2Proof.Machine.execRaddr a s
  | .smbRread => Sys2Proof.Machine.execSmbRread s
  | .smbRwrite w => Sys2Proof.Machine.execSmbRwrite w s
  | .smbTransaction j e => Sys2Proof.Machine.execSmbTransaction j e s
  | .smbBackoffEnd => Sys2Proof.Machine.execSmbBackoffEnd s
  | .smbSclTimeout => Sys2Proof.Machine.execSmbSclTimeout s
  | .tableReadDeadline table => Sys2Proof.Machine.execTableReadDeadline table s
  | .erase c => Sys2Proof.Machine.execErase c s
  | .program c => Sys2Proof.Machine.execProgram c s
  | .flashRead c => Sys2Proof.Machine.execFlashRead c s
  | .flDone err => Sys2Proof.Machine.execFlDone err s
  | .jtagIrUpdate ir => Sys2Proof.Machine.execJtagIrUpdate ir s
  | .jtagReset trst => Sys2Proof.Machine.execJtagReset trst s
  | .gpioFuncWrite c reg w => Sys2Proof.Machine.execGpioFuncWrite c reg w s
  | .gpioEdge n level => Sys2Proof.Machine.execGpioEdge n level s
  | .chipRst low straps => Sys2Proof.Machine.execChipRst low straps s
  | .bootStart b => Sys2Proof.Machine.execBootStart b s
  | .hostReady locked caves => Sys2Proof.Machine.execHostReady locked caves s
  | .brownout ends => Sys2Proof.Machine.execBrownout ends s
  | .avsPeriod margin stayed => Sys2Proof.Machine.execAvsPeriod margin stayed s
  | .pmbusPoll vout iout temp => Sys2Proof.Machine.execPmbusPoll vout iout temp s
  | .quietRequest c => Sys2Proof.Machine.execQuietRequest c s
  | .runRequest c => Sys2Proof.Machine.execRunRequest c s
  | .quietLeaveDone => Sys2Proof.Machine.execQuietLeaveDone s
  | .tjSample temps => Sys2Proof.Machine.execTjSample temps s
  | .thermAssert on => Sys2Proof.Machine.execThermAssert on s
  | .superframeTx p ofs edge => Sys2Proof.Machine.execSuperframeTx p ofs edge s
  | .cdrLockLoss p lane => Sys2Proof.Machine.execCdrLockLoss p lane s
  | .cmdFwdAck pk => Sys2Proof.Machine.execCmdFwdAck pk s
  | .hostLinkDown => Sys2Proof.Machine.execHostLinkDown s
  | .smbTargetUnknownCommand code badPec => Sys2Proof.Machine.execSmbTargetUnknownCommand code badPec s
  | .pmbusAbandon => Sys2Proof.Machine.execPmbusAbandon s
  | .vatClockGate v u cycles => Sys2Proof.Machine.execVatClockGate v u cycles s

end Sys2Proof.Machine
end

