-- ==== Sys2Proof/Safety.lean ====
section
/-!
DEFINITION. Safety.lean: the terms in which claims speak: the canonical form of the die's memories, the commands that reach a die which does not run,
how a command completes, and how far its effect reaches.
-/
namespace Sys2Proof.Machine

/-! ### Memories -/

/-- A memory of bytes is in canonical form: addresses strictly rising, and no entry equal to `d`, what an unlisted address reads as. -/
def Memory.wf (d : Byte) (m : SMap Byte) : Bool := smapWf d m

/-- Every memory of the die is in canonical form: the cave, plan memory, pool memory, the scratchpads, flash and image memory. -/
def Die.memWf (d : Die) : Bool :=
  Memory.wf 0 d.cave.mem && Memory.wf 0 d.plans.mem && Memory.wf 0 d.hoops.mem && d.vats.all (fun e => Memory.wf 0 e.2.mem)
    && Memory.wf 0xFF d.smb.flash && Memory.wf 0 d.smb.image

/-! ### Commands -/

/-- The commands that reach a die even while it does not run: its reset pin, its supply and its test port (R985, R988, R1024). -/
def reachesHeldDie : Instr → Bool
  | .chipRst _ _ => true
  | .brownout _ => true
  | .jtagIrUpdate _ => true
  | .jtagReset _ => true
  | _ => false

/-- The command completes: exec answers a next state, the queue is as it was, and the die then meets `P`. -/
def Completes (i : Instr) (s : State) (P : Die → Prop) : Prop := ∃ e : Die, exec i s = .next { s with die := e } ∧ P e

/-- The command completes with exactly the die `e`, the queue as it was. -/
abbrev Becomes (i : Instr) (s : State) (e : Die) : Prop := exec i s = .next { s with die := e }

/-- The die runs, and the page of an instance of a block is in service (R908, R995). -/
abbrev Serves (s : State) (t : PageType) (i : Nat) : Prop := s.die.alive = true ∧ s.die.underReset t i = false

/-- An access of the steward to an address of its own die (R139, R957). -/
def ownAccess (d : Die) (a : Nat) (bs : List (Option Byte)) : Access :=
  { cls := .steward, fwd := false, rid := 0, addr := BitVec.ofNat 28 (0x4000000 * d.pos + a), bytes := bs }

/-- The enabled bytes of one dword. -/
def wordBytes (w : Word) : List (Option Byte) := (leBytes 4 w.toNat).map some

/-! ### What a command leaves behind -/

/-- The address of the dword of a field, of register `j` in the page of instance `i`. -/
def Fld.addrOf (f : Fld) (i : Nat := 0) (j : Nat := 0) : Nat := (f.loc i j).addr

/-- The address of PAGE_IRQ_STAT of a cause's page (R966). -/
def Irq.addrOf (q : Irq) (i : Nat := 0) : Nat := Die.hdrAddr q.page i 0x20

/-- Is a cause set (R966)? -/
def Die.hasCause (d : Die) (q : Irq) (i : Nat := 0) : Bool := (d.dword (q.addrOf i)).getLsbD q.bit

/-- A record with a code and a severity has been written for a page: it stands in the global log, or waits for an entry of it (R895, R899). -/
def Logged (d e : Die) (page code sev : Nat) : Prop :=
  ∃ r : ErrRec, r.code = BitVec.ofNat 16 code ∧ r.sev = BitVec.ofNat 2 sev ∧ r.page = BitVec.ofNat 12 page ∧ r.seq = d.err.seq
    ∧ ((∃ x ∈ e.err.log, x.r = r) ∨ (page, r) ∈ e.err.waiting)

/-- What a counter shows after `n` more events: it stays at all ones once it is there. -/
def Die.counted (d : Die) (f : Fld) (i : Nat := 0) (j : Nat := 0) (n : Nat := 1) : Nat := min (d.get f i j + n) (2 ^ f.width - 1)

/-! ### One entry of a unit's own state -/

/-- One port's own state becomes `x`, and every other port's is as it was. -/
def ChangesPort (d e : Die) (p : Nat) (x : PortSt) : Prop := e.port p = x ∧ ∀ q, q ≠ p → e.port q = d.port q

/-- Every port's own state but this one's is as it was. -/
def OtherPorts (d e : Die) (p : Nat) : Prop := ∀ q, q ≠ p → e.port q = d.port q

/-- One lane's own state becomes `x`; every other lane, the rest of its port and every other port are as they were. -/
def ChangesLane (d e : Die) (p l : Nat) (x : LaneSt) : Prop :=
  e.lane p l = x ∧ (∀ m, m ≠ l → e.lane p m = d.lane p m) ∧ e.port p = { d.port p with lanes := (e.port p).lanes } ∧ OtherPorts d e p

/-- One VC's own state becomes `x`; every other VC, the rest of its port and every other port are as they were. -/
def ChangesVc (d e : Die) (p v : Nat) (x : VcSt) : Prop :=
  e.vc p v = x ∧ (∀ w, w ≠ v → e.vc p w = d.vc p w) ∧ e.port p = { d.port p with vcs := (e.port p).vcs } ∧ OtherPorts d e p

/-- One vat's own state becomes `x`, and every other vat's is as it was. -/
def ChangesVat (d e : Die) (v : Nat) (x : VatSt) : Prop := e.vat v = x ∧ ∀ w, w ≠ v → e.vat w = d.vat w

/-- One unit's run-down becomes `r`, every other unit's is as it was, and so is the rest of the tick's state. -/
def ChangesRundown (d e : Die) (u : UnitId) (r : RunDown) : Prop :=
  e.rundown u = r ∧ (∀ v, v ≠ u → e.rundown v = d.rundown v) ∧ e.tick = { d.tick with rundown := e.tick.rundown }

/-- One group's entry becomes `x`, every other group's is as it was, and so is the rest of the collective engine. -/
def ChangesGroup (d e : Die) (g : Nat) (x : GroupSt) : Prop :=
  e.group g = x ∧ (∀ h, h ≠ g → e.group h = d.group h) ∧ e.coll = { d.coll with groups := e.coll.groups }

/-- One ledger entry becomes `x`, every other entry is as it was, and so is the rest of delivery. -/
def ChangesLed (d e : Die) (k : Nat) (x : LedEnt) : Prop :=
  e.led k = x ∧ (∀ l, l ≠ k → e.led l = d.led l) ∧ e.dlv = { d.dlv with ledger := e.dlv.ledger }

/-- One flow-table entry becomes `x`, and every other entry is as it was. -/
def ChangesFlow (d e : Die) (f : Nat) (x : FlowEnt) : Prop := e.flow f = x ∧ ∀ g, g ≠ f → e.flow g = d.flow g

/-- One page's error logic becomes `x`, every other page's is as it was, and so is the rest of the error log. -/
def ChangesPageErr (d e : Die) (idx : Nat) (x : PageErr) : Prop :=
  e.pageErr idx = x ∧ (∀ j, j ≠ idx → e.pageErr j = d.pageErr j) ∧ e.err = { d.err with pages := e.err.pages }

/-- Ports change only by hellos that join their queues and are noted as sent (R257). -/
def HellosOnly (d e : Die) : Prop :=
  ∀ q, e.port q = { d.port q with sendq := (e.port q).sendq, helloTx := (e.port q).helloTx } ∧ (d.port q).sendq <+: (e.port q).sendq

/-- The node has refused to join for a cause shown by a port: CONFLICT, with cause, port and die, logged as UNIT_FATAL (R274, R275). -/
def ShowsConflict (d e : Die) (cause port : Nat) : Prop :=
  e.get R.discStatPhase = 8 ∧ e.get R.discStatCause = cause ∧ e.get R.discStatCport = port ∧ e.get R.discStatCdie = d.pos
    ∧ Logged d e (pageIndex .disc 0) 0x0300 2 ∧ e.hasCause I.discConflict = true

/-- A ledger entry has settled: it is free, and its receipt has joined its port's messages as the latest (R356, R357, R391). -/
def Receipted (d e : Die) (k : Nat) (out : BitVec 3) : Prop :=
  ChangesLed d e k LedEnt.init ∧ OtherPorts d e (k / 4096)
    ∧ e.port (k / 4096) = { d.port (k / 4096) with sendq := (d.port (k / 4096)).sendq
        ++ (if (d.led k).injected then [] else [if out = 0 then Msg.dlvd (d.led k).lsn 1 else Msg.rtnd (d.led k).lsn out]) }

/-- The latest superframe sent: port, positions, slot, message with its MSN, MACK and MLAST, and lanes. -/
def Die.lastFrame (e : Die) : Option (Nat × List TxPos × Slot × Msg × Nat × Nat × Nat × List (List (BitVec 10))) :=
  match e.out.getLast? with
  | some (.superframe p pos slot msg msn mack mlast lanes) => some (p, pos, slot, msg, msn, mack, mlast, lanes)
  | _ => none

/-! ### How far an effect reaches -/

/-- The dwords that a logged record may change: ERRLOG.OVERWRITTEN and WAITS, the ERRLOG page's causes, and PWR.WAKE_CAUSE (R895, R899, R858). -/
def logAddrs : List Nat := [R.errlogOverwritten.addrOf, R.errlogWaits.addrOf, (I.errlogSev 0).addrOf, R.pwrWakeCauseCause.addrOf]

/-- The dwords that a change of the fence map may change beside PAGE_STAT: the map of dies, CASC.STAT, CASC.HB, the CHIP page's causes, and DET.FP_GEN,
FP_TICK and FP_STAT (R134, R754, R914). -/
def fenceAddrs : List Nat :=
  [R.chipFenceDies.addrOf, R.cascStatPresent.addrOf, R.cascHbRank.addrOf, I.chipFenceChg.addrOf, R.detFpGen.addrOf, R.detFpTickLo.addrOf,
    R.detFpTickHi.addrOf, R.detFpPending.addrOf]

/-- The dwords that a discovery conflict may change: DISC.STAT, its cause, and the link state and cause of every TRUNK and DROP port (R275). -/
def conflictAddrs : List Nat :=
  [R.discStatPhase.addrOf, I.discConflict.addrOf] ++ (List.range 64).flatMap (fun q => [R.portLinkState.addrOf q, I.portLost.addrOf q])

/-- The dwords that an access error may change: PAGE_STAT of the page, and CHIP.ACC, ACC_ADDR, ACC_CNT and the CHIP page's causes (R952). -/
def accAddrs (t : PageType) (i : Nat) : List Nat :=
  [R.hdrStatAccessErr.addrOf (pageIndex t i), R.chipAccCntCount.addrOf, R.chipAccKind.addrOf, R.chipAccAddrAddr.addrOf, I.chipAccess.addrOf]

/-- The units of the die are as they were: all of its state but the register file, the latches' free-value counter, what causes and logs carry with
them (vectors, error log, cave, wake state, telemetry) and what has left the die. -/
structure KeepsUnits (d e : Die) : Prop where
  latch : e.latch = d.latch
  tick : e.tick = d.tick
  ports : e.ports = d.ports
  casc : e.casc = d.casc
  disc : e.disc = d.disc
  sw : e.sw = d.sw
  harp : e.harp = d.harp
  dlv : e.dlv = d.dlv
  ten : e.ten = d.ten
  hoops : e.hoops = d.hoops
  withholding : e.withholding = d.withholding
  vats : e.vats = d.vats
  plans : e.plans = d.plans
  coll : e.coll = d.coll
  det : e.det = d.det
  own : e.own = d.own
  sec : e.sec = d.sec
  host : e.host = d.host
  smb : e.smb = d.smb
  boot : e.boot = d.boot
  pwr : e.pwr = d.pwr
  returned : e.returned = d.returned

/-- The effect reaches the dwords listed and what reports and logged records carry with them: vectors, the error log, the host link's wake state,
energy accounts and counters, what leaves the die, and the cave where ERRLOG.CFG.MIRROR is set. -/
structure OnlyLogs (d e : Die) (as : List Nat) : Prop where
  units : KeepsUnits d e
  telem : e.telem = { d.telem with cnt := e.telem.cnt, acct := e.telem.acct }
  cave : d.get R.errlogCfgMirror = 0 → e.cave = d.cave
  out : d.out <+: e.out
  regs : ∀ a, a ∉ as → a ∉ logAddrs → e.dword a = d.dword a

/-- The effect reaches the dwords listed, and beside them only what counters and causes carry with them: telemetry's counters, the pending bits and
gaps of vectors, and what leaves the die. -/
structure OnlyReports (d e : Die) (as : List Nat) : Prop where
  units : KeepsUnits d e
  fresh : e.fresh = d.fresh
  err : e.err = d.err
  wake : e.wake = d.wake
  cave : e.cave = d.cave
  telem : e.telem = { d.telem with cnt := e.telem.cnt }
  out : d.out <+: e.out
  regs : ∀ a, a ∉ as → e.dword a = d.dword a

/-- The effect reaches the registers only, and of these only the dwords at the addresses listed. -/
structure OnlyRegs (d e : Die) (as : List Nat) : Prop where
  units : KeepsUnits d e
  fresh : e.fresh = d.fresh
  err : e.err = d.err
  wake : e.wake = d.wake
  cave : e.cave = d.cave
  telem : e.telem = d.telem
  msix : e.msix = d.msix
  out : e.out = d.out
  regs : ∀ a, a ∉ as → e.dword a = d.dword a

end Sys2Proof.Machine
end

