-- ==== Sys2Proof/Certificates/Slice0/Obligations.lean ====
section
/-!
DEFINITION. Certificates/Slice0/Obligations.lean: the statements for the provers, from the spec's numbered rules: what the commands do, how far they
reach, and what holds of the whole block. Each docstring names the rules that it follows.
-/
section Statements
open Sys2Proof Sys2Proof.Machine

/-! ### The block: its queue, its steps and its reset -/

/-- a step takes the command at the front of the queue and runs it on the rest; with an empty queue the block idles (the model's choice, log entry 1). -/
def Obligations.StepRunsFront : Prop :=
  (∀ (c : Instr) (s : State) (rest : List Instr), s.pending = c :: rest → step s = exec c { s with pending := rest }) ∧
  ∀ s : State, s.pending = [] → step s = .next s

/-- every command ends in a next state and leaves the queue as it was. -/
def Obligations.CommandsKeepQueue : Prop := ∀ (i : Instr) (s : State), ∃ e : Die, Becomes i s e

/-- as many steps as commands wait empty the queue, and none of them stops. -/
def Obligations.QueueDrains : Prop :=
  ∀ (s : State) (n : Nat), ∃ t : State, core.run n s = .next t ∧ t.pending = s.pending.drop n

/-- a die that is held in reset, browned out or tripped keeps its state through every command that does not reach its reset pin, its supply or its test
port (R988, R1024, R1050; log entry 114). -/
def Obligations.HeldDieIsInert : Prop :=
  ∀ s t : State, step s = .next t → s.die.alive = false → (∀ c ∈ s.pending, reachesHeldDie c = false) →
    t.die = s.die ∧ t.pending = s.pending.tail ∧ t.die.alive = false ∧ ∀ c ∈ t.pending, reachesHeldDie c = false

/-- Fields at the values that the Reset columns of the register tables give (R21), on every page that carries them. Right after reset no command waits, the
die runs, nothing has left it, its error log is empty, and every memory is in canonical form. -/
def Obligations.ResetState : Prop :=
  (let d := State.reset.die
  d.get R.chipIdentPart = 0x960 ∧ d.get R.tickCfgLen = 2 ∧ d.tickCycles = 5000 ∧ d.tick.count = 0 ∧ d.get R.discStatHops = 15
    ∧ d.get R.cascTopoMode = 2 ∧ d.get R.errlogCfgPinSev = 3 ∧ d.get R.errlogCfgMirror = 1 ∧ d.get R.errlogCfgWdog = 10
    ∧ d.get R.pwrThermCtlWarn = 100 ∧ d.get R.pwrThermCtlCrit = 108 ∧ d.get R.hoopSplitA = 16 ∧ d.get R.hoopSplitB = 32
    ∧ d.get R.hoopSplitC = 64 ∧ d.get R.hoopCfgDrsv = 4 ∧ d.get R.harpCfgWinit = 128 ∧ d.get R.harpNallotAllot = 260
    ∧ d.get R.caveMgmtGib = 8 ∧ d.get R.caveShare0Vat = 40 ∧ d.get R.telemRingLen = 2
    ∧ (∀ p : Fin 64, d.get R.portGrant p.val = 2048 ∧ d.get R.portDlvCfgRto p.val = 16 ∧ d.get R.portDlvCfgRtoMax p.val = 256
        ∧ d.get R.portCcMarkThresh p.val = 64 ∧ d.link p.val = 0)
    ∧ (∀ v : Fin 32, d.get R.vatBrineCfgStride v.val = 64 ∧ d.hget R.hdrCtlEnable .vat v.val = 1 ∧ d.hget R.hdrCtlFence .vat v.val = 0)) ∧
  (State.reset.pending = [] ∧ State.reset.die.alive = true ∧ State.reset.die.out = [] ∧ State.reset.die.err.log = []
    ∧ State.reset.die.memWf = true)

/-! ### Bytes, bits and lanes -/

/-- multi-byte fields are little-endian, and n bytes and the number they spell give each other (R14). -/
def Obligations.LittleEndianBytes : Prop :=
  (∀ n v : Nat, (leBytes n v).length = n ∧ leNat (leBytes n v) = v % 2 ^ (8 * n)) ∧
  (∀ bs : List Byte, leBytes bs.length (leNat bs) = bs) ∧
  (∀ n v i : Nat, i < n → (leBytes n v).getD i 0 = BitVec.ofNat 8 (v / 256 ^ i))

/-- the descrambler undoes the scrambler from any common history, and 58 bits bring a descrambler of any history into step (R161, R162). -/
def Obligations.ScramblerIsSelfSynchronous : Prop :=
  (∀ (h : BitVec 58) (bs : List Bool), descramble h (scramble h bs).1 = (bs, (scramble h bs).2)) ∧
  (∀ (h k : BitVec 58) (first rest : List Bool), 58 ≤ first.length →
    (descramble h (first ++ rest)).1.drop first.length = (descramble k (first ++ rest)).1.drop first.length)

/-- what a lane receives of a sent superframe without errors is what was sent: 516 symbols, valid headers, and the 4,864 data bits and 56 supervisory
bits back, with the same history (R154, R158, R161 to R163, R166). -/
def Obligations.LaneSuperframeRoundTrip : Prop :=
  ∀ (h : BitVec 58) (data sup : List Bool), data.length = 4864 → sup.length = 56 →
    (sfEncode h data sup).1.length = 516 ∧ sfBadHdrs ((sfEncode h data sup).1.flatMap symBits) = 0 ∧
    descramble h (sfStream ((sfEncode h data sup).1.flatMap symBits)) = (data ++ sup, (sfEncode h data sup).2)

/-! ### Registers and accesses -/

/-- A write of a register by the steward stores what was written and counts no error; a read of a register with an RC field answers its value and clears it
(R14, R24, R139, R951, R953). A read of the low half of a pair latches the high half for its own class, and a read of the high half answers the latch (R955):
TICK.COUNT. An access to an unimplemented page ends as Unsupported Request, shows in the CHIP page and is latched there; a read of a page under reset answers
0xDEAD0000 plus its index and changes nothing in the page (R908, R951, R952). -/
def Obligations.RegisterAccesses : Prop :=
  (∀ (s : State) (n : Fin 4) (w v : Word), Serves s .chip 0 →
    Completes (.registerWrite (ownAccess s.die (0x70 + 4 * n.val) (wordBytes w))) s (fun e =>
      e.dword (0x70 + 4 * n.val) = w ∧ OnlyRegs s.die e [0x70 + 4 * n.val, R.chipAccCntCount.addrOf]
        ∧ e.get R.chipAccCntCount = s.die.get R.chipAccCntCount) ∧
    Completes (.rcRead (ownAccess s.die 0x68 (wordBytes v))) s (fun e =>
      e.out = s.die.out ++ [.answer .steward (0x4000000 * s.die.pos + 0x68) .ok (leBytes 4 (s.die.get R.chipAccCntCount))]
        ∧ e.get R.chipAccCntCount = 0 ∧ OnlyRegs s.die { e with out := s.die.out } [R.chipAccCntCount.addrOf])) ∧
  (∀ (s : State) (w : Word), Serves s .tick 0 →
    Completes (.pairLowRead (ownAccess s.die 0x1048 (wordBytes w))) s (fun e =>
      e.out = s.die.out ++ [.answer .steward (0x4000000 * s.die.pos + 0x1048) .ok (leBytes 4 (s.die.tick.count.toNat % 2 ^ 32))]
        ∧ smapGet 0 e.latch (Die.latchKey 0x104C .steward) = BitVec.ofNat 32 (s.die.tick.count.toNat / 2 ^ 32)
        ∧ OnlyRegs s.die { e with out := s.die.out, latch := s.die.latch } []) ∧
    Completes (.rcRead (ownAccess s.die 0x104C (wordBytes w))) s (fun e =>
      e.out = s.die.out ++ [.answer .steward (0x4000000 * s.die.pos + 0x104C) .ok
          (leBytes 4 (smapGet 0 s.die.latch (Die.latchKey 0x104C .steward)).toNat)]
        ∧ OnlyRegs s.die { e with out := s.die.out } [])) ∧
  (∀ (s : State) (w : Word), s.die.alive = true →
    Completes (.rcRead (ownAccess s.die 0xF040 (wordBytes w))) s (fun e =>
      e.out.getLast? = some (.answer .steward (0x4000000 * s.die.pos + 0xF040) .ur [])
        ∧ e.hget R.hdrStatAccessErr .chip = 1 ∧ e.get R.chipAccCntCount = s.die.counted R.chipAccCntCount ∧ e.get R.chipAccValid = 1
        ∧ (s.die.get R.chipAccValid = 0 → e.get R.chipAccKind = 1 ∧ e.get R.chipAccClass = 0 ∧ e.get R.chipAccWrite = 0
            ∧ e.get R.chipAccAddrAddr = 0xF040 ∧ e.hasCause I.chipAccess = true)
        ∧ OnlyReports s.die e (accAddrs .chip 0)) ∧
    (s.die.underReset .vat 3 = true →
      Completes (.rcRead (ownAccess s.die 0xA3054 (wordBytes w))) s (fun e =>
        e.out.getLast? = some (.answer .steward (0x4000000 * s.die.pos + 0xA3054) .reset (leBytes 4 (0xDEAD0000 + 0xA3)))
          ∧ e.get R.errlogBusyrst = s.die.counted R.errlogBusyrst ∧ Logged s.die e (pageIndex .errlog 0) 0x0D00 0
          ∧ OnlyLogs s.die e [R.errlogBusyrst.addrOf])))

/-- The commands of the SMBus target port: RADDR keeps an address; RREAD answers the register there with status 0 and RWRITE writes it; an MCTP packet counts;
a bad PEC or an unknown command counts as an error (R975). A management write stores its dword and is not answered; a management read is answered with an MRSP
that carries the dword and status 0; a read whose length is 0 or above 8 is answered as Unsupported Request (R959, R960). -/
def Obligations.SmbusAndManagement : Prop :=
  (∀ (s : State) (n : Fin 4) (w : Word) (data : List Byte) (code : BitVec 8) (badPec : Bool), s.die.alive = true →
    Completes (.raddr w) s (fun e => e.smb = { s.die.smb with raddr := w.setWidth 26 } ∧ e.get R.smbTgtXfer = s.die.counted R.smbTgtXfer
      ∧ OnlyReports s.die { e with smb := s.die.smb } [R.smbTgtXfer.addrOf]) ∧
    (s.die.underReset .chip 0 = false → s.die.smb.raddr.toNat = 0x70 + 4 * n.val →
      Completes .smbRread s (fun e => e.out = s.die.out ++ [.smbReply (leBytes 4 (s.die.dword (0x70 + 4 * n.val)).toNat ++ [0])]
        ∧ e.get R.smbTgtXfer = s.die.counted R.smbTgtXfer ∧ OnlyReports s.die e [R.smbTgtXfer.addrOf]) ∧
      Completes (.smbRwrite w) s (fun e => e.dword (0x70 + 4 * n.val) = w ∧ e.get R.smbTgtXfer = s.die.counted R.smbTgtXfer
        ∧ OnlyReports s.die e [0x70 + 4 * n.val, R.smbTgtXfer.addrOf, R.chipAccCntCount.addrOf])) ∧
    Completes (.mctp data) s (fun e => e.get R.smbTgtXfer = s.die.counted R.smbTgtXfer ∧ OnlyReports s.die e [R.smbTgtXfer.addrOf]) ∧
    (badPec = true ∨ code.toNat < 0x0F ∨ 0x12 < code.toNat →
      Completes (.smbTargetUnknownCommand code badPec) s (fun e => e.get R.smbTgtErr = s.die.counted R.smbTgtErr ∧ e.hasCause I.smbTgtErr = true
        ∧ OnlyReports s.die e [R.smbTgtErr.addrOf, I.smbTgtErr.addrOf]))) ∧
  (∀ (s : State) (n : Fin 4) (pk : Packet) (w : Word), Serves s .chip 0 → pk.arg.toNat % 16 = 4 → pk.addr.toNat % 0x4000000 = 0x70 + 4 * n.val →
    (pk.payload = leBytes 4 w.toNat → Completes (.mwr pk) s (fun e => e.dword (0x70 + 4 * n.val) = w
      ∧ OnlyRegs s.die e [0x70 + 4 * n.val, R.chipAccCntCount.addrOf])) ∧
    Becomes (.mrd pk) s (s.die.mgmtReply pk .ok (leBytes 4 (s.die.dword (0x70 + 4 * n.val)).toNat)))

/-- a write through the plan-memory window to a page that no loaded plan uses stores the enabled bytes and no others; to a page in use it is refused with
kind WINDOW (R612, R729, R961, R963). -/
def Obligations.PlanWindowWrites : Prop :=
  ∀ (s : State) (a : Nat) (w : Word), Serves s .plan 0 → a % 64 ≤ 60 → a + 4 ≤ 0x800000 →
    (s.die.planPageUsed (a / 4096) = false →
      Completes (.bulkWindowAccess (ownAccess s.die (0x800000 + a) (wordBytes w)) true [] []) s (fun e =>
        (∀ k, smapGet 0 e.plans.mem k = if a ≤ k ∧ k < a + 4 then (leBytes 4 w.toNat).getD (k - a) 0 else smapGet 0 s.die.plans.mem k)
          ∧ e.plans = { s.die.plans with mem := e.plans.mem } ∧ OnlyRegs s.die { e with plans := s.die.plans } [])) ∧
    (s.die.planPageUsed (a / 4096) = true →
      Completes (.bulkWindowAccess (ownAccess s.die (0x800000 + a) (wordBytes w)) true [] []) s (fun e =>
        e.plans = s.die.plans ∧ e.hget R.hdrStatAccessErr .chip = 1 ∧ (s.die.get R.chipAccValid = 0 → e.get R.chipAccKind = 10)
          ∧ OnlyReports s.die e (accAddrs .chip 0)))

/-! ### The tick, run-downs and page controls (spec 02, 22, 24) -/

/-- TICK.CFG.LEN takes a length code while no plan is loaded and the phase allows it; the length in force stays until an edge, and the fingerprint is to
change there. A locked page, a reserved code, a loaded plan or another phase discards the write and sets ACCESS_ERR (R19, R22, R58, R66). At a tick edge the
counter advances by one, wraps to 0 with COUNT_WRAP, and what TICK.CFG.LEN holds comes into force; the edge's other effects follow on what that leaves (R66,
R68, R71; spec 95, TICK_EDGE). A collective in overrun in five consecutive ticks is marked SLOW; the cause sets and TICK.SLOW_CNT counts, and nothing else
changes (R83). -/
def Obligations.TickEffects : Prop :=
  (∀ (s : State) (c : Cls) (w : Word), Serves s .tick 0 →
    let v := w.toNat % 8
    let d := s.die
    (d.locked .tick = false → v ≤ 4 → d.planLoaded = false → (d.get R.cascTopoMode = 0 ∨ d.phase = 0 ∨ d.phase = 8 ∨ d.phase = 10) →
      Completes (.tickCfgLenWrite c w) s (fun e => e.get R.tickCfgLen = v ∧ e.tickCycles = d.tickCycles
        ∧ e.det = { d.det with dirty := d.det.dirty || decide (v ≠ d.get R.tickCfgLen) }
        ∧ OnlyRegs d { e with det := d.det } [R.tickCfgLen.addrOf])) ∧
    (d.locked .tick = true ∨ 4 < v ∨ d.planLoaded = true ∨ ¬ (d.get R.cascTopoMode = 0 ∨ d.phase = 0 ∨ d.phase = 8 ∨ d.phase = 10) →
      Completes (.tickCfgLenWrite c w) s (fun e => e.get R.tickCfgLen = d.get R.tickCfgLen ∧ e.hget R.hdrStatAccessErr .tick = 1
        ∧ OnlyReports d e (accAddrs .tick 0)))) ∧
  (∀ (s : State) (x : EdgeIn), s.die.alive = true →
    (∃ d : Die, d = s.die.edgeCount ∧ d.tick.count = s.die.tick.count + 1
      ∧ (s.die.tick.count = BitVec.allOnes 48 → d.hasCause I.tickCountWrap = true)
      ∧ OnlyReports s.die { d with tick := s.die.tick } [I.tickCountWrap.addrOf] ∧ d.edgeInForce.tick.len.toNat = d.get R.tickCfgLen
      ∧ d.edgeInForce.tick.count = d.tick.count) ∧
    Becomes (.tickEdge x) s ((((((s.die.edgeTime x).edgeUnits).edgeFabric).edgeCompute x).edgeHost x).edgeFp).edgeReady) ∧
  (∀ (s : State) (g : BitVec 12) (r : CollRun), s.die.alive = true → (s.die.group g.toNat).run = some r → r.slow = false →
    5 ≤ smapGet 0 s.die.tick.ovrRun g.toNat →
    Completes (.slow g) s (fun e =>
      ChangesGroup s.die e g.toNat { s.die.group g.toNat with run := some { r with slow := true } }
        ∧ e.get R.tickSlowCntSlow = s.die.counted R.tickSlowCntSlow ∧ e.hasCause I.tickSlow = true
        ∧ OnlyReports s.die { e with coll := s.die.coll } [R.tickSlowCntSlow.addrOf, I.tickSlow.addrOf]))

/-- A run-down that is requested of the die, a port or a vat sets PAGE_CTL.run-down; a unit in service enters CLOSING with the bound of its plans, and one
already in a run-down keeps its phase and its bound (R89, R90, R93, R97, R948). A vat's run-down is cleared: one that still runs down goes on to IDLE and
remembers the clear; an idle one is to re-open at the next edge unless a reset or a cleared enable holds it (R96, R946). A draining vat in which nothing
admitted remains is IDLE: its page shows it and reports the end of the run-down, and a gated vat's clocks stop (R94, R946, R948). At the end of its bound a
draining unit is cut, and what it leaves is IDLE; what the cut leaves of a vat has no tile waiting (R93 to R95). What an edge makes of a unit's run-down:
CLOSING ends and the unit admits no new work, the bound counts down, an idle unit that may re-open runs again, and no other unit's run-down changes (R90, R91,
R93, R96). -/
def Obligations.RundownPhases : Prop :=
  (∀ (s : State) (c : Cls) (u : UnitId) (t : PageType) (i : Nat), unitPage u = some (t, i) → Serves s t i →
    let r := s.die.rundown u
    let closing : RunDown := { r with phase := .closing, bound := s.die.unitBound u, cleared := false, reopen := false }
    Completes (.rundownRequest c u) s (fun e =>
      e.hget R.hdrCtlRundown t i = 1 ∧ ChangesRundown s.die e u (if r.phase = .run then closing else { r with cleared := false, reopen := false })
        ∧ e.hget R.hdrStatState t i = phaseCode (e.rundown u).phase
        ∧ OnlyRegs s.die { e with tick := s.die.tick }
            [R.hdrCtlRundown.addrOf (pageIndex t i), R.hdrStatState.addrOf (pageIndex t i), R.tickRdStatActive.addrOf])) ∧
  (∀ (s : State) (c : Cls) (v : BitVec 5), Serves s .vat v.toNat →
    let r := s.die.rundown (.vat v)
    let shown : RunDown := match r.phase with
      | .run => r
      | .idle => { r with reopen := !r.reset && s.die.hget R.hdrCtlEnable .vat v.toNat == 1 }
      | _ => { r with cleared := true }
    Completes (.rundownClear c (.vat v)) s (fun e =>
      e.hget R.hdrCtlRundown .vat v.toNat = 0 ∧ ChangesRundown s.die e (.vat v) shown
        ∧ OnlyRegs s.die { e with tick := s.die.tick }
            [R.hdrCtlRundown.addrOf (pageIndex .vat v.toNat), R.hdrStatState.addrOf (pageIndex .vat v.toNat)])) ∧
  (∀ (s : State) (v : BitVec 5), s.die.alive = true →
    let r := s.die.rundown (.vat v)
    r.phase = .draining → s.die.unitEmpty (.vat v) = true →
    Completes (.rundownIdle (.vat v)) s (fun e =>
      ChangesRundown s.die e (.vat v) { r with phase := .idle, left := 0, cleared := false, reopen := s.die.mayReopen (.vat v) }
        ∧ e.hget R.hdrStatState .vat v.toNat = 3 ∧ e.hasCause I.vatRundownDone v.toNat = true
        ∧ e.hget R.hdrStatGated .vat v.toNat = (if r.gate then 1 else s.die.hget R.hdrStatGated .vat v.toNat)
        ∧ OnlyReports s.die { e with tick := s.die.tick } [R.hdrStatState.addrOf (pageIndex .vat v.toNat), I.vatRundownDone.addrOf v.toNat])) ∧
  (∀ (s : State) (u : UnitId) (d : Die) (v : BitVec 5), s.die.alive = true →
    ((s.die.rundown u).phase = .draining → (s.die.rundown u).left = 0 → Becomes (.rundownBoundEnd u) s ((s.die.cutUnit u).goIdle u)) ∧
    ((d.cutUnit (.vat v)).vat v.toNat).queue = []) ∧
  (∀ (d : Die) (u : UnitId),
    let r := d.rundown u
    (r.phase = .run → d.edgeRundown u = d) ∧
    (r.phase = .closing → (d.edgeRundown u).rundown u = { r with phase := .draining, left := r.bound } ∧ (d.edgeRundown u).phaseOpen u = false) ∧
    (r.phase = .draining → (d.edgeRundown u).rundown u = { r with left := r.left - 1 }) ∧
    (r.phase = .idle → (d.edgeRundown u).rundown u = if r.reopen && !r.reset then RunDown.none else r) ∧
    (∀ v, v ≠ u → (d.edgeRundown u).rundown v = d.rundown v))

/-- Clearing enable of a vat page starts a run-down after which the vat is to be gated, at once if it is idle; setting it again takes that back (R946). A
reset or a fence that is asked of a unit in service runs it down first; a vat's fence is cleared by a write of 0 unless its page holds a UNIT_FATAL record,
which discards the write (R98, R905, R914, R916, R947). -/
def Obligations.PageControls : Prop :=
  (∀ (s : State) (c : Cls) (v : BitVec 5), Serves s .vat v.toNat →
    let r := s.die.rundown (.vat v)
    let closing : RunDown := { r with phase := .closing, bound := s.die.unitBound (.vat v), cleared := false, gate := true, reopen := false }
    Completes (.pageEnableWrite c (.vat v) true) s (fun e =>
      e.hget R.hdrCtlEnable .vat v.toNat = 1 ∧ ChangesRundown s.die e (.vat v) { r with gate := false }
        ∧ OnlyRegs s.die { e with tick := s.die.tick } [R.hdrCtlEnable.addrOf (pageIndex .vat v.toNat), R.hdrStatState.addrOf (pageIndex .vat v.toNat)]) ∧
    Completes (.pageEnableWrite c (.vat v) false) s (fun e =>
      e.hget R.hdrCtlEnable .vat v.toNat = 0
        ∧ ChangesRundown s.die e (.vat v) (if r.phase = .run then closing else { r with gate := true, reopen := false })
        ∧ e.hget R.hdrStatGated .vat v.toNat = (if r.phase = .idle then 1 else s.die.hget R.hdrStatGated .vat v.toNat)
        ∧ OnlyRegs s.die { e with tick := s.die.tick } [R.hdrCtlEnable.addrOf (pageIndex .vat v.toNat), R.hdrStatState.addrOf (pageIndex .vat v.toNat)])) ∧
  (∀ (s : State) (c : Cls) (v : BitVec 5) (p : BitVec 6),
    (Serves s .vat v.toNat → (s.die.rundown (.vat v)).phase = .run →
      Completes (.pageResetRequest c (.vat v)) s (fun e =>
        ChangesRundown s.die e (.vat v) { s.die.rundown (.vat v) with
            phase := .closing, bound := s.die.unitBound (.vat v), cleared := false, reset := true, reopen := false }
          ∧ OnlyRegs s.die { e with tick := s.die.tick } [R.hdrStatState.addrOf (pageIndex .vat v.toNat)])) ∧
    (Serves s .port p.toNat → (s.die.rundown (.port p)).phase = .run → s.die.hget R.hdrCtlFence .port p.toNat = 0 →
      Completes (.pageFenceRequest c (.port p)) s (fun e =>
        e.hget R.hdrCtlFence .port p.toNat = 1
          ∧ ChangesRundown s.die e (.port p) { s.die.rundown (.port p) with
              phase := .closing, bound := s.die.unitBound (.port p), cleared := false, fence := true, reopen := false }
          ∧ OnlyRegs s.die { e with tick := s.die.tick }
              [R.hdrCtlFence.addrOf (pageIndex .port p.toNat), R.hdrStatState.addrOf (pageIndex .port p.toNat)])) ∧
    (Serves s .vat v.toNat → s.die.hget R.hdrCtlFence .vat v.toNat = 1 → s.die.fatalHeld .vat v.toNat = false →
      Completes (.pageUnfence c (.vat v)) s (fun e =>
        e.hget R.hdrCtlFence .vat v.toNat = 0 ∧ OnlyRegs s.die e [R.hdrCtlFence.addrOf (pageIndex .vat v.toNat)])) ∧
    (Serves s .vat v.toNat → s.die.hget R.hdrCtlFence .vat v.toNat = 1 → s.die.fatalHeld .vat v.toNat = true →
      Completes (.pageUnfence c (.vat v)) s (fun e =>
        e.hget R.hdrCtlFence .vat v.toNat = 1 ∧ e.hget R.hdrStatAccessErr .vat v.toNat = 1)))

/-! ### Errors, the watchdog and RETRY (spec 22) -/

/-- a page FIFO keeps its records in descending severity and never holds more than 8; a record finds room at once while fewer than 8 stand there, and only a
record above CORRECTED that finds 8 records none of which it may displace must wait as PEND (R894, R896, R897). -/
def Obligations.ErrorFifoOrder : Prop :=
  ∀ (p : PageErr) (r : ErrRec), p.fifo.Pairwise (fun a b => b.sev.toNat ≤ a.sev.toNat) → p.fifo.length ≤ 8 →
    (p.offer r).1.fifo.Pairwise (fun a b => b.sev.toNat ≤ a.sev.toNat) ∧ (p.offer r).1.fifo.length ≤ 8
      ∧ (p.fifo.length < 8 → (p.offer r).1.fifo.length = p.fifo.length + 1 ∧ (p.offer r).2 = false ∧ (p.offer r).1.dropped = p.dropped)
      ∧ ((p.offer r).2 = true → r.sev ≠ 0 ∧ (∀ x ∈ p.fifo, x.sev ≠ 0) ∧ (p.offer r).1 = { p with stall := true })

/-- A read of PAGE_ERR_HEAD answers the next dword of the head record and goes on to the one after it; an empty FIFO reads 0 (R894). PAGE_ERR_POP: POP removes
the head and rewinds, REWIND and CLRCNT act on their own parts, each for one page alone; where a PEND record or a held command waits, POP also lets that in
(R894, R902). -/
def Obligations.ErrorHeadReadsAndPops : Prop :=
  (∀ (s : State) (c : Cls) (page : BitVec 10) (t : PageType) (i : Nat), pageAt page.toNat = some (t, i) → Serves s t i →
    let p := s.die.pageErr page.toNat
    let w : Nat := match p.fifo with
      | [] => 0
      | r :: _ => leNat ((r.bytes.drop (4 * p.k)).take 4)
    Completes (.errHeadRead c page) s (fun e =>
      e.out = s.die.out ++ [.answer c (0x1000 * page.toNat + 0x10) .ok (leBytes 4 (w % 2 ^ 32))]
        ∧ ChangesPageErr s.die e page.toNat (if p.fifo.isEmpty then p else { p with k := (p.k + 1) % 8 })
        ∧ OnlyRegs s.die { e with out := s.die.out, err := s.die.err } [])) ∧
  (∀ (s : State) (c : Cls) (page : BitVec 10) (t : PageType) (i : Nat), pageAt page.toNat = some (t, i) → Serves s t i →
    let p := s.die.pageErr page.toNat
    Completes (.rewind c page) s (fun e =>
      ChangesPageErr s.die e page.toNat { p with k := 0 } ∧ OnlyRegs s.die { e with err := s.die.err } []) ∧
    Completes (.clrcnt c page) s (fun e =>
      ChangesPageErr s.die e page.toNat { p with dropped := 0 } ∧ OnlyRegs s.die { e with err := s.die.err } []) ∧
    (s.die.pendOf page.toNat = [] → s.die.err.waiting = [] → s.die.hoops.held = [] →
      Completes (.pop c page) s (fun e =>
        ChangesPageErr s.die e page.toNat { p with fifo := p.fifo.drop 1, k := 0 } ∧ OnlyReports s.die { e with err := s.die.err } [])))

/-- The watchdog's period without a KICK logs STEWARD_WDOG once and sets its cause; KICK lets it speak again; LOCK is set by a write to a page that is not
locked, and a locked page discards the write (R22, R902, R950). A RETRY whose epoch is not the requester's is discarded and counted as stale; another is
counted and waits for the next edge, at which the oldest returned request is sent again (R911 to R913). -/
def Obligations.WatchdogLockAndRetry : Prop :=
  (∀ (s : State) (c : Cls) (page : BitVec 10) (t : PageType) (i : Nat), s.die.alive = true →
    (s.die.get R.errlogCfgWdog ≠ 0 → s.die.err.wdogLogged = false → s.die.boot.stage ≠ 0 →
      Completes .stewardWdog s (fun e => e.err.wdogLogged = true ∧ Logged s.die e (pageIndex .errlog 0) 0x0D01 1
        ∧ e.hasCause I.errlogWdog = true ∧ OnlyLogs s.die e [])) ∧
    (Serves s .errlog 0 → Completes (.kick c) s (fun e =>
      e.err = { s.die.err with wdogLogged := false } ∧ OnlyRegs s.die { e with err := s.die.err } [])) ∧
    (pageAt page.toNat = some (t, i) → Serves s t i → s.die.locked t i = false →
      Completes (.pageLockWrite c page) s (fun e =>
        e.locked t i = true ∧ OnlyRegs s.die e [R.hdrLock.addrOf (pageIndex t i)])) ∧
    (pageAt page.toNat = some (t, i) → Serves s t i → s.die.locked t i = true →
      Completes (.pageLockWrite c page) s (fun e =>
        e.locked t i = true ∧ e.hget R.hdrStatAccessErr t i = 1 ∧ OnlyReports s.die e (accAddrs t i)))) ∧
  (∀ (s : State) (pk : Packet), s.die.alive = true → pk.op = 0x24 →
    (pk.epoch.toNat ≠ s.die.hget R.hdrEpoch .coll (pk.group.toNat / 256) →
      Completes (.retry pk) s (fun e => e.get R.errlogStale = s.die.counted R.errlogStale ∧ OnlyReports s.die e [R.errlogStale.addrOf])) ∧
    (pk.epoch.toNat = s.die.hget R.hdrEpoch .coll (pk.group.toNat / 256) →
      Completes (.retry pk) s (fun e =>
        (∃ x : Nat × Nat × Nat × Nat, e.returned = s.die.returned ++ [x] ∧ x.2.1 = leNat (pk.payload.take 8) / 2 ^ 16 % 4
            ∧ x.2.2.2 = leNat (pk.payload.take 8) / 2 ^ 32 % 2 ^ 32)
          ∧ e.get R.errlogRetry = s.die.counted R.errlogRetry
          ∧ OnlyReports s.die { e with returned := s.die.returned } [R.errlogRetry.addrOf])) ∧
    (∀ x r, s.die.returned = x :: r → Completes .requestReissue s (fun e => e = s.die.reissue ∧ e.returned = r)))

/-! ### The cascade (spec 03) -/

/-- The master's window ends, or die 1's without a hello from position 0: a refusal cause refuses the node, is shown and logged as UNIT_FATAL; without one the
node is announced with this die as acting master, and a mask that holds it (R131 to R133, R135). A response to a forwarded read answers it and retires it, one
with another epoch is discarded and counted; a read without an answer for 16 ticks ends as Unsupported Request, with FWD_TIMEOUT and CASC_FWD_LOST (R142,
R143, R911). -/
def Obligations.FormationAndForwarding : Prop :=
  (∀ (s : State) (gap : Bool), s.die.alive = true → s.die.forming = true →
    let ends (i : Instr) (g : Bool) : Prop :=
      (s.die.refusalCause g ≠ 0 → Completes i s (fun e =>
        e.get R.cascStatState = 2 ∧ e.get R.cascStatCause = s.die.refusalCause g ∧ Logged s.die e (pageIndex .casc 0) 0x0200 2
          ∧ e.hasCause I.cascRefused = true ∧ OnlyLogs s.die e [R.cascStatState.addrOf, I.cascRefused.addrOf])) ∧
      (s.die.refusalCause g = 0 → Completes i s (fun e =>
        e.get R.cascStatMaster = s.die.pos ∧ (∃ m : BitVec 4, e.casc = { s.die.casc with announced := some m } ∧ m.getLsbD s.die.pos = true)
          ∧ OnlyLogs s.die { e with casc := s.die.casc, det := s.die.det } (fenceAddrs ++ [I.cascDieMissing.addrOf])))
    (s.die.pos = 0 → ends (.cascFormWindowEnd gap) gap) ∧
    (s.die.pos = 1 → (s.die.heard.any (fun h => h.1 == 0)) = false → ends .actingMasterForm false)) ∧
  (∀ (s : State) (tag : BitVec 16) (ep : BitVec 8) (data : List Byte) (f : FwdAcc), s.die.alive = true →
    let gone : CascSt := { s.die.casc with forwarded := s.die.casc.forwarded.filter (fun g => g.tag != f.tag) }
    (ep.toNat ≠ s.die.hget R.hdrEpoch .casc →
      Completes (.fwdReadComplete tag ep data none) s (fun e =>
        e.get R.errlogStale = s.die.counted R.errlogStale ∧ OnlyReports s.die e [R.errlogStale.addrOf])) ∧
    (s.die.casc.forwarded.find? (fun f => f.tag == tag.toNat) = some f →
      (ep.toNat = s.die.hget R.hdrEpoch .casc → Becomes (.fwdReadComplete tag ep data none) s
        { s.die with casc := gone, out := s.die.out ++ [.answer f.cls f.addr .ok (data.take f.len)] }) ∧
      (16 ≤ f.ticks → Completes (.cascFwdLost tag) s (fun e =>
        e.casc = gone ∧ e.get R.cascErrFwdTimeout = 1 ∧ e.hasCause I.cascFwdLost = true ∧ Logged s.die e (pageIndex .casc 0) 0x0202 1
          ∧ e.out.getLast? = some (.answer f.cls f.addr .ur [])
          ∧ OnlyLogs s.die { e with casc := s.die.casc } [R.cascErrFwdTimeout.addrOf, I.cascFwdLost.addrOf]))))

/-- A heartbeat of the acting master sets both miss counts of a follower to 0 and is relayed once a tick to its other STACK peers; one of a fenced die changes
nothing (R146, R148, R323). A follower whose count of heartbeats is reached takes over where MALIVE does not live on: it acts, fences the old master and shows
TAKEOVER; where MALIVE lives on it treats itself as cut off, logs CASC_ISOLATED as UNIT_FATAL and runs down to be fenced (R134, R148 to R150). The acting
master fences a follower from which no packet came for 8 ticks, and logs CASC_DIE_LOST as CONTAINED (R904, R914). -/
def Obligations.HeartbeatsAndLostDies : Prop :=
  (∀ (s : State) (p : BitVec 6) (x : BitVec 2), s.die.alive = true → s.die.isStack p.toNat = true →
    (s.die.dieFenced x.toNat = true → Becomes (.hbeatRx p x) s s.die) ∧
    (s.die.dieFenced x.toNat = false → s.die.get R.cascStatState = 1 → x.toNat = s.die.master → s.die.isMaster = false →
      Completes (.hbeatRx p x) s (fun e =>
        e.get R.cascHbMiss = 0 ∧ e.get R.cascHbMaMiss = 0
          ∧ e.casc = { s.die.casc with hbSeen := true, silent := smapSet 0 s.die.casc.silent (s.die.attrOf p.toNat) 0 }
          ∧ e.out = s.die.out ++ (if s.die.casc.hbSeen then [] else
              ((List.range 64).filter (fun q => s.die.isStack q && s.die.link q == 2 && q != p.toNat)).map (fun q => Out.heartbeat q x.toNat))
          ∧ OnlyRegs s.die { e with casc := s.die.casc, out := s.die.out } [R.cascHbMiss.addrOf]))) ∧
  (∀ s : State, s.die.alive = true → s.die.beatsGone = true →
    (s.die.maliveLives = false → Completes .masterTakeover s (fun e =>
      e.get R.cascStatMaster = s.die.pos ∧ e.dieFenced s.die.master = true ∧ e.diePresent s.die.master = false ∧ e.get R.cascHbTakeover = 1
        ∧ e.get R.cascHbMiss = 0 ∧ e.get R.cascHbMaMiss = 0 ∧ e.hasCause I.cascTakeover = true ∧ e.casc = { s.die.casc with silent := [] }
        ∧ OnlyReports s.die { e with casc := s.die.casc, sw := s.die.sw, det := s.die.det } (fenceAddrs ++ [I.cascTakeover.addrOf]))) ∧
    (s.die.maliveLives = true → (s.die.rundown .die).phase = .run → (s.die.rundown .die).fence = false →
      Completes .cascIsolated s (fun e =>
        Logged s.die e (pageIndex .casc 0) 0x0203 2 ∧ e.hasCause I.cascIsolated = true
          ∧ ChangesRundown s.die e .die { s.die.rundown .die with
              phase := .closing, bound := s.die.unitBound .die, cleared := false, fence := true, reopen := false }
          ∧ OnlyLogs s.die { e with tick := s.die.tick }
              [I.cascIsolated.addrOf, R.hdrStatState.addrOf (pageIndex .tick 0), R.tickRdStatActive.addrOf]))) ∧
  (∀ (s : State) (x : BitVec 2), s.die.alive = true → s.die.get R.cascStatState = 1 → s.die.isMaster = true → x.toNat ≠ s.die.pos →
    s.die.diePresent x.toNat = true → 8 ≤ smapGet 0 s.die.casc.silent x.toNat →
    Completes (.cascDieLost x) s (fun e =>
      e.dieFenced x.toNat = true ∧ e.diePresent x.toNat = false ∧ Logged s.die e (pageIndex .casc 0) 0x0205 1
        ∧ (∀ y, y ≠ x.toNat → e.dieFenced y = s.die.dieFenced y ∧ e.diePresent y = s.die.diePresent y)
        ∧ OnlyLogs s.die { e with sw := s.die.sw, det := s.die.det } fenceAddrs))

/-! ### Lanes and links (spec 04, 05) -/

/-- A lane's CDR lock, block lock after it, superframe lock after that with its offset, and HINT_POL between the two each show in Ln_LSTAT; a port that is
DOWN goes to ALIGN with the lock of its fourth lane. Nothing else changes (R169, R171, R174, R182, R195). A lane that leaves superframe lock, or block lock
with it, is counted; its port is DOWN at once and OFFLINE, with LOST where it was ACTIVE, and grants from its input are padded. A lane that holds neither lock
stays as it is (R169, R173, R195, R244, R324). -/
def Obligations.LanesGainAndLoseLock : Prop :=
  (∀ (s : State) (p : BitVec 6) (l : BitVec 2) (ofs : Fin 20), s.die.alive = true →
    let d := s.die
    let lstat := R.laneqLaneLstatCdrLock.addrOf p.toNat l.toNat
    let has (e : Die) (f : Fld) : Bool := e.bit f p.toNat l.toNat
    Completes (.cdrLock p l) s (fun e => has e R.laneqLaneLstatCdrLock = true ∧ OnlyRegs d e [lstat]) ∧
    (has d R.laneqLaneLstatCdrLock = true → Completes (.blLock p l) s (fun e => has e R.laneqLaneLstatBlLock = true
      ∧ ChangesLane d e p.toNat l.toNat { d.lane p.toNat l.toNat with winPos := 0, winBad := 0 } ∧ OnlyRegs d { e with ports := d.ports } [lstat])) ∧
    (has d R.laneqLaneLstatBlLock = true → has d R.laneqLaneLstatSfLock = false → Completes (.hintPol p l) s (fun e =>
      has e R.laneqLaneLstatHintPol = true ∧ OnlyRegs d e [lstat])) ∧
    (has d R.laneqLaneLstatBlLock = true → Completes (.sfLock p l ofs) s (fun e =>
      has e R.laneqLaneLstatSfLock = true ∧ e.get R.laneqLaneLstatSfOfs p.toNat l.toNat = ofs.val ∧ has e R.laneqLaneLstatHintPol = false
        ∧ e.get R.laneqPstatState p.toNat = (if e.allSf p.toNat ∧ d.get R.laneqPstatState p.toNat = 0 then 1 else d.get R.laneqPstatState p.toNat)
        ∧ ChangesLane d e p.toNat l.toNat { d.lane p.toNat l.toNat with uncorrRun := 0, logRun := 0 }
        ∧ OnlyRegs d { e with ports := d.ports } [lstat, R.laneqPstatState.addrOf p.toNat]))) ∧
  (∀ (s : State) (p : BitVec 6) (l : BitVec 2) (bad : BitVec 6), s.die.alive = true →
    let d := s.die
    let has (e : Die) (f : Fld) : Bool := e.bit f p.toNat l.toNat
    let loss := R.laneqLaneLossSfLoss.addrOf p.toNat l.toNat
    let reach := [R.laneqLaneLstatSfLock.addrOf p.toNat l.toNat, loss, R.laneqLaneBadhdr.addrOf p.toNat l.toNat, R.laneqPstatState.addrOf p.toNat,
      R.portLinkState.addrOf p.toNat, I.laneqPortDown.addrOf p.toNat, I.portLost.addrOf p.toNat]
    let down (e : Die) : Prop := has e R.laneqLaneLstatSfLock = false ∧ e.get R.laneqPstatState p.toNat = 0 ∧ e.link p.toNat = 0
      ∧ (d.get R.laneqPstatState p.toNat = 2 → e.hasCause I.laneqPortDown p.toNat = true)
      ∧ (d.link p.toNat = 2 → e.hasCause I.portLost p.toNat = true ∧ (e.port p.toNat).leftUp = true)
      ∧ e.get R.laneqLaneLossSfLoss p.toNat l.toNat = d.counted R.laneqLaneLossSfLoss p.toNat l.toNat
      ∧ e.sw = (if d.link p.toNat = 0 then d.sw else (d.padInput p.toNat).sw)
    let frame (e : Die) : Prop := OtherPorts d e p.toNat ∧ OnlyReports d { e with ports := d.ports, sw := d.sw } reach
    (has d R.laneqLaneLstatSfLock = true → Completes (.sfLockLoss p l) s (fun e => down e ∧ frame e
      ∧ has e R.laneqLaneLstatBlLock = has d R.laneqLaneLstatBlLock)) ∧
    (has d R.laneqLaneLstatSfLock = false → Becomes (.sfLockLoss p l) s d) ∧
    (has d R.laneqLaneLstatBlLock = true → Completes (.blLockLoss p l bad) s (fun e => has e R.laneqLaneLstatBlLock = false
      ∧ e.get R.laneqLaneLossBlLoss p.toNat l.toNat = d.counted R.laneqLaneLossBlLoss p.toNat l.toNat
      ∧ e.get R.laneqLaneBadhdr p.toNat l.toNat = d.counted R.laneqLaneBadhdr p.toNat l.toNat bad.toNat
      ∧ (has d R.laneqLaneLstatSfLock = true → down e) ∧ (has d R.laneqLaneLstatSfLock = false → e.sw = d.sw) ∧ frame e)))

/-- alignment tried again: a lane map that is neither identity nor reversed logs LANE_MAP_BAD and a skew beyond 8 DESKEW_FAIL, each CONTAINED and once in a
bring-up; else the port is UP with its map, skew and latency, and enters INIT. A port that misses its bring-up logs LINK_DOWN; REHUNT takes an idle port's four
lanes out of lock and is refused for another; a superframe is taken only with all four lanes in lock (R176, R177, R179, R180, R195, R197, R198, R242). -/
def Obligations.PortBringUp : Prop :=
  ∀ (s : State) (c : Cls) (p : BitVec 6) (d0 d1 d2 d3 : BitVec 4) (lat : BitVec 12) (f : RxFrame), s.die.alive = true →
    let d := s.die
    let q := p.toNat
    let depths := [d0.toNat, d1.toNat, d2.toNat, d3.toNat]
    let skew := depths.foldl max 0 - depths.foldl min 15
    let tries := d.allSf q = true ∧ d.get R.laneqPstatState q = 1 ∧ (List.range 4).all (fun l => decide (3 ≤ (d.lane q l).logRun)) = true
    let fails (code : Nat) : Prop := Completes (.deskewRetry p d0 d1 d2 d3 lat) s (fun e =>
      (d.port q).alignBad = false → Logged d e (pageIndex .laneq q) code 1 ∧ e.hasCause I.laneqAlignBad q = true
        ∧ ChangesPort d e q { d.port q with alignBad := true } ∧ OnlyLogs d { e with ports := d.ports } [I.laneqAlignBad.addrOf q])
    (tries → d.laneMap q = none → fails 0x0402) ∧
    (∀ rev, tries → d.laneMap q = some rev → 8 < skew → fails 0x0403) ∧
    (∀ rev, tries → d.laneMap q = some rev → skew ≤ 8 → d.isDrop q = true → d.bit R.laneqPstatCentred q = false → (d.port q).recorded = false →
      Completes (.deskewRetry p d0 d1 d2 d3 lat) s (fun e =>
        e.get R.laneqPstatState q = 2 ∧ e.bit R.laneqPstatReversed q = rev ∧ e.get R.laneqPstatSkew q = skew ∧ e.get R.laneqLatCurlat q = lat.toNat
          ∧ e.link q = 1 ∧ e.get R.portLinkPs q = 0 ∧ e.hasCause I.laneqPortUp q = true ∧ (e.lane q 0).deskew = some d0.toNat
          ∧ (e.lane q 3).deskew = some d3.toNat ∧ (e.vc q 4).ret = 2048 ∧ (e.vc q 5).ret = 0 ∧ OtherPorts d e q)) ∧
    ((d.isTrunk q = true ∨ d.isStack q = true) → d.get R.laneqPstatState q ≠ 2 → Completes (.linkDown p) s (fun e =>
      Logged d e (pageIndex .laneq q) 0x0405 1 ∧ OnlyLogs d e [])) ∧
    (d.isDrop q = true → Becomes (.linkDown p) s d) ∧
    (d.underReset .laneq q = false → d.portIdle q = true → Completes (.rehunt c p) s (fun e =>
      (List.range 4).all (fun l => !e.bit R.laneqLaneLstatBlLock q l && !e.bit R.laneqLaneLstatSfLock q l) = true ∧ OtherPorts d e q)) ∧
    (d.underReset .laneq q = false → d.portIdle q = false → Completes (.rehunt c p) s (fun e =>
      e.hget R.hdrStatAccessErr .laneq q = 1 ∧ OnlyReports d e (accAddrs .laneq q))) ∧
    (d.allSf q = false → Becomes (.superframeRx p f) s d) ∧
    (d.allSf q = true → d.get R.portLinkPs q < 2 → Becomes (.superframeRx p f) s (d.superframeRx q f))

/-- CSYNC becomes due once in 1,024 superframes and on CSYNC_REQ; PS_ACK ends the request with the agreed state, PS_NAK ends it and shows its reason; 16
superframes without progress of MACK replay what is outstanding. Each changes its own port alone (R220, R222, R230, R245, R246). CSYNC: flits that SENT shows
and RCV does not are attributed and freed on their VC, and its open packet is discarded until the next HEAD; agreement changes nothing, and a difference
beyond G is a protocol error that is ignored (R209, R231). -/
def Obligations.PortMessagesAndRepair : Prop :=
  (∀ (s : State) (p : BitVec 6) (t : BitVec 2) (r : BitVec 4), s.die.alive = true →
    let d := s.die
    let x := d.port p.toNat
    Completes (.csyncPeriodic p) s (fun e => ChangesPort d e p.toNat { x with csyncDue := [0, 1, 2, 3] } ∧ OnlyRegs d { e with ports := d.ports } []) ∧
    (d.supervised p.toNat = true → Completes (.csyncReq p) s (fun e =>
      ChangesPort d e p.toNat { x with csyncReq := [0, 1, 2, 3] } ∧ OnlyRegs d { e with ports := d.ports } [])) ∧
    (d.supervised p.toNat = true → x.psReq.isSome = true → Completes (.psAck p t) s (fun e =>
      ChangesPort d e p.toNat { x with psReq := none, psAgreed := some t } ∧ OnlyRegs d { e with ports := d.ports } [])) ∧
    (x.psReq = none → Becomes (.psAck p t) s d) ∧
    (d.supervised p.toNat = true → Completes (.psNak p r) s (fun e => e.get R.portLinkNakrsn p.toNat = r.toNat
      ∧ ChangesPort d e p.toNat { x with psReq := none, quiet := 0 } ∧ OnlyRegs d { e with ports := d.ports } [R.portLinkNakrsn.addrOf p.toNat])) ∧
    (16 ≤ x.noProg → x.unacked ≠ [] → Completes (.msgReplay p) s (fun e => e.hasCause I.portReplay p.toNat = true
      ∧ e.get R.portReplays p.toNat = d.counted R.portReplays p.toNat ∧ ChangesPort d e p.toNat { x with replay := x.unacked, noProg := 0 }
      ∧ OnlyReports d { e with ports := d.ports } [R.portReplays.addrOf p.toNat, I.portReplay.addrOf p.toNat]))) ∧
  (∀ (s : State) (p : BitVec 6) (vcp : BitVec 2) (a b : BitVec 15), s.die.alive = true → s.die.supervised p.toNat = true →
    let d := s.die
    let v := 2 * vcp.toNat
    let x := d.vc p.toNat v
    let la := (a - x.rcv).toNat
    let lb := (b - (d.vc p.toNat (v + 1)).rcv).toNat
    (la = 0 → lb = 0 → Becomes (.csyncRx p vcp a b) s d) ∧
    (0 < la → la ≤ (d.port p.toNat).grantG → lb = 0 → Completes (.csyncRx p vcp a b) s (fun e =>
      ChangesVc d e p.toNat v { x with rcv := a, ret := x.ret + (a - x.rcv), discard := true, openLeft := 0, poisoned := false }
        ∧ e.get R.portCsyncFlits p.toNat = d.counted R.portCsyncFlits p.toNat 0 la ∧ e.hasCause I.portCsync p.toNat = true
        ∧ OnlyReports d { e with ports := d.ports } [R.portCsyncFlits.addrOf p.toNat, I.portCsync.addrOf p.toNat])) ∧
    ((d.port p.toNat).grantG < la → d.isDrop p.toNat = false → Completes (.csyncRx p vcp a b) s (fun e =>
      e.get R.portProto p.toNat = d.counted R.portProto p.toNat ∧ e.hasCause I.portProto p.toNat = true
        ∧ OnlyReports d e [R.portProto.addrOf p.toNat, I.portProto.addrOf p.toNat])))

/-- the power handshake: a request is answered with PS_NAK and the lowest reason that applies or with PS_ACK, and of two requests that cross the lower target
is agreed; a port enters the agreed state with PS set; a WAKE, a signal in PS2 or Kesil itself ends it and withdraws requests; ACTIVE follows INIT once the three
things hold (R243, R246 to R251). -/
def Obligations.PortPowerStates : Prop :=
  ∀ (s : State) (c : Cls) (p : BitVec 6) (t : BitVec 2) (w : Word), s.die.alive = true →
    let d := s.die
    let q := p.toNat
    let x := d.port q
    let own (e : Die) (as : List Nat) : Prop := OtherPorts d e q ∧ OnlyReports d { e with ports := d.ports } as
    (d.supervised q = true → (t = 1 ∨ t = 2) →
      (∀ o, x.psReq = some o → Completes (.psReq p t) s (fun e =>
        ChangesPort d e q { x with psReq := none, psAgreed := some (if o.toNat < t.toNat then o else t) } ∧ OnlyRegs d { e with ports := d.ports } [])) ∧
      (x.psReq = none → d.psReason q t.toNat = 0 → Completes (.psReq p t) s (fun e =>
        ChangesPort d e q { x with sendq := x.sendq ++ [.lcmd 2 (BitVec.ofNat 16 t.toNat)], psAgreed := some t }
          ∧ OnlyRegs d { e with ports := d.ports } [])) ∧
      (x.psReq = none → d.psReason q t.toNat ≠ 0 → Completes (.psReq p t) s (fun e =>
        ChangesPort d e q { x with sendq := x.sendq ++ [.lcmd 3 (BitVec.ofNat 16 (d.psReason q t.toNat))] }
          ∧ e.get R.portLinkNakrsn q = d.psReason q t.toNat ∧ OnlyRegs d { e with ports := d.ports } [R.portLinkNakrsn.addrOf q]))) ∧
    (x.psAgreed = some t → d.get R.portLinkPs q < t.toNat → d.supervised q = true → Completes (.psEnter p) s (fun e =>
      e.link q = 3 ∧ e.get R.portLinkPs q = t.toNat ∧ e.hasCause I.portPs q = true ∧ ChangesPort d e q { x with psReq := none, psAgreed := none }
        ∧ (t = 2 → e.get R.laneqPstatState q = 0 ∧ e.allSf q = false)
        ∧ own e ([R.portLinkState.addrOf q, I.portPs.addrOf q, R.laneqPstatState.addrOf q] ++ (List.range 4).map (fun l => R.laneqLaneLstatSfLock.addrOf q l)))) ∧
    (d.isDrop q = false → d.link q = 3 → d.get R.portLinkPs q = 1 → d.allSf q = true → Completes (.wake p) s (fun e =>
      e.link q = 2 ∧ e.get R.portLinkPs q = 0 ∧ e.hasCause I.portPs q = true ∧ ChangesPort d e q { x with psReq := none, psAgreed := none }
        ∧ own e [R.portLinkState.addrOf q, I.portPs.addrOf q])) ∧
    (d.link q ≠ 3 → Completes (.wake p) s (fun e =>
      ChangesPort d e q { x with psReq := none, psAgreed := none } ∧ OnlyRegs d { e with ports := d.ports } [])) ∧
    (d.isDrop q = false → d.link q = 3 → d.get R.portLinkPs q = 2 → x.hold = none → Completes (.signalDetect p) s (fun e =>
      e.link q = 0 ∧ e.get R.portLinkPs q = 0 ∧ e.hasCause I.portPs q = true ∧ ChangesPort d e q { x with psReq := none, psAgreed := none }
        ∧ OnlyReports d { e with ports := d.ports, sw := d.sw } [R.portLinkState.addrOf q, I.portPs.addrOf q])) ∧
    (d.link q = 3 → d.get R.portLinkPs q = 1 → x.hold = none → d.allSf q = true
      → (d.flitsQueued q = true ∨ d.planNames q = true ∨ (d.get R.portPsctlTgt q = 0 ∧ d.get R.pwrModeState ≠ 2)) → Completes (.portWake p) s (fun e =>
      e.link q = 2 ∧ e.get R.portLinkPs q = 0 ∧ ChangesPort d e q { x with psReq := none, psAgreed := none, sendq := x.sendq ++ [.lcmd 4 0] }
        ∧ own e [R.portLinkState.addrOf q, I.portPs.addrOf q])) ∧
    (d.mayActivate q = true → Completes (.linkActive p) s (fun e =>
      e.link q = 2 ∧ e.hasCause I.portActive q = true ∧ OnlyReports d e [R.portLinkState.addrOf q, I.portActive.addrOf q])) ∧
    (d.underReset .port q = false → w.toNat % 4 ≠ 3 → Completes (.psctlWrite c p w) s (fun e => e.get R.portPsctlTgt q = w.toNat % 4
      ∧ e.bit R.portPsctlAllow1 q = w.getLsbD 2 ∧ e.bit R.portPsctlAllow2 q = w.getLsbD 3 ∧ OtherPorts d e q)) ∧
    (d.underReset .port q = false → w.toNat % 4 = 3 → Completes (.psctlWrite c p w) s (fun e =>
      e.get R.portPsctlTgt q = d.get R.portPsctlTgt q ∧ e.hget R.hdrStatAccessErr .port q = 1
        ∧ OnlyReports d e (accAddrs .port q ++ [R.portPsctlTgt.addrOf q])))

/-- a CREDIT slot acknowledges messages up to MACK, holds MLAST, and takes the far end's RET counts and the first of them as G; a receipt covers packets at the
endpoint's own risk: RX_SETTLED and TAKEN mark what was and was not received on a DROP port and are protocol errors elsewhere (R218, R219, R226, R227, R239, R241 to
R243, R253, R389). -/
def Obligations.CreditAndReceipts : Prop :=
  ∀ (s : State) (p : BitVec 6) (vcp : BitVec 2) (ra rb : BitVec 15) (mack mlast : BitVec 6) (lsn : BitVec 16) (n : BitVec 6), s.die.alive = true →
    let d := s.die
    let q := p.toNat
    (d.isDrop q = false → Completes (.creditSlotRx p vcp ra rb mack mlast) s (fun e =>
      (e.vc q (2 * vcp.toNat)).retRx = ra ∧ (e.vc q (2 * vcp.toNat + 1)).retRx = rb
        ∧ (e.vc q (2 * vcp.toNat)).gRx = some ((d.vc q (2 * vcp.toNat)).gRx.getD ra) ∧ (e.port q).credSeen.getLsbD vcp.toNat = true
        ∧ (e.port q).mlastIn = mlast ∧ (∀ m ∈ (e.port q).unacked, m ∈ (d.port q).unacked) ∧ e.get R.portMsgMackIn q = mack.toNat
        ∧ OtherPorts d e q ∧ OnlyRegs d { e with ports := d.ports } [R.portMsgMackIn.addrOf q])) ∧
    (d.isDrop q = true → d.get R.portMsgMackOut q ≠ mlast.toNat → Completes (.creditSlotRx p vcp ra rb mack mlast) s (fun e =>
      (e.vc q (2 * vcp.toNat)).retRx = ra ∧ OtherPorts d e q ∧ OnlyRegs d { e with ports := d.ports } [R.portMsgMackIn.addrOf q])) ∧
    (d.isDrop q = true → (d.port q).egressOut = [] → Completes (.rxSettled p lsn) s (fun e =>
      ChangesPort d e q { d.port q with settledIn := true } ∧ OnlyRegs d { e with ports := d.ports } [])) ∧
    (d.isDrop q = true → n ≠ 0 → Becomes (.taken p lsn n) s ((d.recTaken q lsn.toNat n.toNat false).takenRun q lsn n.toNat)) ∧
    (d.isDrop q = false →
      Completes (.rxSettled p lsn) s (fun e => e.get R.portProto q = d.counted R.portProto q
        ∧ OnlyReports d e [R.portProto.addrOf q, I.portProto.addrOf q]) ∧
      Completes (.taken p lsn n) s (fun e => e.get R.portProto q = d.counted R.portProto q
        ∧ OnlyReports d e [R.portProto.addrOf q, I.portProto.addrOf q]))

/-! ### Discovery and the tick's distribution (spec 06) -/

/-- The node whose own serial is its ROOT becomes root-elect once, when no neighbour has RPATH: its walks start with 1 on every axis that has a + bundle, and
another axis has size 1; another node does nothing. A walk that does not return takes the configured size, or goes out again (R263, R264, R268, R270). A
hello's fragment is kept, the latest of its number; one beyond fragment 2 on a DROP port is a protocol error, logged and ignored. A complete hello of the
wrong kind holds its port in PS1 and logs ROLE_MISMATCH, and one whose facts conflict makes the node refuse to join. Periodic hellos send every fragment in
ascending order (R110, R254 to R258, R260, R274). -/
def Obligations.HellosAndRoot : Prop :=
  (∀ (s : State) (a : Fin 3), s.die.alive = true →
    let d := s.die
    let stands := d.isMaster = true ∧ d.phase = 1 ∧ d.rooted = none ∧ d.bit R.discCfgElig = true ∧ d.root = d.serial
    let walks (i : Instr) : Prop :=
      (stands → d.get R.discCoordSizes = 0 → d.disc.walk = 0 → (d.bundle (2 * a.val)).isEmpty = false → Completes i s (fun e =>
        e.phase = 2 ∧ e.disc.rootElect = true ∧ sizeOf e.disc.walk.toNat a.val = 1 ∧ e.size a.val = 0
          ∧ (List.range 3).all (fun b => e.size b == if (d.bundle (2 * b)).isEmpty then 1 else 0) = true
          ∧ e.disc = { d.disc with rootElect := true, walk := e.disc.walk } ∧ HellosOnly d e
          ∧ OnlyRegs d { e with disc := d.disc, ports := d.ports } [R.discStatPhase.addrOf, R.discCoordSizes.addrOf])) ∧
      (¬ stands → Becomes i s d)
    walks .rootElection ∧ walks .candidacyPass ∧
    (d.disc.rootElect = true → d.size a.val = 0 → d.cfgSize a.val = 0 → Completes (.walkTimeout a) s (fun e =>
      HellosOnly d e ∧ OnlyRegs d { e with ports := d.ports } [])) ∧
    (d.disc.rootElect = true → d.size a.val = 0 → d.cfgSize a.val ≠ 0 → (∀ b : Fin 3, b ≠ a → d.size b.val = 1) → d.cfgSize a.val ≤ 8 →
      Completes (.walkTimeout a) s (fun e => e.size a.val = d.cfgSize a.val ∧ e.isRoot = true ∧ e.get R.discStatRootGen = 1
        ∧ e.get R.discCoordXyz = 0 ∧ e.bit R.discCoordValid = true ∧ e.get R.discStatHops = 0 ∧ e.phase = 7 ∧ e.tstate = 1 ∧ e.root = d.serial
        ∧ e.disc.rpath = true ∧ e.hasCause I.discNewroot = true ∧ e.hasCause I.discJoined = true ∧ HellosOnly d e
        ∧ OnlyReports d { e with disc := d.disc, ports := d.ports }
            [R.discStatPhase.addrOf, R.discCoordSizes.addrOf, R.discRootLo.addrOf, R.discRootHi.addrOf, R.tickStatState.addrOf, I.discNewroot.addrOf])) ∧
    (d.disc.rootElect = false ∨ d.size a.val ≠ 0 → Becomes (.walkTimeout a) s d)) ∧
  (∀ (s : State) (p : BitVec 6) (frag : BitVec 4) (data : BitVec 32), s.die.alive = true →
    let d := s.die
    let q := p.toNat
    let x := d.port q
    let kept : PortSt := { x with hello := smapSet none x.hello frag.toNat (some data) }
    let d1 := d.modPort q (fun _ => kept)
    let on := d.link q ≠ 0 ∧ d.role q ≠ 0 ∧ frag ≠ 15
    let tag := (smapGet [] d.disc.stamps q).find? (fun t => t.1 % 512 == data.toNat / 2 ^ 23)
    (d.link q = 0 ∨ d.role q = 0 → Becomes (.helloRx p frag data) s d) ∧
    (d.link q ≠ 0 → d.isDrop q = true → 2 < frag.toNat → Completes (.helloRx p frag data) s (fun e =>
      e.get R.portProto q = d.counted R.portProto q ∧ Logged d e (pageIndex .port q) 0x0500 1
        ∧ OnlyLogs d e [R.portProto.addrOf q, I.portProto.addrOf q])) ∧
    (on → (d.isDrop q = true → frag.toNat ≤ 2) → d1.helloComplete q = false → Completes (.helloRx p frag data) s (fun e =>
      ChangesPort d e q kept ∧ OnlyRegs d { e with ports := d.ports } [])) ∧
    (on → d.isDrop q = true → frag.toNat ≤ 2 → d1.helloComplete q = true → d1.roleBad q = true → x.mismatch = false → d.isMaster = true
      → d.phase ≠ 1 → d.phase ≠ 3 → Completes (.helloRx p frag data) s (fun e =>
      ChangesPort d e q { kept with mismatch := true, hold := some 1 } ∧ e.get R.portLinkPs q = 1 ∧ e.get R.cascErrRoleMismatch = 1
        ∧ Logged d e (pageIndex .port q) 0x0204 1 ∧ OnlyLogs d { e with ports := d.ports } [R.portLinkPs.addrOf q, R.cascErrRoleMismatch.addrOf])) ∧
    (on → d.isTrunk q = true → d1.helloComplete q = true → d1.roleBad q = false → x.mismatch = false → d.get R.cascStatState = 1 → d.phase ≠ 8
      → d.phase ≠ 0 → d1.hf q 4 12 1 = 0 → d1.helloConflict q ≠ 0 → Completes (.helloRx p frag data) s (fun e =>
      ChangesPort d e q kept ∧ ShowsConflict d e (d1.helloConflict q) q ∧ OnlyLogs d { e with ports := d.ports } conflictAddrs)) ∧
    (on → d.isStack q = true → d1.helloComplete q = true → Becomes (.helloRx p frag data) s (d1.checkHello q frag.toNat)) ∧
    (d.link q ≠ 0 → d.isTrunk q = true → frag = 15 → d1.helloComplete q = false → Completes (.helloRx p frag data) s (fun e =>
      ChangesPort d e q kept ∧ OnlyRegs d { e with ports := d.ports, disc := d.disc } []
        ∧ (tag.isSome = true → smapGet (0, 0) e.disc.samples q = ((smapGet (0, 0) d.disc.samples q).1 + 1,
            (smapGet (0, 0) d.disc.samples q).2 + ((tag.getD (0, 0)).2 + data.toNat % 2 ^ 23) % (256 * d.tickCycles) / 2)))) ∧
    (d.helloAllowed q = true → Completes (.helloPeriodic p) s (fun e =>
      (e.port q).sendq = x.sendq ++ (d.helloFrags q).map (fun f => .hello (BitVec.ofNat 4 f) (d.helloData q f))
        ∧ HellosOnly d e ∧ OtherPorts d e q ∧ OnlyRegs d { e with ports := d.ports } [])) ∧
    (d.helloAllowed q = false → Becomes (.helloPeriodic p) s d))

/-- DISC.CTL: RETRY takes a refused node back to its election and forgets sizes and walks; LEAVE takes a joined node out, with RLEAVE from a root and a die-wide
run-down; REMEASURE forgets an idle link's latency and is refused for another. 64 samples give their rounded mean as the latency, and 400 ns or more on a TRUNK
link is a conflict; frequency lock ends its phase (R275, R277, R281, R283, R295, R300). -/
def Obligations.DiscoveryControls : Prop :=
  ∀ (s : State) (c : Cls) (p : BitVec 6), s.die.alive = true →
    let d := s.die
    let q := p.toNat
    let x := smapGet (0, 0) d.disc.samples q
    let mean := (x.2 + x.1 / 2) / x.1
    let port := d.get R.discLatselPort
    (d.phase = 8 → Completes .discRetry s (fun e => e.phase = 1 ∧ e.get R.discStatCause = 0 ∧ e.get R.discCoordSizes = 0
      ∧ e.disc = { d.disc with walk := 0, rootElect := false } ∧ HellosOnly d e
      ∧ OnlyRegs d { e with disc := d.disc, ports := d.ports } [R.discStatPhase.addrOf, R.discCoordSizes.addrOf])) ∧
    (d.phase ≠ 8 → Becomes .discRetry s d) ∧
    (d.phase = 7 → (d.rundown .die).phase = .run → Completes .discLeave s (fun e => e.phase = 9 ∧ e.get R.discCtlLeave = 1
      ∧ e.disc = { d.disc with leaving := some 0, rleave := d.disc.rleave || d.isRoot } ∧ HellosOnly d e
      ∧ ChangesRundown d e .die { d.rundown .die with phase := .closing, bound := 64, cleared := false, reopen := false }
      ∧ OnlyRegs d { e with disc := d.disc, ports := d.ports, tick := d.tick }
          [R.discStatPhase.addrOf, R.discCtlLeave.addrOf, R.hdrStatState.addrOf (pageIndex .tick 0), R.tickRdStatActive.addrOf])) ∧
    (d.phase ≠ 7 → Completes .discLeave s (fun e => e.get R.discCtlLeave = 1 ∧ OnlyRegs d e [R.discCtlLeave.addrOf])) ∧
    (d.underReset .disc 0 = false →
      (d.get R.discLatselDie = d.pos → d.portIdle port = true → Completes (.discRemeasure c) s (fun e =>
        e.disc = { d.disc with samples := smapSet (0, 0) d.disc.samples port (0, 0), lat := smapSet none d.disc.lat port none }
          ∧ OnlyRegs d { e with disc := d.disc } [])) ∧
      (d.get R.discLatselDie ≠ d.pos ∨ d.portIdle port = false → Completes (.discRemeasure c) s (fun e =>
        e.hget R.hdrStatAccessErr .disc = 1 ∧ OnlyReports d e (accAddrs .disc 0)))) ∧
    (d.phase = 4 → Completes .flock s (fun e => e.phase = 5 ∧ e.disc = { d.disc with flock := true } ∧ HellosOnly d e
      ∧ OnlyRegs d { e with disc := d.disc, ports := d.ports } [R.discStatPhase.addrOf])) ∧
    (d.phase ≠ 4 → Becomes .flock s d) ∧
    (x.1 < 64 → Becomes (.latencyMeasured p) s d) ∧
    (64 ≤ x.1 → mean < 128000 → Completes (.latencyMeasured p) s (fun e =>
      (smapGet none e.disc.lat q).map BitVec.toNat = some mean ∧ smapGet (0, 0) e.disc.samples q = (0, 0)
        ∧ e.disc = { d.disc with lat := e.disc.lat, samples := e.disc.samples } ∧ ChangesPort d e q { d.port q with shifted := false }
        ∧ (e.phase = if d.phase = 5 ∧ e.measured.all (fun r => (smapGet none e.disc.lat r).isSome) then 6 else d.phase)
        ∧ OnlyRegs d { e with disc := d.disc, ports := d.ports } [R.discStatPhase.addrOf])) ∧
    (64 ≤ x.1 → 128000 ≤ mean → d.isTrunk q = true → d.phase ≠ 8 → Completes (.latencyMeasured p) s (fun e =>
      ShowsConflict d e 10 q ∧ OnlyLogs d { e with disc := d.disc, ports := d.ports } conflictAddrs))

/-- a parent's rennet is stamped and gives the offset: its arrival minus the link's latency, taken within half a tick; a relay's gives it to the acting master.
A child that aligns adopts the parent's count, bits 15:0 from RN_TICK; a node in SINGLE mode starts at 0 (R69, R280, R282, R284, R285). -/
def Obligations.RennetGivesOffset : Prop :=
  ∀ (s : State) (p : BitVec 6) (pos : BitVec 12) (tick : BitVec 16) (mack mlast : BitVec 6) (arr : BitVec 23), s.die.alive = true →
    let d := s.die
    let q := p.toNat
    let off (r : Nat) : Int := (arr.toNat : Int) - ((smapGet none d.disc.lat r).getD 0).toNat
    let seen (e : Die) : Int := e.disc.rnSeen.getD 0
    let wrong := tick.toNat != d.tick.count.toNat % 65536
    let par := d.get R.discParentPort
    (d.isTrunk q = true → d.link q ≠ 0 → pos.toNat < 2580 → d.disc.flock = false → Completes (.rennetRx p pos tick mack mlast arr) s (fun e =>
      (smapGet [] e.disc.stamps q).head? = some (tick.toNat, arr.toNat) ∧ (e.port q).mlastIn = mlast ∧ e.get R.portMsgMackIn q = mack.toNat
        ∧ (if d.bit R.discParentValid = true ∧ par = q then
            e.disc.rnSeen.isSome = true ∧ (seen e - off q) % (256 * d.tickCycles) = 0 ∧ e.disc.rnWrong = wrong
              ∧ (-(256 * d.tickCycles : Int) ≤ off q → off q ≤ 256 * d.tickCycles →
                  -(256 * d.tickCycles : Int) ≤ 2 * seen e ∧ 2 * seen e ≤ 256 * d.tickCycles)
          else e.disc.rnSeen = d.disc.rnSeen ∧ e.disc.rnWrong = d.disc.rnWrong)
        ∧ e.disc = { d.disc with stamps := e.disc.stamps, rnSeen := e.disc.rnSeen, rnWrong := e.disc.rnWrong }
        ∧ OtherPorts d e q ∧ OnlyRegs d { e with disc := d.disc, ports := d.ports } [R.portMsgMackIn.addrOf q])) ∧
    (d.link q = 0 ∨ 2580 ≤ pos.toNat → Becomes (.rennetRx p pos tick mack mlast arr) s d) ∧
    (d.isStack q = true → d.isMaster = true → d.bit R.discParentRelay = true → d.bit R.discParentValid = true → Becomes (.rnfwdRx p tick arr) s
      { d.heardFrom (d.attrOf q) with disc := { d.disc with rnSeen := some (off par), rnWrong := wrong } }) ∧
    (d.isStack q = false → Becomes (.rnfwdRx p tick arr) s d) ∧
    (d.get R.cascTopoMode = 0 → d.isMaster = true → d.get R.cascStatState = 1 → d.tstate = 0 → Completes .joinAlign s (fun e =>
      e.disc.joinAt = some (BitVec.allOnes 48) ∧ e.edgeCount.edgeJoin.tick.count = 0 ∧ e.edgeCount.edgeJoin.tstate = 1)) ∧
    (d.get R.cascTopoMode ≠ 0 → d.phase = 6 → d.bit R.discParentValid = true → (smapGet [] d.disc.stamps par).head? = some (tick.toNat, arr.toNat) →
      Completes .joinAlign s (fun e => OnlyRegs d { e with disc := d.disc } [] ∧ e.disc = { d.disc with joinAt := e.disc.joinAt }
        ∧ e.disc.joinAt.isSome = true ∧ (e.disc.joinAt.getD 0).toNat % 65536 = tick.toNat
        ∧ (d.hf par 11 0 16 ≤ tick.toNat → (e.disc.joinAt.getD 0).toNat / 65536 = d.hf par 12 0 16 * 65536 + d.hf par 11 16 16)))

/-- losing the parent puts a locked node into HOLDOVER, where RPATH is clear and a parent that qualifies locks it again; 256 holdover ticks run the die down,
and then the node is OUT until a parent appears. A standby whose RPATH is clear for 16 ticks takes over with the next generation; 64 ticks after LEAVING a node has
left (R267, R287 to R292, R294, R300). -/
def Obligations.HoldoverAndFailover : Prop :=
  ∀ (s : State) (c : BitVec 6) (l : BitVec 2), s.die.alive = true →
    let d := s.die
    let near := d.chooseParent (if d.get R.discHoldTicks ≤ 12 then d.disc.lastHops.toNat else 11)
    let far := d.chooseParent 11
    let disc0 (e : Die) : Die := { e with disc := d.disc, ports := d.ports }
    (d.tstate = 1 → d.isRoot = false → d.bit R.discParentValid = true → d.lostParent = true → Completes .holdover s (fun e =>
      e.tstate = 2 ∧ e.get R.discHoldTicks = 0 ∧ e.get R.discHoldEntries = d.counted R.discHoldEntries ∧ e.bit R.discParentValid = false
        ∧ e.disc.rpath = false ∧ e.disc.lastHops.toNat = d.get R.discStatHops ∧ e.hasCause I.discHoldover = true ∧ HellosOnly d e
        ∧ OnlyReports d (disc0 e) [R.tickStatState.addrOf, R.discHoldTicks.addrOf, R.discParentPort.addrOf, I.discHoldover.addrOf,
            R.discStatPhase.addrOf, R.discRootLo.addrOf, R.discRootHi.addrOf])) ∧
    (d.tstate ≠ 1 → Becomes .holdover s d) ∧
    (d.tstate = 2 → d.adoptGen = d → near.isSome = true →
      Completes .reparent s (fun e => e.tstate = 1 ∧ e.get R.discHoldTicks = 0 ∧ e.get R.discParentPort = near.getD 0 ∧ e.bit R.discParentValid = true
        ∧ e.disc.rpath = true ∧ e.get R.discEvtReparent = d.counted R.discEvtReparent ∧ e.hasCause I.discReparent = true ∧ HellosOnly d e
        ∧ OnlyReports d (disc0 e) [R.tickStatState.addrOf, R.discHoldTicks.addrOf, R.discParentPort.addrOf, I.discReparent.addrOf,
            R.discStatPhase.addrOf, R.discEvtReparent.addrOf])) ∧
    (d.tstate ≠ 2 → Becomes .reparent s d) ∧
    (d.tstate = 2 → 256 ≤ d.get R.discHoldTicks → (d.rundown .die).phase = .idle → Completes .holdoverExpire s (fun e =>
      e.tstate = 3 ∧ e.phase = 0 ∧ e.hasCause I.discOut = true ∧ HellosOnly d e
        ∧ OnlyReports d { e with ports := d.ports } [R.tickStatState.addrOf, R.discStatPhase.addrOf, I.discOut.addrOf])) ∧
    (d.tstate = 2 → 256 ≤ d.get R.discHoldTicks → (d.rundown .die).phase = .run → Completes .holdoverExpire s (fun e =>
      ChangesRundown d e .die { d.rundown .die with phase := .closing, bound := 64, cleared := false, reopen := false }
        ∧ e.hget R.hdrCtlRundown .tick = 1 ∧ OnlyRegs d { e with tick := d.tick }
            [R.hdrStatState.addrOf (pageIndex .tick 0), R.hdrCtlRundown.addrOf (pageIndex .tick 0), R.tickRdStatActive.addrOf])) ∧
    (d.tstate = 2 → d.get R.discHoldTicks < 256 → Becomes .holdoverExpire s d) ∧
    (d.tstate = 3 → d.adoptGen = d → far.isSome = true → Completes .outRejoin s (fun e =>
      e.phase = 4 ∧ e.get R.discParentPort = far.getD 0 ∧ e.bit R.discParentValid = true ∧ HellosOnly d e
        ∧ OnlyRegs d { e with ports := d.ports } [R.discStatPhase.addrOf, R.discParentPort.addrOf])) ∧
    (d.tstate ≠ 3 → Becomes .outRejoin s d) ∧
    (d.bit R.discStatIsstby = true → d.isRoot = false → 16 ≤ d.disc.rpathClear → Completes .rootFailover s (fun e =>
      e.isRoot = true ∧ e.get R.discStatRootGen = genNext (d.get R.discStatRootGen) ∧ e.get R.discStatHops = 0 ∧ e.root = d.serial ∧ e.tstate = 1
        ∧ e.disc.rpath = true ∧ e.hasCause I.discTakeover = true ∧ e.hasCause I.discNewroot = true ∧ HellosOnly d e
        ∧ OnlyReports d (disc0 e) [R.discStatPhase.addrOf, R.discRootLo.addrOf, R.discRootHi.addrOf, R.tickStatState.addrOf,
            R.discParentPort.addrOf, R.discHoldTicks.addrOf, I.discTakeover.addrOf])) ∧
    (d.disc.rpathClear < 16 → Becomes .rootFailover s d) ∧
    (64 ≤ d.disc.leaving.getD 0 → d.phase = 9 → Completes .left s (fun e =>
      e.phase = 10 ∧ e.isRoot = false ∧ HellosOnly d e ∧ OnlyRegs d { e with ports := d.ports } [R.discStatPhase.addrOf])) ∧
    (d.disc.leaving = none → Becomes .left s d) ∧
    Completes (.cdrLockLoss c l) s (fun e =>
      e.bit R.laneqLaneLstatCdrLock c.toNat l.toNat = false ∧ e.bit R.laneqLaneLstatBlLock c.toNat l.toNat = false
        ∧ e.bit R.laneqLaneLstatSfLock c.toNat l.toNat = false
        ∧ (d.bit R.laneqLaneLstatSfLock c.toNat l.toNat = true → e.get R.laneqPstatState c.toNat = 0 ∧ e.link c.toNat = 0) ∧ OtherPorts d e c.toNat
        ∧ e.disc = { d.disc with cdrLost := d.disc.cdrLost || (d.bit R.discParentValid && d.get R.discParentPort == c.toNat
            && l.toNat == if d.bit R.laneqPstatReversed c.toNat then 3 else 0) })

/-! ### Packets, the switch and the superframe (spec 07, 08, 09) -/

/-- A head flit on a TRUNK port is discarded, counted and logged as CORRECTED for a bad HCRC, an op code without a class, HOPCNT of 17 or more, or an
unreachable node; one for this die is handed on, and another joins the end of its output's queue with HOPCNT one more. From a fenced die nothing is taken
(R313, R325, R338, R339, R347, R348). NCRED replaces the totals it names; a free output VC that has heads with node credit grants one of them, which leaves
the queue and holds the grant with all of its flits to go; on C1 it is the first, and a VC that is held grants nothing (R315, R320, R322, R428). -/
def Obligations.HeadsAndGrants : Prop :=
  (∀ (s : State) (p : BitVec 6) (pk : Packet) (k q v : Nat) (x : Bool) (far : Option (Nat × Nat)), s.die.alive = true →
    let d := s.die
    let op := pk.op.toNat
    let known := (opClass op).isSome = true ∧ ¬ (0x33 ≤ op ∧ op ≤ 0x35)
    let drops (cnt : Fld) (q : Irq) (code : Nat) : Prop := Completes (.transitHeadRx p pk) s (fun e =>
      e.get cnt = d.counted cnt ∧ e.hasCause q = true ∧ Logged d e (pageIndex .harp 0) code 0 ∧ OtherPorts d e p.toNat
        ∧ OnlyLogs d { e with ports := d.ports } [cnt.addrOf, q.addrOf])
    (d.isTrunk p.toNat = true →
      (pk.hcrcOk = false → drops R.harpHcrcDrop I.harpHcrc 0x0603) ∧
      (pk.hcrcOk = true → ¬ known → drops R.harpUnroute I.harpUnroute 0x0600) ∧
      (pk.hcrcOk = true → known → 17 ≤ pk.hopcnt.toNat → drops R.harpHoplim I.harpHoplim 0x0602) ∧
      (pk.hcrcOk = true → known → pk.hopcnt.toNat < 17 → op ≠ 0x11 →
        (d.rtReach (eidNode pk.deid) = false → drops R.harpUnroute I.harpUnroute 0x0601) ∧
        (d.rtReach (eidNode pk.deid) = true → op ≠ 0x12 → d.route pk (some p.toNat) = .dead → drops R.harpUnroute I.harpUnroute 0x0601) ∧
        (d.rtReach (eidNode pk.deid) = true → op = 0x12 ∨ d.route pk (some p.toNat) = .here → Completes (.transitHeadRx p pk) s (fun e =>
          e.out = d.out ++ [.handPacket p.toNat pk] ∧ OtherPorts d e p.toNat
            ∧ OnlyRegs d { e with ports := d.ports, fresh := d.fresh, out := d.out } []))) ∧
      (pk.hcrcOk = true → op = 0x11 → pk.hopcnt.toNat < 17 → Completes (.transitHeadRx p pk) s (fun e =>
        e.out = d.out ++ [.handPacket p.toNat pk] ∧ OtherPorts d e p.toNat
          ∧ OnlyRegs d { e with ports := d.ports, fresh := d.fresh, out := d.out } []))) ∧
    (d.isTrunk p.toNat = true → pk.hcrcOk = true → known → pk.hopcnt.toNat < 17 → op ≠ 0x11 → op ≠ 0x12
      → d.rtReach (eidNode pk.deid) = true → d.route pk (some p.toNat) = .out q v x far → d.isDrop q = false →
      Completes (.transitHeadRx p pk) s (fun e =>
        e.heads (8 * q + v) = d.heads (8 * q + v) ++ [{ pkt := { pk with d := x, hopcnt := pk.hopcnt + 1 }, inPort := p.toNat, inVc := pk.vc
                                                        age := d.sw.age, carried := false, ledger := none, far := far, held := 0, cell := none }]
          ∧ (k ≠ 8 * q + v → e.heads k = d.heads k) ∧ e.sw = { d.sw with queue := e.sw.queue, age := d.sw.age + 1 }
          ∧ OnlyRegs d { e with sw := d.sw, telem := d.telem, fresh := d.fresh } [])) ∧
    (d.isStack p.toNat = true → d.dieFenced (d.attrOf p.toNat) = true → Becomes (.transitHeadRx p pk) s d) ∧
    (d.isStack p.toNat = true → d.dieFenced (d.attrOf p.toNat) = false →
      Becomes (.transitHeadRx p pk) s ((d.heardFrom (d.attrOf p.toNat)).transitHead p.toNat pk).used)) ∧
  (∀ (s : State) (p : BitVec 6) (v : BitVec 3) (ts : List (BitVec 6 × BitVec 3 × BitVec 16)), s.die.alive = true →
    let d := s.die
    let x := d.attrOf p.toNat
    let k := 8 * p.toNat + v.toNat
    (d.isStack p.toNat = true → d.dieFenced x = false → Becomes (.ncredRx p ts) s
      { d.heardFrom x with sw := { d.sw with
          ncFreed := ts.foldl (fun m t => smapSet 0 m (512 * x + 8 * t.1.toNat + t.2.1.toNat) t.2.2) d.sw.ncFreed } }) ∧
    (d.isStack p.toNat = false ∨ d.dieFenced x = true → Becomes (.ncredRx p ts) s d) ∧
    ((d.grantAt k).isSome = true → Becomes (.outputGrant p v) s d) ∧
    ((d.grantAt k) = none → Completes (.outputGrant p v) s (fun e =>
      (e.grantAt k = none → e.heads k = d.heads k)
        ∧ (∀ g ∈ e.grantAt k, g.left = g.ent.pkt.flits ∧ g.padded = false ∧ (∃ h ∈ d.heads k, d.hasNodeCredit h = true ∧ g.ent.inPort = h.inPort
            ∧ g.ent.pkt = { h.pkt with mark := g.ent.pkt.mark } ∧ e.heads k = (d.heads k).filter (fun y => y.age != h.age)))
        ∧ e.sw = { d.sw with queue := e.sw.queue, grant := e.sw.grant, deficit := e.sw.deficit, fc := e.sw.fc, rrFloor := e.sw.rrFloor, rrTen := e.sw.rrTen }
        ∧ OnlyReports d { e with sw := d.sw } [R.portMarks.addrOf p.toNat, I.portMarking.addrOf p.toNat])) ∧
    (d.grantAt k = none → v.toNat / 2 = 1 → ((d.heads k).find? d.hasNodeCredit).isSome = true → Completes (.outputGrant p v) s (fun e =>
      (e.grantAt k).map (·.ent) = (d.heads k).find? d.hasNodeCredit)))

/-- An intact packet on a DROP ingress that passes the ingress checks waits for acceptance; a poisoned one is not received and gets no receipt, and one that
fails a check or went beyond credit is refused with its reason (R236, R239, R346, R352 to R354). The first packet that waits on a VC is accepted when it may
be: it claims a free ledger entry as QUEUED, ACCEPT is sent, and it waits no more; without a resource it goes on waiting, and without its tenant's port it is
refused after all. A held item at NEXT leaves for its DROP output, or returns as REJECTED where its egress check fails (R349 to R353, R356, R364, R369, R777).
-/
def Obligations.PacketsAcceptedAndHanded : Prop :=
  (∀ (s : State) (p : BitVec 6) (v : BitVec 3) (pk : Packet) (poisoned beyond : BitVec 7), s.die.alive = true →
    let d := s.die
    let q := p.toNat
    let ahead := (pk.lsn - BitVec.ofNat 16 (d.get R.portLsnRx q)).toNat < 32768
    let rx := Instr.dropPacketRx p v pk poisoned beyond
    let lsn (e : Die) : Prop := e.get R.portLsnRx q = (pk.lsn + 1).toNat ∧ OtherPorts d e q
    let refused (why : BitVec 4) (t : Bool) : Prop := Completes rx s (fun e => lsn e ∧ e.dlv = d.dlv
      ∧ (e.port q).sendq = (d.port q).sendq ++ [.refuse pk.lsn why] ∧ e.get R.portRefused q = d.counted R.portRefused q
      ∧ OnlyReports d { e with ports := d.ports } ([R.portLsnRx.addrOf q, R.portRefused.addrOf q]
          ++ if t then [R.tenCntRefused.addrOf (pk.tid.toNat / 4) (pk.tid.toNat % 4)] else []))
    (d.isDrop q = false → Becomes rx s d) ∧
    (d.isDrop q = true → ahead → d.replayPort q = false →
      (poisoned ≠ 0 → Completes rx s (fun e => lsn e ∧ e.dlv = d.dlv ∧ (e.port q).sendq = (d.port q).sendq
        ∧ OnlyRegs d { e with ports := d.ports } [R.portLsnRx.addrOf q])) ∧
      (poisoned = 0 → beyond ≠ 0 → refused 1 false) ∧
      (poisoned = 0 → beyond = 0 → (d.ingressFail q pk).isSome = true →
        refused ((d.ingressFail q pk).getD (0, false)).1 ((d.ingressFail q pk).getD (0, false)).2) ∧
      (poisoned = 0 → beyond = 0 → d.ingressFail q pk = none → Completes rx s (fun e => lsn e
        ∧ e.dlv = { d.dlv with waiting := d.dlv.waiting ++ [{ port := q, vc := v.toNat, pkt := pk, counted := false }] }
        ∧ e.ports = d.ports
        ∧ OnlyReports d { e with dlv := d.dlv, withholding := d.withholding, telem := d.telem }
            [R.portLsnRx.addrOf q, I.portWithhold.addrOf q])))) ∧
  (∀ (s : State) (p : BitVec 6) (v : BitVec 3) (found : Option (List Byte)) (f : BitVec 16) (x : DstFlow) (i : DstItem) (w : WaitPkt), s.die.alive = true →
    let d := s.die
    let q := p.toNat
    let r := d.acceptPacket q v.toNat found false
    let k := r.2.getD 0
    let first := d.dlv.waiting.findIdx (fun w => w.port == q && w.vc == v.toNat)
    let out := 8 * eidPort i.pkt.deid + 2 * i.pkt.cls.toNat
    let egOk := if i.pkt.op = 0x32 then d.mgmtPort (eidPort i.pkt.deid)
      else d.isDrop (eidPort i.pkt.deid) && d.rtEidv d.selfNode d.pos (eidPort i.pkt.deid) && d.tenPort i.pkt.tid.toNat (eidPort i.pkt.deid)
    let handed := { x with items := x.items.map (fun y : DstItem => if y.fseq = x.next then { y with handed := true } else y) }
    let next := d.flow f.toNat = .dst x ∧ x.items.find? (fun i => i.fseq == x.next && !i.handed) = some i
    (d.dlv.waiting.find? (fun w => w.port == q && w.vc == v.toNat) = none → Becomes (.packetAccept p v found) s d) ∧
    (d.dlv.waiting.find? (fun w => w.port == q && w.vc == v.toNat) = some w →
      (r.2.isSome = true → w.pkt.op ≠ 0x10 → w.pkt.op ≠ 8 → d.get R.detRecState = 0 → Completes (.packetAccept p v found) s (fun e =>
        (d.led k).state = .free ∧ (e.led k).state = .queued ∧ (e.led k).lsn = w.pkt.lsn ∧ k / 4096 = q
          ∧ e.dlv.waiting = d.dlv.waiting.eraseIdx first ∧ Msg.accept w.pkt.lsn 1 ∈ (e.port q).sendq)) ∧
      (r.2 = none → Becomes (.packetAccept p v found) s r.1) ∧
      (d.contribWaits w.pkt = false → w.pkt.mgmt = false → d.tenPort w.pkt.tid.toNat q = false → Completes (.packetAccept p v found) s (fun e =>
        e.dlv.waiting = d.dlv.waiting.eraseIdx first ∧ (e.port q).sendq = (d.port q).sendq ++ [.refuse w.pkt.lsn 3]
          ∧ e.dlv = { d.dlv with waiting := e.dlv.waiting })) ∧
      (d.contribWaits w.pkt = false → w.pkt.mgmt = true ∨ d.tenPort w.pkt.tid.toNat q = true → d.admits (.port p) = false →
        Completes (.packetAccept p v found) s (fun e =>
          e.dlv = { d.dlv with waiting := e.dlv.waiting } ∧ e.dlv.waiting.map (·.pkt) = d.dlv.waiting.map (·.pkt)
            ∧ e.get R.portWait q = (if w.counted then d.get R.portWait q else d.counted R.portWait q)
            ∧ OnlyReports d { e with dlv := d.dlv } [R.portWait.addrOf q]))) ∧
    (d.flow f.toNat = .free → Becomes (.itemEgress f) s d) ∧
    (next → i.pkt.op ≠ 0x30 → i.pkt.op ≠ 0x31 → egOk = true → d.replayPort (eidPort i.pkt.deid) = false → Completes (.itemEgress f) s (fun e =>
      ChangesFlow d e f.toNat (.dst handed) ∧ (e.heads out).length = (d.heads out).length + 1 ∧ ((e.heads out).getLast?).map (·.pkt) = some i.pkt
        ∧ OnlyRegs d { e with dlv := d.dlv, sw := d.sw, telem := d.telem } [])) ∧
    (next → i.pkt.op ≠ 0x30 → i.pkt.op ≠ 0x31 → egOk = false → d.dlv.rlog.length < 8192 → Completes (.itemEgress f) s (fun e =>
      e.dlv.rlog = d.dlv.rlog ++ [(f.toNat, x.next, 4)] ∧ (i.pkt.mgmt = false →
        e.get R.tenCntEgReject (i.pkt.tid.toNat / 4) (i.pkt.tid.toNat % 4)
          = d.counted R.tenCntEgReject (i.pkt.tid.toNat / 4) (i.pkt.tid.toNat % 4)))) ∧
    (next → i.pkt.op = 0x30 ∨ i.pkt.op = 0x31 → Completes (.itemEgress f) s (fun e => Out.handPacket 64 i.pkt ∈ e.out)))

/-- a transmitter that is on sends a superframe of 38 positions with its message and slot; outside ACTIVE every position is idle. The message is the first new one
when no CSYNC was requested, no replay runs and fewer than 32 wait for their acknowledgement, and it then waits for its own with its MSN (R205, R212, R219, R221, R244,
R424). -/
def Obligations.SuperframesAreSent : Prop :=
  ∀ (s : State) (p : BitVec 6) (ofs : BitVec 16) (edge : Option (BitVec 12)) (m : Msg) (ms : List Msg), s.die.alive = true →
    let d := s.die
    let q := p.toNat
    let x := d.port q
    let n := d.get R.portMsgNextMsn q
    (d.transmits q = false → Becomes (.superframeTx p ofs edge) s d) ∧
    (d.transmits q = true → Completes (.superframeTx p ofs edge) s (fun e =>
      (e.lastFrame.map (fun z => (z.1, z.2.1.length, z.2.2.2.2.2.2.2.length))) = some (q, 38, 4))) ∧
    (d.transmits q = true → d.link q ≠ 2 → Completes (.superframeTx p ofs edge) s (fun e =>
      (e.lastFrame.map (fun z => z.2.1)) = some (List.replicate 38 .idle))) ∧
    (d.transmits q = true → d.link q ≠ 2 → d.supervised q = true → d.replayPort q = false → x.csyncReq = [] → x.replay = [] → x.sendq = m :: ms
      → x.unacked.length < 32 → Completes (.superframeTx p ofs edge) s (fun e =>
      (e.lastFrame.map (fun z => (z.2.2.2.1, z.2.2.2.2.1))) = some (m, n) ∧ (e.port q).unacked = x.unacked ++ [(BitVec.ofNat 6 n, m)]
        ∧ e.get R.portMsgNextMsn q = (n + 1) % 64)) ∧
    (d.transmits q = true → d.link q ≠ 2 → d.supervised q = true → d.replayPort q = false → x.csyncReq = [] → x.replay = [] → x.sendq = []
      → x.csyncDue = [] → Completes (.superframeTx p ofs edge) s (fun e => (e.lastFrame.map (fun z => z.2.2.2.1)) = some .null))

/-! ### The delivery contract (spec 08, 09) -/

/-- outcome records of a destination settle the entries they name once, with a receipt, HELD stops retransmission, a NAK fails the attempt on its path, and an ECHO
raises its row's counts and marks its flow; packets with a failed check do nothing (R357, R376, R377, R381, R384, R385, R407). -/
def Obligations.SourceTakesRecords : Prop :=
  ∀ (s : State) (pk : Packet) (fi : Nat) (fl : SrcFlow) (q : BitVec 32) (k : Nat) (b : Fin 16), s.die.alive = true →
    let d := s.die
    let here (op : BitVec 8) := pk.op = op ∧ eidDie pk.deid = d.pos ∧ pk.hcrcOk = true ∧ pk.crc64Ok = true ∧ d.e2eFlow pk = some (fi, fl)
    let x := d.led k
    let names := d.entryOf fi q = some k ∧ x.state ≠ .free ∧ x.state ≠ .settled
    (here 0x20 → Becomes (.e2eDlvdRx pk) s ((Die.e2eRecords pk).foldl (fun d r => d.applyDlvd fi r) d)) ∧
    (here 0x21 → Becomes (.e2eNakRx pk) s ((Die.e2eRecords pk).foldl (fun d r => d.applyNak fi r) d)) ∧
    (here 0x22 → Becomes (.e2eRtndRx pk) s ((Die.e2eRecords pk).foldl (fun d r => d.applyRtnd fi r) d)) ∧
    (here 0x20 → names → Die.e2eRecords pk = [q.toNat + 2 ^ 32] → Completes (.e2eDlvdRx pk) s (fun e =>
      Receipted d e k 0 ∧ e.get64 R.portDlvdLo R.portDlvdHi (k / 4096) = (d.get64 R.portDlvdLo R.portDlvdHi (k / 4096) + 1) % 2 ^ 64)) ∧
    (here 0x20 → names → x.state ≠ .held → Die.e2eRecords pk = [q.toNat + 2 ^ 48] → Completes (.e2eDlvdRx pk) s (fun e =>
      ChangesLed d e k { x with state := .held, waiting := false, ready := false } ∧ OnlyRegs d { e with dlv := d.dlv } [])) ∧
    (here 0x22 → names → Die.e2eRecords pk = [q.toNat + 2 ^ 32 * 2] → Completes (.e2eRtndRx pk) s (fun e =>
      Receipted d e k 2 ∧ e.get R.portRtUndeliv (k / 4096) = d.counted R.portRtUndeliv (k / 4096))) ∧
    (here 0x21 → names → x.state = .sent → x.waiting = false → smapGet 0 x.fail x.path.toNat < 3 → Die.e2eRecords pk = [q.toNat + 2 ^ 32 * x.path.toNat] →
      Completes (.e2eNakRx pk) s (fun e =>
        ChangesLed d e k { x with fail := smapSet 0 x.fail x.path.toNat (smapGet 0 x.fail x.path.toNat + 1), waiting := true, due := d.tick.count + 1 }
          ∧ e.get R.portNakRx (k / 4096) = d.counted R.portNakRx (k / 4096) ∧ OnlyReports d { e with dlv := d.dlv } [R.portNakRx.addrOf (k / 4096)])) ∧
    (pk.hcrcOk = false ∨ pk.crc64Ok = false ∨ eidDie pk.deid ≠ d.pos →
      Becomes (.e2eDlvdRx pk) s d ∧ Becomes (.e2eNakRx pk) s d ∧ Becomes (.e2eRtndRx pk) s d ∧ Becomes (.echoRx pk) s d) ∧
    (here 0x23 → d.flow fi = .src fl → Completes (.echoRx pk) s (fun e =>
      (e.harpRow (eidNode pk.seid)).echo.getD b.val 0
          = (d.harpRow (eidNode pk.seid)).echo.getD b.val 0 + leNat (pk.payload.take 2) / 2 ^ b.val % 2
        ∧ ChangesFlow d e fi (.src { fl with echoed := true }) ∧ e.get R.harpEchoes = d.counted R.harpEchoes
        ∧ e.get R.portEchoRx fl.port = d.counted R.portEchoRx fl.port
        ∧ OnlyReports d { e with dlv := d.dlv, harp := d.harp } [R.harpEchoes.addrOf, R.portEchoRx.addrOf fl.port]))

/-- The life of a ledger entry at its source: an attempt times out and fails its path; the next copy is made ready a tick later on a path the harp picks; a
HELD item is probed; after the 16th failure, or once its DEID is no longer valid, it settles as UNDELIVERABLE; two bad copies of the entry lose it. Nothing
happens before its time (R358, R359, R380 to R384, R387). A source flow whose DUE has come offers its head item and is eligible; one that is eligible already,
or whose time has not come, offers none. An output discards the endpoint copies it has held for 128 ticks and keeps every other; the withheld count joins
RET_4 as soon as the depth is at or below the threshold (R373, R414, R415, R421). -/
def Obligations.TimersAndCongestion : Prop :=
  (∀ (s : State) (p : BitVec 6) (i : BitVec 12) (bad : BitVec 2), s.die.alive = true →
    let d := s.die
    let q := p.toNat
    let k := 4096 * q + i.toNat
    let x := d.led k
    let now := d.tick.count.toNat
    let fails := smapGet 0 x.fail x.path.toNat
    let late (e : Die) : Prop := ChangesLed d e k
        { x with fail := smapSet 0 x.fail x.path.toNat (min 7 (fails + 1)), waiting := true, due := d.tick.count + 1 }
      ∧ e.get R.portTimeout q = d.counted R.portTimeout q
    let pick := d.harpPick (eidNode x.pkt.deid) (Die.excluded x)
    let undeliv (e : Die) : Prop := Receipted d e k 2 ∧ e.get R.portRtUndeliv q = d.counted R.portRtUndeliv q
    let valid := if x.pkt.mgmt then d.rtReach (eidNode x.pkt.deid) && d.rtDies (eidNode x.pkt.deid) / 2 ^ eidDie x.pkt.deid % 2 == 1
      else d.eidValid x.pkt.deid
    (x.state = .sent → x.waiting = false → x.due.toNat ≤ now →
      (bad = 0 → Completes (.attemptTimeout p i bad) s (fun e => late e
        ∧ OnlyReports d { e with dlv := d.dlv } [R.portTimeout.addrOf q, R.portExcl.addrOf q])) ∧
      (bad = 1 → Completes (.attemptTimeout p i bad) s (fun e => late e ∧ Logged d e (pageIndex .port q) 0x0700 0
        ∧ OnlyLogs d { e with dlv := d.dlv } [R.portTimeout.addrOf q, R.portExcl.addrOf q]))) ∧
    (x.state = .sent → 2 ≤ bad.toNat → Completes (.attemptTimeout p i bad) s (fun e =>
      ChangesLed d e k { x with state := .settled, out := 2 } ∧ Logged d e (pageIndex .port q) 0x0701 1 ∧ OnlyLogs d { e with dlv := d.dlv } [])) ∧
    (x.state = .free ∨ x.state = .settled ∨ (bad = 0 ∧ now < x.due.toNat) → Becomes (.attemptTimeout p i bad) s d) ∧
    (x.state = .sent → x.waiting = true → x.ready = false → x.att < 16 → x.due.toNat ≤ now → d.abortsAt q x.pkt = false →
      Completes (.retransmit p i) s (fun e => ChangesLed d e k { x with path := BitVec.ofNat 4 pick.2, ready := true } ∧ e.harp = pick.1.harp
        ∧ e.get R.portRetx q = d.counted R.portRetx q
        ∧ OnlyReports d { e with dlv := d.dlv, harp := d.harp } [R.portRetx.addrOf q, R.harpPicksLo.addrOf, R.harpPicksHi.addrOf])) ∧
    (x.waiting = false ∨ 16 ≤ x.att ∨ now < x.due.toNat → Becomes (.retransmit p i) s d) ∧
    (x.state = .held → x.ready = false → x.own = false → x.last.toNat + d.get R.portDlvCfgRtoMax q ≤ now → Completes (.probe p i) s (fun e =>
      ChangesLed d e k { x with ready := true } ∧ OnlyRegs d { e with dlv := d.dlv } [])) ∧
    (now < x.last.toNat + d.get R.portDlvCfgRtoMax q → Becomes (.probe p i) s d) ∧
    (x.state = .sent → x.waiting = true → 16 ≤ x.att → x.last.toNat + 2176 ≤ now → Completes (.giveUp p i) s undeliv) ∧
    (x.att < 16 ∨ now < x.last.toNat + 2176 → Becomes (.giveUp p i) s d) ∧
    (x.state ≠ .free → x.state ≠ .settled → valid = false → x.state = .queued ∨ x.last.toNat + 2176 ≤ now →
      Completes (.deidInvalidSettle p i) s undeliv) ∧
    (valid = true ∨ (x.state ≠ .queued ∧ now < x.last.toNat + 2176) → Becomes (.deidInvalidSettle p i) s d)) ∧
  (∀ (s : State) (f : BitVec 16) (x : SrcFlow) (p : BitVec 6) (v : BitVec 3) (k : Nat), s.die.alive = true →
    let d := s.die
    let q := p.toNat
    let out := 8 * q + v.toNat
    let old (y : QEnt) : Bool := decide (128 ≤ y.held) && opEndpoint y.pkt.op.toNat
    let low := 64 * d.ingressFlits q ≤ 1024 * d.get R.portCcDropThresh q ∨ d.bit R.portCcDropEn q = false
    (d.flow f.toNat = .src x → x.elig = true ∨ d.tick.count.toNat < x.due / 256 / d.tickCycles → Becomes (.flowDue f) s d) ∧
    (d.flow f.toNat = .src x → x.elig = false → x.due / 256 / d.tickCycles ≤ d.tick.count.toNat →
      (d.headItem f.toNat = none → Becomes (.flowDue f) s d) ∧
      (d.headItem f.toNat = some k → Becomes (.flowDue f) s ((d.setFlow f.toNat (.src { x with elig := true })).offerCopy k))) ∧
    (d.isDrop q = false → Completes (.copyLifetimeDrop p v) s (fun e =>
      e.heads out = (d.heads out).filter (fun y => !old y) ∧ (k ≠ out → e.heads k = d.heads k)
        ∧ e.get R.portLifeDrop q = d.counted R.portLifeDrop q 0 ((d.heads out).countP old)
        ∧ OnlyReports d { e with sw := d.sw, ports := d.ports, dlv := d.dlv } [R.portLifeDrop.addrOf q])) ∧
    (smapGet false d.withholding q = true → low → Completes (.withholdEnd p) s (fun e =>
      ChangesVc d e q 4 { d.vc q 4 with ret := (d.vc q 4).ret + BitVec.ofNat 15 (d.vc q 4).withheld, withheld := 0 }
        ∧ e.withholding = smapSet false d.withholding q false ∧ OnlyRegs d { e with ports := d.ports, withholding := d.withholding } [])) ∧
    (smapGet false d.withholding q = false ∨ ¬ low → Becomes (.withholdEnd p) s d))

/-- a copy at its destination: one below NEXT or held already is counted and answered again, one of 1,024 or more above is discarded, and one that fails its check is
answered with a NAK; NEXT that stays missing, or waits too long for its egress, returns as UNDELIVERABLE; a flow that has been idle long enough frees (R368, R370, R371,
R374, R375, R378, R390). -/
def Obligations.DestinationTakesCopies : Prop :=
  ∀ (s : State) (pk : Packet) (f : BitVec 16) (x : DstFlow) (y : SrcFlow), s.die.alive = true →
    let d := s.die
    let p := eidPort pk.deid
    let δ := (pk.fseq - x.next).toNat
    let isItem := (pk.op = 1 ∨ pk.op = 2 ∨ pk.op = 0x30 ∨ pk.op = 0x31) ∧ eidDie pk.deid = d.pos ∧ pk.hcrcOk = true
    let touched : DstFlow := { x with
      idle := 0, path := pk.path, marks := x.marks + pk.mark.toNat
      pmask := x.pmask ||| (if pk.mark then BitVec.ofNat 16 (2 ^ pk.path.toNat) else 0) }
    let dt := d.setFlow f.toNat (.dst touched)
    let known := isItem ∧ pk.crc64Ok = true ∧ d.dstFlow (flowKey pk) = some (f.toNat, x) ∧ d.flow f.toNat = .dst x ∧ x.abort = .none
    let q := eidPort x.key.deid
    (¬ isItem → Becomes (.e2eCopyRx pk) s d) ∧
    (known → 1024 ≤ δ → δ < 2 ^ 31 → Completes (.e2eCopyRx pk) s (fun e => e.dlv = dt.dlv ∧ e.get R.portWinDrop p = d.counted R.portWinDrop p
      ∧ OnlyReports d { e with dlv := d.dlv } [R.portWinDrop.addrOf p])) ∧
    (known → 2 ^ 31 ≤ δ → Becomes (.e2eCopyRx pk) s ((dt.bump R.portDupRx p).report f.toNat [pk.fseq])) ∧
    (known → δ < 1024 → x.items.any (fun i => i.fseq == pk.fseq) = true →
      Becomes (.e2eCopyRx pk) s ((dt.bump R.portDupRx p).report f.toNat [pk.fseq])) ∧
    (known → δ < 1024 → x.items.any (fun i => i.fseq == pk.fseq) = false → Becomes (.e2eCopyRx pk) s (dt.storeCopy f.toNat p pk)) ∧
    (d.flow f.toNat = .dst x → d.get R.portDlvCfg2Gap q ≤ x.gap → x.items ≠ [] → d.dlv.rlog.length < 8192 → Completes (.gapSettle f) s (fun e =>
      e.dlv.rlog = d.dlv.rlog ++ [(f.toNat, x.next, 2)] ∧ e.hasCause I.portGap q = true
        ∧ e.get R.portGapRt q = d.counted R.portGapRt q)) ∧
    (d.flow f.toNat = .dst x → x.gap < d.get R.portDlvCfg2Gap q ∨ x.items = [] → Becomes (.gapSettle f) s d) ∧
    (d.flow f.toNat = .dst x → d.get R.portDlvCfg2EgressMax q ≤ x.wait → x.items.any (fun i => i.fseq == x.next && !i.sent) = true
      → d.dlv.rlog.length < 8192 → Completes (.egressTimeout f) s (fun e => e.dlv.rlog = d.dlv.rlog ++ [(f.toNat, x.next, 2)])) ∧
    (d.flow f.toNat = .dst x → x.wait < d.get R.portDlvCfg2EgressMax q → Becomes (.egressTimeout f) s d) ∧
    (d.flow f.toNat = .dst x → 131072 ≤ x.idle → x.items = [] → Completes (.destFlowRelease f) s (fun e =>
      ChangesFlow d e f.toNat .free ∧ e.dlv.rlog = d.dlv.rlog.filter (fun r => r.1 != f.toNat) ∧ OnlyRegs d { e with dlv := d.dlv } [])) ∧
    (d.flow f.toNat = .dst x → x.idle < 131072 ∨ x.items ≠ [] → Becomes (.destFlowRelease f) s d) ∧
    (d.flow f.toNat = .src y → 262144 ≤ y.idle → d.unsettled f.toNat = [] → Completes (.sourceFlowRelease f) s (fun e =>
      ChangesFlow d e f.toNat .free ∧ OnlyRegs d { e with dlv := d.dlv } [])) ∧
    (d.flow f.toNat = .src y → y.idle < 262144 ∨ d.unsettled f.toNat ≠ [] → Becomes (.sourceFlowRelease f) s d)

/-! ### Pool memory and the cave (spec 10, 21) -/

/-- An ALLOC that its pool can serve takes the top of that pool's stack: the cell gets the charge and owners asked for, its header's 16 bytes are cleared, and
the whole cell is zeroed where the charge changes; other cells are as they were. An illegal request gets BAD_REQ; a tenant that is not ACTIVE gets NO_CELL,
counted (R451 to R456, R463, R777, R1059). RELEASE lets one owner go, and the last owner's RELEASE or FREE puts the cell on top of its stack; FREE by one of
several owners, an owner the cell does not have and a free cell are rejected with their own status, logged and counted; an illegal handle or owner changes
nothing (R458, R460, R467 to R470). -/
def Obligations.HoopServices : Prop :=
  (∀ (s : State) (r : HoopReq) (found : Option (List Byte)) (ix n' ix' o : Nat), s.die.alive = true →
    let d := s.die
    let n := poolFor r.size.toNat
    let c := d.hcell n ix
    let legal := r.size ≠ 0 ∧ r.size.toNat ≤ 65536 ∧ r.owners ≠ [] ∧ r.owners.length ≤ 8 ∧ r.owners.Nodup ∧ r.owners.all ownerKindOk = true
    let active := r.mgmt = true ∨ d.get R.tenStatState (r.tid.toNat / 4) (r.tid.toNat % 4) = 1
    let serves := d.hstate n = 0 ∧ d.hoopTop n = some ix ∧ (r.mgmt = true ∨ d.hused n r.tid.toNat < d.hquota n r.tid.toNat)
      ∧ found.all (d.headerValid n ix) = true ∧ d.cellFree n ix = true
    (¬ legal → Becomes (.hoopAlloc r found) s { d with out := d.out ++ [.hoopDone 0 9 0] }) ∧
    (legal → ¬ active → Completes (.hoopAlloc r found) s (fun e =>
      e.out = d.out ++ [.hoopDone 0 2 0] ∧ e.get R.hoopNocell = d.counted R.hoopNocell ∧ OnlyReports d e [R.hoopNocell.addrOf])) ∧
    (legal → active → d.stalled .hoop = false → serves → ix < 2 ^ 20 → Completes (.hoopAlloc r found) s (fun e =>
      e.out.getLast? = some (.hoopDone 0 0 (handleOf n ix))
        ∧ e.hcell n ix = { c with tid := r.tid, mgmt := r.mgmt, owners := r.owners, lastTid := c.tid, lastMgmt := c.mgmt, charged := true }
        ∧ (ix' < 2 ^ 20 → (n', ix') ≠ (n, ix) → e.hcell n' ix' = d.hcell n' ix')
        ∧ e.cellRead n ix 0 16 = List.replicate 16 0
        ∧ ((c.charged = false ∨ c.mgmt ≠ r.mgmt ∨ (r.mgmt = false ∧ c.tid ≠ r.tid)) → o < 65536 → e.cellRead n ix o 1 = [0])
        ∧ (c.charged = true → c.mgmt = r.mgmt → c.tid = r.tid → 16 ≤ o → e.cellRead n ix o 1 = d.cellRead n ix o 1)
        ∧ OnlyReports d { e with hoops := d.hoops, telem := d.telem } [R.hoopMinfreeMin.addrOf 0 n, I.hoopLow.addrOf]))) ∧
  (∀ (s : State) (h : BitVec 32) (w : BitVec 16) (found : Option (List Byte)) (fr : Bool), s.die.alive = true →
    let d := s.die
    let n := h.toNat / 2 ^ 30
    let ix := h.toNat % 2 ^ 20
    let c := d.hcell n ix
    let i := if fr then Instr.hoopFree h w found false else Instr.hoopRelease h w found false
    let done (st : Nat) : Out := .hoopDone (if fr then 2 else 1) st 0
    let legal := h.toNat / 2 ^ 20 % 2 ^ 10 = 0 ∧ d.poolLo n ≤ ix ∧ ix < d.poolCells n ∧ c.retired = false
    let good := ownerKindOk w = true ∧ legal
    let rejects (st : Nat) (cnt : Fld) : Prop := Completes i s (fun e => e.out.getLast? = some (done st) ∧ e.hoops = d.hoops ∧ e.get cnt = d.counted cnt
      ∧ Logged d e (pageIndex .hoop 0) (0x0800 + (st - 4)) 0 ∧ e.get R.hoopErrCellHandle = h.toNat ∧ e.get R.hoopErrOwnerOwner = w.toNat
      ∧ e.get R.hoopErrOwnerStatus = st ∧ e.hasCause I.hoopReject = true
      ∧ OnlyLogs d e [cnt.addrOf, R.hoopErrCellHandle.addrOf, R.hoopErrOwnerOwner.addrOf, I.hoopReject.addrOf])
    (ownerKindOk w = false → Becomes i s { d with out := d.out ++ [done 9] }) ∧
    (ownerKindOk w = true → ¬ legal → Becomes i s { d with out := d.out ++ [done 7] }) ∧
    (good → w ∈ c.owners → 1 < c.owners.length → fr = false → Completes i s (fun e =>
      e.out = d.out ++ [done 0] ∧ e.hcell n ix = { c with owners := c.owners.erase w } ∧ e.hoops = { d.hoops with cells := e.hoops.cells }
        ∧ OnlyRegs d { e with hoops := d.hoops, out := d.out } [])) ∧
    (good → c.owners = [w] → d.hstate n = 0 → Completes i s (fun e =>
      e.out = d.out ++ [done (if fr then 0 else 1)] ∧ (e.hcell n ix).owners = [] ∧ e.hoopTop n = some ix
        ∧ e.cellRead n ix 0 16 = freeHeader n ix (d.hoopHead n) ∧ OnlyReports d { e with hoops := d.hoops } [])) ∧
    (good → c.owners = [w] → d.hstate n ≠ 0 → Completes i s (fun e =>
      (e.hcell n ix).owners = [] ∧ (e.hcell n ix).pend = true ∧ e.hoops.pushed = d.hoops.pushed ∧ OnlyReports d { e with hoops := d.hoops } [])) ∧
    (good → w ∈ c.owners → 1 < c.owners.length → fr = true → d.logFull = false → rejects 6 R.hoopNotlast) ∧
    (good → c.owners ≠ [] → w ∉ c.owners → d.logFull = false → rejects 5 R.hoopOwnerr) ∧
    (good → c.owners = [] → found.all (d.headerValid n ix) = true → d.logFull = false → rejects 4 R.hoopDfree))

/-- HOOP.REBUILD starts the walk of each pool it names that is in QUARANTINE, and is refused for another; the walk's end makes the pool NORMAL with REBUILT
and no PEND left in it; a queued cell that is zeroed is free on top of its stack and reads as zeros past its header (R460, R477, R791). The cave: refreshes
that the rates add are counted; a controller that fails shows FAILED once, logs CAVE_FAIL as DIE_FATAL and runs the die down with a bound of 0; a share is
claimed until the edge, and a tag sweep leaves its owner's clean pages and clears its others (R876, R877, R882, R885, R891, R904). -/
def Obligations.PoolsAndCave : Prop :=
  (∀ (s : State) (c : Cls) (w : Word) (pool : BitVec 2) (k o : Nat), s.die.alive = true →
    let d := s.die
    let n := pool.toNat
    let ix := k % 2 ^ 20
    let asked (m : Nat) : Bool := w.toNat / 2 ^ m % 2 == 1
    (d.underReset .hoop 0 = false → Completes (.hoopRebuild c w) s (fun e =>
      e.hstate n = (if asked n ∧ d.hstate n = 1 then 2 else d.hstate n)
        ∧ ((List.range 4).any (fun m => asked m && d.hstate m != 1) = true → e.hget R.hdrStatAccessErr .hoop = 1)
        ∧ e.hoops = { d.hoops with state := e.hoops.state } ∧ OnlyReports d { e with hoops := d.hoops } (accAddrs .hoop 0))) ∧
    (d.hstate n = 2 → Completes (.rebuilt pool) s (fun e =>
      e.hstate n = 0 ∧ e.hasCause I.hoopRebuilt = true ∧ e.hoops.cells.all (fun x => x.1 / 2 ^ 20 != n || !x.2.pend) = true
        ∧ e.hoops.mem = d.hoops.mem ∧ OnlyReports d { e with hoops := d.hoops } [I.hoopRebuilt.addrOf])) ∧
    (d.hstate n ≠ 2 → Becomes (.rebuilt pool) s d) ∧
    ((d.hoops.cells.find? (fun e => e.1 / 2 ^ 20 == n && e.2.queued)).map (·.1) = some k → d.hstate n = 0 → Completes (.cellZeroed pool) s (fun e =>
      (e.hcell n ix).queued = false ∧ (e.hcell n ix).owners = [] ∧ e.hoopTop n = some ix ∧ (16 ≤ o → o < 65536 → e.cellRead n ix o 1 = [0])
        ∧ OnlyReports d { e with hoops := d.hoops, telem := d.telem } [])) ∧
    (d.hoops.cells.any (fun e => e.1 / 2 ^ 20 == n && e.2.queued) = false → Becomes (.cellZeroed pool) s d)) ∧
  (∀ (s : State) (c : Cls) (ctl : BitVec 4) (extra : Bool) (reg : BitVec 1) (w : Word) (o a : Nat), s.die.alive = true →
    let d := s.die
    let k := ctl.toNat
    let hot := d.get R.caveStatRate0 k ≠ 0 ∨ d.get R.caveStatRate1 k ≠ 0
    (k < 10 → extra = true → d.get R.caveStatState k = 1 → hot → Completes (.caveRefresh ctl extra) s (fun e =>
      e.get R.caveExtraRef k = d.counted R.caveExtraRef k ∧ OnlyReports d e [R.caveExtraRef.addrOf k])) ∧
    (extra = false ∨ ¬ hot → Becomes (.caveRefresh ctl extra) s d) ∧
    (k < 10 → d.get R.caveStatState k ≠ 2 → (d.rundown .die).phase = .run → Completes (.caveFail ctl) s (fun e =>
      e.get R.caveStatState k = 2 ∧ Logged d e (pageIndex .cave k) 0x0C03 3 ∧ e.hasCause I.caveFail k = true
        ∧ e.rundown .die = { d.rundown .die with phase := .closing, bound := 0, left := 0, cleared := false, reopen := false }
        ∧ (d.tick.fatal = 0 → e.tick.fatal = 1)
        ∧ OnlyLogs d { e with tick := d.tick } [R.caveStatState.addrOf k, I.caveFail.addrOf k, R.hdrStatState.addrOf (pageIndex .tick 0),
            R.tickRdStatActive.addrOf])) ∧
    (d.get R.caveStatState k = 2 → Becomes (.caveFail ctl) s d) ∧
    (d.underReset .cave 0 = false → Completes (.caveShareWrite c reg w) s (fun e =>
      smapGet none e.own.shareAsk reg.toNat = some (w, c) ∧ e.own = { d.own with shareAsk := e.own.shareAsk }
        ∧ e.det = { d.det with dirty := d.det.dirty || reg == 0 } ∧ OnlyRegs d { e with own := d.own, det := d.det } [])) ∧
    (d.cave.sweeps.head? = some o → smapWf 0 d.cave.tags = true → Completes .tagSweepDone s (fun e =>
      (∀ x ∈ e.cave.tags, x ∈ d.cave.tags) ∧ e.caveClean a = d.caveClean a ∧ e.cave = { d.cave with sweeps := d.cave.sweeps.drop 1, tags := e.cave.tags }
        ∧ (e.caveOwner a = some (Die.sweepSpace o) → e.caveClean a = false → smapGet 0 e.cave.tags (a / 4096) = 0)
        ∧ OnlyRegs d { e with cave := d.cave } [])) ∧
    (d.cave.sweeps = [] → Becomes .tagSweepDone s d))

/-! ### Vats, scratchpads and random lanes (spec 11, 13, 14, 16) -/

/-- a step acts only when it is its turn; one whose checks hold completes. An array step puts its result into HOUT, counts busy cycles and out-of-range results, and
the tile goes on to its next step; a LOAD_TILE from cells puts its slot's sources there, and a STORE_TILE to a cave region writes the region's live bytes (R481, R484, R504,
R508, R548, R673, R674). -/
def Obligations.VatStepsComplete : Prop :=
  ∀ (s : State) (v : BitVec 5) (q : BitVec 4) (x : StepFind) (t : TileRun) (w : Nat) (later : List Nat) (a : Nat), s.die.alive = true →
    let d := s.die
    let n := v.toNat
    let k := q.toNat
    let arrays : List (Nat × Instr) := [(2, .expScan v q x), (3, .reduce v q x), (4, .scale v q x), (5, .combine v q x), (6, .mergeSoftmax v q x),
      (7, .sampleGumbel v q x), (8, .topk v q x), (9, .quant v q x), (10, .dequant v q x), (11, .cast v q x), (12, .clamp v q x), (13, .maskDrop v q x),
      (14, .fillRandom v q x)]
    let movers : List (Nat × Instr) := [(1, .loadTile v q x), (15, .storeTile v q x), (16, .emit v q x)]
    let d1 := (d.beginStep n k t w x).1
    let good (op : Nat) : Prop := d.stepReady n k op = some (t, w, later) ∧ (d.beginStep n k t w x).2 = true
    let more := swLast w = false ∧ t.step < 31
    let hin := if swOp w = 0xE then [] else d1.region n t (swHin w)
    let haux := if swAuxv w || swOp w = 6 then d1.region n t (swHaux w) else []
    let pad := ((d1.handleEnt n (swHout w)).map (fun e => (e.padk, e.padv))).getD (0, 0)
    let o := arrayStep w t.step later t.ctx hin haux t.emax pad.1 pad.2
    let outs := match o.out with
      | some r => r.n
      | none => (o.emax.map List.length).getD 0
    let slot := t.slots.getD (swSlot w) { kind := 0, srcs := [], cave := none }
    (∀ y ∈ arrays ++ movers, d.stepReady n k y.1 = none → Becomes y.2 s d) ∧
    (∀ y ∈ arrays, good y.1 → Becomes y.2 s (d1.arrayOp n k t w later x)) ∧
    (∀ y ∈ arrays, good y.1 → more → o.mixed = false → (isPass w = true → x.residue = false ∧ (d1.vat n).injRes = false) → Completes y.2 s (fun e =>
      (e.vat n).queue[k]? = some { t with
          step := t.step + 1, emax := o.emax.getD t.emax, bufs := (o.out.map (fun r => smapSet [] t.bufs (swHout w) [r])).getD t.bufs }
        ∧ (e.vat n).queue.eraseIdx k = (d.vat n).queue.eraseIdx k
        ∧ e.get R.vatBusy n = d1.counted R.vatBusy n 0 (arrayCycles w later ((hin.map (fun r => r.bytes.length)).sum) outs)
        ∧ e.get R.vatRange n = d1.counted R.vatRange n 0 o.range ∧ e.get R.vatStatGated n = 0
        ∧ OnlyReports d1 { e with vats := d1.vats } [R.vatBusy.addrOf n, R.vatRange.addrOf n, R.vatStatGated.addrOf n, R.rngDrawsLo.addrOf,
            R.rngDrawsHi.addrOf])) ∧
    (good 1 → Becomes (.loadTile v q x) s (d1.loadTile n k t w x)) ∧
    (good 1 → more → slot.kind ≠ 2 → slot.srcs.all (fun r => r.cave.isNone) = true → Completes (.loadTile v q x) s (fun e =>
      (e.vat n).queue[k]? = some { t with
          step := t.step + 1, bufs := smapSet [] t.bufs (swHout w) (slot.srcs.map (fun r => d1.loadSrc r pad.1 pad.2)) })) ∧
    (good 15 → Becomes (.storeTile v q x) s (d1.storeTile n k t w)) ∧
    (good 15 → slot.kind = 4 → slot.cave = some a → Becomes (.storeTile v q x) s
      ((d1.caveWrite a ((d1.region n t (swHin w)).map (fun r => r.bytes.take r.live)).flatten).endStep n k w)) ∧
    (good 16 → Becomes (.emit v q x) s (d1.emitStep n k t w))

/-- a step that meets an uncorrectable recipe word, handle entry or scratchpad word, a poisoned handle or an injected fault does not complete: its vat faults with that
cause, logged as UNIT_FATAL, and its queue stays; the watchdog faults a vat whose tile is 8 ticks old. At the edge a faulted vat is fenced and empty; injections need debug
unlocked (R507, R517, R518, R567, R573, R807). -/
def Obligations.VatFaultsFence : Prop :=
  ∀ (s : State) (c : Cls) (v : BitVec 5) (q : BitVec 4) (x : StepFind) (t : TileRun) (w : Nat) (later : List Nat) (op : Nat), s.die.alive = true →
    let d := s.die
    let n := v.toNat
    let k := q.toNat
    let ix := t.first + t.step
    let steps : List (Nat × Instr) := [(1, .loadTile v q x), (2, .expScan v q x), (3, .reduce v q x), (4, .scale v q x), (5, .combine v q x),
      (6, .mergeSoftmax v q x), (7, .sampleGumbel v q x), (8, .topk v q x), (9, .quant v q x), (10, .dequant v q x), (11, .cast v q x), (12, .clamp v q x),
      (13, .maskDrop v q x), (14, .fillRandom v q x), (15, .storeTile v q x), (16, .emit v q x)]
    let faults (i : Instr) (cause step : Nat) : Prop := Completes i s (fun e =>
      (e.vat n).fault = some (cause, step) ∧ e.get R.vatFaultCause n = cause ∧ (e.vat n).queue = (d.vat n).queue
        ∧ (x.rcpCe = false → Logged d e (pageIndex .vat n) 0x0900 2))
    let ready := d.stepReady n k op = some (t, w, later)
    let clean := x.rcpUe = false ∧ (d.vat n).injRcp = false
    let handles := (namedHandles w).all (fun h => (d.handleOk n t h.1).1) = true
    let poison := (namedHandles w).any (fun h => h.2 && ((d.handleEnt n h.1).map (fun e => e.poison)).getD false)
    (∀ y ∈ steps, y.1 = op → ready →
      (x.rcpUe = true → (d.vat n).injRcp = false → faults y.2 2 ix) ∧
      ((d.vat n).injRcp = true → faults y.2 7 ix) ∧
      (clean → x.hdlUe = true → faults y.2 3 ix) ∧
      (clean → x.hdlUe = false → handles → poison = true → faults y.2 5 ix) ∧
      (clean → x.hdlUe = false → handles → poison = false → x.spadUe.isSome = true → faults y.2 5 ix) ∧
      ((d.beginStep n k t w x).2 = false → Becomes y.2 s (d.beginStep n k t w x).1)) ∧
    ((d.vat n).queue[k]? = some t → 8 ≤ (d.tick.count - t.born).toNat → (d.vat n).fault = none → d.get R.vatStatState n ≠ 2 → x.rcpCe = false →
      faults (.vatWatchdog v q) 4 ix) ∧
    ((d.vat n).queue[k]? = some t → (d.tick.count - t.born).toNat < 8 → Becomes (.vatWatchdog v q) s d) ∧
    (d.faulted = [] → Becomes .vatFence s d) ∧
    (d.faulted = [n] → (d.vat n).queue = [] → Completes .vatFence s (fun e =>
      e.get R.vatStatState n = 2 ∧ e.hget R.hdrCtlFence .vat n = 1 ∧ e.hget R.hdrStatFenced .vat n = 1 ∧ e.get R.chipFenceVats / 2 ^ n % 2 = 1
        ∧ e.hasCause I.vatFenced n = true ∧ (e.vat n).fault = none ∧ (e.vat n).recipe = [] ∧ (e.vat n).handles = [])) ∧
    (d.underReset .vat n = false →
      (d.debugOpen = true →
        Completes (.vatInjectResidue c v) s (fun e => ChangesVat d e n { d.vat n with injRes := true } ∧ OnlyRegs d { e with vats := d.vats } []) ∧
        Completes (.vatInjectRecipe c v) s (fun e => ChangesVat d e n { d.vat n with injRcp := true } ∧ OnlyRegs d { e with vats := d.vats } [])) ∧
      (d.debugOpen = false → ∀ i ∈ [Instr.vatInjectResidue c v, .vatInjectRecipe c v], Completes i s (fun e =>
        e.hget R.hdrStatAccessErr .vat n = 1 ∧ OnlyReports d e (accAddrs .vat n))))

/-- brine's cursor moves on with each visit and wraps; a corrected word is counted, the fourth pass in a row being a hard fault of its vat; an uncorrectable word poisons
its handle, or is zeroed where no handle covers it. A pass over 1 s is shown once, and a write-back ends the oldest that waits (R566, R569 to R572, R574, R576). -/
def Obligations.BrineVisits : Prop :=
  ∀ (s : State) (v : BitVec 5) (found : BitVec 2) (h : Nat) (g : HandleEnt), s.die.alive = true →
    let d := s.die
    let n := v.toNat
    let w := d.get R.vatBrineStatCursor n
    let x := d.vat n
    let times := smapGet 0 x.hard w + 1
    let moved (e : Die) : Prop := e.get R.vatBrineStatCursor n = w + 1
    (d.underWipe n w = true → Becomes (.brineVisit v found) s d) ∧
    (d.underWipe n w = false → w < 262143 →
      (found = 0 → Completes (.brineVisit v found) s (fun e => moved e ∧ ChangesVat d e n { x with hard := smapErase x.hard w }
        ∧ OnlyRegs d { e with vats := d.vats } [R.vatBrineStatCursor.addrOf n])) ∧
      (found = 1 → times < 4 → Completes (.brineVisit v found) s (fun e => moved e ∧ e.get R.vatSpFix n = d.counted R.vatSpFix n
        ∧ ChangesVat d e n { x with hard := smapSet 0 x.hard w times }
        ∧ OnlyReports d { e with vats := d.vats } [R.vatBrineStatCursor.addrOf n, R.vatSpFix.addrOf n])) ∧
      (found = 1 → 4 ≤ times → x.fault = none → d.get R.vatStatState n ≠ 2 → Completes (.brineVisit v found) s (fun e =>
        moved e ∧ (e.vat n).fault = some (5, 0) ∧ Logged d e (pageIndex .vat n) 0x0906 1 ∧ e.hasCause I.vatHard n = true)) ∧
      (2 ≤ found.toNat → d.coverOf n w = none → Completes (.brineVisit v found) s (fun e =>
        moved e ∧ e.spadRead n (8 * w) 8 = List.replicate 8 0 ∧ e.get R.vatSpUe n = d.counted R.vatSpUe n ∧ Logged d e (pageIndex .vat n) 0x0905 0)) ∧
      (2 ≤ found.toNat → d.coverOf n w = some (h, g) → Completes (.brineVisit v found) s (fun e =>
        moved e ∧ e.handleEnt n h = some { g with poison := true } ∧ e.get R.vatSpUe n = d.counted R.vatSpUe n
          ∧ e.hasCause I.vatPoison n = true ∧ Logged d e (pageIndex .vat n) 0x0905 1))) ∧
    (d.underWipe n w = false → w = 262143 → found = 0 → Completes (.brineVisit v found) s (fun e =>
      e.get R.vatBrineStatCursor n = 0 ∧ e.get R.vatBrinePassPasses n = d.counted R.vatBrinePassPasses n
        ∧ (e.vat n).passAt = d.tick.count ∧ (e.vat n).late = false)) ∧
    (x.late = false → 1000000 ≤ d.microOf (d.tick.count - x.passAt).toNat → Completes (.brineLate v) s (fun e =>
      ChangesVat d e n { x with late := true } ∧ e.hasCause I.vatBrineLate n = true ∧ Logged d e (pageIndex .vat n) 0x0907 0
        ∧ OnlyLogs d { e with vats := d.vats } [I.vatBrineLate.addrOf n])) ∧
    (x.late = true ∨ d.microOf (d.tick.count - x.passAt).toNat < 1000000 → Becomes (.brineLate v) s d) ∧
    Completes (.spadWriteback v) s (fun e => ChangesVat d e n { x with wback := x.wback.drop 1 } ∧ OnlyRegs d { e with vats := d.vats } [])

/-- WIPE.ALL of a reserve or fenced vat invalidates its handles and wipes its scratchpad, which reads as zeros, and is refused of a serving one; the last pending wipe's
end sets WIPE_DONE and takes the vat out of reset; clock gating shows and counts; a write of RNG.PCMD seeds the probe's lane, then leaps (R482, R586 to R589, R593, R596,
R906). -/
def Obligations.WipesAndProbe : Prop :=
  ∀ (s : State) (c : Cls) (v : BitVec 5) (u : BitVec 2) (cycles : BitVec 32) (w : Word) (a : Nat), s.die.alive = true →
    let d := s.die
    let n := v.toNat
    let st := d.get R.vatStatState n
    let lane := d.get R.rngPselLane
    let ctx : SeedCtx :=
      { pseed := BitVec.ofNat 64 (d.get64 R.rngPseedLo R.rngPseedHi), group := BitVec.ofNat 12 (d.get R.rngPctxGroup)
        cid := BitVec.ofNat 16 (d.get R.rngPctxCid), chunk := BitVec.ofNat 32 (d.get R.rngPchunkChunk), tile := BitVec.ofNat 16 (d.get R.rngPposTile) }
    let was := BitVec.ofNat 64 (d.get64 R.rngPstateStateLo R.rngPstateStateHi)
    let seeded := if w.getLsbD 0 then seedOf ctx (d.get R.rngPposStep) lane else was
    let next := if w.getLsbD 1 then leap (tapsOf lane) seeded else seeded
    let probes (i : Instr) : Prop := Completes i s (fun e => e.get64 R.rngPstateStateLo R.rngPstateStateHi = next.toNat
      ∧ OnlyRegs d e [R.rngPstateStateLo.addrOf, R.rngPstateStateHi.addrOf])
    (d.underReset .vat n = false →
      (st = 1 ∨ st = 2 → Completes (.vatWipeAll c v) s (fun e =>
        (e.vat n).handles = [] ∧ (e.vat n).wipes = (d.vat n).wipes ++ [(0, 262144)] ∧ (a < 8 * 262144 → e.spadRead n a 1 = [0])
          ∧ e.get R.vatSpStatWiping n = 1 ∧ OnlyRegs d { e with vats := d.vats } [R.vatSpStatWiping.addrOf n])) ∧
      (st = 0 ∨ st = 3 → Completes (.vatWipeAll c v) s (fun e =>
        e.hget R.hdrStatAccessErr .vat n = 1 ∧ OnlyReports d e (accAddrs .vat n)))) ∧
    ((d.vat n).wipes ≠ [] → d.wipeLeft n ≤ 4 * d.tickCycles → Completes (.wipeDone v) s (fun e =>
      (e.vat n).wipes = [] ∧ e.get R.vatSpStatWiping n = 0 ∧ e.hget R.hdrStatReset .vat n = 0 ∧ e.hasCause I.vatWipeDone n = true)) ∧
    ((d.vat n).wipes = [] ∨ 4 * d.tickCycles < d.wipeLeft n → Becomes (.wipeDone v) s d) ∧
    (u = 0 → Completes (.vatClockGate v u cycles) s (fun e =>
      e.get R.vatStatGated n = 1 ∧ e.get R.vatGated n = d.counted R.vatGated n 0 cycles.toNat
        ∧ OnlyReports d e [R.vatStatGated.addrOf n, R.vatGated.addrOf n])) ∧
    (u ≠ 0 → Becomes (.vatClockGate v u cycles) s d) ∧
    (d.underReset .rng 0 = false →
      (w.getLsbD 0 = true → probes (.rngProbeSeed c w)) ∧ (w.getLsbD 0 = false → Becomes (.rngProbeSeed c w) s d) ∧
      (w.getLsbD 1 = true → probes (.rngProbeLeap c w)) ∧ (w.getLsbD 1 = false → Becomes (.rngProbeLeap c w) s d))

/-! ### Roles, plans and determinism (spec 03, 17, 18) -/

/-- CASC.ROLEn and ATTRn: each field of the write is taken for a port that shows IDLE and that no plan references; another keeps its old value, as does an attribute code
that its role does not have, and the write sets ACCESS_ERR; a locked page discards it whole (R19, R22, R109). -/
def Obligations.RolesAreWritten : Prop :=
  ∀ (s : State) (c : Cls) (n : Fin 12) (w : Word) (j : Fin 8), Serves s .casc 0 →
    let d := s.die
    let role := decide (n.val < 4)
    let f := if n.val < 4 then R.cascRole else R.cascAttr
    let r := if n.val < 4 then n.val else n.val - 4
    let v (k : Nat) : Nat := fieldGet w (f.width * k) f.width
    let p (k : Nat) : Nat := f.fn * r + k
    let free (k : Nat) : Bool := d.portIdle (p k) && !d.planNames (p k)
    let legal (k : Nat) : Bool := role || (decide (v k < 6) && !(d.get R.cascRole 0 (p k / 16) (p k % 16) == 3 && decide (4 ≤ v k)))
    let same (k : Nat) : Bool := v k == d.get f 0 r k
    (d.locked .casc = false → Completes (.roleAttrWrite c n w) s (fun e =>
      e.get f 0 r j.val = (if legal j.val ∧ free j.val then v j.val else d.get f 0 r j.val)
        ∧ ((List.range f.fn).all (fun k => same k || (legal k && free k)) = false → e.hget R.hdrStatAccessErr .casc = 1)
        ∧ ((List.range f.fn).all (fun k => same k || (legal k && free k)) = true → e.get R.chipAccCntCount = d.get R.chipAccCntCount)
        ∧ e.det = { d.det with dirty := e.det.dirty } ∧ OnlyReports d { e with det := d.det } (f.addrOf 0 r :: accAddrs .casc 0))) ∧
    (d.locked .casc = true → Completes (.roleAttrWrite c n w) s (fun e =>
      e.get f 0 r j.val = d.get f 0 r j.val ∧ e.hget R.hdrStatAccessErr .casc = 1
        ∧ e.get R.chipAccCntCount = d.counted R.chipAccCntCount ∧ OnlyReports d e (accAddrs .casc 0)))

/-- a LOAD takes an EMPTY slot into validation unless one runs; an image that fails a check leaves the slot EMPTY with its code, and one that passes is PENDING; at its
BASE it becomes ACTIVE, or activation fails with WIPE_LATE where a wipe has not ended. An UNLOAD waits for the edge, or is discarded as UNLOAD_BUSY (R728 to R734). -/
def Obligations.PlanLifeCycle : Prop :=
  ∀ (s : State) (c : Cls) (w : Word) (n : Fin 16) (i : PlanImg), s.die.alive = true →
    let d := s.die
    let k := fieldGet w 4 4
    let slot := d.plan k
    let quiet := d.recLive = false
    let refused (cmd : Instr) : Prop := Completes cmd s (fun e => e.hget R.hdrStatAccessErr .plan = 1 ∧ OnlyReports d e (accAddrs .plan 0))
    (d.underReset .plan 0 = false →
      (fieldGet w 0 2 ≠ 0 → Becomes (.planLoad c w) s d) ∧
      (fieldGet w 0 2 = 0 → d.plans.job.isSome = true ∨ slot.state ≠ 0 → refused (.planLoad c w)) ∧
      (fieldGet w 0 2 = 0 → d.plans.job = none → slot.state = 0 → Completes (.planLoad c w) s (fun e =>
        e.plan k = { slot with state := 1, ofs := fieldGet w 12 11 } ∧ e.plans.job = some k ∧ e.get R.planResBusy = 1 ∧ e.get R.planResDone = 0
          ∧ (quiet → OnlyRegs d { e with plans := d.plans } [R.planResBusy.addrOf]))) ∧
      (fieldGet w 0 2 ≠ 1 → Becomes (.planUnload c w) s d) ∧
      (fieldGet w 0 2 = 1 → d.plans.job.isSome = true ∨ slot.state = 0 ∨ slot.state = 4 → refused (.planUnload c w)) ∧
      (fieldGet w 0 2 = 1 → d.plans.job = none → slot.state = 3 → quiet →
        (d.mayUnload k true = true → Completes (.planUnload c w) s (fun e => e.plan k = { slot with leaving := true } ∧ e.get R.planResDone = 0
          ∧ OnlyRegs d { e with plans := d.plans } [R.planResDone.addrOf])) ∧
        (d.mayUnload k true = false → Completes (.planUnload c w) s (fun e => e.get R.planResCode = 0x1C ∧ e.get R.planResDone = 1
          ∧ OnlyRegs d e [R.planResDone.addrOf]))) ∧
      (fieldGet w 0 2 = 1 → d.plans.job = none → slot.state = 2 → slot.img = none → quiet → Completes (.planUnload c w) s (fun e =>
        e.plan k = PlanSlot.empty ∧ e.get R.planResCode = 0 ∧ e.hasCause I.planUnloaded = true))) ∧
    (d.plans.job = none → Becomes .planValidated s d) ∧
    (d.plans.job = some n.val →
      let d0 : Die := { d with plans := { d.plans with job := none } }
      let x := d0.validate (d0.plan n.val).ofs
      (x.isLeft = true → Completes .planValidated s (fun e =>
        e.plan n.val = PlanSlot.empty ∧ e.get R.planResCode = ((x.getLeft?).getD (0, 0)).1 % 2 ^ R.planResCode.width
          ∧ e.get R.planErrOfsOfs = ((x.getLeft?).getD (0, 0)).2 % 2 ^ R.planErrOfsOfs.width ∧ e.get R.planRejects = d.counted R.planRejects
          ∧ e.hasCause I.planRejected = true ∧ OnlyReports d { e with plans := d.plans } [R.planResCode.addrOf, R.planErrOfsOfs.addrOf,
              R.planRejects.addrOf, I.planRejected.addrOf])) ∧
      (x.isRight = true → Completes .planValidated s (fun e =>
        (e.plan n.val).state = 2 ∧ (e.plan n.val).img = (x.getRight?).map (·.1) ∧ (e.plan n.val).ltag = d.plans.ltag + 1
          ∧ e.get R.planResCode = 0 ∧ e.get R.planResDone = 1 ∧ e.get R.planLoads = d.counted R.planLoads ∧ e.hasCause I.planPending = true))) ∧
    (d.plansDue = [] → Becomes .planActivate s d) ∧
    (d.plansDue = [n.val] → (d.plan n.val).img = some i → d.planWiping n.val = true → Completes .planActivate s (fun e =>
      (e.plan n.val).state ≠ 3 ∧ e.get R.planResCode = 0x1A ∧ e.hasCause I.planActFail = true)) ∧
    (d.plansDue = [n.val] → (d.plan n.val).img = some i → d.planWiping n.val = false → i.repl = false → Completes .planActivate s (fun e =>
      (e.plan n.val).state = 3 ∧ e.hasCause I.planActive = true ∧ e.get R.detFpPending = 1))

/-- the acting master publishes the fingerprints of the snapshot, and a follower mirrors what it is sent; recording is asked for by EN and runs down when EN is cleared,
until its buffer is out or 16 ticks have passed; dropped entries become one GAP entry when there is room (R752, R755, R761, R762, R765). -/
def Obligations.FingerprintAndRecord : Prop :=
  ∀ (s : State) (c : Cls) (w : Word) (others : List FpBlock) (fp sfp : BitVec 64) (gen : BitVec 16), s.die.alive = true →
    let d := s.die
    let x := d.fingerprints others
    let still := d.recLive = false ∧ d.rpOn = false
    let fpRegs := [R.detFpLo.addrOf, R.detFpHi.addrOf, R.detSfpLo.addrOf, R.detSfpHi.addrOf, R.detFpPending.addrOf, R.detFpGen.addrOf, I.detFpChange.addrOf]
    let fields := [R.detRecCtlDigest, R.detRecCtlRing, R.detRecCtlOutput, R.detRecCtlHost, R.detRecCtlOwnerMgmt, R.detRecCtlOwner]
    let keeps := fields.all (fun f => fieldGet w f.lsb f.width == d.get f) = true
    (d.isMaster = true → d.bit R.detFpPending = false → Becomes (.fpPublish others none) s d) ∧
    (d.isMaster = true → d.bit R.detFpPending = true → still → Completes (.fpPublish others none) s (fun e =>
      e.fpNow = x.1 % 2 ^ 64 ∧ e.sfpNow = x.2 % 2 ^ 64 ∧ e.bit R.detFpPending = false ∧ e.hasCause I.detFpChange = true
        ∧ OnlyReports d e fpRegs)) ∧
    (d.isMaster = false → still → Completes (.fpPublish others (some (fp, sfp, gen))) s (fun e =>
      e.fpNow = fp.toNat ∧ e.sfpNow = sfp.toNat ∧ e.get R.detFpGen = gen.toNat ∧ e.bit R.detFpPending = false ∧ OnlyReports d e fpRegs)) ∧
    (d.isMaster = false → Becomes (.fpPublish others none) s d) ∧
    (d.underReset .det 0 = false →
      (w.getLsbD 0 = true → d.bit R.detRecCtlEn = false → d.get R.detRecState ≠ 2 → Completes (.recordEnable c w) s (fun e =>
        fields.all (fun f => e.get f == fieldGet w f.lsb f.width) = true ∧ e.get R.detRecCtlEn = 1 ∧ e.det = { d.det with recAsked := true }
          ∧ OnlyRegs d { e with det := d.det } [R.detRecCtlEn.addrOf])) ∧
      (w.getLsbD 0 = true → d.bit R.detRecCtlEn = true → ¬ keeps → Completes (.recordEnable c w) s (fun e =>
        fields.all (fun f => e.get f == d.get f) = true ∧ e.hget R.hdrStatAccessErr .det = 1
          ∧ OnlyReports d e (R.detRecCtlEn.addrOf :: accAddrs .det 0))) ∧
      (w.getLsbD 0 = false → keeps → d.bit R.detRecCtlEn = true → Completes (.recordDisable c w) s (fun e =>
        e.get R.detRecCtlEn = 0 ∧ e.det = { d.det with recAsked := false, drain := 0 }
          ∧ e.get R.detRecState = (if d.get R.detRecState = 1 then 2 else d.get R.detRecState)
          ∧ OnlyRegs d { e with det := d.det } [R.detRecCtlEn.addrOf, R.detRecState.addrOf])) ∧
      (w.getLsbD 0 = false → Becomes (.recordEnable c w) s d) ∧ (w.getLsbD 0 = true → Becomes (.recordDisable c w) s d)) ∧
    (d.get R.detRecState = 2 → 1 ≤ d.det.drain → d.det.buf = [] → d.det.lost = 0 → Completes .recordStopped s (fun e =>
      e.get R.detRecState = 3 ∧ e.get R.detRecCode = 0 ∧ e.hasCause I.detRecStop = true
        ∧ OnlyReports d { e with det := d.det } [R.detRecState.addrOf, R.detRecLost.addrOf, I.detRecStop.addrOf])) ∧
    (d.get R.detRecState = 2 → 16 ≤ d.det.drain → Completes .recordStopped s (fun e => e.get R.detRecState = 3 ∧ e.det.buf = [] ∧ e.det.lost = 0)) ∧
    (d.get R.detRecState ≠ 2 ∨ d.det.drain = 0 ∨ (d.det.buf ≠ [] ∧ d.det.drain < 16) → Becomes .recordStopped s d) ∧
    (d.recLive = true → d.det.lost ≠ 0 → d.recBytes + 32 ≤ Die.recCap → Completes .gapEntry s (fun e =>
      e.det = { d.det with buf := e.det.buf, lost := 0 } ∧ e.det.buf.length = d.det.buf.length + 1 ∧ e.recBytes = d.recBytes + 32
        ∧ e.hasCause I.detRecGap = true ∧ OnlyReports d { e with det := d.det } [I.detRecGap.addrOf])) ∧
    (d.recLive = false ∨ d.det.lost = 0 → Becomes .gapEntry s d)

/-- replay: EN asks for it or for its end at the next edge, with the other bits of RP_CTL; CLR clears the divergence latches and their count; the next entry of the log takes
effect when its shifted tick has come, a GAP entry ends replay with code GAP, and the last entry's effect ends it with code 0 (R767, R768, R770, R772, R774). -/
def Obligations.ReplayRuns : Prop :=
  ∀ (s : State) (c : Cls) (w : Word) (ent : RpEnt) (p : Byte) (data : List Byte) (r : List (List Byte)), s.die.alive = true →
    let d := s.die
    let o := Die.rpSkip Die.rpFuel d (16 * d.get R.detRpRptr)
    let past := d.set R.detRpRptr (o / 16)
    let on := d.rpOn = true ∧ d.det.rpStop = false
    let ends (e : Die) (code : Nat) : Prop := e.get R.detRpState = 2 ∧ e.get R.detRpCode = code ∧ e.hasCause I.detRpDone = true
      ∧ e.det = { d.det with late := [] } ∧ OnlyReports d { e with det := d.det } [R.detRpState.addrOf, R.detRpRptr.addrOf, I.detRpDone.addrOf]
    let bits (e : Die) : Prop := e.get R.detRpCtlInject = (w.getLsbD 1).toNat ∧ e.get R.detRpCtlCmp = (w.getLsbD 2).toNat
      ∧ e.get R.detRpCtlTiming = (w.getLsbD 3).toNat
    let latches := [R.detCmpBTick, R.detCmpBTickh, R.detCmpBPort, R.detCmpBKind, R.detCmpBValid, R.detCmpBSeid, R.detCmpBTid, R.detCmpBClass,
      R.detCmpBDeid, R.detCmpTTick, R.detCmpTTickh, R.detCmpTPort, R.detCmpTKind, R.detCmpTValid, R.detCmpTExc, R.detCmpCnt]
    let cleared (e : Die) : Prop := latches.all (fun f => e.get f == 0) = true ∧ e.get R.detCmpBFlit = 0x7F
    (d.underReset .det 0 = false →
      (w.getLsbD 0 = true → w.getLsbD 4 = false → Completes (.replayEnable c w) s (fun e => e.get R.detRpCtlEn = 1 ∧ bits e
        ∧ e.det = { d.det with rpAsked := d.det.rpAsked || !d.bit R.detRpCtlEn } ∧ OnlyRegs d { e with det := d.det } [R.detRpCtlEn.addrOf])) ∧
      (w.getLsbD 0 = true → w.getLsbD 4 = true → Completes (.replayEnable c w) s (fun e => e.get R.detRpCtlEn = 1 ∧ bits e ∧ cleared e)) ∧
      (w.getLsbD 0 = false → w.getLsbD 4 = false → Completes (.replayDisable c w) s (fun e => e.get R.detRpCtlEn = 0 ∧ bits e
        ∧ e.det = { d.det with rpAsked := d.det.rpAsked && !d.bit R.detRpCtlEn } ∧ OnlyRegs d { e with det := d.det } [R.detRpCtlEn.addrOf])) ∧
      (w.getLsbD 0 = false → Becomes (.replayEnable c w) s d) ∧ (w.getLsbD 0 = true → Becomes (.replayDisable c w) s d) ∧
      Completes (.cmpClear c) s (fun e => cleared e ∧ OnlyRegs d e (latches.map (fun f => f.addrOf) ++ [R.detCmpBFlit.addrOf]))) ∧
    (¬ on → Becomes .replayInject s d ∧ Becomes .replayLate s d) ∧
    (on → past.rpRead o = none → Becomes .replayInject s past) ∧
    (on → past.rpRead o = some ent → ent.kind = 7 ∨ ent.bad = true → Completes .replayInject s (fun e => ends e 6)) ∧
    (on → past.rpRead o = some ent → ent.kind ≠ 7 → ent.bad = false → past.rpActs ent = true → past.rpDue ent = true →
      Becomes .replayInject s ((past.set R.detRpRptr (ent.next / 16)).injectEntry ent)) ∧
    (on → past.rpRead o = some ent → ent.kind ≠ 7 → ent.bad = false → past.rpActs ent = false ∨ past.rpDue ent = false → Becomes .replayInject s past) ∧
    (on → d.det.late = [] → Becomes .replayLate s d) ∧
    (on → d.det.late = (p :: data) :: r →
      ((d.injectAccept p.toNat data).2 = true → Becomes .replayLate s (d.injectAccept p.toNat data).1) ∧
      ((d.injectAccept p.toNat data).2 = false → Becomes .replayLate s
        { (d.injectAccept p.toNat data).1 with det := { (d.injectAccept p.toNat data).1.det with late := r } })) ∧
    (d.rpOn = true → d.replayOver = true → Completes .replayEnd s (fun e => ends e 0)) ∧
    (d.rpOn = false ∨ d.replayOver = false → Becomes .replayEnd s d)

/-! ### Collectives (spec 15) -/

/-- the queues of a group: a doorbell that fits moves its index and locks or unlocks the slots it passes, and another counts and logs QUEUE_DOORBELL_BAD; a host write
to a locked SQ slot counts as an overwrite, and one to a CQ slot is an access error; a drained descriptor starts or is REJECTED; a record is held while its slot is locked;
16 ticks without PHASE log QUEUE_UNDERFILL (R616, R618, R619 to R625, R628, R631, R632). -/
def Obligations.CollectiveQueues : Prop :=
  ∀ (s : State) (c : Cls) (g : BitVec 12) (x : BitVec 9) (rid : BitVec 16) (ofs : BitVec 29) (b : Byte) (h : HeldRec) (a' : Nat), s.die.alive = true →
    let d := s.die
    let n := g.toNat
    let k := n / 256
    let G := d.group n
    let serves := d.underReset .coll k = false ∧ d.replayGroup n = false ∧ d.recLive = false
    let ring (p q : Nat) : Nat := (p + 512 - q) % 512
    let gone := ringSpan G.cqHead x.toNat
    let badDb (i : Instr) : Prop := Completes i s (fun e => e.get R.collOverwrite k = d.counted R.collOverwrite k
      ∧ Logged d e (pageIndex .coll k) 0x0A02 0 ∧ OnlyLogs d e [R.collOverwrite.addrOf k])
    let refused (i : Instr) (j : Nat) : Prop := Completes i s (fun e => e.hget R.hdrStatAccessErr .coll j = 1 ∧ OnlyReports d e (accAddrs .coll j))
    let only (e : Die) (as : List Nat) : Prop := OnlyRegs d { e with coll := d.coll, cave := d.cave, telem := d.telem } as
    let a := ofs.toNat % 0x8000000
    let hostMem := d.isMaster = true ∧ d.inD0 = true ∧ d.bit R.hostLinkMemEn = true
    let reaches := hostMem ∧ ofs.toNat / 0x8000000 = d.pos ∧ d.underReset .cave 0 = false
    let m := a / 0x6000
    let wr := Instr.queueSlotWrite false rid ofs [some b]
    let de := readDescr (d.caveRead (sqAddr n G.sqHead) 64)
    let start := d.tick.count + BitVec.ofNat 48 ((G.ent.map (·.lead)).getD 16)
    let drains := d.mayDrain n = true ∧ d.sqReady n = true
    let due := G.resend.filter (fun r => decide (16 ≤ (d.tick.count - r.2).toNat))
    (serves → d.isHome n = true →
      (ring x.toNat G.sqHead ≤ 256 → ring G.sqTail G.sqHead ≤ ring x.toNat G.sqHead → Completes (.sqDoorbell c g x) s (fun e =>
        ChangesGroup d e n { G with sqTail := x.toNat }
          ∧ e.cave = (d.forAll (ringSpan G.sqTail x.toNat) (fun d i => d.setLock (sqAddr n i) true)).cave ∧ only e [])) ∧
      (256 < ring x.toNat G.sqHead ∨ ring x.toNat G.sqHead < ring G.sqTail G.sqHead → badDb (.sqDoorbell c g x)) ∧
      (ring x.toNat G.cqHead ≤ ring G.cqTail G.cqHead → Completes (.cqDoorbell c g x) s (fun e =>
        ChangesGroup d e n { G with cqHead := x.toNat, resend := G.resend.filter (fun r => !gone.contains r.1) }
          ∧ e.cave = (d.forAll gone (fun d i => d.setLock (cqAddr n i) false)).cave ∧ only e [])) ∧
      (ring G.cqTail G.cqHead < ring x.toNat G.cqHead → badDb (.cqDoorbell c g x))) ∧
    (serves → d.isHome n = false → refused (.sqDoorbell c g x) k ∧ refused (.cqDoorbell c g x) k) ∧
    (d.isMaster = true → ¬ hostMem → Becomes wr s d) ∧
    (reaches → a < 0x6000000 → d.isHome m = true → d.replayGroup m = false → a % 0x6000 < 0x4000 → d.slotLock (a / 64 * 64) = true →
      Completes wr s (fun e => e.get R.collOverwrite (m / 256) = d.counted R.collOverwrite (m / 256) ∧ Logged d e (pageIndex .coll (m / 256)) 0x0A01 0
        ∧ e.hasCause I.collOverwrite (m / 256) = true ∧ OnlyLogs d e [R.collOverwrite.addrOf (m / 256), I.collOverwrite.addrOf (m / 256)])) ∧
    (reaches → a < 0x6000000 → d.isHome m = true → d.replayGroup m = false → d.recLive = false → a % 0x6000 < 0x4000 →
      d.slotLock (a / 64 * 64) = false → (d.caveOwner a).isSome = true → d.caveBad a = false → Completes wr s (fun e =>
        e.caveByte a = (if a % 64 = 0 then (b &&& 0xFD#8) else b) ∧ (a' ≠ a → e.caveByte a' = d.caveByte a') ∧ e.coll = d.coll ∧ only e [])) ∧
    (reaches → a < 0x6000000 → d.isHome m = true → 0x4000 ≤ a % 0x6000 → refused wr (m / 256)) ∧
    (¬ drains → Becomes (.descAdmit g) s d) ∧
    (drains → Completes (.descAdmit g) s (fun e =>
      (e.group n).sqHead = (G.sqHead + 1) % 512 ∧ (e.group n).stalled = false ∧ (e.group n).wait = 0 ∧ e.coll = { d.coll with groups := e.coll.groups }
        ∧ (G.early = [] → (e.group n).run.map (fun r => (r.d, r.start, r.sqSlot, r.ended)) =
            some (de, start, G.sqHead, (d.descrReason n de).map (fun w => (4, w))))
        ∧ ((d.descrReason n de).isSome = true → only e []))) ∧
    (16 ≤ G.wait → G.stalled = false → Completes (.queueUnderfill g) s (fun e => ChangesGroup d e n { G with stalled := true }
      ∧ e.get R.collUnderfill k = d.counted R.collUnderfill k ∧ Logged d e (pageIndex .coll k) 0x0A00 1 ∧ e.hasCause I.collUnderfill k = true
      ∧ OnlyLogs d { e with coll := d.coll } [R.collUnderfill.addrOf k, I.collUnderfill.addrOf k])) ∧
    (G.wait < 16 ∨ G.stalled = true → Becomes (.queueUnderfill g) s d) ∧
    (d.isHome n = false → Becomes (.completionWrite g) s d) ∧
    (d.isHome n = true →
      (G.heldRec = some h → d.slotLock (cqAddr n G.cqTail) = true → Becomes (.completionWrite g) s d) ∧
      (G.heldRec = some h → d.slotLock (cqAddr n G.cqTail) = false → Completes (.completionWrite g) s (fun e =>
        (e.group n).cqTail = (G.cqTail + 1) % 512 ∧ (e.group n).heldRec = none ∧ (e.group n).run = G.run ∧ e.get R.collDone k = d.counted R.collDone k
          ∧ (h.notify = true → e.hasCause I.collComplete k = true) ∧ e.coll = { d.coll with groups := e.coll.groups }))) ∧
    (due = [] → Completes (.cqRecordResend g) s (fun e => ChangesGroup d e n G ∧ OnlyRegs d { e with coll := d.coll } [])) ∧
    Completes (.cqRecordResend g) s (fun e => (e.group n).resend = G.resend.map (fun r => if 16 ≤ (d.tick.count - r.2).toNat then (r.1, d.tick.count) else r)
      ∧ ChangesGroup d e n { G with resend := (e.group n).resend })

/-- a collective on one die: START starts it once and is acknowledged; a chunk that is ready is admitted in order; a partial that does not count is discarded and counted in
COLL.DUP; DONE of a child counts, and is answered with FIN where the chunk is finished; FIN finishes a chunk; a chunk held for HOLD_MAX ticks ends the collective with
reason MEMBER; HOME completes it when it holds every FIN (R632, R633, R635, R637, R642, R645 to R647). -/
def Obligations.CollectiveRuns : Prop :=
  ∀ (s : State) (g : BitVec 12) (c : BitVec 32) (p : BitVec 7) (pk : Packet) (r : CollRun) (ge : GroupEnt) (tr : TreeRec), s.die.alive = true →
    let d := s.die
    let n := pk.group.toNat
    let ch := pk.chunk.toNat
    let G := d.group n
    let m := g.toNat
    let M := d.group m
    let tells (kind arg : Nat) : Die := d.cctlTo n pk.seid.toNat kind pk.cid.toNat (if kind = 0xB then ch else 0) arg []
    let dup := Completes (.partialRx p pk) s (fun e => e.get R.collDup (n / 256) = d.counted R.collDup (n / 256) ∧ OnlyReports d e [R.collDup.addrOf (n / 256)])
    let next := d.nextChunk m r
    let now := d.tick.count
    let pv := pk.op = 0x11 ∧ pk.hcrcOk = true ∧ pk.crc64Ok = true ∧ G.ent = some ge ∧ ge.tid = pk.tid.toNat
    let older := (BitVec.ofNat 16 r.d.cid - pk.cid).toNat < 2 ^ 15
    let fresh (t : Option (BitVec 48)) : Bool := (t.map (fun t => now != t && (now - t).toNat % 4 == 0)).getD false
    let lateAt := Die.plannedTick r next + BitVec.ofNat 48 ge.holdMax
    -- START and START_ACK
    (d.isCctl pk 8 = false ∨ d.isHome n = true → Becomes (.start pk) s d) ∧
    (d.isCctl pk 8 = true → d.isHome n = false →
      (G.run = some r → r.d.cid = pk.cid.toNat → Becomes (.start pk) s (tells 9 0)) ∧ (G.run = some r → r.d.cid ≠ pk.cid.toNat → Becomes (.start pk) s d) ∧
      (G.run = none → G.early = [] → Completes (.start pk) s (fun e => (e.group n).run.map (fun x => (x.d, x.home, x.start, x.arrived, x.ended)) =
          some (readDescr pk.payload, pk.seid.toNat, BitVec.ofNat 48 pk.arg.toNat, now, none)
        ∧ e.coll = { d.coll with groups := e.coll.groups } ∧ e.dlv = d.dlv ∧ e.hoops = d.hoops ∧ e.vats = d.vats))) ∧
    (d.isCctl pk 9 = false ∨ pk.arg ≠ 0 → Becomes (.startAck pk) s d) ∧
    (d.isCctl pk 9 = true → pk.arg = 0 → G.run = some r → Completes (.startAck pk) s (fun e =>
      ChangesGroup d e n { G with run := some (if r.d.cid = pk.cid.toNat then { r with acked := r.acked ++ [pk.seid.toNat] } else r) }
        ∧ OnlyRegs d { e with coll := d.coll } [])) ∧
    -- chunks
    (M.run = none → Becomes (.chunkAdmit g) s d ∧ Becomes (.collMemberLate g) s d ∧ Becomes (.doneFinRepeat g c) s d) ∧
    (M.run = some r → d.chunkReady m r next = false → Becomes (.chunkAdmit g) s d) ∧
    (M.run = some r → d.chunkReady m r next = true → Completes (.chunkAdmit g) s (fun e =>
      (e.group m).run.map (·.next) = some (next + 1) ∧ (e.chunkOf m next).admitted = some now)) ∧
    (M.run = some r → M.ent = some ge → r.ended = none → next < r.nchunks → d.reached lateAt = true → Completes (.collMemberLate g) s (fun e =>
      (e.group m).run.map (·.ended) = some (some (2, 6)) ∧ Logged d e (pageIndex .coll (m / 256)) 0x0A03 1 ∧ e.hasCause I.collMember (m / 256) = true
        ∧ (d.isHome m = true → ChangesGroup d e m { M with run := some { r with ended := some (2, 6) } }
          ∧ OnlyLogs d { e with coll := d.coll } [I.collMember.addrOf (m / 256)]))) ∧
    (M.run = some r → r.ended.isSome = true → Becomes (.collMemberLate g) s d) ∧
    -- partials
    (pk.op ≠ 0x11 ∨ pk.hcrcOk = false ∨ pk.crc64Ok = false ∨ G.ent = none → Becomes (.partialRx p pk) s d) ∧
    (G.ent = some ge → ge.tid ≠ pk.tid.toNat → Becomes (.partialRx p pk) s d) ∧
    (pv → G.run = some r → r.d.cid ≠ pk.cid.toNat → older → dup) ∧
    (pv → G.run = some r → r.d.cid = pk.cid.toNat →
      (d.chunkTree n r ch = none → dup) ∧
      (d.chunkTree n r ch = some tr →
        ((tr.tree, tr.alt) ≠ (pk.arg.toNat % 8, pk.arg.toNat / 16 % 2 == 1) → dup) ∧
        ((tr.tree, tr.alt) = (pk.arg.toNat % 8, pk.arg.toNat / 16 % 2 == 1) →
          ((d.chunkOf n ch).parts.any (fun x => x.1 == pk.seid.toNat && x.2.1 == pk.addr.toNat) = true → dup) ∧
          Becomes (.partialRx p pk) s (d.takePartial n r tr pk)))) ∧
    (pv → G.run = none ∨ (G.run = some r ∧ r.d.cid ≠ pk.cid.toNat ∧ ¬ older) → Becomes (.partialRx p pk) s (d.earlyPartial n pk)) ∧
    -- DONE and FIN
    (d.isCctl pk 0xA = false → Becomes (.done pk) s d) ∧ (d.isCctl pk 0xB = false → Becomes (.fin pk) s d) ∧
    (d.isCctl pk 0xA = true → G.run = none ∨ (G.run = some r ∧ r.d.cid ≠ pk.cid.toNat) ∨ (d.chunkOf n ch).fin.isSome = true → Becomes (.done pk) s (tells 0xB 0)) ∧
    (d.isCctl pk 0xA = true → G.run = some r → r.d.cid = pk.cid.toNat → (d.chunkOf n ch).fin = none → Completes (.done pk) s (fun e =>
      pk.seid.toNat ∈ (e.chunkOf n ch).kidsDone ∧ e.coll = { d.coll with groups := e.coll.groups })) ∧
    (d.isCctl pk 0xB = true → G.run = none ∨ (G.run = some r ∧ r.d.cid ≠ pk.cid.toNat) → Becomes (.fin pk) s d) ∧
    (d.isCctl pk 0xB = true → G.run = some r → r.d.cid = pk.cid.toNat → (d.chunkOf n ch).fin = none → d.isHome n = true → Completes (.fin pk) s (fun e =>
      e.chunkOf n ch = { d.chunkOf n ch with contrib := [], parts := [], stored := [], kept := [], results := [], fin := some now }
        ∧ (e.group n).run.map (fun x => (x.fins, x.ended)) = some (if r.fins.contains ch then r.fins else r.fins ++ [ch], r.ended)
        ∧ e.coll = { d.coll with groups := e.coll.groups })) ∧
    (M.run = some r → d.chunkTree m r c.toNat = none → Becomes (.doneFinRepeat g c) s d) ∧
    (M.run = some r → d.chunkTree m r c.toNat = some tr →
      (tr.root = true → Becomes (.doneFinRepeat g c) s (if fresh (d.chunkOf m c.toNat).fin
        then d.forAll (d.groupDies m) (fun d x => d.cctlTo m x 0xB r.d.cid c.toNat 0 []) else d)) ∧
      (tr.root = false → Becomes (.doneFinRepeat g c) s (if (d.chunkOf m c.toNat).fin = none ∧ fresh (d.chunkOf m c.toNat).doneAt = true
        then d.cctlTo m (Die.dieEid tr.parent.1 tr.parent.2) 0xA r.d.cid c.toNat 0 [] else d))) ∧
    -- the completion record
    (d.isHome m = true → M.heldRec = none → M.run = some r → d.allFin m r = false → r.ended = none → Becomes (.completionWrite g) s d) ∧
    (d.isHome m = true → M.heldRec = none → M.run = some r → d.allFin m r = true → r.ended = none → r.chunks.all (fun x => x.2.fin.isSome) = true →
      Completes (.completionWrite g) s (fun e => (e.group m).run = none
        ∧ (d.slotLock (cqAddr m M.cqTail) = false → (e.group m).cqTail = (M.cqTail + 1) % 512 ∧ e.get R.collDone (m / 256) = d.counted R.collDone (m / 256))
        ∧ (d.slotLock (cqAddr m M.cqTail) = true → (e.group m).cqTail = M.cqTail ∧ (e.group m).heldRec.isSome = true
          ∧ e.get R.collOverwrite (m / 256) = d.counted R.collOverwrite (m / 256))))

/-- the commands of groups: a CCTL is settled by what HOME makes of it, and RETURNED(REJECTED) where R627 says so; STOP runs the group down and fixes CSTOP, ABORT decides the
collective's end and drains the ring, RESUME clears; each is forwarded until it is acknowledged, and a die that is not HOME refuses them and acts on what is
forwarded (R626, R627, R657 to R660). -/
def Obligations.CollectiveCommands : Prop :=
  ∀ (s : State) (c : Cls) (g : BitVec 12) (p : BitVec 7) (ix : BitVec 12) (pk : Packet) (ans : Option Bool) (kind : Fin 4) (r : CollRun) (ge : GroupEnt),
    s.die.alive = true →
    let d := s.die
    let k := 4096 * p.toNat + ix.toNat
    let x := d.led k
    let cctl := if kind.val = 0 then Instr.cctlDesc p ix pk ans else if kind.val = 1 then Instr.cctlSqDb p ix pk ans
      else if kind.val = 2 then Instr.cctlCqDb p ix pk ans else Instr.cctlCmd p ix pk ans
    let mine := p ≠ 64 ∧ x.own = true ∧ x.pkt.op = 8 ∧ x.pkt.addr.toNat % 16 = kind.val ∧ x.state ≠ .settled
    let X := x.pkt.group.toNat
    let applied := d.applyCctl x.pkt kind.val
    let afar := d.applyCctl pk kind.val
    let n := g.toNat
    let G := d.group n
    let u := UnitId.group g
    let serves := d.underReset .coll (n / 256) = false ∧ d.replayGroup n = false ∧ d.recLive = false
    let cid := (G.run.map (·.d.cid)).getD 0
    let cs := (G.run.map d.cstopOf).getD 0
    let sent (e : Die) (code arg : Nat) : Prop := (e.group n).cmds = G.cmds ++ [(code, arg, cid, [])] ∧ e.get R.collCmdStatStatus (n / 256) = 0
      ∧ e.coll = { d.coll with groups := e.coll.groups }
    let away (i : Instr) : Prop := Completes i s (fun e => e.get R.collCmdStatStatus (n / 256) = (if G.ent.isSome then 1 else 2)
      ∧ e.hget R.hdrStatAccessErr .coll (n / 256) = 1 ∧ OnlyReports d e (R.collCmdStatStatus.addrOf (n / 256) :: accAddrs .coll (n / 256)))
    let N := pk.group.toNat
    let code := pk.arg.toNat % 16
    let why := pk.arg.toNat / 16 % 16
    let fwd := d.isCctl pk 0xC = true ∧ d.isHome N = false
    -- CCTL
    (p ≠ 64 → ¬ mine → Becomes cctl s d) ∧
    (mine → ans.isSome = true → Becomes cctl s (if x.state = .held then d.settle k (if ans = some true then 0 else 4) else d)) ∧
    (mine → ans = none →
      ((d.group X).ent = none → Becomes cctl s (d.settle k 4)) ∧
      ((d.group X).ent = some ge → ge.hasq = false → Becomes cctl s (d.settle k 4)) ∧
      (d.isHome X = true → Becomes cctl s (applied.1.settle k (if applied.2 then 0 else 4))) ∧
      (d.isHome X = true → (d.group X).ent = some ge → ge.tid ≠ x.pkt.tid.toNat ∨ ge.lkind = false ∨ ge.leid ≠ x.pkt.seid → Becomes cctl s (d.settle k 4)) ∧
      ((d.group X).ent = some ge → ge.hasq = true → d.isHome X = false →
        Becomes cctl s (if x.state = .held then d
          else (d.modLed k (fun y => { y with state := .held })).originate ({ x.pkt with deid := BitVec.ofNat 17 (Die.dieEid d.selfNode ge.home) }).finish))) ∧
    (p = 64 → pk.op ≠ 8 ∨ pk.addr.toNat % 16 ≠ kind.val → Becomes cctl s d) ∧
    (p = 64 → pk.op = 8 → pk.addr.toNat % 16 = kind.val → d.underReset .coll (N / 256) = true → Becomes cctl s (d.sendRetry pk)) ∧
    (p = 64 → pk.op = 8 → pk.addr.toNat % 16 = kind.val → d.underReset .coll (N / 256) = false → Completes cctl s (fun e =>
      e.out = afar.1.out ++ [.toDie (eidDie pk.seid) "CCTL_ANSWER" [eidPort pk.seid, pk.fseq.toNat, afar.2.toNat]] ∧ e = { afar.1 with out := e.out })) ∧
    -- commands on HOME, and on another die
    (serves → d.isHome n = true →
      ((d.rundown u).phase = .run → Completes (.groupStop c g) s (fun e => sent e 1 cs
        ∧ e.rundown u = { d.rundown u with phase := .closing, bound := d.unitBound u, cleared := false, reopen := false }
        ∧ (e.group n).run.map (·.cstop) = G.run.map (fun _ => some cs))) ∧
      ((d.rundown u).phase ≠ .run → Completes (.groupStop c g) s (fun e => e.get R.collCmdStatStatus (n / 256) = 0
        ∧ OnlyRegs d e [R.collCmdStatStatus.addrOf (n / 256)])) ∧
      Completes (.groupAbort c g) s (fun e => sent e (2 + 16 * 5) 0 ∧ (e.group n).draining = true
        ∧ (e.group n).run = G.run.map (fun r => if r.ended.isNone then { r with ended := some (2, 5) } else r) ∧ (e.rundown u).phase ≠ .run) ∧
      Completes (.groupResume c g) s (fun e => sent e 3 0 ∧ (e.group n).run = G.run ∧ e.rundown u = (d.clearRundown u).rundown u)) ∧
    (serves → d.isHome n = false → away (.groupStop c g) ∧ away (.groupAbort c g) ∧ away (.groupResume c g)) ∧
    -- forwarded
    (d.isCctl pk 0xC = false → Becomes (.cmdFwd pk) s d) ∧
    (d.isCctl pk 0xC = true → d.isHome N = true → (d.group N).run = some r → r.d.cid = pk.cid.toNat → code = 2 → r.ended = none →
      Completes (.cmdFwd pk) s (fun e => ChangesGroup d e N { d.group N with run := some { r with ended := some (2, why) } }
        ∧ OnlyRegs d { e with coll := d.coll } [])) ∧
    (d.isCctl pk 0xC = true → d.isHome N = true → (d.group N).run = none ∨ code ≠ 2 → Becomes (.cmdFwd pk) s d) ∧
    (fwd → code = 1 → (d.rundown (.group pk.group)).phase = .run → Completes (.cmdFwd pk) s (fun e =>
      (e.rundown (.group pk.group)).phase = .closing ∧ (e.group N).run.map (·.cstop) = (d.group N).run.map (fun _ => some (pk.arg.toNat / 2 ^ 32)))) ∧
    (fwd → code = 2 → why = 5 → Completes (.cmdFwd pk) s (fun e => (e.group N).run = none ∧ (e.group N).early = [])) ∧
    (fwd → code = 2 → why ≠ 5 → Completes (.cmdFwd pk) s (fun e =>
      (e.group N).run = (if ((d.group N).run.map (·.d.cid)) = some pk.cid.toNat then none else (d.group N).run) ∧ (e.group N).early = (d.group N).early)) ∧
    (fwd → code = 3 ∨ code = 0 ∨ 4 ≤ code → Completes (.cmdFwd pk) s (fun e => (e.group N).run = (d.group N).run
      ∧ (e.rundown (.group pk.group)) = if code = 3 then (d.clearRundown (.group pk.group)).rundown (.group pk.group) else d.rundown (.group pk.group))) ∧
    (d.isCctl pk 9 = false ∨ pk.arg = 0 → Becomes (.cmdFwdAck pk) s d) ∧
    (d.isCctl pk 9 = true → pk.arg ≠ 0 → Completes (.cmdFwdAck pk) s (fun e => ChangesGroup d e N { d.group N with
        cmds := ((d.group N).cmds.map (fun y => if y.1 = pk.arg.toNat then (y.1, y.2.1, y.2.2.1, y.2.2.2 ++ [pk.seid.toNat]) else y)).filter
          (fun y => !(d.groupDies N).all (fun z => y.2.2.2.contains z)) }
      ∧ OnlyRegs d { e with coll := d.coll } []))

/-! ### Tenants and security (spec 19) -/

/-- TEN.CTL: EN of a FREE tenant asks for its admission at the next edge while Gnotik runs, and its clearing schedules the kill of an ACTIVE one for the next
edge; EN of a KILLING or WIPING tenant is refused; KILL is taken at a tick at least 16 ticks ahead, or at the next edge. HOST_CAVE and DEBUG_ALLOW are written
(R35, R776, R781, R786, R787). The kill edge makes the tenant KILLING with the bound of its plans, and its cause sets; when its abort has nothing left, or its
bound has ended, it is WIPING: its cells lose their owners and its cave key is destroyed, of which the generation moves on and is never 0; when all its wipes
have ended it is FREE, without HOST_CAVE and DEBUG_ALLOW (R789, R790, R792, R794, R875). -/
def Obligations.TenantsAdmittedAndKilled : Prop :=
  (∀ (s : State) (c : Cls) (t : BitVec 8) (w : Word), s.die.alive = true →
    let d := s.die
    let i := t.toNat / 4
    let j := t.toNat % 4
    let st := d.tenState t.toNat
    let k := d.ktick t.toNat
    let ahead := (BitVec.ofNat 48 k - d.tick.count).toNat
    let kill (v : Nat) : SMap (Option Nat) := smapSet none d.ten.killAt t.toNat (some v)
    let nextEdge := (d.tick.count + 1).toNat
    let en := w.getLsbD 0
    let flags (e : Die) : Prop := e.get R.tenCtlDebugAllow i j = (w.getLsbD 2).toNat ∧ e.get R.tenCtlHostCave i j = (w.getLsbD 3).toNat
    let ctl := R.tenCtlEn.addrOf i j
    let ran (c : Instr) (P : Die → Prop) : Prop := Completes c s (fun e => flags e ∧ P e ∧ OnlyRegs d { e with ten := d.ten } [ctl])
    let refused (c : Instr) : Prop := Completes c s (fun e => flags e ∧ e.get R.tenCtlEn i j = d.get R.tenCtlEn i j ∧ e.ten = d.ten
      ∧ e.hget R.hdrStatAccessErr .ten i = 1 ∧ OnlyReports d e (ctl :: accAddrs .ten i))
    (en = false → Becomes (.tenantAdmit c t w) s d) ∧ (en = true → Becomes (.tenantEnClear c t w) s d) ∧
    (w.getLsbD 1 = false → Becomes (.tenantKill c t w) s d) ∧
    (d.underReset .ten i = false →
      (en = true → w.getLsbD 1 = false →
        (st = 2 ∨ st = 3 ∨ (st = 0 ∧ d.boot.gnotik = false) → refused (.tenantAdmit c t w)) ∧
        (st = 0 → d.boot.gnotik = true → ran (.tenantAdmit c t w) (fun e => e.get R.tenCtlEn i j = 1
          ∧ e.ten = { d.ten with admits := if d.ten.admits.contains t.toNat then d.ten.admits else d.ten.admits ++ [t.toNat] })) ∧
        (st = 1 → ran (.tenantAdmit c t w) (fun e => e.get R.tenCtlEn i j = 1 ∧ e.ten = d.ten))) ∧
      (en = false → w.getLsbD 1 = false →
        (st = 1 → ran (.tenantEnClear c t w) (fun e => e.get R.tenCtlEn i j = 0 ∧ e.ten = { d.ten with killAt := kill nextEdge })) ∧
        (st ≠ 1 → ran (.tenantEnClear c t w) (fun e => e.get R.tenCtlEn i j = 0 ∧ e.ten = { d.ten with admits := d.ten.admits.filter (· != t.toNat) }))) ∧
      (w.getLsbD 1 = true → st ≠ 1 → Completes (.tenantKill c t w) s (fun e => e.ten.killAt = d.ten.killAt ∧ e.tenState t.toNat = st)) ∧
      (en = true → w.getLsbD 1 = true → st = 1 →
        (k = 0 → ran (.tenantKill c t w) (fun e => e.get R.tenCtlEn i j = 1 ∧ e.ten = { d.ten with killAt := kill nextEdge })) ∧
        (k ≠ 0 → 16 ≤ ahead → ahead < 2 ^ 47 → ran (.tenantKill c t w) (fun e => e.get R.tenCtlEn i j = 1 ∧ e.ten = { d.ten with killAt := kill k })) ∧
        (k ≠ 0 → ahead < 16 ∨ 2 ^ 47 ≤ ahead → Completes (.tenantKill c t w) s (fun e => e.ten = d.ten ∧ e.hget R.hdrStatAccessErr .ten i = 1
          ∧ OnlyReports d e (ctl :: accAddrs .ten i)))))) ∧
  (∀ (s : State) (t : BitVec 8) (k n : Nat) (x : HoopCell), s.die.alive = true →
    let d := s.die
    let i := t.toNat / 4
    let j := t.toNat % 4
    let st (e : Die) : Nat := e.tenState t.toNat
    let due := smapGet none d.ten.killAt t.toNat = some k ∧ st d = 1 ∧ d.reached (BitVec.ofNat 48 k) = true
    let ends := st d = 2 ∧ (d.get R.tenStatLeft i j = 0 ∨ d.killIdle t.toNat = true)
    let gen := d.caveGen (.tenant t.toNat)
    (due → Completes (.killEdge t) s (fun e => st e = 2 ∧ e.get R.tenStatLeft i j = d.killBound t.toNat % 2 ^ R.tenStatLeft.width
      ∧ e.hasCause (I.tenKilling j) i = true ∧ smapGet none e.ten.killAt t.toNat = none ∧ e.cave = d.cave ∧ e.hoops = d.hoops ∧ e.vats = d.vats)) ∧
    (smapGet none d.ten.killAt t.toNat = some k → ¬ (st d = 1 ∧ d.reached (BitVec.ofNat 48 k) = true) → Becomes (.killEdge t) s d) ∧
    (smapGet none d.ten.killAt t.toNat = none → Becomes (.killEdge t) s d) ∧
    (¬ ends → Becomes (.tenantWipe t) s d) ∧
    (ends → Completes (.tenantWipe t) s (fun e => st e = 3 ∧ e.get R.tenStatLeft i j = 0
      ∧ e.caveGen (.tenant t.toNat) = (if gen = 0xFFFF then 1 else gen + 1)
      ∧ e.cave.sweeps = d.cave.sweeps.filter (· != t.toNat) ++ [t.toNat] ∧ e.cave.mem = d.cave.mem)) ∧
    (ends → d.tenGroups t.toNat = [] → (n, x) ∈ d.hoops.cells → x.owners ≠ [] → x.mgmt = false → x.tid.toNat = t.toNat →
      d.dlv.ledger = [] → d.dlv.flows = [] → Completes (.tenantWipe t) s (fun e => (n, { x with owners := [], queued := true }) ∈ e.hoops.cells)) ∧
    (¬ (st d = 3 ∧ d.wipeOver t.toNat = true) → Becomes (.tenantFree t) s d) ∧
    (st d = 3 → d.wipeOver t.toNat = true → Completes (.tenantFree t) s (fun e => st e = 0 ∧ e.get R.tenCtlDebugAllow i j = 0 ∧ e.get R.tenCtlHostCave i j = 0
      ∧ e.hasCause (I.tenKillDone j) i = true
      ∧ OnlyReports d e [R.tenStatState.addrOf i j, R.tenCtlDebugAllow.addrOf i j, (I.tenKillDone j).addrOf i])))

/-- debug is unlocked by a good token, FAILED by another, and stays locked under test mode; a lock write locks it; a read of the nonce's low half makes a fresh nonce; fuse
commands run only while debug is locked and the page is not, and the running image's slot cannot be revoked (R800, R806 to R808, R955, R987). -/
def Obligations.DebugAndFuses : Prop :=
  ∀ (s : State) (c : Cls) (ok : Bool) (slot : BitVec 2), Serves s .sec 0 →
    let d := s.die
    let dbg (i : Instr) (v : Nat) : Prop := Completes i s (fun e => e.get R.secDbgState = v
      ∧ (d.get R.secDbgState ≠ v → e.hasCause I.secDbgChange = true) ∧ OnlyReports d e [R.secDbgState.addrOf, I.secDbgChange.addrOf])
    let refused (i : Instr) : Prop := Completes i s (fun e => e.hget R.hdrStatAccessErr .sec = 1 ∧ OnlyReports d e (accAddrs .sec 0))
    let fused (i : Instr) (f : Fld) (v : Nat) : Prop := Completes i s (fun e => e.get f = v ∧ e.hasCause I.secFuseDone = true
      ∧ OnlyReports d e [f.addrOf, I.secFuseDone.addrOf])
    let revoked := d.get R.secFuseStatRevoked
    (d.bit R.chipStrapTestMode = true → Becomes (.debugUnlock c ok) s d) ∧
    (d.bit R.chipStrapTestMode = false → dbg (.debugUnlock c ok) (if d.tokenOk ok then 1 else 2)) ∧
    (d.bit R.chipStrapTestMode = false → ok = false → dbg (.debugUnlock c ok) 2) ∧
    dbg (.debugLock c) 0 ∧
    Completes (.dbgNonceRead c) s (fun e => e.sec = { d.sec with nonce := d.free 64 }
      ∧ e.out = d.out ++ [.answer c (0x1000 * pageIndex .sec 0 + 0x5C) .ok (leBytes 4 (d.free 64).toNat)]
      ∧ smapGet 0 e.latch (Die.latchKey (0x1000 * pageIndex .sec 0 + 0x60) c) = BitVec.ofNat 32 ((d.free 64).toNat / 2 ^ 32)
      ∧ OnlyRegs d { e with sec := d.sec, latch := d.latch, out := d.out, fresh := d.fresh } []) ∧
    (d.fuseOpen = true → fused (.svnCommit c) R.secFuseStatFsvn (max (d.get R.secFuseStatFsvn) (d.get R.secBootSvn))) ∧
    (d.fuseOpen = false → refused (.svnCommit c) ∧ refused (.revoke c slot)) ∧
    (d.fuseOpen = true → slot.toNat ≠ d.get R.secBootKeyidx → fused (.revoke c slot) R.secFuseStatRevoked (revoked ||| 2 ^ slot.toNat)) ∧
    (slot.toNat = d.get R.secBootKeyidx → refused (.revoke c slot)) ∧
    (d.fuseOpen = true ↔ (d.get R.secDbgState ≠ 1 ∧ d.locked .sec = false))

/-- an SPDM request is served while Gnotik runs, over DOE by the acting master only, and counted; one before its turn is answered with UnexpectedRequest; GET_VERSION,
GET_CAPABILITIES and NEGOTIATE_ALGORITHMS open the connection in order; another slot than 0 has no certificate; an unknown request is answered with UnsupportedRequest
(R802 to R805, R1004). -/
def Obligations.SpdmResponses : Prop :=
  ∀ (s : State) (m sign : Bool) (slot : BitVec 4) (ofs len : BitVec 16) (nonce : List Byte) (op code : BitVec 8) (others : List (BitVec 8 × List Byte)),
    s.die.alive = true →
    let d := s.die
    let served := d.boot.gnotik = true ∧ (m = true ∨ d.isMaster = true)
    let st := d.spdmState m
    let cnt := if m then R.secSpdmMctpReq else R.secSpdmDoeReq
    let tells (i : Instr) (r : Nat) (body : List Byte) (to_ : Nat) : Prop := Completes i s (fun e =>
      e.out = d.out ++ [.spdm r body] ∧ e.spdmState m = to_ ∧ e.spdmState (!m) = d.spdmState (!m) ∧ e.get cnt = d.counted cnt
        ∧ OnlyReports d { e with sec := d.sec, fresh := d.fresh } [cnt.addrOf])
    let all := [Instr.getVersion m, .getCapabilities m, .negotiateAlgorithms m, .getDigests m, .getCertificate m slot ofs len, .challenge m slot nonce,
      .getMeasurements m op sign nonce others, .spdmUnsupported m code]
    let bs := d.blocks m others
    (¬ served → ∀ i ∈ all, Becomes i s d) ∧
    (served →
      tells (.getVersion m) 0x04 [0x13] 1 ∧ tells (.spdmUnsupported m code) 0x7F [7, code] st ∧
      (st < 1 → tells (.getCapabilities m) 0x7F [4] st) ∧ (1 ≤ st → tells (.getCapabilities m) 0x61 [] (max 2 st)) ∧
      (st < 2 → tells (.negotiateAlgorithms m) 0x7F [4] st) ∧ (2 ≤ st → tells (.negotiateAlgorithms m) 0x63 [] 3) ∧
      (st < 3 → ∀ i ∈ all.drop 3, i ≠ .spdmUnsupported m code → tells i 0x7F [4] st) ∧
      (3 ≤ st → tells (.getDigests m) 0x01 (1 :: leBytes 48 (d.free 384).toNat) st) ∧
      (3 ≤ st → slot ≠ 0 → tells (.getCertificate m slot ofs len) 0x7F [1] st ∧ tells (.challenge m slot nonce) 0x7F [1] st) ∧
      (3 ≤ st → slot = 0 → tells (.getCertificate m slot ofs len) 0x02 (leBytes len.toNat (d.free (8 * len.toNat)).toNat) st ∧
        tells (.challenge m slot nonce) 0x03 (nonce ++ leBytes 144 (d.free (8 * 144)).toNat) st) ∧
      (3 ≤ st → op = 0 → tells (.getMeasurements m op sign nonce others) 0x60 [BitVec.ofNat 8 bs.length] st) ∧
      (3 ≤ st → op ≠ 0 → op ≠ 0xFF → bs.all (fun x => x.1 != op.toNat) = true → tells (.getMeasurements m op sign nonce others) 0x7F [1] st) ∧
      (3 ≤ st → op = 0xFF → sign = false → tells (.getMeasurements m op sign nonce others) 0x60
        (BitVec.ofNat 8 bs.length :: bs.flatMap (fun x => Die.blockBytes x.1 x.2)) st))

/-! ### The host interface (spec 20) -/

/-- the host link comes up at a PCIe rate and width, with CXL only from 32 GT/s on and at x8 or x16; it falls, in D3hot into L2; PERST#, an FLR and a link lost for
100 ms reset the host interface and nothing else: MSI-X, the queues and the mailbox are empty, the locks of its slots are clear, and its pages' epochs advance (R810, R811,
R815, R857, R859, R862, R909). -/
def Obligations.HostLinkEvents : Prop :=
  ∀ (s : State) (speed : BitVec 3) (width : BitVec 5) (cxl flr : Bool) (i : BitVec 6) (q : Fin 4) (a : Nat), s.die.alive = true →
    let d := s.die
    let trains := speed ≠ 0 ∧ speed ≠ 7 ∧ width.toNat ∈ [1, 2, 4, 8, 16]
    let link := R.hostLinkSpeed.addrOf
    let on := cxl && decide (5 ≤ speed.toNat) && decide (8 ≤ width.toNat)
    let up (e : Die) (sp wd fl cx me : Nat) : Prop := e.get R.hostLinkSpeed = sp ∧ e.get R.hostLinkWidth = wd ∧ e.get R.hostLinkFlit = fl ∧ e.get R.hostLinkCxl = cx
      ∧ e.get R.hostLinkMemEn = me
    let inHost := a / 0x1000 = pageIndex .host 0 ∨ a / 0x1000 = pageIndex .mbox 0 ∨ a / 0x1000 = pageIndex .dma 0
    let reset (c : Instr) (win : Bool) : Prop := Completes c s (fun e =>
      e.msix.enabled = false ∧ e.msix.unmasked = [] ∧ e.msix.gap = [] ∧ e.host = { d.host with dma := [], mbox := [], order := [] }
        ∧ e.wake = { window := win, sent := false, l2 := false } ∧ e.get R.dmaQEn 0 q.val = 0 ∧ e.get R.dmaQSqHead 0 q.val = 0 ∧ e.get R.dmaQCqTail 0 q.val = 0
        ∧ e.slotLock (mboxAddr i.toNat) = false ∧ e.hget R.hdrEpoch .host = (d.hget R.hdrEpoch .host + 1) % 2 ^ R.hdrEpoch.width
        ∧ e.hasCause I.hostFlr = true ∧ (¬ inHost → e.dword a = d.dword a)
        ∧ KeepsUnits d { e with host := d.host, latch := d.latch } ∧ e.err = d.err ∧ e.telem = { d.telem with cnt := e.telem.cnt })
    (¬ trains → Becomes (.hostLinkUp speed width cxl) s d) ∧
    (trains → Completes (.hostLinkUp speed width cxl) s (fun e =>
      up e speed.toNat width.toNat (if speed = 6 then 1 else 0) (if on then 1 else 0) (if on ∧ d.host.memActive = true then 1 else 0)
        ∧ e.hasCause I.hostLinkUp = true ∧ OnlyReports d e [link, I.hostLinkUp.addrOf])) ∧
    (d.get R.hostLinkSpeed = 0 → Becomes .hostLinkDown s d) ∧ (d.get R.hostLinkSpeed ≠ 0 → Becomes .hostLinkLoss s d) ∧
    (d.get R.hostLinkSpeed ≠ 0 → Completes .hostLinkDown s (fun e => up e 0 0 0 0 0 ∧ e.hasCause I.hostLinkDown = true
      ∧ e.wake = { d.wake with l2 := d.wake.l2 || !d.inD0 } ∧ OnlyReports d { e with wake := d.wake } [link, I.hostLinkDown.addrOf])) ∧
    reset (.hostReset flr) (!flr && d.wake.l2) ∧ (d.get R.hostLinkSpeed = 0 → reset .hostLinkLoss false)

/-- MSI-X and power states: the end of a gap sends a marked vector; a pending vector goes once it is unmasked and MSI-X is enabled; PMCSR takes the function to D3hot, or opens
the resume window; in D0 the window closes and latched wake causes set WAKE (R855, R856, R857, R859, R860). -/
def Obligations.VectorsAndPowerStates : Prop :=
  ∀ (s : State) (v : BitVec 8) (on : Bool) (st : BitVec 2), s.die.alive = true →
    let d := s.die
    let n := v.toNat
    let gap := smapGet none d.msix.gap n
    let pend := smapGet false d.msix.pba n = true
    let gapFree := { d.msix with gap := smapSet none d.msix.gap n none }
    let masks := { d.msix with unmasked := smapSet false d.msix.unmasked n on }
    let only (e : Die) (as : List Nat) : Prop := OnlyRegs d { e with msix := d.msix, out := d.out, wake := d.wake } as
    let dst := R.hostLinkDstate.addrOf
    (gap = none → Becomes (.msixGapEnd v) s d) ∧
    (gap = some false → Becomes (.msixGapEnd v) s { d with msix := gapFree }) ∧
    (gap = some true → d.isMaster = true → d.inD0 = true → d.msix.enabled = true → smapGet false d.msix.unmasked n = true → smapWf none d.msix.gap = true →
      Completes (.msixGapEnd v) s (fun e =>
        e.out = d.out ++ [.msix n] ∧ smapGet none e.msix.gap n = (if d.get R.hostImodGap = 0 then none else some false)
          ∧ e.msix = { d.msix with gap := e.msix.gap } ∧ only e [])) ∧
    (gap = some true → d.isMaster = true → d.inD0 = false ∨ d.msix.enabled = false ∨ smapGet false d.msix.unmasked n = false → Completes (.msixGapEnd v) s (fun e =>
      e.out = d.out ∧ e.msix = { gapFree with pba := smapSet false d.msix.pba n true } ∧ only e [])) ∧
    (¬ (pend ∧ on = true ∧ d.msix.enabled = true ∧ d.inD0 = true) → Becomes (.msixUnmask (some v) on) s { d with msix := masks }) ∧
    (pend → on = true → d.msix.enabled = true → d.inD0 = true → d.isMaster = true → gap = none → smapWf false d.msix.pba = true →
      Completes (.msixUnmask (some v) on) s (fun e => e.out = d.out ++ [.msix n] ∧ smapGet false e.msix.pba n = false ∧ smapGet false e.msix.unmasked n = true
        ∧ only e [])) ∧
    (on = false ∨ d.inD0 = false ∨ d.msix.pba = [] → Becomes (.msixUnmask none on) s { d with msix := { d.msix with enabled := on } }) ∧
    (Completes (.msixUnmask none on) s (fun e => e.msix.enabled = on ∧ e.msix.unmasked = d.msix.unmasked ∧ only e [])) ∧
    (st = 1 ∨ st = 2 → Becomes (.pmcsrWrite st) s d) ∧
    (d.inD0 = true → Becomes (.pmcsrWrite 0) s d ∧ Completes (.pmcsrWrite 3) s (fun e =>
      e.inD0 = false ∧ e.wake = { d.wake with window := false, sent := false } ∧ OnlyRegs d { e with wake := d.wake } [dst])) ∧
    (d.inD0 = false → Becomes (.pmcsrWrite 3) s d ∧ Becomes (.pmcsrWrite 0) s { d with wake := { d.wake with window := true } }) ∧
    (d.inD0 = true → Becomes .d0Entered s d) ∧
    (d.inD0 = false → Completes .d0Entered s (fun e => e.inD0 = true ∧ e.wake = { d.wake with window := false, l2 := false }
      ∧ (d.get R.pwrWakeCauseCause ≠ 0 → e.hasCause I.hostWake = true)
      ∧ OnlyReports d { e with wake := d.wake, telem := d.telem } [dst, I.hostWake.addrOf]))

/-- a cave window: without D0, off the acting master, through an entry that is not valid, beyond its owner's space and from a requester that is not allowed it answers
Unsupported Request, and the last counts; a tenant's window without HOST_CAVE reads zeros, writes nothing and sets ACCESS_ERR; else a read answers with the owner's bytes
and a write of a byte changes that byte alone (R796, R819, R820, R831). -/
def Obligations.CaveWindows : Prop :=
  ∀ (s : State) (rid : BitVec 16) (ofs : BitVec 34) (wr : Bool) (bytes : List (Option Byte)) (b : Byte) (a x : Nat), s.die.alive = true →
    let d := s.die
    let n := ofs.toNat / 2 ^ 30 % 16
    let acc (w : Bool) (l : List (Option Byte)) := Instr.caveWindowAccess rid ofs w l [] []
    let urDie : Die := { d with out := d.out ++ [.answer .host ofs.toNat .ur []] }
    let open_ := d.inD0 = true ∧ d.isMaster = true
    let allowed := d.ridAllowed rid.toNat = true
    let valid := open_ ∧ allowed ∧ d.bit R.hostCwinValid 0 n = true ∧ d.get R.hostCwinDie 0 n = d.pos ∧ d.underReset .cave 0 = false
    let mg := d.bit R.hostCwinMgmt 0 n
    let t := d.get R.hostCwinTid 0 n
    let at_ (len : Nat) := d.caveAddr (if mg then .mgmt else .tenant t) (d.get R.hostCwinGib 0 n * 2 ^ 30 + ofs.toNat % 2 ^ 30) len
    let closed := mg = false ∧ d.bit R.tenCtlHostCave (t / 4) (t % 4) = false
    (¬ open_ → Becomes (acc wr bytes) s urDie) ∧
    (open_ → ¬ allowed → Completes (acc wr bytes) s (fun e => e.out.getLast? = some (.answer .host ofs.toNat .ur []) ∧ e.hasCause I.hostPeerUr = true
      ∧ e.get R.hostPeerUr = d.counted R.hostPeerUr ∧ OnlyReports d e [R.hostPeerUr.addrOf, I.hostPeerUr.addrOf])) ∧
    (open_ → allowed → d.bit R.hostCwinValid 0 n = false → Becomes (acc wr bytes) s urDie) ∧
    (valid → at_ bytes.length = none → Becomes (acc wr bytes) s urDie) ∧
    (valid → at_ bytes.length = some a → closed → Completes (acc wr bytes) s (fun e => e.hget R.hdrStatAccessErr .chip = 1
      ∧ (wr = false → e.out.getLast? = some (.answer .host ofs.toNat .access (List.replicate bytes.length 0)))
      ∧ OnlyReports d e (accAddrs .chip 0))) ∧
    (valid → at_ bytes.length = some a → ¬ closed → d.caveFirstBad a bytes.length = none → Completes (acc false bytes) s (fun e =>
      e.out = d.out ++ [.answer .host ofs.toNat .ok (d.caveRead a bytes.length)] ∧ e.caveByte x = d.caveByte x
        ∧ OnlyRegs d { e with out := d.out, cave := d.cave, telem := d.telem, fresh := d.fresh } [])) ∧
    (valid → at_ 1 = some a → ¬ closed → d.caveBad a = false → (d.caveOwner a).isSome = true → Completes (acc true [some b]) s (fun e =>
      e.caveByte a = b ∧ (x ≠ a → e.caveByte x = d.caveByte x) ∧ OnlyRegs d { e with cave := d.cave, telem := d.telem } []))

/-- DMA: doorbells move their index and lock or unlock slots, or are logged as QUEUE_DOORBELL_BAD; H2C data goes to its owner's cave, C2H data leaves for the host, up to the
descriptor's length; NOP and a FENCE at the head end with status 0; a finished head descriptor gives its record at CQ_TAIL, or holds it while the slot is locked; clearing
EN runs a queue down (R618, R622 to R624, R836 to R839, R850, R890). -/
def Obligations.DmaCommands : Prop :=
  ∀ (s : State) (c : Cls) (q : BitVec 2) (x : BitVec 9) (data : List Byte) (err : Bool) (m : BitVec 31) (j : DmaJob) (js : List DmaJob) (a st : Nat), s.die.alive = true →
    let d := s.die
    let n := q.toNat
    let Q := d.dmaQ n
    let h := d.get R.dmaQSqHead 0 n
    let t := d.get R.dmaQSqTail 0 n
    let ch := d.get R.dmaQCqHead 0 n
    let ct := d.get R.dmaQCqTail 0 n
    let ring (p r : Nat) : Nat := (p + 512 - r) % 512
    let bad (i : Instr) : Prop := Completes i s (fun e => Logged d e (pageIndex .dma 0) 0x0A02 0 ∧ OnlyLogs d e [])
    let job (op : Nat) := d.dmaJob n op
    let k := min (data.length / 64 * 64) (j.len - j.moved)
    let l := min (m.toNat / 64 * 64) (j.len - j.moved)
    let at_ (len : Nat) := d.caveAddr (Die.jobSpace j) (j.cofs + j.moved) len
    let jobs (e : Die) (f : DmaJob → DmaJob) : Prop := (e.dmaQ n).jobs = Q.jobs.map (fun y => if y.slot = j.slot then f y else y)
      ∧ e.host = { d.host with dma := e.host.dma }
    let ends (i : Instr) : Prop := Completes i s (fun e => jobs e (fun y => { y with status := some 0 }) ∧ OnlyRegs d { e with host := d.host } [])
    let bq := [R.dmaQBytesLo.addrOf 0 n, R.dmaQBytesHi.addrOf 0 n]
    let locked := d.slotLock (Die.dmaCqAddr n ct) = true
    let qf (f : Fld) : Nat := f.addrOf 0 n
    (d.underReset .dma 0 = false →
      (ring x.toNat h ≤ 256 → ring t h ≤ ring x.toNat h → Completes (.dmaSqDoorbell c q x) s (fun e => e.get R.dmaQSqTail 0 n = x.toNat
        ∧ (d.bit R.dmaQEn 0 n = false → Q.closing = false → e.cave = (d.forAll (ringSpan t x.toNat) (fun d i => d.setLock (Die.dmaSqAddr n i) true)).cave
          ∧ OnlyRegs d { e with cave := d.cave, telem := d.telem } [qf R.dmaQSqTail]))) ∧
      (256 < ring x.toNat h ∨ ring x.toNat h < ring t h → bad (.dmaSqDoorbell c q x)) ∧
      (ring x.toNat ch ≤ ring ct ch → Completes (.dmaCqDoorbell c q x) s (fun e => e.get R.dmaQCqHead 0 n = x.toNat
        ∧ e.cave = (d.forAll (ringSpan ch x.toNat) (fun d i => d.setLock (Die.dmaCqAddr n i) false)).cave
        ∧ OnlyRegs d { e with cave := d.cave, telem := d.telem } [qf R.dmaQCqHead])) ∧
      (ring ct ch < ring x.toNat ch → bad (.dmaCqDoorbell c q x)) ∧
      Completes (.dmaQueueDisable c q) s (fun e => e.get R.dmaQEn 0 n = 0 ∧ (e.dmaQ n).jobs = Q.jobs
        ∧ (e.dmaQ n).closing = (Q.closing || d.bit R.dmaQEn 0 n) ∧ OnlyRegs d { e with host := d.host } [qf R.dmaQEn])) ∧
    (job 1 = none → Becomes (.h2c q data err) s d) ∧ (job 2 = none → Becomes (.c2h q m [] []) s d) ∧ (job 4 = none → Becomes (.dmaNop q) s d) ∧
    (job 1 = some j → at_ k = none → Becomes (.h2c q data err) s d) ∧ (job 2 = some j → at_ l = none → Becomes (.c2h q m [] []) s d) ∧
    (job 1 = some j → at_ k = some a → err = false → Completes (.h2c q data err) s (fun e =>
      jobs e (fun y => { y with moved := y.moved + k, status := if j.moved + k = j.len then some 0 else none })
        ∧ e.out = d.out ++ [.hostRead (j.haddr + j.moved) k] ∧ e.cave = (d.caveWrite a (data.take k)).cave
        ∧ OnlyRegs d { e with host := d.host, out := d.out, cave := d.cave, telem := d.telem } bq)) ∧
    (job 1 = some j → at_ k = some a → err = true → j.moved + k < j.len → Completes (.h2c q data err) s (fun e =>
      jobs e (fun y => { y with moved := y.moved + k, status := some 6 }))) ∧
    (job 2 = some j → at_ l = some a → d.caveFirstBad a l = none → Completes (.c2h q m [] []) s (fun e =>
      jobs e (fun y => { y with moved := y.moved + l, status := if j.moved + l = j.len then some 0 else none })
        ∧ e.out = d.out ++ [.hostWrite (j.haddr + j.moved) (d.caveRead a l)]
        ∧ OnlyRegs d { e with host := d.host, out := d.out, cave := d.cave, telem := d.telem, fresh := d.fresh } bq)) ∧
    (job 4 = some j → ends (.dmaNop q)) ∧
    (Q.jobs = j :: js → j.op = 3 → j.status = none → ends (.dmaFence q)) ∧
    (Q.jobs = [] ∨ (Q.jobs = j :: js ∧ (j.op ≠ 3 ∨ j.status.isSome = true)) → Becomes (.dmaFence q) s d) ∧
    (Q.jobs = [] ∨ (Q.jobs = j :: js ∧ j.status = none) ∨ (Q.jobs = j :: js ∧ Q.heldRec.isSome = true) → Becomes (.dmaComplete q) s d) ∧
    (Q.jobs = j :: js → j.status = some st → st < 16 → Q.heldRec = none → Completes (.dmaComplete q) s (fun e => js <+: (e.dmaQ n).jobs
      ∧ (st ≠ 0 → e.get R.dmaQLasterr 0 n = st ∧ e.get R.dmaQErrslot 0 n = j.slot % 2 ^ R.dmaQErrslot.width ∧ e.hasCause (I.dmaErr n) = true)
      ∧ (locked → (e.dmaQ n).heldRec = some (Die.dmaRecord j st, j.irq) ∧ e.get R.dmaQCqWait 0 n = 1 ∧ e.get R.dmaQCqTail 0 n = ct
          ∧ e.hasCause (I.dmaOverwrite n) = true ∧ Logged d e (pageIndex .dma 0) 0x0A01 0)
      ∧ (¬ locked → e.get R.dmaQCqTail 0 n = (ct + 1) % 512 ∧ e.get R.dmaQCqWait 0 n = 0 ∧ (j.irq = true → e.hasCause (I.dmaComplete n) = true))))

/-- the mailbox: a doorbell locks its slot and puts it last in order, or counts as bad; a slot that stays without its PHASE for 16 ticks sets its STALL bit; a command runs on a
slot that may be served and holds its operation, a slot with reserved bits completes with BAD_OP, and completion writes STATUS, sets DONE, clears LOCK, toggles the
expected PHASE and takes the slot out of the order, with one DONE bit and vector where it asks for it (R841 to R847, R851). -/
def Obligations.MailboxCommands : Prop :=
  ∀ (s : State) (c : Cls) (i : BitVec 6) (far : Option (BitVec 4 × List Byte)) (fst : Option (BitVec 4)), s.die.alive = true →
    let d := s.die
    let n := i.toNat
    let a := mboxAddr n
    let bs := d.caveRead a 64
    let op := slotField bs 8 8
    let S := d.mboxSlot n
    let stall := if n < 32 then R.mboxStallLo else R.mboxStallHi
    let done := if n < 32 then R.mboxDoneLo else R.mboxDoneHi
    let bit (v : Nat) : Bool := v / 2 ^ (n % 32) % 2 == 1
    let stuck := d.isMaster = true ∧ d.host.order.contains n = true ∧ d.mboxShown n = false ∧ 16 ≤ S.wait ∧ bit (d.get stall) = false
    let good := d.mboxReady n = true
    let only (e : Die) (as : List Nat) : Prop := OnlyReports d { e with host := d.host, cave := d.cave, telem := d.telem, fresh := d.fresh } as
    let ends (x : Instr) (st : Nat) : Prop := Completes x s (fun e =>
      e.caveByte (a + 2) = d.caveByte (a + 2) &&& 0xF0#8 ||| BitVec.ofNat 8 st ∧ e.caveByte a = d.caveByte a &&& 0xFD#8 ||| 4#8
        ∧ e.caveByte (a + 1) = d.caveByte (a + 1) ∧ e.caveByte (a + 16) = d.caveByte (a + 16) ∧ n ∉ e.host.order
        ∧ (e.mboxSlot n).toggled = !S.toggled ∧ bit (e.get stall) = false
        ∧ (slotField bs 24 1 = 1 → bit (e.get done) = true) ∧ (slotField bs 24 1 = 0 → e.get done = d.get done ∧ e.out = d.out)
        ∧ only e [R.mboxLat.addrOf, R.mboxLatmax.addrOf, stall.addrOf, done.addrOf])
    let runs (x : Instr) (code mask : Nat) (r : Die × Nat × List Byte) : Prop :=
      (¬ good ∨ op ≠ code → Becomes x s d) ∧ (good → op = code → Die.mboxBad bs mask = true → (d.caveOwner a).isSome = true → ends x 1) ∧
      (good → op = code → Die.mboxBad bs mask = false → Becomes x s (r.1.mboxComplete n r.2.1 r.2.2))
    (d.underReset .mbox 0 = false →
      (d.isMaster = false → Becomes (.mboxDoorbell c i) s d) ∧
      (d.isMaster = true → d.slotLock a = true → Completes (.mboxDoorbell c i) s (fun e => e.get R.mboxBaddb = d.counted R.mboxBaddb
        ∧ e.hasCause I.mboxBadDb = true ∧ OnlyReports d e [R.mboxBaddb.addrOf, I.mboxBadDb.addrOf])) ∧
      (d.isMaster = true → d.slotLock a = false → Completes (.mboxDoorbell c i) s (fun e => e.host.order = d.host.order ++ [n]
        ∧ (e.mboxSlot n).wait = 0 ∧ (e.mboxSlot n).toggled = S.toggled
        ∧ ((d.caveOwner a).isSome = true → d.caveBad a = false → e.slotLock a = true ∧ (e.caveByte a).getLsbD 2 = false)
        ∧ OnlyRegs d { e with host := d.host, cave := d.cave, telem := d.telem, fresh := d.fresh } []))) ∧
    (¬ stuck → Becomes (.mboxUnderfill i) s d) ∧
    (stuck → Completes (.mboxUnderfill i) s (fun e => bit (e.get stall) = true ∧ Logged d e (pageIndex .mbox 0) 0x0A00 1 ∧ e.hasCause I.mboxUnderfill = true
      ∧ OnlyLogs d e [stall.addrOf, I.mboxUnderfill.addrOf])) ∧
    (¬ good ∨ (op ≠ 0 ∧ op < 8) → Becomes (.mboxNop i) s d) ∧
    (good → (d.caveOwner a).isSome = true → op = 0 → Die.mboxBad bs (2 ^ 32 - 1) = false → ends (.mboxNop i) 0) ∧
    (good → (d.caveOwner a).isSome = true → (op = 0 ∧ Die.mboxBad bs (2 ^ 32 - 1) = true) ∨ 8 ≤ op → ends (.mboxNop i) 1) ∧
    runs (.mboxRread i far) 1 0xF (d.mboxReg false bs (farOf far)) ∧ runs (.mboxRwrite i fst) 2 0xF (d.mboxReg true bs (farSt fst)) ∧
    runs (.mboxCread i [] [] far) 3 0x3FFF03 (d.mboxCave false bs [] [] (farOf far)) ∧ runs (.mboxCwrite i [] fst) 4 0x3FFF03 (d.mboxCave true bs [] [] (farSt fst)) ∧
    runs (.mboxSqdb i fst) 6 0x1FF0FFF (d.mboxDb true bs (fst.map BitVec.toNat)) ∧ runs (.mboxCqdb i fst) 7 0x1FF0FFF (d.mboxDb false bs (fst.map BitVec.toNat)) ∧
    (d.host.order.head? ≠ some n → Becomes (.mboxFence i) s d) ∧
    (d.host.order.head? = some n → ¬ good ∨ op ≠ 5 → Becomes (.mboxFence i) s d) ∧
    (d.host.order.head? = some n → good → op = 5 → (d.caveOwner a).isSome = true → ends (.mboxFence i) (if Die.mboxBad bs (2 ^ 32 - 1) then 1 else 0))

/-! ### Sideband, boot, power and telemetry (spec 23, 25, 26, 27) -/

/-- SMBus and flash: a transaction that may run goes out whole, one lost or NACKed is latched, counted and waits for its back-off of 1 to 8; a flash command runs alone, and is
refused over the running slot; its end sets the cause, and a whole erase reads 0xFF, a whole program over an erased byte reads that byte, a whole read fills the
buffer (R967 to R974, R983, R1002, R1029). -/
def Obligations.SidebandAndFlash : Prop :=
  ∀ (s : State) (c : Cls) (j : SmbJob) (r : List Byte) (byte : BitVec 8) (bit_ : BitVec 3) (ack err : Bool) (code a : Nat) (o : Fin 256) (k : Fin 64), s.die.alive = true →
    let d := s.die
    let back := 1 + (d.tick.count.toNat % 8 + 2 * d.pos) % 8
    let bo := R.smbBackoff.addrOf
    let tx (e : SmbEnd) := Instr.smbTransaction j e
    let isVout : Bool := match j with
      | .vout _ => true
      | _ => false
    let cmd : Nat → Instr := fun n => if n = 1 then .erase c else if n = 2 then .program c else .flashRead c
    let src := d.bit R.chipStrapBootSrc
    let ready (n : Nat) : Prop := d.bit R.smbFlBusy = false ∧ ¬ (src = true ∧ n = 1) ∧ ¬ (d.slotRuns = true ∧ d.flashAt n / 0x02000000 = d.get R.secBootSlot)
    let fin_ (e : Die) : Prop := e.get R.smbFlBusy = 0 ∧ e.get R.smbFlErr = (if err then 1 else 0) ∧ e.hasCause I.smbFlDone = true ∧ e.smb.cmd = none
    let fl := [R.smbFlBusy.addrOf, I.smbFlDone.addrOf]
    (d.jobAllowed j = false → Becomes (tx (.ok r)) s d ∧ Becomes (tx (.lost byte bit_ ack)) s d ∧ Becomes (tx .nak) s d) ∧
    (d.jobAllowed j = true →
      Completes (tx (.ok r)) s (fun e => e.out = (d.sendJob j).out ∧ e.smb = { d.smb with job := none }
        ∧ e.get R.pwrPmbWrites = (if isVout then d.counted R.pwrPmbWrites else d.get R.pwrPmbWrites) ∧ e.pwr = (if isVout then { d.pwr with fails := 0 } else d.pwr)
        ∧ OnlyReports d { e with smb := d.smb, pwr := d.pwr } [R.pwrPmbWrites.addrOf]) ∧
      Completes (tx (.lost byte bit_ ack)) s (fun e => e.get R.smbArbLost = d.counted R.smbArbLost ∧ e.hasCause I.smbArbLost = true
        ∧ e.get R.smbLossAddr = d.jobAddr j % 2 ^ R.smbLossAddr.width ∧ e.get R.smbLossByte = byte.toNat ∧ e.get R.smbLossBit = bit_.toNat
        ∧ e.get R.smbLossAck = (if ack then 1 else 0) ∧ e.get R.smbBackoff = back ∧ e.smb = { d.smb with job := some j }
        ∧ OnlyReports d { e with smb := d.smb } [R.smbArbLost.addrOf, I.smbArbLost.addrOf, R.smbLossAddr.addrOf, bo]) ∧
      Completes (tx .nak) s (fun e => e.get R.smbNak = d.counted R.smbNak ∧ e.hasCause I.smbNak = true ∧ e.get R.smbBackoff = back
        ∧ e.smb = { d.smb with job := some j } ∧ OnlyReports d { e with smb := d.smb } [R.smbNak.addrOf, I.smbNak.addrOf, bo])) ∧
    Becomes .smbBackoffEnd s { d with smb := { d.smb with job := none } } ∧
    Completes .smbSclTimeout s (fun e => e.get R.smbTimeout = d.counted R.smbTimeout ∧ e.hasCause I.smbTimeout = true ∧ e.get R.smbBackoff = back
      ∧ OnlyReports d e [R.smbTimeout.addrOf, I.smbTimeout.addrOf, bo]) ∧
    (d.avsOn = false → Becomes .pmbusAbandon s d) ∧
    (d.avsOn = true → Completes .pmbusAbandon s (fun e => e.get R.pwrPmbFail = d.counted R.pwrPmbFail ∧ e.pwr = { d.pwr with fails := d.pwr.fails + 1 }
      ∧ (d.pwr.fails = 2 → e.hasCause I.pwrAvsFail = true) ∧ OnlyReports d { e with pwr := d.pwr, smb := d.smb } [R.pwrPmbFail.addrOf, I.pwrAvsFail.addrOf])) ∧
    (d.underReset .smb 0 = false → code ∈ [1, 2, 3] →
      (ready code → Completes (cmd code) s (fun e => e.get R.smbFlBusy = 1 ∧ e.smb = { d.smb with cmd := some (code, d.flashAt code) }
        ∧ (src = true → code = 2 → e.out = d.out)
        ∧ (src = false ∨ code = 3 → e.out = d.out ++ [.flash code (d.flashAt code) (if code = 2 then d.flashBuf else [])])
        ∧ OnlyRegs d { e with smb := d.smb, out := d.out } [R.smbFlBusy.addrOf])) ∧
      (¬ ready code → Completes (cmd code) s (fun e => e.hget R.hdrStatAccessErr .smb = 1 ∧ OnlyReports d e (accAddrs .smb 0)))) ∧
    (d.smb.cmd = none → Becomes (.flDone err) s d) ∧
    (d.smb.cmd = some (1, a) → Completes (.flDone err) s (fun e => fin_ e ∧ (err = false → e.flashByte (a + 256 * k.val + o.val) = 0xFF)
      ∧ OnlyReports d { e with smb := d.smb, fresh := d.fresh } fl)) ∧
    (d.smb.cmd = some (2, a) → src = false → err = false → Completes (.flDone err) s (fun e => fin_ e
      ∧ (d.flashByte (a + o.val) = 0xFF → e.flashByte (a + o.val) = d.flashBuf.getD o.val 0) ∧ OnlyReports d { e with smb := d.smb, fresh := d.fresh } fl)) ∧
    (d.smb.cmd = some (2, a) → src = true → Completes (.flDone err) s (fun e => fin_ e ∧ smapGet 0 e.smb.image (a + o.val) = d.flashBuf.getD o.val 0
      ∧ e.smb.flash = d.smb.flash ∧ OnlyReports d { e with smb := d.smb } fl)) ∧
    (d.smb.cmd = some (3, a) → err = false → Completes (.flDone err) s (fun e => fin_ e
      ∧ e.get R.smbFlBuf 0 k.val = leNat ((List.range 4).map (fun x => d.flashByte (a + 4 * k.val + x))) ∧ e.smb.flash = d.smb.flash))

/-- the test port and the pins: an instruction loads, or BYPASS in its place while debug is locked, and one that drives pins runs the die down as a fenced die; a reset of the
TAP loads IDCODE; functions of pins are claimed at an edge and a reserved one is an access error; an edge of a pin shows in GPIO.IN, sets a watched cause, and is
MALIVE's toggle; THERM# asserts once where PWR holds the pin (R147, R806, R984, R985, R989 to R992, R1048). -/
def Obligations.PinsAndTestPort : Prop :=
  ∀ (s : State) (c : Cls) (ir : JtagIr) (trst level : Bool) (reg : BitVec 1) (w : Word) (n : BitVec 4),
    let d := s.die
    let drives := d.alive = true ∧ (ir = .extest ∨ ir = .extestPulse ∨ ir = .extestTrain)
    let now := if ir = .other ∧ d.debugOpen = false then JtagIr.bypass else ir
    let f (j : Nat) : Nat := fieldGet w (4 * j) 4
    let pin (j : Nat) : Nat := 8 * reg.toNat + j
    let asks := ((List.range 8).filter (fun j => decide (f j < 9) && f j != d.pinFunc (pin j))).map (fun j => (pin j, f j, c))
    let bad := (List.range 8).any (fun j => decide (9 ≤ f j)) = true
    let k := n.toNat
    let was := d.get R.gpioIn / 2 ^ k % 2 == 1
    let inn := R.gpioIn.addrOf
    let watched := d.pinFunc k = 1 ∧ d.get R.gpioEdge 0 0 k / (if level then 1 else 2) % 2 = 1
    let r := d.rundown .die
    Becomes (.jtagReset trst) s { d with smb := { d.smb with jtag := .idcode } } ∧
    (¬ drives → Becomes (.jtagIrUpdate ir) s { d with smb := { d.smb with jtag := now } }) ∧
    (drives → Completes (.jtagIrUpdate ir) s (fun e => e.smb = { d.smb with jtag := ir } ∧ (e.rundown .die).fence = true ∧ (e.rundown .die).phase ≠ .run
      ∧ (r.phase = .run → (e.rundown .die).phase = .closing ∧ (e.rundown .die).bound = d.unitBound .die)
      ∧ OnlyRegs d { e with smb := d.smb, tick := d.tick } [R.hdrStatState.addrOf (pageIndex .tick 0), R.tickRdStatActive.addrOf])) ∧
    (d.alive = true → d.underReset .gpio 0 = false → Completes (.gpioFuncWrite c reg w) s (fun e =>
      e.own = { d.own with pinAsk := d.own.pinAsk ++ asks } ∧ (bad → e.hget R.hdrStatAccessErr .gpio = 1)
        ∧ (¬ bad → OnlyRegs d { e with own := d.own } []) ∧ OnlyReports d { e with own := d.own } (accAddrs .gpio 0))) ∧
    (d.alive = true →
      (was = level → Becomes (.gpioEdge n level) s d) ∧
      (was ≠ level → Completes (.gpioEdge n level) s (fun e => (e.get R.gpioIn / 2 ^ k % 2 == 1) = level ∧ (watched → e.hasCause (I.gpioEdge k) = true)
        ∧ e.casc = { d.casc with maSeen := d.casc.maSeen || d.pinFunc k == 7 }
        ∧ (¬ watched → OnlyRegs d { e with casc := d.casc } [inn]) ∧ OnlyReports d { e with casc := d.casc } [inn, (I.gpioEdge k).addrOf])) ∧
      ((d.pinOf 3).isNone = true ∨ d.pwr.therm = level → Becomes (.thermAssert level) s d) ∧
      ((d.pinOf 3).isSome = true → d.pwr.therm ≠ level → Completes (.thermAssert level) s (fun e => e.pwr.therm = level
        ∧ (level = false → e = { d with pwr := { d.pwr with therm := false } }) ∧ (level = true → e.hasCause I.pwrThermPin = true)
        ∧ (d.get R.pwrThermCtlPinAct ≠ 2 → OnlyReports d { e with pwr := d.pwr, wake := d.wake } [I.pwrThermPin.addrOf, R.pwrWakeCauseCause.addrOf]))))

/-- resets and boot: CHIP_RST# low and a brownout are cold resets that hold the die, and the pin's rise samples the straps; a warm reset follows the die's run-down and advances
every epoch; a port or vat reset needs its own run-down; the boot starts once, stops under test mode and without an image that verifies; a table not read in time is
bad; host-ready needs every part of it (R906 to R909, R978, R986 to R988, R994, R1002, R1012, R1013, R1015, R1024). -/
def Obligations.BootAndResets : Prop :=
  ∀ (s : State) (c : Cls) (straps : BitVec 7) (b : BootIn) (ok : Bool) (t : BitVec 2) (lk cv : BitVec 4) (p : BitVec 6) (v : BitVec 5),
    let d := s.die
    let n := straps.toNat
    let B := d.boot
    let held (e : Die) (h br : Bool) (cause : Nat) : Prop := e.alive = false ∧ e.boot.held = h ∧ e.boot.brown = br ∧ e.boot.cause = cause ∧ e.boot.stage = 0
      ∧ e.smb.flash = d.smb.flash ∧ e.sec.keys = d.sec.keys ∧ e.get R.chipStrapCascPos = d.get R.chipStrapCascPos ∧ e.get R.secFuseStatFsvn = d.get R.secFuseStatFsvn
      ∧ e.cave.mem = [] ∧ e.coll = State.reset.die.coll
    let cause := if d.pwr.tripped then 3 else if B.brown ∨ (B.cause = 2 ∧ B.stage = 0) then 2 else 1
    let due (u : UnitId) : Prop := (d.rundown u).reset = true ∧ (d.rundown u).phase = .idle
    let ready := B.hostReady = false ∧ B.stage = 7 ∧ d.get R.cascStatState = 1 ∧ d.allPresent lk = true ∧ d.allPresent cv = true ∧ d.get R.tickStatState = 1
      ∧ d.caveReady = true
    let again := B.stage = 2 ∧ d.bit R.chipStrapBootSrc = true
    let rest := B.stage = 3 ∧ B.gnotik = true
    (B.held = true → Becomes (.chipRst true straps) s d) ∧
    (B.held = false → Completes (.chipRst true straps) s (fun e => held e true B.brown cause)) ∧
    (B.held = true ∨ B.stage = 0 → Completes (.chipRst false straps) s (fun e => e.boot = { B with held := false }
      ∧ e.get R.chipStrapCascPos = n % 4 ∧ e.get R.chipStrapBootSrc = n / 4 % 2 ∧ e.get R.chipStrapSmbAddr = n / 8 % 8 ∧ e.get R.chipStrapTestMode = n / 64
      ∧ OnlyRegs d { e with boot := B } [R.chipStrapCascPos.addrOf])) ∧
    (B.held = false → B.stage ≠ 0 → Becomes (.chipRst false straps) s d) ∧
    Becomes (.brownout true) s { d with boot := { B with brown := false } } ∧
    Completes (.brownout false) s (fun e => held e B.held true 2) ∧
    (d.alive = true →
      (¬ due .die → Becomes (.resetTakesEffect .die) s d) ∧ (¬ due (.port p) → Becomes (.resetTakesEffect (.port p)) s d) ∧
      (¬ due (.vat v) → Becomes (.resetTakesEffect (.vat v)) s d) ∧
      (due .die → Completes (.resetTakesEffect .die) s (fun e => e.boot.stage = 0 ∧ e.boot.cause = 4 ∧ e.smb.flash = d.smb.flash ∧ e.coll = State.reset.die.coll
        ∧ e.hget R.hdrEpoch .tick = (d.hget R.hdrEpoch .tick + 1) % 2 ^ R.hdrEpoch.width ∧ e.hget R.hdrEpoch .vat v.toNat = (d.hget R.hdrEpoch .vat v.toNat + 1) % 2 ^ R.hdrEpoch.width)) ∧
      (due (.port p) → Becomes (.resetTakesEffect (.port p)) s (d.portReset p.toNat)) ∧
      (due (.vat v) → Becomes (.resetTakesEffect (.vat v)) s (d.vatReset v.toNat)) ∧
      (due (.port p) → Completes (.resetTakesEffect (.port p)) s (fun e => e.hget R.hdrEpoch .port p.toNat = (d.hget R.hdrEpoch .port p.toNat + 1) % 2 ^ R.hdrEpoch.width)) ∧
      Becomes (.resetTakesEffect .steward) s (if 3 ≤ B.stage then { d with boot := { B with gnotik := true } } else d) ∧
      Becomes (.resetTakesEffect .host) s (d.hostReset true) ∧
      (d.underReset .errlog 0 = false → Becomes (.stwReset c ok) s { d with boot := { B with gnotik := ok && decide (3 ≤ B.stage) }
                                                                            err := { d.err with wdogLogged := d.err.wdogLogged && !ok } }) ∧
      (B.stage ≠ 0 → ¬ again → ¬ rest → Becomes (.bootStart b) s d) ∧
      (B.stage = 0 → d.bit R.chipStrapTestMode = true → Completes (.bootStart b) s (fun e => e.boot = { B with stage := 1 }
        ∧ e.get R.pwrRstcauseCause = B.cause % 2 ^ R.pwrRstcauseCause.width ∧ OnlyRegs d { e with boot := B } [R.pwrRstcauseCause.addrOf])) ∧
      (B.stage = 0 → d.bit R.chipStrapTestMode = false → d.bit R.chipStrapBootSrc = false → b.readBad = 3 → Completes (.bootStart b) s (fun e =>
        e.boot = { B with stage := 2, recovery := true } ∧ e.get R.secBootAfail = 6 ∧ e.get R.secBootBfail = 6)) ∧
      (rest → b.header = none → Completes (.bootStart b) s (fun e => e.boot.stage = 5)) ∧
      (B.stage ≠ 5 ∨ t = 3 → Becomes (.tableReadDeadline t) s d) ∧
      (B.stage = 5 → t ≠ 3 → d.logFull = false → Completes (.tableReadDeadline t) s (fun e => e.boot = { B with stage := 7 } ∧ e.get R.portLinkPs p.toNat = 2
        ∧ (e.port p.toNat).hold = some 2 ∧ Logged d e (pageIndex .laneq 0) 0x0400 2 ∧ e.casc = d.casc)) ∧
      (¬ ready → Becomes (.hostReady lk cv) s d) ∧
      (ready → Completes (.hostReady lk cv) s (fun e => e.boot = { B with hostReady := true } ∧ e.host = { d.host with memActive := d.host.memActive || d.isMaster }
        ∧ (d.isMaster = true → e.get R.hostLinkMemEn = d.get R.hostLinkCxl ∧ (d.get R.hostLinkSpeed ≠ 0 → e.hasCause I.hostLinkUp = true))
        ∧ OnlyReports d { e with boot := B, host := d.host } [R.hostLinkMemEn.addrOf, I.hostLinkUp.addrOf])))

/-- power: an AVS period moves the setpoint up by 2 codes on a negative margin and down by 1 on a spare one that stayed, between the floor and 0.80 V; sensor reads are shown;
QUIET is refused while a plan is loaded, else runs the die down; RUN is refused while a cause holds, and else leaves QUIET; a junction sample shows the hottest, keeps the
maximum and reports the crossings, and at 125 °C trips (R1027, R1028, R1042 to R1044, R1046, R1047, R1049, R1050). -/
def Obligations.PowerCommands : Prop :=
  ∀ (s : State) (c : Cls) (margin : BitVec 8) (stayed : Bool) (vout iout : BitVec 12) (temp : BitVec 8) (temps : List (BitVec 8)) (hot : Int), s.die.alive = true →
    let d := s.die
    let runs := d.boot.gnotik = true ∧ d.avsOn = true
    let m := tempOf margin.toNat
    let set := d.get R.pwrAvsSet
    let want := if m < 0 then set + 2 else if 24 < m ∧ stayed = true then set - 1 else set
    let st := d.get R.pwrModeState
    let refused (i : Instr) : Prop := Completes i s (fun e => e.hget R.hdrStatAccessErr .pwr = 1 ∧ OnlyReports d e (accAddrs .pwr 0))
    let was := tempOf (d.get R.pwrTjCur)
    let cross (lim : Nat) : Prop := was < (lim : Int) ∧ (lim : Int) ≤ hot
    let tj := [R.pwrTjCur.addrOf, R.pwrTjHot.addrOf, R.pwrTjMax.addrOf, I.pwrTjWarn.addrOf]
    (¬ runs → Becomes (.avsPeriod margin stayed) s d ∧ Becomes (.pmbusPoll vout iout temp) s d) ∧
    (runs → Completes (.avsPeriod margin stayed) s (fun e => e.get R.pwrAvsMargin = margin.toNat
      ∧ e.get R.pwrAvsSet = max (d.get R.pwrAvsFloor) (min 0x28 want) % 2 ^ R.pwrAvsSet.width ∧ OnlyRegs d e [R.pwrAvsMargin.addrOf, R.pwrAvsSet.addrOf])) ∧
    (runs → Completes (.pmbusPoll vout iout temp) s (fun e => e.get R.pwrCoreVout = vout.toNat ∧ e.get R.pwrCoreIout = iout.toNat ∧ e.get R.pwrCoreTemp = temp.toNat
      ∧ e.pwr = { d.pwr with fails := 0 } ∧ (vout.toNat * iout.toNat < 2 ^ 20 → e.get R.pwrCorePMw = vout.toNat * iout.toNat)
      ∧ OnlyRegs d { e with pwr := d.pwr, fresh := d.fresh } [R.pwrCoreVout.addrOf, R.pwrCoreIout.addrOf, R.pwrCoreTemp.addrOf, R.pwrCorePMw.addrOf])) ∧
    (d.underReset .pwr 0 = false →
      (d.planLoaded = true → refused (.quietRequest c)) ∧
      (d.planLoaded = false → Completes (.quietRequest c) s (fun e => e.get R.pwrModeReq = 1 ∧ (st = 2 → e.get R.pwrModeState = 2)
        ∧ ((d.rundown .die).phase = .run → st ≠ 2 → e.get R.pwrModeState = 1 ∧ (e.rundown .die).phase = .closing ∧ (e.rundown .die).bound = d.unitBound .die
          ∧ (st = 0 → e.hasCause I.pwrMode = true) ∧ e.pwr = { d.pwr with quiet := true, runAsked := false, woken := [] }))) ∧
      (d.quietHeld = true → refused (.runRequest c)) ∧
      (d.quietHeld = false → Completes (.runRequest c) s (fun e => e.get R.pwrModeReq = 0
        ∧ (st = 1 → e.pwr = { d.pwr with runAsked := true } ∧ OnlyRegs d { e with pwr := d.pwr } [R.pwrModeReq.addrOf])
        ∧ (st = 2 → e.get R.pwrModeState = 3 ∧ e.hasCause I.pwrMode = true ∧ e.pwr = { d.pwr with woken := d.sleepers, runAsked := false })
        ∧ (st = 0 ∨ st = 3 → OnlyRegs d e [R.pwrModeReq.addrOf])))) ∧
    (¬ (st = 3 ∧ d.pwr.woken.all (fun p => d.link p == 2) = true) → Becomes .quietLeaveDone s d) ∧
    (st = 3 → d.pwr.woken.all (fun p => d.link p == 2) = true → Completes .quietLeaveDone s (fun e => e.get R.pwrModeState = 0 ∧ e.hasCause I.pwrMode = true
      ∧ e.pwr = { d.pwr with woken := [], quiet := false })) ∧
    (temps = [] → Becomes (.tjSample temps) s d) ∧
    ((temps.map (fun t => tempOf t.toNat)).max? = some hot → Completes (.tjSample temps) s (fun e =>
      tempOf (e.get R.pwrTjCur) = hot ∧ tempOf (e.get R.pwrTjMax) = max hot (tempOf (d.get R.pwrTjMax))
        ∧ (cross (d.get R.pwrThermCtlWarn) → e.hasCause I.pwrTjWarn = true) ∧ (cross (d.get R.pwrThermCtlCrit) → e.hasCause I.pwrTjCrit = true)
        ∧ e.pwr.tripped = (d.pwr.tripped || decide (125 ≤ hot)) ∧ (125 ≤ hot → e.alive = false ∧ e.boot.cause = 3)
        ∧ (¬ cross (d.get R.pwrThermCtlCrit) → hot < 125 → OnlyReports d e tj)))

/-- telemetry: TELEM.CTL is taken while nothing runs, and while it runs only to clear EN, which drains; at a capture edge the record is taken as it stands, or counts in
LOST where the one before is still under way, the host is not there or the ring is full; SEQ counts every capture; a written record moves TAIL on and sets its cause
(R931 to R937, R939). -/
def Obligations.TelemetryRuns : Prop :=
  ∀ (s : State) (c : Cls) (w : Word) (ok : Bool) (l : List (Nat × List Byte)), s.die.alive = true →
    let d := s.die
    let en := w.getLsbD 0
    let was := d.bit R.telemCtlEn
    let i := if en then Instr.telemEnable c w else Instr.telemDisable c w
    let fs : List Fld := [R.telemCtlEn, R.telemCtlDest, R.telemCtlWrap, R.telemCtlSect, R.telemCtlNm1]
    let allowed := d.telemBusy = false ∨ (was = true ∧ en = false)
    let T := d.telem
    let n := d.get R.telemRingLen
    (en = true → Becomes (.telemDisable c w) s d) ∧ (en = false → Becomes (.telemEnable c w) s d) ∧
    (d.underReset .telem 0 = false →
      (allowed → Completes i s (fun e => fs.all (fun f => e.get f == fieldGet w f.lsb f.width) = true
        ∧ e.get R.telemStatState = (if was = true ∧ en = false ∧ d.get R.telemStatState = 1 then 2 else d.get R.telemStatState)
        ∧ e.telem = { T with asked := if en = was then T.asked else en }
        ∧ OnlyRegs d { e with telem := T } [R.telemCtlEn.addrOf, R.telemStatState.addrOf])) ∧
      (¬ allowed → Completes i s (fun e => e.get R.telemCtlEn = d.get R.telemCtlEn ∧ e.hget R.hdrStatAccessErr .telem = 1 ∧ OnlyReports d e (accAddrs .telem 0)))) ∧
    (d.captureDue = false → Becomes .telemCapture s d) ∧
    (d.captureDue = true → Completes .telemCapture s (fun e => e.get R.telemSeq = (d.get R.telemSeq + 1) % 2 ^ R.telemSeq.width
      ∧ e.telem.e0 = some d.tick.count.toNat ∧ e.telem.top = [] ∧ e.telem.ovr = 0 ∧ e.telem.cnt0 = e.telem.cnt ∧ e.telem.acct0 = T.acct
      ∧ (d.snapMissed = true → e.telem.writing = T.writing ∧ e.telem.lostNow = T.lostNow + 1 ∧ e.get R.telemLost = d.counted R.telemLost ∧ e.hasCause I.telemLost = true)
      ∧ (d.snapMissed = false → e.telem.writing = some d.snapRecord ∧ e.telem.lostNow = 0 ∧ e.get R.telemLost = d.get R.telemLost)
      ∧ OnlyReports d { e with telem := T } [R.telemSeq.addrOf, R.telemLost.addrOf, I.telemLost.addrOf])) ∧
    (T.writing = none → Becomes (.telemRecordWritten ok) s d) ∧
    (T.writing = some l → ok = false → Completes (.telemRecordWritten ok) s (fun e => e.telem.writing = none ∧ e.telem.lostNow = T.lostNow + 1
      ∧ e.get R.telemLost = d.counted R.telemLost ∧ e.hasCause I.telemLost = true ∧ e.get R.telemTail = d.get R.telemTail
      ∧ OnlyReports d { e with telem := T } [R.telemLost.addrOf, I.telemLost.addrOf])) ∧
    (T.writing = some l → ok = true → 1 ≤ n → Completes (.telemRecordWritten ok) s (fun e => e.telem.writing = none
      ∧ e.get R.telemTail = (d.get R.telemTail % n + 1) % n ∧ e.hasCause I.telemRecord = true
      ∧ (d.bit R.telemCtlDest = true → e.cave = d.cave)
      ∧ OnlyReports d { e with telem := T, cave := d.cave } [R.telemTail.addrOf, I.telemRecord.addrOf]))

end Statements
end

