-- ==== Sys2Proof/Laws/SMap.lean ====
section
/-!
SUPPORT. Laws/SMap.lean: a read after a write of a table, and the canonical form that every operation keeps.
-/
namespace Sys2Proof.Machine

variable {β : Type}

@[simp] theorem smapGet_nil (d : β) (k : Nat) : smapGet d [] k = d := rfl

theorem smapGet_erase (d : β) (m : SMap β) (k j : Nat) : smapGet d (smapErase m k) j = if j = k then d else smapGet d m j := by
  induction m with
  | nil => simp [smapErase]
  | cons e r ih =>
    obtain ⟨i, v⟩ := e
    simp only [smapErase]
    split
    · subst_vars
      rw [ih]; split
      · rfl
      · rename_i h; simp only [smapGet, if_neg (Ne.symm h)]
    · simp only [smapGet, ih]
      split <;> split <;> simp_all

theorem smapGet_put (d : β) (m : SMap β) (k j : Nat) (v : β) : smapGet d (smapPut m k v) j = if j = k then v else smapGet d m j := by
  induction m with
  | nil => simp [smapPut, smapGet, eq_comm]
  | cons e r ih =>
    obtain ⟨i, w⟩ := e
    simp only [smapPut]
    split
    · rename_i h
      by_cases hj : j = k
      · simp [smapGet, hj]
      · simp [smapGet, hj, Ne.symm hj, h]
    · split
      · by_cases hj : j = k
        · simp [smapGet, hj]
        · simp [smapGet, hj, Ne.symm hj]
      · simp only [smapGet, ih]
        split <;> split <;> simp_all

/-- A read after a write. -/
theorem smapGet_set [DecidableEq β] (d : β) (m : SMap β) (k j : Nat) (v : β) :
    smapGet d (smapSet d m k v) j = if j = k then v else smapGet d m j := by
  unfold smapSet
  split
  · subst_vars; exact smapGet_erase _ _ _ _
  · exact smapGet_put _ _ _ _ _

@[simp] theorem smapGet_set_self [DecidableEq β] (d : β) (m : SMap β) (k : Nat) (v : β) : smapGet d (smapSet d m k v) k = v := by
  simp [smapGet_set]

/-- A write of a default that may differ from key to key, as the register file has it. -/
theorem smapGet_set_at [DecidableEq β] (d : Nat → β) (m : SMap β) (k j : Nat) (v : β) :
    smapGet (d j) (smapSet (d k) m k v) j = if j = k then v else smapGet (d j) m j := by
  by_cases h : j = k
  · subst h; simp
  · unfold smapSet
    split
    · simp [smapGet_erase, h]
    · simp [smapGet_put, h]

theorem smapGet_mod [DecidableEq β] (d : β) (m : SMap β) (k j : Nat) (f : β → β) :
    smapGet d (smapMod d m k f) j = if j = k then f (smapGet d m k) else smapGet d m j := smapGet_set _ _ _ _ _

@[simp] theorem smapGet_mod_self [DecidableEq β] (d : β) (m : SMap β) (k : Nat) (f : β → β) :
    smapGet d (smapMod d m k f) k = f (smapGet d m k) := by
  simp [smapGet_mod]

/-! ### The canonical form -/

/-- Every key is above a bound. -/
def smapAbove (lo : Nat) (m : SMap β) : Prop := ∀ e ∈ m, lo < e.1

theorem smapRising_some (lo : Nat) (m : SMap β) : smapRising (some lo) m = true ↔ smapRising none m = true ∧ smapAbove lo m := by
  induction m generalizing lo with
  | nil => simp [smapRising, smapAbove]
  | cons e r ih =>
    obtain ⟨i, v⟩ := e
    simp only [smapRising, Bool.and_eq_true, decide_eq_true_eq, smapAbove, List.mem_cons, forall_eq_or_imp]
    constructor
    · rintro ⟨h, hr⟩
      exact ⟨hr, h, fun e he => lt_trans h ((ih i).1 hr |>.2 e he)⟩
    · rintro ⟨hr, h, _⟩
      exact ⟨h, hr⟩

theorem smapRising_cons (i : Nat) (v : β) (r : SMap β) :
    smapRising none ((i, v) :: r) = true ↔ smapRising none r = true ∧ smapAbove i r := smapRising_some i r

theorem smapAbove_erase (lo : Nat) (m : SMap β) (k : Nat) (h : smapAbove lo m) : smapAbove lo (smapErase m k) := by
  induction m with
  | nil => exact h
  | cons e r ih =>
    obtain ⟨i, v⟩ := e
    have hr : smapAbove lo r := fun e he => h e (List.mem_cons_of_mem _ he)
    simp only [smapErase]
    split
    · exact ih hr
    · intro e he
      rcases List.mem_cons.1 he with rfl | he
      · exact h _ List.mem_cons_self
      · exact ih hr e he

theorem smapAbove_put (lo : Nat) (m : SMap β) (k : Nat) (v : β) (h : smapAbove lo m) (hk : lo < k) : smapAbove lo (smapPut m k v) := by
  induction m with
  | nil => simpa [smapPut, smapAbove] using hk
  | cons e r ih =>
    obtain ⟨i, w⟩ := e
    have hr : smapAbove lo r := fun e he => h e (List.mem_cons_of_mem _ he)
    have hi : lo < i := h _ List.mem_cons_self
    simp only [smapPut]
    split
    · intro e he
      rcases List.mem_cons.1 he with rfl | he
      · exact hk
      · exact hr e he
    · split
      · intro e he
        rcases List.mem_cons.1 he with rfl | he
        · exact hk
        · exact h e he
      · intro e he
        rcases List.mem_cons.1 he with rfl | he
        · exact hi
        · exact ih hr e he

theorem smapRising_erase (m : SMap β) (k : Nat) (h : smapRising none m = true) : smapRising none (smapErase m k) = true := by
  induction m with
  | nil => rfl
  | cons e r ih =>
    obtain ⟨i, v⟩ := e
    obtain ⟨hr, ha⟩ := (smapRising_cons i v r).1 h
    simp only [smapErase]
    split
    · exact ih hr
    · exact (smapRising_cons i v _).2 ⟨ih hr, smapAbove_erase i r k ha⟩

theorem smapRising_put (m : SMap β) (k : Nat) (v : β) (h : smapRising none m = true) : smapRising none (smapPut m k v) = true := by
  induction m with
  | nil => rfl
  | cons e r ih =>
    obtain ⟨i, w⟩ := e
    obtain ⟨hr, ha⟩ := (smapRising_cons i w r).1 h
    simp only [smapPut]
    split
    · subst_vars; exact (smapRising_cons _ v r).2 ⟨hr, ha⟩
    · split
      · rename_i hne hlt
        refine (smapRising_cons k v _).2 ⟨h, ?_⟩
        intro e he
        rcases List.mem_cons.1 he with rfl | he
        · exact hlt
        · exact lt_trans hlt (ha e he)
      · rename_i hne hlt
        exact (smapRising_cons i w _).2 ⟨ih hr, smapAbove_put i r k v ha (by omega)⟩

theorem smapRising_filter (m : SMap β) (p : Nat × β → Bool) (h : smapRising none m = true) : smapRising none (m.filter p) = true := by
  induction m with
  | nil => rfl
  | cons e r ih =>
    obtain ⟨i, w⟩ := e
    obtain ⟨hr, ha⟩ := (smapRising_cons i w r).1 h
    rw [List.filter_cons]
    split
    · exact (smapRising_cons i w _).2 ⟨ih hr, fun e he => ha e (List.mem_filter.1 he).1⟩
    · exact ih hr

theorem smapWf_iff [DecidableEq β] (d : β) (m : SMap β) : smapWf d m = true ↔ smapRising none m = true ∧ ∀ e ∈ m, e.2 ≠ d := by
  simp [smapWf, List.all_eq_true]

@[simp] theorem smapWf_nil [DecidableEq β] (d : β) : smapWf d ([] : SMap β) = true := rfl

theorem smapErase_mem (m : SMap β) (k : Nat) (e : Nat × β) (h : e ∈ smapErase m k) : e ∈ m := by
  induction m with
  | nil => exact h
  | cons a r ih =>
    obtain ⟨i, v⟩ := a
    simp only [smapErase] at h
    split at h
    · exact List.mem_cons_of_mem _ (ih h)
    · rcases List.mem_cons.1 h with rfl | h
      · exact List.mem_cons_self
      · exact List.mem_cons_of_mem _ (ih h)

theorem smapPut_mem (m : SMap β) (k : Nat) (v : β) (e : Nat × β) (h : e ∈ smapPut m k v) : e = (k, v) ∨ e ∈ m := by
  induction m with
  | nil => simp_all [smapPut]
  | cons a r ih =>
    obtain ⟨i, w⟩ := a
    simp only [smapPut] at h
    split at h
    · rcases List.mem_cons.1 h with rfl | h
      · exact Or.inl rfl
      · exact Or.inr (List.mem_cons_of_mem _ h)
    · split at h
      · rcases List.mem_cons.1 h with rfl | h
        · exact Or.inl rfl
        · exact Or.inr h
      · rcases List.mem_cons.1 h with rfl | h
        · exact Or.inr List.mem_cons_self
        · rcases ih h with h | h
          · exact Or.inl h
          · exact Or.inr (List.mem_cons_of_mem _ h)

/-- A write keeps the canonical form. -/
theorem smapWf_set [DecidableEq β] (d : β) (m : SMap β) (k : Nat) (v : β) (h : smapWf d m = true) : smapWf d (smapSet d m k v) = true := by
  obtain ⟨hr, hd⟩ := (smapWf_iff d m).1 h
  unfold smapSet
  split
  · exact (smapWf_iff d _).2 ⟨smapRising_erase m k hr, fun e he => hd e (smapErase_mem m k e he)⟩
  · rename_i hv
    refine (smapWf_iff d _).2 ⟨smapRising_put m k v hr, fun e he => ?_⟩
    rcases smapPut_mem m k v e he with rfl | he
    · exact hv
    · exact hd e he

/-- A write of a function of the old value keeps the canonical form. -/
theorem smapWf_mod [DecidableEq β] (d : β) (m : SMap β) (k : Nat) (f : β → β) (h : smapWf d m = true) : smapWf d (smapMod d m k f) = true :=
  smapWf_set d m k _ h

/-- Entries dropped keep the canonical form. -/
theorem smapWf_filter [DecidableEq β] (d : β) (m : SMap β) (p : Nat × β → Bool) (h : smapWf d m = true) : smapWf d (m.filter p) = true := by
  obtain ⟨hr, hd⟩ := (smapWf_iff d m).1 h
  exact (smapWf_iff d _).2 ⟨smapRising_filter m p hr, fun e he => hd e (List.mem_filter.1 he).1⟩

/-- Equal tables are equal data: two tables in canonical form that read alike at every key are the same list. -/
theorem smap_ext [DecidableEq β] (d : β) (m n : SMap β) (hm : smapWf d m = true) (hn : smapWf d n = true)
    (h : ∀ k, smapGet d m k = smapGet d n k) : m = n := by
  have below : ∀ (i : Nat) (r : SMap β), smapAbove i r → smapGet d r i = d := by
    intro i r hr
    induction r with
    | nil => rfl
    | cons e r ih =>
      have : ¬ e.1 = i := by have := hr e List.mem_cons_self; omega
      simp only [smapGet, this, if_false]
      exact ih (fun e he => hr e (List.mem_cons_of_mem _ he))
  have low : ∀ (i j : Nat) (r : SMap β), i < j → smapAbove j r → smapGet d r i = d :=
    fun i j r hij hr => below i r (fun e he => lt_trans hij (hr e he))
  have tail : ∀ (i : Nat) (v : β) (r : SMap β), smapWf d ((i, v) :: r) = true → v ≠ d ∧ smapWf d r = true ∧ smapAbove i r := by
    intro i v r hw
    obtain ⟨h1, h2⟩ := (smapWf_iff d _).1 hw
    obtain ⟨h3, h4⟩ := (smapRising_cons i v r).1 h1
    exact ⟨h2 (i, v) List.mem_cons_self, (smapWf_iff d _).2 ⟨h3, fun e he => h2 e (List.mem_cons_of_mem _ he)⟩, h4⟩
  induction m generalizing n with
  | nil =>
    cases n with
    | nil => rfl
    | cons e r => exact absurd (by simpa [smapGet] using (h e.1).symm) (tail _ _ _ hn).1
  | cons e r ih =>
    obtain ⟨i, v⟩ := e
    obtain ⟨hv, hr, ha⟩ := tail i v r hm
    cases n with
    | nil => exact absurd (by simpa [smapGet] using h i) hv
    | cons e' r' =>
      obtain ⟨j, w⟩ := e'
      obtain ⟨hw, hr', ha'⟩ := tail j w r' hn
      have hij : i = j := by
        rcases Nat.lt_trichotomy i j with hlt | heq | hgt
        · have h1 := h i
          simp only [smapGet, if_true, if_neg (by omega : ¬ j = i)] at h1
          exact absurd (h1.trans (low i j r' hlt ha')) hv
        · exact heq
        · have h1 := h j
          simp only [smapGet, if_true, if_neg (by omega : ¬ i = j)] at h1
          exact absurd (h1.symm.trans (low j i r hgt ha)) hw
      subst hij
      have hvw : v = w := by simpa [smapGet] using h i
      subst hvw
      congr 1
      refine ih r' hr hr' (fun k => ?_)
      by_cases hk : i = k
      · subst hk; rw [below i r ha, below i r' ha']
      · simpa [smapGet, hk] using h k

end Sys2Proof.Machine
end

