-- ==== Sys2Proof/Laws/Memory.lean ====
section
/-!
SUPPORT. Laws/Memory.lean: every operation on one of the die's memories keeps its canonical form, and each memory is canonical at reset.
-/
namespace Sys2Proof.Machine

theorem memWf_iff (d : Die) : d.memWf = true ↔ Memory.wf 0 d.cave.mem = true ∧ Memory.wf 0 d.plans.mem = true ∧ Memory.wf 0 d.hoops.mem = true
    ∧ (∀ e ∈ d.vats, Memory.wf 0 e.2.mem = true) ∧ Memory.wf 0xFF d.smb.flash = true ∧ Memory.wf 0 d.smb.image = true := by
  simp [Die.memWf, List.all_eq_true, and_assoc]

/-- Every memory is canonical at reset: nothing is listed. -/
theorem reset_memWf : State.reset.die.memWf = true := by decide +kernel

/-! ### Runs of bytes -/

theorem bytesPut_wf (bs : List Byte) : ∀ (m : SMap Byte) (a : Nat), Memory.wf 0 m = true → Memory.wf 0 (bytesPut m a bs) = true := by
  induction bs with
  | nil => exact fun _ _ h => h
  | cons b r ih => exact fun m a h => ih _ _ (smapWf_set 0 m a b h)

theorem foldSet_wf (d : Byte) (a : Nat) (l : List (Byte × Nat)) : ∀ m : SMap Byte, Memory.wf d m = true →
    Memory.wf d (l.foldl (fun m x => smapSet d m (a + x.2) x.1) m) = true := by
  induction l with
  | nil => exact fun _ h => h
  | cons x r ih => exact fun m h => ih _ (smapWf_set d m _ _ h)

theorem foldRuns_wf (l : List (Nat × List Byte)) : ∀ m : SMap Byte, Memory.wf 0 m = true →
    Memory.wf 0 (l.foldl (fun (m : SMap Byte) (r : Nat × List Byte) => bytesPut m r.1 r.2) m) = true := by
  induction l with
  | nil => exact fun _ h => h
  | cons x r ih => exact fun m h => ih _ (bytesPut_wf _ m _ h)

theorem filter_wf (d : Byte) (m : SMap Byte) (p : Nat × Byte → Bool) (h : Memory.wf d m = true) : Memory.wf d (m.filter p) = true :=
  smapWf_filter d m p h

/-! ### The cave (spec 21) -/

theorem caveFill_memWf (d : Die) (p : Nat) (h : d.memWf = true) : (d.caveFill p).memWf = true := by
  unfold Die.caveFill
  split
  · exact h
  · split
    · exact h
    · obtain ⟨hc, hr⟩ := (memWf_iff d).1 h
      exact (memWf_iff _).2 ⟨filter_wf 0 _ _ hc, hr⟩

theorem chargeLine_memWf (d : Die) (a : Nat) (h : d.memWf = true) : (d.chargeLine a).memWf = true := by
  unfold Die.chargeLine
  split <;> exact h

theorem caveWriteLine_memWf (d : Die) (a : Nat) (bs : List Byte) (h : d.memWf = true) : (d.caveWriteLine a bs).1.memWf = true := by
  have h1 := caveFill_memWf d (a / 4096) h
  unfold Die.caveWriteLine
  dsimp only
  split
  · exact h1
  · split
    · exact h1
    · obtain ⟨hc, _⟩ := (memWf_iff _).1 h1
      have hq := (memWf_iff _).1 (chargeLine_memWf _ a h1)
      exact (memWf_iff _).2 ⟨bytesPut_wf _ _ _ hc, hq.2⟩

/-- Writes to the cave keep every memory canonical. -/
theorem caveWrite_memWf (d : Die) (a : Nat) (bs : List Byte) (h : d.memWf = true) : (d.caveWrite a bs).memWf = true := by
  unfold Die.caveWrite
  generalize lineCuts (bs.length / 64 + 2) a bs = l
  induction l generalizing d with
  | nil => exact h
  | cons p r ih => exact ih _ (caveWriteLine_memWf d p.1 p.2 h)

theorem smapRising_above (lo : Nat) (m : SMap Byte) (h : smapRising (some lo) m = true) (k : Nat) (hk : k ≤ lo) : smapRising (some k) m = true := by
  cases m with
  | nil => rfl
  | cons e r =>
    obtain ⟨i, v⟩ := e
    simp only [smapRising, Bool.and_eq_true, decide_eq_true_eq] at h ⊢
    exact ⟨by omega, h.2⟩

theorem rising_map (f : Nat × Byte → Nat × Byte) (hf : ∀ e, (f e).1 = e.1) (m : SMap Byte) : ∀ o, smapRising o m = true →
    smapRising o (m.map f) = true := by
  induction m with
  | nil => intro o _; cases o <;> rfl
  | cons e r ih =>
    obtain ⟨i, v⟩ := e
    have hi : (f (i, v)).1 = i := hf _
    intro o h
    rw [List.map_cons]
    generalize hg : f (i, v) = g at hi
    obtain ⟨j, w⟩ := g
    simp only at hi
    subst hi
    cases o with
    | none => exact ih _ h
    | some lo =>
      simp only [smapRising, Bool.and_eq_true, decide_eq_true_eq] at h ⊢
      exact ⟨h.1, ih _ h.2⟩

/-- LOCK bits cleared keep every memory canonical (R862). -/
theorem unlockSlots_memWf (d : Die) (h : d.memWf = true) : d.unlockSlots.memWf = true := by
  obtain ⟨hc, hr⟩ := (memWf_iff d).1 h
  refine (memWf_iff _).2 ⟨?_, hr⟩
  refine (smapWf_iff 0 _).2 ⟨smapRising_filter _ _ (rising_map _ ?_ _ none ((smapWf_iff 0 _).1 hc).1), fun e he => ?_⟩
  · intro e; split <;> rfl
  · simpa using (List.mem_filter.1 he).2

/-! ### Pool memory (spec 10) and plan memory (spec 17) -/

theorem zeroCell_memWf (d : Die) (n ix : Nat) (h : d.memWf = true) : (d.zeroCell n ix).memWf = true := by
  obtain ⟨hc, hp, hh, hr⟩ := (memWf_iff d).1 h
  exact (memWf_iff _).2 ⟨hc, hp, filter_wf 0 _ _ hh, hr⟩

theorem cellWrite_memWf (d : Die) (n ix o : Nat) (bs : List Byte) (h : d.memWf = true) : (d.cellWrite n ix o bs).memWf = true := by
  obtain ⟨hc, hp, hh, hr⟩ := (memWf_iff d).1 h
  exact (memWf_iff _).2 ⟨hc, hp, bytesPut_wf _ _ _ hh, hr⟩

/-- Bytes that a window write puts into plan memory keep every memory canonical (R612). -/
theorem planPut_memWf (d : Die) (l : List (Nat × List Byte)) (h : d.memWf = true) :
    Die.memWf { d with plans := { d.plans with
      mem := l.foldl (fun (m : SMap Byte) (r : Nat × List Byte) => bytesPut m r.1 r.2) d.plans.mem } } = true := by
  obtain ⟨hc, hp, hr⟩ := (memWf_iff d).1 h
  exact (memWf_iff _).2 ⟨hc, foldRuns_wf _ _ hp, hr⟩

/-! ### Scratchpads (spec 13) -/

/-- A change of one vat that keeps its scratchpad canonical keeps every memory canonical. -/
theorem modVat_memWf (d : Die) (v : Nat) (f : VatSt → VatSt) (h : d.memWf = true)
    (hf : ∀ s : VatSt, Memory.wf 0 s.mem = true → Memory.wf 0 (f s).mem = true) : (d.modVat v f).memWf = true := by
  obtain ⟨hc, hp, hh, hv, hr⟩ := (memWf_iff d).1 h
  refine (memWf_iff _).2 ⟨hc, hp, hh, ?_, hr⟩
  have hg : ∀ m : SMap VatSt, (∀ e ∈ m, Memory.wf 0 e.2.mem = true) → Memory.wf 0 (smapGet VatSt.init m v).mem = true := by
    intro m
    induction m with
    | nil => intro _; rfl
    | cons e r ih =>
      obtain ⟨i, s⟩ := e
      intro hm
      simp only [smapGet]
      split
      · exact hm _ List.mem_cons_self
      · exact ih fun e he => hm e (List.mem_cons_of_mem _ he)
  intro e he
  simp only [Die.modVat, smapMod, smapSet] at he
  split at he
  · exact hv e (smapErase_mem _ _ e he)
  · rcases smapPut_mem _ _ _ e he with rfl | he
    · exact hf _ (hg _ hv)
    · exact hv e he

theorem startWipe_memWf (d : Die) (v w n : Nat) (h : d.memWf = true) : (d.startWipe v w n).memWf = true := by
  unfold Die.startWipe
  exact modVat_memWf d v (fun s => { s with
    wipes := s.wipes ++ [(w, n)], mem := s.mem.filter (fun e => decide (e.1 / 8 < w ∨ w + n ≤ e.1 / 8))
    wback := s.wback.filter (fun x => decide (x < w ∨ w + n ≤ x)) }) h fun _ hs => filter_wf 0 _ _ hs

theorem spadWrite_memWf (d : Die) (v a : Nat) (bs : List Byte) (h : d.memWf = true) : (d.spadWrite v a bs).memWf = true := by
  unfold Die.spadWrite
  exact modVat_memWf d v (fun s => { s with
    mem := bytesPut s.mem a bs, wback := s.wback.filter (fun w => decide (8 * w + 8 ≤ a ∨ a + bs.length ≤ 8 * w)) }) h
    fun _ hs => bytesPut_wf _ _ _ hs

theorem planContents_memWf (d : Die) (v : Nat) (i : PlanImg) (r : HdlRec) (h : d.memWf = true) : (d.planContents v i r).memWf = true := by
  unfold Die.planContents
  have h1 := modVat_memWf d v (fun s => { s with
    mem := s.mem.filter (fun e => decide (e.1 < 64 * r.base ∨ 64 * r.base + 64 * (r.len + 1) ≤ e.1)) }) h fun _ hs => filter_wf 0 _ _ hs
  dsimp only
  split
  · exact spadWrite_memWf _ _ _ _ h1
  · exact h1

/-! ### Flash and image memory (spec 25, 26) -/

theorem flashPut_memWf (d : Die) (a : Nat) (bs : List Byte) (h : d.memWf = true) : (d.flashPut a bs).memWf = true := by
  obtain ⟨hc, hp, hh, hv, hf, hi⟩ := (memWf_iff d).1 h
  exact (memWf_iff _).2 ⟨hc, hp, hh, hv, foldSet_wf 0xFF a _ _ hf, hi⟩

/-- A flash range erased keeps every memory canonical (R983). -/
theorem flashErase_memWf (d : Die) (p : Nat × Byte → Bool) (h : d.memWf = true) :
    Die.memWf { d with smb := { d.smb with flash := d.smb.flash.filter p } } = true := by
  obtain ⟨hc, hp, hh, hv, hf, hi⟩ := (memWf_iff d).1 h
  exact (memWf_iff _).2 ⟨hc, hp, hh, hv, filter_wf 0xFF _ _ hf, hi⟩

/-- Bytes put into image memory keep every memory canonical (R983). -/
theorem imagePut_memWf (d : Die) (a top : Nat) (l : List (Byte × Nat)) (h : d.memWf = true) :
    Die.memWf { d with smb := { d.smb with
      image := l.foldl (fun m x => smapSet 0 m (a + x.2) x.1) d.smb.image, imageTop := top } } = true := by
  obtain ⟨hc, hp, hh, hv, hf, hi⟩ := (memWf_iff d).1 h
  exact (memWf_iff _).2 ⟨hc, hp, hh, hv, hf, foldSet_wf 0 a _ _ hi⟩

end Sys2Proof.Machine
end

