-- ==== Sys2Proof/Laws/State.lean ====
section
/-!
SUPPORT. Laws/State.lean: what each named operation leaves alone, one lemma per part of the die, so that no proof unfolds a record update.
-/
namespace Sys2Proof.Machine

/-! ### The machine around the die -/

@[simp] theorem State.on_pending (s : State) (f : Die → Die) : (s.on f).pending = s.pending := rfl

@[simp] theorem State.on_die (s : State) (f : Die → Die) : (s.on f).die = f s.die := rfl

@[simp] theorem State.on_on (s : State) (f g : Die → Die) : (s.on f).on g = s.on (fun d => g (f d)) := rfl

/-- A command on a die that runs has its effect, and the queue stays. -/
theorem act_alive (s : State) (f : Die → Die) (h : s.die.alive = true) : act s f = .next (s.on f) := by
  simp [act, actRaw, State.on, h]

/-- A command on a die that does not run changes nothing. -/
theorem act_dead (s : State) (f : Die → Die) (h : s.die.alive = false) : act s f = .next s := by
  simp [act, actRaw, State.on, h]

/-- A write to a page in service is served (R908). -/
theorem Die.onPage_served (d : Die) (c : Cls) (t : PageType) (i : Nat) (f : Die → Die) (h : d.underReset t i = false) :
    d.onPage c t i f = f d := by
  simp [Die.onPage, h]

/-- A write to a page under reset only counts and logs (R908). -/
theorem Die.onPage_reset (d : Die) (c : Cls) (t : PageType) (i : Nat) (f : Die → Die) (h : d.underReset t i = true) :
    d.onPage c t i f = d.busyReset c t i := by
  simp [Die.onPage, h]

/-! ### setDword -/

@[simp] theorem Die.setDword_latch (d : Die) (a : Nat) (w : Word) : (d.setDword a w).latch = d.latch := rfl

@[simp] theorem Die.setDword_fresh (d : Die) (a : Nat) (w : Word) : (d.setDword a w).fresh = d.fresh := rfl

@[simp] theorem Die.setDword_out (d : Die) (a : Nat) (w : Word) : (d.setDword a w).out = d.out := rfl

@[simp] theorem Die.setDword_err (d : Die) (a : Nat) (w : Word) : (d.setDword a w).err = d.err := rfl

@[simp] theorem Die.setDword_msix (d : Die) (a : Nat) (w : Word) : (d.setDword a w).msix = d.msix := rfl

@[simp] theorem Die.setDword_tick (d : Die) (a : Nat) (w : Word) : (d.setDword a w).tick = d.tick := rfl

@[simp] theorem Die.setDword_cave (d : Die) (a : Nat) (w : Word) : (d.setDword a w).cave = d.cave := rfl

@[simp] theorem Die.setDword_wake (d : Die) (a : Nat) (w : Word) : (d.setDword a w).wake = d.wake := rfl

@[simp] theorem Die.setDword_ports (d : Die) (a : Nat) (w : Word) : (d.setDword a w).ports = d.ports := rfl

@[simp] theorem Die.setDword_casc (d : Die) (a : Nat) (w : Word) : (d.setDword a w).casc = d.casc := rfl

@[simp] theorem Die.setDword_disc (d : Die) (a : Nat) (w : Word) : (d.setDword a w).disc = d.disc := rfl

@[simp] theorem Die.setDword_sw (d : Die) (a : Nat) (w : Word) : (d.setDword a w).sw = d.sw := rfl

@[simp] theorem Die.setDword_harp (d : Die) (a : Nat) (w : Word) : (d.setDword a w).harp = d.harp := rfl

@[simp] theorem Die.setDword_dlv (d : Die) (a : Nat) (w : Word) : (d.setDword a w).dlv = d.dlv := rfl

@[simp] theorem Die.setDword_ten (d : Die) (a : Nat) (w : Word) : (d.setDword a w).ten = d.ten := rfl

@[simp] theorem Die.setDword_hoops (d : Die) (a : Nat) (w : Word) : (d.setDword a w).hoops = d.hoops := rfl

@[simp] theorem Die.setDword_withholding (d : Die) (a : Nat) (w : Word) : (d.setDword a w).withholding = d.withholding := rfl

@[simp] theorem Die.setDword_vats (d : Die) (a : Nat) (w : Word) : (d.setDword a w).vats = d.vats := rfl

@[simp] theorem Die.setDword_plans (d : Die) (a : Nat) (w : Word) : (d.setDword a w).plans = d.plans := rfl

@[simp] theorem Die.setDword_coll (d : Die) (a : Nat) (w : Word) : (d.setDword a w).coll = d.coll := rfl

@[simp] theorem Die.setDword_det (d : Die) (a : Nat) (w : Word) : (d.setDword a w).det = d.det := rfl

@[simp] theorem Die.setDword_own (d : Die) (a : Nat) (w : Word) : (d.setDword a w).own = d.own := rfl

@[simp] theorem Die.setDword_sec (d : Die) (a : Nat) (w : Word) : (d.setDword a w).sec = d.sec := rfl

@[simp] theorem Die.setDword_host (d : Die) (a : Nat) (w : Word) : (d.setDword a w).host = d.host := rfl

@[simp] theorem Die.setDword_telem (d : Die) (a : Nat) (w : Word) : (d.setDword a w).telem = d.telem := rfl

@[simp] theorem Die.setDword_smb (d : Die) (a : Nat) (w : Word) : (d.setDword a w).smb = d.smb := rfl

@[simp] theorem Die.setDword_boot (d : Die) (a : Nat) (w : Word) : (d.setDword a w).boot = d.boot := rfl

@[simp] theorem Die.setDword_pwr (d : Die) (a : Nat) (w : Word) : (d.setDword a w).pwr = d.pwr := rfl

@[simp] theorem Die.setDword_returned (d : Die) (a : Nat) (w : Word) : (d.setDword a w).returned = d.returned := rfl

@[simp] theorem Die.setDword_alive (d : Die) (a : Nat) (w : Word) : (d.setDword a w).alive = d.alive := rfl

/-! ### wr -/

@[simp] theorem Die.wr_latch (d : Die) (l : Loc) (v : Nat) : (d.wr l v).latch = d.latch := rfl

@[simp] theorem Die.wr_fresh (d : Die) (l : Loc) (v : Nat) : (d.wr l v).fresh = d.fresh := rfl

@[simp] theorem Die.wr_out (d : Die) (l : Loc) (v : Nat) : (d.wr l v).out = d.out := rfl

@[simp] theorem Die.wr_err (d : Die) (l : Loc) (v : Nat) : (d.wr l v).err = d.err := rfl

@[simp] theorem Die.wr_msix (d : Die) (l : Loc) (v : Nat) : (d.wr l v).msix = d.msix := rfl

@[simp] theorem Die.wr_tick (d : Die) (l : Loc) (v : Nat) : (d.wr l v).tick = d.tick := rfl

@[simp] theorem Die.wr_cave (d : Die) (l : Loc) (v : Nat) : (d.wr l v).cave = d.cave := rfl

@[simp] theorem Die.wr_wake (d : Die) (l : Loc) (v : Nat) : (d.wr l v).wake = d.wake := rfl

@[simp] theorem Die.wr_ports (d : Die) (l : Loc) (v : Nat) : (d.wr l v).ports = d.ports := rfl

@[simp] theorem Die.wr_casc (d : Die) (l : Loc) (v : Nat) : (d.wr l v).casc = d.casc := rfl

@[simp] theorem Die.wr_disc (d : Die) (l : Loc) (v : Nat) : (d.wr l v).disc = d.disc := rfl

@[simp] theorem Die.wr_sw (d : Die) (l : Loc) (v : Nat) : (d.wr l v).sw = d.sw := rfl

@[simp] theorem Die.wr_harp (d : Die) (l : Loc) (v : Nat) : (d.wr l v).harp = d.harp := rfl

@[simp] theorem Die.wr_dlv (d : Die) (l : Loc) (v : Nat) : (d.wr l v).dlv = d.dlv := rfl

@[simp] theorem Die.wr_ten (d : Die) (l : Loc) (v : Nat) : (d.wr l v).ten = d.ten := rfl

@[simp] theorem Die.wr_hoops (d : Die) (l : Loc) (v : Nat) : (d.wr l v).hoops = d.hoops := rfl

@[simp] theorem Die.wr_withholding (d : Die) (l : Loc) (v : Nat) : (d.wr l v).withholding = d.withholding := rfl

@[simp] theorem Die.wr_vats (d : Die) (l : Loc) (v : Nat) : (d.wr l v).vats = d.vats := rfl

@[simp] theorem Die.wr_plans (d : Die) (l : Loc) (v : Nat) : (d.wr l v).plans = d.plans := rfl

@[simp] theorem Die.wr_coll (d : Die) (l : Loc) (v : Nat) : (d.wr l v).coll = d.coll := rfl

@[simp] theorem Die.wr_det (d : Die) (l : Loc) (v : Nat) : (d.wr l v).det = d.det := rfl

@[simp] theorem Die.wr_own (d : Die) (l : Loc) (v : Nat) : (d.wr l v).own = d.own := rfl

@[simp] theorem Die.wr_sec (d : Die) (l : Loc) (v : Nat) : (d.wr l v).sec = d.sec := rfl

@[simp] theorem Die.wr_host (d : Die) (l : Loc) (v : Nat) : (d.wr l v).host = d.host := rfl

@[simp] theorem Die.wr_telem (d : Die) (l : Loc) (v : Nat) : (d.wr l v).telem = d.telem := rfl

@[simp] theorem Die.wr_smb (d : Die) (l : Loc) (v : Nat) : (d.wr l v).smb = d.smb := rfl

@[simp] theorem Die.wr_boot (d : Die) (l : Loc) (v : Nat) : (d.wr l v).boot = d.boot := rfl

@[simp] theorem Die.wr_pwr (d : Die) (l : Loc) (v : Nat) : (d.wr l v).pwr = d.pwr := rfl

@[simp] theorem Die.wr_returned (d : Die) (l : Loc) (v : Nat) : (d.wr l v).returned = d.returned := rfl

@[simp] theorem Die.wr_alive (d : Die) (l : Loc) (v : Nat) : (d.wr l v).alive = d.alive := rfl

/-! ### set -/

@[simp] theorem Die.set_latch (d : Die) (f : Fld) (v i j k : Nat) : (d.set f v i j k).latch = d.latch := rfl

@[simp] theorem Die.set_fresh (d : Die) (f : Fld) (v i j k : Nat) : (d.set f v i j k).fresh = d.fresh := rfl

@[simp] theorem Die.set_out (d : Die) (f : Fld) (v i j k : Nat) : (d.set f v i j k).out = d.out := rfl

@[simp] theorem Die.set_err (d : Die) (f : Fld) (v i j k : Nat) : (d.set f v i j k).err = d.err := rfl

@[simp] theorem Die.set_msix (d : Die) (f : Fld) (v i j k : Nat) : (d.set f v i j k).msix = d.msix := rfl

@[simp] theorem Die.set_tick (d : Die) (f : Fld) (v i j k : Nat) : (d.set f v i j k).tick = d.tick := rfl

@[simp] theorem Die.set_cave (d : Die) (f : Fld) (v i j k : Nat) : (d.set f v i j k).cave = d.cave := rfl

@[simp] theorem Die.set_wake (d : Die) (f : Fld) (v i j k : Nat) : (d.set f v i j k).wake = d.wake := rfl

@[simp] theorem Die.set_ports (d : Die) (f : Fld) (v i j k : Nat) : (d.set f v i j k).ports = d.ports := rfl

@[simp] theorem Die.set_casc (d : Die) (f : Fld) (v i j k : Nat) : (d.set f v i j k).casc = d.casc := rfl

@[simp] theorem Die.set_disc (d : Die) (f : Fld) (v i j k : Nat) : (d.set f v i j k).disc = d.disc := rfl

@[simp] theorem Die.set_sw (d : Die) (f : Fld) (v i j k : Nat) : (d.set f v i j k).sw = d.sw := rfl

@[simp] theorem Die.set_harp (d : Die) (f : Fld) (v i j k : Nat) : (d.set f v i j k).harp = d.harp := rfl

@[simp] theorem Die.set_dlv (d : Die) (f : Fld) (v i j k : Nat) : (d.set f v i j k).dlv = d.dlv := rfl

@[simp] theorem Die.set_ten (d : Die) (f : Fld) (v i j k : Nat) : (d.set f v i j k).ten = d.ten := rfl

@[simp] theorem Die.set_hoops (d : Die) (f : Fld) (v i j k : Nat) : (d.set f v i j k).hoops = d.hoops := rfl

@[simp] theorem Die.set_withholding (d : Die) (f : Fld) (v i j k : Nat) : (d.set f v i j k).withholding = d.withholding := rfl

@[simp] theorem Die.set_vats (d : Die) (f : Fld) (v i j k : Nat) : (d.set f v i j k).vats = d.vats := rfl

@[simp] theorem Die.set_plans (d : Die) (f : Fld) (v i j k : Nat) : (d.set f v i j k).plans = d.plans := rfl

@[simp] theorem Die.set_coll (d : Die) (f : Fld) (v i j k : Nat) : (d.set f v i j k).coll = d.coll := rfl

@[simp] theorem Die.set_det (d : Die) (f : Fld) (v i j k : Nat) : (d.set f v i j k).det = d.det := rfl

@[simp] theorem Die.set_own (d : Die) (f : Fld) (v i j k : Nat) : (d.set f v i j k).own = d.own := rfl

@[simp] theorem Die.set_sec (d : Die) (f : Fld) (v i j k : Nat) : (d.set f v i j k).sec = d.sec := rfl

@[simp] theorem Die.set_host (d : Die) (f : Fld) (v i j k : Nat) : (d.set f v i j k).host = d.host := rfl

@[simp] theorem Die.set_telem (d : Die) (f : Fld) (v i j k : Nat) : (d.set f v i j k).telem = d.telem := rfl

@[simp] theorem Die.set_smb (d : Die) (f : Fld) (v i j k : Nat) : (d.set f v i j k).smb = d.smb := rfl

@[simp] theorem Die.set_boot (d : Die) (f : Fld) (v i j k : Nat) : (d.set f v i j k).boot = d.boot := rfl

@[simp] theorem Die.set_pwr (d : Die) (f : Fld) (v i j k : Nat) : (d.set f v i j k).pwr = d.pwr := rfl

@[simp] theorem Die.set_returned (d : Die) (f : Fld) (v i j k : Nat) : (d.set f v i j k).returned = d.returned := rfl

@[simp] theorem Die.set_alive (d : Die) (f : Fld) (v i j k : Nat) : (d.set f v i j k).alive = d.alive := rfl

/-! ### setBit -/

@[simp] theorem Die.setBit_latch (d : Die) (f : Fld) (b : Bool) (i j k : Nat) : (d.setBit f b i j k).latch = d.latch := rfl

@[simp] theorem Die.setBit_fresh (d : Die) (f : Fld) (b : Bool) (i j k : Nat) : (d.setBit f b i j k).fresh = d.fresh := rfl

@[simp] theorem Die.setBit_out (d : Die) (f : Fld) (b : Bool) (i j k : Nat) : (d.setBit f b i j k).out = d.out := rfl

@[simp] theorem Die.setBit_err (d : Die) (f : Fld) (b : Bool) (i j k : Nat) : (d.setBit f b i j k).err = d.err := rfl

@[simp] theorem Die.setBit_msix (d : Die) (f : Fld) (b : Bool) (i j k : Nat) : (d.setBit f b i j k).msix = d.msix := rfl

@[simp] theorem Die.setBit_tick (d : Die) (f : Fld) (b : Bool) (i j k : Nat) : (d.setBit f b i j k).tick = d.tick := rfl

@[simp] theorem Die.setBit_cave (d : Die) (f : Fld) (b : Bool) (i j k : Nat) : (d.setBit f b i j k).cave = d.cave := rfl

@[simp] theorem Die.setBit_wake (d : Die) (f : Fld) (b : Bool) (i j k : Nat) : (d.setBit f b i j k).wake = d.wake := rfl

@[simp] theorem Die.setBit_ports (d : Die) (f : Fld) (b : Bool) (i j k : Nat) : (d.setBit f b i j k).ports = d.ports := rfl

@[simp] theorem Die.setBit_casc (d : Die) (f : Fld) (b : Bool) (i j k : Nat) : (d.setBit f b i j k).casc = d.casc := rfl

@[simp] theorem Die.setBit_disc (d : Die) (f : Fld) (b : Bool) (i j k : Nat) : (d.setBit f b i j k).disc = d.disc := rfl

@[simp] theorem Die.setBit_sw (d : Die) (f : Fld) (b : Bool) (i j k : Nat) : (d.setBit f b i j k).sw = d.sw := rfl

@[simp] theorem Die.setBit_harp (d : Die) (f : Fld) (b : Bool) (i j k : Nat) : (d.setBit f b i j k).harp = d.harp := rfl

@[simp] theorem Die.setBit_dlv (d : Die) (f : Fld) (b : Bool) (i j k : Nat) : (d.setBit f b i j k).dlv = d.dlv := rfl

@[simp] theorem Die.setBit_ten (d : Die) (f : Fld) (b : Bool) (i j k : Nat) : (d.setBit f b i j k).ten = d.ten := rfl

@[simp] theorem Die.setBit_hoops (d : Die) (f : Fld) (b : Bool) (i j k : Nat) : (d.setBit f b i j k).hoops = d.hoops := rfl

@[simp] theorem Die.setBit_withholding (d : Die) (f : Fld) (b : Bool) (i j k : Nat) : (d.setBit f b i j k).withholding = d.withholding := rfl

@[simp] theorem Die.setBit_vats (d : Die) (f : Fld) (b : Bool) (i j k : Nat) : (d.setBit f b i j k).vats = d.vats := rfl

@[simp] theorem Die.setBit_plans (d : Die) (f : Fld) (b : Bool) (i j k : Nat) : (d.setBit f b i j k).plans = d.plans := rfl

@[simp] theorem Die.setBit_coll (d : Die) (f : Fld) (b : Bool) (i j k : Nat) : (d.setBit f b i j k).coll = d.coll := rfl

@[simp] theorem Die.setBit_det (d : Die) (f : Fld) (b : Bool) (i j k : Nat) : (d.setBit f b i j k).det = d.det := rfl

@[simp] theorem Die.setBit_own (d : Die) (f : Fld) (b : Bool) (i j k : Nat) : (d.setBit f b i j k).own = d.own := rfl

@[simp] theorem Die.setBit_sec (d : Die) (f : Fld) (b : Bool) (i j k : Nat) : (d.setBit f b i j k).sec = d.sec := rfl

@[simp] theorem Die.setBit_host (d : Die) (f : Fld) (b : Bool) (i j k : Nat) : (d.setBit f b i j k).host = d.host := rfl

@[simp] theorem Die.setBit_telem (d : Die) (f : Fld) (b : Bool) (i j k : Nat) : (d.setBit f b i j k).telem = d.telem := rfl

@[simp] theorem Die.setBit_smb (d : Die) (f : Fld) (b : Bool) (i j k : Nat) : (d.setBit f b i j k).smb = d.smb := rfl

@[simp] theorem Die.setBit_boot (d : Die) (f : Fld) (b : Bool) (i j k : Nat) : (d.setBit f b i j k).boot = d.boot := rfl

@[simp] theorem Die.setBit_pwr (d : Die) (f : Fld) (b : Bool) (i j k : Nat) : (d.setBit f b i j k).pwr = d.pwr := rfl

@[simp] theorem Die.setBit_returned (d : Die) (f : Fld) (b : Bool) (i j k : Nat) : (d.setBit f b i j k).returned = d.returned := rfl

@[simp] theorem Die.setBit_alive (d : Die) (f : Fld) (b : Bool) (i j k : Nat) : (d.setBit f b i j k).alive = d.alive := rfl

/-! ### hset -/

@[simp] theorem Die.hset_latch (d : Die) (f : Fld) (v : Nat) (t : PageType) (i : Nat) : (d.hset f v t i).latch = d.latch := rfl

@[simp] theorem Die.hset_fresh (d : Die) (f : Fld) (v : Nat) (t : PageType) (i : Nat) : (d.hset f v t i).fresh = d.fresh := rfl

@[simp] theorem Die.hset_out (d : Die) (f : Fld) (v : Nat) (t : PageType) (i : Nat) : (d.hset f v t i).out = d.out := rfl

@[simp] theorem Die.hset_err (d : Die) (f : Fld) (v : Nat) (t : PageType) (i : Nat) : (d.hset f v t i).err = d.err := rfl

@[simp] theorem Die.hset_msix (d : Die) (f : Fld) (v : Nat) (t : PageType) (i : Nat) : (d.hset f v t i).msix = d.msix := rfl

@[simp] theorem Die.hset_tick (d : Die) (f : Fld) (v : Nat) (t : PageType) (i : Nat) : (d.hset f v t i).tick = d.tick := rfl

@[simp] theorem Die.hset_cave (d : Die) (f : Fld) (v : Nat) (t : PageType) (i : Nat) : (d.hset f v t i).cave = d.cave := rfl

@[simp] theorem Die.hset_wake (d : Die) (f : Fld) (v : Nat) (t : PageType) (i : Nat) : (d.hset f v t i).wake = d.wake := rfl

@[simp] theorem Die.hset_ports (d : Die) (f : Fld) (v : Nat) (t : PageType) (i : Nat) : (d.hset f v t i).ports = d.ports := rfl

@[simp] theorem Die.hset_casc (d : Die) (f : Fld) (v : Nat) (t : PageType) (i : Nat) : (d.hset f v t i).casc = d.casc := rfl

@[simp] theorem Die.hset_disc (d : Die) (f : Fld) (v : Nat) (t : PageType) (i : Nat) : (d.hset f v t i).disc = d.disc := rfl

@[simp] theorem Die.hset_sw (d : Die) (f : Fld) (v : Nat) (t : PageType) (i : Nat) : (d.hset f v t i).sw = d.sw := rfl

@[simp] theorem Die.hset_harp (d : Die) (f : Fld) (v : Nat) (t : PageType) (i : Nat) : (d.hset f v t i).harp = d.harp := rfl

@[simp] theorem Die.hset_dlv (d : Die) (f : Fld) (v : Nat) (t : PageType) (i : Nat) : (d.hset f v t i).dlv = d.dlv := rfl

@[simp] theorem Die.hset_ten (d : Die) (f : Fld) (v : Nat) (t : PageType) (i : Nat) : (d.hset f v t i).ten = d.ten := rfl

@[simp] theorem Die.hset_hoops (d : Die) (f : Fld) (v : Nat) (t : PageType) (i : Nat) : (d.hset f v t i).hoops = d.hoops := rfl

@[simp] theorem Die.hset_withholding (d : Die) (f : Fld) (v : Nat) (t : PageType) (i : Nat) : (d.hset f v t i).withholding = d.withholding := rfl

@[simp] theorem Die.hset_vats (d : Die) (f : Fld) (v : Nat) (t : PageType) (i : Nat) : (d.hset f v t i).vats = d.vats := rfl

@[simp] theorem Die.hset_plans (d : Die) (f : Fld) (v : Nat) (t : PageType) (i : Nat) : (d.hset f v t i).plans = d.plans := rfl

@[simp] theorem Die.hset_coll (d : Die) (f : Fld) (v : Nat) (t : PageType) (i : Nat) : (d.hset f v t i).coll = d.coll := rfl

@[simp] theorem Die.hset_det (d : Die) (f : Fld) (v : Nat) (t : PageType) (i : Nat) : (d.hset f v t i).det = d.det := rfl

@[simp] theorem Die.hset_own (d : Die) (f : Fld) (v : Nat) (t : PageType) (i : Nat) : (d.hset f v t i).own = d.own := rfl

@[simp] theorem Die.hset_sec (d : Die) (f : Fld) (v : Nat) (t : PageType) (i : Nat) : (d.hset f v t i).sec = d.sec := rfl

@[simp] theorem Die.hset_host (d : Die) (f : Fld) (v : Nat) (t : PageType) (i : Nat) : (d.hset f v t i).host = d.host := rfl

@[simp] theorem Die.hset_telem (d : Die) (f : Fld) (v : Nat) (t : PageType) (i : Nat) : (d.hset f v t i).telem = d.telem := rfl

@[simp] theorem Die.hset_smb (d : Die) (f : Fld) (v : Nat) (t : PageType) (i : Nat) : (d.hset f v t i).smb = d.smb := rfl

@[simp] theorem Die.hset_boot (d : Die) (f : Fld) (v : Nat) (t : PageType) (i : Nat) : (d.hset f v t i).boot = d.boot := rfl

@[simp] theorem Die.hset_pwr (d : Die) (f : Fld) (v : Nat) (t : PageType) (i : Nat) : (d.hset f v t i).pwr = d.pwr := rfl

@[simp] theorem Die.hset_returned (d : Die) (f : Fld) (v : Nat) (t : PageType) (i : Nat) : (d.hset f v t i).returned = d.returned := rfl

@[simp] theorem Die.hset_alive (d : Die) (f : Fld) (v : Nat) (t : PageType) (i : Nat) : (d.hset f v t i).alive = d.alive := rfl

/-! ### set64 -/

@[simp] theorem Die.set64_latch (d : Die) (lo hi : Fld) (v i j : Nat) : (d.set64 lo hi v i j).latch = d.latch := rfl

@[simp] theorem Die.set64_fresh (d : Die) (lo hi : Fld) (v i j : Nat) : (d.set64 lo hi v i j).fresh = d.fresh := rfl

@[simp] theorem Die.set64_out (d : Die) (lo hi : Fld) (v i j : Nat) : (d.set64 lo hi v i j).out = d.out := rfl

@[simp] theorem Die.set64_err (d : Die) (lo hi : Fld) (v i j : Nat) : (d.set64 lo hi v i j).err = d.err := rfl

@[simp] theorem Die.set64_msix (d : Die) (lo hi : Fld) (v i j : Nat) : (d.set64 lo hi v i j).msix = d.msix := rfl

@[simp] theorem Die.set64_tick (d : Die) (lo hi : Fld) (v i j : Nat) : (d.set64 lo hi v i j).tick = d.tick := rfl

@[simp] theorem Die.set64_cave (d : Die) (lo hi : Fld) (v i j : Nat) : (d.set64 lo hi v i j).cave = d.cave := rfl

@[simp] theorem Die.set64_wake (d : Die) (lo hi : Fld) (v i j : Nat) : (d.set64 lo hi v i j).wake = d.wake := rfl

@[simp] theorem Die.set64_ports (d : Die) (lo hi : Fld) (v i j : Nat) : (d.set64 lo hi v i j).ports = d.ports := rfl

@[simp] theorem Die.set64_casc (d : Die) (lo hi : Fld) (v i j : Nat) : (d.set64 lo hi v i j).casc = d.casc := rfl

@[simp] theorem Die.set64_disc (d : Die) (lo hi : Fld) (v i j : Nat) : (d.set64 lo hi v i j).disc = d.disc := rfl

@[simp] theorem Die.set64_sw (d : Die) (lo hi : Fld) (v i j : Nat) : (d.set64 lo hi v i j).sw = d.sw := rfl

@[simp] theorem Die.set64_harp (d : Die) (lo hi : Fld) (v i j : Nat) : (d.set64 lo hi v i j).harp = d.harp := rfl

@[simp] theorem Die.set64_dlv (d : Die) (lo hi : Fld) (v i j : Nat) : (d.set64 lo hi v i j).dlv = d.dlv := rfl

@[simp] theorem Die.set64_ten (d : Die) (lo hi : Fld) (v i j : Nat) : (d.set64 lo hi v i j).ten = d.ten := rfl

@[simp] theorem Die.set64_hoops (d : Die) (lo hi : Fld) (v i j : Nat) : (d.set64 lo hi v i j).hoops = d.hoops := rfl

@[simp] theorem Die.set64_withholding (d : Die) (lo hi : Fld) (v i j : Nat) : (d.set64 lo hi v i j).withholding = d.withholding := rfl

@[simp] theorem Die.set64_vats (d : Die) (lo hi : Fld) (v i j : Nat) : (d.set64 lo hi v i j).vats = d.vats := rfl

@[simp] theorem Die.set64_plans (d : Die) (lo hi : Fld) (v i j : Nat) : (d.set64 lo hi v i j).plans = d.plans := rfl

@[simp] theorem Die.set64_coll (d : Die) (lo hi : Fld) (v i j : Nat) : (d.set64 lo hi v i j).coll = d.coll := rfl

@[simp] theorem Die.set64_det (d : Die) (lo hi : Fld) (v i j : Nat) : (d.set64 lo hi v i j).det = d.det := rfl

@[simp] theorem Die.set64_own (d : Die) (lo hi : Fld) (v i j : Nat) : (d.set64 lo hi v i j).own = d.own := rfl

@[simp] theorem Die.set64_sec (d : Die) (lo hi : Fld) (v i j : Nat) : (d.set64 lo hi v i j).sec = d.sec := rfl

@[simp] theorem Die.set64_host (d : Die) (lo hi : Fld) (v i j : Nat) : (d.set64 lo hi v i j).host = d.host := rfl

@[simp] theorem Die.set64_telem (d : Die) (lo hi : Fld) (v i j : Nat) : (d.set64 lo hi v i j).telem = d.telem := rfl

@[simp] theorem Die.set64_smb (d : Die) (lo hi : Fld) (v i j : Nat) : (d.set64 lo hi v i j).smb = d.smb := rfl

@[simp] theorem Die.set64_boot (d : Die) (lo hi : Fld) (v i j : Nat) : (d.set64 lo hi v i j).boot = d.boot := rfl

@[simp] theorem Die.set64_pwr (d : Die) (lo hi : Fld) (v i j : Nat) : (d.set64 lo hi v i j).pwr = d.pwr := rfl

@[simp] theorem Die.set64_returned (d : Die) (lo hi : Fld) (v i j : Nat) : (d.set64 lo hi v i j).returned = d.returned := rfl

@[simp] theorem Die.set64_alive (d : Die) (lo hi : Fld) (v i j : Nat) : (d.set64 lo hi v i j).alive = d.alive := rfl

/-! ### emit -/

@[simp] theorem Die.emit_regs (d : Die) (o : Out) : (d.emit o).regs = d.regs := rfl

@[simp] theorem Die.emit_latch (d : Die) (o : Out) : (d.emit o).latch = d.latch := rfl

@[simp] theorem Die.emit_fresh (d : Die) (o : Out) : (d.emit o).fresh = d.fresh := rfl

@[simp] theorem Die.emit_err (d : Die) (o : Out) : (d.emit o).err = d.err := rfl

@[simp] theorem Die.emit_msix (d : Die) (o : Out) : (d.emit o).msix = d.msix := rfl

@[simp] theorem Die.emit_tick (d : Die) (o : Out) : (d.emit o).tick = d.tick := rfl

@[simp] theorem Die.emit_cave (d : Die) (o : Out) : (d.emit o).cave = d.cave := rfl

@[simp] theorem Die.emit_wake (d : Die) (o : Out) : (d.emit o).wake = d.wake := rfl

@[simp] theorem Die.emit_ports (d : Die) (o : Out) : (d.emit o).ports = d.ports := rfl

@[simp] theorem Die.emit_casc (d : Die) (o : Out) : (d.emit o).casc = d.casc := rfl

@[simp] theorem Die.emit_disc (d : Die) (o : Out) : (d.emit o).disc = d.disc := rfl

@[simp] theorem Die.emit_sw (d : Die) (o : Out) : (d.emit o).sw = d.sw := rfl

@[simp] theorem Die.emit_harp (d : Die) (o : Out) : (d.emit o).harp = d.harp := rfl

@[simp] theorem Die.emit_dlv (d : Die) (o : Out) : (d.emit o).dlv = d.dlv := rfl

@[simp] theorem Die.emit_ten (d : Die) (o : Out) : (d.emit o).ten = d.ten := rfl

@[simp] theorem Die.emit_hoops (d : Die) (o : Out) : (d.emit o).hoops = d.hoops := rfl

@[simp] theorem Die.emit_withholding (d : Die) (o : Out) : (d.emit o).withholding = d.withholding := rfl

@[simp] theorem Die.emit_vats (d : Die) (o : Out) : (d.emit o).vats = d.vats := rfl

@[simp] theorem Die.emit_plans (d : Die) (o : Out) : (d.emit o).plans = d.plans := rfl

@[simp] theorem Die.emit_coll (d : Die) (o : Out) : (d.emit o).coll = d.coll := rfl

@[simp] theorem Die.emit_det (d : Die) (o : Out) : (d.emit o).det = d.det := rfl

@[simp] theorem Die.emit_own (d : Die) (o : Out) : (d.emit o).own = d.own := rfl

@[simp] theorem Die.emit_sec (d : Die) (o : Out) : (d.emit o).sec = d.sec := rfl

@[simp] theorem Die.emit_host (d : Die) (o : Out) : (d.emit o).host = d.host := rfl

@[simp] theorem Die.emit_telem (d : Die) (o : Out) : (d.emit o).telem = d.telem := rfl

@[simp] theorem Die.emit_smb (d : Die) (o : Out) : (d.emit o).smb = d.smb := rfl

@[simp] theorem Die.emit_boot (d : Die) (o : Out) : (d.emit o).boot = d.boot := rfl

@[simp] theorem Die.emit_pwr (d : Die) (o : Out) : (d.emit o).pwr = d.pwr := rfl

@[simp] theorem Die.emit_returned (d : Die) (o : Out) : (d.emit o).returned = d.returned := rfl

@[simp] theorem Die.emit_alive (d : Die) (o : Out) : (d.emit o).alive = d.alive := rfl

@[simp] theorem Die.emit_dword (d : Die) (o : Out) (x : Nat) : (d.emit o).dword x = d.dword x := rfl

@[simp] theorem Die.emit_get (d : Die) (o : Out) (f0 : Fld) (i0 j0 k0 : Nat) : (d.emit o).get f0 i0 j0 k0 = d.get f0 i0 j0 k0 := rfl

/-! ### used -/

@[simp] theorem Die.used_regs (d : Die) (n : Nat) : (d.used n).regs = d.regs := rfl

@[simp] theorem Die.used_latch (d : Die) (n : Nat) : (d.used n).latch = d.latch := rfl

@[simp] theorem Die.used_out (d : Die) (n : Nat) : (d.used n).out = d.out := rfl

@[simp] theorem Die.used_err (d : Die) (n : Nat) : (d.used n).err = d.err := rfl

@[simp] theorem Die.used_msix (d : Die) (n : Nat) : (d.used n).msix = d.msix := rfl

@[simp] theorem Die.used_tick (d : Die) (n : Nat) : (d.used n).tick = d.tick := rfl

@[simp] theorem Die.used_cave (d : Die) (n : Nat) : (d.used n).cave = d.cave := rfl

@[simp] theorem Die.used_wake (d : Die) (n : Nat) : (d.used n).wake = d.wake := rfl

@[simp] theorem Die.used_ports (d : Die) (n : Nat) : (d.used n).ports = d.ports := rfl

@[simp] theorem Die.used_casc (d : Die) (n : Nat) : (d.used n).casc = d.casc := rfl

@[simp] theorem Die.used_disc (d : Die) (n : Nat) : (d.used n).disc = d.disc := rfl

@[simp] theorem Die.used_sw (d : Die) (n : Nat) : (d.used n).sw = d.sw := rfl

@[simp] theorem Die.used_harp (d : Die) (n : Nat) : (d.used n).harp = d.harp := rfl

@[simp] theorem Die.used_dlv (d : Die) (n : Nat) : (d.used n).dlv = d.dlv := rfl

@[simp] theorem Die.used_ten (d : Die) (n : Nat) : (d.used n).ten = d.ten := rfl

@[simp] theorem Die.used_hoops (d : Die) (n : Nat) : (d.used n).hoops = d.hoops := rfl

@[simp] theorem Die.used_withholding (d : Die) (n : Nat) : (d.used n).withholding = d.withholding := rfl

@[simp] theorem Die.used_vats (d : Die) (n : Nat) : (d.used n).vats = d.vats := rfl

@[simp] theorem Die.used_plans (d : Die) (n : Nat) : (d.used n).plans = d.plans := rfl

@[simp] theorem Die.used_coll (d : Die) (n : Nat) : (d.used n).coll = d.coll := rfl

@[simp] theorem Die.used_det (d : Die) (n : Nat) : (d.used n).det = d.det := rfl

@[simp] theorem Die.used_own (d : Die) (n : Nat) : (d.used n).own = d.own := rfl

@[simp] theorem Die.used_sec (d : Die) (n : Nat) : (d.used n).sec = d.sec := rfl

@[simp] theorem Die.used_host (d : Die) (n : Nat) : (d.used n).host = d.host := rfl

@[simp] theorem Die.used_telem (d : Die) (n : Nat) : (d.used n).telem = d.telem := rfl

@[simp] theorem Die.used_smb (d : Die) (n : Nat) : (d.used n).smb = d.smb := rfl

@[simp] theorem Die.used_boot (d : Die) (n : Nat) : (d.used n).boot = d.boot := rfl

@[simp] theorem Die.used_pwr (d : Die) (n : Nat) : (d.used n).pwr = d.pwr := rfl

@[simp] theorem Die.used_returned (d : Die) (n : Nat) : (d.used n).returned = d.returned := rfl

@[simp] theorem Die.used_alive (d : Die) (n : Nat) : (d.used n).alive = d.alive := rfl

@[simp] theorem Die.used_dword (d : Die) (n : Nat) (x : Nat) : (d.used n).dword x = d.dword x := rfl

@[simp] theorem Die.used_get (d : Die) (n : Nat) (f0 : Fld) (i0 j0 k0 : Nat) : (d.used n).get f0 i0 j0 k0 = d.get f0 i0 j0 k0 := rfl

/-! ### tcount -/

@[simp] theorem Die.tcount_regs (d : Die) (k n : Nat) : (d.tcount k n).regs = d.regs := rfl

@[simp] theorem Die.tcount_latch (d : Die) (k n : Nat) : (d.tcount k n).latch = d.latch := rfl

@[simp] theorem Die.tcount_fresh (d : Die) (k n : Nat) : (d.tcount k n).fresh = d.fresh := rfl

@[simp] theorem Die.tcount_out (d : Die) (k n : Nat) : (d.tcount k n).out = d.out := rfl

@[simp] theorem Die.tcount_err (d : Die) (k n : Nat) : (d.tcount k n).err = d.err := rfl

@[simp] theorem Die.tcount_msix (d : Die) (k n : Nat) : (d.tcount k n).msix = d.msix := rfl

@[simp] theorem Die.tcount_tick (d : Die) (k n : Nat) : (d.tcount k n).tick = d.tick := rfl

@[simp] theorem Die.tcount_cave (d : Die) (k n : Nat) : (d.tcount k n).cave = d.cave := rfl

@[simp] theorem Die.tcount_wake (d : Die) (k n : Nat) : (d.tcount k n).wake = d.wake := rfl

@[simp] theorem Die.tcount_ports (d : Die) (k n : Nat) : (d.tcount k n).ports = d.ports := rfl

@[simp] theorem Die.tcount_casc (d : Die) (k n : Nat) : (d.tcount k n).casc = d.casc := rfl

@[simp] theorem Die.tcount_disc (d : Die) (k n : Nat) : (d.tcount k n).disc = d.disc := rfl

@[simp] theorem Die.tcount_sw (d : Die) (k n : Nat) : (d.tcount k n).sw = d.sw := rfl

@[simp] theorem Die.tcount_harp (d : Die) (k n : Nat) : (d.tcount k n).harp = d.harp := rfl

@[simp] theorem Die.tcount_dlv (d : Die) (k n : Nat) : (d.tcount k n).dlv = d.dlv := rfl

@[simp] theorem Die.tcount_ten (d : Die) (k n : Nat) : (d.tcount k n).ten = d.ten := rfl

@[simp] theorem Die.tcount_hoops (d : Die) (k n : Nat) : (d.tcount k n).hoops = d.hoops := rfl

@[simp] theorem Die.tcount_withholding (d : Die) (k n : Nat) : (d.tcount k n).withholding = d.withholding := rfl

@[simp] theorem Die.tcount_vats (d : Die) (k n : Nat) : (d.tcount k n).vats = d.vats := rfl

@[simp] theorem Die.tcount_plans (d : Die) (k n : Nat) : (d.tcount k n).plans = d.plans := rfl

@[simp] theorem Die.tcount_coll (d : Die) (k n : Nat) : (d.tcount k n).coll = d.coll := rfl

@[simp] theorem Die.tcount_det (d : Die) (k n : Nat) : (d.tcount k n).det = d.det := rfl

@[simp] theorem Die.tcount_own (d : Die) (k n : Nat) : (d.tcount k n).own = d.own := rfl

@[simp] theorem Die.tcount_sec (d : Die) (k n : Nat) : (d.tcount k n).sec = d.sec := rfl

@[simp] theorem Die.tcount_host (d : Die) (k n : Nat) : (d.tcount k n).host = d.host := rfl

@[simp] theorem Die.tcount_smb (d : Die) (k n : Nat) : (d.tcount k n).smb = d.smb := rfl

@[simp] theorem Die.tcount_boot (d : Die) (k n : Nat) : (d.tcount k n).boot = d.boot := rfl

@[simp] theorem Die.tcount_pwr (d : Die) (k n : Nat) : (d.tcount k n).pwr = d.pwr := rfl

@[simp] theorem Die.tcount_returned (d : Die) (k n : Nat) : (d.tcount k n).returned = d.returned := rfl

@[simp] theorem Die.tcount_alive (d : Die) (k n : Nat) : (d.tcount k n).alive = d.alive := rfl

@[simp] theorem Die.tcount_dword (d : Die) (k n : Nat) (x : Nat) : (d.tcount k n).dword x = d.dword x := rfl

@[simp] theorem Die.tcount_get (d : Die) (k n : Nat) (f0 : Fld) (i0 j0 k0 : Nat) : (d.tcount k n).get f0 i0 j0 k0 = d.get f0 i0 j0 k0 := rfl

/-! ### charge -/

@[simp] theorem Die.charge_regs (d : Die) (who e n : Nat) : (d.charge who e n).regs = d.regs := rfl

@[simp] theorem Die.charge_latch (d : Die) (who e n : Nat) : (d.charge who e n).latch = d.latch := rfl

@[simp] theorem Die.charge_fresh (d : Die) (who e n : Nat) : (d.charge who e n).fresh = d.fresh := rfl

@[simp] theorem Die.charge_out (d : Die) (who e n : Nat) : (d.charge who e n).out = d.out := rfl

@[simp] theorem Die.charge_err (d : Die) (who e n : Nat) : (d.charge who e n).err = d.err := rfl

@[simp] theorem Die.charge_msix (d : Die) (who e n : Nat) : (d.charge who e n).msix = d.msix := rfl

@[simp] theorem Die.charge_tick (d : Die) (who e n : Nat) : (d.charge who e n).tick = d.tick := rfl

@[simp] theorem Die.charge_cave (d : Die) (who e n : Nat) : (d.charge who e n).cave = d.cave := rfl

@[simp] theorem Die.charge_wake (d : Die) (who e n : Nat) : (d.charge who e n).wake = d.wake := rfl

@[simp] theorem Die.charge_ports (d : Die) (who e n : Nat) : (d.charge who e n).ports = d.ports := rfl

@[simp] theorem Die.charge_casc (d : Die) (who e n : Nat) : (d.charge who e n).casc = d.casc := rfl

@[simp] theorem Die.charge_disc (d : Die) (who e n : Nat) : (d.charge who e n).disc = d.disc := rfl

@[simp] theorem Die.charge_sw (d : Die) (who e n : Nat) : (d.charge who e n).sw = d.sw := rfl

@[simp] theorem Die.charge_harp (d : Die) (who e n : Nat) : (d.charge who e n).harp = d.harp := rfl

@[simp] theorem Die.charge_dlv (d : Die) (who e n : Nat) : (d.charge who e n).dlv = d.dlv := rfl

@[simp] theorem Die.charge_ten (d : Die) (who e n : Nat) : (d.charge who e n).ten = d.ten := rfl

@[simp] theorem Die.charge_hoops (d : Die) (who e n : Nat) : (d.charge who e n).hoops = d.hoops := rfl

@[simp] theorem Die.charge_withholding (d : Die) (who e n : Nat) : (d.charge who e n).withholding = d.withholding := rfl

@[simp] theorem Die.charge_vats (d : Die) (who e n : Nat) : (d.charge who e n).vats = d.vats := rfl

@[simp] theorem Die.charge_plans (d : Die) (who e n : Nat) : (d.charge who e n).plans = d.plans := rfl

@[simp] theorem Die.charge_coll (d : Die) (who e n : Nat) : (d.charge who e n).coll = d.coll := rfl

@[simp] theorem Die.charge_det (d : Die) (who e n : Nat) : (d.charge who e n).det = d.det := rfl

@[simp] theorem Die.charge_own (d : Die) (who e n : Nat) : (d.charge who e n).own = d.own := rfl

@[simp] theorem Die.charge_sec (d : Die) (who e n : Nat) : (d.charge who e n).sec = d.sec := rfl

@[simp] theorem Die.charge_host (d : Die) (who e n : Nat) : (d.charge who e n).host = d.host := rfl

@[simp] theorem Die.charge_smb (d : Die) (who e n : Nat) : (d.charge who e n).smb = d.smb := rfl

@[simp] theorem Die.charge_boot (d : Die) (who e n : Nat) : (d.charge who e n).boot = d.boot := rfl

@[simp] theorem Die.charge_pwr (d : Die) (who e n : Nat) : (d.charge who e n).pwr = d.pwr := rfl

@[simp] theorem Die.charge_returned (d : Die) (who e n : Nat) : (d.charge who e n).returned = d.returned := rfl

@[simp] theorem Die.charge_alive (d : Die) (who e n : Nat) : (d.charge who e n).alive = d.alive := rfl

@[simp] theorem Die.charge_dword (d : Die) (who e n : Nat) (x : Nat) : (d.charge who e n).dword x = d.dword x := rfl

@[simp] theorem Die.charge_get (d : Die) (who e n : Nat) (f0 : Fld) (i0 j0 k0 : Nat) : (d.charge who e n).get f0 i0 j0 k0 = d.get f0 i0 j0 k0 := rfl

/-! ### modPort -/

@[simp] theorem Die.modPort_regs (d : Die) (p : Nat) (f : PortSt → PortSt) : (d.modPort p f).regs = d.regs := rfl

@[simp] theorem Die.modPort_latch (d : Die) (p : Nat) (f : PortSt → PortSt) : (d.modPort p f).latch = d.latch := rfl

@[simp] theorem Die.modPort_fresh (d : Die) (p : Nat) (f : PortSt → PortSt) : (d.modPort p f).fresh = d.fresh := rfl

@[simp] theorem Die.modPort_out (d : Die) (p : Nat) (f : PortSt → PortSt) : (d.modPort p f).out = d.out := rfl

@[simp] theorem Die.modPort_err (d : Die) (p : Nat) (f : PortSt → PortSt) : (d.modPort p f).err = d.err := rfl

@[simp] theorem Die.modPort_msix (d : Die) (p : Nat) (f : PortSt → PortSt) : (d.modPort p f).msix = d.msix := rfl

@[simp] theorem Die.modPort_tick (d : Die) (p : Nat) (f : PortSt → PortSt) : (d.modPort p f).tick = d.tick := rfl

@[simp] theorem Die.modPort_cave (d : Die) (p : Nat) (f : PortSt → PortSt) : (d.modPort p f).cave = d.cave := rfl

@[simp] theorem Die.modPort_wake (d : Die) (p : Nat) (f : PortSt → PortSt) : (d.modPort p f).wake = d.wake := rfl

@[simp] theorem Die.modPort_casc (d : Die) (p : Nat) (f : PortSt → PortSt) : (d.modPort p f).casc = d.casc := rfl

@[simp] theorem Die.modPort_disc (d : Die) (p : Nat) (f : PortSt → PortSt) : (d.modPort p f).disc = d.disc := rfl

@[simp] theorem Die.modPort_sw (d : Die) (p : Nat) (f : PortSt → PortSt) : (d.modPort p f).sw = d.sw := rfl

@[simp] theorem Die.modPort_harp (d : Die) (p : Nat) (f : PortSt → PortSt) : (d.modPort p f).harp = d.harp := rfl

@[simp] theorem Die.modPort_dlv (d : Die) (p : Nat) (f : PortSt → PortSt) : (d.modPort p f).dlv = d.dlv := rfl

@[simp] theorem Die.modPort_ten (d : Die) (p : Nat) (f : PortSt → PortSt) : (d.modPort p f).ten = d.ten := rfl

@[simp] theorem Die.modPort_hoops (d : Die) (p : Nat) (f : PortSt → PortSt) : (d.modPort p f).hoops = d.hoops := rfl

@[simp] theorem Die.modPort_withholding (d : Die) (p : Nat) (f : PortSt → PortSt) : (d.modPort p f).withholding = d.withholding := rfl

@[simp] theorem Die.modPort_vats (d : Die) (p : Nat) (f : PortSt → PortSt) : (d.modPort p f).vats = d.vats := rfl

@[simp] theorem Die.modPort_plans (d : Die) (p : Nat) (f : PortSt → PortSt) : (d.modPort p f).plans = d.plans := rfl

@[simp] theorem Die.modPort_coll (d : Die) (p : Nat) (f : PortSt → PortSt) : (d.modPort p f).coll = d.coll := rfl

@[simp] theorem Die.modPort_det (d : Die) (p : Nat) (f : PortSt → PortSt) : (d.modPort p f).det = d.det := rfl

@[simp] theorem Die.modPort_own (d : Die) (p : Nat) (f : PortSt → PortSt) : (d.modPort p f).own = d.own := rfl

@[simp] theorem Die.modPort_sec (d : Die) (p : Nat) (f : PortSt → PortSt) : (d.modPort p f).sec = d.sec := rfl

@[simp] theorem Die.modPort_host (d : Die) (p : Nat) (f : PortSt → PortSt) : (d.modPort p f).host = d.host := rfl

@[simp] theorem Die.modPort_telem (d : Die) (p : Nat) (f : PortSt → PortSt) : (d.modPort p f).telem = d.telem := rfl

@[simp] theorem Die.modPort_smb (d : Die) (p : Nat) (f : PortSt → PortSt) : (d.modPort p f).smb = d.smb := rfl

@[simp] theorem Die.modPort_boot (d : Die) (p : Nat) (f : PortSt → PortSt) : (d.modPort p f).boot = d.boot := rfl

@[simp] theorem Die.modPort_pwr (d : Die) (p : Nat) (f : PortSt → PortSt) : (d.modPort p f).pwr = d.pwr := rfl

@[simp] theorem Die.modPort_returned (d : Die) (p : Nat) (f : PortSt → PortSt) : (d.modPort p f).returned = d.returned := rfl

@[simp] theorem Die.modPort_alive (d : Die) (p : Nat) (f : PortSt → PortSt) : (d.modPort p f).alive = d.alive := rfl

@[simp] theorem Die.modPort_dword (d : Die) (p : Nat) (f : PortSt → PortSt) (x : Nat) : (d.modPort p f).dword x = d.dword x := rfl

@[simp] theorem Die.modPort_get (d : Die) (p : Nat) (f : PortSt → PortSt) (f0 : Fld) (i0 j0 k0 : Nat) : (d.modPort p f).get f0 i0 j0 k0 = d.get f0 i0 j0 k0 := rfl

/-! ### modLane -/

@[simp] theorem Die.modLane_regs (d : Die) (p l : Nat) (f : LaneSt → LaneSt) : (d.modLane p l f).regs = d.regs := rfl

@[simp] theorem Die.modLane_latch (d : Die) (p l : Nat) (f : LaneSt → LaneSt) : (d.modLane p l f).latch = d.latch := rfl

@[simp] theorem Die.modLane_fresh (d : Die) (p l : Nat) (f : LaneSt → LaneSt) : (d.modLane p l f).fresh = d.fresh := rfl

@[simp] theorem Die.modLane_out (d : Die) (p l : Nat) (f : LaneSt → LaneSt) : (d.modLane p l f).out = d.out := rfl

@[simp] theorem Die.modLane_err (d : Die) (p l : Nat) (f : LaneSt → LaneSt) : (d.modLane p l f).err = d.err := rfl

@[simp] theorem Die.modLane_msix (d : Die) (p l : Nat) (f : LaneSt → LaneSt) : (d.modLane p l f).msix = d.msix := rfl

@[simp] theorem Die.modLane_tick (d : Die) (p l : Nat) (f : LaneSt → LaneSt) : (d.modLane p l f).tick = d.tick := rfl

@[simp] theorem Die.modLane_cave (d : Die) (p l : Nat) (f : LaneSt → LaneSt) : (d.modLane p l f).cave = d.cave := rfl

@[simp] theorem Die.modLane_wake (d : Die) (p l : Nat) (f : LaneSt → LaneSt) : (d.modLane p l f).wake = d.wake := rfl

@[simp] theorem Die.modLane_casc (d : Die) (p l : Nat) (f : LaneSt → LaneSt) : (d.modLane p l f).casc = d.casc := rfl

@[simp] theorem Die.modLane_disc (d : Die) (p l : Nat) (f : LaneSt → LaneSt) : (d.modLane p l f).disc = d.disc := rfl

@[simp] theorem Die.modLane_sw (d : Die) (p l : Nat) (f : LaneSt → LaneSt) : (d.modLane p l f).sw = d.sw := rfl

@[simp] theorem Die.modLane_harp (d : Die) (p l : Nat) (f : LaneSt → LaneSt) : (d.modLane p l f).harp = d.harp := rfl

@[simp] theorem Die.modLane_dlv (d : Die) (p l : Nat) (f : LaneSt → LaneSt) : (d.modLane p l f).dlv = d.dlv := rfl

@[simp] theorem Die.modLane_ten (d : Die) (p l : Nat) (f : LaneSt → LaneSt) : (d.modLane p l f).ten = d.ten := rfl

@[simp] theorem Die.modLane_hoops (d : Die) (p l : Nat) (f : LaneSt → LaneSt) : (d.modLane p l f).hoops = d.hoops := rfl

@[simp] theorem Die.modLane_withholding (d : Die) (p l : Nat) (f : LaneSt → LaneSt) : (d.modLane p l f).withholding = d.withholding := rfl

@[simp] theorem Die.modLane_vats (d : Die) (p l : Nat) (f : LaneSt → LaneSt) : (d.modLane p l f).vats = d.vats := rfl

@[simp] theorem Die.modLane_plans (d : Die) (p l : Nat) (f : LaneSt → LaneSt) : (d.modLane p l f).plans = d.plans := rfl

@[simp] theorem Die.modLane_coll (d : Die) (p l : Nat) (f : LaneSt → LaneSt) : (d.modLane p l f).coll = d.coll := rfl

@[simp] theorem Die.modLane_det (d : Die) (p l : Nat) (f : LaneSt → LaneSt) : (d.modLane p l f).det = d.det := rfl

@[simp] theorem Die.modLane_own (d : Die) (p l : Nat) (f : LaneSt → LaneSt) : (d.modLane p l f).own = d.own := rfl

@[simp] theorem Die.modLane_sec (d : Die) (p l : Nat) (f : LaneSt → LaneSt) : (d.modLane p l f).sec = d.sec := rfl

@[simp] theorem Die.modLane_host (d : Die) (p l : Nat) (f : LaneSt → LaneSt) : (d.modLane p l f).host = d.host := rfl

@[simp] theorem Die.modLane_telem (d : Die) (p l : Nat) (f : LaneSt → LaneSt) : (d.modLane p l f).telem = d.telem := rfl

@[simp] theorem Die.modLane_smb (d : Die) (p l : Nat) (f : LaneSt → LaneSt) : (d.modLane p l f).smb = d.smb := rfl

@[simp] theorem Die.modLane_boot (d : Die) (p l : Nat) (f : LaneSt → LaneSt) : (d.modLane p l f).boot = d.boot := rfl

@[simp] theorem Die.modLane_pwr (d : Die) (p l : Nat) (f : LaneSt → LaneSt) : (d.modLane p l f).pwr = d.pwr := rfl

@[simp] theorem Die.modLane_returned (d : Die) (p l : Nat) (f : LaneSt → LaneSt) : (d.modLane p l f).returned = d.returned := rfl

@[simp] theorem Die.modLane_alive (d : Die) (p l : Nat) (f : LaneSt → LaneSt) : (d.modLane p l f).alive = d.alive := rfl

@[simp] theorem Die.modLane_dword (d : Die) (p l : Nat) (f : LaneSt → LaneSt) (x : Nat) : (d.modLane p l f).dword x = d.dword x := rfl

@[simp] theorem Die.modLane_get (d : Die) (p l : Nat) (f : LaneSt → LaneSt) (f0 : Fld) (i0 j0 k0 : Nat) : (d.modLane p l f).get f0 i0 j0 k0 = d.get f0 i0 j0 k0 := rfl

/-! ### modVc -/

@[simp] theorem Die.modVc_regs (d : Die) (p v : Nat) (f : VcSt → VcSt) : (d.modVc p v f).regs = d.regs := rfl

@[simp] theorem Die.modVc_latch (d : Die) (p v : Nat) (f : VcSt → VcSt) : (d.modVc p v f).latch = d.latch := rfl

@[simp] theorem Die.modVc_fresh (d : Die) (p v : Nat) (f : VcSt → VcSt) : (d.modVc p v f).fresh = d.fresh := rfl

@[simp] theorem Die.modVc_out (d : Die) (p v : Nat) (f : VcSt → VcSt) : (d.modVc p v f).out = d.out := rfl

@[simp] theorem Die.modVc_err (d : Die) (p v : Nat) (f : VcSt → VcSt) : (d.modVc p v f).err = d.err := rfl

@[simp] theorem Die.modVc_msix (d : Die) (p v : Nat) (f : VcSt → VcSt) : (d.modVc p v f).msix = d.msix := rfl

@[simp] theorem Die.modVc_tick (d : Die) (p v : Nat) (f : VcSt → VcSt) : (d.modVc p v f).tick = d.tick := rfl

@[simp] theorem Die.modVc_cave (d : Die) (p v : Nat) (f : VcSt → VcSt) : (d.modVc p v f).cave = d.cave := rfl

@[simp] theorem Die.modVc_wake (d : Die) (p v : Nat) (f : VcSt → VcSt) : (d.modVc p v f).wake = d.wake := rfl

@[simp] theorem Die.modVc_casc (d : Die) (p v : Nat) (f : VcSt → VcSt) : (d.modVc p v f).casc = d.casc := rfl

@[simp] theorem Die.modVc_disc (d : Die) (p v : Nat) (f : VcSt → VcSt) : (d.modVc p v f).disc = d.disc := rfl

@[simp] theorem Die.modVc_sw (d : Die) (p v : Nat) (f : VcSt → VcSt) : (d.modVc p v f).sw = d.sw := rfl

@[simp] theorem Die.modVc_harp (d : Die) (p v : Nat) (f : VcSt → VcSt) : (d.modVc p v f).harp = d.harp := rfl

@[simp] theorem Die.modVc_dlv (d : Die) (p v : Nat) (f : VcSt → VcSt) : (d.modVc p v f).dlv = d.dlv := rfl

@[simp] theorem Die.modVc_ten (d : Die) (p v : Nat) (f : VcSt → VcSt) : (d.modVc p v f).ten = d.ten := rfl

@[simp] theorem Die.modVc_hoops (d : Die) (p v : Nat) (f : VcSt → VcSt) : (d.modVc p v f).hoops = d.hoops := rfl

@[simp] theorem Die.modVc_withholding (d : Die) (p v : Nat) (f : VcSt → VcSt) : (d.modVc p v f).withholding = d.withholding := rfl

@[simp] theorem Die.modVc_vats (d : Die) (p v : Nat) (f : VcSt → VcSt) : (d.modVc p v f).vats = d.vats := rfl

@[simp] theorem Die.modVc_plans (d : Die) (p v : Nat) (f : VcSt → VcSt) : (d.modVc p v f).plans = d.plans := rfl

@[simp] theorem Die.modVc_coll (d : Die) (p v : Nat) (f : VcSt → VcSt) : (d.modVc p v f).coll = d.coll := rfl

@[simp] theorem Die.modVc_det (d : Die) (p v : Nat) (f : VcSt → VcSt) : (d.modVc p v f).det = d.det := rfl

@[simp] theorem Die.modVc_own (d : Die) (p v : Nat) (f : VcSt → VcSt) : (d.modVc p v f).own = d.own := rfl

@[simp] theorem Die.modVc_sec (d : Die) (p v : Nat) (f : VcSt → VcSt) : (d.modVc p v f).sec = d.sec := rfl

@[simp] theorem Die.modVc_host (d : Die) (p v : Nat) (f : VcSt → VcSt) : (d.modVc p v f).host = d.host := rfl

@[simp] theorem Die.modVc_telem (d : Die) (p v : Nat) (f : VcSt → VcSt) : (d.modVc p v f).telem = d.telem := rfl

@[simp] theorem Die.modVc_smb (d : Die) (p v : Nat) (f : VcSt → VcSt) : (d.modVc p v f).smb = d.smb := rfl

@[simp] theorem Die.modVc_boot (d : Die) (p v : Nat) (f : VcSt → VcSt) : (d.modVc p v f).boot = d.boot := rfl

@[simp] theorem Die.modVc_pwr (d : Die) (p v : Nat) (f : VcSt → VcSt) : (d.modVc p v f).pwr = d.pwr := rfl

@[simp] theorem Die.modVc_returned (d : Die) (p v : Nat) (f : VcSt → VcSt) : (d.modVc p v f).returned = d.returned := rfl

@[simp] theorem Die.modVc_alive (d : Die) (p v : Nat) (f : VcSt → VcSt) : (d.modVc p v f).alive = d.alive := rfl

@[simp] theorem Die.modVc_dword (d : Die) (p v : Nat) (f : VcSt → VcSt) (x : Nat) : (d.modVc p v f).dword x = d.dword x := rfl

@[simp] theorem Die.modVc_get (d : Die) (p v : Nat) (f : VcSt → VcSt) (f0 : Fld) (i0 j0 k0 : Nat) : (d.modVc p v f).get f0 i0 j0 k0 = d.get f0 i0 j0 k0 := rfl

/-! ### queueMsg -/

@[simp] theorem Die.queueMsg_regs (d : Die) (p : Nat) (m : Msg) : (d.queueMsg p m).regs = d.regs := rfl

@[simp] theorem Die.queueMsg_latch (d : Die) (p : Nat) (m : Msg) : (d.queueMsg p m).latch = d.latch := rfl

@[simp] theorem Die.queueMsg_fresh (d : Die) (p : Nat) (m : Msg) : (d.queueMsg p m).fresh = d.fresh := rfl

@[simp] theorem Die.queueMsg_out (d : Die) (p : Nat) (m : Msg) : (d.queueMsg p m).out = d.out := rfl

@[simp] theorem Die.queueMsg_err (d : Die) (p : Nat) (m : Msg) : (d.queueMsg p m).err = d.err := rfl

@[simp] theorem Die.queueMsg_msix (d : Die) (p : Nat) (m : Msg) : (d.queueMsg p m).msix = d.msix := rfl

@[simp] theorem Die.queueMsg_tick (d : Die) (p : Nat) (m : Msg) : (d.queueMsg p m).tick = d.tick := rfl

@[simp] theorem Die.queueMsg_cave (d : Die) (p : Nat) (m : Msg) : (d.queueMsg p m).cave = d.cave := rfl

@[simp] theorem Die.queueMsg_wake (d : Die) (p : Nat) (m : Msg) : (d.queueMsg p m).wake = d.wake := rfl

@[simp] theorem Die.queueMsg_casc (d : Die) (p : Nat) (m : Msg) : (d.queueMsg p m).casc = d.casc := rfl

@[simp] theorem Die.queueMsg_disc (d : Die) (p : Nat) (m : Msg) : (d.queueMsg p m).disc = d.disc := rfl

@[simp] theorem Die.queueMsg_sw (d : Die) (p : Nat) (m : Msg) : (d.queueMsg p m).sw = d.sw := rfl

@[simp] theorem Die.queueMsg_harp (d : Die) (p : Nat) (m : Msg) : (d.queueMsg p m).harp = d.harp := rfl

@[simp] theorem Die.queueMsg_dlv (d : Die) (p : Nat) (m : Msg) : (d.queueMsg p m).dlv = d.dlv := rfl

@[simp] theorem Die.queueMsg_ten (d : Die) (p : Nat) (m : Msg) : (d.queueMsg p m).ten = d.ten := rfl

@[simp] theorem Die.queueMsg_hoops (d : Die) (p : Nat) (m : Msg) : (d.queueMsg p m).hoops = d.hoops := rfl

@[simp] theorem Die.queueMsg_withholding (d : Die) (p : Nat) (m : Msg) : (d.queueMsg p m).withholding = d.withholding := rfl

@[simp] theorem Die.queueMsg_vats (d : Die) (p : Nat) (m : Msg) : (d.queueMsg p m).vats = d.vats := rfl

@[simp] theorem Die.queueMsg_plans (d : Die) (p : Nat) (m : Msg) : (d.queueMsg p m).plans = d.plans := rfl

@[simp] theorem Die.queueMsg_coll (d : Die) (p : Nat) (m : Msg) : (d.queueMsg p m).coll = d.coll := rfl

@[simp] theorem Die.queueMsg_det (d : Die) (p : Nat) (m : Msg) : (d.queueMsg p m).det = d.det := rfl

@[simp] theorem Die.queueMsg_own (d : Die) (p : Nat) (m : Msg) : (d.queueMsg p m).own = d.own := rfl

@[simp] theorem Die.queueMsg_sec (d : Die) (p : Nat) (m : Msg) : (d.queueMsg p m).sec = d.sec := rfl

@[simp] theorem Die.queueMsg_host (d : Die) (p : Nat) (m : Msg) : (d.queueMsg p m).host = d.host := rfl

@[simp] theorem Die.queueMsg_telem (d : Die) (p : Nat) (m : Msg) : (d.queueMsg p m).telem = d.telem := rfl

@[simp] theorem Die.queueMsg_smb (d : Die) (p : Nat) (m : Msg) : (d.queueMsg p m).smb = d.smb := rfl

@[simp] theorem Die.queueMsg_boot (d : Die) (p : Nat) (m : Msg) : (d.queueMsg p m).boot = d.boot := rfl

@[simp] theorem Die.queueMsg_pwr (d : Die) (p : Nat) (m : Msg) : (d.queueMsg p m).pwr = d.pwr := rfl

@[simp] theorem Die.queueMsg_returned (d : Die) (p : Nat) (m : Msg) : (d.queueMsg p m).returned = d.returned := rfl

@[simp] theorem Die.queueMsg_alive (d : Die) (p : Nat) (m : Msg) : (d.queueMsg p m).alive = d.alive := rfl

@[simp] theorem Die.queueMsg_dword (d : Die) (p : Nat) (m : Msg) (x : Nat) : (d.queueMsg p m).dword x = d.dword x := rfl

@[simp] theorem Die.queueMsg_get (d : Die) (p : Nat) (m : Msg) (f0 : Fld) (i0 j0 k0 : Nat) : (d.queueMsg p m).get f0 i0 j0 k0 = d.get f0 i0 j0 k0 := rfl

/-! ### setPageErr -/

@[simp] theorem Die.setPageErr_regs (d : Die) (i : Nat) (p : PageErr) : (d.setPageErr i p).regs = d.regs := rfl

@[simp] theorem Die.setPageErr_latch (d : Die) (i : Nat) (p : PageErr) : (d.setPageErr i p).latch = d.latch := rfl

@[simp] theorem Die.setPageErr_fresh (d : Die) (i : Nat) (p : PageErr) : (d.setPageErr i p).fresh = d.fresh := rfl

@[simp] theorem Die.setPageErr_out (d : Die) (i : Nat) (p : PageErr) : (d.setPageErr i p).out = d.out := rfl

@[simp] theorem Die.setPageErr_msix (d : Die) (i : Nat) (p : PageErr) : (d.setPageErr i p).msix = d.msix := rfl

@[simp] theorem Die.setPageErr_tick (d : Die) (i : Nat) (p : PageErr) : (d.setPageErr i p).tick = d.tick := rfl

@[simp] theorem Die.setPageErr_cave (d : Die) (i : Nat) (p : PageErr) : (d.setPageErr i p).cave = d.cave := rfl

@[simp] theorem Die.setPageErr_wake (d : Die) (i : Nat) (p : PageErr) : (d.setPageErr i p).wake = d.wake := rfl

@[simp] theorem Die.setPageErr_ports (d : Die) (i : Nat) (p : PageErr) : (d.setPageErr i p).ports = d.ports := rfl

@[simp] theorem Die.setPageErr_casc (d : Die) (i : Nat) (p : PageErr) : (d.setPageErr i p).casc = d.casc := rfl

@[simp] theorem Die.setPageErr_disc (d : Die) (i : Nat) (p : PageErr) : (d.setPageErr i p).disc = d.disc := rfl

@[simp] theorem Die.setPageErr_sw (d : Die) (i : Nat) (p : PageErr) : (d.setPageErr i p).sw = d.sw := rfl

@[simp] theorem Die.setPageErr_harp (d : Die) (i : Nat) (p : PageErr) : (d.setPageErr i p).harp = d.harp := rfl

@[simp] theorem Die.setPageErr_dlv (d : Die) (i : Nat) (p : PageErr) : (d.setPageErr i p).dlv = d.dlv := rfl

@[simp] theorem Die.setPageErr_ten (d : Die) (i : Nat) (p : PageErr) : (d.setPageErr i p).ten = d.ten := rfl

@[simp] theorem Die.setPageErr_hoops (d : Die) (i : Nat) (p : PageErr) : (d.setPageErr i p).hoops = d.hoops := rfl

@[simp] theorem Die.setPageErr_withholding (d : Die) (i : Nat) (p : PageErr) : (d.setPageErr i p).withholding = d.withholding := rfl

@[simp] theorem Die.setPageErr_vats (d : Die) (i : Nat) (p : PageErr) : (d.setPageErr i p).vats = d.vats := rfl

@[simp] theorem Die.setPageErr_plans (d : Die) (i : Nat) (p : PageErr) : (d.setPageErr i p).plans = d.plans := rfl

@[simp] theorem Die.setPageErr_coll (d : Die) (i : Nat) (p : PageErr) : (d.setPageErr i p).coll = d.coll := rfl

@[simp] theorem Die.setPageErr_det (d : Die) (i : Nat) (p : PageErr) : (d.setPageErr i p).det = d.det := rfl

@[simp] theorem Die.setPageErr_own (d : Die) (i : Nat) (p : PageErr) : (d.setPageErr i p).own = d.own := rfl

@[simp] theorem Die.setPageErr_sec (d : Die) (i : Nat) (p : PageErr) : (d.setPageErr i p).sec = d.sec := rfl

@[simp] theorem Die.setPageErr_host (d : Die) (i : Nat) (p : PageErr) : (d.setPageErr i p).host = d.host := rfl

@[simp] theorem Die.setPageErr_telem (d : Die) (i : Nat) (p : PageErr) : (d.setPageErr i p).telem = d.telem := rfl

@[simp] theorem Die.setPageErr_smb (d : Die) (i : Nat) (p : PageErr) : (d.setPageErr i p).smb = d.smb := rfl

@[simp] theorem Die.setPageErr_boot (d : Die) (i : Nat) (p : PageErr) : (d.setPageErr i p).boot = d.boot := rfl

@[simp] theorem Die.setPageErr_pwr (d : Die) (i : Nat) (p : PageErr) : (d.setPageErr i p).pwr = d.pwr := rfl

@[simp] theorem Die.setPageErr_returned (d : Die) (i : Nat) (p : PageErr) : (d.setPageErr i p).returned = d.returned := rfl

@[simp] theorem Die.setPageErr_alive (d : Die) (i : Nat) (p : PageErr) : (d.setPageErr i p).alive = d.alive := rfl

@[simp] theorem Die.setPageErr_dword (d : Die) (i : Nat) (p : PageErr) (x : Nat) : (d.setPageErr i p).dword x = d.dword x := rfl

@[simp] theorem Die.setPageErr_get (d : Die) (i : Nat) (p : PageErr) (f0 : Fld) (i0 j0 k0 : Nat) : (d.setPageErr i p).get f0 i0 j0 k0 = d.get f0 i0 j0 k0 := rfl

/-! ### setLatch -/

@[simp] theorem Die.setLatch_regs (d : Die) (a : Nat) (c : Cls) (w : Word) : (d.setLatch a c w).regs = d.regs := rfl

@[simp] theorem Die.setLatch_fresh (d : Die) (a : Nat) (c : Cls) (w : Word) : (d.setLatch a c w).fresh = d.fresh := rfl

@[simp] theorem Die.setLatch_out (d : Die) (a : Nat) (c : Cls) (w : Word) : (d.setLatch a c w).out = d.out := rfl

@[simp] theorem Die.setLatch_err (d : Die) (a : Nat) (c : Cls) (w : Word) : (d.setLatch a c w).err = d.err := rfl

@[simp] theorem Die.setLatch_msix (d : Die) (a : Nat) (c : Cls) (w : Word) : (d.setLatch a c w).msix = d.msix := rfl

@[simp] theorem Die.setLatch_tick (d : Die) (a : Nat) (c : Cls) (w : Word) : (d.setLatch a c w).tick = d.tick := rfl

@[simp] theorem Die.setLatch_cave (d : Die) (a : Nat) (c : Cls) (w : Word) : (d.setLatch a c w).cave = d.cave := rfl

@[simp] theorem Die.setLatch_wake (d : Die) (a : Nat) (c : Cls) (w : Word) : (d.setLatch a c w).wake = d.wake := rfl

@[simp] theorem Die.setLatch_ports (d : Die) (a : Nat) (c : Cls) (w : Word) : (d.setLatch a c w).ports = d.ports := rfl

@[simp] theorem Die.setLatch_casc (d : Die) (a : Nat) (c : Cls) (w : Word) : (d.setLatch a c w).casc = d.casc := rfl

@[simp] theorem Die.setLatch_disc (d : Die) (a : Nat) (c : Cls) (w : Word) : (d.setLatch a c w).disc = d.disc := rfl

@[simp] theorem Die.setLatch_sw (d : Die) (a : Nat) (c : Cls) (w : Word) : (d.setLatch a c w).sw = d.sw := rfl

@[simp] theorem Die.setLatch_harp (d : Die) (a : Nat) (c : Cls) (w : Word) : (d.setLatch a c w).harp = d.harp := rfl

@[simp] theorem Die.setLatch_dlv (d : Die) (a : Nat) (c : Cls) (w : Word) : (d.setLatch a c w).dlv = d.dlv := rfl

@[simp] theorem Die.setLatch_ten (d : Die) (a : Nat) (c : Cls) (w : Word) : (d.setLatch a c w).ten = d.ten := rfl

@[simp] theorem Die.setLatch_hoops (d : Die) (a : Nat) (c : Cls) (w : Word) : (d.setLatch a c w).hoops = d.hoops := rfl

@[simp] theorem Die.setLatch_withholding (d : Die) (a : Nat) (c : Cls) (w : Word) : (d.setLatch a c w).withholding = d.withholding := rfl

@[simp] theorem Die.setLatch_vats (d : Die) (a : Nat) (c : Cls) (w : Word) : (d.setLatch a c w).vats = d.vats := rfl

@[simp] theorem Die.setLatch_plans (d : Die) (a : Nat) (c : Cls) (w : Word) : (d.setLatch a c w).plans = d.plans := rfl

@[simp] theorem Die.setLatch_coll (d : Die) (a : Nat) (c : Cls) (w : Word) : (d.setLatch a c w).coll = d.coll := rfl

@[simp] theorem Die.setLatch_det (d : Die) (a : Nat) (c : Cls) (w : Word) : (d.setLatch a c w).det = d.det := rfl

@[simp] theorem Die.setLatch_own (d : Die) (a : Nat) (c : Cls) (w : Word) : (d.setLatch a c w).own = d.own := rfl

@[simp] theorem Die.setLatch_sec (d : Die) (a : Nat) (c : Cls) (w : Word) : (d.setLatch a c w).sec = d.sec := rfl

@[simp] theorem Die.setLatch_host (d : Die) (a : Nat) (c : Cls) (w : Word) : (d.setLatch a c w).host = d.host := rfl

@[simp] theorem Die.setLatch_telem (d : Die) (a : Nat) (c : Cls) (w : Word) : (d.setLatch a c w).telem = d.telem := rfl

@[simp] theorem Die.setLatch_smb (d : Die) (a : Nat) (c : Cls) (w : Word) : (d.setLatch a c w).smb = d.smb := rfl

@[simp] theorem Die.setLatch_boot (d : Die) (a : Nat) (c : Cls) (w : Word) : (d.setLatch a c w).boot = d.boot := rfl

@[simp] theorem Die.setLatch_pwr (d : Die) (a : Nat) (c : Cls) (w : Word) : (d.setLatch a c w).pwr = d.pwr := rfl

@[simp] theorem Die.setLatch_returned (d : Die) (a : Nat) (c : Cls) (w : Word) : (d.setLatch a c w).returned = d.returned := rfl

@[simp] theorem Die.setLatch_alive (d : Die) (a : Nat) (c : Cls) (w : Word) : (d.setLatch a c w).alive = d.alive := rfl

@[simp] theorem Die.setLatch_dword (d : Die) (a : Nat) (c : Cls) (w : Word) (x : Nat) : (d.setLatch a c w).dword x = d.dword x := rfl

@[simp] theorem Die.setLatch_get (d : Die) (a : Nat) (c : Cls) (w : Word) (f0 : Fld) (i0 j0 k0 : Nat) : (d.setLatch a c w).get f0 i0 j0 k0 = d.get f0 i0 j0 k0 := rfl

/-! ### modVat -/

@[simp] theorem Die.modVat_regs (d : Die) (v : Nat) (f : VatSt → VatSt) : (d.modVat v f).regs = d.regs := rfl

@[simp] theorem Die.modVat_latch (d : Die) (v : Nat) (f : VatSt → VatSt) : (d.modVat v f).latch = d.latch := rfl

@[simp] theorem Die.modVat_fresh (d : Die) (v : Nat) (f : VatSt → VatSt) : (d.modVat v f).fresh = d.fresh := rfl

@[simp] theorem Die.modVat_out (d : Die) (v : Nat) (f : VatSt → VatSt) : (d.modVat v f).out = d.out := rfl

@[simp] theorem Die.modVat_err (d : Die) (v : Nat) (f : VatSt → VatSt) : (d.modVat v f).err = d.err := rfl

@[simp] theorem Die.modVat_msix (d : Die) (v : Nat) (f : VatSt → VatSt) : (d.modVat v f).msix = d.msix := rfl

@[simp] theorem Die.modVat_tick (d : Die) (v : Nat) (f : VatSt → VatSt) : (d.modVat v f).tick = d.tick := rfl

@[simp] theorem Die.modVat_cave (d : Die) (v : Nat) (f : VatSt → VatSt) : (d.modVat v f).cave = d.cave := rfl

@[simp] theorem Die.modVat_wake (d : Die) (v : Nat) (f : VatSt → VatSt) : (d.modVat v f).wake = d.wake := rfl

@[simp] theorem Die.modVat_ports (d : Die) (v : Nat) (f : VatSt → VatSt) : (d.modVat v f).ports = d.ports := rfl

@[simp] theorem Die.modVat_casc (d : Die) (v : Nat) (f : VatSt → VatSt) : (d.modVat v f).casc = d.casc := rfl

@[simp] theorem Die.modVat_disc (d : Die) (v : Nat) (f : VatSt → VatSt) : (d.modVat v f).disc = d.disc := rfl

@[simp] theorem Die.modVat_sw (d : Die) (v : Nat) (f : VatSt → VatSt) : (d.modVat v f).sw = d.sw := rfl

@[simp] theorem Die.modVat_harp (d : Die) (v : Nat) (f : VatSt → VatSt) : (d.modVat v f).harp = d.harp := rfl

@[simp] theorem Die.modVat_dlv (d : Die) (v : Nat) (f : VatSt → VatSt) : (d.modVat v f).dlv = d.dlv := rfl

@[simp] theorem Die.modVat_ten (d : Die) (v : Nat) (f : VatSt → VatSt) : (d.modVat v f).ten = d.ten := rfl

@[simp] theorem Die.modVat_hoops (d : Die) (v : Nat) (f : VatSt → VatSt) : (d.modVat v f).hoops = d.hoops := rfl

@[simp] theorem Die.modVat_withholding (d : Die) (v : Nat) (f : VatSt → VatSt) : (d.modVat v f).withholding = d.withholding := rfl

@[simp] theorem Die.modVat_plans (d : Die) (v : Nat) (f : VatSt → VatSt) : (d.modVat v f).plans = d.plans := rfl

@[simp] theorem Die.modVat_coll (d : Die) (v : Nat) (f : VatSt → VatSt) : (d.modVat v f).coll = d.coll := rfl

@[simp] theorem Die.modVat_det (d : Die) (v : Nat) (f : VatSt → VatSt) : (d.modVat v f).det = d.det := rfl

@[simp] theorem Die.modVat_own (d : Die) (v : Nat) (f : VatSt → VatSt) : (d.modVat v f).own = d.own := rfl

@[simp] theorem Die.modVat_sec (d : Die) (v : Nat) (f : VatSt → VatSt) : (d.modVat v f).sec = d.sec := rfl

@[simp] theorem Die.modVat_host (d : Die) (v : Nat) (f : VatSt → VatSt) : (d.modVat v f).host = d.host := rfl

@[simp] theorem Die.modVat_telem (d : Die) (v : Nat) (f : VatSt → VatSt) : (d.modVat v f).telem = d.telem := rfl

@[simp] theorem Die.modVat_smb (d : Die) (v : Nat) (f : VatSt → VatSt) : (d.modVat v f).smb = d.smb := rfl

@[simp] theorem Die.modVat_boot (d : Die) (v : Nat) (f : VatSt → VatSt) : (d.modVat v f).boot = d.boot := rfl

@[simp] theorem Die.modVat_pwr (d : Die) (v : Nat) (f : VatSt → VatSt) : (d.modVat v f).pwr = d.pwr := rfl

@[simp] theorem Die.modVat_returned (d : Die) (v : Nat) (f : VatSt → VatSt) : (d.modVat v f).returned = d.returned := rfl

@[simp] theorem Die.modVat_alive (d : Die) (v : Nat) (f : VatSt → VatSt) : (d.modVat v f).alive = d.alive := rfl

@[simp] theorem Die.modVat_dword (d : Die) (v : Nat) (f : VatSt → VatSt) (x : Nat) : (d.modVat v f).dword x = d.dword x := rfl

@[simp] theorem Die.modVat_get (d : Die) (v : Nat) (f : VatSt → VatSt) (f0 : Fld) (i0 j0 k0 : Nat) : (d.modVat v f).get f0 i0 j0 k0 = d.get f0 i0 j0 k0 := rfl

/-! ### modGroup -/

@[simp] theorem Die.modGroup_regs (d : Die) (g : Nat) (f : GroupSt → GroupSt) : (d.modGroup g f).regs = d.regs := rfl

@[simp] theorem Die.modGroup_latch (d : Die) (g : Nat) (f : GroupSt → GroupSt) : (d.modGroup g f).latch = d.latch := rfl

@[simp] theorem Die.modGroup_fresh (d : Die) (g : Nat) (f : GroupSt → GroupSt) : (d.modGroup g f).fresh = d.fresh := rfl

@[simp] theorem Die.modGroup_out (d : Die) (g : Nat) (f : GroupSt → GroupSt) : (d.modGroup g f).out = d.out := rfl

@[simp] theorem Die.modGroup_err (d : Die) (g : Nat) (f : GroupSt → GroupSt) : (d.modGroup g f).err = d.err := rfl

@[simp] theorem Die.modGroup_msix (d : Die) (g : Nat) (f : GroupSt → GroupSt) : (d.modGroup g f).msix = d.msix := rfl

@[simp] theorem Die.modGroup_tick (d : Die) (g : Nat) (f : GroupSt → GroupSt) : (d.modGroup g f).tick = d.tick := rfl

@[simp] theorem Die.modGroup_cave (d : Die) (g : Nat) (f : GroupSt → GroupSt) : (d.modGroup g f).cave = d.cave := rfl

@[simp] theorem Die.modGroup_wake (d : Die) (g : Nat) (f : GroupSt → GroupSt) : (d.modGroup g f).wake = d.wake := rfl

@[simp] theorem Die.modGroup_ports (d : Die) (g : Nat) (f : GroupSt → GroupSt) : (d.modGroup g f).ports = d.ports := rfl

@[simp] theorem Die.modGroup_casc (d : Die) (g : Nat) (f : GroupSt → GroupSt) : (d.modGroup g f).casc = d.casc := rfl

@[simp] theorem Die.modGroup_disc (d : Die) (g : Nat) (f : GroupSt → GroupSt) : (d.modGroup g f).disc = d.disc := rfl

@[simp] theorem Die.modGroup_sw (d : Die) (g : Nat) (f : GroupSt → GroupSt) : (d.modGroup g f).sw = d.sw := rfl

@[simp] theorem Die.modGroup_harp (d : Die) (g : Nat) (f : GroupSt → GroupSt) : (d.modGroup g f).harp = d.harp := rfl

@[simp] theorem Die.modGroup_dlv (d : Die) (g : Nat) (f : GroupSt → GroupSt) : (d.modGroup g f).dlv = d.dlv := rfl

@[simp] theorem Die.modGroup_ten (d : Die) (g : Nat) (f : GroupSt → GroupSt) : (d.modGroup g f).ten = d.ten := rfl

@[simp] theorem Die.modGroup_hoops (d : Die) (g : Nat) (f : GroupSt → GroupSt) : (d.modGroup g f).hoops = d.hoops := rfl

@[simp] theorem Die.modGroup_withholding (d : Die) (g : Nat) (f : GroupSt → GroupSt) : (d.modGroup g f).withholding = d.withholding := rfl

@[simp] theorem Die.modGroup_vats (d : Die) (g : Nat) (f : GroupSt → GroupSt) : (d.modGroup g f).vats = d.vats := rfl

@[simp] theorem Die.modGroup_plans (d : Die) (g : Nat) (f : GroupSt → GroupSt) : (d.modGroup g f).plans = d.plans := rfl

@[simp] theorem Die.modGroup_det (d : Die) (g : Nat) (f : GroupSt → GroupSt) : (d.modGroup g f).det = d.det := rfl

@[simp] theorem Die.modGroup_own (d : Die) (g : Nat) (f : GroupSt → GroupSt) : (d.modGroup g f).own = d.own := rfl

@[simp] theorem Die.modGroup_sec (d : Die) (g : Nat) (f : GroupSt → GroupSt) : (d.modGroup g f).sec = d.sec := rfl

@[simp] theorem Die.modGroup_host (d : Die) (g : Nat) (f : GroupSt → GroupSt) : (d.modGroup g f).host = d.host := rfl

@[simp] theorem Die.modGroup_telem (d : Die) (g : Nat) (f : GroupSt → GroupSt) : (d.modGroup g f).telem = d.telem := rfl

@[simp] theorem Die.modGroup_smb (d : Die) (g : Nat) (f : GroupSt → GroupSt) : (d.modGroup g f).smb = d.smb := rfl

@[simp] theorem Die.modGroup_boot (d : Die) (g : Nat) (f : GroupSt → GroupSt) : (d.modGroup g f).boot = d.boot := rfl

@[simp] theorem Die.modGroup_pwr (d : Die) (g : Nat) (f : GroupSt → GroupSt) : (d.modGroup g f).pwr = d.pwr := rfl

@[simp] theorem Die.modGroup_returned (d : Die) (g : Nat) (f : GroupSt → GroupSt) : (d.modGroup g f).returned = d.returned := rfl

@[simp] theorem Die.modGroup_alive (d : Die) (g : Nat) (f : GroupSt → GroupSt) : (d.modGroup g f).alive = d.alive := rfl

@[simp] theorem Die.modGroup_dword (d : Die) (g : Nat) (f : GroupSt → GroupSt) (x : Nat) : (d.modGroup g f).dword x = d.dword x := rfl

@[simp] theorem Die.modGroup_get (d : Die) (g : Nat) (f : GroupSt → GroupSt) (f0 : Fld) (i0 j0 k0 : Nat) : (d.modGroup g f).get f0 i0 j0 k0 = d.get f0 i0 j0 k0 := rfl

/-! ### modPlan -/

@[simp] theorem Die.modPlan_regs (d : Die) (s : Nat) (f : PlanSlot → PlanSlot) : (d.modPlan s f).regs = d.regs := rfl

@[simp] theorem Die.modPlan_latch (d : Die) (s : Nat) (f : PlanSlot → PlanSlot) : (d.modPlan s f).latch = d.latch := rfl

@[simp] theorem Die.modPlan_fresh (d : Die) (s : Nat) (f : PlanSlot → PlanSlot) : (d.modPlan s f).fresh = d.fresh := rfl

@[simp] theorem Die.modPlan_out (d : Die) (s : Nat) (f : PlanSlot → PlanSlot) : (d.modPlan s f).out = d.out := rfl

@[simp] theorem Die.modPlan_err (d : Die) (s : Nat) (f : PlanSlot → PlanSlot) : (d.modPlan s f).err = d.err := rfl

@[simp] theorem Die.modPlan_msix (d : Die) (s : Nat) (f : PlanSlot → PlanSlot) : (d.modPlan s f).msix = d.msix := rfl

@[simp] theorem Die.modPlan_tick (d : Die) (s : Nat) (f : PlanSlot → PlanSlot) : (d.modPlan s f).tick = d.tick := rfl

@[simp] theorem Die.modPlan_cave (d : Die) (s : Nat) (f : PlanSlot → PlanSlot) : (d.modPlan s f).cave = d.cave := rfl

@[simp] theorem Die.modPlan_wake (d : Die) (s : Nat) (f : PlanSlot → PlanSlot) : (d.modPlan s f).wake = d.wake := rfl

@[simp] theorem Die.modPlan_ports (d : Die) (s : Nat) (f : PlanSlot → PlanSlot) : (d.modPlan s f).ports = d.ports := rfl

@[simp] theorem Die.modPlan_casc (d : Die) (s : Nat) (f : PlanSlot → PlanSlot) : (d.modPlan s f).casc = d.casc := rfl

@[simp] theorem Die.modPlan_disc (d : Die) (s : Nat) (f : PlanSlot → PlanSlot) : (d.modPlan s f).disc = d.disc := rfl

@[simp] theorem Die.modPlan_sw (d : Die) (s : Nat) (f : PlanSlot → PlanSlot) : (d.modPlan s f).sw = d.sw := rfl

@[simp] theorem Die.modPlan_harp (d : Die) (s : Nat) (f : PlanSlot → PlanSlot) : (d.modPlan s f).harp = d.harp := rfl

@[simp] theorem Die.modPlan_dlv (d : Die) (s : Nat) (f : PlanSlot → PlanSlot) : (d.modPlan s f).dlv = d.dlv := rfl

@[simp] theorem Die.modPlan_ten (d : Die) (s : Nat) (f : PlanSlot → PlanSlot) : (d.modPlan s f).ten = d.ten := rfl

@[simp] theorem Die.modPlan_hoops (d : Die) (s : Nat) (f : PlanSlot → PlanSlot) : (d.modPlan s f).hoops = d.hoops := rfl

@[simp] theorem Die.modPlan_withholding (d : Die) (s : Nat) (f : PlanSlot → PlanSlot) : (d.modPlan s f).withholding = d.withholding := rfl

@[simp] theorem Die.modPlan_vats (d : Die) (s : Nat) (f : PlanSlot → PlanSlot) : (d.modPlan s f).vats = d.vats := rfl

@[simp] theorem Die.modPlan_coll (d : Die) (s : Nat) (f : PlanSlot → PlanSlot) : (d.modPlan s f).coll = d.coll := rfl

@[simp] theorem Die.modPlan_det (d : Die) (s : Nat) (f : PlanSlot → PlanSlot) : (d.modPlan s f).det = d.det := rfl

@[simp] theorem Die.modPlan_own (d : Die) (s : Nat) (f : PlanSlot → PlanSlot) : (d.modPlan s f).own = d.own := rfl

@[simp] theorem Die.modPlan_sec (d : Die) (s : Nat) (f : PlanSlot → PlanSlot) : (d.modPlan s f).sec = d.sec := rfl

@[simp] theorem Die.modPlan_host (d : Die) (s : Nat) (f : PlanSlot → PlanSlot) : (d.modPlan s f).host = d.host := rfl

@[simp] theorem Die.modPlan_telem (d : Die) (s : Nat) (f : PlanSlot → PlanSlot) : (d.modPlan s f).telem = d.telem := rfl

@[simp] theorem Die.modPlan_smb (d : Die) (s : Nat) (f : PlanSlot → PlanSlot) : (d.modPlan s f).smb = d.smb := rfl

@[simp] theorem Die.modPlan_boot (d : Die) (s : Nat) (f : PlanSlot → PlanSlot) : (d.modPlan s f).boot = d.boot := rfl

@[simp] theorem Die.modPlan_pwr (d : Die) (s : Nat) (f : PlanSlot → PlanSlot) : (d.modPlan s f).pwr = d.pwr := rfl

@[simp] theorem Die.modPlan_returned (d : Die) (s : Nat) (f : PlanSlot → PlanSlot) : (d.modPlan s f).returned = d.returned := rfl

@[simp] theorem Die.modPlan_alive (d : Die) (s : Nat) (f : PlanSlot → PlanSlot) : (d.modPlan s f).alive = d.alive := rfl

@[simp] theorem Die.modPlan_dword (d : Die) (s : Nat) (f : PlanSlot → PlanSlot) (x : Nat) : (d.modPlan s f).dword x = d.dword x := rfl

@[simp] theorem Die.modPlan_get (d : Die) (s : Nat) (f : PlanSlot → PlanSlot) (f0 : Fld) (i0 j0 k0 : Nat) : (d.modPlan s f).get f0 i0 j0 k0 = d.get f0 i0 j0 k0 := rfl

/-! ### modCell -/

@[simp] theorem Die.modCell_regs (d : Die) (n i : Nat) (f : HoopCell → HoopCell) : (d.modCell n i f).regs = d.regs := rfl

@[simp] theorem Die.modCell_latch (d : Die) (n i : Nat) (f : HoopCell → HoopCell) : (d.modCell n i f).latch = d.latch := rfl

@[simp] theorem Die.modCell_fresh (d : Die) (n i : Nat) (f : HoopCell → HoopCell) : (d.modCell n i f).fresh = d.fresh := rfl

@[simp] theorem Die.modCell_out (d : Die) (n i : Nat) (f : HoopCell → HoopCell) : (d.modCell n i f).out = d.out := rfl

@[simp] theorem Die.modCell_err (d : Die) (n i : Nat) (f : HoopCell → HoopCell) : (d.modCell n i f).err = d.err := rfl

@[simp] theorem Die.modCell_msix (d : Die) (n i : Nat) (f : HoopCell → HoopCell) : (d.modCell n i f).msix = d.msix := rfl

@[simp] theorem Die.modCell_tick (d : Die) (n i : Nat) (f : HoopCell → HoopCell) : (d.modCell n i f).tick = d.tick := rfl

@[simp] theorem Die.modCell_cave (d : Die) (n i : Nat) (f : HoopCell → HoopCell) : (d.modCell n i f).cave = d.cave := rfl

@[simp] theorem Die.modCell_wake (d : Die) (n i : Nat) (f : HoopCell → HoopCell) : (d.modCell n i f).wake = d.wake := rfl

@[simp] theorem Die.modCell_ports (d : Die) (n i : Nat) (f : HoopCell → HoopCell) : (d.modCell n i f).ports = d.ports := rfl

@[simp] theorem Die.modCell_casc (d : Die) (n i : Nat) (f : HoopCell → HoopCell) : (d.modCell n i f).casc = d.casc := rfl

@[simp] theorem Die.modCell_disc (d : Die) (n i : Nat) (f : HoopCell → HoopCell) : (d.modCell n i f).disc = d.disc := rfl

@[simp] theorem Die.modCell_sw (d : Die) (n i : Nat) (f : HoopCell → HoopCell) : (d.modCell n i f).sw = d.sw := rfl

@[simp] theorem Die.modCell_harp (d : Die) (n i : Nat) (f : HoopCell → HoopCell) : (d.modCell n i f).harp = d.harp := rfl

@[simp] theorem Die.modCell_dlv (d : Die) (n i : Nat) (f : HoopCell → HoopCell) : (d.modCell n i f).dlv = d.dlv := rfl

@[simp] theorem Die.modCell_ten (d : Die) (n i : Nat) (f : HoopCell → HoopCell) : (d.modCell n i f).ten = d.ten := rfl

@[simp] theorem Die.modCell_withholding (d : Die) (n i : Nat) (f : HoopCell → HoopCell) : (d.modCell n i f).withholding = d.withholding := rfl

@[simp] theorem Die.modCell_vats (d : Die) (n i : Nat) (f : HoopCell → HoopCell) : (d.modCell n i f).vats = d.vats := rfl

@[simp] theorem Die.modCell_plans (d : Die) (n i : Nat) (f : HoopCell → HoopCell) : (d.modCell n i f).plans = d.plans := rfl

@[simp] theorem Die.modCell_coll (d : Die) (n i : Nat) (f : HoopCell → HoopCell) : (d.modCell n i f).coll = d.coll := rfl

@[simp] theorem Die.modCell_det (d : Die) (n i : Nat) (f : HoopCell → HoopCell) : (d.modCell n i f).det = d.det := rfl

@[simp] theorem Die.modCell_own (d : Die) (n i : Nat) (f : HoopCell → HoopCell) : (d.modCell n i f).own = d.own := rfl

@[simp] theorem Die.modCell_sec (d : Die) (n i : Nat) (f : HoopCell → HoopCell) : (d.modCell n i f).sec = d.sec := rfl

@[simp] theorem Die.modCell_host (d : Die) (n i : Nat) (f : HoopCell → HoopCell) : (d.modCell n i f).host = d.host := rfl

@[simp] theorem Die.modCell_telem (d : Die) (n i : Nat) (f : HoopCell → HoopCell) : (d.modCell n i f).telem = d.telem := rfl

@[simp] theorem Die.modCell_smb (d : Die) (n i : Nat) (f : HoopCell → HoopCell) : (d.modCell n i f).smb = d.smb := rfl

@[simp] theorem Die.modCell_boot (d : Die) (n i : Nat) (f : HoopCell → HoopCell) : (d.modCell n i f).boot = d.boot := rfl

@[simp] theorem Die.modCell_pwr (d : Die) (n i : Nat) (f : HoopCell → HoopCell) : (d.modCell n i f).pwr = d.pwr := rfl

@[simp] theorem Die.modCell_returned (d : Die) (n i : Nat) (f : HoopCell → HoopCell) : (d.modCell n i f).returned = d.returned := rfl

@[simp] theorem Die.modCell_alive (d : Die) (n i : Nat) (f : HoopCell → HoopCell) : (d.modCell n i f).alive = d.alive := rfl

@[simp] theorem Die.modCell_dword (d : Die) (n i : Nat) (f : HoopCell → HoopCell) (x : Nat) : (d.modCell n i f).dword x = d.dword x := rfl

@[simp] theorem Die.modCell_get (d : Die) (n i : Nat) (f : HoopCell → HoopCell) (f0 : Fld) (i0 j0 k0 : Nat) : (d.modCell n i f).get f0 i0 j0 k0 = d.get f0 i0 j0 k0 := rfl

/-! ### setHstate -/

@[simp] theorem Die.setHstate_regs (d : Die) (n v : Nat) : (d.setHstate n v).regs = d.regs := rfl

@[simp] theorem Die.setHstate_latch (d : Die) (n v : Nat) : (d.setHstate n v).latch = d.latch := rfl

@[simp] theorem Die.setHstate_fresh (d : Die) (n v : Nat) : (d.setHstate n v).fresh = d.fresh := rfl

@[simp] theorem Die.setHstate_out (d : Die) (n v : Nat) : (d.setHstate n v).out = d.out := rfl

@[simp] theorem Die.setHstate_err (d : Die) (n v : Nat) : (d.setHstate n v).err = d.err := rfl

@[simp] theorem Die.setHstate_msix (d : Die) (n v : Nat) : (d.setHstate n v).msix = d.msix := rfl

@[simp] theorem Die.setHstate_tick (d : Die) (n v : Nat) : (d.setHstate n v).tick = d.tick := rfl

@[simp] theorem Die.setHstate_cave (d : Die) (n v : Nat) : (d.setHstate n v).cave = d.cave := rfl

@[simp] theorem Die.setHstate_wake (d : Die) (n v : Nat) : (d.setHstate n v).wake = d.wake := rfl

@[simp] theorem Die.setHstate_ports (d : Die) (n v : Nat) : (d.setHstate n v).ports = d.ports := rfl

@[simp] theorem Die.setHstate_casc (d : Die) (n v : Nat) : (d.setHstate n v).casc = d.casc := rfl

@[simp] theorem Die.setHstate_disc (d : Die) (n v : Nat) : (d.setHstate n v).disc = d.disc := rfl

@[simp] theorem Die.setHstate_sw (d : Die) (n v : Nat) : (d.setHstate n v).sw = d.sw := rfl

@[simp] theorem Die.setHstate_harp (d : Die) (n v : Nat) : (d.setHstate n v).harp = d.harp := rfl

@[simp] theorem Die.setHstate_dlv (d : Die) (n v : Nat) : (d.setHstate n v).dlv = d.dlv := rfl

@[simp] theorem Die.setHstate_ten (d : Die) (n v : Nat) : (d.setHstate n v).ten = d.ten := rfl

@[simp] theorem Die.setHstate_withholding (d : Die) (n v : Nat) : (d.setHstate n v).withholding = d.withholding := rfl

@[simp] theorem Die.setHstate_vats (d : Die) (n v : Nat) : (d.setHstate n v).vats = d.vats := rfl

@[simp] theorem Die.setHstate_plans (d : Die) (n v : Nat) : (d.setHstate n v).plans = d.plans := rfl

@[simp] theorem Die.setHstate_coll (d : Die) (n v : Nat) : (d.setHstate n v).coll = d.coll := rfl

@[simp] theorem Die.setHstate_det (d : Die) (n v : Nat) : (d.setHstate n v).det = d.det := rfl

@[simp] theorem Die.setHstate_own (d : Die) (n v : Nat) : (d.setHstate n v).own = d.own := rfl

@[simp] theorem Die.setHstate_sec (d : Die) (n v : Nat) : (d.setHstate n v).sec = d.sec := rfl

@[simp] theorem Die.setHstate_host (d : Die) (n v : Nat) : (d.setHstate n v).host = d.host := rfl

@[simp] theorem Die.setHstate_telem (d : Die) (n v : Nat) : (d.setHstate n v).telem = d.telem := rfl

@[simp] theorem Die.setHstate_smb (d : Die) (n v : Nat) : (d.setHstate n v).smb = d.smb := rfl

@[simp] theorem Die.setHstate_boot (d : Die) (n v : Nat) : (d.setHstate n v).boot = d.boot := rfl

@[simp] theorem Die.setHstate_pwr (d : Die) (n v : Nat) : (d.setHstate n v).pwr = d.pwr := rfl

@[simp] theorem Die.setHstate_returned (d : Die) (n v : Nat) : (d.setHstate n v).returned = d.returned := rfl

@[simp] theorem Die.setHstate_alive (d : Die) (n v : Nat) : (d.setHstate n v).alive = d.alive := rfl

@[simp] theorem Die.setHstate_dword (d : Die) (n v : Nat) (x : Nat) : (d.setHstate n v).dword x = d.dword x := rfl

@[simp] theorem Die.setHstate_get (d : Die) (n v : Nat) (f0 : Fld) (i0 j0 k0 : Nat) : (d.setHstate n v).get f0 i0 j0 k0 = d.get f0 i0 j0 k0 := rfl

/-! ### cellWrite -/

@[simp] theorem Die.cellWrite_regs (d : Die) (n i o : Nat) (bs : List Byte) : (d.cellWrite n i o bs).regs = d.regs := rfl

@[simp] theorem Die.cellWrite_latch (d : Die) (n i o : Nat) (bs : List Byte) : (d.cellWrite n i o bs).latch = d.latch := rfl

@[simp] theorem Die.cellWrite_fresh (d : Die) (n i o : Nat) (bs : List Byte) : (d.cellWrite n i o bs).fresh = d.fresh := rfl

@[simp] theorem Die.cellWrite_out (d : Die) (n i o : Nat) (bs : List Byte) : (d.cellWrite n i o bs).out = d.out := rfl

@[simp] theorem Die.cellWrite_err (d : Die) (n i o : Nat) (bs : List Byte) : (d.cellWrite n i o bs).err = d.err := rfl

@[simp] theorem Die.cellWrite_msix (d : Die) (n i o : Nat) (bs : List Byte) : (d.cellWrite n i o bs).msix = d.msix := rfl

@[simp] theorem Die.cellWrite_tick (d : Die) (n i o : Nat) (bs : List Byte) : (d.cellWrite n i o bs).tick = d.tick := rfl

@[simp] theorem Die.cellWrite_cave (d : Die) (n i o : Nat) (bs : List Byte) : (d.cellWrite n i o bs).cave = d.cave := rfl

@[simp] theorem Die.cellWrite_wake (d : Die) (n i o : Nat) (bs : List Byte) : (d.cellWrite n i o bs).wake = d.wake := rfl

@[simp] theorem Die.cellWrite_ports (d : Die) (n i o : Nat) (bs : List Byte) : (d.cellWrite n i o bs).ports = d.ports := rfl

@[simp] theorem Die.cellWrite_casc (d : Die) (n i o : Nat) (bs : List Byte) : (d.cellWrite n i o bs).casc = d.casc := rfl

@[simp] theorem Die.cellWrite_disc (d : Die) (n i o : Nat) (bs : List Byte) : (d.cellWrite n i o bs).disc = d.disc := rfl

@[simp] theorem Die.cellWrite_sw (d : Die) (n i o : Nat) (bs : List Byte) : (d.cellWrite n i o bs).sw = d.sw := rfl

@[simp] theorem Die.cellWrite_harp (d : Die) (n i o : Nat) (bs : List Byte) : (d.cellWrite n i o bs).harp = d.harp := rfl

@[simp] theorem Die.cellWrite_dlv (d : Die) (n i o : Nat) (bs : List Byte) : (d.cellWrite n i o bs).dlv = d.dlv := rfl

@[simp] theorem Die.cellWrite_ten (d : Die) (n i o : Nat) (bs : List Byte) : (d.cellWrite n i o bs).ten = d.ten := rfl

@[simp] theorem Die.cellWrite_withholding (d : Die) (n i o : Nat) (bs : List Byte) : (d.cellWrite n i o bs).withholding = d.withholding := rfl

@[simp] theorem Die.cellWrite_vats (d : Die) (n i o : Nat) (bs : List Byte) : (d.cellWrite n i o bs).vats = d.vats := rfl

@[simp] theorem Die.cellWrite_plans (d : Die) (n i o : Nat) (bs : List Byte) : (d.cellWrite n i o bs).plans = d.plans := rfl

@[simp] theorem Die.cellWrite_coll (d : Die) (n i o : Nat) (bs : List Byte) : (d.cellWrite n i o bs).coll = d.coll := rfl

@[simp] theorem Die.cellWrite_det (d : Die) (n i o : Nat) (bs : List Byte) : (d.cellWrite n i o bs).det = d.det := rfl

@[simp] theorem Die.cellWrite_own (d : Die) (n i o : Nat) (bs : List Byte) : (d.cellWrite n i o bs).own = d.own := rfl

@[simp] theorem Die.cellWrite_sec (d : Die) (n i o : Nat) (bs : List Byte) : (d.cellWrite n i o bs).sec = d.sec := rfl

@[simp] theorem Die.cellWrite_host (d : Die) (n i o : Nat) (bs : List Byte) : (d.cellWrite n i o bs).host = d.host := rfl

@[simp] theorem Die.cellWrite_telem (d : Die) (n i o : Nat) (bs : List Byte) : (d.cellWrite n i o bs).telem = d.telem := rfl

@[simp] theorem Die.cellWrite_smb (d : Die) (n i o : Nat) (bs : List Byte) : (d.cellWrite n i o bs).smb = d.smb := rfl

@[simp] theorem Die.cellWrite_boot (d : Die) (n i o : Nat) (bs : List Byte) : (d.cellWrite n i o bs).boot = d.boot := rfl

@[simp] theorem Die.cellWrite_pwr (d : Die) (n i o : Nat) (bs : List Byte) : (d.cellWrite n i o bs).pwr = d.pwr := rfl

@[simp] theorem Die.cellWrite_returned (d : Die) (n i o : Nat) (bs : List Byte) : (d.cellWrite n i o bs).returned = d.returned := rfl

@[simp] theorem Die.cellWrite_alive (d : Die) (n i o : Nat) (bs : List Byte) : (d.cellWrite n i o bs).alive = d.alive := rfl

@[simp] theorem Die.cellWrite_dword (d : Die) (n i o : Nat) (bs : List Byte) (x : Nat) : (d.cellWrite n i o bs).dword x = d.dword x := rfl

@[simp] theorem Die.cellWrite_get (d : Die) (n i o : Nat) (bs : List Byte) (f0 : Fld) (i0 j0 k0 : Nat) : (d.cellWrite n i o bs).get f0 i0 j0 k0 = d.get f0 i0 j0 k0 := rfl

/-! ### setLed -/

@[simp] theorem Die.setLed_regs (d : Die) (k : Nat) (e : LedEnt) : (d.setLed k e).regs = d.regs := rfl

@[simp] theorem Die.setLed_latch (d : Die) (k : Nat) (e : LedEnt) : (d.setLed k e).latch = d.latch := rfl

@[simp] theorem Die.setLed_fresh (d : Die) (k : Nat) (e : LedEnt) : (d.setLed k e).fresh = d.fresh := rfl

@[simp] theorem Die.setLed_out (d : Die) (k : Nat) (e : LedEnt) : (d.setLed k e).out = d.out := rfl

@[simp] theorem Die.setLed_err (d : Die) (k : Nat) (e : LedEnt) : (d.setLed k e).err = d.err := rfl

@[simp] theorem Die.setLed_msix (d : Die) (k : Nat) (e : LedEnt) : (d.setLed k e).msix = d.msix := rfl

@[simp] theorem Die.setLed_tick (d : Die) (k : Nat) (e : LedEnt) : (d.setLed k e).tick = d.tick := rfl

@[simp] theorem Die.setLed_cave (d : Die) (k : Nat) (e : LedEnt) : (d.setLed k e).cave = d.cave := rfl

@[simp] theorem Die.setLed_wake (d : Die) (k : Nat) (e : LedEnt) : (d.setLed k e).wake = d.wake := rfl

@[simp] theorem Die.setLed_ports (d : Die) (k : Nat) (e : LedEnt) : (d.setLed k e).ports = d.ports := rfl

@[simp] theorem Die.setLed_casc (d : Die) (k : Nat) (e : LedEnt) : (d.setLed k e).casc = d.casc := rfl

@[simp] theorem Die.setLed_disc (d : Die) (k : Nat) (e : LedEnt) : (d.setLed k e).disc = d.disc := rfl

@[simp] theorem Die.setLed_sw (d : Die) (k : Nat) (e : LedEnt) : (d.setLed k e).sw = d.sw := rfl

@[simp] theorem Die.setLed_harp (d : Die) (k : Nat) (e : LedEnt) : (d.setLed k e).harp = d.harp := rfl

@[simp] theorem Die.setLed_ten (d : Die) (k : Nat) (e : LedEnt) : (d.setLed k e).ten = d.ten := rfl

@[simp] theorem Die.setLed_hoops (d : Die) (k : Nat) (e : LedEnt) : (d.setLed k e).hoops = d.hoops := rfl

@[simp] theorem Die.setLed_withholding (d : Die) (k : Nat) (e : LedEnt) : (d.setLed k e).withholding = d.withholding := rfl

@[simp] theorem Die.setLed_vats (d : Die) (k : Nat) (e : LedEnt) : (d.setLed k e).vats = d.vats := rfl

@[simp] theorem Die.setLed_plans (d : Die) (k : Nat) (e : LedEnt) : (d.setLed k e).plans = d.plans := rfl

@[simp] theorem Die.setLed_coll (d : Die) (k : Nat) (e : LedEnt) : (d.setLed k e).coll = d.coll := rfl

@[simp] theorem Die.setLed_det (d : Die) (k : Nat) (e : LedEnt) : (d.setLed k e).det = d.det := rfl

@[simp] theorem Die.setLed_own (d : Die) (k : Nat) (e : LedEnt) : (d.setLed k e).own = d.own := rfl

@[simp] theorem Die.setLed_sec (d : Die) (k : Nat) (e : LedEnt) : (d.setLed k e).sec = d.sec := rfl

@[simp] theorem Die.setLed_host (d : Die) (k : Nat) (e : LedEnt) : (d.setLed k e).host = d.host := rfl

@[simp] theorem Die.setLed_telem (d : Die) (k : Nat) (e : LedEnt) : (d.setLed k e).telem = d.telem := rfl

@[simp] theorem Die.setLed_smb (d : Die) (k : Nat) (e : LedEnt) : (d.setLed k e).smb = d.smb := rfl

@[simp] theorem Die.setLed_boot (d : Die) (k : Nat) (e : LedEnt) : (d.setLed k e).boot = d.boot := rfl

@[simp] theorem Die.setLed_pwr (d : Die) (k : Nat) (e : LedEnt) : (d.setLed k e).pwr = d.pwr := rfl

@[simp] theorem Die.setLed_returned (d : Die) (k : Nat) (e : LedEnt) : (d.setLed k e).returned = d.returned := rfl

@[simp] theorem Die.setLed_alive (d : Die) (k : Nat) (e : LedEnt) : (d.setLed k e).alive = d.alive := rfl

@[simp] theorem Die.setLed_dword (d : Die) (k : Nat) (e : LedEnt) (x : Nat) : (d.setLed k e).dword x = d.dword x := rfl

@[simp] theorem Die.setLed_get (d : Die) (k : Nat) (e : LedEnt) (f0 : Fld) (i0 j0 k0 : Nat) : (d.setLed k e).get f0 i0 j0 k0 = d.get f0 i0 j0 k0 := rfl

/-! ### modLed -/

@[simp] theorem Die.modLed_regs (d : Die) (k : Nat) (f : LedEnt → LedEnt) : (d.modLed k f).regs = d.regs := rfl

@[simp] theorem Die.modLed_latch (d : Die) (k : Nat) (f : LedEnt → LedEnt) : (d.modLed k f).latch = d.latch := rfl

@[simp] theorem Die.modLed_fresh (d : Die) (k : Nat) (f : LedEnt → LedEnt) : (d.modLed k f).fresh = d.fresh := rfl

@[simp] theorem Die.modLed_out (d : Die) (k : Nat) (f : LedEnt → LedEnt) : (d.modLed k f).out = d.out := rfl

@[simp] theorem Die.modLed_err (d : Die) (k : Nat) (f : LedEnt → LedEnt) : (d.modLed k f).err = d.err := rfl

@[simp] theorem Die.modLed_msix (d : Die) (k : Nat) (f : LedEnt → LedEnt) : (d.modLed k f).msix = d.msix := rfl

@[simp] theorem Die.modLed_tick (d : Die) (k : Nat) (f : LedEnt → LedEnt) : (d.modLed k f).tick = d.tick := rfl

@[simp] theorem Die.modLed_cave (d : Die) (k : Nat) (f : LedEnt → LedEnt) : (d.modLed k f).cave = d.cave := rfl

@[simp] theorem Die.modLed_wake (d : Die) (k : Nat) (f : LedEnt → LedEnt) : (d.modLed k f).wake = d.wake := rfl

@[simp] theorem Die.modLed_ports (d : Die) (k : Nat) (f : LedEnt → LedEnt) : (d.modLed k f).ports = d.ports := rfl

@[simp] theorem Die.modLed_casc (d : Die) (k : Nat) (f : LedEnt → LedEnt) : (d.modLed k f).casc = d.casc := rfl

@[simp] theorem Die.modLed_disc (d : Die) (k : Nat) (f : LedEnt → LedEnt) : (d.modLed k f).disc = d.disc := rfl

@[simp] theorem Die.modLed_sw (d : Die) (k : Nat) (f : LedEnt → LedEnt) : (d.modLed k f).sw = d.sw := rfl

@[simp] theorem Die.modLed_harp (d : Die) (k : Nat) (f : LedEnt → LedEnt) : (d.modLed k f).harp = d.harp := rfl

@[simp] theorem Die.modLed_ten (d : Die) (k : Nat) (f : LedEnt → LedEnt) : (d.modLed k f).ten = d.ten := rfl

@[simp] theorem Die.modLed_hoops (d : Die) (k : Nat) (f : LedEnt → LedEnt) : (d.modLed k f).hoops = d.hoops := rfl

@[simp] theorem Die.modLed_withholding (d : Die) (k : Nat) (f : LedEnt → LedEnt) : (d.modLed k f).withholding = d.withholding := rfl

@[simp] theorem Die.modLed_vats (d : Die) (k : Nat) (f : LedEnt → LedEnt) : (d.modLed k f).vats = d.vats := rfl

@[simp] theorem Die.modLed_plans (d : Die) (k : Nat) (f : LedEnt → LedEnt) : (d.modLed k f).plans = d.plans := rfl

@[simp] theorem Die.modLed_coll (d : Die) (k : Nat) (f : LedEnt → LedEnt) : (d.modLed k f).coll = d.coll := rfl

@[simp] theorem Die.modLed_det (d : Die) (k : Nat) (f : LedEnt → LedEnt) : (d.modLed k f).det = d.det := rfl

@[simp] theorem Die.modLed_own (d : Die) (k : Nat) (f : LedEnt → LedEnt) : (d.modLed k f).own = d.own := rfl

@[simp] theorem Die.modLed_sec (d : Die) (k : Nat) (f : LedEnt → LedEnt) : (d.modLed k f).sec = d.sec := rfl

@[simp] theorem Die.modLed_host (d : Die) (k : Nat) (f : LedEnt → LedEnt) : (d.modLed k f).host = d.host := rfl

@[simp] theorem Die.modLed_telem (d : Die) (k : Nat) (f : LedEnt → LedEnt) : (d.modLed k f).telem = d.telem := rfl

@[simp] theorem Die.modLed_smb (d : Die) (k : Nat) (f : LedEnt → LedEnt) : (d.modLed k f).smb = d.smb := rfl

@[simp] theorem Die.modLed_boot (d : Die) (k : Nat) (f : LedEnt → LedEnt) : (d.modLed k f).boot = d.boot := rfl

@[simp] theorem Die.modLed_pwr (d : Die) (k : Nat) (f : LedEnt → LedEnt) : (d.modLed k f).pwr = d.pwr := rfl

@[simp] theorem Die.modLed_returned (d : Die) (k : Nat) (f : LedEnt → LedEnt) : (d.modLed k f).returned = d.returned := rfl

@[simp] theorem Die.modLed_alive (d : Die) (k : Nat) (f : LedEnt → LedEnt) : (d.modLed k f).alive = d.alive := rfl

@[simp] theorem Die.modLed_dword (d : Die) (k : Nat) (f : LedEnt → LedEnt) (x : Nat) : (d.modLed k f).dword x = d.dword x := rfl

@[simp] theorem Die.modLed_get (d : Die) (k : Nat) (f : LedEnt → LedEnt) (f0 : Fld) (i0 j0 k0 : Nat) : (d.modLed k f).get f0 i0 j0 k0 = d.get f0 i0 j0 k0 := rfl

/-! ### setFlow -/

@[simp] theorem Die.setFlow_regs (d : Die) (k : Nat) (e : FlowEnt) : (d.setFlow k e).regs = d.regs := rfl

@[simp] theorem Die.setFlow_latch (d : Die) (k : Nat) (e : FlowEnt) : (d.setFlow k e).latch = d.latch := rfl

@[simp] theorem Die.setFlow_fresh (d : Die) (k : Nat) (e : FlowEnt) : (d.setFlow k e).fresh = d.fresh := rfl

@[simp] theorem Die.setFlow_out (d : Die) (k : Nat) (e : FlowEnt) : (d.setFlow k e).out = d.out := rfl

@[simp] theorem Die.setFlow_err (d : Die) (k : Nat) (e : FlowEnt) : (d.setFlow k e).err = d.err := rfl

@[simp] theorem Die.setFlow_msix (d : Die) (k : Nat) (e : FlowEnt) : (d.setFlow k e).msix = d.msix := rfl

@[simp] theorem Die.setFlow_tick (d : Die) (k : Nat) (e : FlowEnt) : (d.setFlow k e).tick = d.tick := rfl

@[simp] theorem Die.setFlow_cave (d : Die) (k : Nat) (e : FlowEnt) : (d.setFlow k e).cave = d.cave := rfl

@[simp] theorem Die.setFlow_wake (d : Die) (k : Nat) (e : FlowEnt) : (d.setFlow k e).wake = d.wake := rfl

@[simp] theorem Die.setFlow_ports (d : Die) (k : Nat) (e : FlowEnt) : (d.setFlow k e).ports = d.ports := rfl

@[simp] theorem Die.setFlow_casc (d : Die) (k : Nat) (e : FlowEnt) : (d.setFlow k e).casc = d.casc := rfl

@[simp] theorem Die.setFlow_disc (d : Die) (k : Nat) (e : FlowEnt) : (d.setFlow k e).disc = d.disc := rfl

@[simp] theorem Die.setFlow_sw (d : Die) (k : Nat) (e : FlowEnt) : (d.setFlow k e).sw = d.sw := rfl

@[simp] theorem Die.setFlow_harp (d : Die) (k : Nat) (e : FlowEnt) : (d.setFlow k e).harp = d.harp := rfl

@[simp] theorem Die.setFlow_ten (d : Die) (k : Nat) (e : FlowEnt) : (d.setFlow k e).ten = d.ten := rfl

@[simp] theorem Die.setFlow_hoops (d : Die) (k : Nat) (e : FlowEnt) : (d.setFlow k e).hoops = d.hoops := rfl

@[simp] theorem Die.setFlow_withholding (d : Die) (k : Nat) (e : FlowEnt) : (d.setFlow k e).withholding = d.withholding := rfl

@[simp] theorem Die.setFlow_vats (d : Die) (k : Nat) (e : FlowEnt) : (d.setFlow k e).vats = d.vats := rfl

@[simp] theorem Die.setFlow_plans (d : Die) (k : Nat) (e : FlowEnt) : (d.setFlow k e).plans = d.plans := rfl

@[simp] theorem Die.setFlow_coll (d : Die) (k : Nat) (e : FlowEnt) : (d.setFlow k e).coll = d.coll := rfl

@[simp] theorem Die.setFlow_det (d : Die) (k : Nat) (e : FlowEnt) : (d.setFlow k e).det = d.det := rfl

@[simp] theorem Die.setFlow_own (d : Die) (k : Nat) (e : FlowEnt) : (d.setFlow k e).own = d.own := rfl

@[simp] theorem Die.setFlow_sec (d : Die) (k : Nat) (e : FlowEnt) : (d.setFlow k e).sec = d.sec := rfl

@[simp] theorem Die.setFlow_host (d : Die) (k : Nat) (e : FlowEnt) : (d.setFlow k e).host = d.host := rfl

@[simp] theorem Die.setFlow_telem (d : Die) (k : Nat) (e : FlowEnt) : (d.setFlow k e).telem = d.telem := rfl

@[simp] theorem Die.setFlow_smb (d : Die) (k : Nat) (e : FlowEnt) : (d.setFlow k e).smb = d.smb := rfl

@[simp] theorem Die.setFlow_boot (d : Die) (k : Nat) (e : FlowEnt) : (d.setFlow k e).boot = d.boot := rfl

@[simp] theorem Die.setFlow_pwr (d : Die) (k : Nat) (e : FlowEnt) : (d.setFlow k e).pwr = d.pwr := rfl

@[simp] theorem Die.setFlow_returned (d : Die) (k : Nat) (e : FlowEnt) : (d.setFlow k e).returned = d.returned := rfl

@[simp] theorem Die.setFlow_alive (d : Die) (k : Nat) (e : FlowEnt) : (d.setFlow k e).alive = d.alive := rfl

@[simp] theorem Die.setFlow_dword (d : Die) (k : Nat) (e : FlowEnt) (x : Nat) : (d.setFlow k e).dword x = d.dword x := rfl

@[simp] theorem Die.setFlow_get (d : Die) (k : Nat) (e : FlowEnt) (f0 : Fld) (i0 j0 k0 : Nat) : (d.setFlow k e).get f0 i0 j0 k0 = d.get f0 i0 j0 k0 := rfl

/-! ### modMbox -/

@[simp] theorem Die.modMbox_regs (d : Die) (i : Nat) (f : MboxSlot → MboxSlot) : (d.modMbox i f).regs = d.regs := rfl

@[simp] theorem Die.modMbox_latch (d : Die) (i : Nat) (f : MboxSlot → MboxSlot) : (d.modMbox i f).latch = d.latch := rfl

@[simp] theorem Die.modMbox_fresh (d : Die) (i : Nat) (f : MboxSlot → MboxSlot) : (d.modMbox i f).fresh = d.fresh := rfl

@[simp] theorem Die.modMbox_out (d : Die) (i : Nat) (f : MboxSlot → MboxSlot) : (d.modMbox i f).out = d.out := rfl

@[simp] theorem Die.modMbox_err (d : Die) (i : Nat) (f : MboxSlot → MboxSlot) : (d.modMbox i f).err = d.err := rfl

@[simp] theorem Die.modMbox_msix (d : Die) (i : Nat) (f : MboxSlot → MboxSlot) : (d.modMbox i f).msix = d.msix := rfl

@[simp] theorem Die.modMbox_tick (d : Die) (i : Nat) (f : MboxSlot → MboxSlot) : (d.modMbox i f).tick = d.tick := rfl

@[simp] theorem Die.modMbox_cave (d : Die) (i : Nat) (f : MboxSlot → MboxSlot) : (d.modMbox i f).cave = d.cave := rfl

@[simp] theorem Die.modMbox_wake (d : Die) (i : Nat) (f : MboxSlot → MboxSlot) : (d.modMbox i f).wake = d.wake := rfl

@[simp] theorem Die.modMbox_ports (d : Die) (i : Nat) (f : MboxSlot → MboxSlot) : (d.modMbox i f).ports = d.ports := rfl

@[simp] theorem Die.modMbox_casc (d : Die) (i : Nat) (f : MboxSlot → MboxSlot) : (d.modMbox i f).casc = d.casc := rfl

@[simp] theorem Die.modMbox_disc (d : Die) (i : Nat) (f : MboxSlot → MboxSlot) : (d.modMbox i f).disc = d.disc := rfl

@[simp] theorem Die.modMbox_sw (d : Die) (i : Nat) (f : MboxSlot → MboxSlot) : (d.modMbox i f).sw = d.sw := rfl

@[simp] theorem Die.modMbox_harp (d : Die) (i : Nat) (f : MboxSlot → MboxSlot) : (d.modMbox i f).harp = d.harp := rfl

@[simp] theorem Die.modMbox_dlv (d : Die) (i : Nat) (f : MboxSlot → MboxSlot) : (d.modMbox i f).dlv = d.dlv := rfl

@[simp] theorem Die.modMbox_ten (d : Die) (i : Nat) (f : MboxSlot → MboxSlot) : (d.modMbox i f).ten = d.ten := rfl

@[simp] theorem Die.modMbox_hoops (d : Die) (i : Nat) (f : MboxSlot → MboxSlot) : (d.modMbox i f).hoops = d.hoops := rfl

@[simp] theorem Die.modMbox_withholding (d : Die) (i : Nat) (f : MboxSlot → MboxSlot) : (d.modMbox i f).withholding = d.withholding := rfl

@[simp] theorem Die.modMbox_vats (d : Die) (i : Nat) (f : MboxSlot → MboxSlot) : (d.modMbox i f).vats = d.vats := rfl

@[simp] theorem Die.modMbox_plans (d : Die) (i : Nat) (f : MboxSlot → MboxSlot) : (d.modMbox i f).plans = d.plans := rfl

@[simp] theorem Die.modMbox_coll (d : Die) (i : Nat) (f : MboxSlot → MboxSlot) : (d.modMbox i f).coll = d.coll := rfl

@[simp] theorem Die.modMbox_det (d : Die) (i : Nat) (f : MboxSlot → MboxSlot) : (d.modMbox i f).det = d.det := rfl

@[simp] theorem Die.modMbox_own (d : Die) (i : Nat) (f : MboxSlot → MboxSlot) : (d.modMbox i f).own = d.own := rfl

@[simp] theorem Die.modMbox_sec (d : Die) (i : Nat) (f : MboxSlot → MboxSlot) : (d.modMbox i f).sec = d.sec := rfl

@[simp] theorem Die.modMbox_telem (d : Die) (i : Nat) (f : MboxSlot → MboxSlot) : (d.modMbox i f).telem = d.telem := rfl

@[simp] theorem Die.modMbox_smb (d : Die) (i : Nat) (f : MboxSlot → MboxSlot) : (d.modMbox i f).smb = d.smb := rfl

@[simp] theorem Die.modMbox_boot (d : Die) (i : Nat) (f : MboxSlot → MboxSlot) : (d.modMbox i f).boot = d.boot := rfl

@[simp] theorem Die.modMbox_pwr (d : Die) (i : Nat) (f : MboxSlot → MboxSlot) : (d.modMbox i f).pwr = d.pwr := rfl

@[simp] theorem Die.modMbox_returned (d : Die) (i : Nat) (f : MboxSlot → MboxSlot) : (d.modMbox i f).returned = d.returned := rfl

@[simp] theorem Die.modMbox_alive (d : Die) (i : Nat) (f : MboxSlot → MboxSlot) : (d.modMbox i f).alive = d.alive := rfl

@[simp] theorem Die.modMbox_dword (d : Die) (i : Nat) (f : MboxSlot → MboxSlot) (x : Nat) : (d.modMbox i f).dword x = d.dword x := rfl

@[simp] theorem Die.modMbox_get (d : Die) (i : Nat) (f : MboxSlot → MboxSlot) (f0 : Fld) (i0 j0 k0 : Nat) : (d.modMbox i f).get f0 i0 j0 k0 = d.get f0 i0 j0 k0 := rfl

/-! ### modDma -/

@[simp] theorem Die.modDma_regs (d : Die) (q : Nat) (f : DmaQ → DmaQ) : (d.modDma q f).regs = d.regs := rfl

@[simp] theorem Die.modDma_latch (d : Die) (q : Nat) (f : DmaQ → DmaQ) : (d.modDma q f).latch = d.latch := rfl

@[simp] theorem Die.modDma_fresh (d : Die) (q : Nat) (f : DmaQ → DmaQ) : (d.modDma q f).fresh = d.fresh := rfl

@[simp] theorem Die.modDma_out (d : Die) (q : Nat) (f : DmaQ → DmaQ) : (d.modDma q f).out = d.out := rfl

@[simp] theorem Die.modDma_err (d : Die) (q : Nat) (f : DmaQ → DmaQ) : (d.modDma q f).err = d.err := rfl

@[simp] theorem Die.modDma_msix (d : Die) (q : Nat) (f : DmaQ → DmaQ) : (d.modDma q f).msix = d.msix := rfl

@[simp] theorem Die.modDma_tick (d : Die) (q : Nat) (f : DmaQ → DmaQ) : (d.modDma q f).tick = d.tick := rfl

@[simp] theorem Die.modDma_cave (d : Die) (q : Nat) (f : DmaQ → DmaQ) : (d.modDma q f).cave = d.cave := rfl

@[simp] theorem Die.modDma_wake (d : Die) (q : Nat) (f : DmaQ → DmaQ) : (d.modDma q f).wake = d.wake := rfl

@[simp] theorem Die.modDma_ports (d : Die) (q : Nat) (f : DmaQ → DmaQ) : (d.modDma q f).ports = d.ports := rfl

@[simp] theorem Die.modDma_casc (d : Die) (q : Nat) (f : DmaQ → DmaQ) : (d.modDma q f).casc = d.casc := rfl

@[simp] theorem Die.modDma_disc (d : Die) (q : Nat) (f : DmaQ → DmaQ) : (d.modDma q f).disc = d.disc := rfl

@[simp] theorem Die.modDma_sw (d : Die) (q : Nat) (f : DmaQ → DmaQ) : (d.modDma q f).sw = d.sw := rfl

@[simp] theorem Die.modDma_harp (d : Die) (q : Nat) (f : DmaQ → DmaQ) : (d.modDma q f).harp = d.harp := rfl

@[simp] theorem Die.modDma_dlv (d : Die) (q : Nat) (f : DmaQ → DmaQ) : (d.modDma q f).dlv = d.dlv := rfl

@[simp] theorem Die.modDma_ten (d : Die) (q : Nat) (f : DmaQ → DmaQ) : (d.modDma q f).ten = d.ten := rfl

@[simp] theorem Die.modDma_hoops (d : Die) (q : Nat) (f : DmaQ → DmaQ) : (d.modDma q f).hoops = d.hoops := rfl

@[simp] theorem Die.modDma_withholding (d : Die) (q : Nat) (f : DmaQ → DmaQ) : (d.modDma q f).withholding = d.withholding := rfl

@[simp] theorem Die.modDma_vats (d : Die) (q : Nat) (f : DmaQ → DmaQ) : (d.modDma q f).vats = d.vats := rfl

@[simp] theorem Die.modDma_plans (d : Die) (q : Nat) (f : DmaQ → DmaQ) : (d.modDma q f).plans = d.plans := rfl

@[simp] theorem Die.modDma_coll (d : Die) (q : Nat) (f : DmaQ → DmaQ) : (d.modDma q f).coll = d.coll := rfl

@[simp] theorem Die.modDma_det (d : Die) (q : Nat) (f : DmaQ → DmaQ) : (d.modDma q f).det = d.det := rfl

@[simp] theorem Die.modDma_own (d : Die) (q : Nat) (f : DmaQ → DmaQ) : (d.modDma q f).own = d.own := rfl

@[simp] theorem Die.modDma_sec (d : Die) (q : Nat) (f : DmaQ → DmaQ) : (d.modDma q f).sec = d.sec := rfl

@[simp] theorem Die.modDma_telem (d : Die) (q : Nat) (f : DmaQ → DmaQ) : (d.modDma q f).telem = d.telem := rfl

@[simp] theorem Die.modDma_smb (d : Die) (q : Nat) (f : DmaQ → DmaQ) : (d.modDma q f).smb = d.smb := rfl

@[simp] theorem Die.modDma_boot (d : Die) (q : Nat) (f : DmaQ → DmaQ) : (d.modDma q f).boot = d.boot := rfl

@[simp] theorem Die.modDma_pwr (d : Die) (q : Nat) (f : DmaQ → DmaQ) : (d.modDma q f).pwr = d.pwr := rfl

@[simp] theorem Die.modDma_returned (d : Die) (q : Nat) (f : DmaQ → DmaQ) : (d.modDma q f).returned = d.returned := rfl

@[simp] theorem Die.modDma_alive (d : Die) (q : Nat) (f : DmaQ → DmaQ) : (d.modDma q f).alive = d.alive := rfl

@[simp] theorem Die.modDma_dword (d : Die) (q : Nat) (f : DmaQ → DmaQ) (x : Nat) : (d.modDma q f).dword x = d.dword x := rfl

@[simp] theorem Die.modDma_get (d : Die) (q : Nat) (f : DmaQ → DmaQ) (f0 : Fld) (i0 j0 k0 : Nat) : (d.modDma q f).get f0 i0 j0 k0 = d.get f0 i0 j0 k0 := rfl

/-! ### setSpdm -/

@[simp] theorem Die.setSpdm_regs (d : Die) (m : Bool) (v : Nat) : (d.setSpdm m v).regs = d.regs := rfl

@[simp] theorem Die.setSpdm_latch (d : Die) (m : Bool) (v : Nat) : (d.setSpdm m v).latch = d.latch := rfl

@[simp] theorem Die.setSpdm_fresh (d : Die) (m : Bool) (v : Nat) : (d.setSpdm m v).fresh = d.fresh := rfl

@[simp] theorem Die.setSpdm_out (d : Die) (m : Bool) (v : Nat) : (d.setSpdm m v).out = d.out := rfl

@[simp] theorem Die.setSpdm_err (d : Die) (m : Bool) (v : Nat) : (d.setSpdm m v).err = d.err := rfl

@[simp] theorem Die.setSpdm_msix (d : Die) (m : Bool) (v : Nat) : (d.setSpdm m v).msix = d.msix := rfl

@[simp] theorem Die.setSpdm_tick (d : Die) (m : Bool) (v : Nat) : (d.setSpdm m v).tick = d.tick := rfl

@[simp] theorem Die.setSpdm_cave (d : Die) (m : Bool) (v : Nat) : (d.setSpdm m v).cave = d.cave := rfl

@[simp] theorem Die.setSpdm_wake (d : Die) (m : Bool) (v : Nat) : (d.setSpdm m v).wake = d.wake := rfl

@[simp] theorem Die.setSpdm_ports (d : Die) (m : Bool) (v : Nat) : (d.setSpdm m v).ports = d.ports := rfl

@[simp] theorem Die.setSpdm_casc (d : Die) (m : Bool) (v : Nat) : (d.setSpdm m v).casc = d.casc := rfl

@[simp] theorem Die.setSpdm_disc (d : Die) (m : Bool) (v : Nat) : (d.setSpdm m v).disc = d.disc := rfl

@[simp] theorem Die.setSpdm_sw (d : Die) (m : Bool) (v : Nat) : (d.setSpdm m v).sw = d.sw := rfl

@[simp] theorem Die.setSpdm_harp (d : Die) (m : Bool) (v : Nat) : (d.setSpdm m v).harp = d.harp := rfl

@[simp] theorem Die.setSpdm_dlv (d : Die) (m : Bool) (v : Nat) : (d.setSpdm m v).dlv = d.dlv := rfl

@[simp] theorem Die.setSpdm_ten (d : Die) (m : Bool) (v : Nat) : (d.setSpdm m v).ten = d.ten := rfl

@[simp] theorem Die.setSpdm_hoops (d : Die) (m : Bool) (v : Nat) : (d.setSpdm m v).hoops = d.hoops := rfl

@[simp] theorem Die.setSpdm_withholding (d : Die) (m : Bool) (v : Nat) : (d.setSpdm m v).withholding = d.withholding := rfl

@[simp] theorem Die.setSpdm_vats (d : Die) (m : Bool) (v : Nat) : (d.setSpdm m v).vats = d.vats := rfl

@[simp] theorem Die.setSpdm_plans (d : Die) (m : Bool) (v : Nat) : (d.setSpdm m v).plans = d.plans := rfl

@[simp] theorem Die.setSpdm_coll (d : Die) (m : Bool) (v : Nat) : (d.setSpdm m v).coll = d.coll := rfl

@[simp] theorem Die.setSpdm_det (d : Die) (m : Bool) (v : Nat) : (d.setSpdm m v).det = d.det := rfl

@[simp] theorem Die.setSpdm_own (d : Die) (m : Bool) (v : Nat) : (d.setSpdm m v).own = d.own := rfl

@[simp] theorem Die.setSpdm_host (d : Die) (m : Bool) (v : Nat) : (d.setSpdm m v).host = d.host := rfl

@[simp] theorem Die.setSpdm_telem (d : Die) (m : Bool) (v : Nat) : (d.setSpdm m v).telem = d.telem := rfl

@[simp] theorem Die.setSpdm_smb (d : Die) (m : Bool) (v : Nat) : (d.setSpdm m v).smb = d.smb := rfl

@[simp] theorem Die.setSpdm_boot (d : Die) (m : Bool) (v : Nat) : (d.setSpdm m v).boot = d.boot := rfl

@[simp] theorem Die.setSpdm_pwr (d : Die) (m : Bool) (v : Nat) : (d.setSpdm m v).pwr = d.pwr := rfl

@[simp] theorem Die.setSpdm_returned (d : Die) (m : Bool) (v : Nat) : (d.setSpdm m v).returned = d.returned := rfl

@[simp] theorem Die.setSpdm_alive (d : Die) (m : Bool) (v : Nat) : (d.setSpdm m v).alive = d.alive := rfl

@[simp] theorem Die.setSpdm_dword (d : Die) (m : Bool) (v : Nat) (x : Nat) : (d.setSpdm m v).dword x = d.dword x := rfl

@[simp] theorem Die.setSpdm_get (d : Die) (m : Bool) (v : Nat) (f0 : Fld) (i0 j0 k0 : Nat) : (d.setSpdm m v).get f0 i0 j0 k0 = d.get f0 i0 j0 k0 := rfl

/-! ### fpDirty -/

@[simp] theorem Die.fpDirty_regs (d : Die) : (d.fpDirty).regs = d.regs := rfl

@[simp] theorem Die.fpDirty_latch (d : Die) : (d.fpDirty).latch = d.latch := rfl

@[simp] theorem Die.fpDirty_fresh (d : Die) : (d.fpDirty).fresh = d.fresh := rfl

@[simp] theorem Die.fpDirty_out (d : Die) : (d.fpDirty).out = d.out := rfl

@[simp] theorem Die.fpDirty_err (d : Die) : (d.fpDirty).err = d.err := rfl

@[simp] theorem Die.fpDirty_msix (d : Die) : (d.fpDirty).msix = d.msix := rfl

@[simp] theorem Die.fpDirty_tick (d : Die) : (d.fpDirty).tick = d.tick := rfl

@[simp] theorem Die.fpDirty_cave (d : Die) : (d.fpDirty).cave = d.cave := rfl

@[simp] theorem Die.fpDirty_wake (d : Die) : (d.fpDirty).wake = d.wake := rfl

@[simp] theorem Die.fpDirty_ports (d : Die) : (d.fpDirty).ports = d.ports := rfl

@[simp] theorem Die.fpDirty_casc (d : Die) : (d.fpDirty).casc = d.casc := rfl

@[simp] theorem Die.fpDirty_disc (d : Die) : (d.fpDirty).disc = d.disc := rfl

@[simp] theorem Die.fpDirty_sw (d : Die) : (d.fpDirty).sw = d.sw := rfl

@[simp] theorem Die.fpDirty_harp (d : Die) : (d.fpDirty).harp = d.harp := rfl

@[simp] theorem Die.fpDirty_dlv (d : Die) : (d.fpDirty).dlv = d.dlv := rfl

@[simp] theorem Die.fpDirty_ten (d : Die) : (d.fpDirty).ten = d.ten := rfl

@[simp] theorem Die.fpDirty_hoops (d : Die) : (d.fpDirty).hoops = d.hoops := rfl

@[simp] theorem Die.fpDirty_withholding (d : Die) : (d.fpDirty).withholding = d.withholding := rfl

@[simp] theorem Die.fpDirty_vats (d : Die) : (d.fpDirty).vats = d.vats := rfl

@[simp] theorem Die.fpDirty_plans (d : Die) : (d.fpDirty).plans = d.plans := rfl

@[simp] theorem Die.fpDirty_coll (d : Die) : (d.fpDirty).coll = d.coll := rfl

@[simp] theorem Die.fpDirty_own (d : Die) : (d.fpDirty).own = d.own := rfl

@[simp] theorem Die.fpDirty_sec (d : Die) : (d.fpDirty).sec = d.sec := rfl

@[simp] theorem Die.fpDirty_host (d : Die) : (d.fpDirty).host = d.host := rfl

@[simp] theorem Die.fpDirty_telem (d : Die) : (d.fpDirty).telem = d.telem := rfl

@[simp] theorem Die.fpDirty_smb (d : Die) : (d.fpDirty).smb = d.smb := rfl

@[simp] theorem Die.fpDirty_boot (d : Die) : (d.fpDirty).boot = d.boot := rfl

@[simp] theorem Die.fpDirty_pwr (d : Die) : (d.fpDirty).pwr = d.pwr := rfl

@[simp] theorem Die.fpDirty_returned (d : Die) : (d.fpDirty).returned = d.returned := rfl

@[simp] theorem Die.fpDirty_alive (d : Die) : (d.fpDirty).alive = d.alive := rfl

@[simp] theorem Die.fpDirty_dword (d : Die) (x : Nat) : (d.fpDirty).dword x = d.dword x := rfl

@[simp] theorem Die.fpDirty_get (d : Die) (f0 : Fld) (i0 j0 k0 : Nat) : (d.fpDirty).get f0 i0 j0 k0 = d.get f0 i0 j0 k0 := rfl

/-! ### kick -/

@[simp] theorem Die.kick_regs (d : Die) : (d.kick).regs = d.regs := rfl

@[simp] theorem Die.kick_latch (d : Die) : (d.kick).latch = d.latch := rfl

@[simp] theorem Die.kick_fresh (d : Die) : (d.kick).fresh = d.fresh := rfl

@[simp] theorem Die.kick_out (d : Die) : (d.kick).out = d.out := rfl

@[simp] theorem Die.kick_msix (d : Die) : (d.kick).msix = d.msix := rfl

@[simp] theorem Die.kick_tick (d : Die) : (d.kick).tick = d.tick := rfl

@[simp] theorem Die.kick_cave (d : Die) : (d.kick).cave = d.cave := rfl

@[simp] theorem Die.kick_wake (d : Die) : (d.kick).wake = d.wake := rfl

@[simp] theorem Die.kick_ports (d : Die) : (d.kick).ports = d.ports := rfl

@[simp] theorem Die.kick_casc (d : Die) : (d.kick).casc = d.casc := rfl

@[simp] theorem Die.kick_disc (d : Die) : (d.kick).disc = d.disc := rfl

@[simp] theorem Die.kick_sw (d : Die) : (d.kick).sw = d.sw := rfl

@[simp] theorem Die.kick_harp (d : Die) : (d.kick).harp = d.harp := rfl

@[simp] theorem Die.kick_dlv (d : Die) : (d.kick).dlv = d.dlv := rfl

@[simp] theorem Die.kick_ten (d : Die) : (d.kick).ten = d.ten := rfl

@[simp] theorem Die.kick_hoops (d : Die) : (d.kick).hoops = d.hoops := rfl

@[simp] theorem Die.kick_withholding (d : Die) : (d.kick).withholding = d.withholding := rfl

@[simp] theorem Die.kick_vats (d : Die) : (d.kick).vats = d.vats := rfl

@[simp] theorem Die.kick_plans (d : Die) : (d.kick).plans = d.plans := rfl

@[simp] theorem Die.kick_coll (d : Die) : (d.kick).coll = d.coll := rfl

@[simp] theorem Die.kick_det (d : Die) : (d.kick).det = d.det := rfl

@[simp] theorem Die.kick_own (d : Die) : (d.kick).own = d.own := rfl

@[simp] theorem Die.kick_sec (d : Die) : (d.kick).sec = d.sec := rfl

@[simp] theorem Die.kick_host (d : Die) : (d.kick).host = d.host := rfl

@[simp] theorem Die.kick_telem (d : Die) : (d.kick).telem = d.telem := rfl

@[simp] theorem Die.kick_smb (d : Die) : (d.kick).smb = d.smb := rfl

@[simp] theorem Die.kick_boot (d : Die) : (d.kick).boot = d.boot := rfl

@[simp] theorem Die.kick_pwr (d : Die) : (d.kick).pwr = d.pwr := rfl

@[simp] theorem Die.kick_returned (d : Die) : (d.kick).returned = d.returned := rfl

@[simp] theorem Die.kick_alive (d : Die) : (d.kick).alive = d.alive := rfl

@[simp] theorem Die.kick_dword (d : Die) (x : Nat) : (d.kick).dword x = d.dword x := rfl

@[simp] theorem Die.kick_get (d : Die) (f0 : Fld) (i0 j0 k0 : Nat) : (d.kick).get f0 i0 j0 k0 = d.get f0 i0 j0 k0 := rfl

/-! ### tbump -/

@[simp] theorem Die.tbump_regs (d : Die) (f : Fld) (i n : Nat) : (d.tbump f i n).regs = d.regs := by
  unfold Die.tbump; split <;> rfl

@[simp] theorem Die.tbump_latch (d : Die) (f : Fld) (i n : Nat) : (d.tbump f i n).latch = d.latch := by
  unfold Die.tbump; split <;> rfl

@[simp] theorem Die.tbump_fresh (d : Die) (f : Fld) (i n : Nat) : (d.tbump f i n).fresh = d.fresh := by
  unfold Die.tbump; split <;> rfl

@[simp] theorem Die.tbump_out (d : Die) (f : Fld) (i n : Nat) : (d.tbump f i n).out = d.out := by
  unfold Die.tbump; split <;> rfl

@[simp] theorem Die.tbump_err (d : Die) (f : Fld) (i n : Nat) : (d.tbump f i n).err = d.err := by
  unfold Die.tbump; split <;> rfl

@[simp] theorem Die.tbump_msix (d : Die) (f : Fld) (i n : Nat) : (d.tbump f i n).msix = d.msix := by
  unfold Die.tbump; split <;> rfl

@[simp] theorem Die.tbump_tick (d : Die) (f : Fld) (i n : Nat) : (d.tbump f i n).tick = d.tick := by
  unfold Die.tbump; split <;> rfl

@[simp] theorem Die.tbump_cave (d : Die) (f : Fld) (i n : Nat) : (d.tbump f i n).cave = d.cave := by
  unfold Die.tbump; split <;> rfl

@[simp] theorem Die.tbump_wake (d : Die) (f : Fld) (i n : Nat) : (d.tbump f i n).wake = d.wake := by
  unfold Die.tbump; split <;> rfl

@[simp] theorem Die.tbump_ports (d : Die) (f : Fld) (i n : Nat) : (d.tbump f i n).ports = d.ports := by
  unfold Die.tbump; split <;> rfl

@[simp] theorem Die.tbump_casc (d : Die) (f : Fld) (i n : Nat) : (d.tbump f i n).casc = d.casc := by
  unfold Die.tbump; split <;> rfl

@[simp] theorem Die.tbump_disc (d : Die) (f : Fld) (i n : Nat) : (d.tbump f i n).disc = d.disc := by
  unfold Die.tbump; split <;> rfl

@[simp] theorem Die.tbump_sw (d : Die) (f : Fld) (i n : Nat) : (d.tbump f i n).sw = d.sw := by
  unfold Die.tbump; split <;> rfl

@[simp] theorem Die.tbump_harp (d : Die) (f : Fld) (i n : Nat) : (d.tbump f i n).harp = d.harp := by
  unfold Die.tbump; split <;> rfl

@[simp] theorem Die.tbump_dlv (d : Die) (f : Fld) (i n : Nat) : (d.tbump f i n).dlv = d.dlv := by
  unfold Die.tbump; split <;> rfl

@[simp] theorem Die.tbump_ten (d : Die) (f : Fld) (i n : Nat) : (d.tbump f i n).ten = d.ten := by
  unfold Die.tbump; split <;> rfl

@[simp] theorem Die.tbump_hoops (d : Die) (f : Fld) (i n : Nat) : (d.tbump f i n).hoops = d.hoops := by
  unfold Die.tbump; split <;> rfl

@[simp] theorem Die.tbump_withholding (d : Die) (f : Fld) (i n : Nat) : (d.tbump f i n).withholding = d.withholding := by
  unfold Die.tbump; split <;> rfl

@[simp] theorem Die.tbump_vats (d : Die) (f : Fld) (i n : Nat) : (d.tbump f i n).vats = d.vats := by
  unfold Die.tbump; split <;> rfl

@[simp] theorem Die.tbump_plans (d : Die) (f : Fld) (i n : Nat) : (d.tbump f i n).plans = d.plans := by
  unfold Die.tbump; split <;> rfl

@[simp] theorem Die.tbump_coll (d : Die) (f : Fld) (i n : Nat) : (d.tbump f i n).coll = d.coll := by
  unfold Die.tbump; split <;> rfl

@[simp] theorem Die.tbump_det (d : Die) (f : Fld) (i n : Nat) : (d.tbump f i n).det = d.det := by
  unfold Die.tbump; split <;> rfl

@[simp] theorem Die.tbump_own (d : Die) (f : Fld) (i n : Nat) : (d.tbump f i n).own = d.own := by
  unfold Die.tbump; split <;> rfl

@[simp] theorem Die.tbump_sec (d : Die) (f : Fld) (i n : Nat) : (d.tbump f i n).sec = d.sec := by
  unfold Die.tbump; split <;> rfl

@[simp] theorem Die.tbump_host (d : Die) (f : Fld) (i n : Nat) : (d.tbump f i n).host = d.host := by
  unfold Die.tbump; split <;> rfl

@[simp] theorem Die.tbump_smb (d : Die) (f : Fld) (i n : Nat) : (d.tbump f i n).smb = d.smb := by
  unfold Die.tbump; split <;> rfl

@[simp] theorem Die.tbump_boot (d : Die) (f : Fld) (i n : Nat) : (d.tbump f i n).boot = d.boot := by
  unfold Die.tbump; split <;> rfl

@[simp] theorem Die.tbump_pwr (d : Die) (f : Fld) (i n : Nat) : (d.tbump f i n).pwr = d.pwr := by
  unfold Die.tbump; split <;> rfl

@[simp] theorem Die.tbump_returned (d : Die) (f : Fld) (i n : Nat) : (d.tbump f i n).returned = d.returned := by
  unfold Die.tbump; split <;> rfl

@[simp] theorem Die.tbump_alive (d : Die) (f : Fld) (i n : Nat) : (d.tbump f i n).alive = d.alive := by
  simp [Die.alive]

@[simp] theorem Die.tbump_dword (d : Die) (f : Fld) (i n : Nat) (x : Nat) : (d.tbump f i n).dword x = d.dword x := by
  simp [Die.dword]

@[simp] theorem Die.tbump_get (d : Die) (f : Fld) (i n : Nat) (f0 : Fld) (i0 j0 k0 : Nat) : (d.tbump f i n).get f0 i0 j0 k0 = d.get f0 i0 j0 k0 := by
  simp [Die.get, Die.rd]

/-! ### bump -/

@[simp] theorem Die.bump_latch (d : Die) (f : Fld) (i j n : Nat) : (d.bump f i j n).latch = d.latch := by
  simp [Die.bump]

@[simp] theorem Die.bump_fresh (d : Die) (f : Fld) (i j n : Nat) : (d.bump f i j n).fresh = d.fresh := by
  simp [Die.bump]

@[simp] theorem Die.bump_out (d : Die) (f : Fld) (i j n : Nat) : (d.bump f i j n).out = d.out := by
  simp [Die.bump]

@[simp] theorem Die.bump_err (d : Die) (f : Fld) (i j n : Nat) : (d.bump f i j n).err = d.err := by
  simp [Die.bump]

@[simp] theorem Die.bump_msix (d : Die) (f : Fld) (i j n : Nat) : (d.bump f i j n).msix = d.msix := by
  simp [Die.bump]

@[simp] theorem Die.bump_tick (d : Die) (f : Fld) (i j n : Nat) : (d.bump f i j n).tick = d.tick := by
  simp [Die.bump]

@[simp] theorem Die.bump_cave (d : Die) (f : Fld) (i j n : Nat) : (d.bump f i j n).cave = d.cave := by
  simp [Die.bump]

@[simp] theorem Die.bump_wake (d : Die) (f : Fld) (i j n : Nat) : (d.bump f i j n).wake = d.wake := by
  simp [Die.bump]

@[simp] theorem Die.bump_ports (d : Die) (f : Fld) (i j n : Nat) : (d.bump f i j n).ports = d.ports := by
  simp [Die.bump]

@[simp] theorem Die.bump_casc (d : Die) (f : Fld) (i j n : Nat) : (d.bump f i j n).casc = d.casc := by
  simp [Die.bump]

@[simp] theorem Die.bump_disc (d : Die) (f : Fld) (i j n : Nat) : (d.bump f i j n).disc = d.disc := by
  simp [Die.bump]

@[simp] theorem Die.bump_sw (d : Die) (f : Fld) (i j n : Nat) : (d.bump f i j n).sw = d.sw := by
  simp [Die.bump]

@[simp] theorem Die.bump_harp (d : Die) (f : Fld) (i j n : Nat) : (d.bump f i j n).harp = d.harp := by
  simp [Die.bump]

@[simp] theorem Die.bump_dlv (d : Die) (f : Fld) (i j n : Nat) : (d.bump f i j n).dlv = d.dlv := by
  simp [Die.bump]

@[simp] theorem Die.bump_ten (d : Die) (f : Fld) (i j n : Nat) : (d.bump f i j n).ten = d.ten := by
  simp [Die.bump]

@[simp] theorem Die.bump_hoops (d : Die) (f : Fld) (i j n : Nat) : (d.bump f i j n).hoops = d.hoops := by
  simp [Die.bump]

@[simp] theorem Die.bump_withholding (d : Die) (f : Fld) (i j n : Nat) : (d.bump f i j n).withholding = d.withholding := by
  simp [Die.bump]

@[simp] theorem Die.bump_vats (d : Die) (f : Fld) (i j n : Nat) : (d.bump f i j n).vats = d.vats := by
  simp [Die.bump]

@[simp] theorem Die.bump_plans (d : Die) (f : Fld) (i j n : Nat) : (d.bump f i j n).plans = d.plans := by
  simp [Die.bump]

@[simp] theorem Die.bump_coll (d : Die) (f : Fld) (i j n : Nat) : (d.bump f i j n).coll = d.coll := by
  simp [Die.bump]

@[simp] theorem Die.bump_det (d : Die) (f : Fld) (i j n : Nat) : (d.bump f i j n).det = d.det := by
  simp [Die.bump]

@[simp] theorem Die.bump_own (d : Die) (f : Fld) (i j n : Nat) : (d.bump f i j n).own = d.own := by
  simp [Die.bump]

@[simp] theorem Die.bump_sec (d : Die) (f : Fld) (i j n : Nat) : (d.bump f i j n).sec = d.sec := by
  simp [Die.bump]

@[simp] theorem Die.bump_host (d : Die) (f : Fld) (i j n : Nat) : (d.bump f i j n).host = d.host := by
  simp [Die.bump]

@[simp] theorem Die.bump_smb (d : Die) (f : Fld) (i j n : Nat) : (d.bump f i j n).smb = d.smb := by
  simp [Die.bump]

@[simp] theorem Die.bump_boot (d : Die) (f : Fld) (i j n : Nat) : (d.bump f i j n).boot = d.boot := by
  simp [Die.bump]

@[simp] theorem Die.bump_pwr (d : Die) (f : Fld) (i j n : Nat) : (d.bump f i j n).pwr = d.pwr := by
  simp [Die.bump]

@[simp] theorem Die.bump_returned (d : Die) (f : Fld) (i j n : Nat) : (d.bump f i j n).returned = d.returned := by
  simp [Die.bump]

@[simp] theorem Die.bump_alive (d : Die) (f : Fld) (i j n : Nat) : (d.bump f i j n).alive = d.alive := by
  simp [Die.alive]

/-! ### raiseTo -/

@[simp] theorem Die.raiseTo_latch (d : Die) (f : Fld) (v i j : Nat) : (d.raiseTo f v i j).latch = d.latch := by
  unfold Die.raiseTo; split <;> rfl

@[simp] theorem Die.raiseTo_fresh (d : Die) (f : Fld) (v i j : Nat) : (d.raiseTo f v i j).fresh = d.fresh := by
  unfold Die.raiseTo; split <;> rfl

@[simp] theorem Die.raiseTo_out (d : Die) (f : Fld) (v i j : Nat) : (d.raiseTo f v i j).out = d.out := by
  unfold Die.raiseTo; split <;> rfl

@[simp] theorem Die.raiseTo_err (d : Die) (f : Fld) (v i j : Nat) : (d.raiseTo f v i j).err = d.err := by
  unfold Die.raiseTo; split <;> rfl

@[simp] theorem Die.raiseTo_msix (d : Die) (f : Fld) (v i j : Nat) : (d.raiseTo f v i j).msix = d.msix := by
  unfold Die.raiseTo; split <;> rfl

@[simp] theorem Die.raiseTo_tick (d : Die) (f : Fld) (v i j : Nat) : (d.raiseTo f v i j).tick = d.tick := by
  unfold Die.raiseTo; split <;> rfl

@[simp] theorem Die.raiseTo_cave (d : Die) (f : Fld) (v i j : Nat) : (d.raiseTo f v i j).cave = d.cave := by
  unfold Die.raiseTo; split <;> rfl

@[simp] theorem Die.raiseTo_wake (d : Die) (f : Fld) (v i j : Nat) : (d.raiseTo f v i j).wake = d.wake := by
  unfold Die.raiseTo; split <;> rfl

@[simp] theorem Die.raiseTo_ports (d : Die) (f : Fld) (v i j : Nat) : (d.raiseTo f v i j).ports = d.ports := by
  unfold Die.raiseTo; split <;> rfl

@[simp] theorem Die.raiseTo_casc (d : Die) (f : Fld) (v i j : Nat) : (d.raiseTo f v i j).casc = d.casc := by
  unfold Die.raiseTo; split <;> rfl

@[simp] theorem Die.raiseTo_disc (d : Die) (f : Fld) (v i j : Nat) : (d.raiseTo f v i j).disc = d.disc := by
  unfold Die.raiseTo; split <;> rfl

@[simp] theorem Die.raiseTo_sw (d : Die) (f : Fld) (v i j : Nat) : (d.raiseTo f v i j).sw = d.sw := by
  unfold Die.raiseTo; split <;> rfl

@[simp] theorem Die.raiseTo_harp (d : Die) (f : Fld) (v i j : Nat) : (d.raiseTo f v i j).harp = d.harp := by
  unfold Die.raiseTo; split <;> rfl

@[simp] theorem Die.raiseTo_dlv (d : Die) (f : Fld) (v i j : Nat) : (d.raiseTo f v i j).dlv = d.dlv := by
  unfold Die.raiseTo; split <;> rfl

@[simp] theorem Die.raiseTo_ten (d : Die) (f : Fld) (v i j : Nat) : (d.raiseTo f v i j).ten = d.ten := by
  unfold Die.raiseTo; split <;> rfl

@[simp] theorem Die.raiseTo_hoops (d : Die) (f : Fld) (v i j : Nat) : (d.raiseTo f v i j).hoops = d.hoops := by
  unfold Die.raiseTo; split <;> rfl

@[simp] theorem Die.raiseTo_withholding (d : Die) (f : Fld) (v i j : Nat) : (d.raiseTo f v i j).withholding = d.withholding := by
  unfold Die.raiseTo; split <;> rfl

@[simp] theorem Die.raiseTo_vats (d : Die) (f : Fld) (v i j : Nat) : (d.raiseTo f v i j).vats = d.vats := by
  unfold Die.raiseTo; split <;> rfl

@[simp] theorem Die.raiseTo_plans (d : Die) (f : Fld) (v i j : Nat) : (d.raiseTo f v i j).plans = d.plans := by
  unfold Die.raiseTo; split <;> rfl

@[simp] theorem Die.raiseTo_coll (d : Die) (f : Fld) (v i j : Nat) : (d.raiseTo f v i j).coll = d.coll := by
  unfold Die.raiseTo; split <;> rfl

@[simp] theorem Die.raiseTo_det (d : Die) (f : Fld) (v i j : Nat) : (d.raiseTo f v i j).det = d.det := by
  unfold Die.raiseTo; split <;> rfl

@[simp] theorem Die.raiseTo_own (d : Die) (f : Fld) (v i j : Nat) : (d.raiseTo f v i j).own = d.own := by
  unfold Die.raiseTo; split <;> rfl

@[simp] theorem Die.raiseTo_sec (d : Die) (f : Fld) (v i j : Nat) : (d.raiseTo f v i j).sec = d.sec := by
  unfold Die.raiseTo; split <;> rfl

@[simp] theorem Die.raiseTo_host (d : Die) (f : Fld) (v i j : Nat) : (d.raiseTo f v i j).host = d.host := by
  unfold Die.raiseTo; split <;> rfl

@[simp] theorem Die.raiseTo_telem (d : Die) (f : Fld) (v i j : Nat) : (d.raiseTo f v i j).telem = d.telem := by
  unfold Die.raiseTo; split <;> rfl

@[simp] theorem Die.raiseTo_smb (d : Die) (f : Fld) (v i j : Nat) : (d.raiseTo f v i j).smb = d.smb := by
  unfold Die.raiseTo; split <;> rfl

@[simp] theorem Die.raiseTo_boot (d : Die) (f : Fld) (v i j : Nat) : (d.raiseTo f v i j).boot = d.boot := by
  unfold Die.raiseTo; split <;> rfl

@[simp] theorem Die.raiseTo_pwr (d : Die) (f : Fld) (v i j : Nat) : (d.raiseTo f v i j).pwr = d.pwr := by
  unfold Die.raiseTo; split <;> rfl

@[simp] theorem Die.raiseTo_returned (d : Die) (f : Fld) (v i j : Nat) : (d.raiseTo f v i j).returned = d.returned := by
  unfold Die.raiseTo; split <;> rfl

@[simp] theorem Die.raiseTo_alive (d : Die) (f : Fld) (v i j : Nat) : (d.raiseTo f v i j).alive = d.alive := by
  simp [Die.alive]

/-! ### raiseVector -/

@[simp] theorem Die.raiseVector_regs (d : Die) (v : Nat) : (d.raiseVector v).regs = d.regs := by
  unfold Die.raiseVector; repeat' split
  all_goals first | rfl | (dsimp only; split <;> rfl)

@[simp] theorem Die.raiseVector_latch (d : Die) (v : Nat) : (d.raiseVector v).latch = d.latch := by
  unfold Die.raiseVector; repeat' split
  all_goals first | rfl | (dsimp only; split <;> rfl)

@[simp] theorem Die.raiseVector_fresh (d : Die) (v : Nat) : (d.raiseVector v).fresh = d.fresh := by
  unfold Die.raiseVector; repeat' split
  all_goals first | rfl | (dsimp only; split <;> rfl)

@[simp] theorem Die.raiseVector_err (d : Die) (v : Nat) : (d.raiseVector v).err = d.err := by
  unfold Die.raiseVector; repeat' split
  all_goals first | rfl | (dsimp only; split <;> rfl)

@[simp] theorem Die.raiseVector_tick (d : Die) (v : Nat) : (d.raiseVector v).tick = d.tick := by
  unfold Die.raiseVector; repeat' split
  all_goals first | rfl | (dsimp only; split <;> rfl)

@[simp] theorem Die.raiseVector_cave (d : Die) (v : Nat) : (d.raiseVector v).cave = d.cave := by
  unfold Die.raiseVector; repeat' split
  all_goals first | rfl | (dsimp only; split <;> rfl)

@[simp] theorem Die.raiseVector_wake (d : Die) (v : Nat) : (d.raiseVector v).wake = d.wake := by
  unfold Die.raiseVector; repeat' split
  all_goals first | rfl | (dsimp only; split <;> rfl)

@[simp] theorem Die.raiseVector_ports (d : Die) (v : Nat) : (d.raiseVector v).ports = d.ports := by
  unfold Die.raiseVector; repeat' split
  all_goals first | rfl | (dsimp only; split <;> rfl)

@[simp] theorem Die.raiseVector_casc (d : Die) (v : Nat) : (d.raiseVector v).casc = d.casc := by
  unfold Die.raiseVector; repeat' split
  all_goals first | rfl | (dsimp only; split <;> rfl)

@[simp] theorem Die.raiseVector_disc (d : Die) (v : Nat) : (d.raiseVector v).disc = d.disc := by
  unfold Die.raiseVector; repeat' split
  all_goals first | rfl | (dsimp only; split <;> rfl)

@[simp] theorem Die.raiseVector_sw (d : Die) (v : Nat) : (d.raiseVector v).sw = d.sw := by
  unfold Die.raiseVector; repeat' split
  all_goals first | rfl | (dsimp only; split <;> rfl)

@[simp] theorem Die.raiseVector_harp (d : Die) (v : Nat) : (d.raiseVector v).harp = d.harp := by
  unfold Die.raiseVector; repeat' split
  all_goals first | rfl | (dsimp only; split <;> rfl)

@[simp] theorem Die.raiseVector_dlv (d : Die) (v : Nat) : (d.raiseVector v).dlv = d.dlv := by
  unfold Die.raiseVector; repeat' split
  all_goals first | rfl | (dsimp only; split <;> rfl)

@[simp] theorem Die.raiseVector_ten (d : Die) (v : Nat) : (d.raiseVector v).ten = d.ten := by
  unfold Die.raiseVector; repeat' split
  all_goals first | rfl | (dsimp only; split <;> rfl)

@[simp] theorem Die.raiseVector_hoops (d : Die) (v : Nat) : (d.raiseVector v).hoops = d.hoops := by
  unfold Die.raiseVector; repeat' split
  all_goals first | rfl | (dsimp only; split <;> rfl)

@[simp] theorem Die.raiseVector_withholding (d : Die) (v : Nat) : (d.raiseVector v).withholding = d.withholding := by
  unfold Die.raiseVector; repeat' split
  all_goals first | rfl | (dsimp only; split <;> rfl)

@[simp] theorem Die.raiseVector_vats (d : Die) (v : Nat) : (d.raiseVector v).vats = d.vats := by
  unfold Die.raiseVector; repeat' split
  all_goals first | rfl | (dsimp only; split <;> rfl)

@[simp] theorem Die.raiseVector_plans (d : Die) (v : Nat) : (d.raiseVector v).plans = d.plans := by
  unfold Die.raiseVector; repeat' split
  all_goals first | rfl | (dsimp only; split <;> rfl)

@[simp] theorem Die.raiseVector_coll (d : Die) (v : Nat) : (d.raiseVector v).coll = d.coll := by
  unfold Die.raiseVector; repeat' split
  all_goals first | rfl | (dsimp only; split <;> rfl)

@[simp] theorem Die.raiseVector_det (d : Die) (v : Nat) : (d.raiseVector v).det = d.det := by
  unfold Die.raiseVector; repeat' split
  all_goals first | rfl | (dsimp only; split <;> rfl)

@[simp] theorem Die.raiseVector_own (d : Die) (v : Nat) : (d.raiseVector v).own = d.own := by
  unfold Die.raiseVector; repeat' split
  all_goals first | rfl | (dsimp only; split <;> rfl)

@[simp] theorem Die.raiseVector_sec (d : Die) (v : Nat) : (d.raiseVector v).sec = d.sec := by
  unfold Die.raiseVector; repeat' split
  all_goals first | rfl | (dsimp only; split <;> rfl)

@[simp] theorem Die.raiseVector_host (d : Die) (v : Nat) : (d.raiseVector v).host = d.host := by
  unfold Die.raiseVector; repeat' split
  all_goals first | rfl | (dsimp only; split <;> rfl)

@[simp] theorem Die.raiseVector_telem (d : Die) (v : Nat) : (d.raiseVector v).telem = d.telem := by
  unfold Die.raiseVector; repeat' split
  all_goals first | rfl | (dsimp only; split <;> rfl)

@[simp] theorem Die.raiseVector_smb (d : Die) (v : Nat) : (d.raiseVector v).smb = d.smb := by
  unfold Die.raiseVector; repeat' split
  all_goals first | rfl | (dsimp only; split <;> rfl)

@[simp] theorem Die.raiseVector_boot (d : Die) (v : Nat) : (d.raiseVector v).boot = d.boot := by
  unfold Die.raiseVector; repeat' split
  all_goals first | rfl | (dsimp only; split <;> rfl)

@[simp] theorem Die.raiseVector_pwr (d : Die) (v : Nat) : (d.raiseVector v).pwr = d.pwr := by
  unfold Die.raiseVector; repeat' split
  all_goals first | rfl | (dsimp only; split <;> rfl)

@[simp] theorem Die.raiseVector_returned (d : Die) (v : Nat) : (d.raiseVector v).returned = d.returned := by
  unfold Die.raiseVector; repeat' split
  all_goals first | rfl | (dsimp only; split <;> rfl)

@[simp] theorem Die.raiseVector_alive (d : Die) (v : Nat) : (d.raiseVector v).alive = d.alive := by
  simp [Die.alive]

@[simp] theorem Die.raiseVector_dword (d : Die) (v : Nat) (x : Nat) : (d.raiseVector v).dword x = d.dword x := by
  simp [Die.dword]

@[simp] theorem Die.raiseVector_get (d : Die) (v : Nat) (f0 : Fld) (i0 j0 k0 : Nat) : (d.raiseVector v).get f0 i0 j0 k0 = d.get f0 i0 j0 k0 := by
  simp [Die.get, Die.rd]

/-! ### raise -/

@[simp] theorem Die.raise_latch (d : Die) (q : Irq) (i g : Nat) : (d.raise q i g).latch = d.latch := by
  unfold Die.raise; dsimp only; split <;> simp

@[simp] theorem Die.raise_fresh (d : Die) (q : Irq) (i g : Nat) : (d.raise q i g).fresh = d.fresh := by
  unfold Die.raise; dsimp only; split <;> simp

@[simp] theorem Die.raise_err (d : Die) (q : Irq) (i g : Nat) : (d.raise q i g).err = d.err := by
  unfold Die.raise; dsimp only; split <;> simp

@[simp] theorem Die.raise_tick (d : Die) (q : Irq) (i g : Nat) : (d.raise q i g).tick = d.tick := by
  unfold Die.raise; dsimp only; split <;> simp

@[simp] theorem Die.raise_cave (d : Die) (q : Irq) (i g : Nat) : (d.raise q i g).cave = d.cave := by
  unfold Die.raise; dsimp only; split <;> simp

@[simp] theorem Die.raise_wake (d : Die) (q : Irq) (i g : Nat) : (d.raise q i g).wake = d.wake := by
  unfold Die.raise; dsimp only; split <;> simp

@[simp] theorem Die.raise_ports (d : Die) (q : Irq) (i g : Nat) : (d.raise q i g).ports = d.ports := by
  unfold Die.raise; dsimp only; split <;> simp

@[simp] theorem Die.raise_casc (d : Die) (q : Irq) (i g : Nat) : (d.raise q i g).casc = d.casc := by
  unfold Die.raise; dsimp only; split <;> simp

@[simp] theorem Die.raise_disc (d : Die) (q : Irq) (i g : Nat) : (d.raise q i g).disc = d.disc := by
  unfold Die.raise; dsimp only; split <;> simp

@[simp] theorem Die.raise_sw (d : Die) (q : Irq) (i g : Nat) : (d.raise q i g).sw = d.sw := by
  unfold Die.raise; dsimp only; split <;> simp

@[simp] theorem Die.raise_harp (d : Die) (q : Irq) (i g : Nat) : (d.raise q i g).harp = d.harp := by
  unfold Die.raise; dsimp only; split <;> simp

@[simp] theorem Die.raise_dlv (d : Die) (q : Irq) (i g : Nat) : (d.raise q i g).dlv = d.dlv := by
  unfold Die.raise; dsimp only; split <;> simp

@[simp] theorem Die.raise_ten (d : Die) (q : Irq) (i g : Nat) : (d.raise q i g).ten = d.ten := by
  unfold Die.raise; dsimp only; split <;> simp

@[simp] theorem Die.raise_hoops (d : Die) (q : Irq) (i g : Nat) : (d.raise q i g).hoops = d.hoops := by
  unfold Die.raise; dsimp only; split <;> simp

@[simp] theorem Die.raise_withholding (d : Die) (q : Irq) (i g : Nat) : (d.raise q i g).withholding = d.withholding := by
  unfold Die.raise; dsimp only; split <;> simp

@[simp] theorem Die.raise_vats (d : Die) (q : Irq) (i g : Nat) : (d.raise q i g).vats = d.vats := by
  unfold Die.raise; dsimp only; split <;> simp

@[simp] theorem Die.raise_plans (d : Die) (q : Irq) (i g : Nat) : (d.raise q i g).plans = d.plans := by
  unfold Die.raise; dsimp only; split <;> simp

@[simp] theorem Die.raise_coll (d : Die) (q : Irq) (i g : Nat) : (d.raise q i g).coll = d.coll := by
  unfold Die.raise; dsimp only; split <;> simp

@[simp] theorem Die.raise_det (d : Die) (q : Irq) (i g : Nat) : (d.raise q i g).det = d.det := by
  unfold Die.raise; dsimp only; split <;> simp

@[simp] theorem Die.raise_own (d : Die) (q : Irq) (i g : Nat) : (d.raise q i g).own = d.own := by
  unfold Die.raise; dsimp only; split <;> simp

@[simp] theorem Die.raise_sec (d : Die) (q : Irq) (i g : Nat) : (d.raise q i g).sec = d.sec := by
  unfold Die.raise; dsimp only; split <;> simp

@[simp] theorem Die.raise_host (d : Die) (q : Irq) (i g : Nat) : (d.raise q i g).host = d.host := by
  unfold Die.raise; dsimp only; split <;> simp

@[simp] theorem Die.raise_telem (d : Die) (q : Irq) (i g : Nat) : (d.raise q i g).telem = d.telem := by
  unfold Die.raise; dsimp only; split <;> simp

@[simp] theorem Die.raise_smb (d : Die) (q : Irq) (i g : Nat) : (d.raise q i g).smb = d.smb := by
  unfold Die.raise; dsimp only; split <;> simp

@[simp] theorem Die.raise_boot (d : Die) (q : Irq) (i g : Nat) : (d.raise q i g).boot = d.boot := by
  unfold Die.raise; dsimp only; split <;> simp

@[simp] theorem Die.raise_pwr (d : Die) (q : Irq) (i g : Nat) : (d.raise q i g).pwr = d.pwr := by
  unfold Die.raise; dsimp only; split <;> simp

@[simp] theorem Die.raise_returned (d : Die) (q : Irq) (i g : Nat) : (d.raise q i g).returned = d.returned := by
  unfold Die.raise; dsimp only; split <;> simp

@[simp] theorem Die.raise_alive (d : Die) (q : Irq) (i g : Nat) : (d.raise q i g).alive = d.alive := by
  simp [Die.alive]

/-! ### accErr -/

@[simp] theorem Die.accErr_latch (d : Die) (t : PageType) (i : Nat) (c : Cls) (w : Bool) (a : Nat) (k : AccKind) : (d.accErr t i c w a k).latch = d.latch := by
  unfold Die.accErr; dsimp only; split <;> simp

@[simp] theorem Die.accErr_fresh (d : Die) (t : PageType) (i : Nat) (c : Cls) (w : Bool) (a : Nat) (k : AccKind) : (d.accErr t i c w a k).fresh = d.fresh := by
  unfold Die.accErr; dsimp only; split <;> simp

@[simp] theorem Die.accErr_err (d : Die) (t : PageType) (i : Nat) (c : Cls) (w : Bool) (a : Nat) (k : AccKind) : (d.accErr t i c w a k).err = d.err := by
  unfold Die.accErr; dsimp only; split <;> simp

@[simp] theorem Die.accErr_tick (d : Die) (t : PageType) (i : Nat) (c : Cls) (w : Bool) (a : Nat) (k : AccKind) : (d.accErr t i c w a k).tick = d.tick := by
  unfold Die.accErr; dsimp only; split <;> simp

@[simp] theorem Die.accErr_cave (d : Die) (t : PageType) (i : Nat) (c : Cls) (w : Bool) (a : Nat) (k : AccKind) : (d.accErr t i c w a k).cave = d.cave := by
  unfold Die.accErr; dsimp only; split <;> simp

@[simp] theorem Die.accErr_wake (d : Die) (t : PageType) (i : Nat) (c : Cls) (w : Bool) (a : Nat) (k : AccKind) : (d.accErr t i c w a k).wake = d.wake := by
  unfold Die.accErr; dsimp only; split <;> simp

@[simp] theorem Die.accErr_ports (d : Die) (t : PageType) (i : Nat) (c : Cls) (w : Bool) (a : Nat) (k : AccKind) : (d.accErr t i c w a k).ports = d.ports := by
  unfold Die.accErr; dsimp only; split <;> simp

@[simp] theorem Die.accErr_casc (d : Die) (t : PageType) (i : Nat) (c : Cls) (w : Bool) (a : Nat) (k : AccKind) : (d.accErr t i c w a k).casc = d.casc := by
  unfold Die.accErr; dsimp only; split <;> simp

@[simp] theorem Die.accErr_disc (d : Die) (t : PageType) (i : Nat) (c : Cls) (w : Bool) (a : Nat) (k : AccKind) : (d.accErr t i c w a k).disc = d.disc := by
  unfold Die.accErr; dsimp only; split <;> simp

@[simp] theorem Die.accErr_sw (d : Die) (t : PageType) (i : Nat) (c : Cls) (w : Bool) (a : Nat) (k : AccKind) : (d.accErr t i c w a k).sw = d.sw := by
  unfold Die.accErr; dsimp only; split <;> simp

@[simp] theorem Die.accErr_harp (d : Die) (t : PageType) (i : Nat) (c : Cls) (w : Bool) (a : Nat) (k : AccKind) : (d.accErr t i c w a k).harp = d.harp := by
  unfold Die.accErr; dsimp only; split <;> simp

@[simp] theorem Die.accErr_dlv (d : Die) (t : PageType) (i : Nat) (c : Cls) (w : Bool) (a : Nat) (k : AccKind) : (d.accErr t i c w a k).dlv = d.dlv := by
  unfold Die.accErr; dsimp only; split <;> simp

@[simp] theorem Die.accErr_ten (d : Die) (t : PageType) (i : Nat) (c : Cls) (w : Bool) (a : Nat) (k : AccKind) : (d.accErr t i c w a k).ten = d.ten := by
  unfold Die.accErr; dsimp only; split <;> simp

@[simp] theorem Die.accErr_hoops (d : Die) (t : PageType) (i : Nat) (c : Cls) (w : Bool) (a : Nat) (k : AccKind) : (d.accErr t i c w a k).hoops = d.hoops := by
  unfold Die.accErr; dsimp only; split <;> simp

@[simp] theorem Die.accErr_withholding (d : Die) (t : PageType) (i : Nat) (c : Cls) (w : Bool) (a : Nat) (k : AccKind) : (d.accErr t i c w a k).withholding = d.withholding := by
  unfold Die.accErr; dsimp only; split <;> simp

@[simp] theorem Die.accErr_vats (d : Die) (t : PageType) (i : Nat) (c : Cls) (w : Bool) (a : Nat) (k : AccKind) : (d.accErr t i c w a k).vats = d.vats := by
  unfold Die.accErr; dsimp only; split <;> simp

@[simp] theorem Die.accErr_plans (d : Die) (t : PageType) (i : Nat) (c : Cls) (w : Bool) (a : Nat) (k : AccKind) : (d.accErr t i c w a k).plans = d.plans := by
  unfold Die.accErr; dsimp only; split <;> simp

@[simp] theorem Die.accErr_coll (d : Die) (t : PageType) (i : Nat) (c : Cls) (w : Bool) (a : Nat) (k : AccKind) : (d.accErr t i c w a k).coll = d.coll := by
  unfold Die.accErr; dsimp only; split <;> simp

@[simp] theorem Die.accErr_det (d : Die) (t : PageType) (i : Nat) (c : Cls) (w : Bool) (a : Nat) (k : AccKind) : (d.accErr t i c w a k).det = d.det := by
  unfold Die.accErr; dsimp only; split <;> simp

@[simp] theorem Die.accErr_own (d : Die) (t : PageType) (i : Nat) (c : Cls) (w : Bool) (a : Nat) (k : AccKind) : (d.accErr t i c w a k).own = d.own := by
  unfold Die.accErr; dsimp only; split <;> simp

@[simp] theorem Die.accErr_sec (d : Die) (t : PageType) (i : Nat) (c : Cls) (w : Bool) (a : Nat) (k : AccKind) : (d.accErr t i c w a k).sec = d.sec := by
  unfold Die.accErr; dsimp only; split <;> simp

@[simp] theorem Die.accErr_host (d : Die) (t : PageType) (i : Nat) (c : Cls) (w : Bool) (a : Nat) (k : AccKind) : (d.accErr t i c w a k).host = d.host := by
  unfold Die.accErr; dsimp only; split <;> simp

@[simp] theorem Die.accErr_smb (d : Die) (t : PageType) (i : Nat) (c : Cls) (w : Bool) (a : Nat) (k : AccKind) : (d.accErr t i c w a k).smb = d.smb := by
  unfold Die.accErr; dsimp only; split <;> simp

@[simp] theorem Die.accErr_boot (d : Die) (t : PageType) (i : Nat) (c : Cls) (w : Bool) (a : Nat) (k : AccKind) : (d.accErr t i c w a k).boot = d.boot := by
  unfold Die.accErr; dsimp only; split <;> simp

@[simp] theorem Die.accErr_pwr (d : Die) (t : PageType) (i : Nat) (c : Cls) (w : Bool) (a : Nat) (k : AccKind) : (d.accErr t i c w a k).pwr = d.pwr := by
  unfold Die.accErr; dsimp only; split <;> simp

@[simp] theorem Die.accErr_returned (d : Die) (t : PageType) (i : Nat) (c : Cls) (w : Bool) (a : Nat) (k : AccKind) : (d.accErr t i c w a k).returned = d.returned := by
  unfold Die.accErr; dsimp only; split <;> simp

@[simp] theorem Die.accErr_alive (d : Die) (t : PageType) (i : Nat) (c : Cls) (w : Bool) (a : Nat) (k : AccKind) : (d.accErr t i c w a k).alive = d.alive := by
  simp [Die.alive]

/-! ### refuse -/

@[simp] theorem Die.refuse_latch (d : Die) (t : PageType) (i : Nat) (c : Cls) (o : Nat) : (d.refuse t i c o).latch = d.latch := by
  simp [Die.refuse]

@[simp] theorem Die.refuse_fresh (d : Die) (t : PageType) (i : Nat) (c : Cls) (o : Nat) : (d.refuse t i c o).fresh = d.fresh := by
  simp [Die.refuse]

@[simp] theorem Die.refuse_err (d : Die) (t : PageType) (i : Nat) (c : Cls) (o : Nat) : (d.refuse t i c o).err = d.err := by
  simp [Die.refuse]

@[simp] theorem Die.refuse_tick (d : Die) (t : PageType) (i : Nat) (c : Cls) (o : Nat) : (d.refuse t i c o).tick = d.tick := by
  simp [Die.refuse]

@[simp] theorem Die.refuse_cave (d : Die) (t : PageType) (i : Nat) (c : Cls) (o : Nat) : (d.refuse t i c o).cave = d.cave := by
  simp [Die.refuse]

@[simp] theorem Die.refuse_wake (d : Die) (t : PageType) (i : Nat) (c : Cls) (o : Nat) : (d.refuse t i c o).wake = d.wake := by
  simp [Die.refuse]

@[simp] theorem Die.refuse_ports (d : Die) (t : PageType) (i : Nat) (c : Cls) (o : Nat) : (d.refuse t i c o).ports = d.ports := by
  simp [Die.refuse]

@[simp] theorem Die.refuse_casc (d : Die) (t : PageType) (i : Nat) (c : Cls) (o : Nat) : (d.refuse t i c o).casc = d.casc := by
  simp [Die.refuse]

@[simp] theorem Die.refuse_disc (d : Die) (t : PageType) (i : Nat) (c : Cls) (o : Nat) : (d.refuse t i c o).disc = d.disc := by
  simp [Die.refuse]

@[simp] theorem Die.refuse_sw (d : Die) (t : PageType) (i : Nat) (c : Cls) (o : Nat) : (d.refuse t i c o).sw = d.sw := by
  simp [Die.refuse]

@[simp] theorem Die.refuse_harp (d : Die) (t : PageType) (i : Nat) (c : Cls) (o : Nat) : (d.refuse t i c o).harp = d.harp := by
  simp [Die.refuse]

@[simp] theorem Die.refuse_dlv (d : Die) (t : PageType) (i : Nat) (c : Cls) (o : Nat) : (d.refuse t i c o).dlv = d.dlv := by
  simp [Die.refuse]

@[simp] theorem Die.refuse_ten (d : Die) (t : PageType) (i : Nat) (c : Cls) (o : Nat) : (d.refuse t i c o).ten = d.ten := by
  simp [Die.refuse]

@[simp] theorem Die.refuse_hoops (d : Die) (t : PageType) (i : Nat) (c : Cls) (o : Nat) : (d.refuse t i c o).hoops = d.hoops := by
  simp [Die.refuse]

@[simp] theorem Die.refuse_withholding (d : Die) (t : PageType) (i : Nat) (c : Cls) (o : Nat) : (d.refuse t i c o).withholding = d.withholding := by
  simp [Die.refuse]

@[simp] theorem Die.refuse_vats (d : Die) (t : PageType) (i : Nat) (c : Cls) (o : Nat) : (d.refuse t i c o).vats = d.vats := by
  simp [Die.refuse]

@[simp] theorem Die.refuse_plans (d : Die) (t : PageType) (i : Nat) (c : Cls) (o : Nat) : (d.refuse t i c o).plans = d.plans := by
  simp [Die.refuse]

@[simp] theorem Die.refuse_coll (d : Die) (t : PageType) (i : Nat) (c : Cls) (o : Nat) : (d.refuse t i c o).coll = d.coll := by
  simp [Die.refuse]

@[simp] theorem Die.refuse_det (d : Die) (t : PageType) (i : Nat) (c : Cls) (o : Nat) : (d.refuse t i c o).det = d.det := by
  simp [Die.refuse]

@[simp] theorem Die.refuse_own (d : Die) (t : PageType) (i : Nat) (c : Cls) (o : Nat) : (d.refuse t i c o).own = d.own := by
  simp [Die.refuse]

@[simp] theorem Die.refuse_sec (d : Die) (t : PageType) (i : Nat) (c : Cls) (o : Nat) : (d.refuse t i c o).sec = d.sec := by
  simp [Die.refuse]

@[simp] theorem Die.refuse_host (d : Die) (t : PageType) (i : Nat) (c : Cls) (o : Nat) : (d.refuse t i c o).host = d.host := by
  simp [Die.refuse]

@[simp] theorem Die.refuse_smb (d : Die) (t : PageType) (i : Nat) (c : Cls) (o : Nat) : (d.refuse t i c o).smb = d.smb := by
  simp [Die.refuse]

@[simp] theorem Die.refuse_boot (d : Die) (t : PageType) (i : Nat) (c : Cls) (o : Nat) : (d.refuse t i c o).boot = d.boot := by
  simp [Die.refuse]

@[simp] theorem Die.refuse_pwr (d : Die) (t : PageType) (i : Nat) (c : Cls) (o : Nat) : (d.refuse t i c o).pwr = d.pwr := by
  simp [Die.refuse]

@[simp] theorem Die.refuse_returned (d : Die) (t : PageType) (i : Nat) (c : Cls) (o : Nat) : (d.refuse t i c o).returned = d.returned := by
  simp [Die.refuse]

@[simp] theorem Die.refuse_alive (d : Die) (t : PageType) (i : Nat) (c : Cls) (o : Nat) : (d.refuse t i c o).alive = d.alive := by
  simp [Die.alive]

end Sys2Proof.Machine
end

