-- ==== Sys2Proof/Laws/Regs.lean ====
section
/-!
SUPPORT. Laws/Regs.lean: a register field read after a write: its own value, and every field apart from it unchanged.
-/
namespace Sys2Proof.Machine

/-- A field of a dword is a number of its width. -/
theorem fieldGet_lt (w : Word) (l n : Nat) : fieldGet w l n < 2 ^ n := Nat.mod_lt _ (Nat.two_pow_pos n)

theorem fieldGet_bit (w : Word) (l n i : Nat) : (fieldGet w l n).testBit i = (decide (i < n) && w.toNat.testBit (l + i)) := by
  simp [fieldGet, Nat.testBit_mod_two_pow, Nat.testBit_div_two_pow, Nat.add_comm]

/-- A number split at a field: what lies below, the field and what lies above. -/
theorem nat_split (x l n : Nat) : x = x / 2 ^ (l + n) * 2 ^ (l + n) + x / 2 ^ l % 2 ^ n * 2 ^ l + x % 2 ^ l := by
  have h1 : x / 2 ^ (l + n) = x / 2 ^ l / 2 ^ n := by rw [pow_add, Nat.div_div_eq_div_mul]
  have h2 := Nat.div_add_mod x (2 ^ l)
  have h3 := Nat.div_add_mod (x / 2 ^ l) (2 ^ n)
  rw [h1, pow_add]
  generalize x / 2 ^ l / 2 ^ n = a at *
  generalize x / 2 ^ l % 2 ^ n = b at *
  generalize x % 2 ^ l = c at *
  rw [← h2, ← h3]
  ring

/-- What a write of a field makes of the dword, as a number. -/
theorem fieldSet_toNat (w : Word) (l n v : Nat) (h : l + n ≤ 32) :
    (fieldSet w l n v).toNat = w.toNat / 2 ^ (l + n) * 2 ^ (l + n) + v % 2 ^ n * 2 ^ l + w.toNat % 2 ^ l := by
  have hs := nat_split w.toNat l n
  have hw : w.toNat < 2 ^ 32 := w.isLt
  have e : w.toNat - fieldGet w l n * 2 ^ l + v % 2 ^ n * 2 ^ l
      = w.toNat / 2 ^ (l + n) * 2 ^ (l + n) + v % 2 ^ n * 2 ^ l + w.toNat % 2 ^ l := by
    have : fieldGet w l n = w.toNat / 2 ^ l % 2 ^ n := rfl
    rw [this]; omega
  rw [fieldSet, BitVec.toNat_ofNat, e]
  apply Nat.mod_eq_of_lt
  have hv : v % 2 ^ n * 2 ^ l + w.toNat % 2 ^ l < 2 ^ (l + n) := by
    have h1 : v % 2 ^ n < 2 ^ n := Nat.mod_lt _ (Nat.two_pow_pos n)
    have h2 : w.toNat % 2 ^ l < 2 ^ l := Nat.mod_lt _ (Nat.two_pow_pos l)
    calc v % 2 ^ n * 2 ^ l + w.toNat % 2 ^ l < v % 2 ^ n * 2 ^ l + 2 ^ l := by omega
      _ = (v % 2 ^ n + 1) * 2 ^ l := by ring
      _ ≤ 2 ^ n * 2 ^ l := Nat.mul_le_mul_right _ h1
      _ = 2 ^ (l + n) := by rw [pow_add, Nat.mul_comm]
  have hq : w.toNat / 2 ^ (l + n) < 2 ^ (32 - (l + n)) := by
    apply Nat.div_lt_of_lt_mul
    rw [← pow_add]
    rwa [show l + n + (32 - (l + n)) = 32 by omega]
  calc w.toNat / 2 ^ (l + n) * 2 ^ (l + n) + v % 2 ^ n * 2 ^ l + w.toNat % 2 ^ l
      < w.toNat / 2 ^ (l + n) * 2 ^ (l + n) + 2 ^ (l + n) := by omega
    _ = (w.toNat / 2 ^ (l + n) + 1) * 2 ^ (l + n) := by ring
    _ ≤ 2 ^ (32 - (l + n)) * 2 ^ (l + n) := Nat.mul_le_mul_right _ hq
    _ = 2 ^ 32 := by rw [← pow_add]; congr 1; omega

/-- The bits of a dword after a write of a field. -/
theorem fieldSet_bit (w : Word) (l n v i : Nat) (h : l + n ≤ 32) :
    (fieldSet w l n v).toNat.testBit i
      = if l ≤ i ∧ i < l + n then v.testBit (i - l) else w.toNat.testBit i := by
  rw [fieldSet_toNat w l n v h]
  have h1 : v % 2 ^ n * 2 ^ l + w.toNat % 2 ^ l < 2 ^ (l + n) := by
    have h1 : v % 2 ^ n < 2 ^ n := Nat.mod_lt _ (Nat.two_pow_pos n)
    have h2 : w.toNat % 2 ^ l < 2 ^ l := Nat.mod_lt _ (Nat.two_pow_pos l)
    calc v % 2 ^ n * 2 ^ l + w.toNat % 2 ^ l < v % 2 ^ n * 2 ^ l + 2 ^ l := by omega
      _ = (v % 2 ^ n + 1) * 2 ^ l := by ring
      _ ≤ 2 ^ n * 2 ^ l := Nat.mul_le_mul_right _ h1
      _ = 2 ^ (l + n) := by rw [pow_add, Nat.mul_comm]
  rw [show w.toNat / 2 ^ (l + n) * 2 ^ (l + n) + v % 2 ^ n * 2 ^ l + w.toNat % 2 ^ l
      = 2 ^ (l + n) * (w.toNat / 2 ^ (l + n)) + (2 ^ l * (v % 2 ^ n) + w.toNat % 2 ^ l) by ring]
  have h2 : w.toNat % 2 ^ l < 2 ^ l := Nat.mod_lt _ (Nat.two_pow_pos l)
  have h3 : 2 ^ l * (v % 2 ^ n) + w.toNat % 2 ^ l < 2 ^ (l + n) := by rw [Nat.mul_comm]; exact h1
  rw [Nat.testBit_two_pow_mul_add _ h3, Nat.testBit_two_pow_mul_add _ h2]
  by_cases a : i < l + n
  · by_cases b : i < l
    · simp [a, b, Nat.testBit_mod_two_pow, Nat.not_le.2 b]
    · have : i - l < n := by omega
      simp [a, b, Nat.testBit_mod_two_pow, Nat.not_lt.1 b, this]
  · have : ¬ (l ≤ i ∧ i < l + n) := fun h => a h.2
    simp [a, Nat.testBit_div_two_pow, Nat.sub_add_cancel (Nat.not_lt.1 a)]

/-- A field reads the value written, cut to its width. -/
theorem fieldGet_fieldSet (w : Word) (l n v : Nat) (h : l + n ≤ 32) : fieldGet (fieldSet w l n v) l n = v % 2 ^ n := by
  apply Nat.eq_of_testBit_eq
  intro i
  rw [fieldGet_bit, fieldSet_bit w l n v _ h, Nat.testBit_mod_two_pow]
  by_cases hi : i < n
  · simp [hi]
  · simp [hi]

/-- A field apart from the one written keeps its value. -/
theorem fieldGet_fieldSet_apart (w : Word) (l n v k m : Nat) (h : l + n ≤ 32) (a : l + n ≤ k ∨ k + m ≤ l) :
    fieldGet (fieldSet w l n v) k m = fieldGet w k m := by
  apply Nat.eq_of_testBit_eq
  intro i
  rw [fieldGet_bit, fieldGet_bit, fieldSet_bit w l n v _ h]
  by_cases hi : i < m
  · have : ¬ (l ≤ k + i ∧ k + i < l + n) := by omega
    simp [this]
  · simp [hi]

/-! ### The register file -/

theorem Die.dword_setDword (d : Die) (a b : Nat) (w : Word) : (d.setDword a w).dword b = if b = a then w else d.dword b :=
  smapGet_set_at regReset d.regs a b w

@[simp] theorem Die.dword_setDword_self (d : Die) (a : Nat) (w : Word) : (d.setDword a w).dword a = w := by
  simp [Die.dword_setDword]

/-- Two located fields share no bit. -/
def Loc.apart (l m : Loc) : Prop := l.addr ≠ m.addr ∨ l.lsb + l.width ≤ m.lsb ∨ m.lsb + m.width ≤ l.lsb

/-- A located field reads the value written, cut to its width. -/
theorem Die.rd_wr (d : Die) (l : Loc) (v : Nat) (h : l.lsb + l.width ≤ 32) : (d.wr l v).rd l = v % 2 ^ l.width := by
  simp [Die.rd, Die.wr, fieldGet_fieldSet _ _ _ _ h]

/-- A located field apart from the one written keeps its value. -/
theorem Die.rd_wr_apart (d : Die) (l m : Loc) (v : Nat) (h : l.lsb + l.width ≤ 32) (a : l.apart m) : (d.wr l v).rd m = d.rd m := by
  unfold Die.rd Die.wr
  rw [Die.dword_setDword]
  split
  · rename_i e
    rw [e]
    rcases a with a | a
    · exact absurd e.symm a
    · exact fieldGet_fieldSet_apart _ _ _ _ _ _ h a
  · rfl

/-- A field reads the value written, cut to its width. -/
theorem Die.get_set (d : Die) (f : Fld) (v i j k : Nat) (h : f.lsb + f.fstep * k + f.width ≤ 32) :
    (d.set f v i j k).get f i j k = v % 2 ^ f.width := Die.rd_wr d (f.loc i j k) v h

/-- A field apart from the one written keeps its value. -/
theorem Die.get_set_apart (d : Die) (f g : Fld) (v i j k i' j' k' : Nat) (h : f.lsb + f.fstep * k + f.width ≤ 32)
    (a : (f.loc i j k).apart (g.loc i' j' k')) : (d.set f v i j k).get g i' j' k' = d.get g i' j' k' :=
  Die.rd_wr_apart d (f.loc i j k) (g.loc i' j' k') v h a

/-- A one-bit field reads as the truth value written. -/
theorem Die.bit_setBit (d : Die) (f : Fld) (b : Bool) (i j k : Nat) (h : f.lsb + f.fstep * k + f.width ≤ 32) (w : f.width = 1) :
    (d.setBit f b i j k).bit f i j k = b := by
  unfold Die.bit Die.setBit
  rw [Die.get_set d f _ i j k h, w]
  cases b <;> rfl

/-- The write of a field leaves every other dword. -/
theorem Die.dword_set (d : Die) (f : Fld) (v i j k a : Nat) (h : a ≠ (f.loc i j k).addr) : (d.set f v i j k).dword a = d.dword a := by
  unfold Die.set Die.wr
  rw [Die.dword_setDword, if_neg h]

/-- A field is below two to its width. -/
theorem Die.get_lt (d : Die) (f : Fld) (i j k : Nat) : d.get f i j k < 2 ^ f.width := fieldGet_lt _ _ _

/-- A counter after one more: it goes up, and stays at all ones (see `Die.bump`). -/
theorem Die.get_bump (d : Die) (f : Fld) (i j n : Nat) (h : f.lsb + f.width ≤ 32) :
    (d.bump f i j n).get f i j = min (d.get f i j + n) (2 ^ f.width - 1) := by
  unfold Die.bump
  dsimp only
  rw [Die.get_set _ _ _ _ _ _ (by simpa using h), Die.tbump_get]
  apply Nat.mod_eq_of_lt
  have := Nat.two_pow_pos f.width
  omega

/-- A counter's raise leaves every field apart from it. -/
theorem Die.get_bump_apart (d : Die) (f g : Fld) (i j n i' j' k' : Nat) (h : f.lsb + f.width ≤ 32)
    (a : (f.loc i j).apart (g.loc i' j' k')) : (d.bump f i j n).get g i' j' k' = d.get g i' j' k' := by
  unfold Die.bump
  dsimp only
  rw [Die.get_set_apart _ _ _ _ _ _ _ _ _ _ (by simpa using h) a, Die.tbump_get]

/-- A cause sets one bit of its page's PAGE_IRQ_STAT and leaves every other dword (R966). -/
theorem Die.dword_raise (d : Die) (q : Irq) (i g a : Nat) :
    (d.raise q i g).dword a = if a = hdrAddr q.page i 0x20 then d.dword a ||| BitVec.ofNat 32 (2 ^ q.bit) else d.dword a := by
  have hv : ∀ (e : Die) (v : Nat), (e.raiseVector v).dword a = e.dword a := fun e v => Die.raiseVector_dword e v a
  unfold Die.raise
  dsimp only
  split
  · rw [hv, Die.dword_setDword]; split <;> simp_all
  · rw [Die.dword_setDword]; split <;> simp_all

end Sys2Proof.Machine
end

