-- ==== Sys2Proof/Laws/Reach.lean ====
section
/-!
SUPPORT. Laws/Reach.lean: how far the named operations reach, so that a command's frame is put together from its parts.
-/
namespace Sys2Proof.Machine

/-- A field read from the dword that holds it. -/
theorem Die.get_addr (d : Die) (f : Fld) (i j k : Nat) : d.get f i j k = fieldGet (d.dword (f.addrOf i j)) (f.lsb + f.fstep * k) f.width := rfl

/-! ### Completion -/

/-- A command whose meaning is `act f` completes on a die that runs, with `f`'s die. -/
theorem completes_of_act (i : Instr) (s : State) (f : Die → Die) (P : Die → Prop) (h : exec i s = act s f) (ha : s.die.alive = true)
    (hp : P (f s.die)) : Completes i s P := ⟨f s.die, by rw [h, act_alive s f ha]; rfl, hp⟩

/-- A command served by a page in service completes with the effect of its write. -/
theorem completes_of_page (i : Instr) (s : State) (c : Cls) (t : PageType) (n : Nat) (f : Die → Die) (P : Die → Prop)
    (h : exec i s = act s (fun d => d.onPage c t n f)) (hs : Serves s t n) (hp : P (f s.die)) : Completes i s P :=
  completes_of_act i s _ P h hs.1 (by rw [Die.onPage_served _ _ _ _ _ hs.2]; exact hp)

/-! ### Units -/

theorem KeepsUnits.refl (d : Die) : KeepsUnits d d := by constructor <;> rfl

theorem KeepsUnits.trans {d e f : Die} (h : KeepsUnits d e) (k : KeepsUnits e f) : KeepsUnits d f :=
  ⟨k.latch.trans h.latch, k.tick.trans h.tick, k.ports.trans h.ports, k.casc.trans h.casc, k.disc.trans h.disc, k.sw.trans h.sw, k.harp.trans h.harp, k.dlv.trans h.dlv, k.ten.trans h.ten, k.hoops.trans h.hoops, k.withholding.trans h.withholding, k.vats.trans h.vats, k.plans.trans h.plans, k.coll.trans h.coll, k.det.trans h.det, k.own.trans h.own, k.sec.trans h.sec, k.host.trans h.host, k.smb.trans h.smb, k.boot.trans h.boot, k.pwr.trans h.pwr, k.returned.trans h.returned⟩

theorem KeepsUnits.setDword (d : Die) (a : Nat) (w : Word) : KeepsUnits d (d.setDword a w) := by constructor <;> rfl

theorem KeepsUnits.set (d : Die) (f : Fld) (v i j k : Nat) : KeepsUnits d (d.set f v i j k) := KeepsUnits.setDword d _ _

theorem KeepsUnits.bump (d : Die) (f : Fld) (i j n : Nat) : KeepsUnits d (d.bump f i j n) := by constructor <;> simp

theorem KeepsUnits.raise (d : Die) (q : Irq) (i g : Nat) : KeepsUnits d (d.raise q i g) := by constructor <;> simp

/-! ### Registers only -/

theorem OnlyRegs.refl (d : Die) (as : List Nat) : OnlyRegs d d as := ⟨KeepsUnits.refl d, rfl, rfl, rfl, rfl, rfl, rfl, rfl, fun _ _ => rfl⟩

theorem OnlyRegs.trans {d e f : Die} {as bs : List Nat} (h : OnlyRegs d e as) (k : OnlyRegs e f bs) : OnlyRegs d f (as ++ bs) :=
  ⟨h.units.trans k.units, k.fresh.trans h.fresh, k.err.trans h.err, k.wake.trans h.wake, k.cave.trans h.cave, k.telem.trans h.telem,
    k.msix.trans h.msix, k.out.trans h.out, fun a ha => by
      simp only [List.mem_append, not_or] at ha
      rw [k.regs a ha.2, h.regs a ha.1]⟩

theorem OnlyRegs.mono {d e : Die} {as bs : List Nat} (h : OnlyRegs d e as) (k : as ⊆ bs) : OnlyRegs d e bs :=
  { h with regs := fun a ha => h.regs a (fun hm => ha (k hm)) }

theorem OnlyRegs.set (d : Die) (f : Fld) (v i j k : Nat) : OnlyRegs d (d.set f v i j k) [f.addrOf i j] :=
  ⟨KeepsUnits.set d f v i j k, rfl, rfl, rfl, rfl, rfl, rfl, rfl,
    fun a ha => Die.dword_set d f v i j k a (by simpa [Fld.addrOf, Fld.loc] using ha)⟩

theorem OnlyRegs.setBit (d : Die) (f : Fld) (b : Bool) (i j k : Nat) : OnlyRegs d (d.setBit f b i j k) [f.addrOf i j] := OnlyRegs.set d f _ i j k

/-- A field outside the dwords listed keeps its value. -/
theorem OnlyRegs.get {d e : Die} {as : List Nat} (h : OnlyRegs d e as) (f : Fld) (a b c : Nat) (k : f.addrOf a b ∉ as) :
    e.get f a b c = d.get f a b c := by
  rw [Die.get_addr, h.regs _ k]
  rfl

/-! ### Reports -/

theorem OnlyReports.refl (d : Die) (as : List Nat) : OnlyReports d d as :=
  ⟨KeepsUnits.refl d, rfl, rfl, rfl, rfl, rfl, List.prefix_refl _, fun _ _ => rfl⟩

theorem OnlyReports.trans {d e f : Die} {as bs : List Nat} (h : OnlyReports d e as) (k : OnlyReports e f bs) : OnlyReports d f (as ++ bs) :=
  ⟨h.units.trans k.units, k.fresh.trans h.fresh, k.err.trans h.err, k.wake.trans h.wake, k.cave.trans h.cave,
    by rw [k.telem, h.telem], h.out.trans k.out, fun a ha => by
      simp only [List.mem_append, not_or] at ha
      rw [k.regs a ha.2, h.regs a ha.1]⟩

theorem OnlyReports.mono {d e : Die} {as bs : List Nat} (h : OnlyReports d e as) (k : as ⊆ bs) : OnlyReports d e bs :=
  { h with regs := fun a ha => h.regs a (fun hm => ha (k hm)) }

theorem OnlyRegs.reports {d e : Die} {as : List Nat} (h : OnlyRegs d e as) : OnlyReports d e as :=
  ⟨h.units, h.fresh, h.err, h.wake, h.cave, by rw [h.telem], by rw [h.out], h.regs⟩

theorem OnlyReports.emit (d : Die) (o : Out) : OnlyReports d (d.emit o) [] :=
  ⟨by constructor <;> rfl, rfl, rfl, rfl, rfl, rfl, List.prefix_append _ _, fun _ _ => rfl⟩

theorem OnlyReports.bump (d : Die) (f : Fld) (i j n : Nat) : OnlyReports d (d.bump f i j n) [f.addrOf i j] := by
  refine ⟨KeepsUnits.bump d f i j n, by simp, by simp, by simp, by simp, ?_, by simp, fun a ha => ?_⟩
  · have : (d.bump f i j n).telem = (d.tbump f i n).telem := rfl
    rw [this]
    unfold Die.tbump
    split <;> rfl
  · unfold Die.bump
    dsimp only
    rw [Die.dword_set _ _ _ _ _ _ _ (by simpa [Fld.addrOf, Fld.loc] using ha), Die.tbump_dword]

theorem Die.raiseVector_out (d : Die) (v : Nat) : d.out <+: (d.raiseVector v).out := by
  unfold Die.raiseVector
  split
  · exact List.prefix_append _ _
  · split
    · exact List.prefix_refl _
    · split
      · exact List.prefix_refl _
      · dsimp only; split
        · exact List.prefix_append _ _
        · exact List.prefix_append _ _

theorem Die.raise_out (d : Die) (q : Irq) (i g : Nat) : d.out <+: (d.raise q i g).out := by
  unfold Die.raise
  dsimp only
  split
  · exact Die.raiseVector_out (d.setDword _ _) _
  · exact List.prefix_refl _

theorem OnlyReports.raise (d : Die) (q : Irq) (i g : Nat) : OnlyReports d (d.raise q i g) [q.addrOf i] :=
  ⟨KeepsUnits.raise d q i g, by simp, by simp, by simp, by simp, by simp, Die.raise_out d q i g, fun a ha => by
    rw [Die.dword_raise, if_neg]
    simpa [Irq.addrOf] using ha⟩

/-- A cause that is raised is set (R966). -/
theorem Die.hasCause_raise (d : Die) (q : Irq) (i g : Nat) (h : q.bit < 32) : (d.raise q i g).hasCause q i = true := by
  unfold Die.hasCause
  rw [Die.dword_raise]
  simp only [Irq.addrOf, if_true, BitVec.getLsbD_or, Bool.or_eq_true]
  right
  rw [BitVec.getLsbD_ofNat]
  simp [h, Nat.testBit_two_pow_self]

/-- A cause whose dword is not listed keeps its state. -/
theorem OnlyReports.hasCause {d e : Die} {as : List Nat} (h : OnlyReports d e as) (q : Irq) (i : Nat) (k : q.addrOf i ∉ as) :
    e.hasCause q i = d.hasCause q i := by
  unfold Die.hasCause
  rw [h.regs _ k]

/-- A field away from a cause's dword keeps its value while the cause is raised. -/
theorem Die.get_raise (d : Die) (q : Irq) (i g : Nat) (f : Fld) (a b c : Nat) (h : f.addrOf a b ≠ q.addrOf i) :
    (d.raise q i g).get f a b c = d.get f a b c := by
  rw [Die.get_addr, Die.dword_raise, if_neg (by simpa [Irq.addrOf] using h)]
  rfl

/-- A field outside the dwords listed keeps its value. -/
theorem OnlyReports.get {d e : Die} {as : List Nat} (h : OnlyReports d e as) (f : Fld) (a b c : Nat) (k : f.addrOf a b ∉ as) :
    e.get f a b c = d.get f a b c := by
  rw [Die.get_addr, h.regs _ k]
  rfl

/-- An access error reaches its page's PAGE_STAT and the CHIP page's latch, counter and causes (R952). -/
theorem OnlyReports.accErr (d : Die) (t : PageType) (i : Nat) (c : Cls) (w : Bool) (a : Nat) (k : AccKind) :
    OnlyReports d (d.accErr t i c w a k) [R.hdrStatAccessErr.addrOf (pageIndex t i), R.chipAccCntCount.addrOf, R.chipAccKind.addrOf,
      R.chipAccAddrAddr.addrOf, I.chipAccess.addrOf] := by
  unfold Die.accErr
  extract_lets x
  have hx : OnlyReports d x ([R.hdrStatAccessErr.addrOf (pageIndex t i)] ++ [R.chipAccCntCount.addrOf]) :=
    (OnlyRegs.set d R.hdrStatAccessErr 1 (pageIndex t i) 0 0).reports.trans (OnlyReports.bump _ R.chipAccCntCount 0 0 1)
  clear_value x
  split
  · exact hx.mono (by simp)
  · have h1 := OnlyRegs.set x R.chipAccKind k.toNat 0 0 0
    have h2 := OnlyRegs.set (x.set R.chipAccKind k.toNat) R.chipAccClass (clsCode c) 0 0 0
    have h3 := OnlyRegs.setBit ((x.set R.chipAccKind k.toNat).set R.chipAccClass (clsCode c)) R.chipAccWrite w 0 0 0
    generalize ((x.set R.chipAccKind k.toNat).set R.chipAccClass (clsCode c)).setBit R.chipAccWrite w = y at h3 ⊢
    have h4 := OnlyRegs.setBit y R.chipAccValid true 0 0 0
    have h5 := OnlyRegs.set (y.setBit R.chipAccValid true) R.chipAccAddrAddr a 0 0 0
    have hy := (((h1.trans h2).trans h3).trans (h4.trans h5)).reports
    generalize (y.setBit R.chipAccValid true).set R.chipAccAddrAddr a = z at hy ⊢
    refine (hx.trans (hy.trans (OnlyReports.raise z I.chipAccess 0 0))).mono ?_
    intro b hb
    have e2 : R.chipAccClass.addrOf = R.chipAccKind.addrOf := rfl
    have e3 : R.chipAccWrite.addrOf = R.chipAccKind.addrOf := rfl
    have e4 : R.chipAccValid.addrOf = R.chipAccKind.addrOf := rfl
    simp only [e2, e3, e4, List.mem_append, List.mem_cons, List.not_mem_nil, or_false] at hb ⊢
    tauto

/-! ### Logs -/

theorem OnlyReports.logs {d e : Die} {as : List Nat} (h : OnlyReports d e as) : OnlyLogs d e as :=
  ⟨h.units, by rw [h.telem], fun _ => h.cave, h.out, fun a ha _ => h.regs a ha⟩

theorem OnlyLogs.refl (d : Die) (as : List Nat) : OnlyLogs d d as := (OnlyReports.refl d as).logs

theorem OnlyLogs.mono {d e : Die} {as bs : List Nat} (h : OnlyLogs d e as) (k : as ⊆ bs) : OnlyLogs d e bs :=
  { h with regs := fun a ha => h.regs a (fun hm => ha (k hm)) }

theorem OnlyLogs.get {d e : Die} {as : List Nat} (h : OnlyLogs d e as) (f : Fld) (a b c : Nat) (k : f.addrOf a b ∉ as) (l : f.addrOf a b ∉ logAddrs) :
    e.get f a b c = d.get f a b c := by
  rw [Die.get_addr, h.regs _ k l]
  rfl

theorem OnlyLogs.trans {d e f : Die} {as bs : List Nat} (h : OnlyLogs d e as) (k : OnlyLogs e f bs) (m : R.errlogCfgMirror.addrOf ∉ as) :
    OnlyLogs d f (as ++ bs) :=
  have hm : e.get R.errlogCfgMirror = d.get R.errlogCfgMirror := h.get _ _ _ _ m (by decide)
  ⟨h.units.trans k.units, by rw [k.telem, h.telem], fun h0 => (k.cave (hm.trans h0)).trans (h.cave h0), h.out.trans k.out, fun a ha hl => by
    simp only [List.mem_append, not_or] at ha
    rw [k.regs a ha.2 hl, h.regs a ha.1 hl]⟩

theorem OnlyLogs.tr0 {d e f : Die} {as : List Nat} (h : OnlyLogs d e []) (k : OnlyLogs e f as) : OnlyLogs d f as := h.trans k (by simp)

theorem OnlyLogs.setErr (d : Die) (x : ErrSt) : OnlyLogs d { d with err := x } [] :=
  ⟨by constructor <;> rfl, rfl, fun _ => rfl, List.prefix_refl _, fun _ _ _ => rfl⟩

theorem OnlyLogs.setWake (d : Die) (x : WakeSt) : OnlyLogs d { d with wake := x } [] :=
  ⟨by constructor <;> rfl, rfl, fun _ => rfl, List.prefix_refl _, fun _ _ _ => rfl⟩

theorem OnlyLogs.used (d : Die) (n : Nat) : OnlyLogs d (d.used n) [] :=
  ⟨by constructor <;> rfl, rfl, fun _ => rfl, List.prefix_refl _, fun _ _ _ => rfl⟩

/-- Reports whose dwords are among those that a log may change. -/
theorem OnlyReports.among {d e : Die} {as : List Nat} (h : OnlyReports d e as) (k : ∀ a ∈ as, a ∈ logAddrs) : OnlyLogs d e [] :=
  { h.logs with regs := fun a _ ha => h.regs a (fun hm => ha (k a hm)) }

/-- Only the registers, what leaves the die and the host link's wake state change at a wake cause (R858). -/
theorem OnlyLogs.wakeCause (d : Die) (n : Nat) : OnlyLogs d (d.wakeCause n) [] := by
  unfold Die.wakeCause
  split
  · extract_lets x on w y
    have hx : OnlyLogs d x [] := (OnlyRegs.set d R.pwrWakeCauseCause _ 0 0 0).reports.among (by decide)
    have hy : OnlyLogs x y [] := OnlyLogs.setWake x _
    clear_value y w on x
    split
    · exact hx
    · split
      · exact hx.tr0 (hy.tr0 (OnlyReports.emit y _).logs)
      · exact hx.tr0 hy
  · exact OnlyLogs.refl d []

/-! ### Writes of the cave -/

/-- Only the cave and the energy accounts differ. -/
structure OnlyCave (d e : Die) : Prop where
  units : KeepsUnits d e
  regs : e.regs = d.regs
  fresh : e.fresh = d.fresh
  err : e.err = d.err
  msix : e.msix = d.msix
  wake : e.wake = d.wake
  out : e.out = d.out
  telem : e.telem = { d.telem with acct := e.telem.acct }

theorem OnlyCave.refl (d : Die) : OnlyCave d d := ⟨KeepsUnits.refl d, rfl, rfl, rfl, rfl, rfl, rfl, rfl⟩

theorem OnlyCave.trans {d e f : Die} (h : OnlyCave d e) (k : OnlyCave e f) : OnlyCave d f :=
  ⟨h.units.trans k.units, k.regs.trans h.regs, k.fresh.trans h.fresh, k.err.trans h.err, k.msix.trans h.msix, k.wake.trans h.wake,
    k.out.trans h.out, by rw [k.telem, h.telem]⟩

theorem OnlyCave.setCave (d : Die) (x : CaveSt) : OnlyCave d { d with cave := x } := ⟨by constructor <;> rfl, rfl, rfl, rfl, rfl, rfl, rfl, rfl⟩

theorem OnlyCave.charge (d : Die) (w n m : Nat) : OnlyCave d (d.charge w n m) := ⟨by constructor <;> rfl, rfl, rfl, rfl, rfl, rfl, rfl, rfl⟩

theorem OnlyCave.chargeLine (d : Die) (a : Nat) : OnlyCave d (d.chargeLine a) := by
  unfold Die.chargeLine
  generalize d.caveOwner a = o
  rcases o with _ | _ | t
  · exact OnlyCave.charge _ _ _ _
  · exact OnlyCave.charge _ _ _ _
  · exact OnlyCave.charge _ _ _ _

theorem OnlyCave.caveFill (d : Die) (p : Nat) : OnlyCave d (d.caveFill p) := by
  unfold Die.caveFill
  generalize d.caveOwner (4096 * p) = o
  rcases o with _ | sp
  · exact OnlyCave.refl d
  · dsimp only
    split
    · exact OnlyCave.refl d
    · exact OnlyCave.setCave d _

/-- A write within a line reaches the cave and the energy accounts only. -/
theorem OnlyCave.caveWriteLine (d : Die) (a : Nat) (bs : List Byte) : OnlyCave d (d.caveWriteLine a bs).1 := by
  unfold Die.caveWriteLine
  extract_lets x
  have hx : OnlyCave d x := OnlyCave.caveFill d _
  clear_value x
  split
  · exact hx
  · split
    · exact hx
    · exact hx.trans ((OnlyCave.chargeLine x a).trans (OnlyCave.setCave _ _))

/-- A write of any length reaches the cave and the energy accounts only. -/
theorem OnlyCave.caveWrite (d : Die) (a : Nat) (bs : List Byte) : OnlyCave d (d.caveWrite a bs) := by
  unfold Die.caveWrite
  generalize lineCuts (bs.length / 64 + 2) a bs = l
  induction l generalizing d with
  | nil => exact OnlyCave.refl d
  | cons x r ih => exact (OnlyCave.caveWriteLine d x.1 x.2).trans (ih _)

theorem OnlyCave.get {d e : Die} (h : OnlyCave d e) (f : Fld) (i j k : Nat) : e.get f i j k = d.get f i j k := by
  rw [Die.get_addr, Die.get_addr, Die.dword, Die.dword, h.regs]

theorem OnlyCave.logs {d e : Die} (h : OnlyCave d e) (m : d.get R.errlogCfgMirror ≠ 0) : OnlyLogs d e [] :=
  ⟨h.units, by rw [h.telem], fun h0 => absurd h0 m, by rw [h.out], fun a _ _ => by rw [Die.dword, Die.dword, h.regs]⟩

/-! ### A logged record -/

/-- The two mirror writes of a slot (R900). -/
theorem OnlyLogs.mirror (d : Die) (a b : Nat) (bs : List Byte) (h : d.get R.errlogCfgMirror ≠ 0) :
    OnlyLogs d ((d.caveWrite a bs).caveWrite b bs) [] ∧ ((d.caveWrite a bs).caveWrite b bs).err = d.err := by
  have h1 := OnlyCave.caveWrite d a bs
  generalize d.caveWrite a bs = x at h1 ⊢
  have h2 := OnlyCave.caveWrite x b bs
  generalize x.caveWrite b bs = y at h2 ⊢
  exact ⟨(h1.logs h).tr0 (h2.logs (by rw [h1.get]; exact h)), by rw [h2.err, h1.err]⟩

theorem OnlyLogs.logWrite (d x : Die) (r : ErrRec) (n : Nat) (h : d.logWrite r = some (x, n)) :
    OnlyLogs d x [] ∧ ∃ y ∈ x.err.log, y.r = r := by
  unfold Die.logWrite at h
  extract_lets found at h
  clear_value found
  split at h
  · cases h
  · rename_i slot log lost
    extract_lets b src c e at h
    simp only [Option.some.injEq, Prod.mk.injEq] at h
    have hb : OnlyLogs d b [] := by
      show OnlyLogs d (if lost = true then d.bump R.errlogOverwritten else d) []
      split
      · exact (OnlyReports.bump d R.errlogOverwritten 0 0 1).among (by decide)
      · exact OnlyLogs.refl d []
    have hc : OnlyLogs b c [] := OnlyLogs.setErr b _
    have hl : LogEnt.mk slot r false ∈ c.err.log := by
      show _ ∈ log ++ [LogEnt.mk slot r false]
      simp
    clear_value b
    have he : OnlyLogs c e [] ∧ e.err = c.err := by
      clear_value c
      show OnlyLogs c (if c.bit R.errlogCfgMirror = true then _ else c) [] ∧ (if c.bit R.errlogCfgMirror = true then _ else c).err = c.err
      split
      · rename_i hm
        exact OnlyLogs.mirror c _ _ _ (by simpa [Die.bit] using hm)
      · exact ⟨OnlyLogs.refl c [], rfl⟩
    clear_value e c
    rw [← h.1]
    exact ⟨hb.tr0 (hc.tr0 he.1), ⟨LogEnt.mk slot r false, by rw [he.2]; exact hl, rfl⟩⟩

theorem OnlyLogs.raiseLog (d : Die) (k : Nat) (q : Irq) (h : q.page = .errlog) : OnlyLogs d (d.raise q 0 k) [] :=
  (OnlyReports.raise d q 0 k).among (by
    have : q.addrOf 0 = (I.errlogSev 0).addrOf := by simp [Irq.addrOf, h, I.errlogSev]
    rw [this]; decide)

/-- A record raised is logged, and reaches no further (R895). -/
theorem Die.logRecord_reach (d : Die) (idx : Nat) (r : ErrRec) :
    OnlyLogs d (d.logRecord idx r) [] ∧ ∃ r' : ErrRec, r'.code = r.code ∧ r'.sev = r.sev ∧ r'.page = r.page ∧ r'.seq = d.err.seq
      ∧ ((∃ x ∈ (d.logRecord idx r).err.log, x.r = r') ∨ (idx, r') ∈ (d.logRecord idx r).err.waiting) := by
  generalize hz : d.logRecord idx r = z
  unfold Die.logRecord at hz
  extract_lets p r1 at hz
  have c : r1.code = r.code ∧ r1.sev = r.sev ∧ r1.page = r.page ∧ r1.seq = d.err.seq := ⟨rfl, rfl, rfl, rfl⟩
  clear_value r1 p
  obtain ⟨c1, c2, c3, c4⟩ := c
  split at hz
  · rw [← hz]
    constructor
    · exact (OnlyLogs.setErr d _).tr0 (((OnlyReports.bump _ R.errlogWaits 0 0 1).among (by decide)).tr0 (OnlyLogs.raiseLog _ _ _ rfl))
    · refine ⟨r1, c1, c2, c3, c4, Or.inr ?_⟩
      rw [Die.raise_err, Die.bump_err]
      exact List.mem_append_right _ List.mem_cons_self
  · rename_i x slot hx
    obtain ⟨g1, ⟨y, hy, hyr⟩⟩ := OnlyLogs.logWrite d x r1 slot hx
    rcases hpq : PageErr.offer { p with owed := 0 } r1 with ⟨p', pend⟩
    simp only [hpq] at hz
    have k1 : OnlyLogs x (x.setPageErr idx p') [] := OnlyLogs.setErr x _
    have l1 : (x.setPageErr idx p').err.log = x.err.log := rfl
    generalize x.setPageErr idx p' = x1 at k1 l1 hz
    have k2 : OnlyLogs x1 (if pend = true then
        { x1 with err := { x1.err with log := x1.err.log.map (fun e => if e.slot = slot then { e with pend := true } else e) } }
        else x1) [] ∧ ∃ w ∈ (if pend = true then
        { x1 with err := { x1.err with log := x1.err.log.map (fun e => if e.slot = slot then { e with pend := true } else e) } }
        else x1 : Die).err.log, w.r = r1 := by
      split
      · refine ⟨OnlyLogs.setErr x1 _, if y.slot = slot then { y with pend := true } else y, ?_, ?_⟩
        · simp only [List.mem_map]; exact ⟨y, by rw [l1]; exact hy, rfl⟩
        · split <;> exact hyr
      · exact ⟨OnlyLogs.refl x1 [], y, by rw [l1]; exact hy, hyr⟩
    generalize (if pend = true then
        { x1 with err := { x1.err with log := x1.err.log.map (fun e => if e.slot = slot then { e with pend := true } else e) } }
        else x1 : Die) = x2 at k2 hz
    have k3 : OnlyLogs x2 (if (pend && !p.stall) = true then x2.raise I.errlogStall else x2) []
        ∧ (if (pend && !p.stall) = true then x2.raise I.errlogStall else x2).err = x2.err := by
      split
      · exact ⟨OnlyLogs.raiseLog _ _ _ rfl, by simp⟩
      · exact ⟨OnlyLogs.refl _ _, rfl⟩
    generalize (if (pend && !p.stall) = true then x2.raise I.errlogStall else x2) = x3 at k3 hz
    have k4 : OnlyLogs x3 (x3.raise (I.errlogSev r1.sev.toNat)) [] ∧ (x3.raise (I.errlogSev r1.sev.toNat)).err = x3.err :=
      ⟨OnlyLogs.raiseLog _ _ _ rfl, by simp⟩
    generalize x3.raise (I.errlogSev r1.sev.toNat) = x4 at k4 hz
    have k : OnlyLogs d x4 [] := g1.tr0 (k1.tr0 (k2.1.tr0 (k3.1.tr0 k4.1)))
    have l : ∃ w ∈ x4.err.log, w.r = r1 := by rw [k4.2, k3.2]; exact k2.2
    rw [← hz]
    split
    · refine ⟨k.tr0 (OnlyLogs.wakeCause x4 2), r1, c1, c2, c3, c4, Or.inl ?_⟩
      have : (x4.wakeCause 2).err = x4.err := by
        unfold Die.wakeCause; split
        · dsimp only; split
          · rfl
          · split <;> rfl
        · rfl
      rw [this]; exact l
    · exact ⟨k, r1, c1, c2, c3, c4, Or.inl l⟩

theorem Die.errPinUpdate_reach (d e : Die) : OnlyLogs e (errPinUpdate d e) [] ∧ (errPinUpdate d e).err = e.err := by
  unfold errPinUpdate
  split
  · exact ⟨OnlyLogs.refl e [], rfl⟩
  · exact ⟨(OnlyReports.emit e _).logs, rfl⟩

/-- An error is logged with its code and severity in its page, and its effect reaches no further than a log does (R892, R895). -/
theorem Die.logErr_reach (d : Die) (t : PageType) (inst code sev : Nat) (detail : List Byte) (tid : Option Nat) (mgmt : Bool)
    (tick : Option (BitVec 48)) :
    OnlyLogs d (d.logErr t inst code sev detail tid mgmt tick) []
      ∧ Logged d (d.logErr t inst code sev detail tid mgmt tick) (pageIndex t inst) code sev := by
  unfold Die.logErr
  extract_lets idx r
  obtain ⟨h1, r', c1, c2, c3, c4, h2⟩ := Die.logRecord_reach d.used idx r
  have e1 : r.code = BitVec.ofNat 16 code := rfl
  have e2 : r.sev = BitVec.ofNat 2 sev := rfl
  have e3 : r.page = BitVec.ofNat 12 (pageIndex t inst) := rfl
  clear_value r
  generalize d.used.logRecord idx r = x at h1 h2 ⊢
  obtain ⟨k1, k2⟩ := Die.errPinUpdate_reach d x
  refine ⟨(OnlyLogs.used d 1).tr0 (h1.tr0 k1), r', c1.trans e1, c2.trans e2, c3.trans e3, c4, ?_⟩
  rw [k2]; exact h2

end Sys2Proof.Machine
end

