-- ==== Sys2Proof/Laws/Units.lean ====
section
/-!
SUPPORT. Laws/Units.lean: a change of one unit of the die, then an effect that reaches registers, reports or logs only: what the whole reaches, with that
unit set back to what it was; and what a unit's own reads give after such a change.
-/
namespace Sys2Proof.Machine

theorem OnlyRegs.latch_changed {d e : Die} {as : List Nat} (x : SMap Word) (h : OnlyRegs { d with latch := x } e as) :
    OnlyRegs d { e with latch := d.latch } as := { h with units := { h.units with latch := rfl } }

theorem OnlyReports.latch_changed {d e : Die} {as : List Nat} (x : SMap Word) (h : OnlyReports { d with latch := x } e as) :
    OnlyReports d { e with latch := d.latch } as := { h with units := { h.units with latch := rfl } }

theorem OnlyLogs.latch_changed {d e : Die} {as : List Nat} (x : SMap Word) (h : OnlyLogs { d with latch := x } e as) :
    OnlyLogs d { e with latch := d.latch } as := { h with units := { h.units with latch := rfl } }

theorem OnlyRegs.tick_changed {d e : Die} {as : List Nat} (x : TickSt) (h : OnlyRegs { d with tick := x } e as) :
    OnlyRegs d { e with tick := d.tick } as := { h with units := { h.units with tick := rfl } }

theorem OnlyReports.tick_changed {d e : Die} {as : List Nat} (x : TickSt) (h : OnlyReports { d with tick := x } e as) :
    OnlyReports d { e with tick := d.tick } as := { h with units := { h.units with tick := rfl } }

theorem OnlyLogs.tick_changed {d e : Die} {as : List Nat} (x : TickSt) (h : OnlyLogs { d with tick := x } e as) :
    OnlyLogs d { e with tick := d.tick } as := { h with units := { h.units with tick := rfl } }

theorem OnlyRegs.ports_changed {d e : Die} {as : List Nat} (x : SMap PortSt) (h : OnlyRegs { d with ports := x } e as) :
    OnlyRegs d { e with ports := d.ports } as := { h with units := { h.units with ports := rfl } }

theorem OnlyReports.ports_changed {d e : Die} {as : List Nat} (x : SMap PortSt) (h : OnlyReports { d with ports := x } e as) :
    OnlyReports d { e with ports := d.ports } as := { h with units := { h.units with ports := rfl } }

theorem OnlyLogs.ports_changed {d e : Die} {as : List Nat} (x : SMap PortSt) (h : OnlyLogs { d with ports := x } e as) :
    OnlyLogs d { e with ports := d.ports } as := { h with units := { h.units with ports := rfl } }

theorem OnlyRegs.casc_changed {d e : Die} {as : List Nat} (x : CascSt) (h : OnlyRegs { d with casc := x } e as) :
    OnlyRegs d { e with casc := d.casc } as := { h with units := { h.units with casc := rfl } }

theorem OnlyReports.casc_changed {d e : Die} {as : List Nat} (x : CascSt) (h : OnlyReports { d with casc := x } e as) :
    OnlyReports d { e with casc := d.casc } as := { h with units := { h.units with casc := rfl } }

theorem OnlyLogs.casc_changed {d e : Die} {as : List Nat} (x : CascSt) (h : OnlyLogs { d with casc := x } e as) :
    OnlyLogs d { e with casc := d.casc } as := { h with units := { h.units with casc := rfl } }

theorem OnlyRegs.disc_changed {d e : Die} {as : List Nat} (x : DiscSt) (h : OnlyRegs { d with disc := x } e as) :
    OnlyRegs d { e with disc := d.disc } as := { h with units := { h.units with disc := rfl } }

theorem OnlyReports.disc_changed {d e : Die} {as : List Nat} (x : DiscSt) (h : OnlyReports { d with disc := x } e as) :
    OnlyReports d { e with disc := d.disc } as := { h with units := { h.units with disc := rfl } }

theorem OnlyLogs.disc_changed {d e : Die} {as : List Nat} (x : DiscSt) (h : OnlyLogs { d with disc := x } e as) :
    OnlyLogs d { e with disc := d.disc } as := { h with units := { h.units with disc := rfl } }

theorem OnlyRegs.sw_changed {d e : Die} {as : List Nat} (x : SwitchSt) (h : OnlyRegs { d with sw := x } e as) :
    OnlyRegs d { e with sw := d.sw } as := { h with units := { h.units with sw := rfl } }

theorem OnlyReports.sw_changed {d e : Die} {as : List Nat} (x : SwitchSt) (h : OnlyReports { d with sw := x } e as) :
    OnlyReports d { e with sw := d.sw } as := { h with units := { h.units with sw := rfl } }

theorem OnlyLogs.sw_changed {d e : Die} {as : List Nat} (x : SwitchSt) (h : OnlyLogs { d with sw := x } e as) :
    OnlyLogs d { e with sw := d.sw } as := { h with units := { h.units with sw := rfl } }

theorem OnlyRegs.harp_changed {d e : Die} {as : List Nat} (x : HarpSt) (h : OnlyRegs { d with harp := x } e as) :
    OnlyRegs d { e with harp := d.harp } as := { h with units := { h.units with harp := rfl } }

theorem OnlyReports.harp_changed {d e : Die} {as : List Nat} (x : HarpSt) (h : OnlyReports { d with harp := x } e as) :
    OnlyReports d { e with harp := d.harp } as := { h with units := { h.units with harp := rfl } }

theorem OnlyLogs.harp_changed {d e : Die} {as : List Nat} (x : HarpSt) (h : OnlyLogs { d with harp := x } e as) :
    OnlyLogs d { e with harp := d.harp } as := { h with units := { h.units with harp := rfl } }

theorem OnlyRegs.dlv_changed {d e : Die} {as : List Nat} (x : DlvSt) (h : OnlyRegs { d with dlv := x } e as) :
    OnlyRegs d { e with dlv := d.dlv } as := { h with units := { h.units with dlv := rfl } }

theorem OnlyReports.dlv_changed {d e : Die} {as : List Nat} (x : DlvSt) (h : OnlyReports { d with dlv := x } e as) :
    OnlyReports d { e with dlv := d.dlv } as := { h with units := { h.units with dlv := rfl } }

theorem OnlyLogs.dlv_changed {d e : Die} {as : List Nat} (x : DlvSt) (h : OnlyLogs { d with dlv := x } e as) :
    OnlyLogs d { e with dlv := d.dlv } as := { h with units := { h.units with dlv := rfl } }

theorem OnlyRegs.ten_changed {d e : Die} {as : List Nat} (x : TenSt) (h : OnlyRegs { d with ten := x } e as) :
    OnlyRegs d { e with ten := d.ten } as := { h with units := { h.units with ten := rfl } }

theorem OnlyReports.ten_changed {d e : Die} {as : List Nat} (x : TenSt) (h : OnlyReports { d with ten := x } e as) :
    OnlyReports d { e with ten := d.ten } as := { h with units := { h.units with ten := rfl } }

theorem OnlyLogs.ten_changed {d e : Die} {as : List Nat} (x : TenSt) (h : OnlyLogs { d with ten := x } e as) :
    OnlyLogs d { e with ten := d.ten } as := { h with units := { h.units with ten := rfl } }

theorem OnlyRegs.hoops_changed {d e : Die} {as : List Nat} (x : HoopSt) (h : OnlyRegs { d with hoops := x } e as) :
    OnlyRegs d { e with hoops := d.hoops } as := { h with units := { h.units with hoops := rfl } }

theorem OnlyReports.hoops_changed {d e : Die} {as : List Nat} (x : HoopSt) (h : OnlyReports { d with hoops := x } e as) :
    OnlyReports d { e with hoops := d.hoops } as := { h with units := { h.units with hoops := rfl } }

theorem OnlyLogs.hoops_changed {d e : Die} {as : List Nat} (x : HoopSt) (h : OnlyLogs { d with hoops := x } e as) :
    OnlyLogs d { e with hoops := d.hoops } as := { h with units := { h.units with hoops := rfl } }

theorem OnlyRegs.withholding_changed {d e : Die} {as : List Nat} (x : SMap Bool) (h : OnlyRegs { d with withholding := x } e as) :
    OnlyRegs d { e with withholding := d.withholding } as := { h with units := { h.units with withholding := rfl } }

theorem OnlyReports.withholding_changed {d e : Die} {as : List Nat} (x : SMap Bool) (h : OnlyReports { d with withholding := x } e as) :
    OnlyReports d { e with withholding := d.withholding } as := { h with units := { h.units with withholding := rfl } }

theorem OnlyLogs.withholding_changed {d e : Die} {as : List Nat} (x : SMap Bool) (h : OnlyLogs { d with withholding := x } e as) :
    OnlyLogs d { e with withholding := d.withholding } as := { h with units := { h.units with withholding := rfl } }

theorem OnlyRegs.vats_changed {d e : Die} {as : List Nat} (x : SMap VatSt) (h : OnlyRegs { d with vats := x } e as) :
    OnlyRegs d { e with vats := d.vats } as := { h with units := { h.units with vats := rfl } }

theorem OnlyReports.vats_changed {d e : Die} {as : List Nat} (x : SMap VatSt) (h : OnlyReports { d with vats := x } e as) :
    OnlyReports d { e with vats := d.vats } as := { h with units := { h.units with vats := rfl } }

theorem OnlyLogs.vats_changed {d e : Die} {as : List Nat} (x : SMap VatSt) (h : OnlyLogs { d with vats := x } e as) :
    OnlyLogs d { e with vats := d.vats } as := { h with units := { h.units with vats := rfl } }

theorem OnlyRegs.plans_changed {d e : Die} {as : List Nat} (x : PlanSt) (h : OnlyRegs { d with plans := x } e as) :
    OnlyRegs d { e with plans := d.plans } as := { h with units := { h.units with plans := rfl } }

theorem OnlyReports.plans_changed {d e : Die} {as : List Nat} (x : PlanSt) (h : OnlyReports { d with plans := x } e as) :
    OnlyReports d { e with plans := d.plans } as := { h with units := { h.units with plans := rfl } }

theorem OnlyLogs.plans_changed {d e : Die} {as : List Nat} (x : PlanSt) (h : OnlyLogs { d with plans := x } e as) :
    OnlyLogs d { e with plans := d.plans } as := { h with units := { h.units with plans := rfl } }

theorem OnlyRegs.coll_changed {d e : Die} {as : List Nat} (x : CollSt) (h : OnlyRegs { d with coll := x } e as) :
    OnlyRegs d { e with coll := d.coll } as := { h with units := { h.units with coll := rfl } }

theorem OnlyReports.coll_changed {d e : Die} {as : List Nat} (x : CollSt) (h : OnlyReports { d with coll := x } e as) :
    OnlyReports d { e with coll := d.coll } as := { h with units := { h.units with coll := rfl } }

theorem OnlyLogs.coll_changed {d e : Die} {as : List Nat} (x : CollSt) (h : OnlyLogs { d with coll := x } e as) :
    OnlyLogs d { e with coll := d.coll } as := { h with units := { h.units with coll := rfl } }

theorem OnlyRegs.det_changed {d e : Die} {as : List Nat} (x : DetSt) (h : OnlyRegs { d with det := x } e as) :
    OnlyRegs d { e with det := d.det } as := { h with units := { h.units with det := rfl } }

theorem OnlyReports.det_changed {d e : Die} {as : List Nat} (x : DetSt) (h : OnlyReports { d with det := x } e as) :
    OnlyReports d { e with det := d.det } as := { h with units := { h.units with det := rfl } }

theorem OnlyLogs.det_changed {d e : Die} {as : List Nat} (x : DetSt) (h : OnlyLogs { d with det := x } e as) :
    OnlyLogs d { e with det := d.det } as := { h with units := { h.units with det := rfl } }

theorem OnlyRegs.own_changed {d e : Die} {as : List Nat} (x : OwnSt) (h : OnlyRegs { d with own := x } e as) :
    OnlyRegs d { e with own := d.own } as := { h with units := { h.units with own := rfl } }

theorem OnlyReports.own_changed {d e : Die} {as : List Nat} (x : OwnSt) (h : OnlyReports { d with own := x } e as) :
    OnlyReports d { e with own := d.own } as := { h with units := { h.units with own := rfl } }

theorem OnlyLogs.own_changed {d e : Die} {as : List Nat} (x : OwnSt) (h : OnlyLogs { d with own := x } e as) :
    OnlyLogs d { e with own := d.own } as := { h with units := { h.units with own := rfl } }

theorem OnlyRegs.sec_changed {d e : Die} {as : List Nat} (x : SecSt) (h : OnlyRegs { d with sec := x } e as) :
    OnlyRegs d { e with sec := d.sec } as := { h with units := { h.units with sec := rfl } }

theorem OnlyReports.sec_changed {d e : Die} {as : List Nat} (x : SecSt) (h : OnlyReports { d with sec := x } e as) :
    OnlyReports d { e with sec := d.sec } as := { h with units := { h.units with sec := rfl } }

theorem OnlyLogs.sec_changed {d e : Die} {as : List Nat} (x : SecSt) (h : OnlyLogs { d with sec := x } e as) :
    OnlyLogs d { e with sec := d.sec } as := { h with units := { h.units with sec := rfl } }

theorem OnlyRegs.host_changed {d e : Die} {as : List Nat} (x : HostSt) (h : OnlyRegs { d with host := x } e as) :
    OnlyRegs d { e with host := d.host } as := { h with units := { h.units with host := rfl } }

theorem OnlyReports.host_changed {d e : Die} {as : List Nat} (x : HostSt) (h : OnlyReports { d with host := x } e as) :
    OnlyReports d { e with host := d.host } as := { h with units := { h.units with host := rfl } }

theorem OnlyLogs.host_changed {d e : Die} {as : List Nat} (x : HostSt) (h : OnlyLogs { d with host := x } e as) :
    OnlyLogs d { e with host := d.host } as := { h with units := { h.units with host := rfl } }

theorem OnlyRegs.smb_changed {d e : Die} {as : List Nat} (x : SmbSt) (h : OnlyRegs { d with smb := x } e as) :
    OnlyRegs d { e with smb := d.smb } as := { h with units := { h.units with smb := rfl } }

theorem OnlyReports.smb_changed {d e : Die} {as : List Nat} (x : SmbSt) (h : OnlyReports { d with smb := x } e as) :
    OnlyReports d { e with smb := d.smb } as := { h with units := { h.units with smb := rfl } }

theorem OnlyLogs.smb_changed {d e : Die} {as : List Nat} (x : SmbSt) (h : OnlyLogs { d with smb := x } e as) :
    OnlyLogs d { e with smb := d.smb } as := { h with units := { h.units with smb := rfl } }

theorem OnlyRegs.boot_changed {d e : Die} {as : List Nat} (x : BootSt) (h : OnlyRegs { d with boot := x } e as) :
    OnlyRegs d { e with boot := d.boot } as := { h with units := { h.units with boot := rfl } }

theorem OnlyReports.boot_changed {d e : Die} {as : List Nat} (x : BootSt) (h : OnlyReports { d with boot := x } e as) :
    OnlyReports d { e with boot := d.boot } as := { h with units := { h.units with boot := rfl } }

theorem OnlyLogs.boot_changed {d e : Die} {as : List Nat} (x : BootSt) (h : OnlyLogs { d with boot := x } e as) :
    OnlyLogs d { e with boot := d.boot } as := { h with units := { h.units with boot := rfl } }

theorem OnlyRegs.pwr_changed {d e : Die} {as : List Nat} (x : PwrSt) (h : OnlyRegs { d with pwr := x } e as) :
    OnlyRegs d { e with pwr := d.pwr } as := { h with units := { h.units with pwr := rfl } }

theorem OnlyReports.pwr_changed {d e : Die} {as : List Nat} (x : PwrSt) (h : OnlyReports { d with pwr := x } e as) :
    OnlyReports d { e with pwr := d.pwr } as := { h with units := { h.units with pwr := rfl } }

theorem OnlyLogs.pwr_changed {d e : Die} {as : List Nat} (x : PwrSt) (h : OnlyLogs { d with pwr := x } e as) :
    OnlyLogs d { e with pwr := d.pwr } as := { h with units := { h.units with pwr := rfl } }

theorem OnlyRegs.returned_changed {d e : Die} {as : List Nat} (x : List (Nat × Nat × Nat × Nat)) (h : OnlyRegs { d with returned := x } e as) :
    OnlyRegs d { e with returned := d.returned } as := { h with units := { h.units with returned := rfl } }

theorem OnlyReports.returned_changed {d e : Die} {as : List Nat} (x : List (Nat × Nat × Nat × Nat)) (h : OnlyReports { d with returned := x } e as) :
    OnlyReports d { e with returned := d.returned } as := { h with units := { h.units with returned := rfl } }

theorem OnlyLogs.returned_changed {d e : Die} {as : List Nat} (x : List (Nat × Nat × Nat × Nat)) (h : OnlyLogs { d with returned := x } e as) :
    OnlyLogs d { e with returned := d.returned } as := { h with units := { h.units with returned := rfl } }


/-! ### Ports, groups, vats -/

/-- A port after a change of one port. -/
theorem Die.port_modPort (d : Die) (p q : Nat) (f : PortSt → PortSt) : (d.modPort p f).port q = if q = p then f (d.port p) else d.port q := by
  unfold Die.port Die.modPort
  simp only [smapGet_mod]

/-- A port's state depends on the ports alone. -/
theorem Die.port_congr {d e : Die} (h : e.ports = d.ports) (p : Nat) : e.port p = d.port p := by
  unfold Die.port
  rw [h]

end Sys2Proof.Machine
end

