-- ==== Sys2Proof/Laws/Rundown.lean ====
section
/-!
SUPPORT. Laws/Rundown.lean: what writing a unit's run-down does: that unit's entry alone, and the fields of its page that show it.
-/
namespace Sys2Proof.Machine

/-- Units have keys of their own. -/
theorem unitKey_injective {u v : UnitId} (h : unitKey u = unitKey v) : u = v := by
  cases u <;> cases v <;> simp only [unitKey] at h
  · rfl
  · omega
  · omega
  · omega
  · omega
  · rename_i p q
    congr 1
    apply BitVec.eq_of_toNat_eq
    omega
  · rename_i p q
    have := p.isLt
    omega
  · rename_i p q
    have := p.isLt
    omega
  · omega
  · rename_i p q
    have := q.isLt
    omega
  · rename_i p q
    congr 1
    apply BitVec.eq_of_toNat_eq
    omega
  · rename_i p q
    have := p.isLt
    omega
  · omega
  · rename_i p q
    have := q.isLt
    omega
  · rename_i p q
    have := q.isLt
    omega
  · rename_i p q
    congr 1
    apply BitVec.eq_of_toNat_eq
    omega

/-- The dwords that show a unit's run-down (R90, R94, R948). -/
def shownAt : UnitId → List Nat
  | .die => [R.hdrStatState.addrOf (pageIndex .tick 0), R.tickRdStatActive.addrOf]
  | .port p => [R.hdrStatState.addrOf (pageIndex .port p.toNat)]
  | .vat v => [R.hdrStatState.addrOf (pageIndex .vat v.toNat)]
  | .group _ => []

theorem Die.setRundown_tick (d : Die) (u : UnitId) (r : RunDown) :
    (d.setRundown u r).tick = { d.tick with rundown := smapSet RunDown.none d.tick.rundown (unitKey u) r } := by
  cases u <;> rfl

/-- One unit's run-down is written, and the others stay. -/
theorem Die.rundown_setRundown (d : Die) (u v : UnitId) (r : RunDown) : (d.setRundown u r).rundown v = if v = u then r else d.rundown v := by
  unfold Die.rundown
  rw [Die.setRundown_tick]
  simp only [smapGet_set]
  by_cases h : v = u
  · simp [h]
  · rw [if_neg (fun k => h (unitKey_injective k)), if_neg h]

/-- A run-down that is written reaches the unit's entry and what its page shows. -/
theorem OnlyRegs.setRundown (d : Die) (u : UnitId) (r : RunDown) : OnlyRegs d { d.setRundown u r with tick := d.tick } (shownAt u) := by
  unfold Die.setRundown
  dsimp only
  cases u with
  | die =>
    have h1 := OnlyRegs.set { d with tick := { d.tick with rundown := smapSet RunDown.none d.tick.rundown (unitKey .die) r } } R.hdrStatState
      (phaseCode r.phase) (pageIndex .tick 0) 0 0
    have h2 := h1.trans (OnlyRegs.setBit _ R.tickRdStatActive (r.phase = .closing || r.phase = .draining) 0 0 0)
    exact (h2.trans (OnlyRegs.set _ R.tickRdStatLeft (match r.phase with | .closing => r.bound | .draining => r.left | _ => 0) 0 0 0)).tick_changed _ |>.mono
      (by intro a ha; simp only [List.mem_append, List.mem_cons, List.not_mem_nil, or_false, shownAt] at ha ⊢; rcases ha with (h | h) | h <;> simp [h] <;> right <;> rfl)
  | port p => exact (OnlyRegs.set _ R.hdrStatState (phaseCode r.phase) (pageIndex .port p.toNat) 0 0).tick_changed _
  | vat v => exact (OnlyRegs.set _ R.hdrStatState (phaseCode r.phase) (pageIndex .vat v.toNat) 0 0).tick_changed _
  | group g => exact (OnlyRegs.refl _ _).tick_changed _

end Sys2Proof.Machine
end

