-- ==== Sys2Proof/WellFormed.lean ====
section
/-!
DEFINITION. WellFormed.lean: which commands are well formed: the lengths and ranges that the types of Syntax.lean leave open. Every check is one that
the spec's tables give for what arrives; exec is total and asks for none of them.
-/
namespace Sys2Proof

/-- The payload is as long as LEN says, and no packet is longer than 4,096 bytes (table Header flit, R306). -/
def Packet.wf (p : Packet) : Bool := p.payload.length == p.len.toNat && decide (p.len.toNat ≤ 4096)

/-- An access covers 1 to 64 bytes (R961). -/
def Access.wf (a : Access) : Bool := decide (0 < a.bytes.length ∧ a.bytes.length ≤ 64)

/-- A lane's superframe holds 516 symbols (R154). -/
def RxLane.wf (x : RxLane) : Bool := x.syms.length == 516

/-- The four lanes of a received superframe. -/
def RxFrame.wf (f : RxFrame) : Bool := f.l0.wf && f.l1.wf && f.l2.wf && f.l3.wf

/-- What a tick edge carries: cave controllers are 0 to 9 (R868), vats 0 to 31, a port has 64 counters and a vat 64. -/
def EdgeIn.wf (e : EdgeIn) : Bool :=
  e.rates.all (fun r => decide (r.1.toNat < 10)) && e.stalls.all (fun s => s.1 == 0 || decide (s.2.1.toNat < 32))

/-- A mailbox command's data from a follower fits in DATA (table Mailbox slot). -/
def farOk (f : Option (BitVec 4 × List Byte)) : Bool :=
  match f with
  | none => true
  | some x => decide (x.2.length ≤ 48)

/-- A whole EEPROM read returns what was asked for, a sensor poll its five bytes, a setpoint write none (R967, R1028). -/
def smbOk (j : SmbJob) (e : SmbEnd) : Bool :=
  match j, e with
  | .eeprom _ n, .ok data => data.length == n.toNat
  | _, _ => true

/-- Is a command well formed? -/
def wellFormed (i : Instr) : Bool :=
  match i with
  | .tickEdge e => e.wf
  | .slow _ => true
  | .tickCfgLenWrite _ _ => true
  | .rundownRequest _ _ => true
  | .rundownIdle _ => true
  | .rundownBoundEnd _ => true
  | .rundownClear _ _ => true
  | .pageResetRequest _ _ => true
  | .resetTakesEffect _ => true
  | .pageFenceRequest _ _ => true
  | .pageUnfence _ _ => true
  | .pageEnableWrite _ _ _ => true
  | .pageLockWrite _ _ => true
  | .roleAttrWrite _ _ _ => true
  | .helloRx _ _ _ => true
  | .cascFormWindowEnd _ => true
  | .actingMasterForm => true
  | .hbeatRx _ _ => true
  | .masterTakeover => true
  | .cascIsolated => true
  | .fwdReadComplete _ _ data _ => decide (data.length ≤ 64)
  | .cascFwdLost _ => true
  | .cascDieLost _ => true
  | .cdrLock _ _ => true
  | .blLock _ _ => true
  | .blLockLoss _ _ _ => true
  | .superframeRx _ f => f.wf
  | .sfLock _ _ _ => true
  | .sfLockLoss _ _ => true
  | .hintPol _ _ => true
  | .deskewRetry _ _ _ _ _ _ => true
  | .linkDown _ => true
  | .rehunt _ _ => true
  | .creditSlotRx _ _ _ _ _ _ => true
  | .rennetRx _ _ _ _ _ _ => true
  | .csyncRx _ _ _ _ => true
  | .csyncPeriodic _ => true
  | .csyncReq _ => true
  | .psReq _ _ => true
  | .psAck _ _ => true
  | .psNak _ _ => true
  | .wake _ => true
  | .rxSettled _ _ => true
  | .taken _ _ _ => true
  | .msgReplay _ => true
  | .linkActive _ => true
  | .psctlWrite _ _ _ => true
  | .psEnter _ => true
  | .signalDetect _ => true
  | .portWake _ => true
  | .helloPeriodic _ => true
  | .rootElection => true
  | .candidacyPass => true
  | .walkTimeout _ => true
  | .discRetry => true
  | .discLeave => true
  | .discRemeasure _ => true
  | .flock => true
  | .latencyMeasured _ => true
  | .joinAlign => true
  | .holdover => true
  | .reparent => true
  | .holdoverExpire => true
  | .outRejoin => true
  | .rootFailover => true
  | .left => true
  | .transitHeadRx _ pk => pk.wf
  | .ncredRx _ _ => true
  | .rnfwdRx _ _ _ => true
  | .mrd pk => pk.wf
  | .mwr pk => pk.wf
  | .dropPacketRx _ _ pk _ _ => pk.wf
  | .packetAccept _ _ _ => true
  | .e2eCopyRx pk => pk.wf
  | .e2eDlvdRx pk => pk.wf
  | .e2eNakRx pk => pk.wf
  | .e2eRtndRx pk => pk.wf
  | .attemptTimeout _ _ _ => true
  | .retransmit _ _ => true
  | .probe _ _ => true
  | .giveUp _ _ => true
  | .gapSettle _ => true
  | .egressTimeout _ => true
  | .destFlowRelease _ => true
  | .sourceFlowRelease _ => true
  | .copyLifetimeDrop _ _ => true
  | .itemEgress _ => true
  | .deidInvalidSettle _ _ => true
  | .flowDue _ => true
  | .outputGrant _ _ => true
  | .echoRx pk => pk.wf
  | .withholdEnd _ => true
  | .hoopAlloc r _ => decide (r.owners.length ≤ 8)
  | .hoopRelease _ _ _ _ => true
  | .hoopFree _ _ _ _ => true
  | .hoopRebuild _ _ => true
  | .rebuilt _ => true
  | .cellZeroed _ => true
  | .loadTile _ _ _ => true
  | .expScan _ _ _ => true
  | .reduce _ _ _ => true
  | .scale _ _ _ => true
  | .combine _ _ _ => true
  | .mergeSoftmax _ _ _ => true
  | .sampleGumbel _ _ _ => true
  | .topk _ _ _ => true
  | .quant _ _ _ => true
  | .dequant _ _ _ => true
  | .cast _ _ _ => true
  | .clamp _ _ _ => true
  | .maskDrop _ _ _ => true
  | .fillRandom _ _ _ => true
  | .storeTile _ _ _ => true
  | .emit _ _ _ => true
  | .vatWatchdog _ _ => true
  | .vatFence => true
  | .vatInjectResidue _ _ => true
  | .vatInjectRecipe _ _ => true
  | .brineVisit _ _ => true
  | .brineLate _ => true
  | .spadWriteback _ => true
  | .wipeDone _ => true
  | .vatWipeAll _ _ => true
  | .rngProbeSeed _ _ => true
  | .rngProbeLeap _ _ => true
  | .queueSlotWrite _ _ ofs bytes => decide (0 < bytes.length ∧ ofs.toNat % 64 + bytes.length ≤ 64)
  | .sqDoorbell _ _ _ => true
  | .cqDoorbell _ _ _ => true
  | .descAdmit _ => true
  | .queueUnderfill _ => true
  | .completionWrite _ => true
  | .cctlDesc p _ pk _ => decide (p.toNat ≤ 64) && pk.wf
  | .cctlSqDb p _ pk _ => decide (p.toNat ≤ 64) && pk.wf
  | .cctlCqDb p _ pk _ => decide (p.toNat ≤ 64) && pk.wf
  | .cctlCmd p _ pk _ => decide (p.toNat ≤ 64) && pk.wf
  | .cqRecordResend _ => true
  | .start pk => pk.wf
  | .startAck pk => pk.wf
  | .chunkAdmit _ => true
  | .collMemberLate _ => true
  | .partialRx p pk => decide (p.toNat ≤ 64) && pk.wf
  | .done pk => pk.wf
  | .fin pk => pk.wf
  | .doneFinRepeat _ _ => true
  | .cmdFwd pk => pk.wf
  | .groupStop _ _ => true
  | .groupAbort _ _ => true
  | .groupResume _ _ => true
  | .planLoad _ _ => true
  | .planValidated => true
  | .planUnload _ _ => true
  | .planActivate => true
  | .fpPublish _ _ => true
  | .recordEnable _ _ => true
  | .recordDisable _ _ => true
  | .recordStopped => true
  | .gapEntry => true
  | .replayEnable _ _ => true
  | .replayInject => true
  | .replayLate => true
  | .replayDisable _ _ => true
  | .replayEnd => true
  | .cmpClear _ => true
  | .tenantAdmit _ _ _ => true
  | .tenantEnClear _ _ _ => true
  | .tenantKill _ _ _ => true
  | .killEdge _ => true
  | .tenantWipe _ => true
  | .tagSweepDone => true
  | .tenantFree _ => true
  | .debugUnlock _ _ => true
  | .debugLock _ => true
  | .dbgNonceRead _ => true
  | .svnCommit _ => true
  | .revoke _ _ => true
  | .getVersion _ => true
  | .getCapabilities _ => true
  | .negotiateAlgorithms _ => true
  | .getDigests _ => true
  | .getCertificate _ _ _ _ => true
  | .challenge _ _ nonce => decide (nonce.length = 32)
  | .getMeasurements _ _ sign nonce _ => decide (nonce.length = (if sign then 32 else 0))
  | .spdmUnsupported _ _ => true
  | .hostReset _ => true
  | .hostLinkUp speed _ _ => decide (speed.toNat < 7)
  | .hostLinkLoss => true
  | .caveWindowAccess _ _ _ bytes _ _ => decide (0 < bytes.length ∧ bytes.length ≤ 4096)
  | .dmaSqDoorbell _ _ _ => true
  | .dmaCqDoorbell _ _ _ => true
  | .h2c _ _ _ => true
  | .c2h _ _ _ _ => true
  | .dmaFence _ => true
  | .dmaNop _ => true
  | .dmaComplete _ => true
  | .dmaQueueDisable _ _ => true
  | .mboxDoorbell _ _ => true
  | .mboxUnderfill _ => true
  | .mboxNop _ => true
  | .mboxRread _ far => farOk far
  | .mboxRwrite _ _ => true
  | .mboxCread _ _ _ far => farOk far
  | .mboxCwrite _ _ _ => true
  | .mboxFence _ => true
  | .mboxSqdb _ _ => true
  | .mboxCqdb _ _ => true
  | .msixGapEnd _ => true
  | .msixUnmask _ _ => true
  | .pmcsrWrite state => state == 0 || state == 3
  | .d0Entered => true
  | .caveRefresh ctl _ => decide (ctl.toNat < 10)
  | .caveFail ctl => decide (ctl.toNat < 10)
  | .caveShareWrite _ _ _ => true
  | .errHeadRead _ _ => true
  | .pop _ _ => true
  | .rewind _ _ => true
  | .clrcnt _ _ => true
  | .kick _ => true
  | .stewardWdog => true
  | .stwReset _ _ => true
  | .retry pk => pk.wf
  | .requestReissue => true
  | .telemEnable _ _ => true
  | .telemCapture => true
  | .telemRecordWritten _ => true
  | .telemDisable _ _ => true
  | .registerWrite a => a.wf
  | .rcRead a => a.wf
  | .pairLowRead a => a.wf
  | .bulkWindowAccess a _ _ _ => a.wf
  | .mctp _ => true
  | .raddr _ => true
  | .smbRread => true
  | .smbRwrite _ => true
  | .smbTransaction j e => smbOk j e
  | .smbBackoffEnd => true
  | .smbSclTimeout => true
  | .tableReadDeadline table => decide (table.toNat < 3)
  | .erase _ => true
  | .program _ => true
  | .flashRead _ => true
  | .flDone _ => true
  | .jtagIrUpdate _ => true
  | .jtagReset _ => true
  | .gpioFuncWrite _ _ _ => true
  | .gpioEdge _ _ => true
  | .chipRst _ _ => true
  | .bootStart _ => true
  | .hostReady _ _ => true
  | .brownout _ => true
  | .avsPeriod _ _ => true
  | .pmbusPoll _ _ _ => true
  | .quietRequest _ => true
  | .runRequest _ => true
  | .quietLeaveDone => true
  | .tjSample temps => decide (0 < temps.length)
  | .thermAssert _ => true
  | .superframeTx _ _ _ => true
  | .cdrLockLoss _ _ => true
  | .cmdFwdAck pk => pk.wf
  | .hostLinkDown => true
  | .smbTargetUnknownCommand _ _ => true
  | .pmbusAbandon => true
  | .vatClockGate _ _ _ => true

end Sys2Proof
end

