-- ==== Sys2Proof/Tests/Slice0.lean ====
section
/-!
SUPPORT. Tests/Slice0.lean: the author's own checks: an ill-formed term for each check of WellFormed.lean, small cases whose expected values stand in the
spec's worked cases, and for every statement with hypotheses a concrete state and operands that meet the hypotheses of each of its clauses.
-/
namespace Sys2Proof.Tests
open Sys2Proof Sys2Proof.Machine
set_option Elab.async false

/-! ### Ill-formed commands -/

/-- A packet whose LEN is not its payload's length. -/
def badPkt : Packet := { Packet.blank with len := 8, payload := [1] }

/-- A packet as LEN has it. -/
def okPkt : Packet := { Packet.blank with len := 1, payload := [1] }

theorem test_wf_refuses_packets : (([.transitHeadRx 0 badPkt, .mrd badPkt, .mwr badPkt, .dropPacketRx 0 0 badPkt 0 0, .e2eCopyRx badPkt, .e2eDlvdRx badPkt, .e2eNakRx badPkt, .e2eRtndRx badPkt, .echoRx badPkt,
    .cctlDesc 0 0 badPkt none, .cctlSqDb 0 0 badPkt none, .cctlCqDb 0 0 badPkt none, .cctlCmd 0 0 badPkt none, .start badPkt, .startAck badPkt, .partialRx 0 badPkt,
    .done badPkt, .fin badPkt, .cmdFwd badPkt, .retry badPkt, .cmdFwdAck badPkt] : List Instr).any wellFormed) = false := by decide

theorem test_wf_accepts_packets : (([.transitHeadRx 0 okPkt, .mrd okPkt, .mwr okPkt, .dropPacketRx 0 0 okPkt 0 0, .e2eCopyRx okPkt, .e2eDlvdRx okPkt, .e2eNakRx okPkt, .e2eRtndRx okPkt, .echoRx okPkt,
    .cctlDesc 0 0 okPkt none, .cctlSqDb 0 0 okPkt none, .cctlCqDb 0 0 okPkt none, .cctlCmd 0 0 okPkt none, .start okPkt, .startAck okPkt, .partialRx 0 okPkt,
    .done okPkt, .fin okPkt, .cmdFwd okPkt, .retry okPkt, .cmdFwdAck okPkt] : List Instr).all wellFormed) = true := by decide

theorem test_wf_refuses_long_packet : Packet.wf { Packet.blank with len := 4104, payload := List.replicate 4104 0 } = false := by decide +kernel
theorem test_wf_refuses_edge_rate : wellFormed (.tickEdge ⟨[], [(10, 0, 0)], [], [], []⟩) = false := by decide
theorem test_wf_refuses_edge_stall : wellFormed (.tickEdge ⟨[], [], [], [], [(1, 32, 0, 0)]⟩) = false := by decide
theorem test_wf_refuses_lane : wellFormed (.superframeRx 0 ⟨⟨[], 0, 0⟩, ⟨[], 0, 0⟩, ⟨[], 0, 0⟩, ⟨[], 0, 0⟩, 0⟩) = false := by decide
theorem test_wf_refuses_far_data : wellFormed (.mboxRread 0 (some (0, List.replicate 49 0))) = false := by decide
theorem test_wf_refuses_far_cave : wellFormed (.mboxCread 0 [] [] (some (0, List.replicate 49 0))) = false := by decide
theorem test_wf_refuses_smb : wellFormed (.smbTransaction (.eeprom 0 2) (.ok [1])) = false := by decide
theorem test_wf_refuses_owners :
    wellFormed (.hoopAlloc { size := 1, tid := 0, mgmt := false, owners := List.replicate 9 0 } none) = false := by decide
theorem test_wf_refuses_slot_write : wellFormed (.queueSlotWrite false 0 63 [some 1, some 2]) = false := by decide
theorem test_wf_refuses_nonce : wellFormed (.challenge true 0 []) = false := by decide
theorem test_wf_refuses_unsigned_nonce : wellFormed (.getMeasurements true 0 false [1] []) = false := by decide
theorem test_wf_refuses_speed : wellFormed (.hostLinkUp 7 0 false) = false := by decide
theorem test_wf_refuses_window : wellFormed (.caveWindowAccess 0 0 false [] [] []) = false := by decide
theorem test_wf_refuses_pmcsr : wellFormed (.pmcsrWrite 1) = false := by decide
theorem test_wf_refuses_controller : wellFormed (.caveFail 10) = false := by decide
theorem test_wf_refuses_controller_refresh : wellFormed (.caveRefresh 10 false) = false := by decide
theorem test_wf_refuses_access : wellFormed (.rcRead ⟨.host, false, 0, 0, []⟩) = false := by decide
theorem test_wf_refuses_write_access : wellFormed (.registerWrite ⟨.host, false, 0, 0, List.replicate 65 none⟩) = false := by decide
theorem test_wf_refuses_table : wellFormed (.tableReadDeadline 3) = false := by decide
theorem test_wf_refuses_temps : wellFormed (.tjSample []) = false := by decide
theorem test_wf_refuses_forwarded : wellFormed (.fwdReadComplete 0 0 (List.replicate 65 0) none) = false := by decide
theorem test_wf_refuses_cctl_port : wellFormed (.cctlDesc 65 0 Packet.blank none) = false := by decide

/-! ### States for the tests -/

/-- A die that has booted, with a port and a vat that are not at their reset state. -/
def up (f : Die → Die := id) : State := ⟨[.holdover], f ({ ({ State.reset.die with boot := { State.reset.die.boot with stage := 10, hostReady := true } }.set R.cascStatState 1) with ports := [(3, { PortSt.init with quiet := 7 })], vats := [(3, { VatSt.init with late := true })] })⟩
/-- Roles and attributes of ports. -/
def ro (l : List (Nat × Nat × Nat)) : Die → Die := fun d => { d with casc := { d.casc with tablesOk := true, role := l.map (fun x => (x.1, BitVec.ofNat 2 x.2.1)), attr := l.map (fun x => (x.1, BitVec.ofNat 4 x.2.2)) } }
/-- Port 3 a TRUNK on +X, 4 a STACK to die 1, 5 a DROP port, all ACTIVE. -/
def rr : Die → Die := fun d => (((((ro [(3, 2, 0), (4, 3, 1), (5, 1, 0)] d).set R.portLinkState 2 3).set R.portLinkState 2 4).set R.portLinkState 2 5).set R.cascStatPresent 3).setBit R.discCoordValid true
/-- Three STACK ports to the other dies; `m` is the acting master. -/
def stk (m : Nat) : Die → Die := fun d => (((ro [(3, 3, 1), (4, 3, 2), (5, 3, 3)] d).set R.cascStatMaster m).set R.portLinkState 2 3).set R.portLinkState 2 4 |>.set R.cascStatPresent 15
/-- A unit's run-down in a phase. -/
def rd (u : UnitId) (p : Phase) (f : RunDown → RunDown := id) : Die → Die := fun d => d.setRundown u (f { RunDown.none with phase := p })
/-- The tick. -/
def tk (n : Nat) : Die → Die := fun d => { d with tick := { d.tick with count := BitVec.ofNat 48 n } }
/-- Lanes of port 3 with every lock. -/
def lk (l : List Nat) : Die → Die := fun d => l.foldl (fun d l => ((d.setBit R.laneqLaneLstatCdrLock true 3 l).setBit R.laneqLaneLstatBlLock true 3 l).setBit R.laneqLaneLstatSfLock true 3 l) d
/-- Port 3's own state. -/
def prt (f : PortSt → PortSt) : Die → Die := fun d => d.modPort 3 f
/-- Port 3 ACTIVE. -/
def act3 : Die → Die := fun d => d.set R.portLinkState 2 3
/-- Port 3 with a role. -/
def r3 (r a : Nat) : Die → Die := ro [(3, r, a)]
/-- Port 3 OFFLINE in a power state, its lanes locked. -/
def ps (n : Nat) : Die → Die := fun d => ((lk [0, 1, 2, 3] d).set R.portLinkState 3 3).set R.portLinkPs n 3
/-- Lane maps that port 3 has found. -/
def lanesRun (m : Nat → Nat) : Die → Die := fun d => (List.range 4).foldl (fun d l => d.modLane 3 l (fun x => { x with logRun := 3, logVal := m l })) d
/-- A received superframe. -/
def fr : RxFrame := ⟨⟨[], 8, 3⟩, ⟨[], 8, 3⟩, ⟨[], 8, 3⟩, ⟨[], 8, 3⟩, 99⟩
/-- Port 3 in PS bring-up. -/
def bring (m : Nat → Nat) (r : Nat) : State := up (fun d => lanesRun m (lk [0, 1, 2, 3] (r3 r 0 (d.set R.laneqPstatState 1 3))))
/-- Port 3 with all hello fragments, its link coming up. -/
def h1 : Die → Die := fun d => (d.modPort 3 (fun x => { x with hello := (List.range 13).map (fun n => (n, some 0)) })).set R.portLinkState 1 3
/-- Port 3 in INIT with all it needs to activate. -/
def ini (r : Nat) : Die → Die := fun d => prt (fun x => { x with credSeen := 15, settledIn := true, settledOut := true, hello := (List.range 13).map (fun n => (n, some 0)) }) (r3 r 0 (d.set R.portLinkState 1 3))
/-- Two TRUNK ports and a STACK role. -/
def t35 : Die → Die := ro [(3, 2, 0), (5, 2, 4)]
/-- Discovery in ELECT, eligible. -/
def el : Die → Die := fun d => ((d.set R.discStatPhase 1).set R.discCfgElig 1).set R.portLinkState 2 3
/-- Port 3 the tick parent's. -/
def par : Die → Die := fun d => (d.set R.discParentPort 3).setBit R.discParentValid true
/-- Port 3's far end offers itself as a parent. -/
def par1 : Die → Die := fun d => (d.modPort 3 (fun x => { x with hello := smapSet none x.hello 4 (some 0x11) })).set R.laneqPstatState 2 3
/-- An error record. -/
def rec (n : Nat) : ErrRec := { tick := 0, cyc := 0, code := BitVec.ofNat 16 n, sev := BitVec.ofNat 2 (n / 4), esc := false, tidv := false, mgmt := false, fenced := false, tid := 0, page := 0, die := 0, epoch := 0, drops := 0, seq := 0, detail := [1, 2, 3] }
/-- A page's FIFO. -/
def ff (l : List Nat) : PageErr := { PageErr.empty with fifo := l.map rec, k := 3 }
/-- Two errors of vat 3. -/
def err3 : Die → Die := fun d => (d.logErr .vat 3 0x901 1 [1, 2, 3]).logErr .vat 3 0x900 2 [7, 8, 9]
/-- A forwarded read. -/
def fa : FwdAcc := ⟨7, 1, .host, 0x4000010, false, 4, 0, 16⟩
/-- A packet of tenant 1 from and to port 5. -/
def pk0 : Packet := { Packet.blank with op := 1, cls := 2, deid := 5, seid := 5, tid := 1, len := 8, payload := [1, 2, 3, 4, 5, 6, 7, 8] }
/-- The same, with its checks. -/
def good : Packet := pk0.finish
/-- A queued head. -/
def qe (a : Nat) (pk : Packet) : QEnt := QEnt.mk pk 3 4 a false none none 0 none
/-- An output queue. -/
def qd (k : Nat) (l : List QEnt) : Die → Die := fun d => { d with sw := { d.sw with queue := [(k, l)] } }
/-- Tenant 1 ACTIVE on port 5. -/
def ten : Die → Die := fun d => { d.set R.tenStatState 1 0 1 with ten := { d.ten with ports := [(1, 0x20)] } }
/-- Tenant 1's quotas. -/
def quo : Die → Die := fun d => { d with hoops := { d.hoops with quota := [(1, 100000), (257, 10000), (513, 1000), (769, 100)] } }
/-- Packets that wait at port 5. -/
def w0 : WaitPkt := ⟨5, 4, good, false⟩
/-- See `w0`. -/
def wt : Die → Die := fun d => { d with dlv := { d.dlv with waiting := [⟨5, 6, good, false⟩, w0, ⟨5, 4, pk0, false⟩] } }
/-- An item of a destination flow. -/
def it0 : DstItem := ⟨4, good, none, false, false⟩
/-- A destination flow. -/
def df : DstFlow := { key := flowKey good, next := 4, top := 5, items := [it0], gap := 300, wait := 5000, idle := 0, pmask := 0, marks := 0, changed := [], abort := .none, rtn := none, path := 0 }
/-- Flow entry 9. -/
def fl (f : FlowEnt) : Die → Die := fun d => d.setFlow 9 f
/-- A source flow. -/
def sf0 : SrcFlow := { key := { seid := 5, deid := 0x45, tid := 1, cls := 2 }, port := 5, nextFseq := 10, rate := 100, echoed := false, due := 0, elig := false, idle := 0 }
/-- A ledger entry. -/
def le0 : LedEnt := { LedEnt.init with state := .sent, fseq := 8, lsn := 44, flow := 9, path := 3, pkt := { good with deid := 0x45 }, cell := 0 }
/-- Ledger entry 10 of port 5. -/
def ld (e : LedEnt) : Die → Die := fun d => d.setLed 20490 e
/-- A packet of end-to-end records. -/
def rp (op : Nat) (rs : List Nat) : Packet := ({ Packet.blank with op := BitVec.ofNat 8 op, tid := 1, seid := 0x45, deid := 5, addr := 2, payload := rs.flatMap (leBytes 8) }).finish
/-- A copy of an item. -/
def cp (n : Nat) : Packet := ({ pk0 with fseq := BitVec.ofNat 32 n, path := 5, mark := true }).finish
/-- An ALLOC. -/
def rq : HoopReq := { size := 100, tid := 1, mgmt := false, owners := [0x1005, 0x2005] }
/-- The state after a command. -/
def aft (i : Instr) (s : State) : State := match exec i s with
  | .next t => t
  | _ => s
/-- After an ALLOC, and after one of its owners has let go. -/
def al1 : State := aft (.hoopAlloc rq none) (up (fun d => quo (ten (rr d))))
/-- See `al1`. -/
def al2 : State := aft (.hoopRelease 0 0x1005 none false) al1
/-- Pools in QUARANTINE and WALK, a queued cell. -/
def reb : State := { al2 with die := ((al2.die.setHstate 0 1).setHstate 1 2).modCell 0 5 (fun c => { c with queued := true }) }
/-- What a vat's step finds. -/
def x0 : StepFind := ⟨[], none, false, false, 0, false, false, [], [], []⟩
/-- A tile. -/
def t0 : TileRun := { tid := 1, group := 3, cid := 1, chunk := 0, tile := 0, slot := 0, rset := 0, stage := 0, tree := 0, alt := false, lvat := 0, first := 0, step := 0, slots := [⟨3, [⟨1, 4, 4, false, 1, [5], none, 0, 16⟩], none⟩, ⟨4, [], some 4096⟩], ctx := ⟨⟨1, 2, 3, 4, 5⟩, 4, 0, 1, 1, 4, 4, 0⟩, bufs := [(1, [⟨1, 4, 4, false, 16, List.replicate 16 0x41⟩])], emax := [], born := 0, carried := false, reexec := false }
/-- A handle. -/
def he (h : Nat) : HandleEnt := { valid := true, cls := false, poison := false, mgmt := false, padk := 0, tid := 1, base := h, len := 0, ltag := 0, padv := 0, slot := 0 }
/-- Vat 3 with recipe words and two tiles. -/
def vt (ws : List Nat) (f : VatSt → VatSt := id) : Die → Die := fun d => d.modVat 3 (fun s => f { s with handles := [(1, some (he 1)), (2, some (he 2))], recipe := ws.zipIdx.map (fun x => (x.2, some (x.1, 0))), queue := [t0, { t0 with tile := 1, step := 2 }] })
/-- A recipe word. -/
def W (op : Nat) (hi : Nat := 0) : Nat := op + 2 ^ 20 + 2 * 2 ^ 26 + 2 ^ 8 + 2 ^ 12 + 3 * 2 ^ 40 + hi
/-- Every port of CASC.ROLE0 and ROLE1 IDLE that the tests name. -/
def idl : Die → Die := fun d => [0, 1, 2, 3, 16, 17].foldl (fun d p => d.hset R.hdrStatState 3 .port p) d
/-- A plan image. -/
def img0 : PlanImg := { tid := 1, repl := false, len := 64, planId := 1, base := 0, period := 1, depth := 1, replaces := 0, pseed := 1, hash := 1, shash := 1, grps := [], mem := [], trees := [], rsvs := [], rsets := [], rcps := [], hdls := [], wdata := [], caves := [] }
/-- The same with a handle of class 0. -/
def img1 : PlanImg := { img0 with hdls := [⟨0, 3, false, 0, 0, 0, 0, 0, 0⟩] }
/-- A plan slot. -/
def pl (k st : Nat) (f : PlanSlot → PlanSlot := id) : Die → Die := fun d => d.modPlan k (fun p => f { p with state := st })
/-- The tick edge finds no entry. -/
def e0 (k : Nat) : RpEnt := { next := 32, tick := 0, fofs := 0, kind := k, port := 3, tid := 0, flags := 0, crc := 0, arg := 5, data := [], bad := false }
/-- Replay runs. -/
def rpl : Die → Die := fun d => (((((d.set R.detRpState 1).set R.detRpCtlEn 1).set R.detRpCtlInject 1).set R.detRpPortsLo 8).set R.caveMgmtGib 2).set R.detRecCtlOwnerMgmt 1
/-- A log of entries. -/
def lg (k : Nat) : Die → Die := fun d => { d.caveWrite 0 (logEntry 0 0 k 3 0 0 0 5 []) with fresh := 0 }
/-- A group entry. -/
def ge0 : GroupEnt := { tid := 1, home := 0, hasq := true, lkind := false, leid := 5, nmem := 2, smallMax := 4, nt := 1, lead := 4, early := 2, holdMax := 20, ltag := 1, mbase := 0, slot := 0, chunkMax := 100000 }
/-- A tree's root on this die. -/
def tr0 : TreeRec := ⟨3, 6, false, true, (0, 0), 0, [], [0]⟩
/-- A tree's leaf on this die. -/
def tr1 : TreeRec := ⟨3, 6, false, false, (0, 1), 4, [], [0]⟩
/-- Group 3 on this die, its HOME on die `h`. -/
def gg (x : GroupSt → GroupSt) (t : TreeRec := tr0) (h : Nat := 0) : Die → Die := fun d => (d.modGroup 3 (fun _ => x { GroupSt.init with ent := some { ge0 with home := h } })).modPlan 0 (fun _ => { PlanSlot.empty with state := 3, img := some { img0 with mem := [5, 0x45], rsets := [⟨3, 0, 0x7F, false, false, true, false, false, 0, 0, 0, 1, 1, 64, 0, [], []⟩], trees := [t] } })
/-- The acting master, with CXL.mem enabled and requester 7 allowed. -/
def mem1 : Die → Die := fun d => ((((d.set R.caveMgmtGib 2).set R.cascStatMaster d.pos).set R.hostLinkMemEn 1).set R.hostRidAllowRid 7 0 1).set R.hostRidAllowValid 1 0 1
/-- A descriptor of 100 units in slot 0 of group 3. -/
def dsc (cnt : Nat) : Die → Die := fun d => d.caveWrite 0x12000 (leBytes 64 (3 + 2 ^ 8 + 2 ^ 32 * 9 + cnt * 2 ^ 64))
/-- A descriptor. -/
def de0 : Descr := ⟨1, 0, 0, false, 9, 0, 100, 0, 0, false⟩
/-- A running collective of two chunks. -/
def run0 : CollRun := { d := de0, home := 0, sqSlot := 0, start := 0, alg := 1, chunkB := 2048, total := 3200, nchunks := 2, next := 0, cstop := none, acked := [], fins := [], lastFin := 0, ovr := 0, held := 0, exact := true, slow := false, switched := [], anySwitch := false, arrived := 0, ended := none, chunks := [] }
/-- The same with every FIN. -/
def run1 : CollRun := { run0 with fins := [0, 1], chunks := [(0, { ChunkSt.init with fin := some 0 }), (1, { ChunkSt.init with fin := some 0 })] }
/-- A broadcast, for which this die owes no contribution. -/
def run4 : CollRun := { run0 with d := { de0 with op := 4, root := 1 } }
/-- A group runs a collective. -/
def wr (r : CollRun) : GroupSt → GroupSt := fun g => { g with run := some r }
/-- A control packet of group 3. -/
def cc (kind : Nat) (cid : Nat := 9) (arg : Nat := 0) : Packet := ({ Packet.blank with op := 8, tid := 1, seid := 0x40, group := 3, cid := BitVec.ofNat 16 cid, addr := BitVec.ofNat 64 kind, arg := BitVec.ofNat 64 arg }).finish
/-- A PARTIAL of group 3. -/
def pp (cid arg : Nat) : Packet := ({ Packet.blank with op := 0x11, tid := 1, seid := 0x40, group := 3, cid := BitVec.ofNat 16 cid, arg := BitVec.ofNat 64 arg, payload := [1, 2, 3] }).finish
/-- A CCTL item of port 5. -/
def cl (h : Nat) (led : Packet) (st : LedState) (own : Bool := true) : Die → Die := fun d => (gg (fun g => { g with run := some run0, ent := some { ge0 with lkind := true, leid := 0x40, home := h } }) tr0 h (mem1 (rr d))).setLed 20490 { LedEnt.init with state := st, own := own, pkt := led }
/-- Tenant 5 in a state, while Gnotik runs. -/
def t5 (n : Nat) : Die → Die := fun d => { d.set R.tenStatState n 1 1 with boot := { d.boot with gnotik := true } }
/-- A cell of tenant 5. -/
def c5 : HoopCell := { State.reset.die.hcell 0 7 with tid := 5, owners := [owner 1 3], mgmt := false }
/-- SPDM connections. -/
def spst (n : Nat) : Die → Die := fun d => { d.set R.chipStrapBootSrc 1 with boot := { d.boot with gnotik := true }, sec := { d.sec with spdm := smapSet 0 (smapSet 0 [] 0 n) 1 n } }
/-- MSI-X of vector 3. -/
def ms (en um pb : Bool) (g : Option Bool) (ds : Nat := 0) : Die → Die := fun d => { (mem1 d).set R.hostLinkDstate ds with msix := ⟨en, if um then [(3, true)] else [], if pb then [(3, true)] else [], match g with
  | some x => [(3, some x)]
  | none => []⟩ }
/-- Cave window 1, of MGMT or of tenant 5. -/
def win (v mg : Nat) : Die → Die := fun d => { ((((mem1 d).set R.hostCwinValid v 0 1).set R.hostCwinMgmt mg 0 1).set R.hostCwinTid 5 0 1).set R.hostCwinGib 0 0 1 with cave := { d.cave with tmap := [(5, BitVec.ofNat 32 (4 + 2 ^ 16))] } }
/-- A DMA descriptor in flight. -/
def jb (op len mv : Nat) (st : Option Nat) : DmaJob := { slot := 4, op := op, irq := true, mgmt := true, tid := 0, len := len, haddr := 0x1000, cofs := 0x100000, tag := 9, moved := mv, status := st }
/-- DMA queue 1. -/
def dq (j : List DmaJob) (h : Option (List Byte × Bool) := none) : Die → Die := fun d => { mem1 d with host := { d.host with dma := [(1, { DmaQ.init with jobs := j, heldRec := h })] } }
/-- Mailbox slot 3, rung. -/
def slot (op b0 : Nat) (b3 : Nat := 0) (ord : List Nat := [3]) : Die → Die := fun d => { (mem1 d).caveWrite (mboxAddr 3) (leBytes 64 (b0 + 2 ^ 8 * op + 2 ^ 24 * b3 + 2 ^ 64 * 0x40)) with host := { d.host with order := ord, mbox := [(3, ⟨false, 16, 5⟩)] } }
/-- Gnotik runs with a regulator. -/
def gn : Die → Die := fun d => { d.set R.pwrAvsEn 1 with boot := { d.boot with gnotik := true }, casc := { d.casc with vrAddr := [0x20, 0x21, 0x22, 0x23] } }
/-- A flash command runs. -/
def flc (c : Nat) : Die → Die := fun d => { d with smb := { d.smb with cmd := some (c, 0x10000) } }
/-- What a boot finds. -/
def b0 (rb : Nat) : BootIn := ⟨BitVec.ofNat 2 rb, 0, true, none, none, none, 0x3FF⟩
/-- A boot's stage. -/
def bs (n : Nat) (he : Bool := false) (gn : Bool := true) : Die → Die := fun d => { d with boot := { d.boot with stage := n, held := he, gnotik := gn, hostReady := false } }
/-- All that host-ready needs. -/
def rdy : Die → Die := fun d => (((List.range 10).foldl (fun d k => d.set R.caveStatState 1 k) d).set R.tickStatState 1).set R.cascStatPresent 1
/-- Telemetry at a capture edge. -/
def cap (wr : Bool) : Die → Die := fun d => { ((d.set R.telemStatState 1).set R.telemRingLen 4).set R.telemHead 3 with telem := { d.telem with e0 := some (2 ^ 48 - 1), writing := if wr then some [(0, [1, 2])] else none } }
/-- A plan image without sections, before its hash. -/
def hd0 : List Byte := leBytes 32 (0x4E4C504B + 2 ^ 32 + 2 ^ 48 + 2 ^ 64 * 192 + 2 ^ 96 * 7 + 2 ^ 128 * 1000 + 2 ^ 192 + 2 ^ 208 + 2 ^ 216 * 2) ++ List.replicate 160 0
/-- Slot `k` is loading from a page of plan memory that holds the image with its hash. -/
def planMem (k : Nat) : Die → Die := fun d => { pl k 1 id d with plans := { (pl k 1 id d).plans with job := some k, mem := bytesPut [] 0 (hd0.take 0x80 ++ sha384 hd0 ++ List.replicate 16 0) } }

/-! ### Worked cases of the spec -/

/-- Die 1, with no error latched. -/
def die1 : State := up (fun d => tk 0x123456789ABC (d.set R.chipStrapCascPos 1))
/-- An access of the host that the master has forwarded to die 1. -/
def hostAcc (a : Nat) (bs : List (Option Byte)) : Access := ⟨.host, true, 0, BitVec.ofNat 28 a, bs⟩
/-- KIND, CLASS, WRITE and ACC_ADDR of die 1 after an access, and whether ACCESS_ERR stands in the TICK page and in the CHIP page. -/
def accSeen (i : Instr) : Nat × Nat × Nat × Nat × Nat × Nat :=
  let e := (aft i die1).die
  (e.get R.chipAccKind, e.get R.chipAccClass, e.get R.chipAccWrite, e.get R.chipAccAddrAddr, e.hget R.hdrStatAccessErr .tick,
    e.hget R.hdrStatAccessErr .chip)

/-- Spec 24, Access rules: the worked case's 8-byte read of TICK.COUNT uses one count. -/
theorem test_access_pair : (aft (.rcRead (hostAcc 0x4001048 (List.replicate 8 (some 0)))) die1).die.out.getLast?
    = some (.answer .host 0x4001048 .ok [0xBC, 0x9A, 0x78, 0x56, 0x34, 0x12, 0, 0]) := by decide +kernel
/-- Spec 24: bytes 2 and 3 of COUNT_LO. -/
theorem test_access_part : (aft (.pairLowRead (hostAcc 0x400104A (List.replicate 2 (some 0)))) die1).die.out.getLast?
    = some (.answer .host 0x400104A .ok [0x78, 0x56]) := by decide +kernel
/-- Spec 24: a 1-byte write of TICK.CFG is NARROW. -/
theorem test_access_narrow : accSeen (.registerWrite (hostAcc 0x4001040 [some 1])) = (6, 1, 1, 0x1040, 1, 0) := by decide +kernel
/-- Spec 24: a 4-byte write at offset 0x042 is CROSS. -/
theorem test_access_cross : accSeen (.registerWrite (hostAcc 0x4001042 (List.replicate 4 (some 1)))) = (3, 1, 1, 0x1042, 0, 1) := by decide +kernel
/-- Spec 24: an 8-byte read of two registers that are no pair is WIDE. -/
theorem test_access_wide : accSeen (.rcRead (hostAcc 0x4001040 (List.replicate 8 (some 1)))) = (5, 1, 0, 0x1040, 1, 0) := by decide +kernel
/-- Spec 24: an unimplemented offset. -/
theorem test_access_offset : accSeen (.rcRead (hostAcc 0x4001FF0 (List.replicate 4 (some 1)))) = (4, 1, 0, 0x1FF0, 1, 0) := by decide +kernel
/-- Spec 24: an unimplemented page. -/
theorem test_access_page : accSeen (.rcRead (hostAcc 0x400F000 (List.replicate 4 (some 1)))) = (1, 1, 0, 0xF000, 0, 1) := by decide +kernel
/-- Spec 03, endpoint numbers: 0x1_57D1 is port 17 of die 3 of node (5, 2, 7). -/
theorem test_eid : (eidNode 0x157D1, eidDie 0x157D1, eidPort 0x157D1) = (0o527, 3, 17) := by decide
/-- Spec 07, congestion: 128, marked three times. -/
theorem test_weight : harpWeight 4 2 1 true 128 = 96 ∧ harpWeight 4 2 1 true 96 = 72 ∧ harpWeight 4 2 1 true 72 = 54 := by decide
/-- Spec 09: a flow at RATE 2,048 pays 13,260 units for 65 flits. -/
theorem test_rate : Die.advanceDue 2048 0 0 65 = 13260 := by decide
/-- Spec 12: MXFP8 of 0.8125 and −0.1 (BF16 0xBDCD). -/
theorem test_mxfp8 : mxBlock 6 ⟨0, false, [], 0, 0⟩ [((unpackElem 3 0x3F50).res, 0, true), ((unpackElem 3 0xBDCD).res, 0, true)]
    = (0x76, [0x7D, 0xE5] ++ List.replicate 30 (padElem 6 0 0), 0) := by decide +kernel
/-- Spec 12: stochastic rounding of 1 + 2^−9 to BF16, at the boundary draw. -/
theorem test_cast : packFloat ⟨8, 7, 127, 0⟩ 3 0x3FFFFF (fp32Val 0x3F804000).res = 0x3F81
    ∧ packFloat ⟨8, 7, 127, 0⟩ 3 0x400000 (fp32Val 0x3F804000).res = 0x3F80 := by decide +kernel
/-- Spec 14: the draw 0x80_0000 lies in the last segment. -/
theorem test_segment : (segmentOf 0x800000).1 = 1 ∧ (segmentOf 0x800000).2.1 = 511 := by decide +kernel
/-- Spec 21: tenant 4 with BASE 100 and SIZE 64. -/
theorem test_cave_address :
    let d : Die := { State.reset.die with cave := { State.reset.die.cave with tmap := [(4, BitVec.ofNat 32 (100 + 64 * 2 ^ 16))] } }
    d.caveAddr (.tenant 4) 0x12345040 64 = some 0x1912345040 ∧ Die.caveCtl (0x1912345040 / 64) = 5 := by decide +kernel
/-- Spec 22: C3 evicts the newest CORRECTED record and stands after C2. -/
theorem test_fifo : ((ff [4, 5, 0, 1, 2, 3, 0, 1]).offer (rec 6)).1.fifo.map (fun r => r.code.toNat) = [4, 5, 6, 0, 1, 2, 3, 0] := by decide +kernel
/-- Spec 25: 0x0B33 is the word of 0.7 V. -/
theorem test_vout : Die.voutWord 20 = 0x0B33 := by decide
/-- A queued command runs, and the queue's rest stays (log entry 1 names the idle step). -/
theorem test_step : (match step { State.reset with pending := [.holdover, .cascIsolated] } with
    | .next t => t.pending == [.cascIsolated]
    | _ => false) = true := by decide +kernel
/-- Every memory of the die is canonical at reset. -/
theorem test_reset_memory : State.reset.die.memWf = true := by decide +kernel

/-! ### Hypotheses of the statements: a state and operands for each clause -/

/-- The clauses named by number hold at each of the scenarios. -/
def met (l : List (List Bool × List Nat)) : Bool := l.all (fun x => x.2.all (fun k => x.1.getD k false))

/-- The hypotheses of `StepRunsFront`. -/
theorem test_hypotheses_StepRunsFront : ({ State.reset with pending := [.holdover] } : State).pending = .holdover :: [] ∧ State.reset.pending = [] := by
  decide +kernel

/-- A held die with a command that does not reach it. -/
def heldDie : State := ⟨[.holdover], { State.reset.die with boot := { State.reset.die.boot with held := true } }⟩

/-- The hypotheses of `HeldDieIsInert`. -/
theorem test_hypotheses_HeldDieIsInert :
    (match step heldDie with
      | .next t => t == { heldDie with pending := [] }
      | _ => false) = true ∧ heldDie.die.alive = false ∧ ∀ c ∈ heldDie.pending, reachesHeldDie c = false := by decide +kernel

/-- The hypothesis of `LittleEndianBytes`. -/
theorem test_hypotheses_LittleEndianBytes : (3 : Nat) < 4 := by decide

/-- The hypothesis of `ScramblerIsSelfSynchronous`, at its boundary. -/
theorem test_hypotheses_ScramblerIsSelfSynchronous : 58 ≤ (List.replicate 58 true).length := by decide

/-- What each clause of `LaneSuperframeRoundTrip` asks for. -/
def hyp_LaneSuperframeRoundTrip (_h : BitVec 58) (data sup : List Bool) : List Bool :=
  [decide (data.length = 4864 ∧ sup.length = 56)]

/-- The hypotheses of every clause of `LaneSuperframeRoundTrip` are met. -/
theorem test_hypotheses_LaneSuperframeRoundTrip : met [
    (hyp_LaneSuperframeRoundTrip 0 (List.replicate 4864 true) (List.replicate 56 false), [0])] = true
      := by decide +kernel

/-- What each clause of `RegisterAccesses`, part RegisterWriteThenRead asks for. -/
def hyp_RegisterWriteThenRead (s : State) (_n : Fin 4) (_w _v : Word) : List Bool :=
  [decide (Serves s .chip 0)]

/-- The hypotheses of every clause of `RegisterAccesses`, part RegisterWriteThenRead are met. -/
theorem test_hypotheses_RegisterWriteThenRead : met [
    (hyp_RegisterWriteThenRead (up (fun d => d.set R.chipAccCntCount 77)) 2 0xdeadbeef 5, [0])] = true
      := by decide +kernel

/-- What each clause of `RegisterAccesses`, part PairReadLatches asks for. -/
def hyp_PairReadLatches (s : State) (_w : Word) : List Bool :=
  [decide (Serves s .tick 0)]

/-- The hypotheses of every clause of `RegisterAccesses`, part PairReadLatches are met. -/
theorem test_hypotheses_PairReadLatches : met [
    (hyp_PairReadLatches (up (tk 0x123456789abc)) 5, [0])] = true := by decide +kernel

/-- What each clause of `RegisterAccesses`, part AccessErrorsShow asks for. -/
def hyp_AccessErrorsShow (s : State) (_w : Word) : List Bool :=
  [decide (s.die.alive = true),
   decide (s.die.alive = true ∧ s.die.underReset .vat 3 = true)]

/-- The hypotheses of every clause of `RegisterAccesses`, part AccessErrorsShow are met. -/
theorem test_hypotheses_AccessErrorsShow : met [
    (hyp_AccessErrorsShow (up (fun d => d.hset R.hdrStatReset 1 .vat 3)) 5, [0, 1])] = true := by
  decide +kernel

/-- What each clause of `SmbusAndManagement`, part SmbusTarget asks for. -/
def hyp_SmbusTarget (s : State) (n : Fin 4) (_w : Word) (_data : List Byte) (code : BitVec 8) (badPec : Bool) : List Bool :=
  [decide (s.die.alive = true),
   decide (s.die.alive = true ∧ s.die.underReset .chip 0 = false ∧ s.die.smb.raddr.toNat = 0x70 + 4 * n.val),
   decide (s.die.alive = true ∧ (badPec = true ∨ code.toNat < 0x0F ∨ 0x12 < code.toNat))]

/-- The hypotheses of every clause of `SmbusAndManagement`, part SmbusTarget are met. -/
theorem test_hypotheses_SmbusTarget : met [
    (hyp_SmbusTarget (up (fun d => { d with smb := { d.smb with raddr := 0x74 } })) 1 0xabcdef12 [3] 0x55 false,
      [0, 1, 2])] = true := by decide +kernel

/-- What each clause of `SmbusAndManagement`, part ManagementPackets asks for. -/
def hyp_ManagementPackets (s : State) (n : Fin 4) (pk : Packet) (w : Word) : List Bool :=
  [decide (Serves s .chip 0 ∧ pk.arg.toNat % 16 = 4 ∧ pk.addr.toNat % 0x4000000 = 0x70 + 4 * n.val ∧ pk.payload = leBytes 4 w.toNat),
   decide (Serves s .chip 0 ∧ pk.arg.toNat % 16 = 4 ∧ pk.addr.toNat % 0x4000000 = 0x70 + 4 * n.val)]

/-- The hypotheses of every clause of `SmbusAndManagement`, part ManagementPackets are met. -/
theorem test_hypotheses_ManagementPackets : met [
    (hyp_ManagementPackets up 2
      { Packet.blank with arg := 4, addr := 0x78, payload := leBytes 4 0xcafebabe, seid := 5 } 0xcafebabe, [0, 1])] = true := by decide +kernel

/-- What each clause of `PlanWindowWrites` asks for. -/
def hyp_PlanWindowWrites (s : State) (a : Nat) (_w : Word) : List Bool :=
  [decide (Serves s .plan 0 ∧ a % 64 ≤ 60 ∧ a + 4 ≤ 0x800000 ∧ s.die.planPageUsed (a / 4096) = false),
   decide (Serves s .plan 0 ∧ a % 64 ≤ 60 ∧ a + 4 ≤ 0x800000 ∧ s.die.planPageUsed (a / 4096) = true)]

/-- The hypotheses of every clause of `PlanWindowWrites` are met. -/
theorem test_hypotheses_PlanWindowWrites : met [
    (hyp_PlanWindowWrites up 0x40 5, [0]),
    (hyp_PlanWindowWrites (up (pl 0 1)) 0x40 5, [1])] = true := by
      decide +kernel

/-- What each clause of `TickEffects`, part SlowMarksCollective asks for. -/
def hyp_SlowMarksCollective (s : State) (g : BitVec 12) (r : CollRun) : List Bool :=
  [decide (s.die.alive = true ∧ (s.die.group g.toNat).run = some r ∧ r.slow = false ∧ 5 ≤ smapGet 0 s.die.tick.ovrRun g.toNat)]

/-- The hypotheses of every clause of `TickEffects`, part SlowMarksCollective are met. -/
theorem test_hypotheses_SlowMarksCollective : met [
    (hyp_SlowMarksCollective (up (fun d =>
      { (d.modGroup 5 (fun x => { x with run := some run0 })).modGroup 9 (fun x => { x with stalled := true }) with tick := { d.tick with ovrRun := [(5, 5)] } }))
      5 run0, [0])] = true := by decide +kernel

/-- What each clause of `TickEffects`, part TickLengthWrite asks for. -/
def hyp_TickLengthWrite (s : State) (_c : Cls) (w : Word) : List Bool :=
  let v := w.toNat % 8
  let d := s.die
  [decide (Serves s .tick 0 ∧ d.locked .tick = false ∧ v ≤ 4 ∧ d.planLoaded = false ∧ ((d.get R.cascTopoMode = 0 ∨ d.phase = 0 ∨ d.phase = 8 ∨ d.phase = 10))),
   decide (Serves s .tick 0 ∧ (d.locked .tick = true ∨ 4 < v ∨ d.planLoaded = true ∨ ¬ (d.get R.cascTopoMode = 0 ∨ d.phase = 0 ∨ d.phase = 8 ∨ d.phase = 10)))]

/-- The hypotheses of every clause of `TickEffects`, part TickLengthWrite are met. -/
theorem test_hypotheses_TickLengthWrite : met [
    (hyp_TickLengthWrite (up (fun d => d.set R.cascTopoMode 0)) .host 3, [0]),
    (hyp_TickLengthWrite up
      .host 6, [1])] = true := by decide +kernel

/-- What each clause of `TickEffects`, part TickEdgeAdvances asks for. -/
def hyp_TickEdgeAdvances (s : State) (_x : EdgeIn) : List Bool :=
  [decide (s.die.alive = true),
   decide (s.die.alive = true ∧ s.die.tick.count = BitVec.allOnes 48)]

/-- The hypotheses of every clause of `TickEffects`, part TickEdgeAdvances are met. -/
theorem test_hypotheses_TickEdgeAdvances : met [
    (hyp_TickEdgeAdvances (up (tk (2 ^ 48 - 1))) ⟨[], [], [], [], []⟩, [0, 1])] = true := by decide +kernel

/-- What each clause of `RundownPhases`, part RundownRequested asks for. -/
def hyp_RundownRequested (s : State) (_c : Cls) (u : UnitId) (t : PageType) (i : Nat) : List Bool :=
  [decide (unitPage u = some (t, i) ∧ Serves s t i)]

/-- The hypotheses of every clause of `RundownPhases`, part RundownRequested are met. -/
theorem test_hypotheses_RundownRequested : met [
    (hyp_RundownRequested up .host (.vat 3) .vat 3, [0])] = true := by decide +kernel

/-- What each clause of `RundownPhases`, part RundownCleared asks for. -/
def hyp_RundownCleared (s : State) (_c : Cls) (v : BitVec 5) : List Bool :=
  [decide (Serves s .vat v.toNat)]

/-- The hypotheses of every clause of `RundownPhases`, part RundownCleared are met. -/
theorem test_hypotheses_RundownCleared : met [
    (hyp_RundownCleared up .host 3, [0])] = true := by decide +kernel

/-- What each clause of `RundownPhases`, part RundownReachesIdle asks for. -/
def hyp_RundownReachesIdle (s : State) (v : BitVec 5) : List Bool :=
  let r := s.die.rundown (.vat v)
  [decide (s.die.alive = true ∧ r.phase = .draining ∧ s.die.unitEmpty (.vat v) = true)]

/-- The hypotheses of every clause of `RundownPhases`, part RundownReachesIdle are met. -/
theorem test_hypotheses_RundownReachesIdle : met [
    (hyp_RundownReachesIdle (up (rd (.vat 3) .draining (fun r => { r with left := 4 }))) 3, [0])] = true :=
      by decide +kernel

/-- What each clause of `RundownPhases`, part RundownBoundCuts asks for. -/
def hyp_RundownBoundCuts (s : State) (u : UnitId) (_d : Die) (_v : BitVec 5) : List Bool :=
  [decide (s.die.alive = true ∧ (s.die.rundown u).phase = .draining ∧ (s.die.rundown u).left = 0),
   decide (s.die.alive = true)]

/-- The hypotheses of every clause of `RundownPhases`, part RundownBoundCuts are met. -/
theorem test_hypotheses_RundownBoundCuts : met [
    (hyp_RundownBoundCuts (up (rd (.vat 3) .draining)) (.vat 3) (up).die 3, [0, 1])] = true := by
  decide +kernel

/-- What each clause of `RundownPhases`, part RundownEdges asks for. -/
def hyp_RundownEdges (d : Die) (u : UnitId) (v : UnitId) : List Bool :=
  let r := d.rundown u
  [decide (r.phase = .run),
   decide (r.phase = .closing),
   decide (r.phase = .draining),
   decide (r.phase = .idle),
   decide (v ≠ u)]

/-- The hypotheses of every clause of `RundownPhases`, part RundownEdges are met. -/
theorem test_hypotheses_RundownEdges : met [
    (hyp_RundownEdges up.die (.vat 3) (.vat 4), [0, 4]),
    (hyp_RundownEdges (up (rd (.vat 3) .closing)).die
      (.vat 3) (.vat 4), [1]),
    (hyp_RundownEdges (up (rd (.vat 3) .draining (fun r => { r with left := 4 }))).die (.vat 3) (.vat 4), [2]),
   
      (hyp_RundownEdges (up (rd (.vat 3) .idle)).die (.vat 3) (.vat 4), [3])] = true := by decide +kernel

/-- What each clause of `PageControls`, part PageEnableGates asks for. -/
def hyp_PageEnableGates (s : State) (_c : Cls) (v : BitVec 5) : List Bool :=
  [decide (Serves s .vat v.toNat)]

/-- The hypotheses of every clause of `PageControls`, part PageEnableGates are met. -/
theorem test_hypotheses_PageEnableGates : met [
    (hyp_PageEnableGates up .host 3, [0])] = true := by decide +kernel

/-- What each clause of `PageControls`, part PageResetAndFence asks for. -/
def hyp_PageResetAndFence (s : State) (_c : Cls) (v : BitVec 5) (p : BitVec 6) : List Bool :=
  [decide (Serves s .vat v.toNat ∧ (s.die.rundown (.vat v)).phase = .run),
   decide (Serves s .port p.toNat ∧ (s.die.rundown (.port p)).phase = .run ∧ s.die.hget R.hdrCtlFence .port p.toNat = 0),
   decide (Serves s .vat v.toNat ∧ s.die.hget R.hdrCtlFence .vat v.toNat = 1 ∧ s.die.fatalHeld .vat v.toNat = false),
   decide (Serves s .vat v.toNat ∧ s.die.hget R.hdrCtlFence .vat v.toNat = 1 ∧ s.die.fatalHeld .vat v.toNat = true)]

/-- The hypotheses of every clause of `PageControls`, part PageResetAndFence are met. -/
theorem test_hypotheses_PageResetAndFence : met [
    (hyp_PageResetAndFence up .host 3 4, [0, 1]),
    (hyp_PageResetAndFence (up (fun d => d.hset
      R.hdrCtlFence 1 .vat 3)) .host 3 4, [2]),
    (hyp_PageResetAndFence (up (fun d => (d.logErr .vat 3 0x900 2).hset R.hdrCtlFence 1 .vat 3)) .host 3 4,
      [3])] = true := by decide +kernel

/-- What each clause of `ErrorFifoOrder` asks for. -/
def hyp_ErrorFifoOrder (p : PageErr) (r : ErrRec) : List Bool :=
  [decide (p.fifo.Pairwise (fun a b => b.sev.toNat ≤ a.sev.toNat) ∧ p.fifo.length ≤ 8),
   decide (p.fifo.Pairwise (fun a b => b.sev.toNat ≤ a.sev.toNat) ∧ p.fifo.length ≤ 8 ∧ p.fifo.length < 8),
   decide (p.fifo.Pairwise (fun a b => b.sev.toNat ≤ a.sev.toNat) ∧ p.fifo.length ≤ 8 ∧ (p.offer r).2 = true)]

/-- The hypotheses of every clause of `ErrorFifoOrder` are met. -/
theorem test_hypotheses_ErrorFifoOrder : met [
    (hyp_ErrorFifoOrder (ff [12, 9]) (rec 0), [0, 1]),
    (hyp_ErrorFifoOrder (ff [12, 9, 8, 7, 6, 5, 4, 4])
      (rec 5), [2])] = true := by decide +kernel

/-- What each clause of `ErrorHeadReadsAndPops`, part ErrorHeadReads asks for. -/
def hyp_ErrorHeadReads (s : State) (_c : Cls) (page : BitVec 10) (t : PageType) (i : Nat) : List Bool :=
  [decide (pageAt page.toNat = some (t, i) ∧ Serves s t i)]

/-- The hypotheses of every clause of `ErrorHeadReadsAndPops`, part ErrorHeadReads are met. -/
theorem test_hypotheses_ErrorHeadReads : met [
    (hyp_ErrorHeadReads (up err3) .host 0xA3 .vat 3, [0])] = true := by decide +kernel

/-- What each clause of `ErrorHeadReadsAndPops`, part ErrorPops asks for. -/
def hyp_ErrorPops (s : State) (_c : Cls) (page : BitVec 10) (t : PageType) (i : Nat) : List Bool :=
  [decide (pageAt page.toNat = some (t, i) ∧ Serves s t i),
   decide (pageAt page.toNat = some (t, i) ∧ Serves s t i ∧ s.die.pendOf page.toNat = [] ∧ s.die.err.waiting = [] ∧ s.die.hoops.held = [])]

/-- The hypotheses of every clause of `ErrorHeadReadsAndPops`, part ErrorPops are met. -/
theorem test_hypotheses_ErrorPops : met [
    (hyp_ErrorPops (up err3) .host 0xA3 .vat 3, [0, 1])] = true := by decide +kernel

/-- What each clause of `WatchdogLockAndRetry`, part WatchdogAndLock asks for. -/
def hyp_WatchdogAndLock (s : State) (_c : Cls) (page : BitVec 10) (t : PageType) (i : Nat) : List Bool :=
  [decide (s.die.alive = true ∧ s.die.get R.errlogCfgWdog ≠ 0 ∧ s.die.err.wdogLogged = false ∧ s.die.boot.stage ≠ 0),
   decide (s.die.alive = true ∧ Serves s .errlog 0),
   decide (s.die.alive = true ∧ pageAt page.toNat = some (t, i) ∧ Serves s t i ∧ s.die.locked t i = false),
   decide (s.die.alive = true ∧ pageAt page.toNat = some (t, i) ∧ Serves s t i ∧ s.die.locked t i = true)]

/-- The hypotheses of every clause of `WatchdogLockAndRetry`, part WatchdogAndLock are met. -/
theorem test_hypotheses_WatchdogAndLock : met [
    (hyp_WatchdogAndLock (up err3) .host 0xA3 .vat 3, [0, 1, 2]),
    (hyp_WatchdogAndLock (up (fun d =>
      d.hset R.hdrLock 1 .vat 3)) .host 0xA3 .vat 3, [3])] = true := by decide +kernel

/-- What each clause of `WatchdogLockAndRetry`, part RetryReturns asks for. -/
def hyp_RetryReturns (s : State) (pk : Packet) (x : Nat × Nat × Nat × Nat) (r : List (Nat × Nat × Nat × Nat)) : List Bool :=
  [decide (s.die.alive = true ∧ pk.op = 0x24 ∧ pk.epoch.toNat ≠ s.die.hget R.hdrEpoch .coll (pk.group.toNat / 256)),
   decide (s.die.alive = true ∧ pk.op = 0x24 ∧ pk.epoch.toNat = s.die.hget R.hdrEpoch .coll (pk.group.toNat / 256)),
   decide (s.die.alive = true ∧ pk.op = 0x24 ∧ s.die.returned = x :: r)]

/-- The hypotheses of every clause of `WatchdogLockAndRetry`, part RetryReturns are met. -/
theorem test_hypotheses_RetryReturns : met [
    (hyp_RetryReturns up { Packet.blank with op := 0x24, epoch := 1, payload := leBytes 8 0x1122334455667788 }
      (1, 2, 3, 4) [], [0]),
    (hyp_RetryReturns up { Packet.blank with op := 0x24, epoch := 0, payload := leBytes 8 0x1122334455667788 } (1, 2, 3, 4) [],
      [1]),
    (hyp_RetryReturns (up (fun d => { d with returned := [(1, 2, 3, 4)] }))
      { Packet.blank with op := 0x24, epoch := 0, payload := leBytes 8 0x1122334455667788 } (1, 2, 3, 4) [], [2])] = true := by decide +kernel

/-- What each clause of `FormationAndForwarding`, part FormationEnds asks for. -/
def hyp_FormationEnds (s : State) (gap : Bool) : List Bool :=
  [(let g : Bool := gap; decide (s.die.alive = true ∧ s.die.forming = true ∧ s.die.pos = 0 ∧ s.die.refusalCause g ≠ 0)),
   (let g : Bool := gap; decide (s.die.alive = true ∧ s.die.forming = true ∧ s.die.pos = 0 ∧ s.die.refusalCause g = 0)),
   (let g : Bool := false; decide (s.die.alive = true ∧ s.die.forming = true ∧ s.die.pos = 1 ∧ (s.die.heard.any (fun h => h.1 == 0)) = false ∧ s.die.refusalCause
      g ≠ 0)),
   (let g : Bool := false; decide (s.die.alive = true ∧ s.die.forming = true ∧ s.die.pos = 1 ∧ (s.die.heard.any (fun h => h.1 == 0)) = false ∧ s.die.refusalCause
      g = 0))]

/-- The hypotheses of every clause of `FormationAndForwarding`, part FormationEnds are met. -/
theorem test_hypotheses_FormationEnds : met [
    (hyp_FormationEnds (up (fun d => { d.set R.cascStatState 0 with casc := { d.casc with tablesOk := true } }))
      true, [0]),
    (hyp_FormationEnds (up (fun d => { d.set R.cascStatState 0 with casc := { d.casc with tablesOk := true } })) false, [1]),
   
      (hyp_FormationEnds (up (fun d =>
      { (d.set R.chipStrapCascPos 1).set R.cascStatState 0 with casc := { (d.set R.chipStrapCascPos 1).casc with tablesOk := true } })) true, [2]),
   
      (hyp_FormationEnds (up (fun d =>
      { ((d.set R.chipStrapCascPos 1).set R.cascStatState 0).set R.cascCfgDies 1 with casc := { d.casc with tablesOk := true } })) false, [3])] = true := by
      decide +kernel

/-- What each clause of `HeartbeatsAndLostDies`, part HeartbeatArrives asks for. -/
def hyp_HeartbeatArrives (s : State) (p : BitVec 6) (x : BitVec 2) : List Bool :=
  [decide (s.die.alive = true ∧ s.die.isStack p.toNat = true ∧ s.die.dieFenced x.toNat = true),
   decide (s.die.alive = true ∧ s.die.isStack p.toNat = true ∧ s.die.dieFenced x.toNat = false ∧ s.die.get R.cascStatState = 1 ∧ x.toNat = s.die.master ∧
      s.die.isMaster = false)]

/-- The hypotheses of every clause of `HeartbeatsAndLostDies`, part HeartbeatArrives are met. -/
theorem test_hypotheses_HeartbeatArrives : met [
    (hyp_HeartbeatArrives (up (stk 1)) 3 1, [1]),
    (hyp_HeartbeatArrives (up (fun d => (stk 1 d).set
      R.chipFenceDies 2)) 3 1, [0])] = true := by decide +kernel

/-- What each clause of `FormationAndForwarding`, part ForwardedReadsEnd asks for. -/
def hyp_ForwardedReadsEnd (s : State) (tag : BitVec 16) (ep : BitVec 8) (_data : List Byte) (f : FwdAcc) : List Bool :=
  [decide (s.die.alive = true ∧ ep.toNat ≠ s.die.hget R.hdrEpoch .casc),
   decide (s.die.alive = true ∧ s.die.casc.forwarded.find? (fun f => f.tag == tag.toNat) = some f ∧ ep.toNat = s.die.hget R.hdrEpoch .casc),
   decide (s.die.alive = true ∧ s.die.casc.forwarded.find? (fun f => f.tag == tag.toNat) = some f ∧ 16 ≤ f.ticks)]

/-- The hypotheses of every clause of `FormationAndForwarding`, part ForwardedReadsEnd are met. -/
theorem test_hypotheses_ForwardedReadsEnd : met [
    (hyp_ForwardedReadsEnd (up (fun d =>
      { d with casc := { d.casc with forwarded := [{ fa with tag := 6 }, fa] } })) 7 0 [1, 2, 3, 4, 5] fa, [1, 2]),
    (hyp_ForwardedReadsEnd (up (fun d =>
      { d with casc := { d.casc with forwarded := [{ fa with tag := 6 }, fa] } })) 7 1 [1, 2, 3, 4, 5] fa, [0])] = true := by decide +kernel

/-- What each clause of `HeartbeatsAndLostDies`, part MasterIsLost asks for. -/
def hyp_MasterIsLost (s : State) : List Bool :=
  [decide (s.die.alive = true ∧ s.die.beatsGone = true ∧ s.die.maliveLives = false),
   decide (s.die.alive = true ∧ s.die.beatsGone = true ∧ s.die.maliveLives = true ∧ (s.die.rundown .die).phase = .run ∧ (s.die.rundown .die).fence = false)]

/-- The hypotheses of every clause of `HeartbeatsAndLostDies`, part MasterIsLost are met. -/
theorem test_hypotheses_MasterIsLost : met [
    (hyp_MasterIsLost (up (fun d => (stk 1 d).set R.cascHbMiss 8)), [0]),
    (hyp_MasterIsLost (up (fun d =>
      ((stk 1 d).set R.cascHbMiss 8).set R.cascCfgMalive 1)), [1])] = true := by decide +kernel

/-- What each clause of `HeartbeatsAndLostDies`, part SilentDieIsFenced asks for. -/
def hyp_SilentDieIsFenced (s : State) (x : BitVec 2) : List Bool :=
  [decide (s.die.alive = true ∧ s.die.get R.cascStatState = 1 ∧ s.die.isMaster = true ∧ x.toNat ≠ s.die.pos ∧ s.die.diePresent x.toNat = true ∧ 8 ≤ smapGet 0
      s.die.casc.silent x.toNat)]

/-- The hypotheses of every clause of `HeartbeatsAndLostDies`, part SilentDieIsFenced are met. -/
theorem test_hypotheses_SilentDieIsFenced : met [
    (hyp_SilentDieIsFenced (up (fun d =>
      { stk 0 d with casc := { (stk 0 d).casc with silent := [(2, 8)] } })) 2, [0])] = true := by decide +kernel

/-- What each clause of `LanesGainAndLoseLock`, part LaneLocks asks for. -/
def hyp_LaneLocks (s : State) (p : BitVec 6) (l : BitVec 2) (_ofs : Fin 20) : List Bool :=
  let d := s.die
  let has (e : Die) (f : Fld) : Bool := e.bit f p.toNat l.toNat
  [decide (s.die.alive = true),
   decide (s.die.alive = true ∧ has d R.laneqLaneLstatCdrLock = true),
   decide (s.die.alive = true ∧ has d R.laneqLaneLstatBlLock = true ∧ has d R.laneqLaneLstatSfLock = false),
   decide (s.die.alive = true ∧ has d R.laneqLaneLstatBlLock = true)]

/-- The hypotheses of every clause of `LanesGainAndLoseLock`, part LaneLocks are met. -/
theorem test_hypotheses_LaneLocks : met [
    (hyp_LaneLocks up 3 1 5, [0]),
    (hyp_LaneLocks (up (fun d => ((lk [0, 2, 3] d).setBit R.laneqLaneLstatBlLock
      true 3 1).setBit R.laneqLaneLstatCdrLock true 3 1)) 3 1 19, [1, 2, 3])] = true := by decide +kernel

/-- What each clause of `LanesGainAndLoseLock`, part LaneLosesLock asks for. -/
def hyp_LaneLosesLock (s : State) (p : BitVec 6) (l : BitVec 2) (_bad : BitVec 6) : List Bool :=
  let d := s.die
  let has (e : Die) (f : Fld) : Bool := e.bit f p.toNat l.toNat
  [decide (s.die.alive = true ∧ has d R.laneqLaneLstatSfLock = true),
   decide (s.die.alive = true ∧ has d R.laneqLaneLstatSfLock = false),
   decide (s.die.alive = true ∧ has d R.laneqLaneLstatBlLock = true)]

/-- The hypotheses of every clause of `LanesGainAndLoseLock`, part LaneLosesLock are met. -/
theorem test_hypotheses_LaneLosesLock : met [
    (hyp_LaneLosesLock (up (fun d => ((lk [0, 1, 2, 3] d).set R.laneqPstatState 2 3).set R.portLinkState 2 3)) 3
      1 17, [0, 2]),
    (hyp_LaneLosesLock up 3 1 17, [1])] = true := by decide +kernel

/-- What each clause of `PortBringUp` asks for. -/
def hyp_PortBringUp (s : State) (_c : Cls) (p : BitVec 6) (d0 d1 d2 d3 : BitVec 4) (_lat : BitVec 12) (_f : RxFrame) (rev : Bool) : List Bool :=
  let d := s.die
  let q := p.toNat
  let depths := [d0.toNat, d1.toNat, d2.toNat, d3.toNat]
  let skew := depths.foldl max 0 - depths.foldl min 15
  [decide (s.die.alive = true ∧ (d.allSf q = true ∧ d.get R.laneqPstatState q = 1 ∧ (List.range 4).all (fun l => decide (3 ≤ (d.lane q l).logRun)) = true) ∧
      d.laneMap q = none),
   decide (s.die.alive = true ∧ (d.allSf q = true ∧ d.get R.laneqPstatState q = 1 ∧ (List.range 4).all (fun l => decide (3 ≤ (d.lane q l).logRun)) = true) ∧
      d.laneMap q = some rev ∧ 8 < skew),
   decide (s.die.alive = true ∧ (d.allSf q = true ∧ d.get R.laneqPstatState q = 1 ∧ (List.range 4).all (fun l => decide (3 ≤ (d.lane q l).logRun)) = true) ∧
      d.laneMap q = some rev ∧ skew ≤ 8 ∧ d.isDrop q = true ∧ d.bit R.laneqPstatCentred q = false ∧ (d.port q).recorded = false),
   decide (s.die.alive = true ∧ ((d.isTrunk q = true ∨ d.isStack q = true)) ∧ d.get R.laneqPstatState q ≠ 2),
   decide (s.die.alive = true ∧ d.isDrop q = true),
   decide (s.die.alive = true ∧ d.underReset .laneq q = false ∧ d.portIdle q = true),
   decide (s.die.alive = true ∧ d.underReset .laneq q = false ∧ d.portIdle q = false),
   decide (s.die.alive = true ∧ d.allSf q = false),
   decide (s.die.alive = true ∧ d.allSf q = true ∧ d.get R.portLinkPs q < 2)]

/-- The hypotheses of every clause of `PortBringUp` are met. -/
theorem test_hypotheses_PortBringUp : met [
    (hyp_PortBringUp (bring id 1) .host 3 1 2 3 4 77 fr false, [2, 4, 6, 8]),
    (hyp_PortBringUp (bring (fun l
      => 3 - l) 3) .host 3 1 2 3 10 77 fr true, [1, 3]),
    (hyp_PortBringUp (bring (fun _ => 1) 2) .host 3 1 2 3 10 77 fr true, [0]),
    (hyp_PortBringUp
      (up (fun d => lanesRun id (lk [0, 1, 2] (r3 1 0 d)))) .host 3 1 2 3 10 77 fr false, [7]),
    (hyp_PortBringUp (up (fun d => lanesRun id (lk [0, 1, 2,
      3] (r3 1 0 (d.hset R.hdrStatState 3 .port 3))))) .host 3 1 2 3 10 77 fr false, [5])] = true := by decide +kernel

/-- What each clause of `PortMessagesAndRepair`, part PortMessages asks for. -/
def hyp_PortMessages (s : State) (p : BitVec 6) (_t : BitVec 2) (_r : BitVec 4) : List Bool :=
  let d := s.die
  let x := d.port p.toNat
  [decide (s.die.alive = true),
   decide (s.die.alive = true ∧ d.supervised p.toNat = true),
   decide (s.die.alive = true ∧ d.supervised p.toNat = true ∧ x.psReq.isSome = true),
   decide (s.die.alive = true ∧ x.psReq = none),
   decide (s.die.alive = true ∧ 16 ≤ x.noProg ∧ x.unacked ≠ [])]

/-- The hypotheses of every clause of `PortMessagesAndRepair`, part PortMessages are met. -/
theorem test_hypotheses_PortMessages : met [
    (hyp_PortMessages (up (fun d => act3 (prt (fun x =>
      { x with psReq := some 1, noProg := 16, unacked := [(3, .null)] }) d))) 3 1 5, [0, 1, 2, 4]),
    (hyp_PortMessages (up act3) 3 1 5, [3])] = true := by
      decide +kernel

/-- What each clause of `PortMessagesAndRepair`, part CsyncRepairs asks for. -/
def hyp_CsyncRepairs (s : State) (p : BitVec 6) (vcp : BitVec 2) (a b : BitVec 15) : List Bool :=
  let d := s.die
  let v := 2 * vcp.toNat
  let x := d.vc p.toNat v
  let la := (a - x.rcv).toNat
  let lb := (b - (d.vc p.toNat (v + 1)).rcv).toNat
  [decide (s.die.alive = true ∧ s.die.supervised p.toNat = true ∧ la = 0 ∧ lb = 0),
   decide (s.die.alive = true ∧ s.die.supervised p.toNat = true ∧ 0 < la ∧ la ≤ (d.port p.toNat).grantG ∧ lb = 0),
   decide (s.die.alive = true ∧ s.die.supervised p.toNat = true ∧ (d.port p.toNat).grantG < la ∧ d.isDrop p.toNat = false)]

/-- The hypotheses of every clause of `PortMessagesAndRepair`, part CsyncRepairs are met. -/
theorem test_hypotheses_CsyncRepairs : met [
    (hyp_CsyncRepairs (up (fun d => act3 ((d.modVc 3 2 (fun v => { v with rcv := 5, ret := 9 })).modPort 3 (fun x
      => { x with grantG := 100 })))) 3 1 105 0, [1]),
    (hyp_CsyncRepairs (up (fun d => act3 ((d.modVc 3 2 (fun v =>
      { v with rcv := 5, ret := 9 })).modPort 3 (fun x => { x with grantG := 100 })))) 3 1 106 0, [2]),
    (hyp_CsyncRepairs (up (fun d => act3 ((d.modVc 3 2
      (fun v => { v with rcv := 5, ret := 9 })).modPort 3 (fun x => { x with grantG := 100 })))) 3 1 5 0, [0])] = true := by decide +kernel

/-- What each clause of `PortPowerStates` asks for. -/
def hyp_PortPowerStates (s : State) (_c : Cls) (p : BitVec 6) (t : BitVec 2) (w : Word) (o : BitVec 2) : List Bool :=
  let d := s.die
  let q := p.toNat
  let x := d.port q
  [decide (s.die.alive = true ∧ d.supervised q = true ∧ ((t = 1 ∨ t = 2)) ∧ x.psReq = some o),
   decide (s.die.alive = true ∧ d.supervised q = true ∧ ((t = 1 ∨ t = 2)) ∧ x.psReq = none ∧ d.psReason q t.toNat = 0),
   decide (s.die.alive = true ∧ d.supervised q = true ∧ ((t = 1 ∨ t = 2)) ∧ x.psReq = none ∧ d.psReason q t.toNat ≠ 0),
   decide (s.die.alive = true ∧ x.psAgreed = some t ∧ d.get R.portLinkPs q < t.toNat ∧ d.supervised q = true),
   decide (s.die.alive = true ∧ d.isDrop q = false ∧ d.link q = 3 ∧ d.get R.portLinkPs q = 1 ∧ d.allSf q = true),
   decide (s.die.alive = true ∧ d.link q ≠ 3),
   decide (s.die.alive = true ∧ d.isDrop q = false ∧ d.link q = 3 ∧ d.get R.portLinkPs q = 2 ∧ x.hold = none),
   decide (s.die.alive = true ∧ d.link q = 3 ∧ d.get R.portLinkPs q = 1 ∧ x.hold = none ∧ d.allSf q = true ∧ ((d.flitsQueued q = true ∨ d.planNames q = true ∨
      (d.get R.portPsctlTgt q = 0 ∧ d.get R.pwrModeState ≠ 2)))),
   decide (s.die.alive = true ∧ d.mayActivate q = true),
   decide (s.die.alive = true ∧ d.underReset .port q = false ∧ w.toNat % 4 ≠ 3),
   decide (s.die.alive = true ∧ d.underReset .port q = false ∧ w.toNat % 4 = 3)]

set_option maxRecDepth 2000 in
/-- The hypotheses of every clause of `PortPowerStates` are met. -/
theorem test_hypotheses_PortPowerStates : met [
    (hyp_PortPowerStates (up (fun d => act3 (prt (fun x => { x with psReq := some 2 }) d))) .host 3 1 0xC (2 :
      BitVec 2), [0, 5, 9]),
    (hyp_PortPowerStates (up (fun d => act3 (r3 2 0 d))) .host 3 1 0xC 2, [1]),
    (hyp_PortPowerStates (up (fun d => act3 (r3 2
      0 d))) .host 3 1 0xF 2, [10]),
    (hyp_PortPowerStates (up (fun d => act3 (r3 2 0 d))) .host 3 2 0xC 2, [2]),
    (hyp_PortPowerStates (up (fun d => ps
      1 (r3 2 0 (prt (fun x => { x with psAgreed := some 2 }) d)))) .host 3 1 0xC 2, [4, 7]),
    (hyp_PortPowerStates (up (fun d => ps 1 (r3 2 0 (prt (fun x
      => { x with psAgreed := some 2 }) d)))) .host 3 2 0xC 2, [3]),
    (hyp_PortPowerStates (up (fun d => ps 2 (r3 2 0 (prt (fun x =>
      { x with psAgreed := some 2 }) d)))) .host 3 1 0xC 2, [6]),
    (hyp_PortPowerStates (up (fun d => ini 1 d)) .host 3 1 0xC 2, [8])] = true := by
  decide +kernel

/-- What each clause of `CreditAndReceipts` asks for. -/
def hyp_CreditAndReceipts (s : State) (p : BitVec 6) (_vcp : BitVec 2) (_ra _rb : BitVec 15) (_mack mlast : BitVec 6) (_lsn : BitVec 16) (n : BitVec 6) : List
    Bool :=
  let d := s.die
  let q := p.toNat
  [decide (s.die.alive = true ∧ d.isDrop q = false),
   decide (s.die.alive = true ∧ d.isDrop q = true ∧ d.get R.portMsgMackOut q ≠ mlast.toNat),
   decide (s.die.alive = true ∧ d.isDrop q = true ∧ (d.port q).egressOut = []),
   decide (s.die.alive = true ∧ d.isDrop q = true ∧ n ≠ 0)]

/-- The hypotheses of every clause of `CreditAndReceipts` are met. -/
theorem test_hypotheses_CreditAndReceipts : met [
    (hyp_CreditAndReceipts (up (fun d => act3 (r3 2 0 (prt (fun x =>
      { x with unacked := [(3, .null), (4, .null), (5, .null)] }) d)))) 3 2 77 88 4 9 3 3, [0]),
    (hyp_CreditAndReceipts (up (fun d => act3 (r3 1 0 (prt
      (fun x => { x with unacked := [(3, .null), (4, .null), (5, .null)] }) d)))) 3 2 77 88 4 9 3 3, [1, 2, 3])] = true := by decide +kernel

/-- What each clause of `HellosAndRoot`, part RootIsElected asks for. -/
def hyp_RootIsElected (s : State) (a : Fin 3) : List Bool :=
  let d := s.die
  [decide (s.die.alive = true ∧ (d.isMaster = true ∧ d.phase = 1 ∧ d.rooted = none ∧ d.bit R.discCfgElig = true ∧ d.root = d.serial) ∧ d.get R.discCoordSizes = 0
      ∧ d.disc.walk = 0 ∧ (d.bundle (2 * a.val)).isEmpty = false),
   decide (s.die.alive = true ∧ ¬ (d.isMaster = true ∧ d.phase = 1 ∧ d.rooted = none ∧ d.bit R.discCfgElig = true ∧ d.root = d.serial)),
   decide (s.die.alive = true ∧ d.disc.rootElect = true ∧ d.size a.val = 0 ∧ d.cfgSize a.val = 0),
   decide (s.die.alive = true ∧ d.disc.rootElect = true ∧ d.size a.val = 0 ∧ d.cfgSize a.val ≠ 0 ∧ ((∀ b : Fin 3, b ≠ a → d.size b.val = 1)) ∧ d.cfgSize a.val ≤
      8),
   decide (s.die.alive = true ∧ (d.disc.rootElect = false ∨ d.size a.val ≠ 0))]

/-- The hypotheses of every clause of `HellosAndRoot`, part RootIsElected are met. -/
theorem test_hypotheses_RootIsElected : met [
    (hyp_RootIsElected (up (fun d => el (t35 d))) 0, [0, 4]),
    (hyp_RootIsElected (up (fun d =>
      { (el (t35 d)).set R.discCoordSizes 0x110 with disc := { d.disc with rootElect := true } })) 0, [2]),
    (hyp_RootIsElected (up (fun d =>
      { (((el (t35 d)).set R.discCoordSizes 0x110).set R.cascTopoDx 8).set R.cascTopoMode 2 with disc := { d.disc with rootElect := true } })) 0, [3]),
   
      (hyp_RootIsElected (up (fun d => t35 d)) 0, [1])] = true := by decide +kernel

/-- What each clause of `HellosAndRoot`, part HelloArrives asks for. -/
def hyp_HelloArrives (s : State) (p : BitVec 6) (frag : BitVec 4) (data : BitVec 32) : List Bool :=
  let d := s.die
  let q := p.toNat
  let x := d.port q
  let kept : PortSt := { x with hello := smapSet none x.hello frag.toNat (some data) }
  let d1 := d.modPort q (fun _ => kept)
  [decide (s.die.alive = true ∧ (d.link q = 0 ∨ d.role q = 0)),
   decide (s.die.alive = true ∧ d.link q ≠ 0 ∧ d.isDrop q = true ∧ 2 < frag.toNat),
   decide (s.die.alive = true ∧ (d.link q ≠ 0 ∧ d.role q ≠ 0 ∧ frag ≠ 15) ∧ ((d.isDrop q = true → frag.toNat ≤ 2)) ∧ d1.helloComplete q = false),
   decide (s.die.alive = true ∧ (d.link q ≠ 0 ∧ d.role q ≠ 0 ∧ frag ≠ 15) ∧ d.isDrop q = true ∧ frag.toNat ≤ 2 ∧ d1.helloComplete q = true ∧ d1.roleBad q = true
      ∧ x.mismatch = false ∧ d.isMaster = true ∧ d.phase ≠ 1 ∧ d.phase ≠ 3),
   decide (s.die.alive = true ∧ (d.link q ≠ 0 ∧ d.role q ≠ 0 ∧ frag ≠ 15) ∧ d.isTrunk q = true ∧ d1.helloComplete q = true ∧ d1.roleBad q = false ∧ x.mismatch =
      false ∧ d.get R.cascStatState = 1 ∧ d.phase ≠ 8 ∧ d.phase ≠ 0 ∧ d1.hf q 4 12 1 = 0 ∧ d1.helloConflict q ≠ 0),
   decide (s.die.alive = true ∧ (d.link q ≠ 0 ∧ d.role q ≠ 0 ∧ frag ≠ 15) ∧ d.isStack q = true ∧ d1.helloComplete q = true),
   decide (s.die.alive = true ∧ d.link q ≠ 0 ∧ d.isTrunk q = true ∧ frag = 15 ∧ d1.helloComplete q = false),
   decide (s.die.alive = true ∧ d.helloAllowed q = true),
   decide (s.die.alive = true ∧ d.helloAllowed q = false)]

/-- The hypotheses of every clause of `HellosAndRoot`, part HelloArrives are met. -/
theorem test_hypotheses_HelloArrives : met [
    (hyp_HelloArrives (up (fun d => h1 (ro [(3, 1, 0), (5, 2, 4)] d))) 3 2 0x55, [7]),
    (hyp_HelloArrives (up
      (fun d => h1 (ro [(3, 1, 0), (5, 2, 4)] d))) 3 3 0x55, [1]),
    (hyp_HelloArrives (up (fun d => h1 (ro [(3, 1, 0), (5, 2, 4)] d))) 3 0 0xFFFF, [3]),
  
      (hyp_HelloArrives (up (fun d => (ro [(3, 1, 0), (5, 2, 4)] d).set R.portLinkState 1 3)) 3 0 0xFFFF, [2]),
    (hyp_HelloArrives (up (fun d => el (h1
      (t35 d)))) 3 3 0xFFFF, [4]),
    (hyp_HelloArrives (up (fun d =>
      { (t35 d).set R.portLinkState 1 3 with disc := { d.disc with stamps := [(3, [(5, 100)])] } })) 3 15 0x2FF0105, [6]),
    (hyp_HelloArrives (up (fun d =>
      h1 (ro [(3, 3, 1), (5, 2, 4)] d))) 3 2 0x55, [5]),
    (hyp_HelloArrives up 3 2 0, [0, 8])] = true := by decide +kernel

/-- What each clause of `DiscoveryControls` asks for. -/
def hyp_DiscoveryControls (s : State) (_c : Cls) (p : BitVec 6) : List Bool :=
  let d := s.die
  let port := d.get R.discLatselPort
  let q := p.toNat
  let x := smapGet (0, 0) d.disc.samples q
  let mean := (x.2 + x.1 / 2) / x.1
  [decide (s.die.alive = true ∧ d.phase = 8),
   decide (s.die.alive = true ∧ d.phase ≠ 8),
   decide (s.die.alive = true ∧ d.phase = 7 ∧ (d.rundown .die).phase = .run),
   decide (s.die.alive = true ∧ d.phase ≠ 7),
   decide (s.die.alive = true ∧ d.underReset .disc 0 = false ∧ d.get R.discLatselDie = d.pos ∧ d.portIdle port = true),
   decide (s.die.alive = true ∧ d.underReset .disc 0 = false ∧ (d.get R.discLatselDie ≠ d.pos ∨ d.portIdle port = false)),
   decide (s.die.alive = true ∧ d.phase = 4),
   decide (s.die.alive = true ∧ d.phase ≠ 4),
   decide (s.die.alive = true ∧ x.1 < 64),
   decide (s.die.alive = true ∧ 64 ≤ x.1 ∧ mean < 128000),
   decide (s.die.alive = true ∧ 64 ≤ x.1 ∧ 128000 ≤ mean ∧ d.isTrunk q = true ∧ d.phase ≠ 8)]

/-- The hypotheses of every clause of `DiscoveryControls` are met. -/
theorem test_hypotheses_DiscoveryControls : met [
    (hyp_DiscoveryControls (up (fun d => (h1 (ro [(3, 2, 1), (5, 2, 4)] d)).set R.discStatPhase 8)) .host 3,
      [0, 3, 5, 7, 8]),
    (hyp_DiscoveryControls (up (fun d => (h1 (ro [(3, 2, 1), (5, 2, 4)] d)).set R.discStatPhase 7)) .host 3, [1, 2]),
   
      (hyp_DiscoveryControls (up (fun d => (((h1 (ro [(3, 2, 1), (5, 2, 4)] d)).set R.discStatPhase 4).set R.discLatselPort 3).hset R.hdrStatState 3 .port 3))
      .host 3, [4, 6]),
    (hyp_DiscoveryControls (up (fun d =>
      { (h1 (ro [(3, 2, 1), (5, 2, 4)] d)).set R.discStatPhase 5 with disc := { d.disc with samples := [(3, (64, 6400))] } })) .host 3, [9]),
   
      (hyp_DiscoveryControls (up (fun d =>
      { (h1 (ro [(3, 2, 1), (5, 2, 4)] d)).set R.discStatPhase 5 with disc := { d.disc with samples := [(3, (64, 640000000))] } })) .host 3, [10])] = true :=
      by decide +kernel

/-- What each clause of `RennetGivesOffset` asks for. -/
def hyp_RennetGivesOffset (s : State) (p : BitVec 6) (pos : BitVec 12) (tick : BitVec 16) (_mack _mlast : BitVec 6) (arr : BitVec 23) : List Bool :=
  let d := s.die
  let q := p.toNat
  let par := d.get R.discParentPort
  [decide (s.die.alive = true ∧ d.isTrunk q = true ∧ d.link q ≠ 0 ∧ pos.toNat < 2580 ∧ d.disc.flock = false),
   decide (s.die.alive = true ∧ (d.link q = 0 ∨ 2580 ≤ pos.toNat)),
   decide (s.die.alive = true ∧ d.isStack q = true ∧ d.isMaster = true ∧ d.bit R.discParentRelay = true ∧ d.bit R.discParentValid = true),
   decide (s.die.alive = true ∧ d.isStack q = false),
   decide (s.die.alive = true ∧ d.get R.cascTopoMode = 0 ∧ d.isMaster = true ∧ d.get R.cascStatState = 1 ∧ d.tstate = 0),
   decide (s.die.alive = true ∧ d.get R.cascTopoMode ≠ 0 ∧ d.phase = 6 ∧ d.bit R.discParentValid = true ∧ (smapGet [] d.disc.stamps par).head? = some
      (tick.toNat, arr.toNat))]

/-- The hypotheses of every clause of `RennetGivesOffset` are met. -/
theorem test_hypotheses_RennetGivesOffset : met [
    (hyp_RennetGivesOffset (up (fun d => par (h1 (ro [(3, 2, 1), (5, 2, 4)] d)))) 3 5 9 1 2 1000, [0, 3]),
 
      (hyp_RennetGivesOffset (up (fun d => par (h1 (ro [(3, 2, 1), (5, 2, 4)] d)))) 5 2580 9 1 2 0x7FFFFF, [1]),
    (hyp_RennetGivesOffset (up (fun d => (par
      (h1 (ro [(3, 3, 1), (5, 2, 4)] d))).setBit R.discParentRelay true)) 3 2580 9 1 2 0x7FFFFF, [2]),
    (hyp_RennetGivesOffset (up (fun d =>
      { ((par (h1 (ro [(3, 2, 1), (5, 2, 4)] d))).set R.discStatPhase 6).set R.cascTopoMode 1 with disc := { d.disc with stamps := [(3, [(9, 1000)])] } })) 3
      2580 9 1 2 1000, [5]),
    (hyp_RennetGivesOffset (up (fun d => ((d.set R.cascTopoMode 0).set R.cascStatMaster 0).set R.tickStatState 0)) 3 5 9 1 2
      1000, [4])] = true := by decide +kernel

/-- What each clause of `HoldoverAndFailover` asks for. -/
def hyp_HoldoverAndFailover (s : State) (_c : BitVec 6) (_l : BitVec 2) : List Bool :=
  let d := s.die
  let near := d.chooseParent (if d.get R.discHoldTicks ≤ 12 then d.disc.lastHops.toNat else 11)
  let far := d.chooseParent 11
  [decide (s.die.alive = true ∧ d.tstate = 1 ∧ d.isRoot = false ∧ d.bit R.discParentValid = true ∧ d.lostParent = true),
   decide (s.die.alive = true ∧ d.tstate ≠ 1),
   decide (s.die.alive = true ∧ d.tstate = 2 ∧ d.adoptGen = d ∧ near.isSome = true),
   decide (s.die.alive = true ∧ d.tstate ≠ 2),
   decide (s.die.alive = true ∧ d.tstate = 2 ∧ 256 ≤ d.get R.discHoldTicks ∧ (d.rundown .die).phase = .idle),
   decide (s.die.alive = true ∧ d.tstate = 2 ∧ 256 ≤ d.get R.discHoldTicks ∧ (d.rundown .die).phase = .run),
   decide (s.die.alive = true ∧ d.tstate = 2 ∧ d.get R.discHoldTicks < 256),
   decide (s.die.alive = true ∧ d.tstate = 3 ∧ d.adoptGen = d ∧ far.isSome = true),
   decide (s.die.alive = true ∧ d.tstate ≠ 3),
   decide (s.die.alive = true ∧ d.bit R.discStatIsstby = true ∧ d.isRoot = false ∧ 16 ≤ d.disc.rpathClear),
   decide (s.die.alive = true ∧ d.disc.rpathClear < 16),
   decide (s.die.alive = true ∧ 64 ≤ d.disc.leaving.getD 0 ∧ d.phase = 9),
   decide (s.die.alive = true ∧ d.disc.leaving = none),
   decide (s.die.alive = true)]

/-- The hypotheses of every clause of `HoldoverAndFailover` are met. -/
theorem test_hypotheses_HoldoverAndFailover : met [
    (hyp_HoldoverAndFailover (up (fun d => (par (h1 (ro [(3, 2, 1), (5, 2, 4)] d))).set R.tickStatState
      1)) 3 1, [0, 3, 8, 10, 12, 13]),
    (hyp_HoldoverAndFailover (up (fun d => (par (h1 (ro [(3, 2, 1), (5, 2, 4)] d))).set R.tickStatState 2)) 3 1, [1,
      6]),
    (hyp_HoldoverAndFailover (up (fun d => (par1 (h1 (ro [(3, 2, 1), (5, 2, 4)] d))).set R.tickStatState 2)) 3 1, [2]),
   
      (hyp_HoldoverAndFailover (up (fun d => (par1 (h1 (ro [(3, 2, 1), (5, 2, 4)] d))).set R.tickStatState 3)) 3 1, [7]),
    (hyp_HoldoverAndFailover (up
      (fun d => ((h1 (ro [(3, 2, 1), (5, 2, 4)] d)).set R.tickStatState 2).set R.discHoldTicks 256)) 3 1, [5]),
    (hyp_HoldoverAndFailover (up (fun d =>
      (((h1 (ro [(3, 2, 1), (5, 2, 4)] d)).set R.tickStatState 2).set R.discHoldTicks 256).setRundown .die { RunDown.none with phase := .idle })) 3 1, [4]),
 
      (hyp_HoldoverAndFailover (up (fun d =>
      { (((h1 (ro [(3, 2, 1), (5, 2, 4)] d)).set R.tickStatState 2).setBit R.discStatIsstby true).set R.discStatPhase 9 with disc := { d.disc with rpathClear := 16, leaving := some 64 } }))
      3 1, [9, 11])] = true := by decide +kernel

/-- What each clause of `HeadsAndGrants`, part TransitHeads asks for. -/
def hyp_TransitHeads (s : State) (p : BitVec 6) (pk : Packet) (_k q v : Nat) (x : Bool) (far : Option (Nat × Nat)) : List Bool :=
  let d := s.die
  let op := pk.op.toNat
  [decide (s.die.alive = true ∧ d.isTrunk p.toNat = true ∧ pk.hcrcOk = false),
   decide (s.die.alive = true ∧ d.isTrunk p.toNat = true ∧ pk.hcrcOk = true ∧ ¬ ((opClass op).isSome = true ∧ ¬ (0x33 ≤ op ∧ op ≤ 0x35))),
   decide (s.die.alive = true ∧ d.isTrunk p.toNat = true ∧ pk.hcrcOk = true ∧ ((opClass op).isSome = true ∧ ¬ (0x33 ≤ op ∧ op ≤ 0x35)) ∧ 17 ≤ pk.hopcnt.toNat),
   decide (s.die.alive = true ∧ d.isTrunk p.toNat = true ∧ pk.hcrcOk = true ∧ ((opClass op).isSome = true ∧ ¬ (0x33 ≤ op ∧ op ≤ 0x35)) ∧ pk.hopcnt.toNat < 17 ∧
      op ≠ 0x11 ∧ d.rtReach (eidNode pk.deid) = false),
   decide (s.die.alive = true ∧ d.isTrunk p.toNat = true ∧ pk.hcrcOk = true ∧ ((opClass op).isSome = true ∧ ¬ (0x33 ≤ op ∧ op ≤ 0x35)) ∧ pk.hopcnt.toNat < 17 ∧
      op ≠ 0x11 ∧ d.rtReach (eidNode pk.deid) = true ∧ op ≠ 0x12 ∧ d.route pk (some p.toNat) = .dead),
   decide (s.die.alive = true ∧ d.isTrunk p.toNat = true ∧ pk.hcrcOk = true ∧ ((opClass op).isSome = true ∧ ¬ (0x33 ≤ op ∧ op ≤ 0x35)) ∧ pk.hopcnt.toNat < 17 ∧
      op ≠ 0x11 ∧ d.rtReach (eidNode pk.deid) = true ∧ (op = 0x12 ∨ d.route pk (some p.toNat) = .here)),
   decide (s.die.alive = true ∧ d.isTrunk p.toNat = true ∧ pk.hcrcOk = true ∧ op = 0x11 ∧ pk.hopcnt.toNat < 17),
   decide (s.die.alive = true ∧ d.isTrunk p.toNat = true ∧ pk.hcrcOk = true ∧ ((opClass op).isSome = true ∧ ¬ (0x33 ≤ op ∧ op ≤ 0x35)) ∧ pk.hopcnt.toNat < 17 ∧
      op ≠ 0x11 ∧ op ≠ 0x12 ∧ d.rtReach (eidNode pk.deid) = true ∧ d.route pk (some p.toNat) = .out q v x far ∧ d.isDrop q = false),
   decide (s.die.alive = true ∧ d.isStack p.toNat = true ∧ d.dieFenced (d.attrOf p.toNat) = true),
   decide (s.die.alive = true ∧ d.isStack p.toNat = true ∧ d.dieFenced (d.attrOf p.toNat) = false)]

/-- The hypotheses of every clause of `HeadsAndGrants`, part TransitHeads are met. -/
theorem test_hypotheses_TransitHeads : met [
    (hyp_TransitHeads (up rr) 3 pk0 7 0 0 false none, [0]),
    (hyp_TransitHeads (up rr) 3
      { pk0 with op := 0x55 }.finish 7 0 0 false none, [1]),
    (hyp_TransitHeads (up rr) 3 { pk0 with hopcnt := 17 }.finish 7 0 0 false none, [2]),
   
      (hyp_TransitHeads (up rr) 3 good 7 0 0 false none, [5]),
    (hyp_TransitHeads (up rr) 3 { pk0 with deid := 0x105 }.finish 7 0 0 false none, [3]),
   
      (hyp_TransitHeads (up rr) 3 { pk0 with op := 0x11, cls := 1 }.finish 7 0 0 false none, [6]),
    (hyp_TransitHeads (up rr) 3
      { pk0 with deid := 0x45 }.finish 7 4 4 false (some (1, 44)), [7]),
    (hyp_TransitHeads (up rr) 3 { pk0 with deid := 0x85 }.finish 7 4 4 false (some
      (1, 44)), [4]),
    (hyp_TransitHeads (up (fun d => (rr d).set R.chipFenceDies 2)) 4 { pk0 with deid := 0x45 }.finish 7 4 4 false (some (1, 44)), [8]),

      (hyp_TransitHeads (up rr) 4 { pk0 with deid := 0x45 }.finish 7 4 4 false (some (1, 44)), [9])] = true := by decide +kernel

/-- What each clause of `HeadsAndGrants`, part OutputsGrant asks for. -/
def hyp_OutputsGrant (s : State) (p : BitVec 6) (v : BitVec 3) (_ts : List (BitVec 6 × BitVec 3 × BitVec 16)) : List Bool :=
  let d := s.die
  let x := d.attrOf p.toNat
  let k := 8 * p.toNat + v.toNat
  [decide (s.die.alive = true ∧ d.isStack p.toNat = true ∧ d.dieFenced x = false),
   decide (s.die.alive = true ∧ (d.isStack p.toNat = false ∨ d.dieFenced x = true)),
   decide (s.die.alive = true ∧ (d.grantAt k).isSome = true),
   decide (s.die.alive = true ∧ (d.grantAt k) = none),
   decide (s.die.alive = true ∧ d.grantAt k = none ∧ v.toNat / 2 = 1 ∧ ((d.heads k).find? d.hasNodeCredit).isSome = true)]

/-- The hypotheses of every clause of `HeadsAndGrants`, part OutputsGrant are met. -/
theorem test_hypotheses_OutputsGrant : met [
    (hyp_OutputsGrant (up rr) 4 3 [(3, 2, 7), (3, 2, 8), (5, 1, 9)], [0, 3]),
    (hyp_OutputsGrant (up rr) 3 3
      [(3, 2, 7), (3, 2, 8), (5, 1, 9)], [1]),
    (hyp_OutputsGrant (up (fun d => qd 26 [qe 4 pk0, qe 5 pk0] (rr d))) 3 2 [], [4]),
    (hyp_OutputsGrant (up
      (fun d => { rr d with sw := { d.sw with grant := [(24, some ⟨qe 4 pk0, 2, false, 0, false⟩)] } })) 3 0 [], [2])] = true := by decide +kernel

/-- What each clause of `PacketsAcceptedAndHanded`, part IngressPackets asks for. -/
def hyp_IngressPackets (s : State) (p : BitVec 6) (_v : BitVec 3) (pk : Packet) (poisoned beyond : BitVec 7) : List Bool :=
  let d := s.die
  let q := p.toNat
  [decide (s.die.alive = true ∧ d.isDrop q = false),
   decide (s.die.alive = true ∧ d.isDrop q = true ∧ ((pk.lsn - BitVec.ofNat 16 (d.get R.portLsnRx q)).toNat < 32768) ∧ d.replayPort q = false ∧ poisoned ≠ 0),
   decide (s.die.alive = true ∧ d.isDrop q = true ∧ ((pk.lsn - BitVec.ofNat 16 (d.get R.portLsnRx q)).toNat < 32768) ∧ d.replayPort q = false ∧ poisoned = 0 ∧
      beyond ≠ 0),
   decide (s.die.alive = true ∧ d.isDrop q = true ∧ ((pk.lsn - BitVec.ofNat 16 (d.get R.portLsnRx q)).toNat < 32768) ∧ d.replayPort q = false ∧ poisoned = 0 ∧
      beyond = 0 ∧ (d.ingressFail q pk).isSome = true),
   decide (s.die.alive = true ∧ d.isDrop q = true ∧ ((pk.lsn - BitVec.ofNat 16 (d.get R.portLsnRx q)).toNat < 32768) ∧ d.replayPort q = false ∧ poisoned = 0 ∧
      beyond = 0 ∧ d.ingressFail q pk = none)]

/-- The hypotheses of every clause of `PacketsAcceptedAndHanded`, part IngressPackets are met. -/
theorem test_hypotheses_IngressPackets : met [
    (hyp_IngressPackets (up (fun d => ten (rr d))) 5 4 good 0 0, [4]),
    (hyp_IngressPackets (up (fun d =>
      ten (rr d))) 5 4 good 1 0, [1]),
    (hyp_IngressPackets (up (fun d => ten (rr d))) 5 4 good 0 1, [2]),
    (hyp_IngressPackets (up (fun d => ten (rr
      d))) 5 4 { good with seid := 6 } 0 0, [3]),
    (hyp_IngressPackets (up (fun d => d)) 5 4 good 0 0, [0])] = true := by decide +kernel

/-- What each clause of `PacketsAcceptedAndHanded`, part ItemsAcceptedAndHanded asks for. -/
def hyp_ItemsAcceptedAndHanded (s : State) (p : BitVec 6) (v : BitVec 3) (found : Option (List Byte)) (f : BitVec 16) (x : DstFlow) (i : DstItem) (w :
    WaitPkt) : List Bool :=
  let d := s.die
  let q := p.toNat
  let r := d.acceptPacket q v.toNat found false
  let egOk := if i.pkt.op = 0x32 then d.mgmtPort (eidPort i.pkt.deid) else d.isDrop (eidPort i.pkt.deid) && d.rtEidv d.selfNode d.pos (eidPort i.pkt.deid) &&
      d.tenPort i.pkt.tid.toNat (eidPort i.pkt.deid)
  [decide (s.die.alive = true ∧ d.dlv.waiting.find? (fun w => w.port == q && w.vc == v.toNat) = none),
   decide (s.die.alive = true ∧ d.dlv.waiting.find? (fun w => w.port == q && w.vc == v.toNat) = some w ∧ r.2.isSome = true ∧ w.pkt.op ≠ 0x10 ∧ w.pkt.op ≠ 8 ∧
      d.get R.detRecState = 0),
   decide (s.die.alive = true ∧ d.dlv.waiting.find? (fun w => w.port == q && w.vc == v.toNat) = some w ∧ r.2 = none),
   decide (s.die.alive = true ∧ d.dlv.waiting.find? (fun w => w.port == q && w.vc == v.toNat) = some w ∧ d.contribWaits w.pkt = false ∧ w.pkt.mgmt = false ∧
      d.tenPort w.pkt.tid.toNat q = false),
   decide (s.die.alive = true ∧ d.dlv.waiting.find? (fun w => w.port == q && w.vc == v.toNat) = some w ∧ d.contribWaits w.pkt = false ∧ (w.pkt.mgmt = true ∨
      d.tenPort w.pkt.tid.toNat q = true) ∧ d.admits (.port p) = false),
   decide (s.die.alive = true ∧ d.flow f.toNat = .free),
   decide (s.die.alive = true ∧ (d.flow f.toNat = .dst x ∧ x.items.find? (fun i => i.fseq == x.next && !i.handed) = some i) ∧ i.pkt.op ≠ 0x30 ∧ i.pkt.op ≠ 0x31 ∧
      egOk = true ∧ d.replayPort (eidPort i.pkt.deid) = false),
   decide (s.die.alive = true ∧ (d.flow f.toNat = .dst x ∧ x.items.find? (fun i => i.fseq == x.next && !i.handed) = some i) ∧ i.pkt.op ≠ 0x30 ∧ i.pkt.op ≠ 0x31 ∧
      egOk = false ∧ d.dlv.rlog.length < 8192),
   decide (s.die.alive = true ∧ (d.flow f.toNat = .dst x ∧ x.items.find? (fun i => i.fseq == x.next && !i.handed) = some i) ∧ (i.pkt.op = 0x30 ∨ i.pkt.op =
      0x31))]

/-- The hypotheses of every clause of `PacketsAcceptedAndHanded`, part ItemsAcceptedAndHanded are met. -/
theorem test_hypotheses_ItemsAcceptedAndHanded : met [
    (hyp_ItemsAcceptedAndHanded (up (fun d => wt (quo (ten (rr d))))) 5 4 none 9 df it0 w0, [1, 5]),
  
      (hyp_ItemsAcceptedAndHanded (up (fun d => wt (quo (rr d)))) 5 4 none 9 df it0 w0, [2, 3]),
    (hyp_ItemsAcceptedAndHanded (up (fun d => (wt (quo (ten
      (rr d)))).setRundown (.port 5) { RunDown.none with phase := .draining })) 5 4 none 9 df it0 w0, [4]),
    (hyp_ItemsAcceptedAndHanded (up (fun d => fl
      (.dst df) (ten (rr d)))) 5 4 none 9 df it0 w0, [0, 6]),
    (hyp_ItemsAcceptedAndHanded (up (fun d => fl (.dst df) (rr d))) 5 4 none 9 df it0 w0, [7]),

      (hyp_ItemsAcceptedAndHanded (up (fun d => fl (.dst { df with items := [{ it0 with pkt := { good with op := 0x30, len := 0 }.finish }] }) (ten (rr d))))
      5 4 none 9 { df with items := [{ it0 with pkt := { good with op := 0x30, len := 0 }.finish }] }
      ({ it0 with pkt := { good with op := 0x30, len := 0 }.finish }) w0, [8])] = true := by decide +kernel

/-- What each clause of `SuperframesAreSent` asks for. -/
def hyp_SuperframesAreSent (s : State) (p : BitVec 6) (_ofs : BitVec 16) (_edge : Option (BitVec 12)) (m : Msg) (ms : List Msg) : List Bool :=
  let d := s.die
  let q := p.toNat
  let x := d.port q
  [decide (s.die.alive = true ∧ d.transmits q = false),
   decide (s.die.alive = true ∧ d.transmits q = true),
   decide (s.die.alive = true ∧ d.transmits q = true ∧ d.link q ≠ 2),
   decide (s.die.alive = true ∧ d.transmits q = true ∧ d.link q ≠ 2 ∧ d.supervised q = true ∧ d.replayPort q = false ∧ x.csyncReq = [] ∧ x.replay = [] ∧ x.sendq
      = m :: ms ∧ x.unacked.length < 32),
   decide (s.die.alive = true ∧ d.transmits q = true ∧ d.link q ≠ 2 ∧ d.supervised q = true ∧ d.replayPort q = false ∧ x.csyncReq = [] ∧ x.replay = [] ∧ x.sendq
      = [] ∧ x.csyncDue = [])]

/-- The hypotheses of every clause of `SuperframesAreSent` are met. -/
theorem test_hypotheses_SuperframesAreSent : met [
    (hyp_SuperframesAreSent (up (fun d => rr d)) 5 7 none .null [], [1]),
    (hyp_SuperframesAreSent (up
      (fun d => ((rr d).set R.portLinkState 1 5).modPort 5 (fun x => { x with sendq := [.taken 1 2, .null] }))) 5 7 (some 5) (.taken 1 2) [.null], [2, 3]),
  
      (hyp_SuperframesAreSent (up (fun d => (rr d).set R.portLinkState 1 5)) 5 7 (some 5) (.taken 1 2) [.null], [4]),
    (hyp_SuperframesAreSent up 5 7 none
      .null [], [0])] = true := by decide +kernel

/-- What each clause of `SourceTakesRecords` asks for. -/
def hyp_SourceTakesRecords (s : State) (pk : Packet) (fi : Nat) (fl : SrcFlow) (q : BitVec 32) (k : Nat) (_b : Fin 16) : List Bool :=
  let d := s.die
  let here (op : BitVec 8) := pk.op = op ∧ eidDie pk.deid = d.pos ∧ pk.hcrcOk = true ∧ pk.crc64Ok = true ∧ d.e2eFlow pk = some (fi, fl)
  let x := d.led k
  [decide (s.die.alive = true ∧ here 0x20),
   decide (s.die.alive = true ∧ here 0x21),
   decide (s.die.alive = true ∧ here 0x22),
   decide (s.die.alive = true ∧ here 0x20 ∧ (d.entryOf fi q = some k ∧ x.state ≠ .free ∧ x.state ≠ .settled) ∧ Die.e2eRecords pk = [q.toNat + 2 ^ 32]),
   decide (s.die.alive = true ∧ here 0x20 ∧ (d.entryOf fi q = some k ∧ x.state ≠ .free ∧ x.state ≠ .settled) ∧ x.state ≠ .held ∧ Die.e2eRecords pk = [q.toNat + 2
      ^ 48]),
   decide (s.die.alive = true ∧ here 0x22 ∧ (d.entryOf fi q = some k ∧ x.state ≠ .free ∧ x.state ≠ .settled) ∧ Die.e2eRecords pk = [q.toNat + 2 ^ 32 * 2]),
   decide (s.die.alive = true ∧ here 0x21 ∧ (d.entryOf fi q = some k ∧ x.state ≠ .free ∧ x.state ≠ .settled) ∧ x.state = .sent ∧ x.waiting = false ∧ smapGet 0
      x.fail x.path.toNat < 3 ∧ Die.e2eRecords pk = [q.toNat + 2 ^ 32 * x.path.toNat]),
   decide (s.die.alive = true ∧ (pk.hcrcOk = false ∨ pk.crc64Ok = false ∨ eidDie pk.deid ≠ d.pos)),
   decide (s.die.alive = true ∧ here 0x23 ∧ d.flow fi = .src fl)]

/-- The hypotheses of every clause of `SourceTakesRecords` are met. -/
theorem test_hypotheses_SourceTakesRecords : met [
    (hyp_SourceTakesRecords (up (fun d => fl (.src sf0) (ld le0 (rr d)))) (rp 0x20 [8 + 2 ^ 32]) 9 sf0 8
      20490 3, [0, 3]),
    (hyp_SourceTakesRecords (up (fun d => fl (.src sf0) (ld le0 (rr d)))) (rp 0x20 [8 + 2 ^ 48]) 9 sf0 8 20490 3, [4]),
   
      (hyp_SourceTakesRecords (up (fun d => fl (.src sf0) (ld le0 (rr d)))) (rp 0x22 [8 + 2 ^ 33]) 9 sf0 8 20490 3, [2, 5]),
    (hyp_SourceTakesRecords (up
      (fun d => fl (.src sf0) (ld le0 (rr d)))) (rp 0x21 [8 + 2 ^ 32 * 3]) 9 sf0 8 20490 3, [1, 6]),
    (hyp_SourceTakesRecords (up (fun d => fl (.src sf0)
      (ld le0 (rr d)))) (rp 0x23 [0x10008]) 9 sf0 8 20490 3, [8]),
    (hyp_SourceTakesRecords (up (fun d => fl (.src sf0) (ld le0 (rr d))))
      { rp 0x23 [0x10008] with crc64 := 0 } 9 sf0 8 20490 3, [7])] = true := by decide +kernel

/-- What each clause of `TimersAndCongestion`, part LedgerTimers asks for. -/
def hyp_LedgerTimers (s : State) (p : BitVec 6) (i : BitVec 12) (bad : BitVec 2) : List Bool :=
  let d := s.die
  let q := p.toNat
  let k := 4096 * q + i.toNat
  let x := d.led k
  let now := d.tick.count.toNat
  let valid := if x.pkt.mgmt then d.rtReach (eidNode x.pkt.deid) && d.rtDies (eidNode x.pkt.deid) / 2 ^ eidDie x.pkt.deid % 2 == 1 else d.eidValid x.pkt.deid
  [decide (s.die.alive = true ∧ x.state = .sent ∧ x.waiting = false ∧ x.due.toNat ≤ now ∧ bad = 0),
   decide (s.die.alive = true ∧ x.state = .sent ∧ x.waiting = false ∧ x.due.toNat ≤ now ∧ bad = 1),
   decide (s.die.alive = true ∧ x.state = .sent ∧ 2 ≤ bad.toNat),
   decide (s.die.alive = true ∧ (x.state = .free ∨ x.state = .settled ∨ (bad = 0 ∧ now < x.due.toNat))),
   decide (s.die.alive = true ∧ x.state = .sent ∧ x.waiting = true ∧ x.ready = false ∧ x.att < 16 ∧ x.due.toNat ≤ now ∧ d.abortsAt q x.pkt = false),
   decide (s.die.alive = true ∧ (x.waiting = false ∨ 16 ≤ x.att ∨ now < x.due.toNat)),
   decide (s.die.alive = true ∧ x.state = .held ∧ x.ready = false ∧ x.own = false ∧ x.last.toNat + d.get R.portDlvCfgRtoMax q ≤ now),
   decide (s.die.alive = true ∧ now < x.last.toNat + d.get R.portDlvCfgRtoMax q),
   decide (s.die.alive = true ∧ x.state = .sent ∧ x.waiting = true ∧ 16 ≤ x.att ∧ x.last.toNat + 2176 ≤ now),
   decide (s.die.alive = true ∧ (x.att < 16 ∨ now < x.last.toNat + 2176)),
   decide (s.die.alive = true ∧ x.state ≠ .free ∧ x.state ≠ .settled ∧ valid = false ∧ (x.state = .queued ∨ x.last.toNat + 2176 ≤ now)),
   decide (s.die.alive = true ∧ (valid = true ∨ (x.state ≠ .queued ∧ now < x.last.toNat + 2176)))]

/-- The hypotheses of every clause of `TimersAndCongestion`, part LedgerTimers are met. -/
theorem test_hypotheses_LedgerTimers : met [
    (hyp_LedgerTimers (up (fun d => fl (.src sf0) (ld le0 (rr d)))) 5 10 0, [0, 5, 7, 9, 11]),
   
      (hyp_LedgerTimers (up (fun d => fl (.src sf0) (ld { le0 with fail := [(3, 3)] } (rr d)))) 5 10 1, [1]),
    (hyp_LedgerTimers (up (fun d => fl (.src
      sf0) (ld { le0 with fail := [(3, 3)] } (rr d)))) 5 10 2, [2]),
    (hyp_LedgerTimers (up (fun d => fl (.src sf0) (ld
      { le0 with fail := [(3, 3)], waiting := true } (rr d)))) 5 10 0, [4]),
    (hyp_LedgerTimers (up (fun d => tk 2176 (fl (.src sf0) (ld
      { le0 with fail := [(3, 3)], waiting := true, att := 16 } (rr d))))) 5 10 0, [8, 10]),
    (hyp_LedgerTimers (up (fun d => tk 2176 (fl (.src sf0) (ld
      { le0 with state := .held } (rr d))))) 5 10 0, [6]),
    (hyp_LedgerTimers (up (fun d => fl (.src sf0) (rr d))) 5 10 0, [3])] = true := by
  decide +kernel

/-- What each clause of `DestinationTakesCopies` asks for. -/
def hyp_DestinationTakesCopies (s : State) (pk : Packet) (f : BitVec 16) (x : DstFlow) (y : SrcFlow) : List Bool :=
  let d := s.die
  let δ := (pk.fseq - x.next).toNat
  let q := eidPort x.key.deid
  [decide (s.die.alive = true ∧ ¬ ((pk.op = 1 ∨ pk.op = 2 ∨ pk.op = 0x30 ∨ pk.op = 0x31) ∧ eidDie pk.deid = d.pos ∧ pk.hcrcOk = true)),
   decide (s.die.alive = true ∧ (((pk.op = 1 ∨ pk.op = 2 ∨ pk.op = 0x30 ∨ pk.op = 0x31) ∧ eidDie pk.deid = d.pos ∧ pk.hcrcOk = true) ∧ pk.crc64Ok = true ∧
      d.dstFlow (flowKey pk) = some (f.toNat, x) ∧ d.flow f.toNat = .dst x ∧ x.abort = .none) ∧ 1024 ≤ δ ∧ δ < 2 ^ 31),
   decide (s.die.alive = true ∧ (((pk.op = 1 ∨ pk.op = 2 ∨ pk.op = 0x30 ∨ pk.op = 0x31) ∧ eidDie pk.deid = d.pos ∧ pk.hcrcOk = true) ∧ pk.crc64Ok = true ∧
      d.dstFlow (flowKey pk) = some (f.toNat, x) ∧ d.flow f.toNat = .dst x ∧ x.abort = .none) ∧ 2 ^ 31 ≤ δ),
   decide (s.die.alive = true ∧ (((pk.op = 1 ∨ pk.op = 2 ∨ pk.op = 0x30 ∨ pk.op = 0x31) ∧ eidDie pk.deid = d.pos ∧ pk.hcrcOk = true) ∧ pk.crc64Ok = true ∧
      d.dstFlow (flowKey pk) = some (f.toNat, x) ∧ d.flow f.toNat = .dst x ∧ x.abort = .none) ∧ δ < 1024 ∧ x.items.any (fun i => i.fseq == pk.fseq) = true),
   decide (s.die.alive = true ∧ (((pk.op = 1 ∨ pk.op = 2 ∨ pk.op = 0x30 ∨ pk.op = 0x31) ∧ eidDie pk.deid = d.pos ∧ pk.hcrcOk = true) ∧ pk.crc64Ok = true ∧
      d.dstFlow (flowKey pk) = some (f.toNat, x) ∧ d.flow f.toNat = .dst x ∧ x.abort = .none) ∧ δ < 1024 ∧ x.items.any (fun i => i.fseq == pk.fseq) = false),
   decide (s.die.alive = true ∧ d.flow f.toNat = .dst x ∧ d.get R.portDlvCfg2Gap q ≤ x.gap ∧ x.items ≠ [] ∧ d.dlv.rlog.length < 8192),
   decide (s.die.alive = true ∧ d.flow f.toNat = .dst x ∧ (x.gap < d.get R.portDlvCfg2Gap q ∨ x.items = [])),
   decide (s.die.alive = true ∧ d.flow f.toNat = .dst x ∧ d.get R.portDlvCfg2EgressMax q ≤ x.wait ∧ x.items.any (fun i => i.fseq == x.next && !i.sent) = true ∧
      d.dlv.rlog.length < 8192),
   decide (s.die.alive = true ∧ d.flow f.toNat = .dst x ∧ x.wait < d.get R.portDlvCfg2EgressMax q),
   decide (s.die.alive = true ∧ d.flow f.toNat = .dst x ∧ 131072 ≤ x.idle ∧ x.items = []),
   decide (s.die.alive = true ∧ d.flow f.toNat = .dst x ∧ (x.idle < 131072 ∨ x.items ≠ [])),
   decide (s.die.alive = true ∧ d.flow f.toNat = .src y ∧ 262144 ≤ y.idle ∧ d.unsettled f.toNat = []),
   decide (s.die.alive = true ∧ d.flow f.toNat = .src y ∧ (y.idle < 262144 ∨ d.unsettled f.toNat ≠ []))]

/-- The hypotheses of every clause of `DestinationTakesCopies` are met. -/
theorem test_hypotheses_DestinationTakesCopies : met [
    (hyp_DestinationTakesCopies (up (fun d => fl (.dst { df with items := [{ it0 with fseq := 6 }] })
      (quo (ten (rr d))))) (cp 4) 9 { df with items := [{ it0 with fseq := 6 }] } sf0, [4, 6, 10]),
    (hyp_DestinationTakesCopies (up (fun d => fl (.dst
      { df with items := [{ it0 with fseq := 6 }] }) (quo (ten (rr d))))) (cp 6) 9 { df with items := [{ it0 with fseq := 6 }] } sf0, [3]),
   
      (hyp_DestinationTakesCopies (up (fun d => fl (.dst { df with items := [{ it0 with fseq := 6 }] }) (quo (ten (rr d))))) (cp 3) 9
      { df with items := [{ it0 with fseq := 6 }] } sf0, [2]),
    (hyp_DestinationTakesCopies (up (fun d => fl (.dst
      { df with items := [{ it0 with fseq := 6 }] }) (quo (ten (rr d))))) (cp 1028) 9 { df with items := [{ it0 with fseq := 6 }] } sf0, [1]),
   
      (hyp_DestinationTakesCopies (up (fun d => fl (.dst { df with items := [], idle := 131072, gap := 0, wait := 0 }) (quo (ten (rr d)))))
      { cp 1028 with hcrc := 0 } 9 { df with items := [], idle := 131072, gap := 0, wait := 0 } sf0, [0, 8, 9]),
    (hyp_DestinationTakesCopies (up (fun d =>
      fl (.src { sf0 with idle := 262144 }) (quo (ten (rr d))))) (cp 1028) 9 { df with items := [{ it0 with fseq := 6 }] } { sf0 with idle := 262144 },
      [11]),
    (hyp_DestinationTakesCopies (up (fun d => fl (.dst { df with items := [{ it0 with fseq := 4 }] }) (quo (ten (rr d))))) (cp 4) 9
      { df with items := [{ it0 with fseq := 4 }] } sf0, [7]),
    (hyp_DestinationTakesCopies (up (fun d => fl (.dst
      { df with items := [{ it0 with fseq := 6 }], gap := 1000000 }) (quo (ten (rr d))))) (cp 4) 9
      { df with items := [{ it0 with fseq := 6 }], gap := 1000000 } sf0, [5]),
    (hyp_DestinationTakesCopies (up (fun d => fl (.src sf0) (rr d))) (cp 4) 9
      df sf0, [12])] = true := by decide +kernel

/-- What each clause of `TimersAndCongestion`, part CongestionControls asks for. -/
def hyp_CongestionControls (s : State) (f : BitVec 16) (x : SrcFlow) (p : BitVec 6) (_v : BitVec 3) (k : Nat) : List Bool :=
  let d := s.die
  let q := p.toNat
  [decide (s.die.alive = true ∧ d.flow f.toNat = .src x ∧ (x.elig = true ∨ d.tick.count.toNat < x.due / 256 / d.tickCycles)),
   decide (s.die.alive = true ∧ d.flow f.toNat = .src x ∧ x.elig = false ∧ x.due / 256 / d.tickCycles ≤ d.tick.count.toNat ∧ d.headItem f.toNat = none),
   decide (s.die.alive = true ∧ d.flow f.toNat = .src x ∧ x.elig = false ∧ x.due / 256 / d.tickCycles ≤ d.tick.count.toNat ∧ d.headItem f.toNat = some k),
   decide (s.die.alive = true ∧ d.isDrop q = false),
   decide (s.die.alive = true ∧ smapGet false d.withholding q = true ∧ (64 * d.ingressFlits q ≤ 1024 * d.get R.portCcDropThresh q ∨ d.bit R.portCcDropEn q =
      false)),
   decide (s.die.alive = true ∧ (smapGet false d.withholding q = false ∨ ¬ (64 * d.ingressFlits q ≤ 1024 * d.get R.portCcDropThresh q ∨ d.bit R.portCcDropEn q =
      false)))]

/-- The hypotheses of every clause of `TimersAndCongestion`, part CongestionControls are met. -/
theorem test_hypotheses_CongestionControls : met [
    (hyp_CongestionControls (up (fun d => fl (.src sf0) (ld { le0 with state := .queued, ready := true }
      (rr d)))) 9 sf0 3 4 20490, [2, 3, 5]),
    (hyp_CongestionControls (up (fun d => fl (.src { sf0 with due := 1000000000 }) (qd 28
      [{ qe 4 good with held := 128, ledger := some (5, 10) }, { qe 4 good with held := 127 }] (ld { le0 with state := .queued, ready := true } (rr d))))) 9
      { sf0 with due := 1000000000 } 3 4 20490, [0]),
    (hyp_CongestionControls (up (fun d =>
      { (rr d).modVc 3 4 (fun v => { v with withheld := 7 }) with withholding := [(3, true)] })) 9 sf0 3 4 7, [4]),
    (hyp_CongestionControls (up (fun d =>
      fl (.src sf0) (rr d))) 9 sf0 3 4 20490, [1])] = true := by decide +kernel

/-- What each clause of `HoopServices`, part AllocTakesTop asks for. -/
def hyp_AllocTakesTop (s : State) (r : HoopReq) (found : Option (List Byte)) (ix _n' _ix' _o : Nat) : List Bool :=
  let d := s.die
  let n := poolFor r.size.toNat
  [decide (s.die.alive = true ∧ ¬ (r.size ≠ 0 ∧ r.size.toNat ≤ 65536 ∧ r.owners ≠ [] ∧ r.owners.length ≤ 8 ∧ r.owners.Nodup ∧ r.owners.all ownerKindOk = true)),
   decide (s.die.alive = true ∧ (r.size ≠ 0 ∧ r.size.toNat ≤ 65536 ∧ r.owners ≠ [] ∧ r.owners.length ≤ 8 ∧ r.owners.Nodup ∧ r.owners.all ownerKindOk = true) ∧ ¬
      (r.mgmt = true ∨ d.get R.tenStatState (r.tid.toNat / 4) (r.tid.toNat % 4) = 1)),
   decide (s.die.alive = true ∧ (r.size ≠ 0 ∧ r.size.toNat ≤ 65536 ∧ r.owners ≠ [] ∧ r.owners.length ≤ 8 ∧ r.owners.Nodup ∧ r.owners.all ownerKindOk = true) ∧
      (r.mgmt = true ∨ d.get R.tenStatState (r.tid.toNat / 4) (r.tid.toNat % 4) = 1) ∧ d.stalled .hoop = false ∧ (d.hstate n = 0 ∧ d.hoopTop n = some ix ∧
      (r.mgmt = true ∨ d.hused n r.tid.toNat < d.hquota n r.tid.toNat) ∧ found.all (d.headerValid n ix) = true ∧ d.cellFree n ix = true) ∧ ix < 2 ^ 20)]

/-- The hypotheses of every clause of `HoopServices`, part AllocTakesTop are met. -/
theorem test_hypotheses_AllocTakesTop : met [
    (hyp_AllocTakesTop (up (fun d => quo (ten (rr d)))) rq none 0 0 0 7, [2]),
    (hyp_AllocTakesTop (up (fun d
      => quo (rr d))) rq none 0 0 1 17, [1]),
    (hyp_AllocTakesTop (up (fun d => quo (ten (rr d)))) { rq with size := 65537 } none 0 0 1 17, [0])] = true :=
      by decide +kernel

/-- What each clause of `HoopServices`, part ReleaseAndFree asks for. -/
def hyp_ReleaseAndFree (s : State) (h : BitVec 32) (w : BitVec 16) (found : Option (List Byte)) (fr : Bool) : List Bool :=
  let d := s.die
  let n := h.toNat / 2 ^ 30
  let ix := h.toNat % 2 ^ 20
  let c := d.hcell n ix
  [decide (s.die.alive = true ∧ ownerKindOk w = false),
   decide (s.die.alive = true ∧ ownerKindOk w = true ∧ ¬ (h.toNat / 2 ^ 20 % 2 ^ 10 = 0 ∧ d.poolLo n ≤ ix ∧ ix < d.poolCells n ∧ c.retired = false)),
   decide (s.die.alive = true ∧ (ownerKindOk w = true ∧ (h.toNat / 2 ^ 20 % 2 ^ 10 = 0 ∧ d.poolLo n ≤ ix ∧ ix < d.poolCells n ∧ c.retired = false)) ∧ w ∈
      c.owners ∧ 1 < c.owners.length ∧ fr = false),
   decide (s.die.alive = true ∧ (ownerKindOk w = true ∧ (h.toNat / 2 ^ 20 % 2 ^ 10 = 0 ∧ d.poolLo n ≤ ix ∧ ix < d.poolCells n ∧ c.retired = false)) ∧ c.owners =
      [w] ∧ d.hstate n = 0),
   decide (s.die.alive = true ∧ (ownerKindOk w = true ∧ (h.toNat / 2 ^ 20 % 2 ^ 10 = 0 ∧ d.poolLo n ≤ ix ∧ ix < d.poolCells n ∧ c.retired = false)) ∧ c.owners =
      [w] ∧ d.hstate n ≠ 0),
   decide (s.die.alive = true ∧ (ownerKindOk w = true ∧ (h.toNat / 2 ^ 20 % 2 ^ 10 = 0 ∧ d.poolLo n ≤ ix ∧ ix < d.poolCells n ∧ c.retired = false)) ∧ w ∈
      c.owners ∧ 1 < c.owners.length ∧ fr = true ∧ d.logFull = false),
   decide (s.die.alive = true ∧ (ownerKindOk w = true ∧ (h.toNat / 2 ^ 20 % 2 ^ 10 = 0 ∧ d.poolLo n ≤ ix ∧ ix < d.poolCells n ∧ c.retired = false)) ∧ c.owners ≠
      [] ∧ w ∉ c.owners ∧ d.logFull = false),
   decide (s.die.alive = true ∧ (ownerKindOk w = true ∧ (h.toNat / 2 ^ 20 % 2 ^ 10 = 0 ∧ d.poolLo n ≤ ix ∧ ix < d.poolCells n ∧ c.retired = false)) ∧ c.owners =
      [] ∧ found.all (d.headerValid n ix) = true ∧ d.logFull = false)]

/-- The hypotheses of every clause of `HoopServices`, part ReleaseAndFree are met. -/
theorem test_hypotheses_ReleaseAndFree : met [
    (hyp_ReleaseAndFree al1 0 0x1005 none false, [2]),
    (hyp_ReleaseAndFree al1 0 0x1005 none true, [5]),
  
      (hyp_ReleaseAndFree al1 0 0x1006 none true, [6]),
    (hyp_ReleaseAndFree al1 1 0x1006 none true, [7]),
    (hyp_ReleaseAndFree al1 0x100000 0x1006 none
      true, [1]),
    (hyp_ReleaseAndFree al1 0 0xF006 none true, [0]),
    (hyp_ReleaseAndFree al2 0 0x2005 none true, [3]),
    (hyp_ReleaseAndFree
      { al2 with die := al2.die.setHstate 0 1 } 0 0x2005 none false, [4])] = true := by decide +kernel

/-- What each clause of `PoolsAndCave`, part PoolsRebuild asks for. -/
def hyp_PoolsRebuild (s : State) (_c : Cls) (_w : Word) (pool : BitVec 2) (k _o : Nat) : List Bool :=
  let d := s.die
  let n := pool.toNat
  [decide (s.die.alive = true ∧ d.underReset .hoop 0 = false),
   decide (s.die.alive = true ∧ d.hstate n = 2),
   decide (s.die.alive = true ∧ d.hstate n ≠ 2),
   decide (s.die.alive = true ∧ (d.hoops.cells.find? (fun e => e.1 / 2 ^ 20 == n && e.2.queued)).map (·.1) = some k ∧ d.hstate n = 0),
   decide (s.die.alive = true ∧ d.hoops.cells.any (fun e => e.1 / 2 ^ 20 == n && e.2.queued) = false)]

/-- The hypotheses of every clause of `PoolsAndCave`, part PoolsRebuild are met. -/
theorem test_hypotheses_PoolsRebuild : met [
    (hyp_PoolsRebuild reb .host 1 0 5 17, [0, 2]),
    (hyp_PoolsRebuild reb .host 3 1 5 17, [1, 4]),
   
      (hyp_PoolsRebuild { reb with die := (reb.die.setHstate 0 0).cellWrite 0 5 0 [7] } .host 3 0 5 17, [3])] = true := by decide +kernel

/-- What each clause of `PoolsAndCave`, part CaveEvents asks for. -/
def hyp_CaveEvents (s : State) (_c : Cls) (ctl : BitVec 4) (extra : Bool) (_reg : BitVec 1) (_w : Word) (o _a : Nat) : List Bool :=
  let d := s.die
  let k := ctl.toNat
  [decide (s.die.alive = true ∧ k < 10 ∧ extra = true ∧ d.get R.caveStatState k = 1 ∧ (d.get R.caveStatRate0 k ≠ 0 ∨ d.get R.caveStatRate1 k ≠ 0)),
   decide (s.die.alive = true ∧ (extra = false ∨ ¬ (d.get R.caveStatRate0 k ≠ 0 ∨ d.get R.caveStatRate1 k ≠ 0))),
   decide (s.die.alive = true ∧ k < 10 ∧ d.get R.caveStatState k ≠ 2 ∧ (d.rundown .die).phase = .run),
   decide (s.die.alive = true ∧ d.get R.caveStatState k = 2),
   decide (s.die.alive = true ∧ d.underReset .cave 0 = false),
   decide (s.die.alive = true ∧ d.cave.sweeps.head? = some o ∧ smapWf 0 d.cave.tags = true),
   decide (s.die.alive = true ∧ d.cave.sweeps = [])]

/-- The hypotheses of every clause of `PoolsAndCave`, part CaveEvents are met. -/
theorem test_hypotheses_CaveEvents : met [
    (hyp_CaveEvents (up (fun d => ((rr d).set R.caveStatRate0 2 3).set R.caveStatState 1 3)) .host 3 true 1 77 5 5,
      [0, 2, 4, 6]),
    (hyp_CaveEvents (up (fun d =>
      { ((rr d).set R.caveStatState 2 3).set R.caveMgmtGib 2 with cave := { d.cave with sweeps := [256], tags := [(1, 1), (2, 2)] } })) .host 3 true 0 77 256
      8192, [1, 3, 5])] = true := by decide +kernel

/-- What each clause of `VatStepsComplete` asks for. -/
def hyp_VatStepsComplete (s : State) (v : BitVec 5) (q : BitVec 4) (x : StepFind) (t : TileRun) (w : Nat) (later : List Nat) (a : Nat) : List Bool :=
  let d := s.die
  let n := v.toNat
  let k := q.toNat
  let arrays : List (Nat × Instr) := [(2, .expScan v q x), (3, .reduce v q x), (4, .scale v q x), (5, .combine v q x), (6, .mergeSoftmax v q x), (7,
      .sampleGumbel v q x), (8, .topk v q x), (9, .quant v q x), (10, .dequant v q x), (11, .cast v q x), (12, .clamp v q x), (13, .maskDrop v q x), (14,
      .fillRandom v q x)]
  let movers : List (Nat × Instr) := [(1, .loadTile v q x), (15, .storeTile v q x), (16, .emit v q x)]
  let d1 := (d.beginStep n k t w x).1
  let hin := if swOp w = 0xE then [] else d1.region n t (swHin w)
  let haux := if swAuxv w || swOp w = 6 then d1.region n t (swHaux w) else []
  let pad := ((d1.handleEnt n (swHout w)).map (fun e => (e.padk, e.padv))).getD (0, 0)
  let o := arrayStep w t.step later t.ctx hin haux t.emax pad.1 pad.2
  let slot := t.slots.getD (swSlot w) { kind := 0, srcs := [], cave := none }
  [decide (s.die.alive = true ∧ ∃ y ∈ arrays ++ movers, d.stepReady n k y.1 = none),
   decide (s.die.alive = true ∧ ∃ y ∈ arrays, ((fun (op : Nat) => d.stepReady n k op = some (t, w, later) ∧ (d.beginStep n k t w x).2 = true)) y.1),
   decide (s.die.alive = true ∧ ∃ y ∈ arrays, ((fun (op : Nat) => d.stepReady n k op = some (t, w, later) ∧ (d.beginStep n k t w x).2 = true)) y.1 ∧ (swLast w =
      false ∧ t.step < 31) ∧ o.mixed = false ∧ ((isPass w = true → x.residue = false ∧ (d1.vat n).injRes = false))),
   decide (s.die.alive = true ∧ ((fun (op : Nat) => d.stepReady n k op = some (t, w, later) ∧ (d.beginStep n k t w x).2 = true)) 1),
   decide (s.die.alive = true ∧ ((fun (op : Nat) => d.stepReady n k op = some (t, w, later) ∧ (d.beginStep n k t w x).2 = true)) 1 ∧ (swLast w = false ∧ t.step <
      31) ∧ slot.kind ≠ 2 ∧ slot.srcs.all (fun r => r.cave.isNone) = true),
   decide (s.die.alive = true ∧ ((fun (op : Nat) => d.stepReady n k op = some (t, w, later) ∧ (d.beginStep n k t w x).2 = true)) 15),
   decide (s.die.alive = true ∧ ((fun (op : Nat) => d.stepReady n k op = some (t, w, later) ∧ (d.beginStep n k t w x).2 = true)) 15 ∧ slot.kind = 4 ∧ slot.cave =
      some a),
   decide (s.die.alive = true ∧ ((fun (op : Nat) => d.stepReady n k op = some (t, w, later) ∧ (d.beginStep n k t w x).2 = true)) 16)]

/-- The hypotheses of every clause of `VatStepsComplete` are met. -/
theorem test_hypotheses_VatStepsComplete : met [
    (hyp_VatStepsComplete (up (vt [W 1, W 0x10 32])) 3 0 x0 t0 (W 1) [W 0x10 32] 4096, [0, 3, 4]),
   
      (hyp_VatStepsComplete (up (vt [W 2, W 0x10 32])) 3 0 x0 t0 (W 2) [W 0x10 32] 4096, [1, 2]),
    (hyp_VatStepsComplete (up (vt [W 15, W 0x10 32])) 3 0 x0
      t0 (W 15) [W 0x10 32] 4096, [5]),
    (hyp_VatStepsComplete (up (vt [W 16, W 0x10 32])) 3 0 x0 t0 (W 16) [W 0x10 32] 4096, [7]),
   
      (hyp_VatStepsComplete (up (vt [W 15 (2 ^ 64), W 0x10 32])) 3 0 x0 t0 (W 15 (2 ^ 64)) [W 0x10 32] 4096, [6])] = true := by decide +kernel

/-- What each clause of `VatFaultsFence` asks for. -/
def hyp_VatFaultsFence (s : State) (_c : Cls) (v : BitVec 5) (q : BitVec 4) (x : StepFind) (t : TileRun) (w : Nat) (later : List Nat) (op : Nat) : List Bool
    :=
  let d := s.die
  let n := v.toNat
  let k := q.toNat
  let steps : List (Nat × Instr) := [(1, .loadTile v q x), (2, .expScan v q x), (3, .reduce v q x), (4, .scale v q x), (5, .combine v q x), (6, .mergeSoftmax
      v q x), (7, .sampleGumbel v q x), (8, .topk v q x), (9, .quant v q x), (10, .dequant v q x), (11, .cast v q x), (12, .clamp v q x), (13, .maskDrop v q
      x), (14, .fillRandom v q x), (15, .storeTile v q x), (16, .emit v q x)]
  let poison := (namedHandles w).any (fun h => h.2 && ((d.handleEnt n h.1).map (fun e => e.poison)).getD false)
  [decide (s.die.alive = true ∧ ∃ y ∈ steps, y.1 = op ∧ (d.stepReady n k op = some (t, w, later)) ∧ x.rcpUe = true ∧ (d.vat n).injRcp = false),
   decide (s.die.alive = true ∧ ∃ y ∈ steps, y.1 = op ∧ (d.stepReady n k op = some (t, w, later)) ∧ (d.vat n).injRcp = true),
   decide (s.die.alive = true ∧ ∃ y ∈ steps, y.1 = op ∧ (d.stepReady n k op = some (t, w, later)) ∧ (x.rcpUe = false ∧ (d.vat n).injRcp = false) ∧ x.hdlUe =
      true),
   decide (s.die.alive = true ∧ ∃ y ∈ steps, y.1 = op ∧ (d.stepReady n k op = some (t, w, later)) ∧ (x.rcpUe = false ∧ (d.vat n).injRcp = false) ∧ x.hdlUe =
      false ∧ ((namedHandles w).all (fun h => (d.handleOk n t h.1).1) = true) ∧ poison = true),
   decide (s.die.alive = true ∧ ∃ y ∈ steps, y.1 = op ∧ (d.stepReady n k op = some (t, w, later)) ∧ (x.rcpUe = false ∧ (d.vat n).injRcp = false) ∧ x.hdlUe =
      false ∧ ((namedHandles w).all (fun h => (d.handleOk n t h.1).1) = true) ∧ poison = false ∧ x.spadUe.isSome = true),
   decide (s.die.alive = true ∧ ∃ y ∈ steps, y.1 = op ∧ (d.stepReady n k op = some (t, w, later)) ∧ (d.beginStep n k t w x).2 = false),
   decide (s.die.alive = true ∧ (d.vat n).queue[k]? = some t ∧ 8 ≤ (d.tick.count - t.born).toNat ∧ (d.vat n).fault = none ∧ d.get R.vatStatState n ≠ 2 ∧ x.rcpCe
      = false),
   decide (s.die.alive = true ∧ (d.vat n).queue[k]? = some t ∧ (d.tick.count - t.born).toNat < 8),
   decide (s.die.alive = true ∧ d.faulted = []),
   decide (s.die.alive = true ∧ d.faulted = [n] ∧ (d.vat n).queue = []),
   decide (s.die.alive = true ∧ d.underReset .vat n = false ∧ d.debugOpen = true),
   decide (s.die.alive = true ∧ d.underReset .vat n = false ∧ d.debugOpen = false)]

/-- The hypotheses of every clause of `VatFaultsFence` are met. -/
theorem test_hypotheses_VatFaultsFence : met [
    (hyp_VatFaultsFence (up (vt [W 1, W 0x10 32])) .host 3 0 x0 t0 (W 1) [W 0x10 32] 1, [7, 8, 11]),
   
      (hyp_VatFaultsFence (up (vt [W 1, W 0x10 32])) .host 3 0 { x0 with rcpUe := true } t0 (W 1) [W 0x10 32] 1, [0, 5]),
    (hyp_VatFaultsFence (up (vt [W
      1, W 0x10 32])) .host 3 0 { x0 with hdlUe := true } t0 (W 1) [W 0x10 32] 1, [2]),
    (hyp_VatFaultsFence (up (vt [W 1, W 0x10 32])) .host 3 0
      { x0 with spadUe := some 9, spadCe := [3] } t0 (W 1) [W 0x10 32] 1, [4]),
    (hyp_VatFaultsFence (up (vt [W 1, W 0x10 32] (fun s =>
      { s with injRcp := true }))) .host 3 0 x0 t0 (W 1) [W 0x10 32] 1, [1]),
    (hyp_VatFaultsFence (up (fun d => (vt [W 1, W 0x10 32] (fun s =>
      { s with handles := [(1, some { he 1 with poison := true }), (2, some (he 2))] }) d).set R.secDbgState 1)) .host 3 0 x0 t0 (W 1) [W 0x10 32] 1, [10]),
 
      (hyp_VatFaultsFence (up (fun d => (vt [W 2, W 0x10 32] (fun s => { s with handles := [(1, some { he 1 with poison := true }), (2, some (he 2))] })
      d).set R.secDbgState 1)) .host 3 0 x0 t0 (W 2) [W 0x10 32] 2, [3]),
    (hyp_VatFaultsFence (up (vt [W 1, W 0x10 32] (fun s =>
      { s with fault := some (1, 2), queue := [] }))) .host 3 0 x0 t0 (W 1) [W 0x10 32] 1, [9]),
    (hyp_VatFaultsFence (up (fun d => tk 8 (vt [W 1, W 0x10
      32] id d))) .host 3 0 x0 t0 (W 1) [W 0x10 32] 1, [6])] = true := by decide +kernel

/-- What each clause of `BrineVisits` asks for. -/
def hyp_BrineVisits (s : State) (v : BitVec 5) (found : BitVec 2) (h : Nat) (g : HandleEnt) : List Bool :=
  let d := s.die
  let n := v.toNat
  let w := d.get R.vatBrineStatCursor n
  let x := d.vat n
  let times := smapGet 0 x.hard w + 1
  [decide (s.die.alive = true ∧ d.underWipe n w = true),
   decide (s.die.alive = true ∧ d.underWipe n w = false ∧ w < 262143 ∧ found = 0),
   decide (s.die.alive = true ∧ d.underWipe n w = false ∧ w < 262143 ∧ found = 1 ∧ times < 4),
   decide (s.die.alive = true ∧ d.underWipe n w = false ∧ w < 262143 ∧ found = 1 ∧ 4 ≤ times ∧ x.fault = none ∧ d.get R.vatStatState n ≠ 2),
   decide (s.die.alive = true ∧ d.underWipe n w = false ∧ w < 262143 ∧ 2 ≤ found.toNat ∧ d.coverOf n w = none),
   decide (s.die.alive = true ∧ d.underWipe n w = false ∧ w < 262143 ∧ 2 ≤ found.toNat ∧ d.coverOf n w = some (h, g)),
   decide (s.die.alive = true ∧ d.underWipe n w = false ∧ w = 262143 ∧ found = 0),
   decide (s.die.alive = true ∧ x.late = false ∧ 1000000 ≤ d.microOf (d.tick.count - x.passAt).toNat),
   decide (s.die.alive = true ∧ (x.late = true ∨ d.microOf (d.tick.count - x.passAt).toNat < 1000000)),
   decide (s.die.alive = true)]

/-- The hypotheses of every clause of `BrineVisits` are met. -/
theorem test_hypotheses_BrineVisits : met [
    (hyp_BrineVisits (up (fun d => vt [] id d)) 3 0 1 (he 1), [1, 8, 9]),
    (hyp_BrineVisits (up (fun d => vt []
      id d)) 3 1 1 (he 1), [2]),
    (hyp_BrineVisits (up (fun d => vt [] id d)) 3 2 1 (he 1), [4]),
    (hyp_BrineVisits (up (fun d => (vt [] id d).set
      R.vatBrineStatCursor 9 3)) 3 2 1 (he 1), [5]),
    (hyp_BrineVisits (up (fun d => ((vt [] id d).set R.vatBrineStatCursor 9 3).modVat 3 (fun s =>
      { s with hard := [(9, 3)], passAt := 5 }))) 3 1 1 (he 1), [3]),
    (hyp_BrineVisits (up (fun d => ((vt [] id d).set R.vatBrineStatCursor 262143
      3).modVat 3 (fun s => { s with hard := [(9, 3)], wback := [1, 2] }))) 3 0 1 (he 1), [6]),
    (hyp_BrineVisits (up (fun d => tk 250000 (((vt [] id
      d).set R.vatBrineStatCursor 3 3).modVat 3 (fun s => { s with mem := [(24, 7)], late := false, passAt := 0 })))) 3 0 1 (he 1), [7]),
    (hyp_BrineVisits
      (up (fun d => ((vt [] id d).set R.vatBrineStatCursor 3 3).modVat 3 (fun s => { s with wipes := [(0, 9)] }))) 3 0 1 (he 1), [0])] = true := by
  decide +kernel

/-- What each clause of `WipesAndProbe` asks for. -/
def hyp_WipesAndProbe (s : State) (_c : Cls) (v : BitVec 5) (u : BitVec 2) (_cycles : BitVec 32) (w : Word) (_a : Nat) : List Bool :=
  let d := s.die
  let n := v.toNat
  let st := d.get R.vatStatState n
  [decide (s.die.alive = true ∧ d.underReset .vat n = false ∧ (st = 1 ∨ st = 2)),
   decide (s.die.alive = true ∧ d.underReset .vat n = false ∧ (st = 0 ∨ st = 3)),
   decide (s.die.alive = true ∧ (d.vat n).wipes ≠ [] ∧ d.wipeLeft n ≤ 4 * d.tickCycles),
   decide (s.die.alive = true ∧ ((d.vat n).wipes = [] ∨ 4 * d.tickCycles < d.wipeLeft n)),
   decide (s.die.alive = true ∧ u = 0),
   decide (s.die.alive = true ∧ u ≠ 0),
   decide (s.die.alive = true ∧ d.underReset .rng 0 = false ∧ w.getLsbD 0 = true),
   decide (s.die.alive = true ∧ d.underReset .rng 0 = false ∧ w.getLsbD 0 = false),
   decide (s.die.alive = true ∧ d.underReset .rng 0 = false ∧ w.getLsbD 1 = true),
   decide (s.die.alive = true ∧ d.underReset .rng 0 = false ∧ w.getLsbD 1 = false)]

/-- The hypotheses of every clause of `WipesAndProbe` are met. -/
theorem test_hypotheses_WipesAndProbe : met [
    (hyp_WipesAndProbe (up (fun d => vt [] id d)) .host 3 0 77 0 24, [1, 3, 4, 7, 9]),
    (hyp_WipesAndProbe
      (up (fun d => vt [] id d)) .host 3 1 77 0 24, [5]),
    (hyp_WipesAndProbe (up (fun d => vt [] id d)) .host 3 0 77 1 24, [6]),
    (hyp_WipesAndProbe
      (up (fun d => vt [] id d)) .host 3 0 77 2 24, [8]),
    (hyp_WipesAndProbe (up (fun d => ((vt [] id d).set R.vatStatState 1 3).modVat 3 (fun s =>
      { s with mem := [(24, 7)], wipes := [(3, 4)] }))) .host 3 0 77 0 24, [0, 2])] = true := by decide +kernel

/-- What each clause of `RolesAreWritten` asks for. -/
def hyp_RolesAreWritten (s : State) (_c : Cls) (_n : Fin 12) (_w : Word) (_j : Fin 8) : List Bool :=
  let d := s.die
  [decide (Serves s .casc 0 ∧ d.locked .casc = false),
   decide (Serves s .casc 0 ∧ d.locked .casc = true)]

/-- The hypotheses of every clause of `RolesAreWritten` are met. -/
theorem test_hypotheses_RolesAreWritten : met [
    (hyp_RolesAreWritten (up id) .host 0 0 1, [0]),
    (hyp_RolesAreWritten (up (fun d => (idl d).hset
      R.hdrLock 1 .casc)) .host 0 0 1, [1])] = true := by decide +kernel

/-- What each clause of `PlanLifeCycle` asks for. -/
def hyp_PlanLifeCycle (s : State) (_c : Cls) (w : Word) (n : Fin 16) (i : PlanImg) : List Bool :=
  let d := s.die
  let k := fieldGet w 4 4
  let slot := d.plan k
  let d0 : Die := { d with plans := { d.plans with job := none } }
  let x := d0.validate (d0.plan n.val).ofs
  [decide (s.die.alive = true ∧ d.underReset .plan 0 = false ∧ fieldGet w 0 2 ≠ 0),
   decide (s.die.alive = true ∧ d.underReset .plan 0 = false ∧ fieldGet w 0 2 = 0 ∧ (d.plans.job.isSome = true ∨ slot.state ≠ 0)),
   decide (s.die.alive = true ∧ d.underReset .plan 0 = false ∧ fieldGet w 0 2 = 0 ∧ d.plans.job = none ∧ slot.state = 0),
   decide (s.die.alive = true ∧ d.underReset .plan 0 = false ∧ fieldGet w 0 2 ≠ 1),
   decide (s.die.alive = true ∧ d.underReset .plan 0 = false ∧ fieldGet w 0 2 = 1 ∧ (d.plans.job.isSome = true ∨ slot.state = 0 ∨ slot.state = 4)),
   decide (s.die.alive = true ∧ d.underReset .plan 0 = false ∧ fieldGet w 0 2 = 1 ∧ d.plans.job = none ∧ slot.state = 3 ∧ (d.recLive = false) ∧ d.mayUnload k
      true = true),
   decide (s.die.alive = true ∧ d.underReset .plan 0 = false ∧ fieldGet w 0 2 = 1 ∧ d.plans.job = none ∧ slot.state = 3 ∧ (d.recLive = false) ∧ d.mayUnload k
      true = false),
   decide (s.die.alive = true ∧ d.underReset .plan 0 = false ∧ fieldGet w 0 2 = 1 ∧ d.plans.job = none ∧ slot.state = 2 ∧ slot.img = none ∧ (d.recLive = false)),
   decide (s.die.alive = true ∧ d.plans.job = none),
   decide (s.die.alive = true ∧ d.plans.job = some n.val ∧ x.isLeft = true),
   decide (s.die.alive = true ∧ d.plans.job = some n.val ∧ x.isRight = true),
   decide (s.die.alive = true ∧ d.plansDue = []),
   decide (s.die.alive = true ∧ d.plansDue = [n.val] ∧ (d.plan n.val).img = some i ∧ d.planWiping n.val = true),
   decide (s.die.alive = true ∧ d.plansDue = [n.val] ∧ (d.plan n.val).img = some i ∧ d.planWiping n.val = false ∧ i.repl = false)]

/-- The hypotheses of every clause of `PlanLifeCycle` are met. -/
theorem test_hypotheses_PlanLifeCycle : met [
    (hyp_PlanLifeCycle (up (fun d => d)) .host 0 1 img0, [2, 3, 8, 11]),
    (hyp_PlanLifeCycle (up (fun d =>
      d)) .host 1 1 img0, [0, 4]),
    (hyp_PlanLifeCycle (up (fun d => { pl 1 1 id d with plans := { (pl 1 1 id d).plans with job := some 1 } })) .host 0 1
      img0, [1, 9]),
    (hyp_PlanLifeCycle (up (fun d => pl 1 2 id d)) .host 0x11 1 img0, [7]),
    (hyp_PlanLifeCycle (up (fun d => pl 1 3 id d)) .host 0x11
      1 img0, [5]),
    (hyp_PlanLifeCycle (up (fun d => pl 1 2 (fun p => { p with img := some img0 }) d)) .host 0 1 img0, [13]),
    (hyp_PlanLifeCycle (up
      (fun d => pl 1 2 (fun p => { p with img := some img1 }) ((d.setServing 0 0 (some 0)).startWipe 0 0 99))) .host 0 1 img1, [12]),
    (hyp_PlanLifeCycle
      (up (fun d => (pl 1 3 (fun p => { p with img := some { img0 with grps := [⟨0, 0, false, false, 1, 0, 0, 0, 0, 0, 0, 0, 0⟩] } }) d).modGroup 0 (fun g =>
      { g with run := some run0, heldRec := some ⟨[], true⟩ }))) .host 17 1 img0, [6]),
    (hyp_PlanLifeCycle (up (fun d => planMem 0 (ten (rr d)))) .host 0
      0 img0, [10])] = true := by decide +kernel

/-- What each clause of `FingerprintAndRecord` asks for. -/
def hyp_FingerprintAndRecord (s : State) (_c : Cls) (w : Word) (_others : List FpBlock) (_fp _sfp : BitVec 64) (_gen : BitVec 16) : List Bool :=
  let d := s.die
  let fields := [R.detRecCtlDigest, R.detRecCtlRing, R.detRecCtlOutput, R.detRecCtlHost, R.detRecCtlOwnerMgmt, R.detRecCtlOwner]
  [decide (s.die.alive = true ∧ d.isMaster = true ∧ d.bit R.detFpPending = false),
   decide (s.die.alive = true ∧ d.isMaster = true ∧ d.bit R.detFpPending = true ∧ (d.recLive = false ∧ d.rpOn = false)),
   decide (s.die.alive = true ∧ d.isMaster = false ∧ (d.recLive = false ∧ d.rpOn = false)),
   decide (s.die.alive = true ∧ d.isMaster = false),
   decide (s.die.alive = true ∧ d.underReset .det 0 = false ∧ w.getLsbD 0 = true ∧ d.bit R.detRecCtlEn = false ∧ d.get R.detRecState ≠ 2),
   decide (s.die.alive = true ∧ d.underReset .det 0 = false ∧ w.getLsbD 0 = true ∧ d.bit R.detRecCtlEn = true ∧ ¬ (fields.all (fun f => fieldGet w f.lsb f.width
      == d.get f) = true)),
   decide (s.die.alive = true ∧ d.underReset .det 0 = false ∧ w.getLsbD 0 = false ∧ (fields.all (fun f => fieldGet w f.lsb f.width == d.get f) = true) ∧ d.bit
      R.detRecCtlEn = true),
   decide (s.die.alive = true ∧ d.underReset .det 0 = false ∧ w.getLsbD 0 = false),
   decide (s.die.alive = true ∧ d.underReset .det 0 = false ∧ w.getLsbD 0 = true),
   decide (s.die.alive = true ∧ d.get R.detRecState = 2 ∧ 1 ≤ d.det.drain ∧ d.det.buf = [] ∧ d.det.lost = 0),
   decide (s.die.alive = true ∧ d.get R.detRecState = 2 ∧ 16 ≤ d.det.drain),
   decide (s.die.alive = true ∧ (d.get R.detRecState ≠ 2 ∨ d.det.drain = 0 ∨ (d.det.buf ≠ [] ∧ d.det.drain < 16))),
   decide (s.die.alive = true ∧ d.recLive = true ∧ d.det.lost ≠ 0 ∧ d.recBytes + 32 ≤ Die.recCap),
   decide (s.die.alive = true ∧ (d.recLive = false ∨ d.det.lost = 0))]

/-- The hypotheses of every clause of `FingerprintAndRecord` are met. -/
theorem test_hypotheses_FingerprintAndRecord : met [
    (hyp_FingerprintAndRecord (up (fun d => d)) .host 0 [] 5 6 7, [0, 7, 11, 13]),
   
      (hyp_FingerprintAndRecord (up (fun d => d)) .host 1 [] 5 6 7, [4, 8]),
    (hyp_FingerprintAndRecord (up (fun d => d.set R.detFpPending 1)) .host 0 [] 5
      6 7, [1]),
    (hyp_FingerprintAndRecord (up (fun d => d.set R.cascStatMaster 1)) .host 0 [] 5 6 7, [2, 3]),
    (hyp_FingerprintAndRecord (up (fun d =>
      { (d.set R.detRecCtlEn 1).set R.detRecState 1 with det := { d.det with lost := 5 } })) .host 0 [] 5 6 7, [6, 12]),
    (hyp_FingerprintAndRecord (up
      (fun d => { (d.set R.detRecCtlEn 1).set R.detRecState 1 with det := { d.det with lost := 5 } })) .host 3 [] 5 6 7, [5]),
    (hyp_FingerprintAndRecord
      (up (fun d => { (d.set R.detRecCtlEn 1).set R.detRecState 2 with det := { d.det with drain := 1 } })) .host 0 [] 5 6 7, [9]),
   
      (hyp_FingerprintAndRecord (up (fun d => { (d.set R.detRecCtlEn 1).set R.detRecState 2 with det := { d.det with drain := 16, buf := [[1, 2]] } })) .host
      0 [] 5 6 7, [10])] = true := by decide +kernel

/-- What each clause of `ReplayRuns` asks for. -/
def hyp_ReplayRuns (s : State) (_c : Cls) (w : Word) (ent : RpEnt) (p : Byte) (data : List Byte) (r : List (List Byte)) : List Bool :=
  let d := s.die
  let o := Die.rpSkip Die.rpFuel d (16 * d.get R.detRpRptr)
  let past := d.set R.detRpRptr (o / 16)
  [decide (s.die.alive = true ∧ d.underReset .det 0 = false ∧ w.getLsbD 0 = true ∧ w.getLsbD 4 = false),
   decide (s.die.alive = true ∧ d.underReset .det 0 = false ∧ w.getLsbD 0 = true ∧ w.getLsbD 4 = true),
   decide (s.die.alive = true ∧ d.underReset .det 0 = false ∧ w.getLsbD 0 = false ∧ w.getLsbD 4 = false),
   decide (s.die.alive = true ∧ d.underReset .det 0 = false ∧ w.getLsbD 0 = false),
   decide (s.die.alive = true ∧ d.underReset .det 0 = false ∧ w.getLsbD 0 = true),
   decide (s.die.alive = true ∧ d.underReset .det 0 = false),
   decide (s.die.alive = true ∧ ¬ (d.rpOn = true ∧ d.det.rpStop = false)),
   decide (s.die.alive = true ∧ (d.rpOn = true ∧ d.det.rpStop = false) ∧ past.rpRead o = none),
   decide (s.die.alive = true ∧ (d.rpOn = true ∧ d.det.rpStop = false) ∧ past.rpRead o = some ent ∧ (ent.kind = 7 ∨ ent.bad = true)),
   decide (s.die.alive = true ∧ (d.rpOn = true ∧ d.det.rpStop = false) ∧ past.rpRead o = some ent ∧ ent.kind ≠ 7 ∧ ent.bad = false ∧ past.rpActs ent = true ∧
      past.rpDue ent = true),
   decide (s.die.alive = true ∧ (d.rpOn = true ∧ d.det.rpStop = false) ∧ past.rpRead o = some ent ∧ ent.kind ≠ 7 ∧ ent.bad = false ∧ (past.rpActs ent = false ∨
      past.rpDue ent = false)),
   decide (s.die.alive = true ∧ (d.rpOn = true ∧ d.det.rpStop = false) ∧ d.det.late = []),
   decide (s.die.alive = true ∧ (d.rpOn = true ∧ d.det.rpStop = false) ∧ d.det.late = (p :: data) :: r ∧ (d.injectAccept p.toNat data).2 = true),
   decide (s.die.alive = true ∧ (d.rpOn = true ∧ d.det.rpStop = false) ∧ d.det.late = (p :: data) :: r ∧ (d.injectAccept p.toNat data).2 = false),
   decide (s.die.alive = true ∧ d.rpOn = true ∧ d.replayOver = true),
   decide (s.die.alive = true ∧ (d.rpOn = false ∨ d.replayOver = false))]

/-- The hypotheses of every clause of `ReplayRuns` are met. -/
theorem test_hypotheses_ReplayRuns : met [
    (hyp_ReplayRuns (up (fun d => d)) .host 0 (e0 1) 3 [] [], [2, 3, 5, 6, 15]),
    (hyp_ReplayRuns (up (fun d =>
      d)) .host 1 (e0 1) 3 [] [], [0, 4]),
    (hyp_ReplayRuns (up (fun d => d)) .host 17 (e0 1) 3 [] [], [1]),
    (hyp_ReplayRuns (up (fun d => rpl d))
      .host 0 (e0 1) 3 [] [], [7, 11, 14]),
    (hyp_ReplayRuns (up (fun d => lg 7 (rpl d))) .host 0 (e0 7) 3 [] [], [8]),
    (hyp_ReplayRuns (up (fun d =>
      lg 2 (rpl d))) .host 0 (e0 2) 3 [] [], [9]),
    (hyp_ReplayRuns (up (fun d => lg 2 (rpl (tk (2 ^ 48 - 1) d)))) .host 1 (e0 2) 3 [] [], [10]),
   
      (hyp_ReplayRuns (up (fun d => { rpl d with det := { (rpl d).det with late := [[3]] } })) .host 1 (e0 2) 3 [] [], [13]),
    (hyp_ReplayRuns (up (fun d
      =>
      { (quo (ten (rr (rpl d)))).setRundown (.port 5) { RunDown.none with phase := .draining } with det := { (rpl d).det with late := [5 :: (leBytes 64 good.bits ++ good.payload)] } }))
      .host 1 (e0 2) 5 (leBytes 64 good.bits ++ good.payload) [], [12])] = true := by decide +kernel

/-- What each clause of `CollectiveQueues` asks for. -/
def hyp_CollectiveQueues (s : State) (_c : Cls) (g : BitVec 12) (x : BitVec 9) (_rid : BitVec 16) (ofs : BitVec 29) (_b : Byte) (h : HeldRec) (_a' : Nat) :
    List Bool :=
  let d := s.die
  let n := g.toNat
  let k := n / 256
  let G := d.group n
  let ring (p q : Nat) : Nat := (p + 512 - q) % 512
  let a := ofs.toNat % 0x8000000
  let m := a / 0x6000
  [decide (s.die.alive = true ∧ (d.underReset .coll k = false ∧ d.replayGroup n = false ∧ d.recLive = false) ∧ d.isHome n = true ∧ ring x.toNat G.sqHead ≤ 256 ∧
      ring G.sqTail G.sqHead ≤ ring x.toNat G.sqHead),
   decide (s.die.alive = true ∧ (d.underReset .coll k = false ∧ d.replayGroup n = false ∧ d.recLive = false) ∧ d.isHome n = true ∧ (256 < ring x.toNat G.sqHead ∨
      ring x.toNat G.sqHead < ring G.sqTail G.sqHead)),
   decide (s.die.alive = true ∧ (d.underReset .coll k = false ∧ d.replayGroup n = false ∧ d.recLive = false) ∧ d.isHome n = true ∧ ring x.toNat G.cqHead ≤ ring
      G.cqTail G.cqHead),
   decide (s.die.alive = true ∧ (d.underReset .coll k = false ∧ d.replayGroup n = false ∧ d.recLive = false) ∧ d.isHome n = true ∧ ring G.cqTail G.cqHead < ring
      x.toNat G.cqHead),
   decide (s.die.alive = true ∧ (d.underReset .coll k = false ∧ d.replayGroup n = false ∧ d.recLive = false) ∧ d.isHome n = false),
   decide (s.die.alive = true ∧ d.isMaster = true ∧ ¬ (d.isMaster = true ∧ d.inD0 = true ∧ d.bit R.hostLinkMemEn = true)),
   decide (s.die.alive = true ∧ ((d.isMaster = true ∧ d.inD0 = true ∧ d.bit R.hostLinkMemEn = true) ∧ ofs.toNat / 0x8000000 = d.pos ∧ d.underReset .cave 0 =
      false) ∧ a < 0x6000000 ∧ d.isHome m = true ∧ d.replayGroup m = false ∧ a % 0x6000 < 0x4000 ∧ d.slotLock (a / 64 * 64) = true),
   decide (s.die.alive = true ∧ ((d.isMaster = true ∧ d.inD0 = true ∧ d.bit R.hostLinkMemEn = true) ∧ ofs.toNat / 0x8000000 = d.pos ∧ d.underReset .cave 0 =
      false) ∧ a < 0x6000000 ∧ d.isHome m = true ∧ d.replayGroup m = false ∧ d.recLive = false ∧ a % 0x6000 < 0x4000 ∧ d.slotLock (a / 64 * 64) = false ∧
      (d.caveOwner a).isSome = true ∧ d.caveBad a = false),
   decide (s.die.alive = true ∧ ((d.isMaster = true ∧ d.inD0 = true ∧ d.bit R.hostLinkMemEn = true) ∧ ofs.toNat / 0x8000000 = d.pos ∧ d.underReset .cave 0 =
      false) ∧ a < 0x6000000 ∧ d.isHome m = true ∧ 0x4000 ≤ a % 0x6000),
   decide (s.die.alive = true ∧ ¬ (d.mayDrain n = true ∧ d.sqReady n = true)),
   decide (s.die.alive = true ∧ (d.mayDrain n = true ∧ d.sqReady n = true)),
   decide (s.die.alive = true ∧ 16 ≤ G.wait ∧ G.stalled = false),
   decide (s.die.alive = true ∧ (G.wait < 16 ∨ G.stalled = true)),
   decide (s.die.alive = true ∧ d.isHome n = false),
   decide (s.die.alive = true ∧ d.isHome n = true ∧ G.heldRec = some h ∧ d.slotLock (cqAddr n G.cqTail) = true),
   decide (s.die.alive = true ∧ d.isHome n = true ∧ G.heldRec = some h ∧ d.slotLock (cqAddr n G.cqTail) = false),
   decide (s.die.alive = true ∧ (G.resend.filter (fun r => decide (16 ≤ (d.tick.count - r.2).toNat))) = []),
   decide (s.die.alive = true)]

/-- The hypotheses of every clause of `CollectiveQueues` are met. -/
theorem test_hypotheses_CollectiveQueues : met [
    (hyp_CollectiveQueues (up (fun d => d)) .host 3 0 7 0x12000 0xFF ⟨[], true⟩ 0x12001, [4, 5, 9, 12, 13,
      16, 17]),
    (hyp_CollectiveQueues (up (fun d => gg id tr0 0 (mem1 (rr d)))) .host 3 0 7 0x12000 0xFF ⟨[], true⟩ 0x12001, [0, 2, 7]),
   
      (hyp_CollectiveQueues (up (fun d => gg id tr0 0 (mem1 (rr d)))) .host 3 1 7 0x12000 0xFF ⟨[], true⟩ 0x12001, [3]),
    (hyp_CollectiveQueues (up (fun d
      => gg id tr0 0 (mem1 (rr d)))) .host 3 257 7 0x12000 0xFF ⟨[], true⟩ 0x12001, [1]),
    (hyp_CollectiveQueues (up (fun d => gg id tr0 0 (mem1 (rr d))))
      .host 3 0 7 0x16000 0xFF ⟨[], true⟩ 0x12001, [8]),
    (hyp_CollectiveQueues (up (fun d => (gg id tr0 0 (mem1 (rr d))).setLock 0x12000 true)) .host 3 0
      7 0x12000 0xFF ⟨[], true⟩ 0x12002, [6]),
    (hyp_CollectiveQueues (up (fun d => gg (fun g => { g with wait := 16 }) tr0 0 (mem1 (rr d)))) .host 3 0 7
      0x12000 0xFF ⟨[], true⟩ 0, [11]),
    (hyp_CollectiveQueues (up (fun d => gg (fun g => { g with heldRec := some ⟨[1, 2, 3], true⟩ }) tr0 0 (mem1 (rr
      d)))) .host 3 0 7 0 0xFF ⟨[1, 2, 3], true⟩ 0, [15]),
    (hyp_CollectiveQueues (up (fun d => (gg (fun g => { g with heldRec := some ⟨[1, 2, 3], true⟩ })
      tr0 0 (mem1 (rr d))).setLock 0x16000 true)) .host 3 0 7 0 0xFF ⟨[1, 2, 3], true⟩ 0, [14]),
    (hyp_CollectiveQueues (up (fun d => dsc 100 (gg (fun g =>
      { g with sqTail := 3 }) tr0 0 (mem1 (rr d))))) .host 3 0 7 0 0xFF ⟨[], true⟩ 0, [10])] = true := by decide +kernel

/-- What each clause of `CollectiveRuns` asks for. -/
def hyp_CollectiveRuns (s : State) (g : BitVec 12) (c : BitVec 32) (_p : BitVec 7) (pk : Packet) (r : CollRun) (ge : GroupEnt) (tr : TreeRec) : List Bool :=
  let d := s.die
  let n := pk.group.toNat
  let G := d.group n
  let m := g.toNat
  let M := d.group m
  let next := d.nextChunk m r
  let lateAt := Die.plannedTick r next + BitVec.ofNat 48 ge.holdMax
  let ch := pk.chunk.toNat
  [decide (s.die.alive = true ∧ (d.isCctl pk 8 = false ∨ d.isHome n = true)),
   decide (s.die.alive = true ∧ d.isCctl pk 8 = true ∧ d.isHome n = false ∧ G.run = some r ∧ r.d.cid = pk.cid.toNat),
   decide (s.die.alive = true ∧ d.isCctl pk 8 = true ∧ d.isHome n = false ∧ G.run = some r ∧ r.d.cid ≠ pk.cid.toNat),
   decide (s.die.alive = true ∧ d.isCctl pk 8 = true ∧ d.isHome n = false ∧ G.run = none ∧ G.early = []),
   decide (s.die.alive = true ∧ (d.isCctl pk 9 = false ∨ pk.arg ≠ 0)),
   decide (s.die.alive = true ∧ d.isCctl pk 9 = true ∧ pk.arg = 0 ∧ G.run = some r),
   decide (s.die.alive = true ∧ M.run = none),
   decide (s.die.alive = true ∧ M.run = some r ∧ d.chunkReady m r next = false),
   decide (s.die.alive = true ∧ M.run = some r ∧ d.chunkReady m r next = true),
   decide (s.die.alive = true ∧ M.run = some r ∧ M.ent = some ge ∧ r.ended = none ∧ next < r.nchunks ∧ d.reached lateAt = true),
   decide (s.die.alive = true ∧ M.run = some r ∧ r.ended.isSome = true),
   decide (s.die.alive = true ∧ (pk.op ≠ 0x11 ∨ pk.hcrcOk = false ∨ pk.crc64Ok = false ∨ G.ent = none)),
   decide (s.die.alive = true ∧ G.ent = some ge ∧ ge.tid ≠ pk.tid.toNat),
   decide (s.die.alive = true ∧ (pk.op = 0x11 ∧ pk.hcrcOk = true ∧ pk.crc64Ok = true ∧ G.ent = some ge ∧ ge.tid = pk.tid.toNat) ∧ G.run = some r ∧ r.d.cid ≠
      pk.cid.toNat ∧ ((BitVec.ofNat 16 r.d.cid - pk.cid).toNat < 2 ^ 15)),
   decide (s.die.alive = true ∧ (pk.op = 0x11 ∧ pk.hcrcOk = true ∧ pk.crc64Ok = true ∧ G.ent = some ge ∧ ge.tid = pk.tid.toNat) ∧ G.run = some r ∧ r.d.cid =
      pk.cid.toNat ∧ d.chunkTree n r ch = none),
   decide (s.die.alive = true ∧ (pk.op = 0x11 ∧ pk.hcrcOk = true ∧ pk.crc64Ok = true ∧ G.ent = some ge ∧ ge.tid = pk.tid.toNat) ∧ G.run = some r ∧ r.d.cid =
      pk.cid.toNat ∧ d.chunkTree n r ch = some tr ∧ (tr.tree, tr.alt) ≠ (pk.arg.toNat % 8, pk.arg.toNat / 16 % 2 == 1)),
   decide (s.die.alive = true ∧ (pk.op = 0x11 ∧ pk.hcrcOk = true ∧ pk.crc64Ok = true ∧ G.ent = some ge ∧ ge.tid = pk.tid.toNat) ∧ G.run = some r ∧ r.d.cid =
      pk.cid.toNat ∧ d.chunkTree n r ch = some tr ∧ (tr.tree, tr.alt) = (pk.arg.toNat % 8, pk.arg.toNat / 16 % 2 == 1) ∧ (d.chunkOf n ch).parts.any (fun x =>
      x.1 == pk.seid.toNat && x.2.1 == pk.addr.toNat) = true),
   decide (s.die.alive = true ∧ (pk.op = 0x11 ∧ pk.hcrcOk = true ∧ pk.crc64Ok = true ∧ G.ent = some ge ∧ ge.tid = pk.tid.toNat) ∧ G.run = some r ∧ r.d.cid =
      pk.cid.toNat ∧ d.chunkTree n r ch = some tr ∧ (tr.tree, tr.alt) = (pk.arg.toNat % 8, pk.arg.toNat / 16 % 2 == 1)),
   decide (s.die.alive = true ∧ (pk.op = 0x11 ∧ pk.hcrcOk = true ∧ pk.crc64Ok = true ∧ G.ent = some ge ∧ ge.tid = pk.tid.toNat) ∧ (G.run = none ∨ (G.run = some r
      ∧ r.d.cid ≠ pk.cid.toNat ∧ ¬ ((BitVec.ofNat 16 r.d.cid - pk.cid).toNat < 2 ^ 15)))),
   decide (s.die.alive = true ∧ d.isCctl pk 0xA = false),
   decide (s.die.alive = true ∧ d.isCctl pk 0xB = false),
   decide (s.die.alive = true ∧ d.isCctl pk 0xA = true ∧ (G.run = none ∨ (G.run = some r ∧ r.d.cid ≠ pk.cid.toNat) ∨ (d.chunkOf n ch).fin.isSome = true)),
   decide (s.die.alive = true ∧ d.isCctl pk 0xA = true ∧ G.run = some r ∧ r.d.cid = pk.cid.toNat ∧ (d.chunkOf n ch).fin = none),
   decide (s.die.alive = true ∧ d.isCctl pk 0xB = true ∧ (G.run = none ∨ (G.run = some r ∧ r.d.cid ≠ pk.cid.toNat))),
   decide (s.die.alive = true ∧ d.isCctl pk 0xB = true ∧ G.run = some r ∧ r.d.cid = pk.cid.toNat ∧ (d.chunkOf n ch).fin = none ∧ d.isHome n = true),
   decide (s.die.alive = true ∧ M.run = some r ∧ d.chunkTree m r c.toNat = none),
   decide (s.die.alive = true ∧ M.run = some r ∧ d.chunkTree m r c.toNat = some tr ∧ tr.root = true),
   decide (s.die.alive = true ∧ M.run = some r ∧ d.chunkTree m r c.toNat = some tr ∧ tr.root = false),
   decide (s.die.alive = true ∧ d.isHome m = true ∧ M.heldRec = none ∧ M.run = some r ∧ d.allFin m r = false ∧ r.ended = none),
   decide (s.die.alive = true ∧ d.isHome m = true ∧ M.heldRec = none ∧ M.run = some r ∧ d.allFin m r = true ∧ r.ended = none ∧ r.chunks.all (fun x =>
      x.2.fin.isSome) = true)]

/-- The hypotheses of every clause of `CollectiveRuns` are met. -/
theorem test_hypotheses_CollectiveRuns : met [
    (hyp_CollectiveRuns (up (fun d => gg id tr0 0 (rr d))) 3 0 5 (cc 8) run0 ge0 tr0, [0, 4, 6, 11, 19, 20]),
 
      (hyp_CollectiveRuns (up (fun d => gg id tr1 1 (rr d))) 3 0 5 (cc 8) run0 ge0 tr1, [3]),
    (hyp_CollectiveRuns (up (fun d => gg (wr run0) tr1 1 (rr
      d))) 3 0 5 (cc 8 9) run0 ge0 tr1, [1, 7, 27]),
    (hyp_CollectiveRuns (up (fun d => gg (wr run0) tr1 1 (rr d))) 3 0 5 (cc 8 8) run0 ge0 tr1, [2]),
   
      (hyp_CollectiveRuns (up (fun d => gg (wr run0) tr0 0 (rr d))) 3 0 5 (cc 8 9) run0 ge0 tr0, [26, 28]),
    (hyp_CollectiveRuns (up (fun d => gg (wr run0)
      tr1 1 (rr d))) 3 0 5 (cc 9 9) run0 ge0 tr1, [5]),
    (hyp_CollectiveRuns (up (fun d => gg id tr0 0 (rr d))) 3 0 5 (cc 10) run0 ge0 tr0, [21]),
   
      (hyp_CollectiveRuns (up (fun d => gg (wr run0) tr1 1 (rr d))) 3 0 5 (cc 10 9) run0 ge0 tr1, [22]),
    (hyp_CollectiveRuns (up (fun d => gg id tr0 0 (rr
      d))) 3 0 5 (cc 11) run0 ge0 tr0, [23]),
    (hyp_CollectiveRuns (up (fun d => gg (wr run0) tr0 0 (rr d))) 3 0 5 (cc 11 9) run0 ge0 tr0, [24]),
   
      (hyp_CollectiveRuns (up (fun d => tk 0 (gg (wr run1) tr0 0 (mem1 (rr d))))) 3 0 5 (cc 11) run1 ge0 tr0, [29]),
    (hyp_CollectiveRuns (up (fun d => tk
      20 (gg (wr run1) tr0 0 (mem1 (rr d))))) 3 0 5 (cc 11) run1 ge0 tr0, [9])] = true := by decide +kernel
theorem test_hypotheses_CollectiveRuns_2 : met [
    (hyp_CollectiveRuns (up (fun d => gg (wr run4) { tr0 with locals := [] } 0 (mem1 (rr d)))) 3 0 5 (cc 11)
      run4 ge0 { tr0 with locals := [] }, [8]),
    (hyp_CollectiveRuns (up (fun d => gg (wr { run0 with ended := some (2, 5) }) tr0 0 (mem1 (rr d)))) 3 0 5
      (cc 11) { run0 with ended := some (2, 5) } ge0 tr0, [10]),
    (hyp_CollectiveRuns (up (fun d => gg (wr run0) tr0 0 (mem1 (rr d)))) 3 0 5 (pp 8 0) run0
      ge0 tr0, [13]),
    (hyp_CollectiveRuns (up (fun d => gg (wr run0) tr0 0 (mem1 (rr d)))) 3 0 5 (pp 9 0) run0 ge0 tr0, [15]),
    (hyp_CollectiveRuns (up
      (fun d => gg (wr run0) tr0 0 (mem1 (rr d)))) 3 0 5 (pp 10 0) run0 ge0 tr0, [18]),
    (hyp_CollectiveRuns (up (fun d => gg (wr run0) tr0 0 (mem1 (rr
      d)))) 3 0 5 (pp 9 6) run0 ge0 tr0, [17]),
    (hyp_CollectiveRuns (up (fun d => gg id tr0 0 (mem1 (rr d)))) 3 0 5 { pp 9 0 with tid := 2 } run0 ge0 tr0,
      [12]),
    (hyp_CollectiveRuns (up (fun d => gg (wr run0) { tr0 with tree := 5 } 0 (mem1 (rr d)))) 3 0 5 (pp 9 0) run0 ge0 tr0, [14, 25]),
   
      (hyp_CollectiveRuns (up (fun d => gg (wr { run0 with chunks := [(0, { ChunkSt.init with parts := [(0x40, 0, 0, 0)] })] }) tr0 0 (mem1 (rr d)))) 3 0 5
      (pp 9 6) { run0 with chunks := [(0, { ChunkSt.init with parts := [(0x40, 0, 0, 0)] })] } ge0 tr0, [16])] = true := by decide +kernel

/-- What each clause of `CollectiveCommands` asks for. -/
def hyp_CollectiveCommands (s : State) (_c : Cls) (g : BitVec 12) (p : BitVec 7) (ix : BitVec 12) (pk : Packet) (ans : Option Bool) (kind : Fin 4) (r :
    CollRun) (ge : GroupEnt) : List Bool :=
  let d := s.die
  let k := 4096 * p.toNat + ix.toNat
  let x := d.led k
  let X := x.pkt.group.toNat
  let N := pk.group.toNat
  let n := g.toNat
  let u := UnitId.group g
  let code := pk.arg.toNat % 16
  let why := pk.arg.toNat / 16 % 16
  [decide (s.die.alive = true ∧ p ≠ 64 ∧ ¬ (p ≠ 64 ∧ x.own = true ∧ x.pkt.op = 8 ∧ x.pkt.addr.toNat % 16 = kind.val ∧ x.state ≠ .settled)),
   decide (s.die.alive = true ∧ (p ≠ 64 ∧ x.own = true ∧ x.pkt.op = 8 ∧ x.pkt.addr.toNat % 16 = kind.val ∧ x.state ≠ .settled) ∧ ans.isSome = true),
   decide (s.die.alive = true ∧ (p ≠ 64 ∧ x.own = true ∧ x.pkt.op = 8 ∧ x.pkt.addr.toNat % 16 = kind.val ∧ x.state ≠ .settled) ∧ ans = none ∧ (d.group X).ent =
      none),
   decide (s.die.alive = true ∧ (p ≠ 64 ∧ x.own = true ∧ x.pkt.op = 8 ∧ x.pkt.addr.toNat % 16 = kind.val ∧ x.state ≠ .settled) ∧ ans = none ∧ (d.group X).ent =
      some ge ∧ ge.hasq = false),
   decide (s.die.alive = true ∧ (p ≠ 64 ∧ x.own = true ∧ x.pkt.op = 8 ∧ x.pkt.addr.toNat % 16 = kind.val ∧ x.state ≠ .settled) ∧ ans = none ∧ d.isHome X = true),
   decide (s.die.alive = true ∧ (p ≠ 64 ∧ x.own = true ∧ x.pkt.op = 8 ∧ x.pkt.addr.toNat % 16 = kind.val ∧ x.state ≠ .settled) ∧ ans = none ∧ d.isHome X = true ∧
      (d.group X).ent = some ge ∧ (ge.tid ≠ x.pkt.tid.toNat ∨ ge.lkind = false ∨ ge.leid ≠ x.pkt.seid)),
   decide (s.die.alive = true ∧ (p ≠ 64 ∧ x.own = true ∧ x.pkt.op = 8 ∧ x.pkt.addr.toNat % 16 = kind.val ∧ x.state ≠ .settled) ∧ ans = none ∧ (d.group X).ent =
      some ge ∧ ge.hasq = true ∧ d.isHome X = false),
   decide (s.die.alive = true ∧ p = 64 ∧ (pk.op ≠ 8 ∨ pk.addr.toNat % 16 ≠ kind.val)),
   decide (s.die.alive = true ∧ p = 64 ∧ pk.op = 8 ∧ pk.addr.toNat % 16 = kind.val ∧ d.underReset .coll (N / 256) = true),
   decide (s.die.alive = true ∧ p = 64 ∧ pk.op = 8 ∧ pk.addr.toNat % 16 = kind.val ∧ d.underReset .coll (N / 256) = false),
   decide (s.die.alive = true ∧ (d.underReset .coll (n / 256) = false ∧ d.replayGroup n = false ∧ d.recLive = false) ∧ d.isHome n = true ∧ (d.rundown u).phase =
      .run),
   decide (s.die.alive = true ∧ (d.underReset .coll (n / 256) = false ∧ d.replayGroup n = false ∧ d.recLive = false) ∧ d.isHome n = true ∧ (d.rundown u).phase ≠
      .run),
   decide (s.die.alive = true ∧ (d.underReset .coll (n / 256) = false ∧ d.replayGroup n = false ∧ d.recLive = false) ∧ d.isHome n = true),
   decide (s.die.alive = true ∧ (d.underReset .coll (n / 256) = false ∧ d.replayGroup n = false ∧ d.recLive = false) ∧ d.isHome n = false),
   decide (s.die.alive = true ∧ d.isCctl pk 0xC = false),
   decide (s.die.alive = true ∧ d.isCctl pk 0xC = true ∧ d.isHome N = true ∧ (d.group N).run = some r ∧ r.d.cid = pk.cid.toNat ∧ code = 2 ∧ r.ended = none),
   decide (s.die.alive = true ∧ d.isCctl pk 0xC = true ∧ d.isHome N = true ∧ ((d.group N).run = none ∨ code ≠ 2)),
   decide (s.die.alive = true ∧ (d.isCctl pk 0xC = true ∧ d.isHome N = false) ∧ code = 1 ∧ (d.rundown (.group pk.group)).phase = .run),
   decide (s.die.alive = true ∧ (d.isCctl pk 0xC = true ∧ d.isHome N = false) ∧ code = 2 ∧ why = 5),
   decide (s.die.alive = true ∧ (d.isCctl pk 0xC = true ∧ d.isHome N = false) ∧ code = 2 ∧ why ≠ 5),
   decide (s.die.alive = true ∧ (d.isCctl pk 0xC = true ∧ d.isHome N = false) ∧ (code = 3 ∨ code = 0 ∨ 4 ≤ code)),
   decide (s.die.alive = true ∧ (d.isCctl pk 9 = false ∨ pk.arg = 0)),
   decide (s.die.alive = true ∧ d.isCctl pk 9 = true ∧ pk.arg ≠ 0)]

/-- The hypotheses of every clause of `CollectiveCommands` are met. -/
theorem test_hypotheses_CollectiveCommands : met [
    (hyp_CollectiveCommands (up (fun d => gg id tr0 0 (mem1 (rr d)))) .host 3 64 10 (cc 0) none 0 run0 ge0,
      [9, 10, 12, 14, 21]),
    (hyp_CollectiveCommands (up (fun d => gg (wr run0) tr1 1 (mem1 (rr d)))) .host 3 64 10 (cc 0) none 0 run0 ge0, [13]),
   
      (hyp_CollectiveCommands (up (fun d => cl 0 (cc 0 9 1) .held true d)) .host 3 5 10 (cc 0 9 1) none 0 run0 ge0, [4]),
    (hyp_CollectiveCommands (up (fun
      d => cl 0 (cc 0 9 1) .held true d)) .host 3 5 10 (cc 0 9 1) (some true) 0 run0 ge0, [1]),
    (hyp_CollectiveCommands (up (fun d => gg (wr run0) tr1 1
      (mem1 (rr d)))) .host 3 64 10 (cc 12 9 0) none 0 run0 ge0, [7, 20]),
    (hyp_CollectiveCommands (up (fun d => gg (wr run0) tr0 0 (mem1 (rr d)))) .host
      3 64 10 (cc 12 9 0) none 0 run0 ge0, [16]),
    (hyp_CollectiveCommands (up (fun d => gg (wr run0) tr1 1 (mem1 (rr d)))) .host 3 64 10 (cc 12 9 1) none
      0 run0 ge0, [17]),
    (hyp_CollectiveCommands (up (fun d => gg (wr run0) tr1 1 (mem1 (rr d)))) .host 3 64 10 (cc 9 9 1) none 1 run0 ge0, [22]),
   
      (hyp_CollectiveCommands (up (fun d => gg (wr run0) tr1 1 (mem1 (rr d)))) .host 3 64 10 (cc 12 9 2) none 0 run0 ge0, [19]),
    (hyp_CollectiveCommands
      (up (fun d => gg (wr run0) tr0 0 (mem1 (rr d)))) .host 3 64 10 (cc 12 9 2) none 0 run0 ge0, [15]),
    (hyp_CollectiveCommands (up (fun d => gg (wr
      run0) tr1 1 (mem1 (rr d)))) .host 3 64 10 (cc 12 9 82) none 0 run0 ge0, [18]),
    (hyp_CollectiveCommands (up (fun d => (gg (wr run0) tr0 0 (mem1 (rr
      d))).startRundown (.group 3) 9)) .host 3 64 10 (cc 12) none 0 run0 ge0, [11])] = true := by decide +kernel
theorem test_hypotheses_CollectiveCommands_2 : met [
    (hyp_CollectiveCommands (up (fun d => cl 0 (cc 1 9 1) .held true d)) .host 3 5 10 (cc 2 9 1) none 2
      run0 ge0, [0]),
    (hyp_CollectiveCommands (up (fun d => (gg id tr0 0 (mem1 (rr d))).hset R.hdrStatReset 1 .coll 0)) .host 3 64 10 (cc 1 9 1) none 1
      run0 ge0, [8]),
    (hyp_CollectiveCommands (up (fun d => (cl 0 (cc 1 9 1) .held true d).modGroup 3 (fun g => { g with ent := none }))) .host 3 5 10 (cc
      1 9 1) none 1 run0 ge0, [2]),
    (hyp_CollectiveCommands (up (fun d => (cl 0 (cc 1 9 1) .held true d).modGroup 3 (fun g =>
      { g with ent := some { ge0 with hasq := false } }))) .host 3 5 10 (cc 1 9 1) none 1 run0 { ge0 with hasq := false }, [3]),
    (hyp_CollectiveCommands
      (up (fun d => (cl 0 (cc 1 9 1) .held true d).modGroup 3 (fun g => { g with ent := some { ge0 with tid := 2 } }))) .host 3 5 10 (cc 1 9 1) none 1 run0
      { ge0 with tid := 2 }, [5]),
    (hyp_CollectiveCommands (up (fun d => (cl 0 (cc 1 9 1) .held true d).modGroup 3 (fun g =>
      { g with ent := some { ge0 with lkind := true, leid := 0x40, home := 1 } }))) .host 3 5 10 (cc 1 9 1) none 1 run0
      { ge0 with lkind := true, leid := 0x40, home := 1 }, [6])] = true := by decide +kernel

/-- What each clause of `TenantsAdmittedAndKilled`, part TenantControls asks for. -/
def hyp_TenantControls (s : State) (_c : Cls) (t : BitVec 8) (w : Word) : List Bool :=
  let en := w.getLsbD 0
  let d := s.die
  let i := t.toNat / 4
  let st := d.tenState t.toNat
  let k := d.ktick t.toNat
  let ahead := (BitVec.ofNat 48 k - d.tick.count).toNat
  [decide (s.die.alive = true ∧ en = false),
   decide (s.die.alive = true ∧ en = true),
   decide (s.die.alive = true ∧ w.getLsbD 1 = false),
   decide (s.die.alive = true ∧ d.underReset .ten i = false ∧ en = true ∧ w.getLsbD 1 = false ∧ (st = 2 ∨ st = 3 ∨ (st = 0 ∧ d.boot.gnotik = false))),
   decide (s.die.alive = true ∧ d.underReset .ten i = false ∧ en = true ∧ w.getLsbD 1 = false ∧ st = 0 ∧ d.boot.gnotik = true),
   decide (s.die.alive = true ∧ d.underReset .ten i = false ∧ en = true ∧ w.getLsbD 1 = false ∧ st = 1),
   decide (s.die.alive = true ∧ d.underReset .ten i = false ∧ en = false ∧ w.getLsbD 1 = false ∧ st = 1),
   decide (s.die.alive = true ∧ d.underReset .ten i = false ∧ en = false ∧ w.getLsbD 1 = false ∧ st ≠ 1),
   decide (s.die.alive = true ∧ d.underReset .ten i = false ∧ w.getLsbD 1 = true ∧ st ≠ 1),
   decide (s.die.alive = true ∧ d.underReset .ten i = false ∧ en = true ∧ w.getLsbD 1 = true ∧ st = 1 ∧ k = 0),
   decide (s.die.alive = true ∧ d.underReset .ten i = false ∧ en = true ∧ w.getLsbD 1 = true ∧ st = 1 ∧ k ≠ 0 ∧ 16 ≤ ahead ∧ ahead < 2 ^ 47),
   decide (s.die.alive = true ∧ d.underReset .ten i = false ∧ en = true ∧ w.getLsbD 1 = true ∧ st = 1 ∧ k ≠ 0 ∧ (ahead < 16 ∨ 2 ^ 47 ≤ ahead))]

/-- The hypotheses of every clause of `TenantsAdmittedAndKilled`, part TenantControls are met. -/
theorem test_hypotheses_TenantControls : met [
    (hyp_TenantControls (up (fun d => t5 0 d)) .host 5 0, [0, 2, 7]),
    (hyp_TenantControls (up (fun d => t5
      0 d)) .host 5 1, [1, 4]),
    (hyp_TenantControls (up (fun d => t5 0 d)) .host 5 2, [8]),
    (hyp_TenantControls (up (fun d =>
      { t5 0 d with boot := { d.boot with gnotik := false } })) .host 5 1, [3]),
    (hyp_TenantControls (up (fun d => t5 1 d)) .host 5 0, [6]),
   
      (hyp_TenantControls (up (fun d => t5 1 d)) .host 5 1, [5]),
    (hyp_TenantControls (up (fun d => t5 1 d)) .host 5 3, [9]),
    (hyp_TenantControls (up
      (fun d => (t5 1 d).set R.tenKillAtKtickLo 16 1 1)) .host 5 3, [10]),
    (hyp_TenantControls (up (fun d => (t5 1 d).set R.tenKillAtKtickLo 15 1 1))
      .host 5 3, [11])] = true := by decide +kernel

/-- What each clause of `TenantsAdmittedAndKilled`, part TenantLifeCycle asks for. -/
def hyp_TenantLifeCycle (s : State) (t : BitVec 8) (k n : Nat) (x : HoopCell) : List Bool :=
  let d := s.die
  let st (e : Die) : Nat := e.tenState t.toNat
  let i := t.toNat / 4
  let j := t.toNat % 4
  [decide (s.die.alive = true ∧ (smapGet none d.ten.killAt t.toNat = some k ∧ st d = 1 ∧ d.reached (BitVec.ofNat 48 k) = true)),
   decide (s.die.alive = true ∧ smapGet none d.ten.killAt t.toNat = some k ∧ (¬ (st d = 1 ∧ d.reached (BitVec.ofNat 48 k) = true))),
   decide (s.die.alive = true ∧ smapGet none d.ten.killAt t.toNat = none),
   decide (s.die.alive = true ∧ ¬ (st d = 2 ∧ (d.get R.tenStatLeft i j = 0 ∨ d.killIdle t.toNat = true))),
   decide (s.die.alive = true ∧ (st d = 2 ∧ (d.get R.tenStatLeft i j = 0 ∨ d.killIdle t.toNat = true))),
   decide (s.die.alive = true ∧ (st d = 2 ∧ (d.get R.tenStatLeft i j = 0 ∨ d.killIdle t.toNat = true)) ∧ d.tenGroups t.toNat = [] ∧ (n, x) ∈ d.hoops.cells ∧
      x.owners ≠ [] ∧ x.mgmt = false ∧ x.tid.toNat = t.toNat ∧ d.dlv.ledger = [] ∧ d.dlv.flows = []),
   decide (s.die.alive = true ∧ (¬ (st d = 3 ∧ d.wipeOver t.toNat = true))),
   decide (s.die.alive = true ∧ st d = 3 ∧ d.wipeOver t.toNat = true)]

/-- The hypotheses of every clause of `TenantsAdmittedAndKilled`, part TenantLifeCycle are met. -/
theorem test_hypotheses_TenantLifeCycle : met [
    (hyp_TenantLifeCycle (up (fun d => t5 0 d)) 5 0 7 c5, [2, 3, 6]),
    (hyp_TenantLifeCycle (up (fun d =>
      { (t5 0 d).modPlan 1 (fun p => { p with state := 3, img := some { img0 with tid := 5, depth := 7 } }) with ten := { (t5 0 d).ten with killAt := [(5, some 0)] } }))
      5 0 7 c5, [1]),
    (hyp_TenantLifeCycle (up (fun d =>
      { (t5 1 d).modPlan 1 (fun p => { p with state := 3, img := some { img0 with tid := 5, depth := 7 } }) with ten := { (t5 1 d).ten with killAt := [(5, some 0)] } }))
      5 0 7 c5, [0]),
    (hyp_TenantLifeCycle (up (fun d => t5 2 d)) 5 0 7 c5, [4]),
    (hyp_TenantLifeCycle (up (fun d =>
      { t5 2 d with hoops := { d.hoops with cells := [(7, c5)] } })) 5 0 7 c5, [5]),
    (hyp_TenantLifeCycle (up (fun d => t5 3 d)) 5 0 7 c5, [7])] = true :=
      by decide +kernel

/-- What each clause of `DebugAndFuses` asks for. -/
def hyp_DebugAndFuses (s : State) (_c : Cls) (ok : Bool) (slot : BitVec 2) : List Bool :=
  let d := s.die
  [decide (Serves s .sec 0 ∧ d.bit R.chipStrapTestMode = true),
   decide (Serves s .sec 0 ∧ d.bit R.chipStrapTestMode = false),
   decide (Serves s .sec 0 ∧ d.bit R.chipStrapTestMode = false ∧ ok = false),
   decide (Serves s .sec 0),
   decide (Serves s .sec 0 ∧ d.fuseOpen = true),
   decide (Serves s .sec 0 ∧ d.fuseOpen = false),
   decide (Serves s .sec 0 ∧ d.fuseOpen = true ∧ slot.toNat ≠ d.get R.secBootKeyidx),
   decide (Serves s .sec 0 ∧ slot.toNat = d.get R.secBootKeyidx)]

/-- The hypotheses of every clause of `DebugAndFuses` are met. -/
theorem test_hypotheses_DebugAndFuses : met [
    (hyp_DebugAndFuses (up (fun d => d)) .host true 0, [1, 3, 4, 7]),
    (hyp_DebugAndFuses (up (fun d => d))
      .host true 1, [6]),
    (hyp_DebugAndFuses (up (fun d => d)) .host false 0, [2]),
    (hyp_DebugAndFuses (up (fun d => d.set R.secDbgState 1)) .host
      true 0, [5]),
    (hyp_DebugAndFuses (up (fun d => d.set R.chipStrapTestMode 1)) .host true 0, [0])] = true := by decide +kernel

/-- What each clause of `SpdmResponses` asks for. -/
def hyp_SpdmResponses (s : State) (m sign : Bool) (slot : BitVec 4) (ofs len : BitVec 16) (nonce : List Byte) (op code : BitVec 8) (others : List (BitVec 8 ×
    List Byte)) : List Bool :=
  let d := s.die
  let st := d.spdmState m
  let all := [Instr.getVersion m, .getCapabilities m, .negotiateAlgorithms m, .getDigests m, .getCertificate m slot ofs len, .challenge m slot nonce,
      .getMeasurements m op sign nonce others, .spdmUnsupported m code]
  let bs := d.blocks m others
  [decide (s.die.alive = true ∧ ¬ (d.boot.gnotik = true ∧ (m = true ∨ d.isMaster = true))),
   decide (s.die.alive = true ∧ (d.boot.gnotik = true ∧ (m = true ∨ d.isMaster = true))),
   decide (s.die.alive = true ∧ (d.boot.gnotik = true ∧ (m = true ∨ d.isMaster = true)) ∧ st < 1),
   decide (s.die.alive = true ∧ (d.boot.gnotik = true ∧ (m = true ∨ d.isMaster = true)) ∧ 1 ≤ st),
   decide (s.die.alive = true ∧ (d.boot.gnotik = true ∧ (m = true ∨ d.isMaster = true)) ∧ st < 2),
   decide (s.die.alive = true ∧ (d.boot.gnotik = true ∧ (m = true ∨ d.isMaster = true)) ∧ 2 ≤ st),
   decide (s.die.alive = true ∧ (d.boot.gnotik = true ∧ (m = true ∨ d.isMaster = true)) ∧ st < 3 ∧ ∃ i ∈ all.drop 3, i ≠ .spdmUnsupported m code),
   decide (s.die.alive = true ∧ (d.boot.gnotik = true ∧ (m = true ∨ d.isMaster = true)) ∧ 3 ≤ st),
   decide (s.die.alive = true ∧ (d.boot.gnotik = true ∧ (m = true ∨ d.isMaster = true)) ∧ 3 ≤ st ∧ slot ≠ 0),
   decide (s.die.alive = true ∧ (d.boot.gnotik = true ∧ (m = true ∨ d.isMaster = true)) ∧ 3 ≤ st ∧ slot = 0),
   decide (s.die.alive = true ∧ (d.boot.gnotik = true ∧ (m = true ∨ d.isMaster = true)) ∧ 3 ≤ st ∧ op = 0),
   decide (s.die.alive = true ∧ (d.boot.gnotik = true ∧ (m = true ∨ d.isMaster = true)) ∧ 3 ≤ st ∧ op ≠ 0 ∧ op ≠ 0xFF ∧ bs.all (fun x => x.1 != op.toNat) = true),
   decide (s.die.alive = true ∧ (d.boot.gnotik = true ∧ (m = true ∨ d.isMaster = true)) ∧ 3 ≤ st ∧ op = 0xFF ∧ sign = false)]

/-- The hypotheses of every clause of `SpdmResponses` are met. -/
theorem test_hypotheses_SpdmResponses : met [
    (hyp_SpdmResponses (up (fun d => spst 0 (rr d))) true false 0 3 9 [1, 2] 0 0xE5 [], [1, 2, 4, 6]),
   
      (hyp_SpdmResponses (up (fun d => { spst 0 (rr d) with boot := d.boot })) true false 1 3 9 [1, 2] 5 0xE5 [], [0]),
    (hyp_SpdmResponses (up (fun d =>
      spst 1 (rr d))) true false 0 3 9 [1, 2] 0 0xE5 [], [3]),
    (hyp_SpdmResponses (up (fun d => spst 2 (rr d))) true false 0 3 9 [1, 2] 0 0xE5 [], [5]),
 
      (hyp_SpdmResponses (up (fun d => spst 3 (rr d))) true false 0 3 9 [1, 2] 0 0xE5 [], [7, 9, 10]),
    (hyp_SpdmResponses (up (fun d => (spst 3 (rr
      d)).set R.cascStatMaster 2)) true true 1 3 9 [1, 2] 5 0xE5 [], [8]),
    (hyp_SpdmResponses (up (fun d => spst 3 (rr d))) true true 1 3 9 [1, 2] 0x90
      0xE5 [], [11]),
    (hyp_SpdmResponses (up (fun d => spst 3 (rr d))) true false 0 3 9 [1, 2] 0xFF 0xE5 [], [12])] = true := by decide +kernel

/-- What each clause of `HostLinkEvents` asks for. -/
def hyp_HostLinkEvents (s : State) (speed : BitVec 3) (width : BitVec 5) (_cxl _flr : Bool) (_i : BitVec 6) (_q : Fin 4) (_a : Nat) : List Bool :=
  let d := s.die
  [decide (s.die.alive = true ∧ ¬ (speed ≠ 0 ∧ speed ≠ 7 ∧ width.toNat ∈ [1, 2, 4, 8, 16])),
   decide (s.die.alive = true ∧ (speed ≠ 0 ∧ speed ≠ 7 ∧ width.toNat ∈ [1, 2, 4, 8, 16])),
   decide (s.die.alive = true ∧ d.get R.hostLinkSpeed = 0),
   decide (s.die.alive = true ∧ d.get R.hostLinkSpeed ≠ 0),
   decide (s.die.alive = true)]

/-- The hypotheses of every clause of `HostLinkEvents` are met. -/
theorem test_hypotheses_HostLinkEvents : met [
    (hyp_HostLinkEvents (up (fun d => mem1 d)) 0 1 true true 3 1 0x40, [0, 2, 4]),
    (hyp_HostLinkEvents (up
      (fun d => (mem1 d).set R.hostLinkSpeed 5)) 0 1 true true 3 1 0x40, [3]),
    (hyp_HostLinkEvents (up (fun d => mem1 d)) 4 1 true true 3 1 0x40, [1])] =
      true := by decide +kernel

/-- What each clause of `VectorsAndPowerStates` asks for. -/
def hyp_VectorsAndPowerStates (s : State) (v : BitVec 8) (on : Bool) (st : BitVec 2) : List Bool :=
  let d := s.die
  let n := v.toNat
  let gap := smapGet none d.msix.gap n
  [decide (s.die.alive = true ∧ gap = none),
   decide (s.die.alive = true ∧ gap = some false),
   decide (s.die.alive = true ∧ gap = some true ∧ d.isMaster = true ∧ d.inD0 = true ∧ d.msix.enabled = true ∧ smapGet false d.msix.unmasked n = true ∧ smapWf
      none d.msix.gap = true),
   decide (s.die.alive = true ∧ gap = some true ∧ d.isMaster = true ∧ (d.inD0 = false ∨ d.msix.enabled = false ∨ smapGet false d.msix.unmasked n = false)),
   decide (s.die.alive = true ∧ (¬ ((smapGet false d.msix.pba n = true) ∧ on = true ∧ d.msix.enabled = true ∧ d.inD0 = true))),
   decide (s.die.alive = true ∧ (smapGet false d.msix.pba n = true) ∧ on = true ∧ d.msix.enabled = true ∧ d.inD0 = true ∧ d.isMaster = true ∧ gap = none ∧ smapWf
      false d.msix.pba = true),
   decide (s.die.alive = true ∧ (on = false ∨ d.inD0 = false ∨ d.msix.pba = [])),
   decide (s.die.alive = true),
   decide (s.die.alive = true ∧ (st = 1 ∨ st = 2)),
   decide (s.die.alive = true ∧ d.inD0 = true),
   decide (s.die.alive = true ∧ d.inD0 = false)]

/-- The hypotheses of every clause of `VectorsAndPowerStates` are met. -/
theorem test_hypotheses_VectorsAndPowerStates : met [
    (hyp_VectorsAndPowerStates (up (ms true true true none 0)) 3 true 0, [0, 5, 7, 9]),
   
      (hyp_VectorsAndPowerStates (up (ms true true true none 0)) 3 false 3, [4, 6]),
    (hyp_VectorsAndPowerStates (up (ms true true true none 0)) 3 true 1,
      [8]),
    (hyp_VectorsAndPowerStates (up (ms true true true none 3)) 3 true 0, [10]),
    (hyp_VectorsAndPowerStates (up (ms true true true (some true)
      0)) 3 true 0, [2]),
    (hyp_VectorsAndPowerStates (up (ms true true true (some true) 3)) 3 true 0, [3]),
    (hyp_VectorsAndPowerStates (up (ms true
      true true (some false) 0)) 3 true 0, [1])] = true := by decide +kernel

/-- What each clause of `CaveWindows` asks for. -/
def hyp_CaveWindows (s : State) (rid : BitVec 16) (ofs : BitVec 34) (_wr : Bool) (bytes : List (Option Byte)) (_b : Byte) (a _x : Nat) : List Bool :=
  let d := s.die
  let n := ofs.toNat / 2 ^ 30 % 16
  let mg := d.bit R.hostCwinMgmt 0 n
  let t := d.get R.hostCwinTid 0 n
  let at_ (len : Nat) := d.caveAddr (if mg then .mgmt else .tenant t) (d.get R.hostCwinGib 0 n * 2 ^ 30 + ofs.toNat % 2 ^ 30) len
  [decide (s.die.alive = true ∧ ¬ (d.inD0 = true ∧ d.isMaster = true)),
   decide (s.die.alive = true ∧ (d.inD0 = true ∧ d.isMaster = true) ∧ ¬ (d.ridAllowed rid.toNat = true)),
   decide (s.die.alive = true ∧ (d.inD0 = true ∧ d.isMaster = true) ∧ (d.ridAllowed rid.toNat = true) ∧ d.bit R.hostCwinValid 0 n = false),
   decide (s.die.alive = true ∧ ((d.inD0 = true ∧ d.isMaster = true) ∧ (d.ridAllowed rid.toNat = true) ∧ d.bit R.hostCwinValid 0 n = true ∧ d.get R.hostCwinDie 0
      n = d.pos ∧ d.underReset .cave 0 = false) ∧ at_ bytes.length = none),
   decide (s.die.alive = true ∧ ((d.inD0 = true ∧ d.isMaster = true) ∧ (d.ridAllowed rid.toNat = true) ∧ d.bit R.hostCwinValid 0 n = true ∧ d.get R.hostCwinDie 0
      n = d.pos ∧ d.underReset .cave 0 = false) ∧ at_ bytes.length = some a ∧ (mg = false ∧ d.bit R.tenCtlHostCave (t / 4) (t % 4) = false)),
   decide (s.die.alive = true ∧ ((d.inD0 = true ∧ d.isMaster = true) ∧ (d.ridAllowed rid.toNat = true) ∧ d.bit R.hostCwinValid 0 n = true ∧ d.get R.hostCwinDie 0
      n = d.pos ∧ d.underReset .cave 0 = false) ∧ at_ bytes.length = some a ∧ ¬ (mg = false ∧ d.bit R.tenCtlHostCave (t / 4) (t % 4) = false) ∧ d.caveFirstBad
      a bytes.length = none),
   decide (s.die.alive = true ∧ ((d.inD0 = true ∧ d.isMaster = true) ∧ (d.ridAllowed rid.toNat = true) ∧ d.bit R.hostCwinValid 0 n = true ∧ d.get R.hostCwinDie 0
      n = d.pos ∧ d.underReset .cave 0 = false) ∧ at_ 1 = some a ∧ ¬ (mg = false ∧ d.bit R.tenCtlHostCave (t / 4) (t % 4) = false) ∧ d.caveBad a = false ∧
      (d.caveOwner a).isSome = true)]

/-- The hypotheses of every clause of `CaveWindows` are met. -/
theorem test_hypotheses_CaveWindows : met [
    (hyp_CaveWindows (up (fun d => win 0 0 d)) 7 (2 ^ 30 + 5) true [none, some 3] 0x77 (4 * 2 ^ 30 + 5) 6, [2]),
 
      (hyp_CaveWindows (up (fun d => win 1 0 d)) 7 (2 ^ 30 + 5) true [none, some 3] 0x77 (4 * 2 ^ 30 + 5) 6, [4]),
    (hyp_CaveWindows (up (fun d => (win 1 0
      d).set R.tenCtlHostCave 1 1 1)) 7 (2 ^ 30 + 5) true [none, some 3] 0x77 (4 * 2 ^ 30 + 5) 6, [5, 6]),
    (hyp_CaveWindows (up (fun d => win 0 0 d)) 8 (2
      ^ 30 + 5) true [none, some 3] 0x77 (4 * 2 ^ 30 + 5) 6, [1]),
    (hyp_CaveWindows (up (fun d => (win 1 1 d).set R.cascStatMaster 2)) 7 (2 ^ 30 + 5) true
      [none, some 3] 0x77 5 6, [0]),
    (hyp_CaveWindows (up (fun d => (win 1 0 d).set R.hostCwinGib 1 0 1)) 7 (2 ^ 31 - 1) true [none, some 3] 0x77 5 6,
      [3])] = true := by decide +kernel

/-- What each clause of `DmaCommands` asks for. -/
def hyp_DmaCommands (s : State) (_c : Cls) (q : BitVec 2) (x : BitVec 9) (data : List Byte) (err : Bool) (m : BitVec 31) (j : DmaJob) (js : List DmaJob) (a st
    : Nat) : List Bool :=
  let d := s.die
  let n := q.toNat
  let h := d.get R.dmaQSqHead 0 n
  let t := d.get R.dmaQSqTail 0 n
  let ring (p r : Nat) : Nat := (p + 512 - r) % 512
  let ch := d.get R.dmaQCqHead 0 n
  let ct := d.get R.dmaQCqTail 0 n
  let job (op : Nat) := d.dmaJob n op
  let k := min (data.length / 64 * 64) (j.len - j.moved)
  let at_ (len : Nat) := d.caveAddr (Die.jobSpace j) (j.cofs + j.moved) len
  let l := min (m.toNat / 64 * 64) (j.len - j.moved)
  let Q := d.dmaQ n
  [decide (s.die.alive = true ∧ d.underReset .dma 0 = false ∧ ring x.toNat h ≤ 256 ∧ ring t h ≤ ring x.toNat h),
   decide (s.die.alive = true ∧ d.underReset .dma 0 = false ∧ (256 < ring x.toNat h ∨ ring x.toNat h < ring t h)),
   decide (s.die.alive = true ∧ d.underReset .dma 0 = false ∧ ring x.toNat ch ≤ ring ct ch),
   decide (s.die.alive = true ∧ d.underReset .dma 0 = false ∧ ring ct ch < ring x.toNat ch),
   decide (s.die.alive = true ∧ d.underReset .dma 0 = false),
   decide (s.die.alive = true ∧ job 1 = none),
   decide (s.die.alive = true ∧ job 2 = none),
   decide (s.die.alive = true ∧ job 4 = none),
   decide (s.die.alive = true ∧ job 1 = some j ∧ at_ k = none),
   decide (s.die.alive = true ∧ job 2 = some j ∧ at_ l = none),
   decide (s.die.alive = true ∧ job 1 = some j ∧ at_ k = some a ∧ err = false),
   decide (s.die.alive = true ∧ job 1 = some j ∧ at_ k = some a ∧ err = true ∧ j.moved + k < j.len),
   decide (s.die.alive = true ∧ job 2 = some j ∧ at_ l = some a ∧ d.caveFirstBad a l = none),
   decide (s.die.alive = true ∧ job 4 = some j),
   decide (s.die.alive = true ∧ Q.jobs = j :: js ∧ j.op = 3 ∧ j.status = none),
   decide (s.die.alive = true ∧ (Q.jobs = [] ∨ (Q.jobs = j :: js ∧ (j.op ≠ 3 ∨ j.status.isSome = true)))),
   decide (s.die.alive = true ∧ (Q.jobs = [] ∨ (Q.jobs = j :: js ∧ j.status = none) ∨ (Q.jobs = j :: js ∧ Q.heldRec.isSome = true))),
   decide (s.die.alive = true ∧ Q.jobs = j :: js ∧ j.status = some st ∧ st < 16 ∧ Q.heldRec = none)]

/-- The hypotheses of every clause of `DmaCommands` are met. -/
theorem test_hypotheses_DmaCommands : met [
    (hyp_DmaCommands (up mem1) .host 1 0 [] false 0 (jb 1 64 0 none) [] 0 0, [0, 2, 4, 5, 6, 7, 15, 16]),
   
      (hyp_DmaCommands (up mem1) .host 1 1 [] false 0 (jb 1 64 0 none) [] 0 0, [3]),
    (hyp_DmaCommands (up mem1) .host 1 257 [] false 0 (jb 1 64 0 none) []
      0 0, [1]),
    (hyp_DmaCommands (up (dq [(jb 1 64 0 none)])) .host 1 0 (List.replicate 0 7) true 0 (jb 1 64 0 none) [] (0x100000 + 0) 0, [11]),
   
      (hyp_DmaCommands (up (dq [(jb 1 64 0 none)])) .host 1 0 (List.replicate 0 7) false 0 (jb 1 64 0 none) [] (0x100000 + 0) 0, [10]),
    (hyp_DmaCommands
      (up (dq [(jb 2 64 0 none)])) .host 1 0 [] false 0 (jb 2 64 0 none) [] (0x100000 + 0) 0, [12]),
    (hyp_DmaCommands (up (dq [(jb 1 64 64 (some 0)), jb 1
      64 0 none] none)) .host 1 0 [] false 0 (jb 1 64 64 (some 0)) [jb 1 64 0 none] 0x100000 0, [17]),
    (hyp_DmaCommands (up (dq [(jb 3 64 64 none), jb 1
      64 0 none] none)) .host 1 0 [] false 0 (jb 3 64 64 none) [jb 1 64 0 none] 0x100000 0, [14]),
    (hyp_DmaCommands (up (dq [(jb 4 64 64 none), jb 1 64 0
      none] none)) .host 1 0 [] false 0 (jb 4 64 64 none) [jb 1 64 0 none] 0x100000 0, [13]),
    (hyp_DmaCommands (up (dq [(jb 1 64 (2 ^ 40) none)])) .host 1
      0 [] false 0 (jb 1 64 (2 ^ 40) none) [] 0 0, [8]),
    (hyp_DmaCommands (up (dq [(jb 2 (2 ^ 41) (2 ^ 40) none)])) .host 1 0 [] false 64 (jb 2 (2 ^ 41)
      (2 ^ 40) none) [] 0 0, [9])] = true := by decide +kernel

/-- What each clause of `MailboxCommands` asks for. -/
def hyp_MailboxCommands (s : State) (_c : Cls) (i : BitVec 6) (_far : Option (BitVec 4 × List Byte)) (_fst : Option (BitVec 4)) : List Bool :=
  [(let d := s.die; decide (s.die.alive = true ∧ d.underReset .mbox 0 = false ∧ d.isMaster = false)),
   (let d := s.die; let n := i.toNat; let a := mboxAddr n; decide (s.die.alive = true ∧ d.underReset .mbox 0 = false ∧ d.isMaster = true ∧ d.slotLock a = true)),
   (let d := s.die; let n := i.toNat; let a := mboxAddr n; decide (s.die.alive = true ∧ d.underReset .mbox 0 = false ∧ d.isMaster = true ∧ d.slotLock a = false)),
   (let d := s.die; let n := i.toNat; let S := d.mboxSlot n; let stall := if n < 32 then R.mboxStallLo else R.mboxStallHi; let bit (v : Nat) : Bool := v / 2 ^ (n
      % 32) % 2 == 1; decide (s.die.alive = true ∧ ¬ (d.isMaster = true ∧ d.host.order.contains n = true ∧ d.mboxShown n = false ∧ 16 ≤ S.wait ∧ bit (d.get
      stall) = false))),
   (let d := s.die; let n := i.toNat; let S := d.mboxSlot n; let stall := if n < 32 then R.mboxStallLo else R.mboxStallHi; let bit (v : Nat) : Bool := v / 2 ^ (n
      % 32) % 2 == 1; decide (s.die.alive = true ∧ (d.isMaster = true ∧ d.host.order.contains n = true ∧ d.mboxShown n = false ∧ 16 ≤ S.wait ∧ bit (d.get
      stall) = false))),
   (let d := s.die; let n := i.toNat; let a := mboxAddr n; let bs := d.caveRead a 64; let op := slotField bs 8 8; decide (s.die.alive = true ∧ (¬ (d.mboxReady n
      = true) ∨ (op ≠ 0 ∧ op < 8)))),
   (let d := s.die; let n := i.toNat; let a := mboxAddr n; let bs := d.caveRead a 64; let op := slotField bs 8 8; decide (s.die.alive = true ∧ (d.mboxReady n =
      true) ∧ (d.caveOwner a).isSome = true ∧ op = 0 ∧ Die.mboxBad bs (2 ^ 32 - 1) = false)),
   (let d := s.die; let n := i.toNat; let a := mboxAddr n; let bs := d.caveRead a 64; let op := slotField bs 8 8; decide (s.die.alive = true ∧ (d.mboxReady n =
      true) ∧ (d.caveOwner a).isSome = true ∧ ((op = 0 ∧ Die.mboxBad bs (2 ^ 32 - 1) = true) ∨ 8 ≤ op))),
   (let d := s.die; let n := i.toNat; let a := mboxAddr n; let bs := d.caveRead a 64; let op := slotField bs 8 8; let code : Nat := 1; decide (s.die.alive = true
      ∧ (¬ (d.mboxReady n = true) ∨ op ≠ code))),
   (let d := s.die; let n := i.toNat; let a := mboxAddr n; let bs := d.caveRead a 64; let op := slotField bs 8 8; let code : Nat := 1; let mask : Nat := 0xF;
      decide (s.die.alive = true ∧ (d.mboxReady n = true) ∧ op = code ∧ Die.mboxBad bs mask = true ∧ (d.caveOwner a).isSome = true)),
   (let d := s.die; let n := i.toNat; let a := mboxAddr n; let bs := d.caveRead a 64; let op := slotField bs 8 8; let code : Nat := 1; let mask : Nat := 0xF;
      decide (s.die.alive = true ∧ (d.mboxReady n = true) ∧ op = code ∧ Die.mboxBad bs mask = false)),
   (let d := s.die; let n := i.toNat; let a := mboxAddr n; let bs := d.caveRead a 64; let op := slotField bs 8 8; let code : Nat := 2; decide (s.die.alive = true
      ∧ (¬ (d.mboxReady n = true) ∨ op ≠ code))),
   (let d := s.die; let n := i.toNat; let a := mboxAddr n; let bs := d.caveRead a 64; let op := slotField bs 8 8; let code : Nat := 2; let mask : Nat := 0xF;
      decide (s.die.alive = true ∧ (d.mboxReady n = true) ∧ op = code ∧ Die.mboxBad bs mask = true ∧ (d.caveOwner a).isSome = true)),
   (let d := s.die; let n := i.toNat; let a := mboxAddr n; let bs := d.caveRead a 64; let op := slotField bs 8 8; let code : Nat := 2; let mask : Nat := 0xF;
      decide (s.die.alive = true ∧ (d.mboxReady n = true) ∧ op = code ∧ Die.mboxBad bs mask = false)),
   (let d := s.die; let n := i.toNat; let a := mboxAddr n; let bs := d.caveRead a 64; let op := slotField bs 8 8; let code : Nat := 3; decide (s.die.alive = true
      ∧ (¬ (d.mboxReady n = true) ∨ op ≠ code))),
   (let d := s.die; let n := i.toNat; let a := mboxAddr n; let bs := d.caveRead a 64; let op := slotField bs 8 8; let code : Nat := 3; let mask : Nat :=
      0x3FFF03; decide (s.die.alive = true ∧ (d.mboxReady n = true) ∧ op = code ∧ Die.mboxBad bs mask = true ∧ (d.caveOwner a).isSome = true)),
   (let d := s.die; let n := i.toNat; let a := mboxAddr n; let bs := d.caveRead a 64; let op := slotField bs 8 8; let code : Nat := 3; let mask : Nat :=
      0x3FFF03; decide (s.die.alive = true ∧ (d.mboxReady n = true) ∧ op = code ∧ Die.mboxBad bs mask = false)),
   (let d := s.die; let n := i.toNat; let a := mboxAddr n; let bs := d.caveRead a 64; let op := slotField bs 8 8; let code : Nat := 4; decide (s.die.alive = true
      ∧ (¬ (d.mboxReady n = true) ∨ op ≠ code))),
   (let d := s.die; let n := i.toNat; let a := mboxAddr n; let bs := d.caveRead a 64; let op := slotField bs 8 8; let code : Nat := 4; let mask : Nat :=
      0x3FFF03; decide (s.die.alive = true ∧ (d.mboxReady n = true) ∧ op = code ∧ Die.mboxBad bs mask = true ∧ (d.caveOwner a).isSome = true)),
   (let d := s.die; let n := i.toNat; let a := mboxAddr n; let bs := d.caveRead a 64; let op := slotField bs 8 8; let code : Nat := 4; let mask : Nat :=
      0x3FFF03; decide (s.die.alive = true ∧ (d.mboxReady n = true) ∧ op = code ∧ Die.mboxBad bs mask = false)),
   (let d := s.die; let n := i.toNat; let a := mboxAddr n; let bs := d.caveRead a 64; let op := slotField bs 8 8; let code : Nat := 6; decide (s.die.alive = true
      ∧ (¬ (d.mboxReady n = true) ∨ op ≠ code))),
   (let d := s.die; let n := i.toNat; let a := mboxAddr n; let bs := d.caveRead a 64; let op := slotField bs 8 8; let code : Nat := 6; let mask : Nat :=
      0x1FF0FFF; decide (s.die.alive = true ∧ (d.mboxReady n = true) ∧ op = code ∧ Die.mboxBad bs mask = true ∧ (d.caveOwner a).isSome = true)),
   (let d := s.die; let n := i.toNat; let a := mboxAddr n; let bs := d.caveRead a 64; let op := slotField bs 8 8; let code : Nat := 6; let mask : Nat :=
      0x1FF0FFF; decide (s.die.alive = true ∧ (d.mboxReady n = true) ∧ op = code ∧ Die.mboxBad bs mask = false)),
   (let d := s.die; let n := i.toNat; let a := mboxAddr n; let bs := d.caveRead a 64; let op := slotField bs 8 8; let code : Nat := 7; decide (s.die.alive = true
      ∧ (¬ (d.mboxReady n = true) ∨ op ≠ code))),
   (let d := s.die; let n := i.toNat; let a := mboxAddr n; let bs := d.caveRead a 64; let op := slotField bs 8 8; let code : Nat := 7; let mask : Nat :=
      0x1FF0FFF; decide (s.die.alive = true ∧ (d.mboxReady n = true) ∧ op = code ∧ Die.mboxBad bs mask = true ∧ (d.caveOwner a).isSome = true)),
   (let d := s.die; let n := i.toNat; let a := mboxAddr n; let bs := d.caveRead a 64; let op := slotField bs 8 8; let code : Nat := 7; let mask : Nat :=
      0x1FF0FFF; decide (s.die.alive = true ∧ (d.mboxReady n = true) ∧ op = code ∧ Die.mboxBad bs mask = false)),
   (let d := s.die; let n := i.toNat; decide (s.die.alive = true ∧ d.host.order.head? ≠ some n)),
   (let d := s.die; let n := i.toNat; let a := mboxAddr n; let bs := d.caveRead a 64; let op := slotField bs 8 8; decide (s.die.alive = true ∧ d.host.order.head?
      = some n ∧ (¬ (d.mboxReady n = true) ∨ op ≠ 5))),
   (let d := s.die; let n := i.toNat; let a := mboxAddr n; let bs := d.caveRead a 64; let op := slotField bs 8 8; decide (s.die.alive = true ∧ d.host.order.head?
      = some n ∧ (d.mboxReady n = true) ∧ op = 5 ∧ (d.caveOwner a).isSome = true))]

/-- The hypotheses of every clause of `MailboxCommands` are met. -/
theorem test_hypotheses_MailboxCommands : met [
    (hyp_MailboxCommands (up (slot 0 0 0)) .host 3 (some (0, [1, 2, 3, 4])) (some 3), [2, 4, 5, 8, 11, 14, 17,
      20, 23, 27]),
    (hyp_MailboxCommands (up (slot 0 1 0)) .host 3 (some (0, [1, 2, 3, 4])) (some 3), [3]),
    (hyp_MailboxCommands (up (slot 0 2 0))
      .host 3 (some (0, [1, 2, 3, 4])) (some 3), [1]),
    (hyp_MailboxCommands (up (slot 0 3 0)) .host 3 (some (0, [1, 2, 3, 4])) (some 3), [6]),
   
      (hyp_MailboxCommands (up (slot 1 3 0)) .host 3 (some (0, [1, 2, 3, 4])) (some 3), [10]),
    (hyp_MailboxCommands (up (slot 2 3 0)) .host 3 (some (0,
      [1, 2, 3, 4])) (some 3), [13]),
    (hyp_MailboxCommands (up (slot 3 3 0)) .host 3 (some (0, [1, 2, 3, 4])) (some 3), [16]),
    (hyp_MailboxCommands
      (up (slot 4 3 0)) .host 3 (some (0, [1, 2, 3, 4])) (some 3), [19]),
    (hyp_MailboxCommands (up (slot 5 3 0)) .host 3 (some (0, [1, 2, 3, 4])) (some
      3), [28]),
    (hyp_MailboxCommands (up (slot 6 3 0)) .host 3 (some (0, [1, 2, 3, 4])) (some 3), [22]),
    (hyp_MailboxCommands (up (slot 7 3 0)) .host
      3 (some (0, [1, 2, 3, 4])) (some 3), [25]),
    (hyp_MailboxCommands (up (slot 8 3 0)) .host 3 (some (0, [1, 2, 3, 4])) (some 3), [7])] = true := by
      decide +kernel
theorem test_hypotheses_MailboxCommands_2 : met [
    (hyp_MailboxCommands (up id) .host 3 (some (0, [1, 2, 3, 4])) (some 3), [26]),
    (hyp_MailboxCommands
      (up (fun d => (mem1 d).set R.cascStatMaster 2)) .host 3 none none, [0]),
    (hyp_MailboxCommands (up (slot 1 11)) .host 3 (some (0, [1, 2, 3, 4]))
      (some 3), [9]),
    (hyp_MailboxCommands (up (slot 2 11)) .host 3 (some (0, [1, 2, 3, 4])) (some 3), [12]),
    (hyp_MailboxCommands (up (slot 3 11))
      .host 3 (some (0, [1, 2, 3, 4])) (some 3), [15]),
    (hyp_MailboxCommands (up (slot 4 11)) .host 3 (some (0, [1, 2, 3, 4])) (some 3), [18]),
   
      (hyp_MailboxCommands (up (slot 6 11)) .host 3 (some (0, [1, 2, 3, 4])) (some 3), [21]),
    (hyp_MailboxCommands (up (slot 7 11)) .host 3 (some (0, [1,
      2, 3, 4])) (some 3), [24])] = true := by decide +kernel

/-- What each clause of `SidebandAndFlash` asks for. -/
def hyp_SidebandAndFlash (s : State) (_c : Cls) (j : SmbJob) (_r : List Byte) (_byte : BitVec 8) (_bit_ : BitVec 3) (_ack err : Bool) (code a : Nat) (_o : Fin
    256) (_k : Fin 64) : List Bool :=
  let d := s.die
  let src := d.bit R.chipStrapBootSrc
  [decide (s.die.alive = true ∧ d.jobAllowed j = false),
   decide (s.die.alive = true ∧ d.jobAllowed j = true),
   decide (s.die.alive = true),
   decide (s.die.alive = true ∧ d.avsOn = false),
   decide (s.die.alive = true ∧ d.avsOn = true),
   decide (s.die.alive = true ∧ d.underReset .smb 0 = false ∧ code ∈ [1, 2, 3] ∧ ((fun (n : Nat) => d.bit R.smbFlBusy = false ∧ ¬ (src = true ∧ n = 1) ∧ ¬
      (d.slotRuns = true ∧ d.flashAt n / 0x02000000 = d.get R.secBootSlot))) code),
   decide (s.die.alive = true ∧ d.underReset .smb 0 = false ∧ code ∈ [1, 2, 3] ∧ ¬ ((fun (n : Nat) => d.bit R.smbFlBusy = false ∧ ¬ (src = true ∧ n = 1) ∧ ¬
      (d.slotRuns = true ∧ d.flashAt n / 0x02000000 = d.get R.secBootSlot))) code),
   decide (s.die.alive = true ∧ d.smb.cmd = none),
   decide (s.die.alive = true ∧ d.smb.cmd = some (1, a)),
   decide (s.die.alive = true ∧ d.smb.cmd = some (2, a) ∧ src = false ∧ err = false),
   decide (s.die.alive = true ∧ d.smb.cmd = some (2, a) ∧ src = true),
   decide (s.die.alive = true ∧ d.smb.cmd = some (3, a) ∧ err = false)]

/-- The hypotheses of every clause of `SidebandAndFlash` are met. -/
theorem test_hypotheses_SidebandAndFlash : met [
    (hyp_SidebandAndFlash (up (fun d => d)) .host (.eeprom 5 9) [1, 2] 3 2 true false 1 0 0 0, [0, 2, 3, 6,
      7]),
    (hyp_SidebandAndFlash (up (fun d => gn d)) .host (.eeprom 5 9) [1, 2] 3 2 true false 1 0 0 0, [1, 4]),
    (hyp_SidebandAndFlash (up (fun d =>
      (((gn d).set R.smbFlAddr 0x02000300).set R.chipStrapBootSrc 0).set R.smbFlBusy 0)) .host .sensors [1, 2] 3 2 true true 1 0x02000300 0 0, [5]),
   
      (hyp_SidebandAndFlash (up (fun d => flc 1 (gn d))) .host .sensors [1, 2] 3 2 true true 1 0x10000 0 1, [8]),
    (hyp_SidebandAndFlash (up (fun d => flc
      2 (gn d))) .host .sensors [1, 2] 3 2 true false 2 0x10000 0 1, [9]),
    (hyp_SidebandAndFlash (up (fun d => flc 3 (gn d))) .host .sensors [1, 2] 3 2
      true false 3 0x10000 0 1, [11]),
    (hyp_SidebandAndFlash (up (fun d => (flc 2 (gn d)).set R.chipStrapBootSrc 1)) .host .sensors [1, 2] 3 2 true false
      2 0x10000 0 1, [10])] = true := by decide +kernel

/-- What each clause of `PinsAndTestPort` asks for. -/
def hyp_PinsAndTestPort (s : State) (_c : Cls) (ir : JtagIr) (_trst level : Bool) (_reg : BitVec 1) (_w : Word) (n : BitVec 4) : List Bool :=
  let d := s.die
  let k := n.toNat
  let was := d.get R.gpioIn / 2 ^ k % 2 == 1
  [decide (¬ (d.alive = true ∧ (ir = .extest ∨ ir = .extestPulse ∨ ir = .extestTrain))),
   decide ((d.alive = true ∧ (ir = .extest ∨ ir = .extestPulse ∨ ir = .extestTrain))),
   decide (d.alive = true ∧ d.underReset .gpio 0 = false),
   decide (d.alive = true ∧ was = level),
   decide (d.alive = true ∧ was ≠ level),
   decide (d.alive = true ∧ ((d.pinOf 3).isNone = true ∨ d.pwr.therm = level)),
   decide (d.alive = true ∧ (d.pinOf 3).isSome = true ∧ d.pwr.therm ≠ level)]

/-- The hypotheses of every clause of `PinsAndTestPort` are met. -/
theorem test_hypotheses_PinsAndTestPort : met [
    (hyp_PinsAndTestPort (up (fun d => d)) .host .bypass true true 1 0x87654321 3, [0, 2, 4, 5]),
   
      (hyp_PinsAndTestPort (up (fun d => ((d.set R.gpioFunc 1 0 0 3).set R.gpioEdge 1 0 3).set R.gpioIn 8)) .host .bypass true true 1 0x87654321 3, [3]),
   
      (hyp_PinsAndTestPort (up (fun d => (d.set R.gpioFunc 3 0 0 3))) .host .bypass true true 1 0x87654321 3, [6]),
    (hyp_PinsAndTestPort (up (fun d => d))
      .host .extest true true 1 0x87654321 3, [1])] = true := by decide +kernel

/-- What each clause of `BootAndResets` asks for. -/
def hyp_BootAndResets (s : State) (_c : Cls) (_straps : BitVec 7) (b : BootIn) (_ok : Bool) (t : BitVec 2) (lk cv : BitVec 4) (p : BitVec 6) (v : BitVec 5) :
    List Bool :=
  let d := s.die
  let B := d.boot
  [decide (B.held = true),
   decide (B.held = false),
   decide ((B.held = true ∨ B.stage = 0)),
   decide (B.held = false ∧ B.stage ≠ 0),
   decide (d.alive = true ∧ ¬ ((fun (u : UnitId) => (d.rundown u).reset = true ∧ (d.rundown u).phase = .idle)) .die),
   decide (d.alive = true ∧ ¬ ((fun (u : UnitId) => (d.rundown u).reset = true ∧ (d.rundown u).phase = .idle)) (.port p)),
   decide (d.alive = true ∧ ¬ ((fun (u : UnitId) => (d.rundown u).reset = true ∧ (d.rundown u).phase = .idle)) (.vat v)),
   decide (d.alive = true ∧ ((fun (u : UnitId) => (d.rundown u).reset = true ∧ (d.rundown u).phase = .idle)) .die),
   decide (d.alive = true ∧ ((fun (u : UnitId) => (d.rundown u).reset = true ∧ (d.rundown u).phase = .idle)) (.port p)),
   decide (d.alive = true ∧ ((fun (u : UnitId) => (d.rundown u).reset = true ∧ (d.rundown u).phase = .idle)) (.vat v)),
   decide (d.alive = true),
   decide (d.alive = true ∧ d.underReset .errlog 0 = false),
   decide (d.alive = true ∧ B.stage ≠ 0 ∧ ¬ (B.stage = 2 ∧ d.bit R.chipStrapBootSrc = true) ∧ ¬ (B.stage = 3 ∧ B.gnotik = true)),
   decide (d.alive = true ∧ B.stage = 0 ∧ d.bit R.chipStrapTestMode = true),
   decide (d.alive = true ∧ B.stage = 0 ∧ d.bit R.chipStrapTestMode = false ∧ d.bit R.chipStrapBootSrc = false ∧ b.readBad = 3),
   decide (d.alive = true ∧ (B.stage = 3 ∧ B.gnotik = true) ∧ b.header = none),
   decide (d.alive = true ∧ (B.stage ≠ 5 ∨ t = 3)),
   decide (d.alive = true ∧ B.stage = 5 ∧ t ≠ 3 ∧ d.logFull = false),
   decide (d.alive = true ∧ ¬ (B.hostReady = false ∧ B.stage = 7 ∧ d.get R.cascStatState = 1 ∧ d.allPresent lk = true ∧ d.allPresent cv = true ∧ d.get
      R.tickStatState = 1 ∧ d.caveReady = true)),
   decide (d.alive = true ∧ (B.hostReady = false ∧ B.stage = 7 ∧ d.get R.cascStatState = 1 ∧ d.allPresent lk = true ∧ d.allPresent cv = true ∧ d.get
      R.tickStatState = 1 ∧ d.caveReady = true))]

/-- The hypotheses of every clause of `BootAndResets` are met. -/
theorem test_hypotheses_BootAndResets : met [
    (hyp_BootAndResets (up (fun d => bs 0 true true d)) .host 0x55 (b0 3) true 0 0 0 3 4, [0, 2]),
   
      (hyp_BootAndResets (up (fun d => bs 0 false true d)) .host 0x55 (b0 3) true 0 0 0 3 4, [1, 4, 5, 6, 10, 14, 16, 18]),
    (hyp_BootAndResets (up (fun d
      => bs 1 false true d)) .host 0x55 (b0 3) true 1 0 0 3 4, [3, 11, 12]),
    (hyp_BootAndResets (up (fun d => bs 3 false true d)) .host 0x55 (b0 3) true 3
      0 0 3 4, [15]),
    (hyp_BootAndResets (up (fun d => bs 5 false true d)) .host 0x55 (b0 3) true 1 0 0 3 4, [17]),
    (hyp_BootAndResets (up (fun d =>
      (rdy (bs 7 false true d)).set R.cascStatMaster 0)) .host 0x55 (b0 3) true 1 1 1 3 4, [19]),
    (hyp_BootAndResets (up (fun d => ((d.setRundown .die
      { RunDown.none with phase := .idle, reset := true }).setRundown (.port 3) { RunDown.none with phase := .idle, reset := true }).setRundown (.vat 4)
      { RunDown.none with phase := .idle, reset := true })) .host 0x55 (b0 3) true 1 0 0 3 4, [7, 8, 9]),
    (hyp_BootAndResets (up (fun d => (bs 0 false
      false d).set R.chipStrapTestMode 1)) .host 0x55 (b0 3) true 0 0 0 3 4, [13])] = true := by decide +kernel

/-- What each clause of `PowerCommands` asks for. -/
def hyp_PowerCommands (s : State) (_c : Cls) (_margin : BitVec 8) (_stayed : Bool) (_vout _iout : BitVec 12) (_temp : BitVec 8) (temps : List (BitVec 8)) (hot
    : Int) : List Bool :=
  let d := s.die
  let st := d.get R.pwrModeState
  [decide (s.die.alive = true ∧ ¬ (d.boot.gnotik = true ∧ d.avsOn = true)),
   decide (s.die.alive = true ∧ (d.boot.gnotik = true ∧ d.avsOn = true)),
   decide (s.die.alive = true ∧ d.underReset .pwr 0 = false ∧ d.planLoaded = true),
   decide (s.die.alive = true ∧ d.underReset .pwr 0 = false ∧ d.planLoaded = false),
   decide (s.die.alive = true ∧ d.underReset .pwr 0 = false ∧ d.quietHeld = true),
   decide (s.die.alive = true ∧ d.underReset .pwr 0 = false ∧ d.quietHeld = false),
   decide (s.die.alive = true ∧ (¬ (st = 3 ∧ d.pwr.woken.all (fun p => d.link p == 2) = true))),
   decide (s.die.alive = true ∧ st = 3 ∧ d.pwr.woken.all (fun p => d.link p == 2) = true),
   decide (s.die.alive = true ∧ temps = []),
   decide (s.die.alive = true ∧ (temps.map (fun t => tempOf t.toNat)).max? = some hot)]

/-- The hypotheses of every clause of `PowerCommands` are met. -/
theorem test_hypotheses_PowerCommands : met [
    (hyp_PowerCommands (up (fun d => d)) .host 0 true 4095 4095 9 [] 0, [0, 3, 5, 6, 8]),
    (hyp_PowerCommands
      (up (fun d => gn d)) .host 0 true 4095 4095 9 [] 0, [1]),
    (hyp_PowerCommands (up (fun d => (pl 1 2 (fun p => { p with img := some img0 }) d).set
      R.pwrModeState 0)) .host 0 true 4095 4095 9 [] 0, [2]),
    (hyp_PowerCommands (up (fun d => d.set R.pwrModeState 3)) .host 0 true 4095 4095 9 [] 0,
      [7]),
    (hyp_PowerCommands (up (fun d => (gn d).set R.pwrTjCur 80)) .host 0 true 4095 4095 9 [0x80, 3] 3, [9]),
    (hyp_PowerCommands (up (fun d =>
      d.set R.pwrTjCur 120)) .host 0 true 4095 4095 9 [] 0, [4])] = true := by decide +kernel

/-- What each clause of `TelemetryRuns` asks for. -/
def hyp_TelemetryRuns (s : State) (_c : Cls) (w : Word) (ok : Bool) (l : List (Nat × List Byte)) : List Bool :=
  let en := w.getLsbD 0
  let d := s.die
  let was := d.bit R.telemCtlEn
  let T := d.telem
  let n := d.get R.telemRingLen
  [decide (s.die.alive = true ∧ en = true),
   decide (s.die.alive = true ∧ en = false),
   decide (s.die.alive = true ∧ d.underReset .telem 0 = false ∧ (d.telemBusy = false ∨ (was = true ∧ en = false))),
   decide (s.die.alive = true ∧ d.underReset .telem 0 = false ∧ ¬ (d.telemBusy = false ∨ (was = true ∧ en = false))),
   decide (s.die.alive = true ∧ d.captureDue = false),
   decide (s.die.alive = true ∧ d.captureDue = true),
   decide (s.die.alive = true ∧ T.writing = none),
   decide (s.die.alive = true ∧ T.writing = some l ∧ ok = false),
   decide (s.die.alive = true ∧ T.writing = some l ∧ ok = true ∧ 1 ≤ n)]

/-- The hypotheses of every clause of `TelemetryRuns` are met. -/
theorem test_hypotheses_TelemetryRuns : met [
    (hyp_TelemetryRuns (up (fun d => (d.set R.telemCtlEn 0).set R.telemStatState 0)) .host 0 true [], [1, 2, 4,
      6]),
    (hyp_TelemetryRuns (up (fun d => (d.set R.telemCtlEn 0).set R.telemStatState 1)) .host 0 true [], [3]),
    (hyp_TelemetryRuns (up (fun d =>
      (d.set R.telemCtlEn 0).set R.telemStatState 0)) .host 1 true [], [0]),
    (hyp_TelemetryRuns (up (fun d => (cap true d).set R.telemCtlDest 0)) .host 0
      true [(0, [1, 2])], [5, 8]),
    (hyp_TelemetryRuns (up (fun d => (cap true d).set R.telemCtlDest 0)) .host 0 false [(0, [1, 2])], [7])] = true := by
      decide +kernel

end Sys2Proof.Tests
end

section
/-!
PROOF. The bytes of a number (R14), and the die after a cold reset (R21).
-/
namespace Sys2Proof.Machine

/-! ### Bytes of a number (R14) -/

/-- The lowest byte comes first, and the rest spells what lies above it. -/
theorem leBytes_succ (n v : Nat) : leBytes (n + 1) v = BitVec.ofNat 8 v :: leBytes n (v / 256) := by
  have shift (i : Nat) : v / 2 ^ (8 * (i + 1)) = v / 256 / 2 ^ (8 * i) := by
    rw [Nat.div_div_eq_div_mul, Nat.mul_succ, pow_add, Nat.mul_comm (2 ^ (8 * i))]
    rfl
  simp [leBytes, List.range_succ_eq_map, Function.comp_def, shift]

@[simp] theorem leBytes_length (n v : Nat) : (leBytes n v).length = n := by simp [leBytes]

/-- The bytes of a number spell it, cut to their count. -/
theorem leNat_leBytes (n v : Nat) : leNat (leBytes n v) = v % 2 ^ (8 * n) := by
  induction n generalizing v with
  | zero => simp [leBytes, leNat, Nat.mod_one]
  | succ n ih =>
    calc leNat (leBytes (n + 1) v) = v % 256 + 256 * (v / 256 % 2 ^ (8 * n)) := by
          rw [leBytes_succ, leNat, ih, BitVec.toNat_ofNat]
      _ = v % (256 * 2 ^ (8 * n)) := Nat.mod_mul.symm
      _ = v % 2 ^ (8 * (n + 1)) := by rw [Nat.mul_succ, pow_add, Nat.mul_comm]; rfl

/-- The number that bytes spell has those bytes. -/
theorem leBytes_leNat (bs : List Byte) : leBytes bs.length (leNat bs) = bs := by
  induction bs with
  | nil => rfl
  | cons b r ih =>
    have low : BitVec.ofNat 8 (b.toNat + 256 * leNat r) = b :=
      BitVec.eq_of_toNat_eq (by rw [BitVec.toNat_ofNat]; have := b.isLt; omega)
    have rest : (b.toNat + 256 * leNat r) / 256 = leNat r := by have := b.isLt; omega
    rw [List.length_cons, leNat, leBytes_succ, low, rest, ih]

/-- Byte `i` of a number. -/
theorem leBytes_getD (n v i : Nat) (h : i < n) : (leBytes n v).getD i 0 = BitVec.ofNat 8 (v / 256 ^ i) := by
  have base : 2 ^ (8 * i) = (256 : Nat) ^ i := pow_mul 2 8 i
  simp [leBytes, h, base]

/-- Settles O6: both ways of the round trip by induction, along the count and along the bytes. -/
theorem littleEndianBytes : Obligations.LittleEndianBytes :=
  ⟨fun n v => ⟨leBytes_length n v, leNat_leBytes n v⟩, leBytes_leNat, leBytes_getD⟩

/-! ### The die after a cold reset (R21) -/

/-- Settles O5: nothing is written in the register file at reset, so that each field evaluates to its Reset column, and no memory lists a byte. -/
theorem resetState : Obligations.ResetState := by
  refine ⟨?registers, rfl, rfl, rfl, rfl, reset_memWf⟩
  case registers => decide +kernel

end Sys2Proof.Machine
end

section
/-!
PROOF. Access errors (R952), PAGE_LOCK, the steward's watchdog and RETRY (R22, R902, R911 to R913, R950).
-/
namespace Sys2Proof.Machine

/-! ### Where registers stand -/

/-- The address of a register: its page, its offset and its place in its array. -/
theorem Fld.addrOf_eq (f : Fld) (i j : Nat) : f.addrOf i j = 0x1000 * pageIndex f.page i + f.off + f.step * j := rfl

/-- The dwords that an access error may change, as numbers. -/
theorem mem_accAddrs (t : PageType) (i x : Nat) :
    x ∈ accAddrs t i ↔ x = 0x1000 * pageIndex t i + 0x0C ∨ x = 0x68 ∨ x = 0x60 ∨ x = 0x64 ∨ x = 0x20 := by
  simp [accAddrs, Fld.addrOf_eq, Irq.addrOf, Die.hdrAddr, pageIndex, R.hdrStatAccessErr, R.chipAccCntCount, R.chipAccKind, R.chipAccAddrAddr,
    I.chipAccess]

/-! ### Access errors (R952) -/

/-- Beside PAGE_STAT and the count, an access error writes CHIP.ACC, ACC_ADDR and the CHIP page's causes alone. -/
theorem Die.accErr_dword (d : Die) (t : PageType) (i : Nat) (c : Cls) (w : Bool) (a : Nat) (k : AccKind) (x : Nat)
    (h : x ≠ 0x60 ∧ x ≠ 0x64 ∧ x ≠ 0x20) :
    (d.accErr t i c w a k).dword x = ((d.hset R.hdrStatAccessErr 1 t i).bump R.chipAccCntCount).dword x := by
  obtain ⟨hkind, haddr, hirq⟩ := h
  unfold Die.accErr
  extract_lets e
  split
  · rfl
  · rw [Die.dword_raise, if_neg (show x ≠ Die.hdrAddr I.chipAccess.page 0 0x20 from hirq), Die.dword_set _ _ _ _ _ _ _ haddr]
    simp only [Die.setBit]
    iterate 4 rw [Die.dword_set _ _ _ _ _ _ _ hkind]

theorem Die.accErr_get (d : Die) (t : PageType) (i : Nat) (c : Cls) (w : Bool) (a : Nat) (k : AccKind) (g : Fld) (i' j' k' : Nat)
    (h : g.addrOf i' j' ≠ 0x60 ∧ g.addrOf i' j' ≠ 0x64 ∧ g.addrOf i' j' ≠ 0x20) :
    (d.accErr t i c w a k).get g i' j' k' = ((d.hset R.hdrStatAccessErr 1 t i).bump R.chipAccCntCount).get g i' j' k' := by
  rw [Die.get_addr, Die.get_addr, Die.accErr_dword _ _ _ _ _ _ _ _ h]

/-- An access error shows in its page. -/
theorem Die.accErr_shown (d : Die) (t : PageType) (i : Nat) (c : Cls) (w : Bool) (a : Nat) (k : AccKind) :
    (d.accErr t i c w a k).hget R.hdrStatAccessErr t i = 1 := by
  have apart : (R.chipAccCntCount.loc 0 0).apart (R.hdrStatAccessErr.loc (pageIndex t i) 0 0) :=
    Or.inl (show 0x68 ≠ 0x1000 * pageIndex t i + 0x0C by omega)
  have away : 0x1000 * pageIndex t i + 0x0C ≠ 0x60 ∧ 0x1000 * pageIndex t i + 0x0C ≠ 0x64 ∧ 0x1000 * pageIndex t i + 0x0C ≠ 0x20 := by omega
  calc (d.accErr t i c w a k).hget R.hdrStatAccessErr t i
      = ((d.hset R.hdrStatAccessErr 1 t i).bump R.chipAccCntCount).hget R.hdrStatAccessErr t i := Die.accErr_get _ _ _ _ _ _ _ _ _ _ _ away
    _ = (d.hset R.hdrStatAccessErr 1 t i).hget R.hdrStatAccessErr t i := Die.get_bump_apart _ _ _ _ _ _ _ _ _ (by decide) apart
    _ = 1 := Die.get_set _ _ _ _ _ _ (by decide)

/-- An access error counts. -/
theorem Die.accErr_count (d : Die) (t : PageType) (i : Nat) (c : Cls) (w : Bool) (a : Nat) (k : AccKind) :
    (d.accErr t i c w a k).get R.chipAccCntCount = d.counted R.chipAccCntCount := by
  have apart : (R.hdrStatAccessErr.loc (pageIndex t i) 0 0).apart (R.chipAccCntCount.loc 0 0 0) :=
    Or.inl (show 0x1000 * pageIndex t i + 0x0C ≠ 0x68 by omega)
  have kept : (d.hset R.hdrStatAccessErr 1 t i).get R.chipAccCntCount = d.get R.chipAccCntCount :=
    Die.get_set_apart d _ _ _ _ _ _ _ _ _ (by decide) apart
  rw [Die.accErr_get _ _ _ _ _ _ _ _ _ _ _ (by decide), Die.get_bump _ _ _ _ _ (by decide), kept, Die.counted]

/-! ### PAGE_LOCK (R22, R950) -/

/-- A command that writes the header of an implemented page in service completes with the effect of its write. -/
theorem completes_of_index (x : Instr) (s : State) (c : Cls) (page ofs : Nat) (t : PageType) (i : Nat) (f : Die → PageType → Nat → Die)
    (P : Die → Prop) (h : exec x s = act s (fun d => d.onIndex c page ofs f)) (hp : pageAt page = some (t, i)) (hs : Serves s t i)
    (hP : P (f s.die t i)) : Completes x s P := by
  have served : s.die.onIndex c page ofs f = f s.die t i := by
    rw [Die.onIndex, hp]
    exact Die.onPage_served _ _ _ _ _ hs.2
  exact completes_of_act x s _ P h hs.1 (by rw [served]; exact hP)

theorem Die.lockPage_locks (d : Die) (c : Cls) (t : PageType) (i : Nat) (h : d.locked t i = false) :
    (d.lockPage c t i true).locked t i = true ∧ OnlyRegs d (d.lockPage c t i true) [R.hdrLock.addrOf (pageIndex t i)] := by
  have written : d.lockPage c t i true = d.hset R.hdrLock 1 t i := by simp [Die.lockPage, h]
  rw [written]
  exact ⟨decide_eq_true (Die.get_set d R.hdrLock 1 (pageIndex t i) 0 0 (by decide)), OnlyRegs.set _ _ _ _ _ _⟩

/-- A locked page stays locked through any report that does not reach its PAGE_LOCK. -/
theorem OnlyReports.locked {d e : Die} {as : List Nat} (h : OnlyReports d e as) (t : PageType) (i : Nat)
    (k : R.hdrLock.addrOf (pageIndex t i) ∉ as) : e.locked t i = d.locked t i := by
  unfold Die.locked Die.hget
  rw [h.get R.hdrLock _ _ _ k]

theorem Die.lockPage_locked (d : Die) (c : Cls) (t : PageType) (i : Nat) (h : d.locked t i = true) :
    (d.lockPage c t i true).locked t i = true ∧ (d.lockPage c t i true).hget R.hdrStatAccessErr t i = 1
      ∧ OnlyReports d (d.lockPage c t i true) (accAddrs t i) := by
  have discarded : d.lockPage c t i true = d.accErr t i c true (0x1000 * pageIndex t i + 0x2C) .locked := by simp [Die.lockPage, h]
  rw [discarded]
  have reach : OnlyReports d (d.accErr t i c true (0x1000 * pageIndex t i + 0x2C) .locked) (accAddrs t i) := OnlyReports.accErr _ _ _ _ _ _ _
  have apart : R.hdrLock.addrOf (pageIndex t i) ∉ accAddrs t i := by
    rw [mem_accAddrs, show R.hdrLock.addrOf (pageIndex t i) = 0x1000 * pageIndex t i + 0x2C from rfl]
    omega
  exact ⟨(reach.locked t i apart).trans h, Die.accErr_shown _ _ _ _ _ _ _, reach⟩

/-! ### The watchdog (R902) -/

/-- The watchdog's period passes while it may speak: STEWARD_WDOG is logged, and its cause is set. -/
theorem Die.watchdog_speaks (d : Die) (h : d.get R.errlogCfgWdog ≠ 0) (hl : d.err.wdogLogged = false) (hb : d.boot.stage ≠ 0) :
    d.watchdog.err.wdogLogged = true ∧ Logged d d.watchdog (pageIndex .errlog 0) 0x0D01 1 ∧ d.watchdog.hasCause I.errlogWdog = true
      ∧ OnlyLogs d d.watchdog [] := by
  have speaks : ¬ (d.get R.errlogCfgWdog = 0 ∨ d.err.wdogLogged = true ∨ d.boot.stage = 0) := by simp [h, hl, hb]
  obtain ⟨reach, logged⟩ := d.logErr_reach .errlog 0 0x0D01 1 [] none false none
  unfold Die.watchdog
  rw [if_neg speaks]
  generalize d.logErr .errlog 0 0x0D01 1 = e at reach logged ⊢
  exact ⟨rfl, logged, Die.hasCause_raise e I.errlogWdog 0 0 (by decide),
    reach.tr0 ((OnlyLogs.raiseLog e 0 I.errlogWdog rfl).tr0 (OnlyLogs.setErr _ _))⟩

/-- KICK reaches the watchdog's mark alone. -/
theorem Die.kick_reach (d : Die) : OnlyRegs d { d.kick with err := d.err } [] := OnlyRegs.refl d []

/-! ### RETRY (R911 to R913) -/

theorem Die.retryRx_stale (d : Die) (pk : Packet) (ho : pk.op = 0x24) (h : pk.epoch.toNat ≠ d.hget R.hdrEpoch .coll (pk.group.toNat / 256)) :
    d.retryRx pk = d.bump R.errlogStale := by
  simp [Die.retryRx, ho, h]

theorem Die.retryRx_fresh (d : Die) (pk : Packet) (ho : pk.op = 0x24) (h : pk.epoch.toNat = d.hget R.hdrEpoch .coll (pk.group.toNat / 256)) :
    d.retryRx pk = { d.bump R.errlogRetry with returned := d.returned ++ [(leNat (pk.payload.take 8) % 2 ^ 16,
      leNat (pk.payload.take 8) / 2 ^ 16 % 4, leNat (pk.payload.take 8) / 2 ^ 18 % 256, leNat (pk.payload.take 8) / 2 ^ 32 % 2 ^ 32)] } := by
  simp [Die.retryRx, ho, h]

theorem Die.enqueue_returned (d : Die) (p v : Nat) (e : QEnt) : (d.enqueue p v e).returned = d.returned := rfl

/-- A packet that Kesil originates leaves the returned requests alone. -/
theorem Die.originate_returned (d : Die) (pk : Packet) : (d.originate pk).returned = d.returned := by
  unfold Die.originate
  split
  case h_1 => rfl
  case h_2 =>
    rw [((Die.logErr_reach _ _ _ _ _ _ _ _ _).1).units.returned, Die.raise_returned, Die.bump_returned]
  case h_3 => exact Die.enqueue_returned _ _ _ _

theorem Die.forAll_returned {α : Type} (f : Die → α → Die) (hf : ∀ d x, (f d x).returned = d.returned) (l : List α) (d : Die) :
    (d.forAll l f).returned = d.returned := by
  induction l generalizing d with
  | nil => rfl
  | cons x r ih => exact (ih (f d x)).trans (hf d x)

/-- The oldest returned request is sent again, and the others wait on. -/
theorem Die.reissue_returned (d : Die) (x : Nat × Nat × Nat × Nat) (r : List (Nat × Nat × Nat × Nat)) (h : d.returned = x :: r) :
    d.reissue.returned = r := by
  unfold Die.reissue
  rw [h]
  exact Die.forAll_returned _ (fun _ _ => Die.originate_returned _ _) _ _

/-! ### The statement -/

/-- Settles O17: each command through the lemma about its meaning. -/
theorem watchdogLockAndRetry : Obligations.WatchdogLockAndRetry := by
  refine ⟨fun s c page t i ha => ⟨?wdog, ?kick, ?lock, ?locked⟩, fun s pk ha ho => ⟨?stale, ?fresh, ?reissue⟩⟩
  case wdog =>
    intro hw hl hb
    exact completes_of_act _ s _ _ rfl ha (s.die.watchdog_speaks hw hl hb)
  case kick =>
    intro hs
    exact completes_of_page _ s c .errlog 0 Die.kick _ rfl hs ⟨rfl, s.die.kick_reach⟩
  case lock =>
    intro hp hs hl
    exact completes_of_index _ s c _ _ t i _ _ rfl hp hs (s.die.lockPage_locks c t i hl)
  case locked =>
    intro hp hs hl
    exact completes_of_index _ s c _ _ t i _ _ rfl hp hs (s.die.lockPage_locked c t i hl)
  case stale =>
    intro h
    refine completes_of_act _ s _ _ rfl ha ?_
    rw [s.die.retryRx_stale pk ho h]
    exact ⟨Die.get_bump _ _ _ _ _ (by decide), OnlyReports.bump _ _ _ _ _⟩
  case fresh =>
    intro h
    refine completes_of_act _ s _ _ rfl ha ?_
    rw [s.die.retryRx_fresh pk ho h]
    exact ⟨⟨_, rfl, rfl, rfl⟩, Die.get_bump _ _ _ _ _ (by decide), (OnlyReports.bump _ _ _ _ _).returned_changed _⟩
  case reissue =>
    intro x r h
    exact completes_of_act _ s _ _ rfl ha ⟨rfl, s.die.reissue_returned x r h⟩

end Sys2Proof.Machine
end

section
/-!
PROOF. CASC.ROLEn and CASC.ATTRn (R19, R22, R109): the fields of one write, taken one after another.
-/
namespace Sys2Proof.Machine

/-! ### Errors counted once (R952) -/

/-- Counting errors once touches CHIP.ACC_CNT alone, beside what the write does. -/
theorem Die.countOnce_reach (d : Die) (f : Die → Die) :
    OnlyRegs (f (d.set R.chipAccCntCount 0)) (d.countOnce f).1 [R.chipAccCntCount.addrOf] := OnlyRegs.set _ _ _ _ _ _

theorem Die.countOnce_count (d : Die) (f : Die → Die) :
    (d.countOnce f).1.get R.chipAccCntCount
      = min (d.get R.chipAccCntCount + min ((f (d.set R.chipAccCntCount 0)).get R.chipAccCntCount) 1) 0xFFFFFFFF := by
  have wide (n : Nat) : min n 0xFFFFFFFF % 2 ^ 32 = min n 0xFFFFFFFF := Nat.mod_eq_of_lt (by omega)
  exact (Die.get_set _ R.chipAccCntCount _ 0 0 0 (by decide)).trans (wide _)

/-- A write without an error leaves the count. -/
theorem Die.countOnce_none (d : Die) (f : Die → Die) (h : (f (d.set R.chipAccCntCount 0)).get R.chipAccCntCount = 0) :
    (d.countOnce f).1.get R.chipAccCntCount = d.get R.chipAccCntCount := by
  have bound : d.get R.chipAccCntCount < 2 ^ 32 := d.get_lt R.chipAccCntCount 0 0 0
  rw [Die.countOnce_count, h]
  omega

/-! ### One register of CASC.ROLE or CASC.ATTR -/

/-- The register that ROLE_ATTR_WRITE names by its index: CASC.ROLE0 to ROLE3, then CASC.ATTR0 to ATTR7. -/
def RoleReg (idx : Nat) (f : Fld) (r : Nat) : Prop :=
  (idx < 4 ∧ f = R.cascRole ∧ r = idx) ∨ (4 ≤ idx ∧ idx < 12 ∧ f = R.cascAttr ∧ r = idx - 4)

/-- The value that a write gives to field `k` of the register. -/
def roleVal (f : Fld) (w : Word) (k : Nat) : Nat := fieldGet w (f.width * k) f.width

/-- Does the value have a meaning for its port (R19)? CASC.ATTR takes 0 to 3 on a STACK port and 0 to 5 on another; every role has one. -/
def Die.roleLegal (d : Die) (f : Fld) (r : Nat) (w : Word) (k : Nat) : Bool :=
  decide (f = R.cascRole) || (decide (roleVal f w k < 6)
    && !(d.get R.cascRole 0 ((f.fn * r + k) / 16) ((f.fn * r + k) % 16) == 3 && decide (4 ≤ roleVal f w k)))

/-- May the port of field `k` be written: its page shows IDLE, and no plan references it (R109)? -/
def Die.roleFree (d : Die) (f : Fld) (r k : Nat) : Bool := d.portIdle (f.fn * r + k) && !d.planNames (f.fn * r + k)

/-- Does field `k` take the value of the write? -/
def Die.roleTakes (d : Die) (f : Fld) (r : Nat) (w : Word) (k : Nat) : Bool := d.roleLegal f r w k && d.roleFree f r k

/-- Is field `k` written without an error: it takes the value, or holds it already? -/
def Die.roleGood (d : Die) (f : Fld) (r : Nat) (w : Word) (k : Nat) : Bool := roleVal f w k == d.get f 0 r k || d.roleTakes f r w k

/-- The dwords that a write of the register may change. -/
def roleAddrs (f : Fld) (r : Nat) : List Nat := f.addrOf 0 r :: accAddrs .casc 0

/-- One field after another is written. -/
def Die.roleFields (d : Die) (c : Cls) (o : Nat) (f : Fld) (r : Nat) (w : Word) (m : Nat) : Die :=
  d.forAll (List.range m) (fun d j => d.portField c o f (f.fn * r + j) r j (roleVal f w j))

theorem Die.roleFields_succ (d : Die) (c : Cls) (o : Nat) (f : Fld) (r : Nat) (w : Word) (m : Nat) :
    d.roleFields c o f r w (m + 1) = (d.roleFields c o f r w m).portField c o f (f.fn * r + m) r m (roleVal f w m) := by
  simp [Die.roleFields, Die.forAll, List.range_succ]

section
variable {idx : Nat} {f : Fld} {r : Nat} (h : RoleReg idx f r)
include h

/-- The register lies in the CASC page, between CASC.TOPO and CASC.HB. -/
theorem RoleReg.addr : 0x304C ≤ f.addrOf 0 r ∧ f.addrOf 0 r < 0x307C := by
  rcases h with ⟨hi, rfl, rfl⟩ | ⟨hi, hj, rfl, rfl⟩
  · show 0x304C ≤ 0x304C + 4 * r ∧ 0x304C + 4 * r < 0x307C
    omega
  · show 0x304C ≤ 0x305C + 4 * (idx - 4) ∧ 0x305C + 4 * (idx - 4) < 0x307C
    omega

theorem RoleReg.fits {k : Nat} (hk : k < f.fn) : f.lsb + f.fstep * k + f.width ≤ 32 := by
  rcases h with ⟨_, rfl, _⟩ | ⟨_, _, rfl, _⟩ <;> simp only [R.cascRole, R.cascAttr] at hk ⊢ <;> omega

/-- Two fields of the register share no bit. -/
theorem RoleReg.apart {k l : Nat} (hn : k ≠ l) : (f.loc 0 r k).apart (f.loc 0 r l) := by
  right
  rcases h with ⟨_, rfl, _⟩ | ⟨_, _, rfl, _⟩ <;> simp only [R.cascRole, R.cascAttr, Fld.loc] <;> omega

/-- A register whose dword the write may not change. -/
theorem RoleReg.not_mem {x : Nat} (hx : (x < 0x3000 ∨ 0x307C ≤ x) ∧ x ≠ 0x68 ∧ x ≠ 0x60 ∧ x ≠ 0x64 ∧ x ≠ 0x20) : x ∉ roleAddrs f r := by
  have := h.addr
  simp only [roleAddrs, List.mem_cons, mem_accAddrs, pageIndex]
  omega

theorem RoleReg.not_mem_accAddrs : f.addrOf 0 r ∉ accAddrs .casc 0 := by
  have := h.addr
  simp only [mem_accAddrs, pageIndex]
  omega

/-- The register is none of those that an access error changes. -/
theorem RoleReg.ne_of_mem_accAddrs {x : Nat} (hx : x ∈ accAddrs .casc 0) : x ≠ f.addrOf 0 r := fun he => h.not_mem_accAddrs (he ▸ hx)

/-- A locked page discards the write whole (R22). -/
theorem RoleReg.write_locked (d : Die) (c : Cls) (w : Word) (hl : d.locked .casc = true) :
    ∃ a, d.roleWrite c idx w = d.accErr .casc 0 c true a .locked := by
  rcases h with ⟨hi, _, _⟩ | ⟨hi, _, _, _⟩
  · exact ⟨0x3000 + (0x4C + 4 * idx), by simp [Die.roleWrite, hi, hl, Die.discard, pageIndex]⟩
  · exact ⟨0x3000 + (0x5C + 4 * (idx - 4)), by simp [Die.roleWrite, Nat.not_lt.2 hi, hl, Die.discard, pageIndex]⟩

/-- On a page that is not locked each field is written. -/
theorem RoleReg.write_unlocked (d : Die) (c : Cls) (w : Word) (hl : d.locked .casc = false) :
    ∃ o, d.roleWrite c idx w = d.roleFields c o f r w f.fn := by
  rcases h with ⟨hi, rfl, rfl⟩ | ⟨hi, _, rfl, rfl⟩
  · exact ⟨0x4C + 4 * r, by simp [Die.roleWrite, hi, hl]; rfl⟩
  · exact ⟨0x5C + 4 * (idx - 4), by simp [Die.roleWrite, Nat.not_lt.2 hi, hl]; rfl⟩

end

/-! ### One field of the write -/

section
variable {idx : Nat} {f : Fld} {r : Nat} (d : Die) (c : Cls) (o : Nat) (w : Word) (k : Nat)

theorem Die.portField_same (hv : roleVal f w k = d.get f 0 r k) :
    d.portField c o f (f.fn * r + k) r k (roleVal f w k) = d := by
  simp [Die.portField, hv]

variable (h : RoleReg idx f r)
include h

theorem RoleReg.legal_iff : d.roleLegal f r w k = false ↔ f = R.cascAttr ∧ (6 ≤ roleVal f w k
    ∨ (d.get R.cascRole 0 ((f.fn * r + k) / 16) ((f.fn * r + k) % 16) = 3 ∧ 4 ≤ roleVal f w k)) := by
  have distinct : R.cascAttr ≠ R.cascRole := by decide
  rcases h with ⟨_, rfl, _⟩ | ⟨_, _, rfl, _⟩
  · simp [Die.roleLegal, distinct.symm]
  · simp only [Die.roleLegal, distinct, decide_false, Bool.false_or, Bool.and_eq_false_iff, decide_eq_false_iff_not, Bool.not_eq_false',
      Bool.and_eq_true, beq_iff_eq, decide_eq_true_eq, true_and, not_lt]

theorem RoleReg.portField_takes (hn : roleVal f w k ≠ d.get f 0 r k) (ht : d.roleTakes f r w k = true) :
    d.portField c o f (f.fn * r + k) r k (roleVal f w k) = (d.set f (roleVal f w k) 0 r k).fpDirty := by
  obtain ⟨hl, hf⟩ := Bool.and_eq_true_iff.1 ht
  have legal := mt (h.legal_iff d w k).2 (by simp [hl])
  rw [Die.portField, if_neg hn, if_neg legal, if_pos (by simpa [Die.roleFree] using hf)]

theorem RoleReg.portField_refuses (hn : roleVal f w k ≠ d.get f 0 r k) (ht : d.roleTakes f r w k = false) :
    ∃ a e, d.portField c o f (f.fn * r + k) r k (roleVal f w k) = d.accErr .casc 0 c true a e := by
  unfold Die.portField
  rw [if_neg hn]
  split
  case isTrue => exact ⟨_, _, rfl⟩
  case isFalse legal =>
    have hl : d.roleLegal f r w k = true := by simpa using mt (h.legal_iff d w k).1 legal
    have hf : d.roleFree f r k = false := by simpa [Die.roleTakes, hl] using ht
    rw [if_neg (by simpa [Die.roleFree] using hf)]
    exact ⟨_, _, rfl⟩

end

/-! ### What decides about a field stays during the write -/

theorem Die.planNames_congr {d e : Die} (hp : e.plans = d.plans) (hc : e.get R.discCoordXyz = d.get R.discCoordXyz) (hs : e.pos = d.pos) (p : Nat) :
    e.planNames p = d.planNames p := by
  simp only [Die.planNames, Die.plansIn, Die.onThisDie, Die.selfNode, hp, hc, hs]

section
variable {idx : Nat} {f : Fld} {r : Nat} (h : RoleReg idx f r) {d e : Die} (reach : OnlyReports d e (roleAddrs f r))
include h reach

theorem RoleReg.portIdle_stays (p : Nat) : e.portIdle p = d.portIdle p := by
  have away : R.hdrStatState.addrOf (pageIndex .port p) ∉ roleAddrs f r := by
    have portAt : R.hdrStatState.addrOf (pageIndex .port p) = 0x1000 * (0x10 + p) + 0x0C := rfl
    exact h.not_mem (by omega)
  unfold Die.portIdle Die.hget
  rw [reach.get _ _ _ _ away]

theorem RoleReg.legal_stays (w : Word) {k : Nat} (hk : k < f.fn) : e.roleLegal f r w k = d.roleLegal f r w k := by
  rcases id h with ⟨_, rfl, _⟩ | ⟨_, _, rfl, _⟩
  · simp [Die.roleLegal]
  · have away : R.cascRole.addrOf 0 ((R.cascAttr.fn * r + k) / 16) ∉ roleAddrs R.cascAttr r := by
      have roleAt : R.cascRole.addrOf 0 ((R.cascAttr.fn * r + k) / 16) = 0x304C + 4 * ((8 * r + k) / 16) := rfl
      have attrAt : R.cascAttr.addrOf 0 r = 0x305C + 4 * r := rfl
      have : k < 8 := hk
      simp only [roleAddrs, List.mem_cons, mem_accAddrs, pageIndex, roleAt, attrAt]
      omega
    simp only [Die.roleLegal, reach.get _ _ _ _ away]

theorem RoleReg.takes_stays (w : Word) {k : Nat} (hk : k < f.fn) : e.roleTakes f r w k = d.roleTakes f r w k := by
  have names (p : Nat) : e.planNames p = d.planNames p :=
    Die.planNames_congr reach.units.plans (reach.get _ _ _ _ (h.not_mem (by decide))) (reach.get _ _ _ _ (h.not_mem (by decide))) p
  simp only [Die.roleTakes, Die.roleFree, h.legal_stays reach w hk, h.portIdle_stays reach, names]

end

/-! ### The fields one after another -/

theorem OnlyReports.det_put {d e : Die} {as : List Nat} (h : OnlyReports d e as) (x : DetSt) :
    OnlyReports { d with det := x } { e with det := x } as := { h with units := { h.units with det := rfl } }

/-- The die `e` after the first `m` fields of a write to the register, from the die `d` with its count of errors set to 0: each of these fields that
may be taken has its new value, an error shows in the page, and without one nothing was counted. -/
structure RoleWritten (d e : Die) (f : Fld) (r : Nat) (w : Word) (m : Nat) : Prop where
  reach : OnlyReports d { e with det := d.det } (roleAddrs f r)
  det : e.det = { d.det with dirty := e.det.dirty }
  field : ∀ k, k < f.fn → e.get f 0 r k = if k < m ∧ d.roleTakes f r w k = true then roleVal f w k else d.get f 0 r k
  shown : (List.range m).all (d.roleGood f r w) = false → e.hget R.hdrStatAccessErr .casc = 1
  uncounted : (List.range m).all (d.roleGood f r w) = true → e.get R.chipAccCntCount = 0

theorem range_all_succ (p : Nat → Bool) (m : Nat) : (List.range (m + 1)).all p = ((List.range m).all p && p m) := by
  simp [List.range_succ]

/-- Before the first field only the count has changed. -/
theorem RoleReg.written_none {idx : Nat} {f : Fld} {r : Nat} (h : RoleReg idx f r) (d : Die) (w : Word) :
    RoleWritten d (d.set R.chipAccCntCount 0) f r w 0 where
  reach := (OnlyRegs.set d R.chipAccCntCount 0 0 0 0).reports.mono (by simp [roleAddrs, accAddrs])
  det := rfl
  field k _ := by
    rw [if_neg (by omega)]
    have away : f.addrOf 0 r ∉ [R.chipAccCntCount.addrOf] := by simpa using (h.ne_of_mem_accAddrs (by simp [accAddrs])).symm
    exact (OnlyRegs.set d R.chipAccCntCount 0 0 0 0).get _ _ _ _ away
  shown hf := by simp at hf
  uncounted _ := Die.get_set _ _ _ _ _ _ (by decide)

/-- What one more field of the write has to do, whichever way it goes. -/
theorem RoleWritten.next {d e x : Die} {f : Fld} {r : Nat} {w : Word} {m : Nat} (hw : RoleWritten d e f r w m)
    (reach : OnlyReports e { x with det := e.det } (roleAddrs f r)) (det : x.det = { e.det with dirty := x.det.dirty })
    (own : x.get f 0 r m = if d.roleTakes f r w m = true then roleVal f w m else d.get f 0 r m)
    (others : ∀ k, k < f.fn → k ≠ m → x.get f 0 r k = e.get f 0 r k)
    (shown : d.roleGood f r w m = false ∨ e.hget R.hdrStatAccessErr .casc = 1 → x.hget R.hdrStatAccessErr .casc = 1)
    (uncounted : d.roleGood f r w m = true → e.get R.chipAccCntCount = 0 → x.get R.chipAccCntCount = 0) :
    RoleWritten d x f r w (m + 1) where
  reach := (hw.reach.trans (reach.det_put d.det)).mono (by simp)
  det := by rw [det, hw.det]
  field k hk := by
    by_cases hkm : k = m
    · subst hkm
      simpa using own
    · have earlier : k < m + 1 ↔ k < m := by omega
      rw [others k hk hkm, hw.field k hk]
      simp only [earlier]
  shown hf := by
    rw [range_all_succ, Bool.and_eq_false_iff] at hf
    exact shown (hf.symm.imp_right hw.shown)
  uncounted ht := by
    rw [range_all_succ, Bool.and_eq_true] at ht
    exact uncounted ht.2 (hw.uncounted ht.1)

section
variable {idx : Nat} {f : Fld} {r : Nat} (h : RoleReg idx f r) {d e : Die} {w : Word} {m : Nat} (hw : RoleWritten d e f r w m) (hm : m < f.fn)
include hw hm

/-- A field that has its new value already. -/
theorem RoleWritten.same (hv : roleVal f w m = d.get f 0 r m) : RoleWritten d e f r w (m + 1) := by
  have good : d.roleGood f r w m = true := by simp [Die.roleGood, hv]
  refine hw.next (OnlyReports.refl e _) rfl ?_ (fun _ _ _ => rfl) (fun hs => hs.resolve_left (by simp [good])) (fun _ hu => hu)
  rw [hw.field m hm, hv]
  simp

include h

/-- A field that takes its new value. -/
theorem RoleReg.written_takes (ht : d.roleTakes f r w m = true) : RoleWritten d (e.set f (roleVal f w m) 0 r m).fpDirty f r w (m + 1) := by
  have reach := OnlyRegs.set e f (roleVal f w m) 0 r m
  have cut : roleVal f w m % 2 ^ f.width = roleVal f w m := Nat.mod_eq_of_lt (fieldGet_lt _ _ _)
  have away {x : Nat} (hx : x ∈ accAddrs .casc 0) : x ∉ [f.addrOf 0 r] := by simpa using h.ne_of_mem_accAddrs hx
  have good : d.roleGood f r w m = true := by simp [Die.roleGood, ht]
  refine hw.next (reach.reports.mono (by simp [roleAddrs])) rfl ?_ (fun k hk hkm => ?_) (fun hs => ?_) (fun _ hu => ?_)
  · rw [if_pos ht, Die.fpDirty_get, Die.get_set _ _ _ _ _ _ (h.fits hm), cut]
  · rw [Die.fpDirty_get, Die.get_set_apart _ _ _ _ _ _ _ _ _ _ (h.fits hm) (h.apart (Ne.symm hkm))]
  · exact (reach.get _ _ _ _ (away (by simp [accAddrs]))).trans (hs.resolve_left (by simp [good]))
  · rw [Die.fpDirty_get, reach.get _ _ _ _ (away (by simp [accAddrs])), hu]

/-- A field that is refused. -/
theorem RoleReg.written_refused (hv : roleVal f w m ≠ d.get f 0 r m) (ht : d.roleTakes f r w m = false) (c : Cls) (a : Nat) (k : AccKind) :
    RoleWritten d (e.accErr .casc 0 c true a k) f r w (m + 1) := by
  have reach : OnlyReports e (e.accErr .casc 0 c true a k) (accAddrs .casc 0) := OnlyReports.accErr _ _ _ _ _ _ _
  have bad : d.roleGood f r w m = false := by simp [Die.roleGood, hv, ht]
  have kept (k : Nat) := reach.get f 0 r k h.not_mem_accAddrs
  refine hw.next ?_ (by simp) ?_ (fun k _ _ => kept k) (fun _ => Die.accErr_shown _ _ _ _ _ _ _) (fun hg => by simp [bad] at hg)
  · have hd : (e.accErr .casc 0 c true a k).det = e.det := by simp
    rw [← hd]
    exact reach.mono (by simp [roleAddrs])
  · rw [kept, hw.field m hm]
    simp [ht]

/-- One more field of the write. -/
theorem RoleReg.written_succ (c : Cls) (o : Nat) :
    RoleWritten d (e.portField c o f (f.fn * r + m) r m (roleVal f w m)) f r w (m + 1) := by
  have now : e.get f 0 r m = d.get f 0 r m := by rw [hw.field m hm, if_neg (by omega)]
  have takes : e.roleTakes f r w m = d.roleTakes f r w m := h.takes_stays (e := { e with det := d.det }) hw.reach w hm
  by_cases hv : roleVal f w m = d.get f 0 r m
  · rw [Die.portField_same e c o w m (by rw [hv, now])]
    exact hw.same hm hv
  · cases ht : d.roleTakes f r w m with
    | true =>
      rw [h.portField_takes e c o w m (by rwa [now]) (by rw [takes, ht])]
      exact h.written_takes hw hm ht
    | false =>
      obtain ⟨a, k, refused⟩ := h.portField_refuses e c o w m (by rwa [now]) (by rw [takes, ht])
      rw [refused]
      exact h.written_refused hw hm hv ht c a k

end

/-- The first `m` fields of the write, one after another. -/
theorem RoleReg.written {idx : Nat} {f : Fld} {r : Nat} (h : RoleReg idx f r) (d : Die) (c : Cls) (o : Nat) (w : Word) (m : Nat) (hm : m ≤ f.fn) :
    RoleWritten d ((d.set R.chipAccCntCount 0).roleFields c o f r w m) f r w m := by
  induction m with
  | zero => exact h.written_none d w
  | succ m ih =>
    rw [Die.roleFields_succ]
    exact h.written_succ (ih (by omega)) (by omega) c o

/-! ### The statement -/

/-- A write to CASC.ROLEn or ATTRn in a page that is not locked: each field that may be taken is, an error shows, and without one nothing is counted. -/
theorem RoleReg.roleAttrWrite_unlocked {n : Fin 12} {f : Fld} {r : Nat} (h : RoleReg n.val f r) (s : State) (c : Cls) (w : Word)
    (hs : Serves s .casc 0) (hl : s.die.locked .casc = false) {j : Nat} (hj : j < f.fn) :
    Completes (.roleAttrWrite c n w) s (fun e =>
      e.get f 0 r j = (if s.die.roleLegal f r w j = true ∧ s.die.roleFree f r j = true then roleVal f w j else s.die.get f 0 r j)
        ∧ ((List.range f.fn).all (s.die.roleGood f r w) = false → e.hget R.hdrStatAccessErr .casc = 1)
        ∧ ((List.range f.fn).all (s.die.roleGood f r w) = true → e.get R.chipAccCntCount = s.die.get R.chipAccCntCount)
        ∧ e.det = { s.die.det with dirty := e.det.dirty } ∧ OnlyReports s.die { e with det := s.die.det } (roleAddrs f r)) := by
  refine completes_of_page _ s c .casc 0 _ _ rfl hs ?_
  have unlocked : (s.die.set R.chipAccCntCount 0).locked .casc = false := by
    rw [← hl]
    exact (OnlyRegs.set s.die R.chipAccCntCount 0 0 0 0).reports.locked .casc 0 (by decide)
  obtain ⟨o, fields⟩ := h.write_unlocked _ c w unlocked
  have hw := h.written s.die c o w f.fn le_rfl
  rw [← fields] at hw
  have reach := s.die.countOnce_reach (fun d => d.roleWrite c n.val w)
  have away : f.addrOf 0 r ∉ [R.chipAccCntCount.addrOf] := by simpa using (h.ne_of_mem_accAddrs (by simp [accAddrs])).symm
  refine ⟨?_, fun hf => ?_, fun ht => Die.countOnce_none _ _ (hw.uncounted ht), hw.det, ?_⟩
  · rw [reach.get _ _ _ _ away, hw.field j hj]
    simp [hj, Die.roleTakes]
  · exact (reach.get _ _ _ _ (by decide)).trans (hw.shown hf)
  · exact (hw.reach.trans (reach.reports.det_put s.die.det)).mono (by simp [roleAddrs, accAddrs])

/-- A write to CASC.ROLEn or ATTRn in a locked page is discarded whole, and counted as one error. -/
theorem RoleReg.roleAttrWrite_locked {n : Fin 12} {f : Fld} {r : Nat} (h : RoleReg n.val f r) (s : State) (c : Cls) (w : Word)
    (hs : Serves s .casc 0) (hl : s.die.locked .casc = true) (j : Nat) :
    Completes (.roleAttrWrite c n w) s (fun e =>
      e.get f 0 r j = s.die.get f 0 r j ∧ e.hget R.hdrStatAccessErr .casc = 1
        ∧ e.get R.chipAccCntCount = s.die.counted R.chipAccCntCount ∧ OnlyReports s.die e (accAddrs .casc 0)) := by
  refine completes_of_page _ s c .casc 0 _ _ rfl hs ?_
  have start := OnlyRegs.set s.die R.chipAccCntCount 0 0 0 0
  have locked : (s.die.set R.chipAccCntCount 0).locked .casc = true := by
    rw [← hl]
    exact start.reports.locked .casc 0 (by decide)
  obtain ⟨a, discarded⟩ := h.write_locked _ c w locked
  have finish := s.die.countOnce_reach (fun d => d.roleWrite c n.val w)
  have total := s.die.countOnce_count (fun d => d.roleWrite c n.val w)
  have one : ((s.die.set R.chipAccCntCount 0).accErr .casc 0 c true a .locked).get R.chipAccCntCount = 1 := by
    rw [Die.accErr_count, Die.counted, Die.get_set _ _ _ _ _ _ (by decide)]
    rfl
  rw [discarded] at finish total
  rw [one] at total
  have reach : OnlyReports s.die (s.die.countOnce (fun d => d.roleWrite c n.val w)).1 (accAddrs .casc 0) :=
    ((start.reports.trans (OnlyReports.accErr _ _ _ _ _ _ _)).trans finish.reports).mono (by simp [accAddrs])
  exact ⟨reach.get _ _ _ _ h.not_mem_accAddrs, (finish.get _ _ _ _ (by decide)).trans (Die.accErr_shown _ _ _ _ _ _ _), total, reach⟩

/-- Settles O41: an index below 4 names a register of CASC.ROLE, another one of CASC.ATTR, and the lemmas about one register hold for both. -/
theorem rolesAreWritten : Obligations.RolesAreWritten := by
  intro s c n w j hs
  have hj := j.isLt
  by_cases hn : n.val < 4
  case pos =>
    have h : RoleReg n.val R.cascRole n.val := Or.inl ⟨hn, rfl, rfl⟩
    simp only [hn, if_true, decide_true]
    exact ⟨fun hl => h.roleAttrWrite_unlocked s c w hs hl (Nat.lt_trans hj (by decide)), fun hl => h.roleAttrWrite_locked s c w hs hl j.val⟩
  case neg =>
    have h : RoleReg n.val R.cascAttr (n.val - 4) := Or.inr ⟨by omega, n.isLt, rfl, rfl⟩
    simp only [hn, if_false, decide_false]
    exact ⟨fun hl => h.roleAttrWrite_unlocked s c w hs hl hj, fun hl => h.roleAttrWrite_locked s c w hs hl j.val⟩

end Sys2Proof.Machine
end

section
/-!
PROOF. The rennet of the parent, the offset that it gives, and the count that a joining node adopts (R69, R280, R282, R284, R285).
-/
namespace Sys2Proof.Machine

/-- A command whose meaning is `act f` ends, on a die that runs, with exactly `f`'s die. -/
theorem becomes_of_act (i : Instr) (s : State) (f : Die → Die) (e : Die) (h : exec i s = act s f) (ha : s.die.alive = true)
    (he : f s.die = e) : Becomes i s e := by
  rw [Becomes, h, act_alive s f ha, ← he]
  rfl

/-! ### The offset within half a tick (R285) -/

/-- An offset brought by one tick of `t` to at most half a tick on either side of the edge. -/
def withinHalf (t o : Int) : Int := if t < 2 * o then o - t else if 2 * o < -t then o + t else o

/-- It differs from the offset by whole ticks. -/
theorem withinHalf_sub_emod (t o : Int) : (withinHalf t o - o) % t = 0 := by
  unfold withinHalf
  split
  case isTrue => simp
  case isFalse =>
    split
    case isTrue => simp
    case isFalse => simp

/-- It lies within half a tick when the offset lies within one. -/
theorem withinHalf_bounds {t o : Int} (hl : -t ≤ o) (hu : o ≤ t) : -t ≤ 2 * withinHalf t o ∧ 2 * withinHalf t o ≤ t := by
  unfold withinHalf
  split
  case isTrue late => omega
  case isFalse =>
    split
    case isTrue early => omega
    case isFalse => omega

/-! ### The acknowledgement in a superframe (R218) -/

section
variable (d : Die) (p : Nat) (mack mlast : BitVec 6)

theorem Die.takeAck_disc : (d.takeAck p mack mlast).disc = d.disc := rfl

theorem Die.takeAck_reach : OnlyRegs d { d.takeAck p mack mlast with ports := d.ports } [R.portMsgMackIn.addrOf p] :=
  (OnlyRegs.set (d.modPort p (fun _ => _)) R.portMsgMackIn mack.toNat p 0 0).ports_changed _

theorem Die.takeAck_mackIn : (d.takeAck p mack mlast).get R.portMsgMackIn p = mack.toNat :=
  (Die.get_set _ R.portMsgMackIn mack.toNat p 0 0 (by decide)).trans (Nat.mod_eq_of_lt mack.isLt)

theorem Die.takeAck_mlastIn : ((d.takeAck p mack mlast).port p).mlastIn = mlast := by
  refine (congrArg PortSt.mlastIn ((Die.port_modPort d p p (fun _ => _)).trans (if_pos rfl))).trans ?_
  split <;> rfl

theorem Die.takeAck_otherPorts : OtherPorts d (d.takeAck p mack mlast) p := fun q hq =>
  (Die.port_modPort d p q (fun _ => _)).trans (if_neg hq)

/-- A field apart from the port's MACK_IN keeps its value. -/
theorem Die.takeAck_get (f : Fld) (i j k : Nat) (h : f.addrOf i j ≠ R.portMsgMackIn.addrOf p) :
    (d.takeAck p mack mlast).get f i j k = d.get f i j k :=
  (d.takeAck_reach p mack mlast).get f i j k (by simpa using h)

end

/-! ### A rennet on a port (R282, R285) -/

/-- Is the port the one toward the parent (R280)? -/
def Die.onParent (d : Die) (p : Nat) : Bool := d.bit R.discParentValid && d.get R.discParentPort == p

/-- An arrival less the latency of the port's link (R285). -/
def Die.rennetOffset (d : Die) (p : Nat) (arr : BitVec 23) : Int := (arr.toNat : Int) - ((smapGet none d.disc.lat p).getD 0).toNat

/-- The arrival of a rennet joins the port's stamps. -/
def Die.stampRennet (d : Die) (p : Nat) (tick : BitVec 16) (arr : BitVec 23) : Die :=
  { d with disc := { d.disc with stamps := smapMod [] d.disc.stamps p (fun l => ((tick.toNat, arr.toNat) :: l).take 64) } }

/-- A rennet on the parent's port gives the offset, and shows whether its count agrees. -/
def Die.noteOffset (d : Die) (p : Nat) (tick : BitVec 16) (arr : BitVec 23) : Die :=
  if d.onParent p then
    { d with disc := { d.disc with rnSeen := some (withinHalf (256 * d.tickCycles) (d.rennetOffset p arr))
                                   rnWrong := tick.toNat != d.tick.count.toNat % 65536 } }
  else d

/-- What discovery holds after a rennet: its stamp, and on the parent's port the offset. -/
def Die.rennetDisc (d : Die) (p : Nat) (tick : BitVec 16) (arr : BitVec 23) : DiscSt := ((d.stampRennet p tick arr).noteOffset p tick arr).disc

/-- RENNET_RX on a port that takes rennets: the acknowledgement, the stamp, a hello of the latency sample, and the offset. -/
theorem exec_rennetRx (p : BitVec 6) (pos : BitVec 12) (tick : BitVec 16) (mack mlast : BitVec 6) (arr : BitVec 23) (s : State) :
    exec (.rennetRx p pos tick mack mlast arr) s = act s (fun d =>
      if d.link p.toNat = 0 || d.isDrop p.toNat || d.role p.toNat = 0 || decide (2579 < pos.toNat) then d
      else
        let x := (d.takeAck p.toNat mack mlast).stampRennet p.toNat tick arr
        let y := if x.disc.flock && (smapGet none x.disc.lat p.toNat).isNone && x.helloAllowed p.toNat then x.sendHello p.toNat 15 else x
        y.noteOffset p.toNat tick arr) := rfl

section
variable (d : Die) (p : Nat) (tick : BitVec 16) (arr : BitVec 23)

/-- The stamp and the offset change what discovery holds, and nothing else. -/
theorem Die.noteOffset_stampRennet :
    (d.stampRennet p tick arr).noteOffset p tick arr = { d with disc := d.rennetDisc p tick arr } := by
  unfold Die.rennetDisc Die.noteOffset
  split <;> rfl

theorem Die.rennetDisc_parent (h : d.onParent p = true) :
    d.rennetDisc p tick arr = { (d.stampRennet p tick arr).disc with
      rnSeen := some (withinHalf (256 * d.tickCycles) (d.rennetOffset p arr)), rnWrong := tick.toNat != d.tick.count.toNat % 65536 } :=
  congrArg Die.disc (if_pos h)

theorem Die.rennetDisc_other (h : d.onParent p = false) : d.rennetDisc p tick arr = (d.stampRennet p tick arr).disc :=
  congrArg Die.disc (if_neg (ne_true_of_eq_false h))

/-- The newest stamp of the port is the rennet's. -/
theorem Die.rennetDisc_newest : (smapGet [] (d.rennetDisc p tick arr).stamps p).head? = some (tick.toNat, arr.toNat) := by
  have newest : (smapGet [] (d.stampRennet p tick arr).disc.stamps p).head? = some (tick.toNat, arr.toNat) := by simp [Die.stampRennet]
  cases h : d.onParent p with
  | true => rw [d.rennetDisc_parent p tick arr h]; exact newest
  | false => rw [d.rennetDisc_other p tick arr h]; exact newest

/-- A rennet changes the stamps, the offset seen and the mark of a wrong count alone. -/
theorem Die.rennetDisc_frame :
    d.rennetDisc p tick arr = { d.disc with stamps := (d.rennetDisc p tick arr).stamps, rnSeen := (d.rennetDisc p tick arr).rnSeen
                                            rnWrong := (d.rennetDisc p tick arr).rnWrong } := by
  cases h : d.onParent p with
  | true => rw [d.rennetDisc_parent p tick arr h]; rfl
  | false => rw [d.rennetDisc_other p tick arr h]; rfl

theorem Die.onParent_iff : d.onParent p = true ↔ d.bit R.discParentValid = true ∧ d.get R.discParentPort = p := by simp [Die.onParent]

theorem Die.takeAck_onParent (q : Nat) (mack mlast : BitVec 6) : (d.takeAck p mack mlast).onParent q = d.onParent q := by
  have away : R.discParentValid.addrOf ≠ R.portMsgMackIn.addrOf p := by
    simp only [Fld.addrOf_eq, R.discParentValid, R.portMsgMackIn, pageIndex]
    omega
  unfold Die.onParent Die.bit
  rw [d.takeAck_get p mack mlast R.discParentValid 0 0 0 away, d.takeAck_get p mack mlast R.discParentPort 0 0 0 away]

/-- The acknowledgement has no bearing on what a rennet gives. -/
theorem Die.takeAck_rennetDisc (mack mlast : BitVec 6) : (d.takeAck p mack mlast).rennetDisc p tick arr = d.rennetDisc p tick arr := by
  have parent := d.takeAck_onParent p p mack mlast
  cases h : d.onParent p with
  | true => rw [Die.rennetDisc_parent _ _ _ _ h, Die.rennetDisc_parent _ _ _ _ (parent.trans h)]; rfl
  | false => rw [Die.rennetDisc_other _ _ _ _ h, Die.rennetDisc_other _ _ _ _ (parent.trans h)]; rfl

end

section
variable (s : State) (p : BitVec 6) (pos : BitVec 12) (tick : BitVec 16) (mack mlast : BitVec 6) (arr : BitVec 23)

/-- A rennet on a TRUNK port of a die without frequency lock: the acknowledgement is taken, and discovery notes the arrival. -/
theorem becomes_rennetRx (ha : s.die.alive = true) (ht : s.die.isTrunk p.toNat = true) (hl : s.die.link p.toNat ≠ 0) (hp : pos.toNat < 2580)
    (hf : s.die.disc.flock = false) :
    Becomes (.rennetRx p pos tick mack mlast arr) s { s.die.takeAck p.toNat mack mlast with disc := s.die.rennetDisc p.toNat tick arr } := by
  refine becomes_of_act _ s _ _ (exec_rennetRx _ _ _ _ _ _ _) ha ?_
  have role : s.die.role p.toNat = 2 := by simpa [Die.isTrunk] using ht
  have taken : ¬ (s.die.link p.toNat = 0 || s.die.isDrop p.toNat || s.die.role p.toNat = 0 || decide (2579 < pos.toNat)) = true := by
    simp [hl, role, Die.isDrop, Nat.le_of_lt_succ hp]
  have unlocked : ((s.die.takeAck p.toNat mack mlast).stampRennet p.toNat tick arr).disc.flock = false := hf
  dsimp only
  rw [if_neg taken, unlocked, Bool.false_and, Bool.false_and, if_neg Bool.false_ne_true, Die.noteOffset_stampRennet, Die.takeAck_rennetDisc]

/-- A rennet on an OFF link, or with a position outside the superframe, changes nothing. -/
theorem rennetRx_ignored (ha : s.die.alive = true) (h : s.die.link p.toNat = 0 ∨ 2580 ≤ pos.toNat) :
    Becomes (.rennetRx p pos tick mack mlast arr) s s.die := by
  refine becomes_of_act _ s _ _ (exec_rennetRx _ _ _ _ _ _ _) ha (if_pos ?_)
  rcases h with off | outside
  · simp [off]
  · simp [Nat.lt_of_succ_le outside]

/-- RNFWD_RX on the acting master: the relay's arrival gives the offset by the latency of the parent's link (R280, R285). -/
theorem becomes_rnfwdRx (ha : s.die.alive = true) (hs : s.die.isStack p.toNat = true) (hm : s.die.isMaster = true)
    (hr : s.die.bit R.discParentRelay = true) (hv : s.die.bit R.discParentValid = true) :
    Becomes (.rnfwdRx p tick arr) s { s.die.heardFrom (s.die.attrOf p.toNat) with
      disc := { s.die.disc with rnSeen := some (s.die.rennetOffset (s.die.get R.discParentPort) arr)
                                rnWrong := tick.toNat != s.die.tick.count.toNat % 65536 } } := by
  refine becomes_of_act _ s _ _ rfl ha ?_
  have serves : ((s.die.heardFrom (s.die.attrOf p.toNat)).isMaster && (s.die.heardFrom (s.die.attrOf p.toNat)).bit R.discParentRelay
      && (s.die.heardFrom (s.die.attrOf p.toNat)).bit R.discParentValid) = true :=
    Bool.and_eq_true_iff.2 ⟨Bool.and_eq_true_iff.2 ⟨hm, hr⟩, hv⟩
  exact (if_neg (by simp [hs])).trans (if_pos serves)

theorem rnfwdRx_ignored (ha : s.die.alive = true) (hs : s.die.isStack p.toNat = false) : Becomes (.rnfwdRx p tick arr) s s.die :=
  becomes_of_act _ s _ _ rfl ha (if_pos (by simp [hs]))

end

/-! ### SINGLE mode (R69) -/

/-- The counter after one more tick, and a DIE_FATAL record one edge older (R68, R904). -/
def Die.tickAdvanced (d : Die) : TickSt :=
  { d.tick with count := d.tick.count + 1, fatal := if d.tick.fatal = 1 then 2 else d.tick.fatal }

theorem Die.edgeCount_eq (d : Die) :
    d.edgeCount = if d.tickAdvanced.count = 0 then { d with tick := d.tickAdvanced }.raise I.tickCountWrap else { d with tick := d.tickAdvanced } := rfl

/-- Beside the counter, the count of an edge reaches the cause of the wrap alone (R71). -/
theorem Die.edgeCount_reach (d : Die) : OnlyReports d { d.edgeCount with tick := d.tick } [I.tickCountWrap.addrOf] := by
  refine OnlyReports.tick_changed d.tickAdvanced ?_
  rw [Die.edgeCount_eq]
  split
  case isTrue wraps => exact OnlyReports.raise _ I.tickCountWrap 0 0
  case isFalse => exact OnlyReports.refl _ _

/-- A join in SINGLE mode steps the counter to the count after the one adopted, and shows LOCKED. -/
theorem Die.edgeJoin_single (d : Die) (c : BitVec 48) (h : d.disc.joinAt = some c) (hm : d.get R.cascTopoMode = 0) :
    d.edgeJoin.tick.count = c + 1 ∧ d.edgeJoin.tstate = 1 := by
  unfold Die.edgeJoin
  simp only [h]
  rw [if_pos ?mode]
  · refine ⟨rfl, ?_⟩
    refine (Die.get_set_apart _ R.discHoldTicks R.tickStatState _ _ _ _ _ _ _ (by decide) (Or.inl (by decide))).trans ?_
    exact Die.get_set _ _ _ _ _ _ (by decide)
  case mode =>
    refine (Die.get_set_apart _ R.discHoldTicks R.cascTopoMode _ _ _ _ _ _ _ (by decide) (Or.inl (by decide))).trans ?_
    exact (Die.get_set_apart _ R.tickStatState R.cascTopoMode _ _ _ _ _ _ _ (by decide) (Or.inl (by decide))).trans hm

/-- A node in SINGLE mode that adopts the count before 0 starts at 0 at its next edge. -/
theorem Die.edgeCount_edgeJoin_single (d : Die) (h : d.disc.joinAt = some (BitVec.allOnes 48)) (hm : d.get R.cascTopoMode = 0) :
    d.edgeCount.edgeJoin.tick.count = 0 ∧ d.edgeCount.edgeJoin.tstate = 1 := by
  have reach := d.edgeCount_reach
  have joins : d.edgeCount.disc.joinAt = some (BitVec.allOnes 48) := (congrArg DiscSt.joinAt reach.units.disc).trans h
  exact d.edgeCount.edgeJoin_single _ joins ((reach.get R.cascTopoMode 0 0 0 (by decide)).trans hm)

/-! ### The count that a child adopts (R284) -/

section
variable (d : Die) (p frag : Nat)

theorem Die.hf_lt (lsb w : Nat) : d.hf p frag lsb w < 2 ^ w := fieldGet_lt _ _ _

/-- A fragment's dword is its upper half above its lower half. -/
theorem Die.hf_halves : d.hf p frag 0 32 = d.hf p frag 16 16 * 65536 + d.hf p frag 0 16 := by
  have bound := (((smapGet none (d.port p).hello frag).getD 0) : BitVec 32).isLt
  simp only [Die.hf, fieldGet]
  omega

end

/-- Bits 47:16 of the parent's counter, from CNT_HI and CNT_LO (R284). -/
def Die.parentHigh (d : Die) (p : Nat) : Nat := d.hf p 12 0 16 * 65536 + d.hf p 11 16 16

/-- The count that a child adopts: the parent's bits 47:16 above RN_TICK, and 2^16 more when RN_TICK is below CNT_LO (R284). -/
def Die.adopted (d : Die) (p rn : Nat) : BitVec 48 :=
  BitVec.ofNat 48 (d.parentHigh p * 65536 + rn + (if rn < d.hf p 11 0 16 then 65536 else 0))

section
variable (d : Die) (p : Nat) {rn : Nat} (hr : rn < 65536)

/-- Above their low 16 bits, CNT_HI and CNT_LO give the bits 47:16. -/
theorem Die.parentCount_high : (d.hf p 12 0 16 * 2 ^ 32 + d.hf p 11 0 32) / 65536 = d.parentHigh p := by
  have low := d.hf_lt p 11 0 16
  rw [Die.hf_halves, Die.parentHigh]
  omega

/-- The low 16 bits are those of CNT_LO. -/
theorem Die.parentCount_low : (d.hf p 12 0 16 * 2 ^ 32 + d.hf p 11 0 32) % 65536 = d.hf p 11 0 16 := by
  have low := d.hf_lt p 11 0 16
  rw [Die.hf_halves]
  omega

include hr

/-- Bits 15:0 of the adopted count are RN_TICK. -/
theorem Die.adopted_low : (d.adopted p rn).toNat % 65536 = rn := by
  rw [Die.adopted, BitVec.toNat_ofNat]
  split <;> omega

/-- Bits 47:16 of the adopted count are the parent's when RN_TICK is not below CNT_LO. -/
theorem Die.adopted_high (h : d.hf p 11 0 16 ≤ rn) : (d.adopted p rn).toNat / 65536 = d.parentHigh p := by
  have high := d.hf_lt p 12 0 16
  have low := d.hf_lt p 11 16 16
  rw [Die.adopted, BitVec.toNat_ofNat, if_neg (Nat.not_lt.2 h), Die.parentHigh]
  omega

end

/-! ### JOIN_ALIGN (R69, R284) -/

/-- An acting master in SINGLE mode that is FORMED and not locked adopts the count before 0. -/
theorem becomes_joinAlign_single (s : State) (ha : s.die.alive = true) (ht : s.die.get R.cascTopoMode = 0) (hm : s.die.isMaster = true)
    (hf : s.die.get R.cascStatState = 1) (hs : s.die.tstate = 0) :
    Becomes .joinAlign s { s.die with disc := { s.die.disc with joinAt := some (BitVec.allOnes 48) } } :=
  becomes_of_act _ s _ _ rfl ha ((if_pos ⟨ht, hm⟩).trans (if_pos ⟨hf, hs⟩))

/-- A child that has measured its links adopts the count of its parent's newest rennet. -/
theorem becomes_joinAlign_child (s : State) (rn arr : Nat) (ha : s.die.alive = true) (ht : s.die.get R.cascTopoMode ≠ 0) (hp : s.die.phase = 6)
    (hv : s.die.bit R.discParentValid = true) (hs : (smapGet [] s.die.disc.stamps (s.die.get R.discParentPort)).head? = some (rn, arr)) :
    Becomes .joinAlign s { s.die with disc := { s.die.disc with joinAt := some (s.die.adopted (s.die.get R.discParentPort) rn) } } := by
  refine becomes_of_act _ s _ _ rfl ha ?_
  obtain ⟨older, newest⟩ := List.head?_eq_some_iff.1 hs
  dsimp only
  rw [if_neg (fun h => ht h.1), if_pos ⟨hp, hv⟩, newest, Die.parentCount_high, Die.parentCount_low]
  rfl

/-! ### The statement -/

/-- Settles O27: each command through the lemma about the die that it ends with. -/
theorem rennetGivesOffset : Obligations.RennetGivesOffset := by
  refine fun s p pos tick mack mlast arr ha => ⟨?stamped, fun h => ?ignored, fun hs hm hr hv => ?relayed, fun h => ?notStack,
    fun ht hm hf hs => ?single, fun ht hp hv hs => ?child⟩
  case stamped =>
    intro ht hl hp hf
    refine ⟨_, becomes_rennetRx s p pos tick mack mlast arr ha ht hl hp hf, ?_, ?_, ?_, ?_, ?_, ?_, ?_⟩
    · exact s.die.rennetDisc_newest _ _ _
    · exact s.die.takeAck_mlastIn _ _ _
    · exact s.die.takeAck_mackIn _ _ _
    · split
      case isTrue h =>
        rw [s.die.rennetDisc_parent _ tick arr ((s.die.onParent_iff _).2 h)]
        exact ⟨rfl, withinHalf_sub_emod _ _, rfl, withinHalf_bounds⟩
      case isFalse h =>
        rw [s.die.rennetDisc_other _ tick arr (eq_false_of_ne_true (mt (s.die.onParent_iff _).1 h))]
        exact ⟨rfl, rfl⟩
    · exact s.die.rennetDisc_frame _ _ _
    · exact s.die.takeAck_otherPorts _ _ _
    · exact s.die.takeAck_reach _ _ _
  case ignored => exact rennetRx_ignored s p pos tick mack mlast arr ha h
  case relayed => exact becomes_rnfwdRx s p tick arr ha hs hm hr hv
  case notStack => exact rnfwdRx_ignored s p tick arr ha h
  case single =>
    exact ⟨_, becomes_joinAlign_single s ha ht hm hf hs, rfl, Die.edgeCount_edgeJoin_single _ rfl ht⟩
  case child =>
    exact ⟨_, becomes_joinAlign_child s _ _ ha ht hp hv hs, OnlyRegs.refl _ _, rfl, rfl, s.die.adopted_low _ tick.isLt,
      s.die.adopted_high _ tick.isLt⟩

end Sys2Proof.Machine
end

section
/-!
PROOF. What the cascade's effects share: the fence map of dies and the ranks that follow it (R134, R754, R914), a run-down that ends in a fence (R149,
R985), and effects that are repeated.
-/
namespace Sys2Proof.Machine

/-! ### Frames -/

section
variable {d e f : Die} {as bs : List Nat}

/-- Two effects on the tick and on registers, one after the other. -/
theorem OnlyRegs.trans_tick (h : OnlyRegs d { e with tick := d.tick } as) (k : OnlyRegs e { f with tick := e.tick } bs) :
    OnlyRegs d { f with tick := d.tick } (as ++ bs) :=
  h.trans { k with units := { k.units with tick := rfl } }

/-- An effect on the tick and on registers after logged records. -/
theorem OnlyLogs.trans_tick (h : OnlyLogs d e as) (k : OnlyRegs e { f with tick := e.tick } bs) (m : R.errlogCfgMirror.addrOf ∉ as) :
    OnlyLogs d { f with tick := d.tick } (as ++ bs) := by
  rw [← h.units.tick]
  exact h.trans k.reports.logs m

theorem OnlyRegs.err_tick {x : TickSt} (h : OnlyRegs d { e with tick := x } as) : e.err = d.err := h.err

/-- A cause whose dword is not listed keeps its state, whatever becomes of the tick. -/
theorem OnlyRegs.hasCause_tick {x : TickSt} (h : OnlyRegs d { e with tick := x } as) (q : Irq) (i : Nat) (hq : q.addrOf i ∉ as) :
    e.hasCause q i = d.hasCause q i := h.reports.hasCause q i hq

/-- A report after an effect that the switch and the fingerprint have a part in. -/
theorem OnlyReports.trans_sw_det (h : OnlyReports d { e with sw := d.sw, det := d.det } as) (k : OnlyReports e f bs) :
    OnlyReports d { f with sw := d.sw, det := d.det } (as ++ bs) :=
  h.trans { k with units := { k.units with sw := rfl, det := rfl } }

/-- A logged record after an effect that the switch and the fingerprint have a part in. -/
theorem OnlyLogs.trans_sw_det (h : OnlyLogs d { e with sw := d.sw, det := d.det } as) (k : OnlyLogs e f bs) (m : R.errlogCfgMirror.addrOf ∉ as) :
    OnlyLogs d { f with sw := d.sw, det := d.det } (as ++ bs) :=
  h.trans { k with units := { k.units with sw := rfl, det := rfl } } m

/-- A field outside the dwords listed keeps its value, whatever becomes of the fingerprint. -/
theorem OnlyReports.get_det {x : DetSt} (h : OnlyReports d { e with det := x } as) (g : Fld) (i j k : Nat) (hg : g.addrOf i j ∉ as) :
    e.get g i j k = d.get g i j k := h.get g i j k hg

theorem OnlyReports.casc_sw_det {x : SwitchSt} {y : DetSt} (h : OnlyReports d { e with sw := x, det := y } as) : e.casc = d.casc := h.units.casc

theorem OnlyReports.err_sw_det {x : SwitchSt} {y : DetSt} (h : OnlyReports d { e with sw := x, det := y } as) : e.err = d.err := h.err

end

/-- An effect repeated for each member of a list reaches no further than once. -/
theorem OnlyLogs.forAll {α : Type} {f : Die → α → Die} {as : List Nat} (hm : R.errlogCfgMirror.addrOf ∉ as) (h : ∀ d x, OnlyLogs d (f d x) as)
    (l : List α) (d : Die) : OnlyLogs d (d.forAll l f) as := by
  induction l generalizing d with
  | nil => exact OnlyLogs.refl d as
  | cons x r ih => exact ((h d x).trans (ih (f d x)) hm).mono (by simp)

/-- A record stands in the error log, whatever else of the dies differs. -/
theorem Logged.of_err {d d' e e' : Die} {page code sev : Nat} (h : Logged d e page code sev) (hd : d.err = d'.err) (he : e'.err = e.err) :
    Logged d' e' page code sev := by
  unfold Logged at h ⊢
  rwa [he, ← hd]

theorem Die.pos_lt (d : Die) : d.pos < 4 := d.get_lt R.chipStrapCascPos 0 0 0

theorem Die.master_lt (d : Die) : d.master < 4 := d.get_lt R.cascStatMaster 0 0 0

/-! ### The fingerprint and the fence map at a change (R754, R914) -/

/-- The dwords that the change of a fence map shows in: the CHIP page's causes, and DET.FP_GEN and FP_TICK. -/
def fenceChgAddrs : List Nat := [I.chipFenceChg.addrOf, R.detFpGen.addrOf, R.detFpTickLo.addrOf, R.detFpTickHi.addrOf, R.detFpPending.addrOf]

theorem Die.fpTouch_reach (d : Die) :
    OnlyRegs d { d.fpTouch with det := d.det } [R.detFpGen.addrOf, R.detFpTickLo.addrOf, R.detFpTickHi.addrOf, R.detFpPending.addrOf] := by
  unfold Die.fpTouch
  extract_lets now same x y
  have stamp : OnlyRegs d x [R.detFpGen.addrOf, R.detFpTickLo.addrOf, R.detFpTickHi.addrOf] := by
    unfold x
    split
    case isTrue => exact OnlyRegs.refl d _
    case isFalse => exact ((OnlyRegs.set _ _ _ _ _ _).trans (OnlyRegs.set _ _ _ _ _ _)).trans (OnlyRegs.set _ _ _ _ _ _)
  have pending : OnlyRegs d y _ := stamp.trans (OnlyRegs.setBit x R.detFpPending true 0 0 0)
  clear_value y
  exact { pending with units := { pending.units with det := rfl } }

theorem Die.fenceChanged_reach (d : Die) : OnlyReports d { d.fenceChanged with det := d.det } fenceChgAddrs := by
  have touch := (d.raise I.chipFenceChg).fpTouch_reach.reports
  rw [Die.raise_det] at touch
  exact (OnlyReports.raise d I.chipFenceChg 0 0).trans touch

theorem Die.get_fenceChanged (d : Die) (g : Fld) (i j k : Nat) (h : g.addrOf i j ∉ fenceChgAddrs) : d.fenceChanged.get g i j k = d.get g i j k :=
  d.fenceChanged_reach.get_det g i j k h

/-! ### The standby ranks (R134) -/

/-- The fields that show the standby and the rank. -/
def rankFields : List Fld := [R.cascStatHasStby, R.cascStatStby, R.cascHbRank]

/-- Ranking writes the three fields that show the ranks. -/
theorem Die.rerank_eq (d : Die) : ∃ b v r, d.rerank = ((d.setBit R.cascStatHasStby b).set R.cascStatStby v).set R.cascHbRank r := by
  unfold Die.rerank
  extract_lets f order
  clear_value order
  cases order with
  | nil => exact ⟨_, _, _, rfl⟩
  | cons x r => exact ⟨_, _, _, rfl⟩

theorem Die.rerank_reach (d : Die) : OnlyRegs d d.rerank [R.cascStatPresent.addrOf, R.cascHbRank.addrOf] := by
  obtain ⟨b, v, r, ranked⟩ := d.rerank_eq
  rw [ranked]
  exact (((OnlyRegs.setBit _ _ _ _ _ _).trans (OnlyRegs.set _ _ _ _ _ _)).trans (OnlyRegs.set _ _ _ _ _ _)).mono (by decide)

theorem Die.get_rerank (d : Die) (g : Fld) (i j k : Nat) (h : ∀ f ∈ rankFields, (f.loc 0 0 0).apart (g.loc i j k)) :
    d.rerank.get g i j k = d.get g i j k := by
  obtain ⟨b, v, r, ranked⟩ := d.rerank_eq
  simp only [rankFields, List.forall_mem_cons] at h
  obtain ⟨hasStby, stby, rank, -⟩ := h
  rw [ranked, Die.get_set_apart _ _ _ _ _ _ _ _ _ _ (by decide) rank, Die.get_set_apart _ _ _ _ _ _ _ _ _ _ (by decide) stby]
  exact Die.get_set_apart _ _ _ _ _ _ _ _ _ _ (by decide) hasStby

/-- The maps of dies and the acting master share no bit with the ranks. -/
theorem apart_rankFields : ∀ g ∈ [R.chipFenceDies, R.cascStatPresent, R.cascStatMaster], ∀ f ∈ rankFields, (f.loc 0 0 0).apart (g.loc 0 0 0) := by
  unfold Loc.apart
  decide

/-! ### One die is fenced (R132, R914) -/

/-- The maps of fenced and of present dies after a die is fenced. -/
def Die.markFenced (d : Die) (x : Nat) : Die :=
  (d.set R.chipFenceDies (d.get R.chipFenceDies ||| 2 ^ x)).set R.cascStatPresent (d.get R.cascStatPresent &&& (15 - 2 ^ x))

section
variable (d : Die) (x : Nat)

/-- A die is fenced: the two maps, the node credits that lapse, the change and the ranks. -/
theorem Die.fenceDie_eq : ∃ y : SwitchSt, d.fenceDie x = ({ d.markFenced x with sw := y } : Die).fenceChanged.rerank := by
  have kept : (d.set R.chipFenceDies (d.get R.chipFenceDies ||| 2 ^ x)).get R.cascStatPresent = d.get R.cascStatPresent :=
    Die.get_set_apart _ _ _ _ _ _ _ _ _ _ (by decide) (Or.inl (by decide))
  unfold Die.fenceDie Die.markFenced
  rw [← kept]
  exact ⟨_, rfl⟩

theorem Die.markFenced_reach : OnlyRegs d (d.markFenced x) [R.chipFenceDies.addrOf, R.cascStatPresent.addrOf] :=
  (OnlyRegs.set _ _ _ _ _ _).trans (OnlyRegs.set _ _ _ _ _ _)

/-- What fencing a die reaches, put together from the maps `m`, the credits `n`, the change `z` and the ranks `e`. -/
theorem OnlyReports.fences {m n z e : Die} {y : SwitchSt} (hm : OnlyRegs d m [R.chipFenceDies.addrOf, R.cascStatPresent.addrOf])
    (hn : n = { m with sw := y }) (hz : OnlyReports n { z with det := n.det } fenceChgAddrs)
    (he : OnlyRegs z e [R.cascStatPresent.addrOf, R.cascHbRank.addrOf]) :
    OnlyReports d { e with sw := d.sw, det := d.det } fenceAddrs := by
  subst hn
  have total := (hm.reports.trans ((hz.trans (he.reports.det_put m.det)).sw_changed y)).mono (bs := fenceAddrs) (by decide)
  exact { total with units := { total.units with sw := rfl, det := rfl } }

theorem Die.fenceDie_reach : OnlyReports d { d.fenceDie x with sw := d.sw, det := d.det } fenceAddrs := by
  obtain ⟨y, fenced⟩ := d.fenceDie_eq x
  rw [fenced]
  exact OnlyReports.fences d (d.markFenced_reach x) rfl (Die.fenceChanged_reach _) (Die.rerank_reach _)

theorem Die.fenceDie_casc : (d.fenceDie x).casc = d.casc :=
  OnlyReports.casc_sw_det (e := d.fenceDie x) (x := d.sw) (y := d.det) (d.fenceDie_reach x)

theorem Die.fenceDie_err : (d.fenceDie x).err = d.err :=
  OnlyReports.err_sw_det (e := d.fenceDie x) (x := d.sw) (y := d.det) (d.fenceDie_reach x)

/-- A field apart from the ranks, the causes and the fingerprint is what the maps made of it. -/
theorem Die.get_fenceDie (g : Fld) (i j k : Nat) (hr : ∀ f ∈ rankFields, (f.loc 0 0 0).apart (g.loc i j k)) (hc : g.addrOf i j ∉ fenceChgAddrs) :
    (d.fenceDie x).get g i j k = (d.markFenced x).get g i j k := by
  obtain ⟨y, fenced⟩ := d.fenceDie_eq x
  rw [fenced, Die.get_rerank _ g i j k hr, Die.get_fenceChanged _ g i j k hc]
  rfl

theorem Die.fenceDie_fences : (d.fenceDie x).get R.chipFenceDies = (d.get R.chipFenceDies ||| 2 ^ x) % 2 ^ 4 := by
  rw [Die.get_fenceDie _ _ _ _ _ _ (apart_rankFields _ (by simp)) (by decide), Die.markFenced,
    Die.get_set_apart _ _ _ _ _ _ _ _ _ _ (by decide) (Or.inl (by decide))]
  exact Die.get_set _ _ _ _ _ _ (by decide)

theorem Die.fenceDie_presents : (d.fenceDie x).get R.cascStatPresent = (d.get R.cascStatPresent &&& (15 - 2 ^ x)) % 2 ^ 4 := by
  rw [Die.get_fenceDie _ _ _ _ _ _ (apart_rankFields _ (by simp)) (by decide), Die.markFenced]
  exact Die.get_set _ _ _ _ _ _ (by decide)

theorem Die.fenceDie_master : (d.fenceDie x).master = d.master := by
  unfold Die.master
  rw [Die.get_fenceDie _ _ _ _ _ _ (apart_rankFields _ (by simp)) (by decide), Die.markFenced,
    Die.get_set_apart _ _ _ _ _ _ _ _ _ _ (by decide) (Or.inr (by decide))]
  exact Die.get_set_apart _ _ _ _ _ _ _ _ _ _ (by decide) (Or.inl (by decide))

theorem Die.dieFenced_eq (y : Nat) : d.dieFenced y = (d.get R.chipFenceDies).testBit y := by
  simp [Die.dieFenced, Nat.testBit_eq_decide_div_mod_eq, beq_eq_decide]

theorem Die.diePresent_eq (y : Nat) : d.diePresent y = (d.get R.cascStatPresent).testBit y := by
  simp [Die.diePresent, Nat.testBit_eq_decide_div_mod_eq, beq_eq_decide]

variable {x} (hx : x < 4)
include hx

/-- The fenced dies are one more. -/
theorem Die.dieFenced_fenceDie (y : Nat) : (d.fenceDie x).dieFenced y = (decide (y = x) || d.dieFenced y) := by
  have four : d.get R.chipFenceDies = d.get R.chipFenceDies % 2 ^ 4 := (Nat.mod_eq_of_lt (d.get_lt R.chipFenceDies 0 0 0)).symm
  rw [Die.dieFenced_eq, Die.dieFenced_eq, Die.fenceDie_fences, four]
  simp only [Nat.testBit_mod_two_pow, Nat.testBit_or, Nat.testBit_two_pow]
  by_cases h : y = x
  · simp [h, hx]
  · simp [h, Ne.symm h]

/-- The present dies are without it. -/
theorem Die.diePresent_fenceDie (y : Nat) : (d.fenceDie x).diePresent y = (decide (y ≠ x) && d.diePresent y) := by
  have four : d.get R.cascStatPresent = d.get R.cascStatPresent % 2 ^ 4 := (Nat.mod_eq_of_lt (d.get_lt R.cascStatPresent 0 0 0)).symm
  have others : 15 - 2 ^ x = 2 ^ 4 - (2 ^ x + 1) := by omega
  have below : 2 ^ x < 2 ^ 4 := Nat.pow_lt_pow_right (by decide) hx
  rw [Die.diePresent_eq, Die.diePresent_eq, Die.fenceDie_presents, four, others]
  simp only [Nat.testBit_mod_two_pow, Nat.testBit_and, Nat.testBit_two_pow_sub_succ below, Nat.testBit_two_pow]
  by_cases h : y = x
  · simp [h]
  · by_cases hy : y < 4
    · simp [h, Ne.symm h, hy]
    · simp [hy]

end

/-! ### A run-down of the die that ends in its fence (R149, R985) -/

/-- The die runs down, and is to be fenced at the end. -/
def Die.fenceRundown (d : Die) : Die :=
  (d.startRundown .die (d.unitBound .die)).setRundown .die
    { (d.startRundown .die (d.unitBound .die)).rundown .die with fence := true, reopen := false }

/-- The run-down of the die once it has started. -/
def Die.closingDie (d : Die) : RunDown :=
  if (d.rundown .die).phase = .run then
    { d.rundown .die with phase := .closing, bound := d.unitBound .die, cleared := false, reopen := false }
  else d.rundown .die

section
variable (d : Die)

/-- A start changes the entry of its unit alone: it closes a unit in service. -/
theorem Die.startRundown_reach (u : UnitId) (b : Nat) : OnlyRegs d { d.startRundown u b with tick := d.tick } (shownAt u) := by
  unfold Die.startRundown
  dsimp only
  split
  case isTrue => exact OnlyRegs.setRundown d u _
  case isFalse => exact OnlyRegs.refl d _

theorem Die.startRundown_tick (u : UnitId) (b : Nat) : (d.startRundown u b).tick = { d.tick with rundown := (d.startRundown u b).tick.rundown } := by
  unfold Die.startRundown
  dsimp only
  split
  case isTrue => rw [Die.setRundown_tick]
  case isFalse => rfl

theorem Die.rundown_startRundown_die (v : UnitId) :
    (d.startRundown .die (d.unitBound .die)).rundown v = if v = .die then d.closingDie else d.rundown v := by
  unfold Die.startRundown Die.closingDie
  dsimp only
  split
  case isTrue => rw [Die.rundown_setRundown]
  case isFalse =>
    split
    case isTrue h => rw [h]
    case isFalse => rfl

theorem Die.fenceRundown_reach : OnlyRegs d { d.fenceRundown with tick := d.tick } (shownAt .die) :=
  ((d.startRundown_reach .die (d.unitBound .die)).trans_tick (OnlyRegs.setRundown _ _ _)).mono (by simp)

/-- The die's run-down is to fence it, and every other unit's is as it was. -/
theorem Die.fenceRundown_changes : ChangesRundown d d.fenceRundown .die { d.closingDie with fence := true, reopen := false } := by
  refine ⟨?_, fun v hv => ?_, ?_⟩
  · rw [Die.fenceRundown, Die.rundown_setRundown, if_pos rfl, Die.rundown_startRundown_die, if_pos rfl]
  · rw [Die.fenceRundown, Die.rundown_setRundown, if_neg hv, Die.rundown_startRundown_die, if_neg hv]
  · rw [Die.fenceRundown, Die.setRundown_tick, Die.startRundown_tick]

/-- The run-downs are part of the tick's state. -/
theorem ChangesRundown.of_tick {d d' e : Die} {u : UnitId} {r : RunDown} (h : ChangesRundown d e u r) (ht : d.tick = d'.tick) :
    ChangesRundown d' e u r := by
  unfold ChangesRundown Die.rundown at h ⊢
  rwa [ht] at h

/-- The die's bound depends on its plans, its place and the vats' logical numbers alone. -/
theorem Die.unitBound_die_congr {d e : Die} (hp : e.plans = d.plans) (hc : e.get R.discCoordXyz = d.get R.discCoordXyz) (hs : e.pos = d.pos)
    (hl : ∀ v, e.get R.vatStatLogical v = d.get R.vatStatLogical v) (hv : ∀ v, e.get R.vatStatLvalid v = d.get R.vatStatLvalid v) :
    e.unitBound .die = d.unitBound .die := by
  simp only [Die.unitBound, Die.portPlans, Die.vatPlans, Die.plansIn, Die.onThisDie, Die.selfNode, Die.bit, hp, hc, hs, hl, hv]

end

end Sys2Proof.Machine
end

section
/-!
PROOF. Formation of the node, and the ends of forwarded reads (R131 to R133, R135, R142, R143, R911).
-/
namespace Sys2Proof.Machine

/-! ### Refusal (R135) -/

theorem Die.refusalCause_lt (d : Die) (gap : Bool) : d.refusalCause gap < 16 := by
  unfold Die.refusalCause
  extract_lets hs
  split_ifs <;> decide

/-- Without a refusal cause the die's position is within the configured dies. -/
theorem Die.pos_le_of_refusalCause (d : Die) (gap : Bool) (h : d.refusalCause gap = 0) : d.pos ≤ d.get R.cascCfgDies := by
  by_contra beyond
  revert h
  unfold Die.refusalCause
  extract_lets hs
  rw [if_pos (c := (decide (d.get R.cascCfgDies < d.pos) || _) = true) (by simp [Nat.lt_of_not_le beyond])]
  split_ifs <;> decide

/-- The node is refused: its state and the cause show, the refusal is logged as UNIT_FATAL, and its cause is set. -/
theorem Die.refuseNode_shows (d : Die) {c : Nat} (hc : c < 16) :
    (d.refuseNode c).get R.cascStatState = 2 ∧ (d.refuseNode c).get R.cascStatCause = c ∧ Logged d (d.refuseNode c) (pageIndex .casc 0) 0x0200 2
      ∧ (d.refuseNode c).hasCause I.cascRefused = true
      ∧ OnlyLogs d (d.refuseNode c) [R.cascStatState.addrOf, I.cascRefused.addrOf] := by
  unfold Die.refuseNode
  have shown : OnlyRegs d ((d.set R.cascStatState 2).set R.cascStatCause c) [R.cascStatState.addrOf] :=
    ((OnlyRegs.set d R.cascStatState 2 0 0 0).trans (OnlyRegs.set _ R.cascStatCause c 0 0 0)).mono (by decide)
  have state : ((d.set R.cascStatState 2).set R.cascStatCause c).get R.cascStatState = 2 :=
    (Die.get_set_apart _ _ _ _ _ _ _ _ _ _ (by decide) (Or.inr (by decide))).trans (Die.get_set d _ _ _ _ _ (by decide))
  have cause : ((d.set R.cascStatState 2).set R.cascStatCause c).get R.cascStatCause = c :=
    (Die.get_set _ _ _ _ _ _ (by decide)).trans (Nat.mod_eq_of_lt hc)
  generalize (d.set R.cascStatState 2).set R.cascStatCause c = x at shown state cause
  obtain ⟨reach, logged⟩ := x.logErr_reach .casc 0 0x0200 2 (leBytes 1 c) none false none
  generalize x.logErr .casc 0 0x0200 2 (leBytes 1 c) = y at reach logged
  have report := reach.tr0 (OnlyReports.raise y I.cascRefused 0 0).logs
  refine ⟨?_, ?_, logged.of_err shown.err (Die.raise_err _ _ _ _), Die.hasCause_raise y _ _ _ (by decide), shown.reports.logs.trans report (by decide)⟩
  · exact (report.get _ _ _ _ (by decide) (by decide)).trans state
  · exact (report.get _ _ _ _ (by decide) (by decide)).trans cause

/-! ### The mask of present dies (R132) -/

/-- The mask of a list of positions. -/
def maskOf (l : List Nat) : Nat := l.foldl (fun m x => m + 2 ^ x) 0

/-- The mask of some of the first `n` positions has their bits alone. -/
theorem maskOf_filter_range (q : Nat → Bool) (n : Nat) :
    maskOf ((List.range n).filter q) < 2 ^ n ∧ ∀ i, (maskOf ((List.range n).filter q)).testBit i = (decide (i < n) && q i) := by
  induction n with
  | zero => simp [maskOf]
  | succ n ih =>
    obtain ⟨bound, bits⟩ := ih
    have next : maskOf ((List.range (n + 1)).filter q) = maskOf ((List.range n).filter q) + if q n then 2 ^ n else 0 := by
      cases h : q n <;> simp [maskOf, List.range_succ, h]
    have double : 2 ^ (n + 1) = 2 * 2 ^ n := by ring
    rw [next]
    cases h : q n with
    | false =>
      refine ⟨by simp only [Bool.false_eq_true, if_false]; omega, fun i => ?_⟩
      by_cases hi : i = n
      · simp [bits, hi, h]
      · have same : i < n + 1 ↔ i < n := by omega
        simp [bits, same]
    | true =>
      refine ⟨by simp only [if_true]; omega, fun i => ?_⟩
      have above := Nat.testBit_two_pow_mul_add 1 bound i
      rw [mul_one, Nat.add_comm] at above
      rw [if_pos rfl, above, bits]
      by_cases hi : i = n
      · simp [hi, h]
      · by_cases hl : i < n
        · simp [hl, Nat.lt_succ_of_lt hl]
        · have beyond : ¬ i < n + 1 := by omega
          have bit : Nat.testBit 1 (i - n) = false := by
            obtain ⟨k, hk⟩ : ∃ k, i - n = k + 1 := ⟨i - n - 1, by omega⟩
            simp [hk, Nat.testBit_succ]
          simp [hl, beyond, bit]

/-! ### Announcement (R131, R132) -/

/-- The configured dies that are present: this one, and those heard. -/
def Die.presentDies (d : Die) : List Nat :=
  (List.range (d.get R.cascCfgDies + 1)).filter (fun x => x == d.pos || d.heard.any (fun h => h.1 == x))

/-- The configured dies that are not. -/
def Die.missingDies (d : Die) : List Nat := (List.range (d.get R.cascCfgDies + 1)).filter (fun x => !d.presentDies.contains x)

/-- A missing die is fenced and logged. -/
def Die.fenceMissing (d : Die) (x : Nat) : Die :=
  ((d.set R.chipFenceDies (d.get R.chipFenceDies ||| 2 ^ x)).logErr .casc 0 0x0201 1 (leBytes 1 x)).raise I.cascDieMissing

/-- All missing dies are fenced and logged, and the fence map has changed where there are some. -/
def Die.fenceAllMissing (d : Die) (l : List Nat) : Die :=
  if l.isEmpty then d.forAll l Die.fenceMissing else (d.forAll l Die.fenceMissing).fenceChanged

theorem Die.announce_eq (d : Die) (a : Nat) :
    d.announce a = { (d.set R.cascStatMaster a).fenceAllMissing d.missingDies with
      casc := { ((d.set R.cascStatMaster a).fenceAllMissing d.missingDies).casc with announced := some (BitVec.ofNat 4 (maskOf d.presentDies)) } } := rfl

theorem Die.fenceMissing_reach (d : Die) (x : Nat) : OnlyLogs d (d.fenceMissing x) [R.chipFenceDies.addrOf, I.cascDieMissing.addrOf] := by
  have marked := (OnlyRegs.set d R.chipFenceDies (d.get R.chipFenceDies ||| 2 ^ x) 0 0 0).reports.logs
  obtain ⟨reach, -⟩ := (d.set R.chipFenceDies (d.get R.chipFenceDies ||| 2 ^ x)).logErr_reach .casc 0 0x0201 1 (leBytes 1 x) none false none
  exact marked.trans (reach.tr0 (OnlyReports.raise _ I.cascDieMissing 0 0).logs) (by decide)

theorem Die.fenceAllMissing_reach (d : Die) (l : List Nat) :
    OnlyLogs d { d.fenceAllMissing l with det := d.det } (R.chipFenceDies.addrOf :: I.cascDieMissing.addrOf :: fenceChgAddrs) := by
  have missing : OnlyLogs d (d.forAll l Die.fenceMissing) [R.chipFenceDies.addrOf, I.cascDieMissing.addrOf] :=
    OnlyLogs.forAll (by decide) Die.fenceMissing_reach l d
  have same : (d.forAll l Die.fenceMissing).det = d.det := missing.units.det
  unfold Die.fenceAllMissing
  split
  case isTrue =>
    rw [← same]
    exact missing.mono (by simp)
  case isFalse =>
    have changed := (d.forAll l Die.fenceMissing).fenceChanged_reach.logs
    rw [same] at changed
    exact missing.trans changed (by decide)

section
variable (d : Die) (a : Nat)

theorem Die.announce_casc : (d.announce a).casc = { d.casc with announced := some (BitVec.ofNat 4 (maskOf d.presentDies)) } := by
  have same : ((d.set R.cascStatMaster a).fenceAllMissing d.missingDies).casc = d.casc := (Die.fenceAllMissing_reach _ _).units.casc
  rw [Die.announce_eq, same]

/-- An announcement fences and logs the missing dies, and names the acting master. -/
theorem Die.announce_reach : OnlyLogs d { d.announce a with casc := d.casc, det := d.det } (fenceAddrs ++ [I.cascDieMissing.addrOf]) := by
  have named := (OnlyRegs.set d R.cascStatMaster a 0 0 0).reports.logs
  have missing := (d.set R.cascStatMaster a).fenceAllMissing_reach d.missingDies
  have total := (named.trans missing (by decide)).mono (bs := fenceAddrs ++ [I.cascDieMissing.addrOf]) (by decide)
  rw [Die.announce_eq]
  exact { total with units := { total.units with casc := rfl } }

theorem Die.announce_master {a : Nat} (ha : a < 4) : (d.announce a).get R.cascStatMaster = a := by
  have missing := (d.set R.cascStatMaster a).fenceAllMissing_reach d.missingDies
  have kept := missing.get R.cascStatMaster 0 0 0 (by decide) (by decide)
  rw [Die.announce_eq]
  generalize (d.set R.cascStatMaster a).fenceAllMissing d.missingDies = e at kept ⊢
  exact (kept.trans (Die.get_set d R.cascStatMaster a 0 0 0 (by decide))).trans (Nat.mod_eq_of_lt ha)

/-- The mask holds this die, where it is one of those configured. -/
theorem Die.getLsbD_presentDies (h : d.pos ≤ d.get R.cascCfgDies) : (BitVec.ofNat 4 (maskOf d.presentDies)).getLsbD d.pos = true := by
  have within : d.pos < d.get R.cascCfgDies + 1 := Nat.lt_succ_of_le h
  rw [BitVec.getLsbD_ofNat, Die.presentDies, (maskOf_filter_range _ _).2]
  simp [d.pos_lt, within]

end

/-! ### The end of formation (R131, R133) -/

section
variable (d : Die) (gap : Bool)

theorem Die.formNode_refused (h : d.refusalCause gap ≠ 0) : d.formNode gap = d.refuseNode (d.refusalCause gap) := by
  unfold Die.formNode
  split
  case h_1 none => exact absurd none h
  case h_2 => rfl

theorem Die.formNode_announced (h : d.refusalCause gap = 0) : d.formNode gap = d.announce d.pos := by
  unfold Die.formNode
  split
  case h_1 => rfl
  case h_2 none => exact absurd h none

/-- A command that ends formation: a refusal cause refuses the node, and without one it is announced. -/
theorem ends_formation (i : Instr) (s : State) (f : Die → Die) (hi : exec i s = act s f) (ha : s.die.alive = true)
    (hf : f s.die = s.die.formNode gap) :
    (s.die.refusalCause gap ≠ 0 → Completes i s (fun e =>
      e.get R.cascStatState = 2 ∧ e.get R.cascStatCause = s.die.refusalCause gap ∧ Logged s.die e (pageIndex .casc 0) 0x0200 2
        ∧ e.hasCause I.cascRefused = true ∧ OnlyLogs s.die e [R.cascStatState.addrOf, I.cascRefused.addrOf])) ∧
    (s.die.refusalCause gap = 0 → Completes i s (fun e =>
      e.get R.cascStatMaster = s.die.pos ∧ (∃ m : BitVec 4, e.casc = { s.die.casc with announced := some m } ∧ m.getLsbD s.die.pos = true)
        ∧ OnlyLogs s.die { e with casc := s.die.casc, det := s.die.det } (fenceAddrs ++ [I.cascDieMissing.addrOf]))) := by
  refine ⟨fun h => completes_of_act i s f _ hi ha ?_, fun h => completes_of_act i s f _ hi ha ?_⟩
  · rw [hf, s.die.formNode_refused gap h]
    exact s.die.refuseNode_shows (s.die.refusalCause_lt gap)
  · rw [hf, s.die.formNode_announced gap h]
    exact ⟨s.die.announce_master s.die.pos_lt,
      ⟨_, s.die.announce_casc _, s.die.getLsbD_presentDies (s.die.pos_le_of_refusalCause gap h)⟩, s.die.announce_reach _⟩

end

/-! ### Forwarded reads (R142, R143, R911) -/

/-- A forwarded access is over. -/
def Die.retireForward (d : Die) (f : FwdAcc) : Die :=
  { d with casc := { d.casc with forwarded := d.casc.forwarded.filter (fun g => g.tag != f.tag) } }

/-- A forwarded access that no answer came to: it is shown, logged and answered as Unsupported Request (R143). -/
def Die.loseForward (d : Die) (f : FwdAcc) : Die :=
  ((((d.retireForward f).setBit R.cascErrFwdTimeout true).logErr .casc 0 0x0202 1 (leBytes 1 f.die ++ leBytes 4 f.addr)).raise I.cascFwdLost).emit
    (.answer f.cls f.addr .ur [])

theorem Die.loseForward_shows (d : Die) (f : FwdAcc) :
    (d.loseForward f).casc = (d.retireForward f).casc ∧ (d.loseForward f).get R.cascErrFwdTimeout = 1
      ∧ (d.loseForward f).hasCause I.cascFwdLost = true
      ∧ Logged d (d.loseForward f) (pageIndex .casc 0) 0x0202 1 ∧ (d.loseForward f).out.getLast? = some (.answer f.cls f.addr .ur [])
      ∧ OnlyLogs d { d.loseForward f with casc := d.casc } [R.cascErrFwdTimeout.addrOf, I.cascFwdLost.addrOf] := by
  unfold Die.loseForward
  have shown := OnlyRegs.setBit (d.retireForward f) R.cascErrFwdTimeout true 0 0 0
  have timeout : ((d.retireForward f).setBit R.cascErrFwdTimeout true).get R.cascErrFwdTimeout = 1 := Die.get_set _ _ _ _ _ _ (by decide)
  generalize (d.retireForward f).setBit R.cascErrFwdTimeout true = x at shown timeout
  obtain ⟨reach, logged⟩ := x.logErr_reach .casc 0 0x0202 1 (leBytes 1 f.die ++ leBytes 4 f.addr) none false none
  generalize x.logErr .casc 0 0x0202 1 (leBytes 1 f.die ++ leBytes 4 f.addr) = y at reach logged
  have report := reach.tr0 ((OnlyReports.raise y I.cascFwdLost 0 0).trans (OnlyReports.emit _ (.answer f.cls f.addr .ur []))).logs
  have total := shown.reports.logs.trans report (by decide)
  exact ⟨total.units.casc, (report.get _ _ _ _ (by decide) (by decide)).trans timeout, Die.hasCause_raise y _ _ _ (by decide),
    logged.of_err shown.err (Die.raise_err y _ _ _), List.getLast?_concat .., (total.casc_changed _).mono (by simp)⟩

section
variable (s : State) (tag : BitVec 16) (ep : BitVec 8) (data : List Byte) (f : FwdAcc) (ha : s.die.alive = true)
include ha

theorem fwdReadComplete_stale (he : ep.toNat ≠ s.die.hget R.hdrEpoch .casc) :
    Becomes (.fwdReadComplete tag ep data none) s (s.die.bump R.errlogStale) :=
  becomes_of_act _ s _ _ rfl ha (if_pos he)

variable (hf : s.die.casc.forwarded.find? (fun f => f.tag == tag.toNat) = some f)
include hf

theorem fwdReadComplete_answers (he : ep.toNat = s.die.hget R.hdrEpoch .casc) :
    Becomes (.fwdReadComplete tag ep data none) s ((s.die.retireForward f).emit (.answer f.cls f.addr .ok (data.take f.len))) := by
  refine becomes_of_act _ s _ _ rfl ha ?_
  dsimp only
  rw [if_neg (not_not_intro he), hf]
  rfl

theorem cascFwdLost_loses (ht : 16 ≤ f.ticks) : Becomes (.cascFwdLost tag) s (s.die.loseForward f) := by
  refine becomes_of_act _ s _ _ rfl ha ?_
  dsimp only
  rw [hf]
  exact if_neg (Nat.not_lt.2 ht)

end

/-! ### The statement -/

/-- Settles O18: both commands that end formation run the same end of it, and a forwarded read ends through the lemma of its command. -/
theorem formationAndForwarding : Obligations.FormationAndForwarding := by
  refine ⟨fun s gap ha hf => ⟨fun hp => ?window, fun hp hh => ?acting⟩,
    fun s tag ep data f ha => ⟨fun he => ?stale, fun hf => ⟨fun he => fwdReadComplete_answers s tag ep data f ha hf he, fun ht => ?lost⟩⟩⟩
  case window =>
    exact ends_formation gap _ s _ rfl ha (if_pos (by simp [hf, hp]))
  case acting =>
    exact ends_formation false _ s _ rfl ha (if_pos (by simp [hf, hp, hh]))
  case stale =>
    exact ⟨_, fwdReadComplete_stale s tag ep data ha he, Die.get_bump _ _ _ _ _ (by decide), OnlyReports.bump _ _ _ _ _⟩
  case lost =>
    exact ⟨_, cascFwdLost_loses s tag f ha hf ht, s.die.loseForward_shows f⟩

end Sys2Proof.Machine
end

section
/-!
PROOF. Heartbeats, takeover, isolation and lost dies (R134, R146, R148 to R150, R323, R904, R914).
-/
namespace Sys2Proof.Machine

/-! ### Heartbeats (R146, R148, R323) -/

theorem Die.forAll_emit {α : Type} (g : α → Out) (l : List α) (d : Die) :
    d.forAll l (fun d x => d.emit (g x)) = { d with out := d.out ++ l.map g } := by
  induction l generalizing d with
  | nil => simp [Die.forAll]
  | cons x r ih => exact (ih (d.emit (g x))).trans (by simp [Die.emit])

/-- The ports that a heartbeat from one port is relayed to: the other STACK ports that are ACTIVE. -/
def Die.relayPorts (d : Die) (p : Nat) : List Nat := (List.range 64).filter (fun q => d.isStack q && d.link q == 2 && q != p)

theorem Die.beat_eq (d : Die) (x p : Nat) :
    d.beat x (some p) = { d with out := d.out ++ (d.relayPorts p).map (fun q => Out.heartbeat q x) } := by
  have except (q : Nat) : (some q != some p) = (q != p) := by simp [bne]
  simp only [Die.beat, Die.portsWith, Die.forAll_emit, Die.relayPorts, except]

/-- A follower notes a heartbeat: both miss counts are 0. -/
def Die.noteBeat (d : Die) (x : Nat) : Die :=
  (({ d.heardFrom x with casc := { (d.heardFrom x).casc with hbSeen := true } } : Die).set R.cascHbMiss 0).set R.cascHbMaMiss 0

section
variable (d : Die) (x : Nat)

theorem Die.noteBeat_casc : (d.noteBeat x).casc = { d.casc with hbSeen := true, silent := smapSet 0 d.casc.silent x 0 } := rfl

theorem Die.noteBeat_reach : OnlyRegs d { d.noteBeat x with casc := d.casc } [R.cascHbMiss.addrOf] :=
  (((OnlyRegs.set _ R.cascHbMiss 0 0 0 0).trans (OnlyRegs.set _ R.cascHbMaMiss 0 0 0 0)).casc_changed _).mono (by decide)

theorem Die.noteBeat_miss : (d.noteBeat x).get R.cascHbMiss = 0 :=
  (Die.get_set_apart _ _ _ _ _ _ _ _ _ _ (by decide) (Or.inr (by decide))).trans (Die.get_set _ _ _ _ _ _ (by decide))

theorem Die.noteBeat_maMiss : (d.noteBeat x).get R.cascHbMaMiss = 0 := Die.get_set _ _ _ _ _ _ (by decide)

/-- What leaves the die has no bearing on what a noted heartbeat shows. -/
theorem OnlyRegs.noted {d e : Die} {c : CascSt} (hc : e.casc = c) (hm : e.get R.cascHbMiss = 0) (ha : e.get R.cascHbMaMiss = 0)
    (hr : OnlyRegs d { e with casc := d.casc } [R.cascHbMiss.addrOf]) (o : List Out) :
    let f : Die := { e with out := o }
    f.get R.cascHbMiss = 0 ∧ f.get R.cascHbMaMiss = 0 ∧ f.casc = c ∧ f.out = o
      ∧ OnlyRegs d { f with casc := d.casc, out := d.out } [R.cascHbMiss.addrOf] :=
  ⟨hm, ha, hc, rfl, { hr with units := { hr.units with casc := rfl }, out := rfl }⟩

/-- The counts have no bearing on where a heartbeat is relayed. -/
theorem Die.noteBeat_relayPorts (p : Nat) : (d.noteBeat x).relayPorts p = d.relayPorts p := by
  have link (q : Nat) : (d.noteBeat x).link q = d.link q := by
    have away : R.portLinkState.addrOf q ∉ [R.cascHbMiss.addrOf] := by
      simp only [Fld.addrOf_eq, R.portLinkState, R.cascHbMiss, pageIndex, List.mem_singleton]
      omega
    have kept := (d.noteBeat_reach x).get R.portLinkState q 0 0 away
    generalize d.noteBeat x = e at kept ⊢
    exact kept
  simp only [Die.relayPorts, link]
  rfl

/-- The first heartbeat of a tick is relayed, and every one is noted. -/
theorem Die.relayBeat_eq (p m : Nat) :
    (if !d.casc.hbSeen then (d.noteBeat x).beat m (some p) else d.noteBeat x)
      = { d.noteBeat x with out := d.out ++ if d.casc.hbSeen then [] else (d.relayPorts p).map (fun q => Out.heartbeat q m) } := by
  have out : (d.noteBeat x).out = d.out := rfl
  rw [Die.beat_eq, Die.noteBeat_relayPorts, out]
  cases d.casc.hbSeen with
  | true =>
    rw [if_pos rfl, List.append_nil, ← out]
    rfl
  | false => rfl

end

section
variable (s : State) (p : BitVec 6) (x : BitVec 2) (ha : s.die.alive = true)
include ha

theorem hbeatRx_fenced (hx : s.die.dieFenced x.toNat = true) : Becomes (.hbeatRx p x) s s.die :=
  becomes_of_act _ s _ _ rfl ha (if_pos (by simp [hx]))

/-- A heartbeat of the acting master reaches a follower: it is noted, and relayed where it is the tick's first. -/
theorem hbeatRx_noted (hp : s.die.isStack p.toNat = true) (hx : s.die.dieFenced x.toNat = false) (hs : s.die.get R.cascStatState = 1)
    (hm : x.toNat = s.die.master) (hi : s.die.isMaster = false) :
    Becomes (.hbeatRx p x) s { s.die.noteBeat (s.die.attrOf p.toNat) with
      out := s.die.out ++ if s.die.casc.hbSeen then [] else (s.die.relayPorts p.toNat).map (fun q => Out.heartbeat q x.toNat) } := by
  refine becomes_of_act _ s _ _ rfl ha ?_
  have taken : ¬ (!s.die.isStack p.toNat || s.die.dieFenced x.toNat) = true := by simp [hp, hx]
  have formed : ((s.die.heardFrom (s.die.attrOf p.toNat)).forming && (s.die.heardFrom (s.die.attrOf p.toNat)).pos != x.toNat) = false := by
    have state : (s.die.heardFrom (s.die.attrOf p.toNat)).get R.cascStatState = 1 := hs
    simp [Die.forming, state]
  have follows : (decide (x.toNat = (s.die.heardFrom (s.die.attrOf p.toNat)).master) && !(s.die.heardFrom (s.die.attrOf p.toNat)).isMaster
      && (s.die.heardFrom (s.die.attrOf p.toNat)).get R.cascStatState == 1) = true :=
    Bool.and_eq_true_iff.2 ⟨Bool.and_eq_true_iff.2 ⟨decide_eq_true hm, congrArg not hi⟩, beq_iff_eq.2 hs⟩
  dsimp only
  rw [if_neg taken, formed, if_neg Bool.false_ne_true, if_pos follows]
  exact s.die.relayBeat_eq _ p.toNat x.toNat

end

/-! ### Takeover (R134, R148, R150) -/

/-- A takeover shows: TAKEOVER, both miss counts 0, and the cause. -/
def Die.raiseTakeover (d : Die) : Die := (((d.setBit R.cascHbTakeover true).set R.cascHbMiss 0).set R.cascHbMaMiss 0).raise I.cascTakeover

section
variable (d : Die)

theorem Die.raiseTakeover_reach : OnlyReports d d.raiseTakeover [R.cascHbRank.addrOf, I.cascTakeover.addrOf] := by
  have counts := ((OnlyRegs.setBit d R.cascHbTakeover true 0 0 0).trans (OnlyRegs.set _ R.cascHbMiss 0 0 0 0)).trans
    (OnlyRegs.set _ R.cascHbMaMiss 0 0 0 0)
  exact (counts.reports.trans (OnlyReports.raise _ I.cascTakeover 0 0)).mono (by decide)

theorem Die.raiseTakeover_counts :
    d.raiseTakeover.get R.cascHbTakeover = 1 ∧ d.raiseTakeover.get R.cascHbMiss = 0 ∧ d.raiseTakeover.get R.cascHbMaMiss = 0 := by
  have raised (f : Fld) (h : f.addrOf ≠ I.cascTakeover.addrOf) :
      d.raiseTakeover.get f = (((d.setBit R.cascHbTakeover true).set R.cascHbMiss 0).set R.cascHbMaMiss 0).get f :=
    Die.get_raise _ I.cascTakeover 0 0 f 0 0 0 h
  refine ⟨?_, ?_, ?_⟩
  · rw [raised _ (by decide), Die.get_set_apart _ _ _ _ _ _ _ _ _ _ (by decide) (Or.inr (by decide)),
      Die.get_set_apart _ _ _ _ _ _ _ _ _ _ (by decide) (Or.inr (by decide))]
    exact Die.get_set _ _ _ _ _ _ (by decide)
  · rw [raised _ (by decide), Die.get_set_apart _ _ _ _ _ _ _ _ _ _ (by decide) (Or.inr (by decide))]
    exact Die.get_set _ _ _ _ _ _ (by decide)
  · rw [raised _ (by decide)]
    exact Die.get_set _ _ _ _ _ _ (by decide)

theorem Die.raiseTakeover_cause : d.raiseTakeover.hasCause I.cascTakeover = true := Die.hasCause_raise _ I.cascTakeover 0 0 (by decide)

end

/-- A takeover names this die, fences the old master, and shows. -/
def Die.actAsMaster (d : Die) : Die := ((d.set R.cascStatMaster d.pos).fenceDie d.master).raiseTakeover

theorem Die.takeOverNode_eq (d : Die) :
    d.takeOverNode = { d.actAsMaster with casc := { d.actAsMaster.casc with silent := [] } } := rfl

/-- What a takeover makes of the die `d`: this die acts, and the old master is fenced. -/
structure TakenOver (d e : Die) : Prop where
  master : e.get R.cascStatMaster = d.pos
  fenced : e.dieFenced d.master = true
  gone : e.diePresent d.master = false
  takeover : e.get R.cascHbTakeover = 1
  miss : e.get R.cascHbMiss = 0
  maMiss : e.get R.cascHbMaMiss = 0
  cause : e.hasCause I.cascTakeover = true
  casc : e.casc = d.casc
  reach : OnlyReports d { e with sw := d.sw, det := d.det } (fenceAddrs ++ [I.cascTakeover.addrOf])

theorem Die.actAsMaster_takesOver (d : Die) : TakenOver d d.actAsMaster := by
  unfold Die.actAsMaster
  have acts := (OnlyRegs.set d R.cascStatMaster d.pos 0 0 0).reports
  have named : (d.set R.cascStatMaster d.pos).master = d.pos :=
    (Die.get_set d R.cascStatMaster d.pos 0 0 0 (by decide)).trans (Nat.mod_eq_of_lt d.pos_lt)
  have master := ((d.set R.cascStatMaster d.pos).fenceDie_master d.master).trans named
  have fenced := (d.set R.cascStatMaster d.pos).dieFenced_fenceDie d.master_lt d.master
  have gone := (d.set R.cascStatMaster d.pos).diePresent_fenceDie d.master_lt d.master
  have casc := (d.set R.cascStatMaster d.pos).fenceDie_casc d.master
  have shown := ((d.set R.cascStatMaster d.pos).fenceDie d.master).raiseTakeover_reach
  have total := acts.trans (((d.set R.cascStatMaster d.pos).fenceDie_reach d.master).trans_sw_det shown)
  obtain ⟨takeover, miss, maMiss⟩ := ((d.set R.cascStatMaster d.pos).fenceDie d.master).raiseTakeover_counts
  have kept : ∀ f ∈ [R.cascStatMaster, R.chipFenceDies, R.cascStatPresent], f.addrOf ∉ [R.cascHbRank.addrOf, I.cascTakeover.addrOf] := by decide
  exact
    { master := (shown.get _ _ _ _ (kept _ (by simp))).trans master
      fenced := by
        unfold Die.dieFenced
        rw [shown.get _ _ _ _ (kept _ (by simp))]
        exact fenced.trans (by simp)
      gone := by
        unfold Die.diePresent
        rw [shown.get _ _ _ _ (kept _ (by simp))]
        exact gone.trans (by simp)
      takeover := takeover
      miss := miss
      maMiss := maMiss
      cause := Die.raiseTakeover_cause _
      casc := shown.units.casc.trans casc
      reach := total.mono (by decide) }

/-- The counts of silence start again with a takeover. -/
theorem TakenOver.silent {d e : Die} (h : TakenOver d e) :
    let f : Die := { e with casc := { e.casc with silent := [] } }
    f.get R.cascStatMaster = d.pos ∧ f.dieFenced d.master = true ∧ f.diePresent d.master = false ∧ f.get R.cascHbTakeover = 1
      ∧ f.get R.cascHbMiss = 0 ∧ f.get R.cascHbMaMiss = 0 ∧ f.hasCause I.cascTakeover = true ∧ f.casc = { d.casc with silent := [] }
      ∧ OnlyReports d { f with casc := d.casc, sw := d.sw, det := d.det } (fenceAddrs ++ [I.cascTakeover.addrOf]) :=
  ⟨h.master, h.fenced, h.gone, h.takeover, h.miss, h.maMiss, h.cause, by rw [h.casc],
    { h.reach with units := { h.reach.units with casc := rfl } }⟩

theorem masterTakeover_takes (s : State) (ha : s.die.alive = true) (hb : s.die.beatsGone = true) (hm : s.die.maliveLives = false) :
    Becomes .masterTakeover s s.die.takeOverNode := becomes_of_act _ s _ _ rfl ha (if_pos (by simp [hb, hm]))

/-! ### Isolation (R149) -/

/-- A vat's STAT is none of the dwords that isolation reports in. -/
theorem vatStat_away (v : Nat) : 0x1000 * (0xA0 + v) + 0x40 ∉ [I.cascIsolated.addrOf] ∧ 0x1000 * (0xA0 + v) + 0x40 ∉ logAddrs := by
  have logged : ∀ a ∈ I.cascIsolated.addrOf :: logAddrs, a < 0xA0000 := by decide
  have beyond : ¬ 0x1000 * (0xA0 + v) + 0x40 < 0xA0000 := by omega
  exact ⟨fun h => beyond (logged _ (List.mem_cons.2 (Or.inl (List.mem_singleton.1 h)))), fun h => beyond (logged _ (List.mem_cons.2 (Or.inr h)))⟩

section
variable (d : Die)

theorem Die.isolate_eq : d.isolate = ((d.logErr .casc 0 0x0203 2).raise I.cascIsolated).fenceRundown := rfl

/-- A log of the isolation leaves what the die's run-down starts from. -/
theorem OnlyLogs.closingDie {d e : Die} (h : OnlyLogs d e [I.cascIsolated.addrOf]) : e.closingDie = d.closingDie := by
  have bound : e.unitBound .die = d.unitBound .die :=
    Die.unitBound_die_congr h.units.plans (h.get _ _ _ _ (by decide) (by decide)) (h.get _ _ _ _ (by decide) (by decide))
      (fun v => h.get _ _ _ _ (vatStat_away v).1 (vatStat_away v).2) (fun v => h.get _ _ _ _ (vatStat_away v).1 (vatStat_away v).2)
  unfold Die.closingDie Die.rundown
  rw [bound, h.units.tick]

/-- A die that is cut off logs CASC_ISOLATED and runs down to be fenced. -/
theorem Die.isolate_shows :
    Logged d d.isolate (pageIndex .casc 0) 0x0203 2 ∧ d.isolate.hasCause I.cascIsolated = true
      ∧ ChangesRundown d d.isolate .die { d.closingDie with fence := true, reopen := false }
      ∧ OnlyLogs d { d.isolate with tick := d.tick } ([I.cascIsolated.addrOf] ++ shownAt .die) := by
  rw [Die.isolate_eq]
  obtain ⟨reach, logged⟩ := d.logErr_reach .casc 0 0x0203 2 [] none false none
  have report := reach.tr0 (OnlyReports.raise (d.logErr .casc 0 0x0203 2) I.cascIsolated 0 0).logs
  have err := Die.raise_err (d.logErr .casc 0 0x0203 2) I.cascIsolated 0 0
  have cause := Die.hasCause_raise (d.logErr .casc 0 0x0203 2) I.cascIsolated 0 0 (by decide)
  generalize (d.logErr .casc 0 0x0203 2).raise I.cascIsolated = x at report err cause
  have changes := x.fenceRundown_changes
  rw [report.closingDie] at changes
  exact ⟨logged.of_err rfl (x.fenceRundown_reach.err_tick.trans err), (x.fenceRundown_reach.hasCause_tick _ _ (by decide)).trans cause,
    changes.of_tick report.units.tick, report.trans_tick x.fenceRundown_reach (by decide)⟩

end

theorem cascIsolated_isolates (s : State) (ha : s.die.alive = true) (hb : s.die.beatsGone = true) (hm : s.die.maliveLives = true)
    (hf : (s.die.rundown .die).fence = false) : Becomes .cascIsolated s s.die.isolate :=
  becomes_of_act _ s _ _ rfl ha (if_pos (by simp [hb, hm, hf]))

/-! ### A silent follower (R904, R914) -/

/-- A die that is lost is fenced, alone, and logged as CONTAINED. -/
theorem Die.logLost_shows (d : Die) {x : Nat} (hx : x < 4) :
    let e := (d.fenceDie x).logErr .casc 0 0x0205 1 (leBytes 1 x)
    e.dieFenced x = true ∧ e.diePresent x = false ∧ Logged d e (pageIndex .casc 0) 0x0205 1
      ∧ (∀ y, y ≠ x → e.dieFenced y = d.dieFenced y ∧ e.diePresent y = d.diePresent y)
      ∧ OnlyLogs d { e with sw := d.sw, det := d.det } fenceAddrs := by
  obtain ⟨reach, logged⟩ := (d.fenceDie x).logErr_reach .casc 0 0x0205 1 (leBytes 1 x) none false none
  have total := (d.fenceDie_reach x).logs.trans_sw_det reach (by decide)
  have fences (y : Nat) : ((d.fenceDie x).logErr .casc 0 0x0205 1 (leBytes 1 x)).dieFenced y = (decide (y = x) || d.dieFenced y) := by
    rw [← d.dieFenced_fenceDie hx, Die.dieFenced, Die.dieFenced, reach.get _ _ _ _ (by decide) (by decide)]
  have presents (y : Nat) : ((d.fenceDie x).logErr .casc 0 0x0205 1 (leBytes 1 x)).diePresent y = (decide (y ≠ x) && d.diePresent y) := by
    rw [← d.diePresent_fenceDie hx, Die.diePresent, Die.diePresent, reach.get _ _ _ _ (by decide) (by decide)]
  exact ⟨by simp [fences], by simp [presents], logged.of_err (d.fenceDie_err x) rfl, fun y hy => by simp [fences, presents, hy],
    total.mono (by simp)⟩

theorem cascDieLost_loses (s : State) (x : BitVec 2) (ha : s.die.alive = true) (hs : s.die.get R.cascStatState = 1) (hm : s.die.isMaster = true)
    (hx : x.toNat ≠ s.die.pos) (hp : s.die.diePresent x.toNat = true) (hq : 8 ≤ smapGet 0 s.die.casc.silent x.toNat) :
    Becomes (.cascDieLost x) s ((s.die.fenceDie x.toNat).logErr .casc 0 0x0205 1 (leBytes 1 x.toNat)) :=
  becomes_of_act _ s _ _ rfl ha (if_pos ⟨hs, hm, hx, hp, hq⟩)

/-! ### The statement -/

/-- Settles O19: each command by the die that it ends with, and what that die shows. -/
theorem heartbeatsAndLostDies : Obligations.HeartbeatsAndLostDies := by
  refine ⟨fun s p x ha hp => ⟨hbeatRx_fenced s p x ha, fun hx hs hm hi => ?noted⟩,
    fun s ha hb => ⟨fun hm => ⟨_, masterTakeover_takes s ha hb hm, ?takeover⟩, fun hm hr hf => ⟨_, cascIsolated_isolates s ha hb hm hf, ?isolated⟩⟩,
    fun s x ha hs hm hx hp hq => ⟨_, cascDieLost_loses s x ha hs hm hx hp hq, s.die.logLost_shows x.isLt⟩⟩
  case noted =>
    exact ⟨_, hbeatRx_noted s p x ha hp hx hs hm hi,
      OnlyRegs.noted (s.die.noteBeat_casc _) (s.die.noteBeat_miss _) (s.die.noteBeat_maMiss _) (s.die.noteBeat_reach _) _⟩
  case takeover =>
    rw [Die.takeOverNode_eq]
    exact s.die.actAsMaster_takesOver.silent
  case isolated =>
    obtain ⟨logged, cause, changes, reach⟩ := s.die.isolate_shows
    rw [Die.closingDie, if_pos hr] at changes
    exact ⟨logged, cause, changes, reach⟩

end Sys2Proof.Machine
end

section
/-!
PROOF. The test port and the pins (R147, R806, R984, R985, R989 to R992), and THERM# (R1048).
-/
namespace Sys2Proof.Machine

/-! ### The test port (R806, R984, R985) -/

/-- A command whose meaning is `actRaw f` ends with exactly `f`'s die, whether the die runs or not. -/
theorem becomes_of_actRaw (i : Instr) (s : State) (f : Die → Die) (e : Die) (h : exec i s = actRaw s f) (he : f s.die = e) : Becomes i s e := by
  rw [Becomes, h, ← he]
  rfl

/-- The instruction that a load leaves in the TAP: BYPASS for one that does not exist while debug is locked (R806). -/
def Die.loadedIr (d : Die) (ir : JtagIr) : JtagIr := if ir = .other ∧ d.debugOpen = false then .bypass else ir

/-- Does the instruction drive the pins of a die that runs (R985)? -/
def Die.drivesPins (d : Die) (ir : JtagIr) : Prop := d.alive = true ∧ (ir = .extest ∨ ir = .extestPulse ∨ ir = .extestTrain)

theorem exec_jtagIrUpdate (ir : JtagIr) (s : State) :
    exec (.jtagIrUpdate ir) s = actRaw s (fun d =>
      let x : Die := { d with smb := { d.smb with jtag := if ir = .other ∧ !d.debugOpen then .bypass else ir } }
      if x.alive ∧ (ir = .extest ∨ ir = .extestPulse ∨ ir = .extestTrain) then x.fenceRundown else x) := rfl

section
variable (s : State) (ir : JtagIr)

theorem jtagIrUpdate_loads (h : ¬ s.die.drivesPins ir) :
    Becomes (.jtagIrUpdate ir) s { s.die with smb := { s.die.smb with jtag := s.die.loadedIr ir } } := by
  refine becomes_of_actRaw _ s _ _ (exec_jtagIrUpdate ir s) ?_
  have locked : (!s.die.debugOpen) = true ↔ s.die.debugOpen = false := by simp
  dsimp only
  simp only [locked]
  exact if_neg h

theorem jtagIrUpdate_drives (h : s.die.drivesPins ir) :
    Becomes (.jtagIrUpdate ir) s ({ s.die with smb := { s.die.smb with jtag := ir } } : Die).fenceRundown := by
  refine becomes_of_actRaw _ s _ _ (exec_jtagIrUpdate ir s) ?_
  have known : ¬ (ir = .other ∧ (!s.die.debugOpen) = true) := by
    rintro ⟨rfl, -⟩
    simpa [Die.drivesPins] using h.2
  dsimp only
  rw [if_neg known]
  exact if_pos h

end

/-- What a run-down that ends in the fence shows, of a die whose test port has changed. -/
theorem OnlyRegs.fenceRundown {d x e : Die} {r : RunDown} {as : List Nat} {y : SmbSt} (hx : x = { d with smb := y })
    (hc : ChangesRundown x e .die { r with fence := true, reopen := false }) (hr : OnlyRegs x { e with tick := x.tick } as) :
    e.smb = y ∧ (e.rundown .die).fence = true ∧ (e.rundown .die).phase = r.phase ∧ (e.rundown .die).bound = r.bound
      ∧ OnlyRegs d { e with smb := d.smb, tick := d.tick } as := by
  subst hx
  obtain ⟨die, -, -⟩ := hc
  rw [die]
  exact ⟨hr.units.smb, rfl, rfl, rfl, { hr with units := { hr.units with smb := rfl, tick := rfl } }⟩

section
variable (d : Die)

theorem Die.closingDie_phase : d.closingDie.phase ≠ .run := by
  unfold Die.closingDie
  split
  case isTrue => simp
  case isFalse h => exact h

theorem Die.closingDie_run (h : (d.rundown .die).phase = .run) : d.closingDie.phase = .closing ∧ d.closingDie.bound = d.unitBound .die := by
  unfold Die.closingDie
  rw [if_pos h]
  exact ⟨rfl, rfl⟩

end

/-! ### GPIO.FUNC (R989, R990, R992) -/

/-- Field `j` of a write to GPIO.FUNC. -/
def pinVal (w : Word) (j : Nat) : Nat := fieldGet w (4 * j) 4

/-- The claims and releases that the first `m` fields of a write ask for. -/
def Die.pinAsks (d : Die) (c : Cls) (reg : Nat) (w : Word) (m : Nat) : List (Nat × Nat × Cls) :=
  ((List.range m).filter (fun j => decide (pinVal w j < 9) && pinVal w j != d.pinFunc (8 * reg + j))).map (fun j => (8 * reg + j, pinVal w j, c))

/-- Is one of the first `m` fields a reserved code (R19)? -/
def pinBad (w : Word) (m : Nat) : Bool := (List.range m).any (fun j => decide (9 ≤ pinVal w j))

/-- One field of the write. -/
def Die.pinField (d : Die) (c : Cls) (reg : Nat) (w : Word) (j : Nat) : Die :=
  if 9 ≤ pinVal w j then d.accErr .gpio 0 c true (0x1000 * pageIndex .gpio 0 + 0x40 + 4 * reg) .code
  else if pinVal w j = d.pinFunc (8 * reg + j) then d
  else { d with own := { d.own with pinAsk := d.own.pinAsk ++ [(8 * reg + j, pinVal w j, c)] } }

theorem Die.gpioFuncWrite_eq (d : Die) (c : Cls) (reg : Nat) (w : Word) :
    d.gpioFuncWrite c reg w = d.forAll (List.range 8) (fun d j => d.pinField c reg w j) := rfl

/-- The die `e` after the first `m` fields of a write to GPIO.FUNC, from the die `d`. -/
structure PinsAsked (d e : Die) (c : Cls) (reg : Nat) (w : Word) (m : Nat) : Prop where
  own : e.own = { d.own with pinAsk := d.own.pinAsk ++ d.pinAsks c reg w m }
  reach : OnlyReports d { e with own := d.own } (accAddrs .gpio 0)
  shown : pinBad w m = true → e.hget R.hdrStatAccessErr .gpio = 1
  good : pinBad w m = false → OnlyRegs d { e with own := d.own } []

section
variable {d e : Die} {c : Cls} {reg : Nat} {w : Word} {m : Nat}

theorem pinBad_succ : pinBad w (m + 1) = (pinBad w m || decide (9 ≤ pinVal w m)) := by
  simp [pinBad, List.range_succ]

theorem Die.pinAsks_succ : d.pinAsks c reg w (m + 1) = d.pinAsks c reg w m
    ++ if pinVal w m < 9 ∧ pinVal w m ≠ d.pinFunc (8 * reg + m) then [(8 * reg + m, pinVal w m, c)] else [] := by
  unfold Die.pinAsks
  rw [List.range_succ, List.filter_append, List.map_append]
  congr 1
  by_cases h : pinVal w m < 9 ∧ pinVal w m ≠ d.pinFunc (8 * reg + m)
  · rw [if_pos h]
    simp [h.1, h.2]
  · rw [if_neg h]
    simpa using h

/-- GPIO.FUNC is none of the dwords that an access error changes. -/
theorem gpioFunc_away (j : Nat) : R.gpioFunc.addrOf 0 j ∉ accAddrs .gpio 0 := by
  rw [mem_accAddrs, Fld.addrOf_eq]
  simp only [R.gpioFunc, pageIndex]
  omega

theorem OnlyReports.get_own {as : List Nat} {x : OwnSt} (h : OnlyReports d { e with own := x } as) (g : Fld) (i j k : Nat) (hg : g.addrOf i j ∉ as) :
    e.get g i j k = d.get g i j k := h.get g i j k hg

theorem OnlyReports.trans_own {f : Die} {as bs : List Nat} (h : OnlyReports d { e with own := d.own } as) (k : OnlyReports e f bs) :
    OnlyReports d { f with own := d.own } (as ++ bs) := h.trans { k with units := { k.units with own := rfl } }

variable (h : PinsAsked d e c reg w m)
include h

theorem PinsAsked.pinFunc (n : Nat) : e.pinFunc n = d.pinFunc n := h.reach.get_own _ _ _ _ (gpioFunc_away _)

/-- A reserved code is an access error. -/
theorem PinsAsked.refused (hv : 9 ≤ pinVal w m) (a : Nat) : PinsAsked d (e.accErr .gpio 0 c true a .code) c reg w (m + 1) where
  own := by
    rw [Die.accErr_own, h.own, Die.pinAsks_succ, if_neg (fun k => Nat.not_lt.2 hv k.1), List.append_nil]
  reach := (h.reach.trans_own (OnlyReports.accErr e .gpio 0 c true a .code)).mono (by simp [accAddrs])
  shown _ := Die.accErr_shown _ _ _ _ _ _ _
  good hb := by simp [pinBad_succ, hv] at hb

/-- A field that names the pin's function leaves it. -/
theorem PinsAsked.same (hv : pinVal w m < 9) (hf : pinVal w m = d.pinFunc (8 * reg + m)) : PinsAsked d e c reg w (m + 1) where
  own := by rw [h.own, Die.pinAsks_succ, if_neg (fun k => k.2 hf), List.append_nil]
  reach := h.reach
  shown hb := h.shown (by simpa [pinBad_succ, Nat.not_le.2 hv] using hb)
  good hb := h.good (by simpa [pinBad_succ, Nat.not_le.2 hv] using hb)

/-- Another field joins those that wait for the edge. -/
theorem PinsAsked.asks (hv : pinVal w m < 9) (hf : pinVal w m ≠ d.pinFunc (8 * reg + m)) :
    PinsAsked d { e with own := { e.own with pinAsk := e.own.pinAsk ++ [(8 * reg + m, pinVal w m, c)] } } c reg w (m + 1) where
  own := by
    rw [Die.pinAsks_succ, if_pos ⟨hv, hf⟩]
    simp [h.own]
  reach := h.reach
  shown hb := h.shown (by simpa [pinBad_succ, Nat.not_le.2 hv] using hb)
  good hb := h.good (by simpa [pinBad_succ, Nat.not_le.2 hv] using hb)

theorem PinsAsked.succ : PinsAsked d (e.pinField c reg w m) c reg w (m + 1) := by
  unfold Die.pinField
  split
  case isTrue reserved => exact h.refused reserved _
  case isFalse known =>
    rw [h.pinFunc]
    split
    case isTrue same => exact h.same (Nat.lt_of_not_le known) same
    case isFalse other => exact h.asks (Nat.lt_of_not_le known) other

end

/-- The first `m` fields of a write, one after another. -/
theorem pinsAsked (d : Die) (c : Cls) (reg : Nat) (w : Word) (m : Nat) :
    PinsAsked d (d.forAll (List.range m) (fun d j => d.pinField c reg w j)) c reg w m := by
  induction m with
  | zero => exact ⟨by simp [Die.forAll, Die.pinAsks], OnlyReports.refl d _, fun hb => by simp [pinBad] at hb, fun _ => OnlyRegs.refl d _⟩
  | succ m ih =>
    have last : d.forAll (List.range (m + 1)) (fun d j => d.pinField c reg w j)
        = (d.forAll (List.range m) (fun d j => d.pinField c reg w j)).pinField c reg w m := by
      simp [Die.forAll, List.range_succ]
    rw [last]
    exact ih.succ

/-! ### Edges of pins (R147, R989) -/

/-- GPIO.IN with a pin at its new level. -/
def Die.setPin (d : Die) (n : Nat) (level : Bool) : Die :=
  d.set R.gpioIn (if level then d.get R.gpioIn + 2 ^ n else d.get R.gpioIn - 2 ^ n)

/-- Is the pin one that software watches for this edge? -/
def Die.watches (d : Die) (n : Nat) (level : Bool) : Prop := d.pinFunc n = 1 ∧ d.get R.gpioEdge 0 0 n / (if level then 1 else 2) % 2 = 1

section
variable (d : Die) (n : Nat) (level : Bool)

theorem Die.pinChange_same (h : (d.get R.gpioIn / 2 ^ n % 2 == 1) = level) : d.pinChange n level = d := by
  unfold Die.pinChange
  exact if_pos h

theorem Die.setPin_reach : OnlyRegs d (d.setPin n level) [R.gpioIn.addrOf] := OnlyRegs.set _ _ _ _ _ _

/-- The pin shows the level that it did not have. -/
theorem Die.setPin_level (hn : n < 16) (h : (d.get R.gpioIn / 2 ^ n % 2 == 1) ≠ level) :
    ((d.setPin n level).get R.gpioIn / 2 ^ n % 2 == 1) = level := by
  have asBit (x : Nat) : (x / 2 ^ n % 2 == 1) = x.testBit n := by simp [Nat.testBit_eq_decide_div_mod_eq, beq_eq_decide]
  rw [asBit] at h ⊢
  rw [Die.setPin, Die.get_set _ _ _ _ _ _ (by decide), show R.gpioIn.width = 16 from rfl, Nat.testBit_mod_two_pow, decide_eq_true hn,
    Bool.true_and]
  cases level with
  | true => rw [if_pos rfl, Nat.add_comm, Nat.testBit_two_pow_add_eq, Bool.eq_false_of_not_eq_true h, Bool.not_false]
  | false =>
    have high : (d.get R.gpioIn).testBit n = true := by simpa using h
    have back : 2 ^ n + (d.get R.gpioIn - 2 ^ n) = d.get R.gpioIn := Nat.add_sub_cancel' (Nat.ge_two_pow_of_testBit high)
    rw [← back, Nat.testBit_two_pow_add_eq] at high
    simpa using high

/-- A change of a pin, with GPIO.IN written first. -/
theorem Die.pinChange_steps :
    d.pinChange n level = if (d.get R.gpioIn / 2 ^ n % 2 == 1) = level then d
      else if (d.setPin n level).pinFunc n = 7 then { d.setPin n level with casc := { (d.setPin n level).casc with maSeen := true } }
      else if (d.setPin n level).pinFunc n = 1 ∧ (d.setPin n level).get R.gpioEdge 0 0 n / (if level then 1 else 2) % 2 = 1 then
        (d.setPin n level).raise (I.gpioEdge n)
      else d.setPin n level := rfl

variable (hn : n < 16)
include hn

theorem Die.setPin_pinFunc : (d.setPin n level).pinFunc n = d.pinFunc n := by
  refine (d.setPin_reach n level).get _ _ _ _ ?_
  simp only [Fld.addrOf_eq, R.gpioFunc, R.gpioIn, pageIndex, List.mem_singleton]
  omega

theorem Die.setPin_watches : (d.setPin n level).watches n level ↔ d.watches n level := by
  unfold Die.watches
  rw [d.setPin_pinFunc n level hn, (d.setPin_reach n level).get R.gpioEdge 0 0 n (by decide)]

variable (h : (d.get R.gpioIn / 2 ^ n % 2 == 1) ≠ level)
include h

/-- MALIVE's pin changes: its toggle is noted. -/
theorem Die.pinChange_malive (hf : d.pinFunc n = 7) :
    d.pinChange n level = { d.setPin n level with casc := { (d.setPin n level).casc with maSeen := true } } := by
  rw [Die.pinChange_steps, if_neg h, if_pos ((d.setPin_pinFunc n level hn).trans hf)]

/-- A pin changes as software watches it: the edge is reported. -/
theorem Die.pinChange_watched (hw : d.watches n level) : d.pinChange n level = (d.setPin n level).raise (I.gpioEdge n) := by
  have other : ¬ (d.setPin n level).pinFunc n = 7 := by simp [d.setPin_pinFunc n level hn, hw.1]
  rw [Die.pinChange_steps, if_neg h, if_neg other]
  exact if_pos ((d.setPin_watches n level hn).2 hw)

/-- Another pin changes: GPIO.IN alone shows it. -/
theorem Die.pinChange_other (hf : d.pinFunc n ≠ 7) (hw : ¬ d.watches n level) : d.pinChange n level = d.setPin n level := by
  have other : ¬ (d.setPin n level).pinFunc n = 7 := by rwa [d.setPin_pinFunc n level hn]
  rw [Die.pinChange_steps, if_neg h, if_neg other]
  exact if_neg (mt (d.setPin_watches n level hn).1 hw)

/-- A pin that changes shows in GPIO.IN, sets the cause that is watched, and is MALIVE's toggle. -/
theorem Die.pinChange_shows :
    let e := d.pinChange n level
    (e.get R.gpioIn / 2 ^ n % 2 == 1) = level ∧ (d.watches n level → e.hasCause (I.gpioEdge n) = true)
      ∧ e.casc = { d.casc with maSeen := d.casc.maSeen || d.pinFunc n == 7 }
      ∧ (¬ d.watches n level → OnlyRegs d { e with casc := d.casc } [R.gpioIn.addrOf])
      ∧ OnlyReports d { e with casc := d.casc } [R.gpioIn.addrOf, (I.gpioEdge n).addrOf] := by
  have shown := d.setPin_level n level hn h
  have reach := d.setPin_reach n level
  by_cases hf : d.pinFunc n = 7
  · have unwatched : ¬ d.watches n level := fun hw => by simp [hw.1] at hf
    rw [d.pinChange_malive n level hn h hf]
    generalize d.setPin n level = x at shown reach
    exact ⟨shown, fun hw => absurd hw unwatched, by simp [hf, reach.units.casc],
      fun _ => { reach with units := { reach.units with casc := rfl } },
      { reach.reports.mono (by simp) with units := { reach.units with casc := rfl } }⟩
  · rw [beq_eq_false_iff_ne.2 hf, Bool.or_false]
    by_cases hw : d.watches n level
    · have away : R.gpioIn.addrOf ≠ (I.gpioEdge n).addrOf := show 0x5050 ≠ 0x5020 by decide
      have kept := Die.get_raise (d.setPin n level) (I.gpioEdge n) 0 0 R.gpioIn 0 0 0 away
      have cause := Die.hasCause_raise (d.setPin n level) (I.gpioEdge n) 0 0 (show 0 + n < 32 by omega)
      have total := reach.reports.trans (OnlyReports.raise (d.setPin n level) (I.gpioEdge n) 0 0)
      rw [d.pinChange_watched n level hn h hw]
      generalize (d.setPin n level).raise (I.gpioEdge n) = e at kept cause total ⊢
      exact ⟨by rw [kept, shown], fun _ => cause, total.units.casc, fun k => absurd hw k, { total with units := { total.units with casc := rfl } }⟩
    · rw [d.pinChange_other n level hn h hf hw]
      generalize d.setPin n level = x at shown reach
      exact ⟨shown, fun k => absurd k hw, reach.units.casc, fun _ => { reach with units := { reach.units with casc := rfl } },
      { reach.reports.mono (by simp) with units := { reach.units with casc := rfl } }⟩

end

/-! ### Effects that keep what THERM# shows (R1043, R1048) -/

/-- THERM# stays as PWR holds it, and its cause stays set. -/
structure KeepsTherm (d e : Die) : Prop where
  therm : e.pwr.therm = d.pwr.therm
  cause : d.hasCause I.pwrThermPin = true → e.hasCause I.pwrThermPin = true

theorem KeepsTherm.refl (d : Die) : KeepsTherm d d := ⟨rfl, id⟩

theorem KeepsTherm.trans {d e f : Die} (h : KeepsTherm d e) (k : KeepsTherm e f) : KeepsTherm d f :=
  ⟨k.therm.trans h.therm, fun c => k.cause (h.cause c)⟩

/-- A cause that is set stays set while another is raised. -/
theorem Die.hasCause_raise_of (d : Die) (q r : Irq) (i j g : Nat) (h : d.hasCause q i = true) : (d.raise r j g).hasCause q i = true := by
  unfold Die.hasCause at h ⊢
  rw [Die.dword_raise]
  split
  case isTrue => rw [BitVec.getLsbD_or, h, Bool.true_or]
  case isFalse => exact h

section
variable (d : Die)

theorem Die.pwrState_pwr (st : Nat) : (d.pwrState st).pwr = d.pwr := by
  unfold Die.pwrState
  split
  case isTrue => rfl
  case isFalse => exact (Die.raise_pwr _ _ _ _).trans (Die.set_pwr ..)

theorem Die.pwrState_keepsTherm (st : Nat) : KeepsTherm d (d.pwrState st) := by
  refine ⟨congrArg PwrSt.therm (d.pwrState_pwr st), fun c => ?_⟩
  unfold Die.pwrState
  split
  case isTrue => exact c
  case isFalse =>
    have written : (d.set R.pwrModeState st).hasCause I.pwrThermPin = true :=
      ((OnlyRegs.set d R.pwrModeState st 0 0 0).reports.hasCause _ _ (by decide)).trans c
    exact Die.hasCause_raise_of _ _ _ _ _ _ written

/-- A request for a power state is a message of its port: neither registers nor PWR have a part in it. -/
theorem Die.tryPsReq_frame (p : Nat) : (d.tryPsReq p).pwr = d.pwr ∧ (d.tryPsReq p).regs = d.regs := by
  unfold Die.tryPsReq
  dsimp only
  split
  case isTrue => exact ⟨rfl, rfl⟩
  case isFalse => exact ⟨rfl, rfl⟩

theorem Die.forAll_tryPsReq_frame (l : List Nat) : (d.forAll l Die.tryPsReq).pwr = d.pwr ∧ (d.forAll l Die.tryPsReq).regs = d.regs := by
  induction l generalizing d with
  | nil => exact ⟨rfl, rfl⟩
  | cons p r ih => exact ⟨(ih _).1.trans (d.tryPsReq_frame p).1, (ih _).2.trans (d.tryPsReq_frame p).2⟩

/-- Without a RUN that was asked for, entry to QUIET ends with the ports' requests. -/
theorem Die.enterQuiet_keepsTherm (h : d.pwr.runAsked = false) : KeepsTherm d d.enterQuiet := by
  unfold Die.enterQuiet
  extract_lets x
  obtain ⟨pwr, regs⟩ : x.pwr = (d.pwrState 2).pwr ∧ x.regs = (d.pwrState 2).regs := Die.forAll_tryPsReq_frame _ _
  have enters := d.pwrState_keepsTherm 2
  have unasked : ¬ x.pwr.runAsked = true := by simp [pwr, d.pwrState_pwr, h]
  clear_value x
  rw [if_neg unasked]
  refine enters.trans ⟨congrArg PwrSt.therm pwr, fun c => ?_⟩
  unfold Die.hasCause Die.dword at c ⊢
  rwa [regs]

theorem OnlyRegs.keepsTherm_tick {d e : Die} {as : List Nat} {x : TickSt} (h : OnlyRegs d { e with tick := x } as) (hq : I.pwrThermPin.addrOf ∉ as) :
    KeepsTherm d e :=
  ⟨congrArg PwrSt.therm h.units.pwr, fun c => (h.hasCause_tick _ _ hq).trans c⟩

/-- Entry to QUIET leaves THERM# and its cause alone. -/
theorem Die.startQuiet_keepsTherm : KeepsTherm d d.startQuiet := by
  unfold Die.startQuiet
  extract_lets st own x p e
  split
  case isTrue => exact KeepsTherm.refl d
  case isFalse =>
    have closes : KeepsTherm d x := (d.pwrState_keepsTherm 1).trans ((Die.startRundown_reach _ _ _).keepsTherm_tick (by decide))
    have quiet : KeepsTherm d e := closes.trans ⟨rfl, id⟩
    have unasked : e.pwr.runAsked = false := rfl
    clear_value e
    split
    case isTrue => exact quiet.trans (e.enterQuiet_keepsTherm unasked)
    case isFalse => exact quiet

end

/-! ### THERM# (R858, R1048) -/

section
variable (d : Die)

theorem OnlyReports.trans_wake {d e f : Die} {as bs : List Nat} (h : OnlyReports d e as) (k : OnlyReports e { f with wake := e.wake } bs) :
    OnlyReports d { f with wake := d.wake } (as ++ bs) := by
  rw [← h.wake]
  exact h.trans k

/-- A wake cause changes nothing, or PWR.WAKE_CAUSE, the host link's wake state and what leaves the die. -/
theorem Die.wakeCause_cases (n : Nat) :
    d.wakeCause n = d ∨ ∃ v w outs, d.wakeCause n = { d.set R.pwrWakeCauseCause v with wake := w, out := d.out ++ outs } := by
  unfold Die.wakeCause
  split
  case isFalse => exact Or.inl rfl
  case isTrue =>
    extract_lets x on w y
    refine Or.inr ⟨d.get R.pwrWakeCauseCause ||| 2 ^ n, ?_⟩
    split
    case isTrue => exact ⟨x.wake, [], by rw [List.append_nil]; rfl⟩
    case isFalse =>
      split
      case isTrue => exact ⟨_, _, rfl⟩
      case isFalse => exact ⟨y.wake, [], by rw [List.append_nil]; rfl⟩

theorem Die.wakeCause_reach (n : Nat) : OnlyReports d { d.wakeCause n with wake := d.wake } [R.pwrWakeCauseCause.addrOf] := by
  obtain same | ⟨v, w, outs, wakes⟩ := d.wakeCause_cases n
  · rw [same]
    exact OnlyReports.refl d _
  · rw [wakes]
    have latched := (OnlyRegs.set d R.pwrWakeCauseCause v 0 0 0).reports
    generalize d.set R.pwrWakeCauseCause v = x at latched
    exact { latched with units := { latched.units with }, wake := rfl, out := List.prefix_append _ _ }

/-- THERM# is asserted: PWR holds it, its cause is set, and it may wake the host. -/
def Die.assertTherm : Die := (({ d with pwr := { d.pwr with therm := true } } : Die).raise I.pwrThermPin).wakeCause 4

/-- What the assertion makes of the die `d`. -/
structure ThermAsserted (d e : Die) : Prop where
  therm : e.pwr.therm = true
  cause : e.hasCause I.pwrThermPin = true
  reach : OnlyReports d { e with pwr := d.pwr, wake := d.wake } [I.pwrThermPin.addrOf, R.pwrWakeCauseCause.addrOf]

theorem ThermAsserted.of_reach {d x y e : Die} {z : PwrSt} (hx : x = { d with pwr := z }) (ht : z.therm = true)
    (hy : OnlyReports x y [I.pwrThermPin.addrOf]) (hc : y.hasCause I.pwrThermPin = true)
    (he : OnlyReports y { e with wake := y.wake } [R.pwrWakeCauseCause.addrOf]) : ThermAsserted d e := by
  have total := hy.trans_wake he
  have kept : e.hasCause I.pwrThermPin = y.hasCause I.pwrThermPin := he.hasCause _ _ (by decide)
  subst hx
  exact ⟨(congrArg PwrSt.therm total.units.pwr).trans ht, kept.trans hc, { total with units := { total.units with pwr := rfl }, wake := rfl }⟩

theorem Die.assertTherm_asserts : ThermAsserted d d.assertTherm :=
  ThermAsserted.of_reach rfl rfl (OnlyReports.raise _ I.pwrThermPin 0 0) (Die.hasCause_raise _ I.pwrThermPin 0 0 (by decide)) (Die.wakeCause_reach _ 4)

theorem OnlyReports.get_pwr_wake {d e : Die} {as : List Nat} {x : PwrSt} {y : WakeSt} (h : OnlyReports d { e with pwr := x, wake := y } as) (g : Fld)
    (i j k : Nat) (hg : g.addrOf i j ∉ as) : e.get g i j k = d.get g i j k := h.get g i j k hg

variable (level : Bool)

/-- THERM# without a pin, or as PWR holds it already. -/
theorem Die.thermPin_same (h : (d.pinOf 3).isNone = true ∨ d.pwr.therm = level) : d.thermPin level = d := if_pos (by simpa using h)

variable (hp : (d.pinOf 3).isSome = true)
include hp

theorem Die.thermPin_off (ht : d.pwr.therm ≠ false) : d.thermPin false = { d with pwr := { d.pwr with therm := false } } := by
  have acts : ¬ ((d.pinOf 3).isNone || d.pwr.therm == false) = true := by simp [Option.isNone_eq_false_iff.2 hp, ht]
  unfold Die.thermPin
  rw [if_neg acts]
  rfl

theorem Die.thermPin_on (ht : d.pwr.therm ≠ true) :
    d.thermPin true = if d.assertTherm.get R.pwrThermCtlPinAct = 2 then d.assertTherm.startQuiet else d.assertTherm := by
  have acts : ¬ ((d.pinOf 3).isNone || d.pwr.therm == true) = true := by simp [Option.isNone_eq_false_iff.2 hp, ht]
  unfold Die.thermPin
  rw [if_neg acts]
  rfl

/-- THERM# that changes is held by PWR; its assertion sets the cause, and enters QUIET where THERM_CTL says so. -/
theorem Die.thermPin_shows (ht : d.pwr.therm ≠ level) :
    let e := d.thermPin level
    e.pwr.therm = level ∧ (level = false → e = { d with pwr := { d.pwr with therm := false } }) ∧ (level = true → e.hasCause I.pwrThermPin = true)
      ∧ (d.get R.pwrThermCtlPinAct ≠ 2 →
          OnlyReports d { e with pwr := d.pwr, wake := d.wake } [I.pwrThermPin.addrOf, R.pwrWakeCauseCause.addrOf]) := by
  cases level with
  | false =>
    rw [d.thermPin_off hp ht]
    exact ⟨rfl, fun _ => rfl, fun h => absurd h Bool.false_ne_true, fun _ => OnlyReports.refl d _⟩
  | true =>
    have asserted := d.assertTherm_asserts
    have action : d.assertTherm.get R.pwrThermCtlPinAct = d.get R.pwrThermCtlPinAct := asserted.reach.get_pwr_wake _ _ _ _ (by decide)
    have quiet := d.assertTherm.startQuiet_keepsTherm
    rw [d.thermPin_on hp ht, action]
    by_cases ha : d.get R.pwrThermCtlPinAct = 2
    · rw [if_pos ha]
      exact ⟨quiet.therm.trans asserted.therm, fun h => absurd h.symm Bool.false_ne_true, fun _ => quiet.cause asserted.cause, fun h => absurd ha h⟩
    · rw [if_neg ha]
      exact ⟨asserted.therm, fun h => absurd h.symm Bool.false_ne_true, fun _ => asserted.cause, fun _ => asserted.reach⟩

end

/-! ### The statement -/

/-- Settles O57: each command by the die that it ends with, and what that die shows. -/
theorem pinsAndTestPort : Obligations.PinsAndTestPort := by
  intro s c ir trst level reg w n
  dsimp only
  refine ⟨becomes_of_actRaw _ s _ _ rfl rfl, fun h => jtagIrUpdate_loads s ir h, fun h => ⟨_, jtagIrUpdate_drives s ir h, ?drives⟩,
    fun ha hr => completes_of_page _ s c .gpio 0 _ _ rfl ⟨ha, hr⟩ ?func, fun ha => ⟨fun h => ?still, fun h => ?edge, fun h => ?held, fun hp ht => ?therm⟩⟩
  case drives =>
    obtain ⟨smb, fence, phase, bound, reach⟩ := OnlyRegs.fenceRundown (d := s.die) (r := Die.closingDie _) rfl
      (Die.fenceRundown_changes _) (Die.fenceRundown_reach { s.die with smb := { s.die.smb with jtag := ir } })
    refine ⟨smb, fence, fun k => ?_, fun k => ?_, reach⟩
    · exact Die.closingDie_phase _ (phase.symm.trans k)
    · rw [phase, bound]
      exact Die.closingDie_run _ k
  case func =>
    have fields := pinsAsked s.die c reg.toNat w 8
    rw [← Die.gpioFuncWrite_eq] at fields
    obtain ⟨own, reach, shown, good⟩ := fields
    exact ⟨own, shown, fun h => good (eq_false_of_ne_true h), reach⟩
  case still => exact becomes_of_act _ s _ _ rfl ha (s.die.pinChange_same n.toNat level h)
  case edge => exact completes_of_act _ s _ _ rfl ha (s.die.pinChange_shows n.toNat level n.isLt h)
  case held => exact becomes_of_act _ s _ _ rfl ha (s.die.thermPin_same level h)
  case therm => exact completes_of_act _ s _ _ rfl ha (s.die.thermPin_shows level hp ht)

end Sys2Proof.Machine
end

section
/-!
PROOF. The self-synchronous scrambler of a lane (R161, R162), and a lane's superframe that is sent and received without errors (R154, R158, R163, R166).
-/
namespace Sys2Proof.Machine

/-! ### The scrambler (R161, R162) -/

section
variable (h k : BitVec 58)

/-- The descrambler reads in its history what the scrambler wrote into its own. -/
theorem descramble_scramble (bs : List Bool) : descramble h (scramble h bs).1 = (bs, (scramble h bs).2) := by
  induction bs generalizing h with
  | nil => rfl
  | cons b r ih =>
    simp only [scramble, descramble]
    rw [ih]
    congr 2
    cases b <;> cases h.getLsbD 38 <;> cases h.getLsbD 57 <;> rfl

theorem scramble_length (bs : List Bool) : (scramble h bs).1.length = bs.length := by
  induction bs generalizing h with
  | nil => rfl
  | cons b r ih => exact congrArg (· + 1) (ih _)

theorem descramble_length (bs : List Bool) : (descramble h bs).1.length = bs.length := by
  induction bs generalizing h with
  | nil => rfl
  | cons b r ih => exact congrArg (· + 1) (ih _)

/-- The descrambler's history is what it received, whatever it answered. -/
theorem descramble_history (bs : List Bool) : (descramble h bs).2 = bs.foldl BitVec.shiftConcat h := by
  induction bs generalizing h with
  | nil => rfl
  | cons b r ih => exact ih _

theorem descramble_append (first rest : List Bool) :
    (descramble h (first ++ rest)).1 = (descramble h first).1 ++ (descramble (first.foldl BitVec.shiftConcat h) rest).1 := by
  induction first generalizing h with
  | nil => rfl
  | cons b r ih => exact congrArg (_ :: ·) (ih _)

variable {h k} in
/-- Histories that agree on their latest `n` bits agree on one more after each bit received. -/
theorem foldl_shiftConcat_agree {n : Nat} (hk : ∀ i < n, h.getLsbD i = k.getLsbD i) (bs : List Bool) :
    ∀ i < n + bs.length, (bs.foldl BitVec.shiftConcat h).getLsbD i = (bs.foldl BitVec.shiftConcat k).getLsbD i := by
  induction bs generalizing h k n with
  | nil => exact hk
  | cons b r ih =>
    have agree : ∀ i < n + 1, (h.shiftConcat b).getLsbD i = (k.shiftConcat b).getLsbD i := by
      intro i hi
      rw [BitVec.getLsbD_shiftConcat, BitVec.getLsbD_shiftConcat]
      cases i with
      | zero => rfl
      | succ i => simp [hk i (Nat.lt_of_succ_lt_succ hi)]
    intro i hi
    exact ih agree i (by rw [List.length_cons] at hi; omega)

/-- 58 bits received leave nothing of the history before them. -/
theorem foldl_shiftConcat_eq (bs : List Bool) (hb : 58 ≤ bs.length) : bs.foldl BitVec.shiftConcat h = bs.foldl BitVec.shiftConcat k := by
  have agree := foldl_shiftConcat_agree (h := h) (k := k) (n := 0) (fun i hi => absurd hi (Nat.not_lt_zero i)) bs
  exact BitVec.eq_of_getLsbD_eq fun i hi => agree i (by omega)

/-- What follows the first bits is descrambled with a history of these bits alone. -/
theorem descramble_append_drop (first rest : List Bool) :
    (descramble h (first ++ rest)).1.drop first.length = (descramble (first.foldl BitVec.shiftConcat h) rest).1 := by
  rw [descramble_append, ← descramble_length h first, List.drop_left]

end

/-- Settles O7: along the bits, and by the histories that 58 common bits make equal. -/
theorem scramblerIsSelfSynchronous : Obligations.ScramblerIsSelfSynchronous := by
  refine ⟨descramble_scramble, fun h k first rest hf => ?_⟩
  rw [descramble_append_drop, descramble_append_drop, foldl_shiftConcat_eq h k first hf]

/-! ### Symbols (R165, R166) -/

theorem bitsSym_concat (l : List Bool) (b : Bool) : bitsSym (l ++ [b]) = 2 * bitsSym l + b.toNat := by
  simp [bitsSym]

/-- Bit `i` of a symbol, the first of the highest degree. -/
theorem bitsSym_bit (l : List Bool) (i : Nat) (hi : i < l.length) : (bitsSym l / 2 ^ (l.length - 1 - i) % 2 == 1) = l[i] := by
  induction l using List.reverseRecOn with
  | nil => exact absurd hi (Nat.not_lt_zero i)
  | append_singleton r b ih =>
    rw [bitsSym_concat, List.length_append, List.length_singleton, Nat.add_sub_cancel]
    by_cases hl : i < r.length
    · have exponent : r.length - i = r.length - 1 - i + 1 := by omega
      have halved : (2 * bitsSym r + b.toNat) / 2 = bitsSym r := by have := b.toNat_lt; omega
      rw [exponent, pow_succ', ← Nat.div_div_eq_div_mul, halved, ih hl, List.getElem_append_left hl]
    · have last : i = r.length := by rw [List.length_append, List.length_singleton] at hi; omega
      subst last
      cases b <;> simp [Nat.add_mod]

/-- The bits of the symbol that ten bits spell are these bits. -/
theorem symBits_bitsSym (l : List Bool) (hl : l.length = 10) : symBits (bitsSym l) = l := by
  refine List.ext_getElem (by simp [symBits, hl]) fun i _ hi => ?_
  rw [← bitsSym_bit l i hi, hl]
  simp [symBits]

theorem symBits_length (c : Nat) : (symBits c).length = 10 := by simp [symBits]

/-- The parity is 20 symbols. -/
theorem rsParity_length (ms : List Nat) : (rsParity ms).length = 20 := by
  have shifted (g reg : List Nat) (m : Nat) : (rsShift g reg m).length = 20 := by simp [rsShift]
  unfold rsParity
  induction ms using List.reverseRecOn with
  | nil => exact List.length_replicate
  | append_singleton r m _ => rw [List.foldl_concat]; exact shifted _ _ _

/-! ### Runs of one width -/

section
variable {α β : Type} {f : α → List β} {w : Nat}

/-- A list cut into runs of one width, and put together again. -/
theorem flatMap_range_take (l : List β) (w n : Nat) : (List.range n).flatMap (fun j => (l.drop (w * j)).take w) = l.take (w * n) := by
  induction n with
  | zero => simp
  | succ n ih => rw [List.range_succ, List.flatMap_append, ih, Nat.mul_succ, List.take_add]; simp

theorem length_flatMap_width (l : List α) (hf : ∀ a ∈ l, (f a).length = w) : (l.flatMap f).length = w * l.length := by
  induction l with
  | nil => rfl
  | cons a r ih =>
    rw [List.flatMap_cons, List.length_append, hf a List.mem_cons_self, ih fun b hb => hf b (List.mem_cons_of_mem _ hb), List.length_cons]
    ring

/-- Run `i` of the runs put together. -/
theorem take_drop_flatMap (l : List α) (t : List β) (hf : ∀ a ∈ l, (f a).length = w) (i : Nat) (hi : i < l.length) :
    ((l.flatMap f ++ t).drop (w * i)).take w = f l[i] := by
  induction l generalizing i with
  | nil => exact absurd hi (Nat.not_lt_zero i)
  | cons a r ih =>
    have width : (f a).length = w := hf a List.mem_cons_self
    rw [List.flatMap_cons, List.append_assoc]
    cases i with
    | zero => rw [Nat.mul_zero, List.drop_zero]; exact List.take_left' width
    | succ i =>
      have skip : w * (i + 1) = (f a).length + w * i := by rw [width]; ring
      rw [skip, List.drop_length_add_append]
      exact ih (fun b hb => hf b (List.mem_cons_of_mem _ hb)) i (Nat.lt_of_succ_lt_succ hi)

end

/-! ### The bits of a superframe (R154, R158, R159) -/

/-- The 19 data blocks of a superframe: each its DATA header and its 256 scrambled bits. -/
def dataBlocks (x : List Bool) : List Bool := (List.range 19).flatMap (fun b => [false, true] ++ (x.drop (256 * b)).take 256)

/-- The 4,960 bits that the parity covers: the data blocks, then the SUPER header and the supervisory bits. -/
def coveredBits (x : List Bool) : List Bool := dataBlocks x ++ [true, false] ++ (x.drop 4864).take 56

/-- The 496 message symbols. -/
def messageSyms (x : List Bool) : List Nat := (List.range 496).map (fun j => bitsSym (((coveredBits x).drop (10 * j)).take 10))

theorem sfEncode_eq (h : BitVec 58) (data sup : List Bool) :
    sfEncode h data sup = (messageSyms (scramble h (data ++ sup)).1 ++ rsParity (messageSyms (scramble h (data ++ sup)).1),
      (scramble h (data ++ sup)).2) := rfl

theorem sfEncode_length (h : BitVec 58) (data sup : List Bool) : (sfEncode h data sup).1.length = 516 := by
  simp [sfEncode_eq, messageSyms, rsParity_length]

section
variable {x : List Bool} (hx : x.length = 4920)
include hx

theorem dataBlock_length (b : Nat) (hb : b ∈ List.range 19) : ([false, true] ++ (x.drop (256 * b)).take 256).length = 258 := by
  have := List.mem_range.1 hb
  simp [hx]
  omega

theorem dataBlocks_length : (dataBlocks x).length = 258 * 19 := length_flatMap_width (List.range 19) (dataBlock_length hx)

/-- The message symbols spell the bits that they are cut from. -/
theorem messageSyms_bits : (messageSyms x).flatMap symBits = coveredBits x := by
  have covered : (coveredBits x).length = 10 * 496 := by simp [coveredBits, dataBlocks_length hx, hx]
  calc (messageSyms x).flatMap symBits
      = (List.range 496).flatMap (fun j => symBits (bitsSym (((coveredBits x).drop (10 * j)).take 10))) := List.flatMap_map _ _ _
    _ = (List.range 496).flatMap (fun j => ((coveredBits x).drop (10 * j)).take 10) := by
        refine List.flatMap_congr fun j hj => symBits_bitsSym _ ?_
        have := List.mem_range.1 hj
        rw [List.length_take, List.length_drop, covered]
        omega
    _ = (coveredBits x).take (10 * 496) := flatMap_range_take _ _ _
    _ = coveredBits x := List.take_of_length_le covered.le

variable (parity : List Bool)

theorem sfBlock_data (b : Nat) (hb : b < 19) : sfBlock (coveredBits x ++ parity) b = [false, true] ++ (x.drop (256 * b)).take 256 := by
  have run := take_drop_flatMap (List.range 19) ([true, false] ++ (x.drop 4864).take 56 ++ parity) (dataBlock_length hx) b (by simpa using hb)
  rw [List.getElem_range] at run
  rw [← run, sfBlock, coveredBits, dataBlocks]
  simp only [List.append_assoc]

theorem sfBlock_super : sfBlock (coveredBits x ++ parity) 19 = [true, false] ++ (x.drop 4864 ++ parity).take 256 := by
  have all : (x.drop 4864).take 56 = x.drop 4864 := List.take_of_length_le (by simp [hx])
  rw [sfBlock, coveredBits, all, ← dataBlocks_length hx]
  simp

/-- Every header is that of its block. -/
theorem sfBadHdrs_covered : sfBadHdrs (coveredBits x ++ parity) = 0 := by
  have valid : ∀ b ∈ List.range 20,
      (sfBlock (coveredBits x ++ parity) b).take 2 = if b = 19 then [true, false] else [false, true] := by
    intro b hb
    have range := List.mem_range.1 hb
    by_cases last : b = 19
    · rw [last, sfBlock_super hx]; rfl
    · rw [sfBlock_data hx _ _ (by omega), if_neg last]; rfl
  unfold sfBadHdrs
  rw [List.foldl_ext _ (fun n _ => n) 0 (fun n b hb => by rw [valid b hb, if_pos rfl, Nat.add_zero])]
  rfl

/-- The stream that a receiver takes from the superframe is the scrambled one. -/
theorem sfStream_covered : sfStream (coveredBits x ++ parity) = x := by
  have payloads : (List.range 19).flatMap (fun b => (sfBlock (coveredBits x ++ parity) b).drop 2) = x.take 4864 := by
    rw [← flatMap_range_take x 256 19]
    exact List.flatMap_congr fun b hb => by rw [sfBlock_data hx _ _ (List.mem_range.1 hb)]; rfl
  have supervisory : ((sfBlock (coveredBits x ++ parity) 19).drop 2).take 56 = x.drop 4864 := by
    rw [sfBlock_super hx]
    show ((x.drop 4864 ++ parity).take 256).take 56 = _
    rw [List.take_take]
    exact List.take_left' (by simp [hx])
  rw [sfStream, payloads, supervisory, List.take_append_drop]

end

/-- Settles O8: the symbols spell the covered bits, whose headers are valid and whose stream is what the scrambler gave. -/
theorem laneSuperframeRoundTrip : Obligations.LaneSuperframeRoundTrip := by
  intro h data sup hd hs
  have scrambled : (scramble h (data ++ sup)).1.length = 4920 := by rw [scramble_length, List.length_append, hd, hs]
  refine ⟨sfEncode_length h data sup, ?_⟩
  rw [sfEncode_eq, List.flatMap_append, messageSyms_bits scrambled]
  exact ⟨sfBadHdrs_covered scrambled _, (congrArg (descramble h) (sfStream_covered scrambled _)).trans (descramble_scramble h _)⟩

end Sys2Proof.Machine
end

section
/-!
PROOF. The locks of a lane, gained and lost, and the port that goes DOWN with them (R169, R171, R173, R174, R182, R195, R244, R324).
-/
namespace Sys2Proof.Machine

/-! ### Ports, lanes and VCs after a change of one -/

section
variable (d : Die) (p : Nat)

theorem Die.port_modPort_self (f : PortSt → PortSt) : (d.modPort p f).port p = f (d.port p) := (d.port_modPort p p f).trans (if_pos rfl)

theorem Die.otherPorts_modPort (f : PortSt → PortSt) : OtherPorts d (d.modPort p f) p := fun q hq => (d.port_modPort p q f).trans (if_neg hq)

/-- A lane after a change of one lane of its port. -/
theorem Die.lane_modLane (l m : Nat) (f : LaneSt → LaneSt) : (d.modLane p l f).lane p m = if m = l then f (d.lane p l) else d.lane p m := by
  unfold Die.lane
  rw [Die.modLane, Die.port_modPort_self, smapGet_mod]

/-- A VC after a change of one VC of its port. -/
theorem Die.vc_modVc (v w : Nat) (f : VcSt → VcSt) : (d.modVc p v f).vc p w = if w = v then f (d.vc p v) else d.vc p w := by
  unfold Die.vc
  rw [Die.modVc, Die.port_modPort_self, smapGet_mod]

theorem Die.lane_congr {d e : Die} (h : e.ports = d.ports) (p l : Nat) : e.lane p l = d.lane p l := by
  rw [Die.lane, Die.lane, Die.port_congr h]

/-- A change of one lane reaches that lane alone, whatever the registers do. -/
theorem Die.changesLane_modLane {d x : Die} (h : x.ports = d.ports) (p l : Nat) (f : LaneSt → LaneSt) :
    ChangesLane d (x.modLane p l f) p l (f (d.lane p l)) := by
  have same (q : Nat) : x.port q = d.port q := Die.port_congr h q
  refine ⟨?_, fun m hm => ?_, ?_, fun q hq => (x.otherPorts_modPort p _ q hq).trans (same q)⟩
  · rw [Die.lane_modLane, if_pos rfl, Die.lane_congr h]
  · rw [Die.lane_modLane, if_neg hm, Die.lane_congr h]
  · rw [Die.modLane, Die.port_modPort_self, same]

end

/-! ### Fields that share no bit -/

/-- Two fields of one register, one below the other. -/
theorem Loc.apart_of_bits {f g : Fld} {i j k i' j' k' : Nat}
    (h : f.lsb + f.fstep * k + f.width ≤ g.lsb + g.fstep * k' ∨ g.lsb + g.fstep * k' + g.width ≤ f.lsb + f.fstep * k) :
    (f.loc i j k).apart (g.loc i' j' k') := Or.inr h

/-- Two registers of one page with the same spacing, at different offsets. -/
theorem Loc.apart_of_off {f g : Fld} {i j k k' : Nat} (hp : g.page = f.page) (hs : g.step = f.step) (ho : g.off ≠ f.off) :
    (f.loc i j k).apart (g.loc i j k') := by
  left
  show f.addrOf i j ≠ g.addrOf i j
  rw [Fld.addrOf_eq, Fld.addrOf_eq, hp, hs]
  omega

/-! ### Effects on one port -/

/-- An effect on one port, on the switch and on reports: every other port is as it was, and no dword but those listed changes. -/
structure PortReports (d e : Die) (p : Nat) (as : List Nat) : Prop where
  others : OtherPorts d e p
  reach : OnlyReports d { e with ports := d.ports, sw := d.sw } as

section
variable {d e f : Die} {p : Nat} {as : List Nat}

theorem PortReports.of_reports (h : OnlyReports d e as) : PortReports d e p as :=
  ⟨fun q _ => Die.port_congr h.units.ports q, { h with units := { h.units with ports := rfl, sw := rfl } }⟩

theorem PortReports.refl : PortReports d d p as := .of_reports (OnlyReports.refl d as)

theorem PortReports.trans (h : PortReports d e p as) (k : PortReports e f p as) : PortReports d f p as where
  others := fun q hq => (k.others q hq).trans (h.others q hq)
  reach :=
    have next : OnlyReports { e with ports := d.ports, sw := d.sw } { f with ports := d.ports, sw := d.sw } as :=
      { k.reach with units := { k.reach.units with ports := rfl, sw := rfl } }
    (h.reach.trans next).mono (by simp)

theorem PortReports.mono {bs : List Nat} (h : PortReports d e p as) (k : as ⊆ bs) : PortReports d e p bs := ⟨h.others, h.reach.mono k⟩

theorem PortReports.get (h : PortReports d e p as) (g : Fld) (i j k : Nat) (hg : g.addrOf i j ∉ as) : e.get g i j k = d.get g i j k :=
  h.reach.get g i j k hg

theorem PortReports.hasCause (h : PortReports d e p as) (q : Irq) (i : Nat) (hq : q.addrOf i ∉ as) : e.hasCause q i = d.hasCause q i :=
  h.reach.hasCause q i hq

theorem PortReports.set {g : Fld} {v i j k : Nat} (hg : g.addrOf i j ∈ as) : PortReports d (d.set g v i j k) p as :=
  .of_reports ((OnlyRegs.set d g v i j k).reports.mono (by simpa using hg))

theorem PortReports.setBit {g : Fld} {b : Bool} {i j k : Nat} (hg : g.addrOf i j ∈ as) : PortReports d (d.setBit g b i j k) p as := .set hg

theorem PortReports.bump {g : Fld} {i j n : Nat} (hg : g.addrOf i j ∈ as) : PortReports d (d.bump g i j n) p as :=
  .of_reports ((OnlyReports.bump d g i j n).mono (by simpa using hg))

theorem PortReports.raise {q : Irq} {i g : Nat} (hq : q.addrOf i ∈ as) : PortReports d (d.raise q i g) p as :=
  .of_reports ((OnlyReports.raise d q i g).mono (by simpa using hq))

theorem PortReports.modPort {g : PortSt → PortSt} : PortReports d (d.modPort p g) p as := ⟨d.otherPorts_modPort p g, OnlyReports.refl d as⟩

theorem PortReports.modLane {l : Nat} {g : LaneSt → LaneSt} : PortReports d (d.modLane p l g) p as := .modPort

theorem PortReports.padInput {q : Nat} : PortReports d (d.padInput q) p as := ⟨fun _ _ => rfl, OnlyReports.refl d as⟩

end

/-! ### Where the registers of lanes and links stand -/

section
variable (p : Nat)

theorem addrOf_laneqPstatState : R.laneqPstatState.addrOf p = 0x1000 * (0x50 + p) + 0x40 := rfl

theorem addrOf_portLinkState : R.portLinkState.addrOf p = 0x1000 * (0x10 + p) + 0x40 := rfl

theorem addrOf_laneqPortDown : I.laneqPortDown.addrOf p = 0x1000 * (0x50 + p) + 0x20 := rfl

theorem addrOf_portLost : I.portLost.addrOf p = 0x1000 * (0x10 + p) + 0x20 := rfl

end

/-! ### OFFLINE (R244, R324) -/

/-- The dwords that a port which goes OFFLINE may change: its link state and its PORT page's causes. -/
def offlineAddrs (p : Nat) : List Nat := [R.portLinkState.addrOf p, I.portLost.addrOf p]

theorem mem_offlineAddrs (p x : Nat) : x ∈ offlineAddrs p ↔ x = 0x1000 * (0x10 + p) + 0x40 ∨ x = 0x1000 * (0x10 + p) + 0x20 := by
  simp [offlineAddrs, addrOf_portLinkState, addrOf_portLost]

/-- What a port shows of the die `d` once it is OFFLINE. -/
structure GoneOffline (d e : Die) (p : Nat) : Prop where
  link : e.link p = 0
  lost : d.link p = 2 → e.hasCause I.portLost p = true ∧ (e.port p).leftUp = true
  sw : e.sw = if d.link p = 0 then d.sw else (d.padInput p).sw

theorem GoneOffline.of_same {d x e : Die} {p : Nat} (h : GoneOffline x e p) (hl : x.link p = d.link p) (hs : x.sw = d.sw) : GoneOffline d e p := by
  obtain ⟨link, lost, sw⟩ := h
  refine ⟨link, fun k => lost (hl.trans k), sw.trans ?_⟩
  unfold Die.padInput
  rw [hl, hs]

section
variable (d : Die) (p : Nat)

/-- OFFLINE, and the packets granted from the input padded. -/
def Die.offlinePad : Die := (d.set R.portLinkState 0 p).padInput p

/-- The cause that the state left sets: LOST after ACTIVE, PS after a low-power state. -/
def Die.offlineCause : Die :=
  if d.link p = 2 then ((d.offlinePad p).raise I.portLost p).modPort p (fun s => { s with leftUp := true })
  else if d.link p = 3 then (d.offlinePad p).raise I.portPs p else d.offlinePad p

theorem Die.linkOffline_off (h : d.link p = 0) : d.linkOffline p = d := if_pos h

theorem Die.linkOffline_on (h : d.link p ≠ 0) : d.linkOffline p = (d.offlineCause p).modPort p (fun s => { s with psReq := none, psAgreed := none }) := by
  unfold Die.linkOffline Die.offlineCause
  rw [if_neg h]
  by_cases active : d.link p = 2
  · simp only [active, if_true]
    rfl
  · simp only [active, if_false]
    rfl

theorem Die.offlinePad_frame : PortReports d (d.offlinePad p) p (offlineAddrs p) :=
  (PortReports.set (by simp [offlineAddrs])).trans .padInput

theorem Die.offlinePad_link : (d.offlinePad p).link p = 0 := Die.get_set d R.portLinkState 0 p 0 0 (by decide)

theorem Die.raise_link (q : Irq) (hq : q.addrOf p = 0x1000 * (0x10 + p) + 0x20) : (d.raise q p).link p = d.link p :=
  d.get_raise q p 0 R.portLinkState p 0 0 (by
    rw [hq, addrOf_portLinkState]
    omega)

theorem Die.offlineCause_frame : PortReports d (d.offlineCause p) p (offlineAddrs p) := by
  have pad := d.offlinePad_frame p
  unfold Die.offlineCause
  split
  case isTrue => exact (pad.trans (.raise (by simp [offlineAddrs]))).trans .modPort
  case isFalse =>
    split
    case isTrue => exact pad.trans (.raise (by simp [offlineAddrs, Irq.addrOf, I.portLost, I.portPs]))
    case isFalse => exact pad

theorem Die.offlineCause_shows : (d.offlineCause p).link p = 0 ∧ (d.offlineCause p).sw = (d.padInput p).sw
    ∧ (d.link p = 2 → (d.offlineCause p).hasCause I.portLost p = true ∧ ((d.offlineCause p).port p).leftUp = true) := by
  have link := d.offlinePad_link p
  unfold Die.offlineCause
  split
  case isTrue =>
    refine ⟨((d.offlinePad p).raise_link p I.portLost rfl).trans link, Die.raise_sw _ _ _ _, fun _ => ⟨?_, ?_⟩⟩
    · exact Die.hasCause_raise (d.offlinePad p) I.portLost p 0 (by decide)
    · rw [Die.port_modPort_self]
  case isFalse active =>
    refine ⟨?_, ?_, fun h => absurd h active⟩
    · split
      case isTrue => exact ((d.offlinePad p).raise_link p I.portPs rfl).trans link
      case isFalse => exact link
    · split
      case isTrue => exact Die.raise_sw _ _ _ _
      case isFalse => rfl

/-- A port that goes OFFLINE shows it, and reaches no further. -/
theorem Die.linkOffline_shows : GoneOffline d (d.linkOffline p) p ∧ PortReports d (d.linkOffline p) p (offlineAddrs p) := by
  by_cases off : d.link p = 0
  · rw [d.linkOffline_off p off]
    exact ⟨⟨off, fun h => absurd (off.symm.trans h) (by decide), (if_pos off).symm⟩, .refl⟩
  · rw [d.linkOffline_on p off]
    obtain ⟨link, sw, lost⟩ := d.offlineCause_shows p
    refine ⟨⟨link, fun h => ⟨(lost h).1, ?_⟩, sw.trans (if_neg off).symm⟩, (d.offlineCause_frame p).trans .modPort⟩
    rw [Die.port_modPort_self]
    exact (lost h).2

/-! ### DOWN (R195) -/

/-- The dwords that a port which goes DOWN may change. -/
def downAddrs : List Nat := [R.laneqPstatState.addrOf p, R.portLinkState.addrOf p, I.laneqPortDown.addrOf p, I.portLost.addrOf p]

theorem mem_downAddrs (x : Nat) : x ∈ downAddrs p ↔ x = 0x1000 * (0x50 + p) + 0x40 ∨ x = 0x1000 * (0x10 + p) + 0x40
    ∨ x = 0x1000 * (0x50 + p) + 0x20 ∨ x = 0x1000 * (0x10 + p) + 0x20 := by
  simp [downAddrs, addrOf_laneqPstatState, addrOf_portLinkState, addrOf_laneqPortDown, addrOf_portLost]

/-- What a port shows of the die `d` once it is DOWN. -/
structure GoneDown (d e : Die) (p : Nat) : Prop where
  state : e.get R.laneqPstatState p = 0
  cause : d.get R.laneqPstatState p = 2 → e.hasCause I.laneqPortDown p = true
  offline : GoneOffline d e p

/-- DOWN, with its cause where the port was UP. -/
def Die.laneDown : Die :=
  if d.get R.laneqPstatState p = 2 then (d.set R.laneqPstatState 0 p).raise I.laneqPortDown p else d.set R.laneqPstatState 0 p

theorem Die.portDown_eq : d.portDown p = ((d.laneDown p).modPort p (fun s => { s with alignBad := false })).linkOffline p := rfl

theorem Die.laneDown_reach : OnlyReports d (d.laneDown p) [R.laneqPstatState.addrOf p, I.laneqPortDown.addrOf p] := by
  have written := (OnlyRegs.set d R.laneqPstatState 0 p 0 0).reports
  unfold Die.laneDown
  split
  case isTrue => exact written.trans (OnlyReports.raise _ _ _ _)
  case isFalse => exact written.mono (by simp)

theorem Die.laneDown_state : (d.laneDown p).get R.laneqPstatState p = 0 := by
  have written : (d.set R.laneqPstatState 0 p).get R.laneqPstatState p = 0 := Die.get_set d _ _ _ _ _ (by decide)
  unfold Die.laneDown
  split
  case isTrue =>
    refine (Die.get_raise _ I.laneqPortDown p 0 R.laneqPstatState p 0 0 ?_).trans written
    rw [addrOf_laneqPstatState, addrOf_laneqPortDown]
    omega
  case isFalse => exact written

theorem Die.laneDown_cause (h : d.get R.laneqPstatState p = 2) : (d.laneDown p).hasCause I.laneqPortDown p = true := by
  unfold Die.laneDown
  rw [if_pos h]
  exact Die.hasCause_raise _ I.laneqPortDown p 0 (by decide)

/-- A port that goes DOWN shows it, and reaches no further. -/
theorem Die.portDown_shows : GoneDown d (d.portDown p) p ∧ PortReports d (d.portDown p) p (downAddrs p) := by
  have reach := d.laneDown_reach p
  obtain ⟨offline, frame⟩ := ((d.laneDown p).modPort p (fun s => { s with alignBad := false })).linkOffline_shows p
  rw [← Die.portDown_eq] at offline frame
  have pstat : R.laneqPstatState.addrOf p ∉ offlineAddrs p := by
    rw [mem_offlineAddrs, addrOf_laneqPstatState]
    omega
  have causes : I.laneqPortDown.addrOf p ∉ offlineAddrs p := by
    rw [mem_offlineAddrs, addrOf_laneqPortDown]
    omega
  have link : (d.laneDown p).link p = d.link p := by
    refine reach.get R.portLinkState p 0 0 ?_
    simp only [addrOf_portLinkState, addrOf_laneqPstatState, addrOf_laneqPortDown, List.mem_cons, List.not_mem_nil, or_false]
    omega
  refine ⟨⟨(frame.get _ _ _ _ pstat).trans (d.laneDown_state p), fun h => (frame.hasCause _ _ causes).trans (d.laneDown_cause p h),
    offline.of_same link reach.units.sw⟩, (PortReports.trans (.of_reports (reach.mono ?_)) .modPort).trans (frame.mono ?_)⟩
  · simp [downAddrs]
  · simp [downAddrs, offlineAddrs]

theorem GoneDown.of_same {x e : Die} {d : Die} {p : Nat} (h : GoneDown x e p) (hs : x.get R.laneqPstatState p = d.get R.laneqPstatState p)
    (hl : x.link p = d.link p) (hw : x.sw = d.sw) : GoneDown d e p :=
  ⟨h.state, fun k => h.cause (hs.trans k), h.offline.of_same hl hw⟩

end

end Sys2Proof.Machine
end

section
/-!
PROOF. A lane's locks (spec 04): how far the loss of one reaches, and what each command on them shows.
-/
namespace Sys2Proof.Machine

/-! ### How far the loss of a lane's lock reaches -/

/-- The registers of a lane that the loss of a lock may change: its status, its losses and its headers. -/
def laneLossAddrs (p l : Nat) : List Nat := [R.laneqLaneLstatSfLock.addrOf p l, R.laneqLaneLossSfLoss.addrOf p l, R.laneqLaneBadhdr.addrOf p l]

/-- With them, what the lane's port may change as it goes DOWN. -/
def lossAddrs (p l : Nat) : List Nat := laneLossAddrs p l ++ downAddrs p

theorem addrOf_laneqLaneLstat (p l : Nat) : R.laneqLaneLstatSfLock.addrOf p l = 0x1000 * (0x50 + p) + 0x80 + 64 * l := rfl

theorem mem_laneLossAddrs (p l x : Nat) : x ∈ laneLossAddrs p l ↔ x = 0x1000 * (0x50 + p) + 0x80 + 64 * l
    ∨ x = 0x1000 * (0x50 + p) + 0xA4 + 64 * l ∨ x = 0x1000 * (0x50 + p) + 0xA0 + 64 * l := by
  have loss : R.laneqLaneLossSfLoss.addrOf p l = 0x1000 * (0x50 + p) + 0xA4 + 64 * l := rfl
  have badhdr : R.laneqLaneBadhdr.addrOf p l = 0x1000 * (0x50 + p) + 0xA0 + 64 * l := rfl
  simp [laneLossAddrs, addrOf_laneqLaneLstat, loss, badhdr]

/-- A lane's own registers are not among what its port changes as it goes DOWN. -/
theorem lane_not_mem_downAddrs {g : Fld} (hp : g.page = .laneq) (ho : 0x80 ≤ g.off) (p l : Nat) : g.addrOf p l ∉ downAddrs p := by
  rw [mem_downAddrs, Fld.addrOf_eq, hp]
  simp only [pageIndex]
  omega

/-- The status of another lane is out of reach. -/
theorem lstat_not_mem_lossAddrs {p l m : Nat} (h : m ≠ l) : R.laneqLaneLstatSfLock.addrOf p m ∉ lossAddrs p l := by
  have own : R.laneqLaneLstatSfLock.addrOf p m ∉ downAddrs p := lane_not_mem_downAddrs rfl (by decide) p m
  rw [lossAddrs, List.mem_append, not_or, mem_laneLossAddrs, addrOf_laneqLaneLstat]
  exact ⟨by omega, own⟩

/-- An effect on a lane's registers has no bearing on the state of its port and of its link. -/
theorem PortReports.port_state {d e : Die} {p l : Nat} (h : PortReports d e p (laneLossAddrs p l)) :
    e.get R.laneqPstatState p = d.get R.laneqPstatState p ∧ e.link p = d.link p := by
  refine ⟨h.get _ _ _ _ ?_, h.get _ _ _ _ ?_⟩
  · rw [mem_laneLossAddrs, addrOf_laneqPstatState]
    omega
  · rw [mem_laneLossAddrs, addrOf_portLinkState]
    omega

/-! ### Superframe lock lost (R173, R195) -/

section
variable (d : Die) (p l : Nat)

/-- The lane that leaves superframe lock, counted, before its port goes DOWN. -/
def Die.sfDropped : Die :=
  ((d.setBit R.laneqLaneLstatSfLock false p l).bump R.laneqLaneLossSfLoss p l).modLane p l
    (fun s => { s with uncorrRun := 0, logRun := 0, badPrev := false })

theorem Die.loseSf_locked (h : d.bit R.laneqLaneLstatSfLock p l = true) : d.loseSf p l = (d.sfDropped p l).portDown p := if_pos h

theorem Die.loseSf_unlocked (h : d.bit R.laneqLaneLstatSfLock p l = false) : d.loseSf p l = d := if_neg (ne_true_of_eq_false h)

theorem Die.sfDropped_frame : PortReports d (d.sfDropped p l) p (laneLossAddrs p l) :=
  ((PortReports.setBit (by simp [laneLossAddrs])).trans (.bump (by simp [laneLossAddrs]))).trans .modLane

theorem Die.sfDropped_get (g : Fld) (hs : (R.laneqLaneLstatSfLock.loc p l).apart (g.loc p l)) (hl : (R.laneqLaneLossSfLoss.loc p l).apart (g.loc p l)) :
    (d.sfDropped p l).get g p l = d.get g p l := by
  rw [Die.sfDropped, Die.modLane_get, Die.get_bump_apart _ _ _ _ _ _ _ _ _ (by decide) hl, Die.setBit, Die.get_set_apart _ _ _ _ _ _ _ _ _ _ (by decide) hs]

theorem Die.sfDropped_lock : (d.sfDropped p l).bit R.laneqLaneLstatSfLock p l = false := by
  have apart : (R.laneqLaneLossSfLoss.loc p l).apart (R.laneqLaneLstatSfLock.loc p l) := Loc.apart_of_off rfl rfl (by decide)
  rw [Die.bit, Die.sfDropped, Die.modLane_get, Die.get_bump_apart _ _ _ _ _ _ _ _ _ (by decide) apart]
  exact Die.bit_setBit d _ _ _ _ _ (by decide) rfl

theorem Die.sfDropped_counted : (d.sfDropped p l).get R.laneqLaneLossSfLoss p l = d.counted R.laneqLaneLossSfLoss p l := by
  have apart : (R.laneqLaneLstatSfLock.loc p l).apart (R.laneqLaneLossSfLoss.loc p l) := Loc.apart_of_off rfl rfl (by decide)
  rw [Die.sfDropped, Die.modLane_get, Die.get_bump _ _ _ _ _ (by decide), Die.setBit, Die.get_set_apart _ _ _ _ _ _ _ _ _ _ (by decide) apart, Die.counted]

/-- What a lane and its port show of the die `d` once the lane has left superframe lock. -/
structure SfLost (d e : Die) (p l : Nat) : Prop where
  lock : e.bit R.laneqLaneLstatSfLock p l = false
  counted : e.get R.laneqLaneLossSfLoss p l = d.counted R.laneqLaneLossSfLoss p l
  down : GoneDown d e p

theorem Die.loseSf_shows (h : d.bit R.laneqLaneLstatSfLock p l = true) : SfLost d (d.loseSf p l) p l := by
  rw [d.loseSf_locked p l h]
  obtain ⟨down, frame⟩ := (d.sfDropped p l).portDown_shows p
  obtain ⟨state, link⟩ := (d.sfDropped_frame p l).port_state
  have sw : (d.sfDropped p l).sw = d.sw := by simp [Die.sfDropped]
  have lane (g : Fld) (hp : g.page = .laneq) (ho : 0x80 ≤ g.off) : ((d.sfDropped p l).portDown p).get g p l = (d.sfDropped p l).get g p l :=
    frame.get g p l 0 (lane_not_mem_downAddrs hp ho p l)
  refine ⟨?_, ?_, down.of_same state link sw⟩
  · rw [Die.bit, lane _ rfl (by decide)]
    exact d.sfDropped_lock p l
  · rw [lane _ rfl (by decide)]
    exact d.sfDropped_counted p l

theorem Die.loseSf_frame : PortReports d (d.loseSf p l) p (lossAddrs p l) := by
  cases h : d.bit R.laneqLaneLstatSfLock p l with
  | false => rw [d.loseSf_unlocked p l h]; exact .refl
  | true =>
    rw [d.loseSf_locked p l h]
    exact ((d.sfDropped_frame p l).mono (List.subset_append_left _ _)).trans (((d.sfDropped p l).portDown_shows p).2.mono (List.subset_append_right _ _))

/-- A lane's field apart from its superframe lock and the count of its losses keeps its value. -/
theorem Die.loseSf_get (g : Fld) (hp : g.page = .laneq) (ho : 0x80 ≤ g.off) (hs : (R.laneqLaneLstatSfLock.loc p l).apart (g.loc p l))
    (hl : (R.laneqLaneLossSfLoss.loc p l).apart (g.loc p l)) : (d.loseSf p l).get g p l = d.get g p l := by
  cases h : d.bit R.laneqLaneLstatSfLock p l with
  | false => rw [d.loseSf_unlocked p l h]
  | true =>
    rw [d.loseSf_locked p l h, ((d.sfDropped p l).portDown_shows p).2.get g p l 0 (lane_not_mem_downAddrs hp ho p l)]
    exact d.sfDropped_get p l g hs hl

theorem Die.loseSf_blLock : (d.loseSf p l).bit R.laneqLaneLstatBlLock p l = d.bit R.laneqLaneLstatBlLock p l := by
  rw [Die.bit, Die.bit, d.loseSf_get p l R.laneqLaneLstatBlLock rfl (by decide) (Loc.apart_of_bits (by decide)) (Loc.apart_of_off rfl rfl (by decide))]

theorem Die.loseSf_sfLock : (d.loseSf p l).bit R.laneqLaneLstatSfLock p l = false := by
  cases h : d.bit R.laneqLaneLstatSfLock p l with
  | false => rw [d.loseSf_unlocked p l h, h]
  | true => exact (d.loseSf_shows p l h).lock

/-! ### Block lock lost (R169, R173) -/

/-- The lane that leaves block lock, counted, before it leaves superframe lock. -/
def Die.blDropped : Die :=
  ((d.setBit R.laneqLaneLstatBlLock false p l).bump R.laneqLaneLossBlLoss p l).modLane p l (fun s => { s with winPos := 0, winBad := 0 })

theorem Die.loseBl_locked (h : d.bit R.laneqLaneLstatBlLock p l = true) : d.loseBl p l = (d.blDropped p l).loseSf p l := if_pos h

theorem Die.loseBl_unlocked (h : d.bit R.laneqLaneLstatBlLock p l = false) : d.loseBl p l = d.loseSf p l := if_neg (ne_true_of_eq_false h)

theorem Die.blDropped_frame : PortReports d (d.blDropped p l) p (laneLossAddrs p l) := by
  have lstat : R.laneqLaneLstatBlLock.addrOf p l = R.laneqLaneLstatSfLock.addrOf p l := rfl
  have loss : R.laneqLaneLossBlLoss.addrOf p l = R.laneqLaneLossSfLoss.addrOf p l := rfl
  exact ((PortReports.setBit (by simp [laneLossAddrs, lstat])).trans (.bump (by simp [laneLossAddrs, loss]))).trans .modLane

theorem Die.blDropped_get (g : Fld) (hs : (R.laneqLaneLstatBlLock.loc p l).apart (g.loc p l)) (hl : (R.laneqLaneLossBlLoss.loc p l).apart (g.loc p l)) :
    (d.blDropped p l).get g p l = d.get g p l := by
  rw [Die.blDropped, Die.modLane_get, Die.get_bump_apart _ _ _ _ _ _ _ _ _ (by decide) hl, Die.setBit, Die.get_set_apart _ _ _ _ _ _ _ _ _ _ (by decide) hs]

theorem Die.blDropped_lock : (d.blDropped p l).bit R.laneqLaneLstatBlLock p l = false := by
  have apart : (R.laneqLaneLossBlLoss.loc p l).apart (R.laneqLaneLstatBlLock.loc p l) := Loc.apart_of_off rfl rfl (by decide)
  rw [Die.bit, Die.blDropped, Die.modLane_get, Die.get_bump_apart _ _ _ _ _ _ _ _ _ (by decide) apart]
  exact Die.bit_setBit d _ _ _ _ _ (by decide) rfl

theorem Die.blDropped_counted : (d.blDropped p l).get R.laneqLaneLossBlLoss p l = d.counted R.laneqLaneLossBlLoss p l := by
  have apart : (R.laneqLaneLstatBlLock.loc p l).apart (R.laneqLaneLossBlLoss.loc p l) := Loc.apart_of_off rfl rfl (by decide)
  rw [Die.blDropped, Die.modLane_get, Die.get_bump _ _ _ _ _ (by decide), Die.setBit, Die.get_set_apart _ _ _ _ _ _ _ _ _ _ (by decide) apart, Die.counted]

theorem Die.loseBl_frame : PortReports d (d.loseBl p l) p (lossAddrs p l) := by
  cases h : d.bit R.laneqLaneLstatBlLock p l with
  | false => rw [d.loseBl_unlocked p l h]; exact d.loseSf_frame p l
  | true => rw [d.loseBl_locked p l h]; exact ((d.blDropped_frame p l).mono (List.subset_append_left _ _)).trans ((d.blDropped p l).loseSf_frame p l)

/-- A window of 16 bad headers: they are counted, and the lane leaves block lock. -/
def Die.blLost (bad : Nat) : Die := (d.bump R.laneqLaneBadhdr p l bad).blDropped p l

theorem Die.blLost_frame (bad : Nat) : PortReports d (d.blLost p l bad) p (laneLossAddrs p l) :=
  (PortReports.bump (by simp [laneLossAddrs])).trans ((d.bump R.laneqLaneBadhdr p l bad).blDropped_frame p l)

theorem Die.blLost_counts (bad : Nat) : (d.blLost p l bad).get R.laneqLaneLossBlLoss p l = d.counted R.laneqLaneLossBlLoss p l
    ∧ (d.blLost p l bad).get R.laneqLaneBadhdr p l = d.counted R.laneqLaneBadhdr p l bad := by
  have loss : (d.bump R.laneqLaneBadhdr p l bad).get R.laneqLaneLossBlLoss p l = d.get R.laneqLaneLossBlLoss p l :=
    Die.get_bump_apart _ _ _ _ _ _ _ _ _ (by decide) (Loc.apart_of_off rfl rfl (by decide))
  have badhdr := Die.get_bump d R.laneqLaneBadhdr p l bad (by decide)
  refine ⟨?_, ?_⟩
  · rw [Die.blLost, Die.blDropped_counted, Die.counted, loss, Die.counted]
  · rw [Die.blLost, Die.blDropped_get _ _ _ R.laneqLaneBadhdr (Loc.apart_of_off rfl rfl (by decide)) (Loc.apart_of_off rfl rfl (by decide)), badhdr, Die.counted]

/-- A lane's field apart from its block lock, the count of its losses and its bad headers keeps its value. -/
theorem Die.blLost_get (bad : Nat) (g : Fld) (hb : (R.laneqLaneBadhdr.loc p l).apart (g.loc p l)) (hs : (R.laneqLaneLstatBlLock.loc p l).apart (g.loc p l))
    (hl : (R.laneqLaneLossBlLoss.loc p l).apart (g.loc p l)) : (d.blLost p l bad).get g p l = d.get g p l := by
  rw [Die.blLost, Die.blDropped_get _ _ _ _ hs hl, Die.get_bump_apart _ _ _ _ _ _ _ _ _ (by decide) hb]

/-- Block lock lost has no bearing on superframe lock and the count of its losses. -/
theorem Die.blLost_sf (bad : Nat) : (d.blLost p l bad).bit R.laneqLaneLstatSfLock p l = d.bit R.laneqLaneLstatSfLock p l
    ∧ (d.blLost p l bad).counted R.laneqLaneLossSfLoss p l = d.counted R.laneqLaneLossSfLoss p l := by
  refine ⟨?_, ?_⟩
  · rw [Die.bit, Die.bit, d.blLost_get p l bad R.laneqLaneLstatSfLock (Loc.apart_of_off rfl rfl (by decide)) (Loc.apart_of_bits (by decide))
      (Loc.apart_of_off rfl rfl (by decide))]
  · rw [Die.counted, Die.counted, d.blLost_get p l bad R.laneqLaneLossSfLoss (Loc.apart_of_off rfl rfl (by decide)) (Loc.apart_of_off rfl rfl (by decide))
      (Loc.apart_of_bits (by decide))]

theorem Die.loseBl_counted (bad : Nat) (h : d.bit R.laneqLaneLstatBlLock p l = true) :
    (d.bump R.laneqLaneBadhdr p l bad).loseBl p l = (d.blLost p l bad).loseSf p l := by
  refine Die.loseBl_locked _ p l ?_
  have apart : (R.laneqLaneBadhdr.loc p l).apart (R.laneqLaneLstatBlLock.loc p l) := Loc.apart_of_off rfl rfl (by decide)
  rw [Die.bit, Die.get_bump_apart _ _ _ _ _ _ _ _ _ (by decide) apart]
  exact h

theorem Die.blLost_reach (bad : Nat) : PortReports d ((d.blLost p l bad).loseSf p l) p (lossAddrs p l) :=
  ((d.blLost_frame p l bad).mono (List.subset_append_left _ _)).trans ((d.blLost p l bad).loseSf_frame p l)

/-- What the lane shows of the die `d` once it has left block lock, whether it held superframe lock or not. -/
theorem Die.blLost_shows (bad : Nat) :
    let e := (d.blLost p l bad).loseSf p l
    e.bit R.laneqLaneLstatBlLock p l = false ∧ e.get R.laneqLaneLossBlLoss p l = d.counted R.laneqLaneLossBlLoss p l
      ∧ e.get R.laneqLaneBadhdr p l = d.counted R.laneqLaneBadhdr p l bad := by
  obtain ⟨losses, headers⟩ := d.blLost_counts p l bad
  refine ⟨((d.blLost p l bad).loseSf_blLock p l).trans (Die.blDropped_lock _ p l), ?_, ?_⟩
  · rw [Die.loseSf_get _ _ _ R.laneqLaneLossBlLoss rfl (by decide) (Loc.apart_of_off rfl rfl (by decide)) (Loc.apart_of_bits (by decide)), losses]
  · rw [Die.loseSf_get _ _ _ R.laneqLaneBadhdr rfl (by decide) (Loc.apart_of_off rfl rfl (by decide)) (Loc.apart_of_off rfl rfl (by decide)), headers]

/-- A lane without superframe lock only leaves block lock; one with it shows the loss of both. -/
theorem Die.blLost_loseSf (bad : Nat) :
    (d.bit R.laneqLaneLstatSfLock p l = true → SfLost d ((d.blLost p l bad).loseSf p l) p l)
      ∧ (d.bit R.laneqLaneLstatSfLock p l = false → ((d.blLost p l bad).loseSf p l).sw = d.sw) := by
  obtain ⟨lock, counted⟩ := d.blLost_sf p l bad
  obtain ⟨state, link⟩ := (d.blLost_frame p l bad).port_state
  have sw : (d.blLost p l bad).sw = d.sw := by simp [Die.blLost, Die.blDropped]
  refine ⟨fun h => ?_, fun h => ?_⟩
  · have lost := (d.blLost p l bad).loseSf_shows p l (lock.trans h)
    exact ⟨lost.lock, lost.counted.trans counted, lost.down.of_same state link sw⟩
  · rw [Die.loseSf_unlocked _ _ _ (lock.trans h), sw]

end

/-! ### Changes of ports, and then of registers -/

theorem ChangesLane.of_ports {d e f : Die} {p l : Nat} {x : LaneSt} (h : ChangesLane d e p l x) (hf : f.ports = e.ports) : ChangesLane d f p l x := by
  obtain ⟨own, lanes, port, others⟩ := h
  refine ⟨(Die.lane_congr hf p l).trans own, fun m hm => (Die.lane_congr hf p m).trans (lanes m hm), ?_, fun q hq => (Die.port_congr hf q).trans (others q hq)⟩
  rw [Die.port_congr hf]
  exact port

theorem OnlyRegs.trans_ports {d e f : Die} {as bs : List Nat} (h : OnlyRegs d { e with ports := d.ports } as) (k : OnlyRegs e f bs) :
    OnlyRegs d { f with ports := d.ports } (as ++ bs) :=
  h.trans { k with units := { k.units with ports := rfl } }

/-! ### Locks gained (R169, R171, R172, R174) -/

section
variable (d : Die) (p l : Nat)

/-- The lane in superframe lock at an offset, before its port is looked at. -/
def Die.sfGained (ofs : Nat) : Die :=
  (((d.setBit R.laneqLaneLstatSfLock true p l).set R.laneqLaneLstatSfOfs ofs p l).setBit R.laneqLaneLstatHintPol false p l).modLane p l
    (fun s => { s with uncorrRun := 0, logRun := 0 })

/-- A port that is DOWN goes to ALIGN with the lock of its fourth lane (R195). -/
def Die.tryAlignState : Die := if d.allSf p && d.get R.laneqPstatState p == 0 then d.set R.laneqPstatState 1 p else d

theorem exec_sfLock (p : BitVec 6) (l : BitVec 2) (ofs : Fin 20) (s : State) :
    exec (.sfLock p l ofs) s = act s (fun d =>
      if d.bit R.laneqLaneLstatBlLock p.toNat l.toNat then (d.sfGained p.toNat l.toNat ofs.val).tryAlignState p.toNat else d) := rfl

theorem Die.sfGained_reach (ofs : Nat) : OnlyRegs d { d.sfGained p l ofs with ports := d.ports } [R.laneqLaneLstatSfLock.addrOf p l] := by
  let x := d.setBit R.laneqLaneLstatSfLock true p l
  let y := x.set R.laneqLaneLstatSfOfs ofs p l
  have lock : OnlyRegs d x [R.laneqLaneLstatSfLock.addrOf p l] := OnlyRegs.setBit _ _ _ _ _ _
  have offset : OnlyRegs x y [R.laneqLaneLstatSfLock.addrOf p l] := OnlyRegs.set _ _ _ _ _ _
  have hint : OnlyRegs y (y.setBit R.laneqLaneLstatHintPol false p l) [R.laneqLaneLstatSfLock.addrOf p l] := OnlyRegs.setBit _ _ _ _ _ _
  exact ((lock.trans offset).trans hint).mono (by simp)

/-- The lane's lock, its offset, and no hint any more. -/
theorem Die.sfGained_status {ofs : Nat} (ho : ofs < 32) : (d.sfGained p l ofs).bit R.laneqLaneLstatSfLock p l = true
    ∧ (d.sfGained p l ofs).get R.laneqLaneLstatSfOfs p l = ofs ∧ (d.sfGained p l ofs).bit R.laneqLaneLstatHintPol p l = false := by
  have lock : (d.setBit R.laneqLaneLstatSfLock true p l).bit R.laneqLaneLstatSfLock p l = true := Die.bit_setBit _ _ _ _ _ _ (by decide) rfl
  have offset : ((d.setBit R.laneqLaneLstatSfLock true p l).set R.laneqLaneLstatSfOfs ofs p l).get R.laneqLaneLstatSfOfs p l = ofs :=
    (Die.get_set _ _ _ _ _ _ (by decide)).trans (Nat.mod_eq_of_lt ho)
  refine ⟨?_, ?_, Die.bit_setBit _ _ _ _ _ _ (by decide) rfl⟩
  · rw [Die.bit, Die.sfGained, Die.modLane_get, Die.setBit, Die.get_set_apart _ _ _ _ _ _ _ _ _ _ (by decide) (Loc.apart_of_bits (by decide)),
      Die.get_set_apart _ _ _ _ _ _ _ _ _ _ (by decide) (Loc.apart_of_bits (by decide))]
    exact lock
  · rw [Die.sfGained, Die.modLane_get, Die.setBit, Die.get_set_apart _ _ _ _ _ _ _ _ _ _ (by decide) (Loc.apart_of_bits (by decide))]
    exact offset

theorem Die.tryAlignState_reach : OnlyRegs d (d.tryAlignState p) [R.laneqPstatState.addrOf p] := by
  unfold Die.tryAlignState
  split
  case isTrue => exact OnlyRegs.set _ _ _ _ _ _
  case isFalse => exact OnlyRegs.refl _ _

theorem Die.tryAlignState_allSf : (d.tryAlignState p).allSf p = d.allSf p := by
  have lanes (m : Nat) : (d.tryAlignState p).bit R.laneqLaneLstatSfLock p m = d.bit R.laneqLaneLstatSfLock p m := by
    rw [Die.bit, Die.bit, (d.tryAlignState_reach p).get R.laneqLaneLstatSfLock p m 0]
    rw [addrOf_laneqLaneLstat, addrOf_laneqPstatState, List.mem_singleton]
    omega
  unfold Die.allSf
  simp only [lanes]

theorem Die.tryAlignState_state : (d.tryAlignState p).get R.laneqPstatState p
    = if (d.tryAlignState p).allSf p = true ∧ d.get R.laneqPstatState p = 0 then 1 else d.get R.laneqPstatState p := by
  rw [d.tryAlignState_allSf p, Die.tryAlignState]
  by_cases h : d.allSf p = true ∧ d.get R.laneqPstatState p = 0
  · have aligns : (d.allSf p && d.get R.laneqPstatState p == 0) = true := by simp [h]
    rw [if_pos aligns, if_pos h]
    exact Die.get_set _ _ _ _ _ _ (by decide)
  · have stays : ¬ (d.allSf p && d.get R.laneqPstatState p == 0) = true := by simpa using h
    rw [if_neg stays, if_neg h]

/-- What a lane and its port show of the die `d` once the lane is in superframe lock at an offset. -/
theorem Die.sfGained_shows {ofs : Nat} (ho : ofs < 32) :
    let e := (d.sfGained p l ofs).tryAlignState p
    e.bit R.laneqLaneLstatSfLock p l = true ∧ e.get R.laneqLaneLstatSfOfs p l = ofs ∧ e.bit R.laneqLaneLstatHintPol p l = false
      ∧ e.get R.laneqPstatState p = (if e.allSf p = true ∧ d.get R.laneqPstatState p = 0 then 1 else d.get R.laneqPstatState p)
      ∧ ChangesLane d e p l { d.lane p l with uncorrRun := 0, logRun := 0 }
      ∧ OnlyRegs d { e with ports := d.ports } [R.laneqLaneLstatSfLock.addrOf p l, R.laneqPstatState.addrOf p] := by
  have gained := d.sfGained_reach p l ofs
  have aligned := (d.sfGained p l ofs).tryAlignState_reach p
  have status (g : Fld) (hg : g.addrOf p l = R.laneqLaneLstatSfLock.addrOf p l) :
      ((d.sfGained p l ofs).tryAlignState p).get g p l = (d.sfGained p l ofs).get g p l := by
    refine aligned.get g p l 0 ?_
    rw [hg, addrOf_laneqLaneLstat, addrOf_laneqPstatState, List.mem_singleton]
    omega
  have state : (d.sfGained p l ofs).get R.laneqPstatState p = d.get R.laneqPstatState p := by
    refine gained.get R.laneqPstatState p 0 0 ?_
    rw [addrOf_laneqLaneLstat, addrOf_laneqPstatState, List.mem_singleton]
    omega
  have changes : ChangesLane d (d.sfGained p l ofs) p l { d.lane p l with uncorrRun := 0, logRun := 0 } :=
    Die.changesLane_modLane (by simp) p l (fun s => { s with uncorrRun := 0, logRun := 0 })
  obtain ⟨lock, offset, hint⟩ := d.sfGained_status p l ho
  have shows := (d.sfGained p l ofs).tryAlignState_state p
  rw [state] at shows
  refine ⟨?_, (status R.laneqLaneLstatSfOfs rfl).trans offset, ?_, shows, ChangesLane.of_ports changes aligned.units.ports, gained.trans_ports aligned⟩
  · rw [Die.bit, status R.laneqLaneLstatSfLock rfl]
    exact lock
  · rw [Die.bit, status R.laneqLaneLstatHintPol rfl]
    exact hint

end

/-! ### The statement -/

/-- Settles O20: each command by the die that it ends with, and what that die shows. -/
theorem lanesGainAndLoseLock : Obligations.LanesGainAndLoseLock := by
  refine ⟨fun s p l ofs ha => ?gained, fun s p l bad ha => ?lost⟩
  case gained =>
    refine ⟨completes_of_act _ s _ _ rfl ha ⟨Die.bit_setBit _ _ _ _ _ _ (by decide) rfl, OnlyRegs.setBit _ _ _ _ _ _⟩, fun h => ?block, fun h k => ?hint,
      fun h => ?superframe⟩
    case block =>
      refine completes_of_act _ s _ _ rfl ha ?_
      rw [if_pos h]
      exact ⟨Die.bit_setBit _ _ _ _ _ _ (by decide) rfl, Die.changesLane_modLane (by simp) _ _ _, OnlyRegs.setBit _ _ _ _ _ _⟩
    case hint =>
      refine completes_of_act _ s _ _ rfl ha ?_
      have hunts : (s.die.bit R.laneqLaneLstatBlLock p.toNat l.toNat && !s.die.bit R.laneqLaneLstatSfLock p.toNat l.toNat) = true := by simp [h, k]
      rw [if_pos hunts]
      exact ⟨Die.bit_setBit _ _ _ _ _ _ (by decide) rfl, OnlyRegs.setBit _ _ _ _ _ _⟩
    case superframe =>
      refine completes_of_act _ s _ _ (exec_sfLock p l ofs s) ha ?_
      rw [if_pos h]
      exact s.die.sfGained_shows _ _ (by omega)
  case lost =>
    refine ⟨fun h => completes_of_act _ s _ _ rfl ha ?superframe, fun h => becomes_of_act _ s _ _ rfl ha (s.die.loseSf_unlocked _ _ h), fun h => ?block⟩
    case superframe =>
      obtain ⟨others, reach⟩ := s.die.loseSf_frame p.toNat l.toNat
      obtain ⟨lock, counted, state, cause, link, lost, sw⟩ := s.die.loseSf_shows _ _ h
      exact ⟨⟨lock, state, link, cause, lost, counted, sw⟩, ⟨others, reach⟩, s.die.loseSf_blLock _ _⟩
    case block =>
      refine completes_of_act _ s _ _ rfl ha ?_
      rw [if_pos h, s.die.loseBl_counted _ _ _ h]
      obtain ⟨others, reach⟩ := s.die.blLost_reach p.toNat l.toNat bad.toNat
      obtain ⟨lock, losses, headers⟩ := s.die.blLost_shows p.toNat l.toNat bad.toNat
      obtain ⟨locked, unlocked⟩ := s.die.blLost_loseSf p.toNat l.toNat bad.toNat
      refine ⟨lock, losses, headers, fun k => ?_, unlocked, others, reach⟩
      obtain ⟨lock, counted, state, cause, link, lost, sw⟩ := locked k
      exact ⟨lock, state, link, cause, lost, counted, sw⟩

end Sys2Proof.Machine
end

section
/-!
PROOF. A port's bring-up (spec 04): alignment, the port that comes up and enters INIT, LINK_DOWN and REHUNT (R176, R177, R179, R180, R195, R197, R198, R242).
-/
namespace Sys2Proof.Machine

/-! ### Effects repeated over lanes and VCs -/

section
variable {d : Die} {p : Nat} {as : List Nat}

theorem PortReports.forAll {α : Type} {f : Die → α → Die} (l : List α) (h : ∀ e, ∀ x ∈ l, PortReports e (f e x) p as) :
    PortReports d (d.forAll l f) p as := by
  induction l generalizing d with
  | nil => exact .refl
  | cons x r ih => exact (h d x List.mem_cons_self).trans (ih fun e y hy => h e y (List.mem_cons_of_mem _ hy))

end

/-- What each effect of a list keeps, the whole list keeps. -/
theorem Die.forAll_keep {α β : Type} (g : Die → β) {f : Die → α → Die} (h : ∀ e x, g (f e x) = g e) (l : List α) (d : Die) : g (d.forAll l f) = g d := by
  induction l generalizing d with
  | nil => rfl
  | cons x r ih => exact (ih (f d x)).trans (h d x)

/-- What the effect of one member of a list brings about, and no other undoes, holds once the list is done. -/
theorem Die.forAll_brings {α : Type} {P : Die → Prop} {f : Die → α → Die} (m : α) (own : ∀ e, P (f e m)) (other : ∀ e x, x ≠ m → P e → P (f e x))
    (l : List α) (d : Die) (h : m ∈ l ∨ P d) : P (d.forAll l f) := by
  induction l generalizing d with
  | nil => exact h.resolve_left List.not_mem_nil
  | cons x r ih =>
    refine ih (f d x) ?_
    by_cases same : x = m
    · exact .inr (same ▸ own d)
    · exact h.imp (fun k => (List.mem_cons.1 k).resolve_left (Ne.symm same)) (other d x same)

theorem Die.get_congr {d e : Die} (h : e.regs = d.regs) (g : Fld) (i j k : Nat) : e.get g i j k = d.get g i j k := by
  rw [Die.get_addr, Die.get_addr, Die.dword, Die.dword, h]

theorem Die.isDrop_congr {d e : Die} (h : e.casc = d.casc) (p : Nat) : e.isDrop p = d.isDrop p := by
  unfold Die.isDrop Die.role
  rw [h]

theorem PortReports.isDrop {d e : Die} {p : Nat} {as : List Nat} (h : PortReports d e p as) (q : Nat) : e.isDrop q = d.isDrop q :=
  Die.isDrop_congr h.reach.units.casc q

/-- A port changed but for its lanes keeps them. -/
theorem Die.lane_modPort (d : Die) (p l : Nat) {f : PortSt → PortSt} (hf : ∀ s, (f s).lanes = s.lanes) : (d.modPort p f).lane p l = d.lane p l := by
  rw [Die.lane, Die.port_modPort_self, hf]
  rfl

/-- A port changed but for its VCs keeps them. -/
theorem Die.vc_modPort (d : Die) (p v : Nat) {f : PortSt → PortSt} (hf : ∀ s, (f s).vcs = s.vcs) : (d.modPort p f).vc p v = d.vc p v := by
  rw [Die.vc, Die.port_modPort_self, hf]
  rfl

/-! ### Hunting again (R198) -/

section
variable (d : Die) (p : Nat)

/-- Does a lane hold neither lock? -/
def Die.unlocked (l : Nat) : Bool := !d.bit R.laneqLaneLstatBlLock p l && !d.bit R.laneqLaneLstatSfLock p l

theorem Die.loseBl_unlocks (l : Nat) : (d.loseBl p l).unlocked p l = true := by
  have block : (d.loseBl p l).bit R.laneqLaneLstatBlLock p l = false ∧ (d.loseBl p l).bit R.laneqLaneLstatSfLock p l = false := by
    cases h : d.bit R.laneqLaneLstatBlLock p l with
    | false => rw [d.loseBl_unlocked p l h]; exact ⟨(d.loseSf_blLock p l).trans h, d.loseSf_sfLock p l⟩
    | true => rw [d.loseBl_locked p l h]; exact ⟨(Die.loseSf_blLock _ p l).trans (d.blDropped_lock p l), Die.loseSf_sfLock _ p l⟩
  simp [Die.unlocked, block]

/-- Another lane's locks stay. -/
theorem Die.loseBl_unlocked_other {l m : Nat} (h : m ≠ l) : (d.loseBl p l).unlocked p m = d.unlocked p m := by
  have frame := d.loseBl_frame p l
  have away : R.laneqLaneLstatSfLock.addrOf p m ∉ lossAddrs p l := lstat_not_mem_lossAddrs h
  unfold Die.unlocked Die.bit
  rw [frame.get R.laneqLaneLstatBlLock p m 0 away, frame.get R.laneqLaneLstatSfLock p m 0 away]

/-- Each lane of the list leaves its locks. -/
theorem Die.forAll_loseBl_unlocked {m : Nat} {ls : List Nat} (h : m ∈ ls) : (d.forAll ls (fun d l => d.loseBl p l)).unlocked p m = true :=
  Die.forAll_brings (P := fun e => e.unlocked p m = true) m (fun e => e.loseBl_unlocks p m)
    (fun e _ hl k => (e.loseBl_unlocked_other p (Ne.symm hl)).trans k) ls d (.inl h)

theorem Die.forAll_loseBl_others (ls : List Nat) : OtherPorts d (d.forAll ls (fun d l => d.loseBl p l)) p := by
  induction ls generalizing d with
  | nil => exact fun _ _ => rfl
  | cons l r ih => exact fun q hq => (ih (d.loseBl p l) q hq).trans ((d.loseBl_frame p l).others q hq)

/-! ### Alignment that fails (R177, R179) -/

theorem Die.alignFail_shows (code : Nat) (h : (d.port p).alignBad = false) :
    let e := d.alignFail p code
    Logged d e (pageIndex .laneq p) code 1 ∧ e.hasCause I.laneqAlignBad p = true
      ∧ ChangesPort d e p { d.port p with alignBad := true } ∧ OnlyLogs d { e with ports := d.ports } [I.laneqAlignBad.addrOf p] := by
  have fails : d.alignFail p code = ((d.modPort p (fun s => { s with alignBad := true })).logErr .laneq p code 1 (leBytes 1 p)).raise I.laneqAlignBad p :=
    if_neg (ne_true_of_eq_false h)
  dsimp only
  rw [fails]
  obtain ⟨reach, logged⟩ := (d.modPort p (fun s => { s with alignBad := true })).logErr_reach .laneq p code 1 (leBytes 1 p) none false none
  generalize (d.modPort p (fun s => { s with alignBad := true })).logErr .laneq p code 1 (leBytes 1 p) = x at reach logged
  have raised := OnlyReports.raise x I.laneqAlignBad p 0
  have ports : (x.raise I.laneqAlignBad p).ports = (d.modPort p (fun s => { s with alignBad := true })).ports :=
    raised.units.ports.trans reach.units.ports
  refine ⟨logged.of_err rfl raised.err, Die.hasCause_raise x _ p 0 (by decide), ⟨?_, fun q hq => ?_⟩, (reach.tr0 raised.logs).ports_changed _⟩
  · rw [Die.port_congr ports, Die.port_modPort_self]
  · rw [Die.port_congr ports]
    exact d.otherPorts_modPort p _ q hq

/-! ### INIT (R217, R218, R225, R226, R242, R257) -/

/-- The fragments of a hello join the port's queue, and are noted as sent. -/
theorem Die.sendHello_eq (frag : Nat) :
    d.sendHello p frag = (d.queueMsg p (.hello (BitVec.ofNat 4 frag) (d.helloData p frag))).modPort p
      (fun s => { s with helloTx := smapSet none s.helloTx frag (some (d.helloData p frag)) }) := rfl

theorem Die.sendHello_keeps (frag w l : Nat) : (d.sendHello p frag).vc p w = d.vc p w ∧ (d.sendHello p frag).lane p l = d.lane p l := by
  rw [Die.sendHello_eq]
  exact ⟨(Die.vc_modPort _ p w (by intro; rfl)).trans (d.vc_modPort p w (by intro; rfl)),
    (Die.lane_modPort _ p l (by intro; rfl)).trans (d.lane_modPort p l (by intro; rfl))⟩

theorem Die.sendHellos_keeps (w l : Nat) : (d.sendHellos p).vc p w = d.vc p w ∧ (d.sendHellos p).lane p l = d.lane p l := by
  unfold Die.sendHellos
  split
  case isTrue =>
    exact ⟨Die.forAll_keep (fun e => e.vc p w) (fun e f => (e.sendHello_keeps p f w l).1) _ d,
      Die.forAll_keep (fun e => e.lane p l) (fun e f => (e.sendHello_keeps p f w l).2) _ d⟩
  case isFalse => exact ⟨rfl, rfl⟩

theorem Die.sendHellos_regs : (d.sendHellos p).regs = d.regs := by
  unfold Die.sendHellos
  split
  case isTrue => exact Die.forAll_keep Die.regs (by intros; rfl) _ d
  case isFalse => rfl

theorem Die.sendHellos_frame {as : List Nat} : PortReports d (d.sendHellos p) p as := by
  unfold Die.sendHellos
  split
  case isTrue => exact .forAll _ fun e _ _ => PortReports.trans (.modPort : PortReports e (e.queueMsg p _) p as) .modPort
  case isFalse => exact .refl

/-- Each VC starts with the credits that its port grants (R225, R226). -/
def Die.initCredits (vs : List Nat) : Die :=
  d.forAll vs (fun d v =>
    let r := BitVec.ofNat 15 (d.grantFor p v)
    d.modVc p v (fun s => { s with ret := r, lastRet := r }))

theorem Die.initCredits_frame (vs : List Nat) {as : List Nat} : PortReports d (d.initCredits p vs) p as := .forAll _ fun _ _ _ => .modPort

theorem Die.initCredits_lane (vs : List Nat) (l : Nat) : (d.initCredits p vs).lane p l = d.lane p l :=
  Die.forAll_keep (fun e => e.lane p l) (fun e _ => e.lane_modPort p l (by intro; rfl)) vs d

theorem Die.initCredits_ret {w : Nat} {vs : List Nat} (h : w ∈ vs) :
    ((d.initCredits p vs).vc p w).ret = BitVec.ofNat 15 (d.grantFor p w) := by
  have pool : (d.initCredits p vs).grantFor p w = d.grantFor p w := Die.forAll_keep (fun e => e.grantFor p w) (by intros; rfl) vs d
  rw [← pool]
  refine Die.forAll_brings (P := fun e => (e.vc p w).ret = BitVec.ofNat 15 (e.grantFor p w)) w (fun e => ?own) (fun e v hv k => ?other) vs d (.inl h)
  case own =>
    rw [Die.vc_modVc, if_pos rfl]
    rfl
  case other =>
    rw [Die.vc_modVc, if_neg (Ne.symm hv)]
    exact k

/-- The link's messages are numbered from the start (R217, R218). -/
def Die.initMsgs : Die := ((d.set R.portMsgNextMsn 0 p).set R.portMsgMackIn 63 p).set R.portMsgMackOut 63 p

/-- The port's pages are in service again (R906). -/
def Die.initService : Die := (d.hset R.hdrStatReset 0 .port p).hset R.hdrStatReset 0 .laneq p

/-- The link is in INIT and PS0 (R242). -/
def Die.initLink : Die := (d.set R.portLinkState 1 p).set R.portLinkPs 0 p

/-- The dwords that INIT may change. -/
def initAddrs : List Nat :=
  [R.portMsgNextMsn.addrOf p, R.hdrStatReset.addrOf (pageIndex .port p), R.hdrStatReset.addrOf (pageIndex .laneq p), R.portLinkState.addrOf p]

theorem mem_initAddrs (x : Nat) : x ∈ initAddrs p ↔ x = 0x1000 * (0x10 + p) + 0x60 ∨ x = 0x1000 * (0x10 + p) + 0x0C ∨ x = 0x1000 * (0x50 + p) + 0x0C
    ∨ x = 0x1000 * (0x10 + p) + 0x40 := by
  have msg : R.portMsgNextMsn.addrOf p = 0x1000 * (0x10 + p) + 0x60 := rfl
  have portStat : R.hdrStatReset.addrOf (pageIndex .port p) = 0x1000 * (0x10 + p) + 0x0C := rfl
  have laneqStat : R.hdrStatReset.addrOf (pageIndex .laneq p) = 0x1000 * (0x50 + p) + 0x0C := rfl
  simp [initAddrs, msg, portStat, laneqStat, addrOf_portLinkState]

/-- A page's own registers in LANEQ are not among them. -/
theorem laneq_not_mem_initAddrs {g : Fld} (hp : g.page = .laneq) (ho : 0x40 ≤ g.off) (j : Nat) : g.addrOf p j ∉ initAddrs p := by
  rw [mem_initAddrs, Fld.addrOf_eq, hp]
  simp only [pageIndex]
  omega

theorem Die.initRegs_frame : PortReports d (((d.initMsgs p).initService p).initLink p) p (initAddrs p) := by
  have msg : R.portMsgNextMsn.addrOf p ∈ initAddrs p := by simp [initAddrs]
  have portStat : R.hdrStatReset.addrOf (pageIndex .port p) ∈ initAddrs p := by simp [initAddrs]
  have laneqStat : R.hdrStatReset.addrOf (pageIndex .laneq p) ∈ initAddrs p := by simp [initAddrs]
  have link : R.portLinkState.addrOf p ∈ initAddrs p := by simp [initAddrs]
  have mackIn : R.portMsgMackIn.addrOf p ∈ initAddrs p := msg
  have mackOut : R.portMsgMackOut.addrOf p ∈ initAddrs p := msg
  have ps : R.portLinkPs.addrOf p ∈ initAddrs p := link
  have messages (e : Die) : PortReports e (e.initMsgs p) p (initAddrs p) := ((PortReports.set msg).trans (.set mackIn)).trans (.set mackOut)
  have service (e : Die) : PortReports e (e.initService p) p (initAddrs p) := (PortReports.set portStat).trans (.set laneqStat)
  have state (e : Die) : PortReports e (e.initLink p) p (initAddrs p) := (PortReports.set link).trans (.set ps)
  exact ((messages d).trans (service _)).trans (state _)

theorem Die.initRegs_ports : (((d.initMsgs p).initService p).initLink p).ports = d.ports := by
  rw [Die.initLink, Die.set_ports, Die.set_ports, Die.initService, Die.hset_ports, Die.hset_ports, Die.initMsgs, Die.set_ports, Die.set_ports, Die.set_ports]

theorem Die.initLink_shows : (d.initLink p).link p = 1 ∧ (d.initLink p).get R.portLinkPs p = 0 := by
  refine ⟨?_, Die.get_set _ R.portLinkPs 0 p 0 0 (by decide)⟩
  rw [Die.link, Die.initLink, Die.get_set_apart _ R.portLinkPs R.portLinkState _ _ _ _ _ _ _ (by decide) (Loc.apart_of_bits (by decide))]
  exact Die.get_set _ R.portLinkState 1 p 0 0 (by decide)

/-- INIT: the port's own state starts again but for its lanes, then its credits, its registers and its hellos. -/
theorem Die.linkInit_eq : ∃ f : PortSt → PortSt, (∀ s, (f s).lanes = s.lanes)
    ∧ d.linkInit p = (((((d.modPort p f).initCredits p (List.range 8)).initMsgs p).initService p).initLink p).sendHellos p := by
  refine ⟨_, ?lanes, rfl⟩
  case lanes => exact fun _ => rfl

/-- A port that enters INIT shows it, grants its credits afresh, and reaches no further. -/
theorem Die.linkInit_shows :
    let e := d.linkInit p
    e.link p = 1 ∧ e.get R.portLinkPs p = 0 ∧ (∀ v < 8, (e.vc p v).ret = BitVec.ofNat 15 (d.grantFor p v))
      ∧ (∀ l, e.lane p l = d.lane p l) ∧ PortReports d e p (initAddrs p) := by
  obtain ⟨f, lanes, init⟩ := d.linkInit_eq p
  dsimp only
  rw [init]
  have credits : PortReports d ((d.modPort p f).initCredits p (List.range 8)) p (initAddrs p) :=
    PortReports.modPort.trans ((d.modPort p f).initCredits_frame p _)
  have ret (v : Nat) (hv : v < 8) := (d.modPort p f).initCredits_ret p (List.mem_range.2 hv)
  have lane (l : Nat) := ((d.modPort p f).initCredits_lane p (List.range 8) l).trans (d.lane_modPort p l lanes)
  generalize (d.modPort p f).initCredits p (List.range 8) = x at credits ret lane ⊢
  have frame := x.initRegs_frame p
  have ports : ((((x.initMsgs p).initService p).initLink p)).ports = x.ports := x.initRegs_ports p
  obtain ⟨link, ps⟩ := ((x.initMsgs p).initService p).initLink_shows p
  generalize (((x.initMsgs p).initService p).initLink p) = y at frame ports link ps ⊢
  have regs := y.sendHellos_regs p
  refine ⟨(Die.get_congr regs _ _ _ _).trans link, (Die.get_congr regs _ _ _ _).trans ps, fun v hv => ?_, fun l => ?_,
    (credits.trans frame).trans (y.sendHellos_frame p)⟩
  · rw [(y.sendHellos_keeps p v 0).1, Die.vc, Die.port_congr ports]
    exact ret v hv
  · rw [(y.sendHellos_keeps p 0 l).2, Die.lane_congr ports]
    exact lane l

/-- A DROP port grants 2,048 flits on the even VCs and none on the others (R224, R225). -/
theorem Die.grantFor_drop (h : d.isDrop p = true) (v : Nat) : d.grantFor p v = if v % 2 = 0 then 2048 else 0 := if_pos h

/-! ### UP (R176, R180, R187, R195, R199) -/

theorem addrOf_laneqPortUp : I.laneqPortUp.addrOf p = 0x1000 * (0x50 + p) + 0x20 := rfl

/-- UP, with the map and the latency of this bring-up (R176, R187, R195). -/
def Die.upShown (lat : Nat) (rev : Bool) : Die :=
  (((d.set R.laneqPstatState 2 p).setBit R.laneqPstatReversed rev p).raise I.laneqPortUp p).set R.laneqLatCurlat lat p

/-- The depth of each lane's deskew is recorded (R180). -/
def Die.noteDeskew (depths ls : List Nat) : Die := d.forAll ls (fun d l => d.modLane p l (fun s => { s with deskew := some (depths.getD l 0) }))

/-- The first bring-up records the depths, and their skew. -/
def Die.recordDeskew (depths : List Nat) : Die :=
  if (d.port p).recorded then d
  else (d.noteDeskew p depths (List.range 4)).set R.laneqPstatSkew (depths.foldl max 0 - depths.foldl min 15) p

/-- The recorded fills are restored (R199). -/
def Die.restoreFills : Die :=
  d.forAll (List.range 4) (fun d l => match (d.lane p l).fillRec with
    | some n => d.set R.laneqLanePhaseFill n p l
    | none => d)

/-- After centring, a latency that differs by more than a cycle is LATENCY_SHIFT (R199). -/
def Die.checkLatency (lat : Nat) : Die :=
  if d.bit R.laneqPstatCentred p && (decide (d.get R.laneqLatRxlat p + 1 < lat) || decide (lat + 1 < d.get R.laneqLatRxlat p)) then
    (((d.logErr .laneq p 0x0406 0 (leBytes 1 p ++ leBytes 2 lat)).raise I.laneqLatShift p).set R.laneqLatRxlat lat p).modPort p
      (fun s => { s with shifted := true })
  else d

theorem Die.portUp_eq (depths : List Nat) (lat : Nat) (rev : Bool) :
    d.portUp p depths lat rev = (((((d.upShown p lat rev).recordDeskew p depths).modPort p
      (fun s => { s with recorded := true })).restoreFills p).checkLatency p lat).linkInit p := rfl

/-- The dwords that a port which comes up may change before INIT: its status, latency, cause and fills. -/
def upAddrs : List Nat :=
  [R.laneqPstatState.addrOf p, R.laneqLatCurlat.addrOf p, I.laneqPortUp.addrOf p] ++ (List.range 4).map (fun l => R.laneqLanePhaseFill.addrOf p l)

theorem Die.upShown_frame (lat : Nat) (rev : Bool) : PortReports d (d.upShown p lat rev) p (upAddrs p) := by
  have state : R.laneqPstatState.addrOf p ∈ upAddrs p := by simp [upAddrs]
  have reversed : R.laneqPstatReversed.addrOf p ∈ upAddrs p := state
  have cause : I.laneqPortUp.addrOf p ∈ upAddrs p := by simp [upAddrs]
  have latency : R.laneqLatCurlat.addrOf p ∈ upAddrs p := by simp [upAddrs]
  exact (((PortReports.set state).trans (.setBit reversed)).trans (.raise cause)).trans (.set latency)

/-- A field of PSTAT reads what the state and the map make of it. -/
theorem Die.upShown_pstat (lat : Nat) (rev : Bool) {g : Fld} (hp : g.page = .laneq) (ho : g.off = 0x40) (hs : g.step = 4) :
    (d.upShown p lat rev).get g p = ((d.set R.laneqPstatState 2 p).setBit R.laneqPstatReversed rev p).get g p := by
  have latency : (R.laneqLatCurlat.loc p).apart (g.loc p) := Loc.apart_of_off hp hs (by rw [ho]; decide)
  have cause : g.addrOf p ≠ I.laneqPortUp.addrOf p := by
    rw [addrOf_laneqPortUp, Fld.addrOf_eq, hp, ho]
    simp only [pageIndex]
    omega
  rw [Die.upShown, Die.get_set_apart _ _ _ _ _ _ _ _ _ _ (by decide) latency, Die.get_raise _ _ _ _ _ _ _ _ cause]

theorem Die.upShown_shows {lat : Nat} (hl : lat < 4096) (rev : Bool) :
    let e := d.upShown p lat rev
    e.get R.laneqPstatState p = 2 ∧ e.bit R.laneqPstatReversed p = rev ∧ e.bit R.laneqPstatCentred p = d.bit R.laneqPstatCentred p
      ∧ e.get R.laneqLatCurlat p = lat ∧ e.hasCause I.laneqPortUp p = true := by
  refine ⟨?_, ?_, ?_, (Die.get_set _ _ _ _ _ _ (by decide)).trans (Nat.mod_eq_of_lt hl), ?_⟩
  · rw [d.upShown_pstat p lat rev rfl rfl rfl, Die.setBit, Die.get_set_apart _ _ _ _ _ _ _ _ _ _ (by decide) (Loc.apart_of_bits (by decide))]
    exact Die.get_set _ _ _ _ _ _ (by decide)
  · rw [Die.bit, d.upShown_pstat p lat rev rfl rfl rfl]
    exact Die.bit_setBit _ _ _ _ _ _ (by decide) rfl
  · rw [Die.bit, d.upShown_pstat p lat rev rfl rfl rfl, Die.setBit, Die.get_set_apart _ _ _ _ _ _ _ _ _ _ (by decide) (Loc.apart_of_bits (by decide)),
      Die.get_set_apart _ _ _ _ _ _ _ _ _ _ (by decide) (Loc.apart_of_bits (by decide))]
    rfl
  · have latency : I.laneqPortUp.addrOf p ∉ [R.laneqLatCurlat.addrOf p] := by
      have lat : R.laneqLatCurlat.addrOf p = 0x1000 * (0x50 + p) + 0x48 := rfl
      rw [addrOf_laneqPortUp, lat, List.mem_singleton]
      omega
    exact ((OnlyRegs.set _ R.laneqLatCurlat lat p 0 0).reports.hasCause _ _ latency).trans (Die.hasCause_raise _ I.laneqPortUp p 0 (by decide))

theorem Die.noteDeskew_regs (depths ls : List Nat) : (d.noteDeskew p depths ls).regs = d.regs := Die.forAll_keep Die.regs (by intros; rfl) ls d

theorem Die.noteDeskew_deskew (depths : List Nat) {m : Nat} {ls : List Nat} (h : m ∈ ls) :
    ((d.noteDeskew p depths ls).lane p m).deskew = some (depths.getD m 0) := by
  refine Die.forAll_brings (P := fun e => (e.lane p m).deskew = some (depths.getD m 0)) m (fun e => ?own) (fun e l hl k => ?other) ls d (.inl h)
  case own => rw [Die.lane_modLane, if_pos rfl]
  case other =>
    rw [Die.lane_modLane, if_neg (Ne.symm hl)]
    exact k

theorem Die.restoreFills_ports : (d.restoreFills p).ports = d.ports := Die.forAll_keep Die.ports (fun e l => by split <;> rfl) _ d

theorem Die.restoreFills_frame : PortReports d (d.restoreFills p) p ((List.range 4).map (fun l => R.laneqLanePhaseFill.addrOf p l)) :=
  .forAll _ fun e l hl => by
    split
    case h_1 => exact .set (List.mem_map_of_mem hl)
    case h_2 => exact .refl

/-! ### The first bring-up (R180) -/

theorem Die.noteDeskew_frame (depths ls : List Nat) {as : List Nat} : PortReports d (d.noteDeskew p depths ls) p as := .forAll _ fun _ _ _ => .modLane

theorem Die.recordDeskew_first (depths : List Nat) (h : (d.port p).recorded = false) :
    d.recordDeskew p depths = (d.noteDeskew p depths (List.range 4)).set R.laneqPstatSkew (depths.foldl max 0 - depths.foldl min 15) p :=
  if_neg (ne_true_of_eq_false h)

theorem Die.recordDeskew_frame (depths : List Nat) : PortReports d (d.recordDeskew p depths) p [R.laneqPstatState.addrOf p] := by
  have skew : R.laneqPstatSkew.addrOf p ∈ [R.laneqPstatState.addrOf p] := List.mem_singleton_self _
  unfold Die.recordDeskew
  split
  case isTrue => exact .refl
  case isFalse => exact (d.noteDeskew_frame p depths _).trans (.set skew)

/-- The first bring-up shows the skew, records each lane's depth, and keeps every field apart from the skew. -/
theorem Die.recordDeskew_shows (depths : List Nat) (h : (d.port p).recorded = false) (hs : depths.foldl max 0 - depths.foldl min 15 < 16) :
    let e := d.recordDeskew p depths
    e.get R.laneqPstatSkew p = depths.foldl max 0 - depths.foldl min 15 ∧ (∀ l < 4, (e.lane p l).deskew = some (depths.getD l 0))
      ∧ ∀ g : Fld, (R.laneqPstatSkew.loc p).apart (g.loc p) → e.get g p = d.get g p := by
  dsimp only
  rw [d.recordDeskew_first p depths h]
  refine ⟨(Die.get_set _ _ _ _ _ _ (by decide)).trans (Nat.mod_eq_of_lt hs), fun l hl => ?_, fun g hg => ?_⟩
  · rw [Die.lane_congr (Die.set_ports _ _ _ _ _ _)]
    exact d.noteDeskew_deskew p depths (List.mem_range.2 hl)
  · rw [Die.get_set_apart _ _ _ _ _ _ _ _ _ _ (by decide) hg, Die.get_congr (d.noteDeskew_regs p depths _)]

/-- The port that is UP, before its latency is compared and INIT is entered. -/
def Die.broughtUp (depths : List Nat) (lat : Nat) (rev : Bool) : Die :=
  (((d.upShown p lat rev).recordDeskew p depths).modPort p (fun s => { s with recorded := true })).restoreFills p

theorem Die.broughtUp_frame (depths : List Nat) (lat : Nat) (rev : Bool) : PortReports d (d.broughtUp p depths lat rev) p (upAddrs p) :=
  (((d.upShown_frame p lat rev).trans ((Die.recordDeskew_frame _ p depths).mono (by simp [upAddrs]))).trans .modPort).trans
    ((Die.restoreFills_frame _ p).mono (List.subset_append_right _ _))

/-- The fills have no bearing on the port's own status, its latency and its causes. -/
theorem Die.broughtUp_keeps (depths : List Nat) (lat : Nat) (rev : Bool) :
    let e := d.broughtUp p depths lat rev
    let x := (d.upShown p lat rev).recordDeskew p depths
    (∀ g : Fld, g.page = .laneq → g.off < 0x80 → e.get g p = x.get g p) ∧ e.hasCause I.laneqPortUp p = x.hasCause I.laneqPortUp p
      ∧ ∀ l, e.lane p l = x.lane p l := by
  intro e x
  have frame := (x.modPort p (fun s => { s with recorded := true })).restoreFills_frame p
  have fill (l : Nat) : R.laneqLanePhaseFill.addrOf p l = 0x1000 * (0x50 + p) + 0x90 + 64 * l := rfl
  refine ⟨fun g hp ho => frame.get g p 0 0 ?_, frame.hasCause _ _ ?_, fun l => ?_⟩
  · simp only [List.mem_map, not_exists, not_and, fill]
    intro l _
    rw [Fld.addrOf_eq, hp]
    simp only [pageIndex]
    omega
  · simp only [List.mem_map, not_exists, not_and, fill, addrOf_laneqPortUp]
    omega
  · exact (Die.lane_congr (Die.restoreFills_ports _ p) p l).trans (x.lane_modPort p l (by intro; rfl))

/-- What a port shows of its first bring-up. -/
structure CameUp (d e : Die) (p : Nat) (depths : List Nat) (lat : Nat) (rev : Bool) : Prop where
  state : e.get R.laneqPstatState p = 2
  reversed : e.bit R.laneqPstatReversed p = rev
  skew : e.get R.laneqPstatSkew p = depths.foldl max 0 - depths.foldl min 15
  latency : e.get R.laneqLatCurlat p = lat
  cause : e.hasCause I.laneqPortUp p = true
  deskew : ∀ l < 4, (e.lane p l).deskew = some (depths.getD l 0)
  others : OtherPorts d e p

theorem Die.broughtUp_shows {depths : List Nat} {lat : Nat} (rev : Bool) (hr : (d.port p).recorded = false)
    (hs : depths.foldl max 0 - depths.foldl min 15 < 16) (hl : lat < 4096) :
    CameUp d (d.broughtUp p depths lat rev) p depths lat rev
      ∧ (d.broughtUp p depths lat rev).bit R.laneqPstatCentred p = d.bit R.laneqPstatCentred p := by
  have unrecorded : ((d.upShown p lat rev).port p).recorded = false := by
    rw [Die.port_congr (by simp [Die.upShown] : (d.upShown p lat rev).ports = d.ports)]
    exact hr
  have frame := d.broughtUp_frame p depths lat rev
  obtain ⟨regs, causes, lanes⟩ := d.broughtUp_keeps p depths lat rev
  obtain ⟨state, reversed, centred, latency, cause⟩ := d.upShown_shows p hl rev
  obtain ⟨skew, deskew, rest⟩ := (d.upShown p lat rev).recordDeskew_shows p depths unrecorded hs
  have recorded := (d.upShown p lat rev).recordDeskew_frame p depths
  have away : I.laneqPortUp.addrOf p ∉ [R.laneqPstatState.addrOf p] := by
    rw [List.mem_singleton, addrOf_laneqPstatState, addrOf_laneqPortUp]
    omega
  refine ⟨⟨?_, ?_, (regs _ rfl (by decide)).trans skew, ?_, (causes.trans (recorded.hasCause _ _ away)).trans cause,
    fun l hl => (congrArg LaneSt.deskew (lanes l)).trans (deskew l hl), frame.others⟩, ?_⟩
  · rw [regs _ rfl (by decide), rest _ (Loc.apart_of_bits (by decide)), state]
  · rw [Die.bit, regs _ rfl (by decide), rest _ (Loc.apart_of_bits (by decide))]
    exact reversed
  · rw [regs _ rfl (by decide), rest R.laneqLatCurlat (Loc.apart_of_off rfl rfl (by decide)), latency]
  · rw [Die.bit, regs _ rfl (by decide), rest _ (Loc.apart_of_bits (by decide))]
    exact centred

theorem Die.portUp_first (depths : List Nat) (lat : Nat) (rev : Bool) (h : (d.broughtUp p depths lat rev).bit R.laneqPstatCentred p = false) :
    d.portUp p depths lat rev = (d.broughtUp p depths lat rev).linkInit p := by
  have unshifted : (d.broughtUp p depths lat rev).checkLatency p lat = d.broughtUp p depths lat rev := if_neg (by simp [h])
  rw [Die.portUp_eq, ← Die.broughtUp, unshifted]

/-- A port that comes up for the first time shows it, and is in INIT with its credits. -/
theorem Die.portUp_shows {depths : List Nat} {lat : Nat} (rev : Bool) (hr : (d.port p).recorded = false) (hc : d.bit R.laneqPstatCentred p = false)
    (hs : depths.foldl max 0 - depths.foldl min 15 < 16) (hl : lat < 4096) :
    let e := d.portUp p depths lat rev
    CameUp d e p depths lat rev ∧ e.link p = 1 ∧ e.get R.portLinkPs p = 0
      ∧ (d.isDrop p = true → ∀ v < 8, (e.vc p v).ret = BitVec.ofNat 15 (if v % 2 = 0 then 2048 else 0)) := by
  obtain ⟨up, centred⟩ := d.broughtUp_shows p rev hr hs hl
  have drop := (d.broughtUp_frame p depths lat rev).isDrop p
  dsimp only
  rw [d.portUp_first p depths lat rev (centred.trans hc)]
  generalize d.broughtUp p depths lat rev = x at up drop ⊢
  obtain ⟨link, ps, ret, lanes, frame⟩ := x.linkInit_shows p
  have kept (g : Fld) (hp : g.page = .laneq) (ho : 0x40 ≤ g.off) : (x.linkInit p).get g p = x.get g p :=
    frame.get g p 0 0 (laneq_not_mem_initAddrs p hp ho 0)
  have away : I.laneqPortUp.addrOf p ∉ initAddrs p := by
    rw [mem_initAddrs, addrOf_laneqPortUp]
    omega
  refine ⟨⟨(kept _ rfl (by decide)).trans up.state, ?_, (kept _ rfl (by decide)).trans up.skew, (kept _ rfl (by decide)).trans up.latency,
    (frame.hasCause _ _ away).trans up.cause, fun l hl => (congrArg LaneSt.deskew (lanes l)).trans (up.deskew l hl),
    fun q hq => (frame.others q hq).trans (up.others q hq)⟩, link, ps, fun hd v hv => ?_⟩
  · rw [Die.bit, kept _ rfl (by decide)]
    exact up.reversed
  · rw [ret v hv, x.grantFor_drop p (drop.trans hd)]

/-! ### Alignment (R176, R179) -/

section
variable (depths : List Nat) (lat : Nat) (h : (List.range 4).all (fun l => decide (3 ≤ (d.lane p l).logRun)) = true)
include h

theorem Die.tryAlign_unmapped (hm : d.laneMap p = none) : d.tryAlign p depths lat = d.alignFail p 0x0402 := by
  unfold Die.tryAlign
  rw [if_neg (by simp [h]), hm]

theorem Die.tryAlign_skewed {rev : Bool} (hm : d.laneMap p = some rev) (hs : 8 < depths.foldl max 0 - depths.foldl min 15) :
    d.tryAlign p depths lat = d.alignFail p 0x0403 := by
  unfold Die.tryAlign
  rw [if_neg (by simp [h]), hm]
  exact if_pos hs

theorem Die.tryAlign_up {rev : Bool} (hm : d.laneMap p = some rev) (hs : depths.foldl max 0 - depths.foldl min 15 ≤ 8) :
    d.tryAlign p depths lat = d.portUp p depths lat rev := by
  unfold Die.tryAlign
  rw [if_neg (by simp [h]), hm]
  exact if_neg (Nat.not_lt.2 hs)

end

end

/-! ### The statement -/

/-- DESKEW_RETRY of a port in ALIGN whose lanes are in lock tries the alignment. -/
theorem becomes_deskewRetry (s : State) (p : BitVec 6) (d0 d1 d2 d3 : BitVec 4) (lat : BitVec 12) (e : Die) (ha : s.die.alive = true)
    (hs : s.die.allSf p.toNat = true) (hp : s.die.get R.laneqPstatState p.toNat = 1)
    (he : s.die.tryAlign p.toNat [d0.toNat, d1.toNat, d2.toNat, d3.toNat] lat.toNat = e) : Becomes (.deskewRetry p d0 d1 d2 d3 lat) s e :=
  becomes_of_act _ s _ _ rfl ha ((if_pos (by simp [hs, hp])).trans he)

/-- Settles O21: each command by the die that it ends with, and what that die shows. -/
theorem portBringUp : Obligations.PortBringUp := by
  intro s c p d0 d1 d2 d3 lat f ha
  dsimp only
  refine ⟨fun ⟨hs, hp, hr⟩ hm => ?unmapped, fun rev ⟨hs, hp, hr⟩ hm hk => ?skewed, fun rev ⟨hs, hp, hr⟩ hm hk hd hc hn => ?up, fun ht hp => ?missed,
    fun hd => ?drop, fun hu hi => ?idle, fun hu hi => ?busy, fun hs => ?unlocked, fun hs hp => becomes_of_act _ s _ _ rfl ha rfl⟩
  case unmapped =>
    exact ⟨_, becomes_deskewRetry s p d0 d1 d2 d3 lat _ ha hs hp (s.die.tryAlign_unmapped _ _ _ hr hm), s.die.alignFail_shows _ _⟩
  case skewed =>
    exact ⟨_, becomes_deskewRetry s p d0 d1 d2 d3 lat _ ha hs hp (s.die.tryAlign_skewed _ _ _ hr hm hk), s.die.alignFail_shows _ _⟩
  case up =>
    refine ⟨_, becomes_deskewRetry s p d0 d1 d2 d3 lat _ ha hs hp (s.die.tryAlign_up _ _ _ hr hm hk), ?_⟩
    obtain ⟨up, link, ps, ret⟩ := s.die.portUp_shows p.toNat rev hn hc (Nat.lt_of_le_of_lt hk (by decide)) lat.isLt
    refine ⟨up.state, up.reversed, up.skew, up.latency, link, ps, up.cause, up.deskew 0 (by decide), up.deskew 3 (by decide), ret hd 4 (by decide),
      ret hd 5 (by decide), up.others⟩
  case missed =>
    have logs : ((s.die.isTrunk p.toNat || s.die.isStack p.toNat) && s.die.get R.laneqPstatState p.toNat != 2) = true := by simp [ht, hp]
    obtain ⟨reach, logged⟩ := s.die.logErr_reach .laneq p.toNat 0x0405 1 (leBytes 1 p.toNat) none false none
    exact ⟨_, becomes_of_act _ s _ _ rfl ha (if_pos logs), logged, reach⟩
  case drop =>
    have role : s.die.role p.toNat = 1 := by simpa [Die.isDrop] using hd
    exact becomes_of_act _ s _ _ rfl ha (if_neg (by simp [Die.isTrunk, Die.isStack, role]))
  case idle =>
    refine completes_of_page _ s c .laneq p.toNat _ _ rfl ⟨ha, hu⟩ ?_
    rw [Die.rehunt, if_pos hi]
    exact ⟨List.all_eq_true.2 fun l hl => s.die.forAll_loseBl_unlocked _ hl, s.die.forAll_loseBl_others _ _⟩
  case busy =>
    refine completes_of_page _ s c .laneq p.toNat _ _ rfl ⟨ha, hu⟩ ?_
    rw [Die.rehunt, if_neg (ne_true_of_eq_false hi)]
    exact ⟨Die.accErr_shown _ _ _ _ _ _ _, OnlyReports.accErr _ _ _ _ _ _ _⟩
  case unlocked => exact becomes_of_act _ s _ _ rfl ha (if_pos (by simp [hs]))

end Sys2Proof.Machine
end

section
/-!
PROOF. Messages of the link layer (spec 05): CSYNC, the answers to a power request, replay, and the repair of lost flits (R209, R220, R222, R230, R231,
R245, R246).
-/
namespace Sys2Proof.Machine

/-! ### One port changed, a counter counted, a cause set -/

section
variable {d e f : Die} {p : Nat} {x : PortSt}

theorem ChangesPort.modPort (d : Die) (p : Nat) (f : PortSt → PortSt) : ChangesPort d (d.modPort p f) p (f (d.port p)) :=
  ⟨d.port_modPort_self p f, d.otherPorts_modPort p f⟩

/-- What changes no port any more leaves the change as it is. -/
theorem ChangesPort.of_ports (h : ChangesPort d e p x) (hf : f.ports = e.ports) : ChangesPort d f p x :=
  ⟨(Die.port_congr hf p).trans h.1, fun q hq => (Die.port_congr hf q).trans (h.2 q hq)⟩

theorem ChangesVc.of_ports {v : Nat} {y : VcSt} (h : ChangesVc d e p v y) (hf : f.ports = e.ports) : ChangesVc d f p v y := by
  obtain ⟨own, vcs, port, others⟩ := h
  have same (q : Nat) : f.port q = e.port q := Die.port_congr hf q
  refine ⟨?_, fun w hw => ?_, ?_, fun q hq => (same q).trans (others q hq)⟩
  · rw [Die.vc, same]
    exact own
  · rw [Die.vc, same]
    exact vcs w hw
  · rw [same]
    exact port

theorem ChangesVc.modVc (d : Die) (p v : Nat) (f : VcSt → VcSt) : ChangesVc d (d.modVc p v f) p v (f (d.vc p v)) := by
  refine ⟨(d.vc_modVc p v v f).trans (if_pos rfl), fun w hw => (d.vc_modVc p v w f).trans (if_neg hw), ?_, d.otherPorts_modPort p _⟩
  rw [Die.modVc, Die.port_modPort_self]

end

/-- A counter counted and a cause set, in dwords of their own: what both show, and how far they reach (R966). -/
theorem Die.bump_raise_shows (d : Die) (g : Fld) (q : Irq) (p n : Nat) (hg : g.lsb + g.width ≤ 32) (hq : q.bit < 32) (ha : g.addrOf p ≠ q.addrOf p) :
    let e := (d.bump g p 0 n).raise q p
    e.get g p = d.counted g p 0 n ∧ e.hasCause q p = true ∧ OnlyReports d e [g.addrOf p, q.addrOf p] :=
  ⟨((d.bump g p 0 n).get_raise q p 0 g p 0 0 ha).trans (d.get_bump g p 0 n hg), Die.hasCause_raise _ q p 0 hq,
    (OnlyReports.bump d g p 0 n).trans (OnlyReports.raise _ q p 0)⟩

/-- A register of a PORT page from 0x40 on lies away from the page's causes. -/
theorem port_addrOf_ne_cause {g : Fld} {q : Irq} (hg : g.page = .port) (hq : q.page = .port) (ho : 0x20 < g.off) (p : Nat) :
    g.addrOf p ≠ q.addrOf p := by
  have cause : q.addrOf p = 0x1000 * (0x10 + p) + 0x20 := by rw [Irq.addrOf, hq]; rfl
  rw [Fld.addrOf_eq, hg, cause]
  simp only [pageIndex]
  omega

/-! ### Replay (R220) -/

/-- What is outstanding goes again, counted. -/
theorem Die.replay_shows (d : Die) (p : Nat) :
    let e := ((d.modPort p (fun s => { s with replay := s.unacked, noProg := 0 })).bump R.portReplays p).raise I.portReplay p
    e.hasCause I.portReplay p = true ∧ e.get R.portReplays p = d.counted R.portReplays p
      ∧ ChangesPort d e p { d.port p with replay := (d.port p).unacked, noProg := 0 }
      ∧ OnlyReports d { e with ports := d.ports } [R.portReplays.addrOf p, I.portReplay.addrOf p] := by
  obtain ⟨counted, cause, reach⟩ := (d.modPort p (fun s => { s with replay := s.unacked, noProg := 0 })).bump_raise_shows R.portReplays I.portReplay p 1
    (by decide) (by decide) (port_addrOf_ne_cause rfl rfl (by decide) p)
  exact ⟨cause, counted, (ChangesPort.modPort d p _).of_ports reach.units.ports, reach.ports_changed _⟩

/-! ### A protocol error (R209) -/

/-- Off a DROP port a protocol error is counted and shown, and no more. -/
theorem Die.protoErr_shows (d : Die) (p : Nat) (h : d.isDrop p = false) :
    let e := d.protoErr p
    e.get R.portProto p = d.counted R.portProto p ∧ e.hasCause I.portProto p = true
      ∧ OnlyReports d e [R.portProto.addrOf p, I.portProto.addrOf p] := by
  have shows := d.bump_raise_shows R.portProto I.portProto p 1 (by decide) (by decide) (port_addrOf_ne_cause rfl rfl (by decide) p)
  have unlogged : d.protoErr p = (d.bump R.portProto p).raise I.portProto p := by
    refine if_neg ?_
    rw [Die.isDrop_congr shows.2.2.units.casc, h]
    decide
  dsimp only
  rw [unlogged]
  exact shows

/-! ### Repair of a VC (R231) -/

section
variable (d : Die) (p : Nat)

theorem Die.csyncRepair_none (v : Nat) : d.csyncRepair p v 0 = d := if_pos rfl

/-- Lost flits are attributed up to the count that SENT shows, freed and counted, and the open packet is discarded. -/
theorem Die.csyncRepair_shows (v : Nat) (sent : BitVec 15) (h : 0 < (sent - (d.vc p v).rcv).toNat) :
    let e := d.csyncRepair p v (sent - (d.vc p v).rcv).toNat
    ChangesVc d e p v { d.vc p v with rcv := sent, ret := (d.vc p v).ret + (sent - (d.vc p v).rcv), discard := true, openLeft := 0, poisoned := false }
      ∧ e.get R.portCsyncFlits p = d.counted R.portCsyncFlits p 0 (sent - (d.vc p v).rcv).toNat ∧ e.hasCause I.portCsync p = true
      ∧ OnlyReports d { e with ports := d.ports } [R.portCsyncFlits.addrOf p, I.portCsync.addrOf p] := by
  let lost := sent - (d.vc p v).rcv
  let repair (s : VcSt) : VcSt :=
    { s with rcv := s.rcv + BitVec.ofNat 15 lost.toNat, ret := s.ret + BitVec.ofNat 15 lost.toNat, discard := true, openLeft := 0, poisoned := false }
  have repaired : d.csyncRepair p v lost.toNat = ((d.modVc p v repair).bump R.portCsyncFlits p 0 lost.toNat).raise I.portCsync p := if_neg (Nat.ne_of_gt h)
  have total : (d.vc p v).rcv + lost = sent := (BitVec.add_comm _ _).trans (BitVec.sub_add_cancel _ _)
  obtain ⟨counted, cause, reach⟩ := (d.modVc p v repair).bump_raise_shows R.portCsyncFlits I.portCsync p lost.toNat (by decide) (by decide)
    (port_addrOf_ne_cause rfl rfl (by decide) p)
  have changes := (ChangesVc.modVc d p v repair).of_ports reach.units.ports
  have after : repair (d.vc p v) = { d.vc p v with rcv := sent, ret := (d.vc p v).ret + lost, discard := true, openLeft := 0, poisoned := false } := by
    simp only [repair, BitVec.ofNat_toNat, BitVec.setWidth_eq, total]
  rw [after] at changes
  dsimp only
  rw [repaired]
  exact ⟨changes, counted, cause, reach.ports_changed _⟩

/-- A CSYNC beyond the first VC's grant is a protocol error. -/
theorem Die.csyncTake_beyond {vcp : Nat} {a b : BitVec 15} (hd : d.isDrop p = false) (h : (d.port p).grantG < d.csyncLoss p (2 * vcp) a) :
    d.csyncTake p vcp a b = d.protoErr p := by
  refine if_pos (.inl ?_)
  simpa [hd] using h

/-- A CSYNC that shows no loss on the second VC repairs the first. -/
theorem Die.csyncTake_first {vcp : Nat} {a b : BitVec 15} (h : d.csyncLoss p (2 * vcp) a ≤ (d.port p).grantG) (hb : d.csyncLoss p (2 * vcp + 1) b = 0) :
    d.csyncTake p vcp a b = d.csyncRepair p (2 * vcp) (d.csyncLoss p (2 * vcp) a) := by
  have even : 2 * vcp % 2 = 0 := by omega
  unfold Die.csyncTake
  dsimp only
  rw [hb, Die.csyncRepair_none]
  refine if_neg ?_
  simpa [even] using h

end

/-! ### The statement -/

/-- Settles O22: each command by the die that it ends with, and what that die shows. -/
theorem portMessagesAndRepair : Obligations.PortMessagesAndRepair := by
  refine ⟨fun s p t r ha => ?messages, fun s p vcp a b ha hs => ?repair⟩
  case messages =>
    have only (f : PortSt → PortSt) : ChangesPort s.die (s.die.modPort p.toNat f) p.toNat (f (s.die.port p.toNat))
        ∧ OnlyRegs s.die { s.die.modPort p.toNat f with ports := s.die.ports } [] := ⟨ChangesPort.modPort _ _ f, OnlyRegs.refl _ _⟩
    refine ⟨completes_of_act _ s _ _ rfl ha (only _), fun hs => ?csyncReq, fun hs hq => ?psAck, fun hq => ?unasked, fun hs => ?psNak, fun hn hu => ?replay⟩
    case csyncReq => exact ⟨_, becomes_of_act _ s _ _ rfl ha (if_pos hs), only _⟩
    case psAck => exact ⟨_, becomes_of_act _ s _ _ rfl ha (if_pos (by simp [hs, hq])), only _⟩
    case unasked => exact becomes_of_act _ s _ _ rfl ha (if_neg (by simp [hq]))
    case psNak =>
      have ends := ChangesPort.modPort s.die p.toNat (fun x => { x with psReq := none, quiet := 0 })
      refine ⟨_, becomes_of_act _ s _ _ rfl ha (if_pos hs), ?_, ends.of_ports rfl, ?_⟩
      · exact (Die.get_set _ _ _ _ _ _ (by decide)).trans (Nat.mod_eq_of_lt r.isLt)
      · exact (OnlyRegs.set _ R.portLinkNakrsn r.toNat p.toNat 0 0).ports_changed _
    case replay => exact ⟨_, becomes_of_act _ s _ _ rfl ha (if_pos ⟨hn, by simpa using hu⟩), s.die.replay_shows p.toNat⟩
  case repair =>
    have takes (e : Die) (he : s.die.csyncTake p.toNat vcp.toNat a b = e) : Becomes (.csyncRx p vcp a b) s e :=
      becomes_of_act _ s _ _ rfl ha ((if_pos hs).trans he)
    refine ⟨fun hla hlb => ?agree, fun h hle hlb => ?lost, fun hb hd => ?beyond⟩
    case agree =>
      refine takes _ ((s.die.csyncTake_first _ (hla.trans_le (Nat.zero_le _)) hlb).trans ?_)
      rw [Die.csyncLoss, hla]
      exact s.die.csyncRepair_none _ _
    case lost => exact ⟨_, takes _ (s.die.csyncTake_first _ hle hlb), s.die.csyncRepair_shows _ _ a h⟩
    case beyond => exact ⟨_, takes _ (s.die.csyncTake_beyond _ hd hb), s.die.protoErr_shows _ hd⟩

end Sys2Proof.Machine
end

section
/-!
PROOF. The power states of a port (spec 05): the handshake, the state entered, waking, and the move to ACTIVE (R243, R246 to R251).
-/
namespace Sys2Proof.Machine

/-! ### The link state and the power state of a port -/

/-- The dwords that a port's own change of power state may change: its link state and its PORT page's causes. -/
def powerAddrs (p : Nat) : List Nat := [R.portLinkState.addrOf p, I.portPs.addrOf p]

theorem mem_powerAddrs (p x : Nat) : x ∈ powerAddrs p ↔ x = 0x1000 * (0x10 + p) + 0x40 ∨ x = 0x1000 * (0x10 + p) + 0x20 :=
  mem_offlineAddrs p x

/-- A frame of one port in which the switch is as it was. -/
theorem PortReports.own {d e : Die} {p : Nat} {as : List Nat} (h : PortReports d e p as) (hs : e.sw = d.sw) :
    OtherPorts d e p ∧ OnlyReports d { e with ports := d.ports } as :=
  ⟨h.others, { h.reach with units := { h.reach.units with sw := hs } }⟩

/-- A port without requests or agreements of the power handshake. -/
def PortSt.withdrawn (x : PortSt) : PortSt := { x with psReq := none, psAgreed := none }

/-- A port changed once more. -/
theorem ChangesPort.again {d e : Die} {p : Nat} {x : PortSt} (h : ChangesPort d e p x) (f : PortSt → PortSt) : ChangesPort d (e.modPort p f) p (f x) :=
  ⟨(e.port_modPort_self p f).trans (congrArg f h.1), fun q hq => (e.otherPorts_modPort p f q hq).trans (h.2 q hq)⟩

/-- A port changed in two steps. -/
theorem ChangesPort.trans {d e f : Die} {p : Nat} {x y : PortSt} (h : ChangesPort d e p x) (k : ChangesPort e f p y) : ChangesPort d f p y :=
  ⟨k.1, fun q hq => (k.2 q hq).trans (h.2 q hq)⟩

section
variable (d : Die) (p : Nat)

theorem Die.withdrawPs_changes : ChangesPort d (d.withdrawPs p) p (d.port p).withdrawn := ChangesPort.modPort d p PortSt.withdrawn

/-- Link state and power state written, in either order: what the two fields show. -/
theorem Die.set_link_ps {st ps : Nat} (hs : st < 4) (hp : ps < 4) :
    (((d.set R.portLinkState st p).set R.portLinkPs ps p).link p = st ∧ ((d.set R.portLinkState st p).set R.portLinkPs ps p).get R.portLinkPs p = ps)
      ∧ ((d.set R.portLinkPs ps p).set R.portLinkState st p).link p = st ∧ ((d.set R.portLinkPs ps p).set R.portLinkState st p).get R.portLinkPs p = ps := by
  have link (x : Die) : (x.set R.portLinkState st p).link p = st := (Die.get_set _ _ _ _ _ _ (by decide)).trans (Nat.mod_eq_of_lt hs)
  have power (x : Die) : (x.set R.portLinkPs ps p).get R.portLinkPs p = ps := (Die.get_set _ _ _ _ _ _ (by decide)).trans (Nat.mod_eq_of_lt hp)
  refine ⟨⟨?_, power _⟩, link _, ?_⟩
  · exact (Die.get_set_apart _ _ _ _ _ _ _ _ _ _ (by decide) (Loc.apart_of_bits (by decide))).trans (link d)
  · exact (Die.get_set_apart _ _ _ _ _ _ _ _ _ _ (by decide) (Loc.apart_of_bits (by decide))).trans (power d)

/-- The cause PS is set without bearing on the two states. -/
theorem Die.raise_portPs_get (g : Fld) (hg : g.page = .port) (ho : 0x20 < g.off) : (d.raise I.portPs p).get g p = d.get g p :=
  d.get_raise I.portPs p 0 g p 0 0 (port_addrOf_ne_cause hg rfl ho p)

end

/-- What a port shows of its power state: link state, power state and the cause PS. -/
structure ShowsPower (e : Die) (p st ps : Nat) : Prop where
  link : e.link p = st
  power : e.get R.portLinkPs p = ps
  cause : e.hasCause I.portPs p = true

theorem ShowsPower.raise {d : Die} {p st ps : Nat} (hl : d.link p = st) (hp : d.get R.portLinkPs p = ps) : ShowsPower (d.raise I.portPs p) p st ps :=
  ⟨(d.raise_portPs_get p R.portLinkState rfl (by decide)).trans hl, (d.raise_portPs_get p R.portLinkPs rfl (by decide)).trans hp,
    Die.hasCause_raise d _ p 0 (by decide)⟩

/-! ### The handshake (R246, R248) -/

section
variable (d : Die) (p : Nat)

theorem Die.psReason_lt (t : Nat) : d.psReason p t < 16 := by
  unfold Die.psReason
  dsimp only
  split_ifs <;> decide

section
variable {t : BitVec 2} (ht : t = 1 ∨ t = 2)
include ht

theorem psTarget_ok : ¬ (t.toNat = 0 ∨ t.toNat = 3) := by rcases ht with rfl | rfl <;> decide

/-- Of two requests that cross the lower target is agreed. -/
theorem Die.psRequest_crosses {o : BitVec 2} (h : (d.port p).psReq = some o) :
    d.psRequest p t.toNat = d.modPort p (fun s => { s with psReq := none, psAgreed := some (if o.toNat < t.toNat then o else t) }) := by
  have lower : BitVec.ofNat 2 (min o.toNat t.toNat) = if o.toNat < t.toNat then o else t := by
    split
    case isTrue h => rw [Nat.min_eq_left (Nat.le_of_lt h), BitVec.ofNat_toNat, BitVec.setWidth_eq]
    case isFalse h => rw [Nat.min_eq_right (Nat.not_lt.1 h), BitVec.ofNat_toNat, BitVec.setWidth_eq]
  unfold Die.psRequest
  rw [if_neg (psTarget_ok ht), h]
  dsimp only
  rw [lower]

/-- A request for which no reason holds is answered with PS_ACK, and its state is agreed. -/
theorem Die.psRequest_acks (h : (d.port p).psReq = none) (hr : d.psReason p t.toNat = 0) :
    d.psRequest p t.toNat = (d.queueMsg p (.lcmd 2 (BitVec.ofNat 16 t.toNat))).modPort p (fun s => { s with psAgreed := some t }) := by
  unfold Die.psRequest
  rw [if_neg (psTarget_ok ht), h]
  dsimp only
  rw [hr, BitVec.ofNat_toNat 2, BitVec.setWidth_eq]
  rfl

/-- A request for which a reason holds is answered with PS_NAK and the reason, which the port shows. -/
theorem Die.psRequest_naks (h : (d.port p).psReq = none) (hr : d.psReason p t.toNat ≠ 0) :
    d.psRequest p t.toNat
      = (d.queueMsg p (.lcmd 3 (BitVec.ofNat 16 (d.psReason p t.toNat)))).set R.portLinkNakrsn (d.psReason p t.toNat) p := by
  unfold Die.psRequest
  rw [if_neg (psTarget_ok ht), h]
  dsimp only
  split
  case h_1 h0 => exact absurd h0 hr
  case h_2 => rfl

end

/-! ### A power state entered (R200, R201, R247) -/

/-- The port asleep: its states, without requests, and the cause. -/
def Die.asleep (t : Nat) : Die := (((d.set R.portLinkState 3 p).set R.portLinkPs t p).withdrawPs p).raise I.portPs p

/-- A lane without any lock. -/
def Die.laneOff (l : Nat) : Die :=
  ((d.setBit R.laneqLaneLstatCdrLock false p l).setBit R.laneqLaneLstatBlLock false p l).setBit R.laneqLaneLstatSfLock false p l

/-- The lanes of a port in PS2: DOWN, without any lock. -/
def Die.lanesOff : Die := (d.set R.laneqPstatState 0 p).forAll (List.range 4) (fun d l => d.laneOff p l)

theorem Die.enterPs_eq (t : Nat) : d.enterPs p t = if t = 2 then (d.asleep p t).lanesOff p else d.asleep p t := rfl

theorem Die.asleep_frame (t : Nat) : PortReports d (d.asleep p t) p (powerAddrs p) := by
  have state : R.portLinkState.addrOf p ∈ powerAddrs p := by simp [powerAddrs]
  have power : R.portLinkPs.addrOf p ∈ powerAddrs p := state
  exact (((PortReports.set state).trans (.set power)).trans .modPort).trans (.raise (by simp [powerAddrs]))

theorem Die.asleep_sw (t : Nat) : (d.asleep p t).sw = d.sw := Die.raise_sw _ _ _ _

theorem Die.asleep_shows {t : Nat} (ht : t < 4) : ShowsPower (d.asleep p t) p 3 t ∧ ChangesPort d (d.asleep p t) p (d.port p).withdrawn := by
  obtain ⟨⟨link, power⟩, -⟩ := d.set_link_ps p (st := 3) (by decide) ht
  have changes : ChangesPort d (((d.set R.portLinkState 3 p).set R.portLinkPs t p).withdrawPs p) p (d.port p).withdrawn :=
    Die.withdrawPs_changes ((d.set R.portLinkState 3 p).set R.portLinkPs t p) p
  exact ⟨.raise link power, changes.of_ports (Die.raise_ports _ _ _ _)⟩

/-- The dwords that show the lanes of a port: their status. -/
def lanesAddrs : List Nat := (List.range 4).map (fun l => R.laneqLaneLstatSfLock.addrOf p l)

theorem Die.laneOff_frame {l : Nat} (hl : l ∈ List.range 4) : PortReports d (d.laneOff p l) p (lanesAddrs p) := by
  have status : R.laneqLaneLstatSfLock.addrOf p l ∈ lanesAddrs p := List.mem_map_of_mem hl
  have cdr : R.laneqLaneLstatCdrLock.addrOf p l ∈ lanesAddrs p := status
  have block : R.laneqLaneLstatBlLock.addrOf p l ∈ lanesAddrs p := status
  exact ((PortReports.setBit cdr).trans (.setBit block)).trans (.setBit status)

theorem Die.lanesOff_frame : PortReports d (d.lanesOff p) p (R.laneqPstatState.addrOf p :: lanesAddrs p) :=
  (PortReports.set List.mem_cons_self).trans (.forAll _ fun e _ hl => (e.laneOff_frame p hl).mono (List.subset_cons_self _ _))

theorem Die.lanesOff_ports : (d.lanesOff p).ports = d.ports :=
  Die.forAll_keep Die.ports (f := fun d l => d.laneOff p l) (fun _ _ => rfl) _ _

theorem Die.lanesOff_sw : (d.lanesOff p).sw = d.sw :=
  Die.forAll_keep Die.sw (f := fun d l => d.laneOff p l) (fun _ _ => rfl) _ _

/-- The port is DOWN, and its lanes have lost their locks. -/
theorem Die.lanesOff_shows : (d.lanesOff p).get R.laneqPstatState p = 0 ∧ (d.lanesOff p).allSf p = false := by
  have lanes : PortReports (d.set R.laneqPstatState 0 p) (d.lanesOff p) p (lanesAddrs p) := .forAll _ fun e _ hl => e.laneOff_frame p hl
  have away : R.laneqPstatState.addrOf p ∉ lanesAddrs p := by
    simp only [lanesAddrs, List.mem_map, addrOf_laneqLaneLstat, addrOf_laneqPstatState, not_exists, not_and]
    omega
  have last : (d.lanesOff p).bit R.laneqLaneLstatSfLock p 3 = false := Die.bit_setBit _ _ _ _ _ _ (by decide) rfl
  exact ⟨(lanes.get _ _ _ _ away).trans (Die.get_set _ _ _ _ _ _ (by decide)), List.all_eq_false.2 ⟨3, by simp, by simp [last]⟩⟩

/-- PORT and LANEQ pages of a port stand apart. -/
theorem port_not_mem_lanes {x : Nat} (hx : x ∈ powerAddrs p) : x ∉ R.laneqPstatState.addrOf p :: lanesAddrs p := by
  rw [mem_powerAddrs] at hx
  simp only [lanesAddrs, List.mem_cons, List.mem_map, addrOf_laneqLaneLstat, addrOf_laneqPstatState, not_or, not_exists, not_and]
  exact ⟨by omega, fun l _ => by omega⟩

/-- The dwords that entering a power state may change. -/
def enterAddrs : List Nat := [R.portLinkState.addrOf p, I.portPs.addrOf p, R.laneqPstatState.addrOf p] ++ lanesAddrs p

/-- A port that enters a power state shows it, without requests; in PS2 its lanes are off. -/
theorem Die.enterPs_shows {t : Nat} (ht : t < 4) :
    let e := d.enterPs p t
    ShowsPower e p 3 t ∧ ChangesPort d e p (d.port p).withdrawn ∧ (t = 2 → e.get R.laneqPstatState p = 0 ∧ e.allSf p = false)
      ∧ PortReports d e p (enterAddrs p) ∧ e.sw = d.sw := by
  obtain ⟨shows, changes⟩ := d.asleep_shows p ht
  have frame : PortReports d (d.asleep p t) p (enterAddrs p) := (d.asleep_frame p t).mono (by simp [powerAddrs, enterAddrs])
  have sw := d.asleep_sw p t
  dsimp only
  rw [d.enterPs_eq p t]
  by_cases deep : t = 2
  case neg =>
    rw [if_neg deep]
    exact ⟨shows, changes, fun h => absurd h deep, frame, sw⟩
  case pos =>
    rw [if_pos deep]
    generalize d.asleep p t = x at shows changes frame sw ⊢
    obtain ⟨link, power, cause⟩ := shows
    have lanes := x.lanesOff_frame p
    have state := port_not_mem_lanes p (x := R.portLinkState.addrOf p) (by simp [powerAddrs])
    have causes := port_not_mem_lanes p (x := I.portPs.addrOf p) (by simp [powerAddrs])
    refine ⟨⟨(lanes.get _ _ _ _ state).trans link, (lanes.get R.portLinkPs _ _ _ state).trans power, (lanes.hasCause _ _ causes).trans cause⟩,
      changes.of_ports (x.lanesOff_ports p), fun _ => x.lanesOff_shows p, frame.trans (lanes.mono ?_), (x.lanesOff_sw p).trans sw⟩
    simp [enterAddrs]

/-! ### Waking (R200 to R202, R249 to R251) -/

/-- A port in PS1 whose lanes still hold superframe lock is ACTIVE again. -/
def Die.awake : Die := ((d.set R.portLinkPs 0 p).set R.portLinkState 2 p).raise I.portPs p

theorem Die.wakeUp_locked (h : d.allSf p = true) : d.wakeUp p = d.awake p := if_pos h

theorem Die.awake_shows : ShowsPower (d.awake p) p 2 0 ∧ OnlyReports d (d.awake p) (powerAddrs p) := by
  obtain ⟨-, link, power⟩ := d.set_link_ps p (st := 2) (ps := 0) (by decide) (by decide)
  have states := (OnlyRegs.set d R.portLinkPs 0 p 0 0).trans (OnlyRegs.set _ R.portLinkState 2 p 0 0)
  refine ⟨.raise link power, (states.reports.trans (OnlyReports.raise _ I.portPs p 0)).mono ?_⟩
  have same : R.portLinkPs.addrOf p = R.portLinkState.addrOf p := rfl
  simp [powerAddrs, same]

/-- A port that leaves a low-power state goes OFFLINE with the cause PS. -/
theorem Die.wakeDown_eq (h : d.link p = 3) :
    d.wakeDown p = (((d.offlinePad p).raise I.portPs p).withdrawPs p).set R.portLinkPs 0 p := by
  rw [Die.wakeDown, d.linkOffline_on p (by rw [h]; decide), Die.offlineCause, if_neg (by rw [h]; decide), if_pos h]
  rfl

theorem Die.wakeDown_frame : PortReports d (d.wakeDown p) p (powerAddrs p) := by
  have offline : PortReports d (d.linkOffline p) p (powerAddrs p) := (d.linkOffline_shows p).2
  have power : R.portLinkPs.addrOf p ∈ powerAddrs p := (List.mem_cons_self : R.portLinkState.addrOf p ∈ powerAddrs p)
  exact offline.trans (.set power)

/-- It shows it, and withdraws requests. -/
theorem Die.wakeDown_shows (h : d.link p = 3) : ShowsPower (d.wakeDown p) p 0 0 ∧ ChangesPort d (d.wakeDown p) p (d.port p).withdrawn := by
  rw [d.wakeDown_eq p h]
  have pad : ((d.offlinePad p).raise I.portPs p).ports = d.ports := Die.raise_ports _ _ _ _
  have link : ((d.offlinePad p).raise I.portPs p).link p = 0 := ((d.offlinePad p).raise_link p I.portPs rfl).trans (d.offlinePad_link p)
  have cause : ((d.offlinePad p).raise I.portPs p).hasCause I.portPs p = true := Die.hasCause_raise _ _ p 0 (by decide)
  generalize (d.offlinePad p).raise I.portPs p = x at pad link cause ⊢
  have written := OnlyRegs.set (x.withdrawPs p) R.portLinkPs 0 p 0 0
  have away : I.portPs.addrOf p ∉ [R.portLinkPs.addrOf p] := by
    rw [List.mem_singleton]
    exact (port_addrOf_ne_cause rfl rfl (by decide) p).symm
  obtain ⟨own, others⟩ := x.withdrawPs_changes p
  have changes : ChangesPort d (x.withdrawPs p) p (d.port p).withdrawn :=
    ⟨own.trans (congrArg _ (Die.port_congr pad p)), fun q hq => (others q hq).trans (Die.port_congr pad q)⟩
  refine ⟨⟨?_, Die.get_set _ _ _ _ _ _ (by decide), (written.reports.hasCause _ _ away).trans cause⟩, changes.of_ports written.units.ports⟩
  exact (Die.get_set_apart _ _ _ _ _ _ _ _ _ _ (by decide) (Loc.apart_of_bits (by decide))).trans link

theorem Die.wakeUp_frame : PortReports d (d.wakeUp p) p (powerAddrs p) := by
  by_cases h : d.allSf p = true
  case pos => rw [d.wakeUp_locked p h]; exact .of_reports (d.awake_shows p).2
  case neg => rw [show d.wakeUp p = d.wakeDown p from if_neg h]; exact d.wakeDown_frame p

/-- Kesil's wake reaches its own port, the switch and the port's power state alone. -/
theorem Die.wakePort_frame : PortReports d (d.wakePort p) p (powerAddrs p) := by
  have withdraws : PortReports d (d.withdrawPs p) p (powerAddrs p) := .modPort
  unfold Die.wakePort
  dsimp only
  split
  case h_1 =>
    split
    case isTrue => exact withdraws.trans .modPort
    case isFalse => exact withdraws
  case h_2 => exact (withdraws.trans .modPort).trans (Die.wakeUp_frame _ p)
  case h_3 => exact withdraws.trans (Die.wakeDown_frame _ p)

/-- From PS1 with its lanes in lock, the port is ACTIVE again, and WAKE goes out. -/
theorem Die.wakePort_ps1 (h : d.get R.portLinkPs p = 1) (hl : d.allSf p = true) :
    d.wakePort p = ((d.withdrawPs p).queueMsg p (.lcmd 4 0)).awake p := by
  have ps : (d.withdrawPs p).get R.portLinkPs p = 1 := h
  unfold Die.wakePort
  dsimp only
  rw [ps]
  exact Die.wakeUp_locked _ p hl

/-- A port that an endpoint does not use wakes nothing else (R858). -/
theorem Die.dropWoken_off (h : d.isDrop p = false) : d.dropWoken p = d := if_neg (ne_true_of_eq_false h)

theorem Die.tryPsReq_port : PortReports d (d.tryPsReq p) p [] := by
  unfold Die.tryPsReq
  dsimp only
  split
  case isTrue => exact PortReports.modPort.trans .modPort
  case isFalse => exact .refl

/-! ### PORT.PSCTL (R19, R245, R251) -/

/-- The two permissions written. -/
def Die.allows (w : Word) : Die := (d.setBit R.portPsctlAllow1 (w.getLsbD 2) p).setBit R.portPsctlAllow2 (w.getLsbD 3) p

theorem addrOf_portPsctl : R.portPsctlTgt.addrOf p = 0x1000 * (0x10 + p) + 0x44 := rfl

theorem Die.allows_reach (w : Word) : OnlyRegs d (d.allows p w) [R.portPsctlTgt.addrOf p] := by
  have first : OnlyRegs d (d.setBit R.portPsctlAllow1 (w.getLsbD 2) p) [R.portPsctlTgt.addrOf p] := OnlyRegs.setBit _ _ _ _ _ _
  have second : OnlyRegs (d.setBit R.portPsctlAllow1 (w.getLsbD 2) p) (d.allows p w) [R.portPsctlTgt.addrOf p] := OnlyRegs.setBit _ _ _ _ _ _
  exact (first.trans second).mono (by simp)

/-- Code 3 of TGT is refused. -/
theorem Die.psctlWrite_refused (c : Cls) {w : Word} (h : w.toNat % 4 = 3) :
    d.psctlWrite c p w = (d.allows p w).accErr .port p c true (0x1000 * pageIndex .port p + 0x44) .code := if_pos h

/-- Another TGT is written, and the port is woken or asked. -/
theorem Die.psctlWrite_frame (c : Cls) {w : Word} (h : w.toNat % 4 ≠ 3) :
    PortReports ((d.allows p w).set R.portPsctlTgt (w.toNat % 4) p) (d.psctlWrite c p w) p (powerAddrs p) := by
  generalize hx : (d.allows p w).set R.portPsctlTgt (w.toNat % 4) p = x
  have written : d.psctlWrite c p w = if w.toNat % 4 = 0 ∧ x.get R.pwrModeState ≠ 2 then x.wakePort p else x.tryPsReq p := by
    rw [← hx]
    exact if_neg h
  rw [written]
  split
  case isTrue => exact x.wakePort_frame p
  case isFalse => exact (x.tryPsReq_port p).mono (List.nil_subset _)

/-- What the write shows. -/
theorem Die.psctlWrite_shows (c : Cls) {w : Word} (h : w.toNat % 4 ≠ 3) :
    let e := d.psctlWrite c p w
    e.get R.portPsctlTgt p = w.toNat % 4 ∧ e.bit R.portPsctlAllow1 p = w.getLsbD 2 ∧ e.bit R.portPsctlAllow2 p = w.getLsbD 3 ∧ OtherPorts d e p := by
  have frame := d.psctlWrite_frame p c h
  have away : R.portPsctlTgt.addrOf p ∉ powerAddrs p := by
    rw [mem_powerAddrs, addrOf_portPsctl]
    omega
  have kept (g : Fld) (hg : g.addrOf p = R.portPsctlTgt.addrOf p) :
      (d.psctlWrite c p w).get g p = ((d.allows p w).set R.portPsctlTgt (w.toNat % 4) p).get g p := frame.get g p 0 0 (hg ▸ away)
  refine ⟨?_, ?_, ?_, fun q hq => (frame.others q hq).trans (Die.port_congr (d.allows_reach p w).units.ports q)⟩
  · rw [kept _ rfl]
    exact (Die.get_set _ _ _ _ _ _ (by decide)).trans (Nat.mod_eq_of_lt (Nat.mod_lt _ (by decide)))
  · rw [Die.bit, kept R.portPsctlAllow1 rfl, Die.get_set_apart _ _ _ _ _ _ _ _ _ _ (by decide) (Loc.apart_of_bits (by decide)), Die.allows, Die.setBit,
      Die.get_set_apart _ _ _ _ _ _ _ _ _ _ (by decide) (Loc.apart_of_bits (by decide))]
    exact Die.bit_setBit _ _ _ _ _ _ (by decide) rfl
  · rw [Die.bit, kept R.portPsctlAllow2 rfl, Die.get_set_apart _ _ _ _ _ _ _ _ _ _ (by decide) (Loc.apart_of_bits (by decide))]
    exact Die.bit_setBit _ _ _ _ _ _ (by decide) rfl

/-- What the refusal shows: TGT is as it was. -/
theorem Die.psctlRefused_shows (w : Word) (c : Cls) (a : Nat) :
    let e := (d.allows p w).accErr .port p c true a .code
    e.get R.portPsctlTgt p = d.get R.portPsctlTgt p ∧ e.hget R.hdrStatAccessErr .port p = 1
      ∧ OnlyReports d e (accAddrs .port p ++ [R.portPsctlTgt.addrOf p]) := by
  have refused := OnlyReports.accErr (d.allows p w) .port p c true a .code
  have away : R.portPsctlTgt.addrOf p ∉ accAddrs .port p := by
    rw [mem_accAddrs, addrOf_portPsctl]
    simp only [pageIndex]
    omega
  refine ⟨(refused.get _ _ _ _ away).trans ?_, Die.accErr_shown _ _ _ _ _ _ _, ((d.allows_reach p w).reports.trans refused).mono ?_⟩
  · rw [Die.allows, Die.setBit, Die.get_set_apart _ _ _ _ _ _ _ _ _ _ (by decide) (Loc.apart_of_bits (by decide)), Die.setBit,
      Die.get_set_apart _ _ _ _ _ _ _ _ _ _ (by decide) (Loc.apart_of_bits (by decide))]
  · rw [List.append_subset]
    exact ⟨List.subset_append_right _ _, List.subset_append_left _ _⟩

end

/-! ### The statement -/

/-- Settles O23: each command by the die that it ends with, and what that die shows. -/
theorem portPowerStates : Obligations.PortPowerStates := by
  intro s c p t w ha
  dsimp only
  have tgt : t.toNat < 4 := t.isLt
  refine ⟨fun hs ht => ⟨fun o ho => ?crosses, fun hn hr => ?acks, fun hn hr => ?naks⟩, fun hq hp hs => ?enters, fun hd hl hp hf => ?woken,
    fun hl => ?awake, fun hd hl hp hh => ?detects, fun hl hp hh hf hc => ?wakes, fun hm => ?active, fun hu hw => ?written, fun hu hw => ?refused⟩
  case crosses =>
    refine ⟨_, becomes_of_act _ s _ _ rfl ha ((if_pos hs).trans (s.die.psRequest_crosses _ ht ho)), ChangesPort.modPort _ _ _, OnlyRegs.refl _ _⟩
  case acks =>
    have queued := ChangesPort.modPort s.die p.toNat (fun x => { x with sendq := x.sendq ++ [.lcmd 2 (BitVec.ofNat 16 t.toNat)] })
    exact ⟨_, becomes_of_act _ s _ _ rfl ha ((if_pos hs).trans (s.die.psRequest_acks _ ht hn hr)), queued.again fun x => { x with psAgreed := some t },
      OnlyRegs.refl _ _⟩
  case naks =>
    refine ⟨_, becomes_of_act _ s _ _ rfl ha ((if_pos hs).trans (s.die.psRequest_naks _ ht hn hr)), ?_, ?_, ?_⟩
    · have queued := ChangesPort.modPort s.die p.toNat (fun x => { x with sendq := x.sendq ++ [.lcmd 3 (BitVec.ofNat 16 (s.die.psReason p.toNat t.toNat))] })
      exact queued.of_ports rfl
    · exact (Die.get_set _ _ _ _ _ _ (by decide)).trans (Nat.mod_eq_of_lt (s.die.psReason_lt _ _))
    · exact (OnlyRegs.set _ R.portLinkNakrsn _ p.toNat 0 0).ports_changed _
  case enters =>
    obtain ⟨⟨link, power, cause⟩, changes, deep, frame, sw⟩ := s.die.enterPs_shows p.toNat tgt
    refine ⟨_, becomes_of_act _ s _ _ rfl ha ?_, link, power, cause, changes, fun h => deep (h ▸ rfl), frame.own sw⟩
    rw [hq]
    exact if_pos ⟨hp, hs⟩
  case woken =>
    obtain ⟨⟨link, power, cause⟩, reach⟩ := (s.die.withdrawPs p.toNat).awake_shows p.toNat
    have woken : ((s.die.withdrawPs p.toNat).wakeUp p.toNat).dropWoken p.toNat = (s.die.withdrawPs p.toNat).awake p.toNat := by
      rw [(s.die.withdrawPs p.toNat).wakeUp_locked _ hf]
      exact Die.dropWoken_off _ _ ((Die.isDrop_congr reach.units.casc _).trans hd)
    have changes := (s.die.withdrawPs_changes p.toNat).of_ports reach.units.ports
    exact ⟨_, becomes_of_act _ s _ _ rfl ha ((if_pos ⟨hl, hp⟩).trans woken), link, power, cause, changes, changes.2, reach.ports_changed _⟩
  case awake => exact ⟨_, becomes_of_act _ s _ _ rfl ha (if_neg fun h => hl h.1), s.die.withdrawPs_changes _, OnlyRegs.refl _ _⟩
  case detects =>
    obtain ⟨⟨link, power, cause⟩, changes⟩ := (s.die.withdrawPs p.toNat).wakeDown_shows p.toNat hl
    have frame : PortReports s.die ((s.die.withdrawPs p.toNat).wakeDown p.toNat) p.toNat (powerAddrs p.toNat) :=
      PortReports.modPort.trans (Die.wakeDown_frame _ _)
    have woken := Die.dropWoken_off _ _ ((frame.isDrop p.toNat).trans hd)
    have withdrawn := (s.die.withdrawPs_changes p.toNat).trans changes
    rw [(s.die.withdrawPs_changes p.toNat).1] at withdrawn
    exact ⟨_, becomes_of_act _ s _ _ rfl ha ((if_pos ⟨hp, by simp [hh]⟩).trans woken), link, power, cause, withdrawn, frame.reach⟩
  case wakes =>
    obtain ⟨⟨link, power, -⟩, reach⟩ := ((s.die.withdrawPs p.toNat).queueMsg p.toNat (.lcmd 4 0)).awake_shows p.toNat
    have queued := (s.die.withdrawPs_changes p.toNat).again fun x => { x with sendq := x.sendq ++ [.lcmd 4 0] }
    have changes := queued.of_ports reach.units.ports
    have frame := (PortReports.modPort (d := s.die)).trans (PortReports.modPort.trans (.of_reports (p := p.toNat) reach))
    exact ⟨_, becomes_of_act _ s _ _ rfl ha ((if_pos ⟨hl, by simp [hh], hc⟩).trans (s.die.wakePort_ps1 _ hp hf)), link, power, changes, changes.2,
      (frame.own reach.units.sw).2⟩
  case active =>
    refine ⟨_, becomes_of_act _ s _ _ rfl ha (if_pos hm), ?_, Die.hasCause_raise _ I.portActive _ 0 (by decide),
      (OnlyRegs.set _ R.portLinkState 2 p.toNat 0 0).reports.trans (OnlyReports.raise _ _ _ _)⟩
    exact (Die.raise_link _ _ I.portActive rfl).trans (Die.get_set _ _ _ _ _ _ (by decide))
  case written => exact completes_of_page _ s c .port p.toNat _ _ rfl ⟨ha, hu⟩ (s.die.psctlWrite_shows _ c hw)
  case refused =>
    refine completes_of_page _ s c .port p.toNat _ _ rfl ⟨ha, hu⟩ ?_
    rw [s.die.psctlWrite_refused _ c hw]
    exact s.die.psctlRefused_shows _ w c _

end Sys2Proof.Machine
end

section
/-!
PROOF. How far the buffer pools reach (spec 10): a hoop command changes the pools, the HOOP page and what a logged record carries with it.
-/
namespace Sys2Proof.Machine

/-- A hoop command's effect: every unit but the pools is as it was, and so is every dword outside the HOOP page and those of a logged record. -/
structure HoopEffect (d e : Die) : Prop where
  units : KeepsUnits d { e with hoops := d.hoops }
  out : d.out <+: e.out
  regs : ∀ a, a / 0x1000 ≠ 0xB → a ∉ logAddrs → e.dword a = d.dword a

namespace HoopEffect
variable {d e f : Die}

/-- The pools and the telemetry changed alone. -/
theorem inner (d : Die) (x : HoopSt) (y : TelemSt) : HoopEffect d { d with hoops := x, telem := y } :=
  ⟨{ KeepsUnits.refl d with }, List.prefix_refl _, fun _ _ _ => rfl⟩

theorem refl (d : Die) : HoopEffect d d := inner d d.hoops d.telem

theorem pools (d : Die) (x : HoopSt) : HoopEffect d { d with hoops := x } := inner d x d.telem

theorem tcount (d : Die) (k n : Nat) : HoopEffect d (d.tcount k n) := inner d d.hoops _

theorem modCell (d : Die) (n ix : Nat) (g : HoopCell → HoopCell) : HoopEffect d (d.modCell n ix g) := pools d _

theorem cellWrite (d : Die) (n ix o : Nat) (bs : List Byte) : HoopEffect d (d.cellWrite n ix o bs) := pools d _

theorem zeroCell (d : Die) (n ix : Nat) : HoopEffect d (d.zeroCell n ix) := pools d _

theorem cellStore (d : Die) (n ix : Nat) (bs : List Byte) : HoopEffect d (d.cellStore n ix bs) := inner d (d.cellWrite n ix 0 bs).hoops _

theorem trans (h : HoopEffect d e) (k : HoopEffect e f) : HoopEffect d f where
  units := h.units.trans { k.units with hoops := rfl }
  out := h.out.trans k.out
  regs := fun a ha hl => (k.regs a ha hl).trans (h.regs a ha hl)

theorem of_logs {as : List Nat} (h : OnlyLogs d e as) (own : ∀ a ∈ as, a / 0x1000 = 0xB) : HoopEffect d e where
  units := { h.units with hoops := rfl }
  out := h.out
  regs := fun a ha hl => h.regs a (fun m => ha (own a m)) hl

theorem logErr (d : Die) (t : PageType) (i code sev : Nat) (detail : List Byte) (tid : Option Nat) : HoopEffect d (d.logErr t i code sev detail tid) :=
  .of_logs (d.logErr_reach t i code sev detail tid false none).1 (by simp)

theorem set (d : Die) (g : Fld) (v i j : Nat) (h : g.addrOf i j / 0x1000 = 0xB) : HoopEffect d (d.set g v i j) :=
  .of_logs (OnlyRegs.set d g v i j 0).reports.logs (by simpa using h)

theorem bump (d : Die) (g : Fld) (h : g.addrOf / 0x1000 = 0xB) : HoopEffect d (d.bump g) := .of_logs (OnlyReports.bump d g 0 0 1).logs (by simpa using h)

theorem raise (d : Die) (q : Irq) (h : q.addrOf / 0x1000 = 0xB) : HoopEffect d (d.raise q) := .of_logs (OnlyReports.raise d q 0 0).logs (by simpa using h)

/-- A field of another page keeps its value. -/
theorem get (h : HoopEffect d e) (g : Fld) (i j k : Nat) (away : g.addrOf i j / 0x1000 ≠ 0xB) (log : g.addrOf i j ∉ logAddrs) :
    e.get g i j k = d.get g i j k := by
  rw [Die.get_addr, h.regs _ away log]
  rfl

/-- A logged record reaches no page of which a die has more than one. -/
theorem shared (h : HoopEffect d e) {a : Nat} (ha : 0x10000 ≤ a) : e.dword a = d.dword a := by
  have all : ∀ x ∈ logAddrs, x < 0x10000 := by decide
  exact h.regs a (by omega) fun m => absurd (all a m) (by omega)

end HoopEffect

section
variable (d : Die)

/-! ### RELEASE and FREE (R460, R467 to R470, R475, R478) -/

theorem Die.quarantine_effect (n h : Nat) : HoopEffect d (d.quarantine n h) := by
  have marked : HoopEffect d (if d.hstate n = 0 then d.setHstate n 1 else d) := by
    split
    case isTrue => exact .pools d _
    case isFalse => exact .refl d
  exact (marked.trans (.logErr _ _ _ _ _ _ _)).trans (.raise _ _ rfl)

theorem Die.freeCell_effect (n ix : Nat) : HoopEffect d (d.freeCell n ix) := by
  unfold Die.freeCell
  dsimp only
  split
  case isTrue => exact (((HoopEffect.modCell d n ix _).trans (.cellWrite _ n ix 0 _)).trans (.tcount _ _ 1)).trans (.pools _ _)
  case isFalse =>
    split
    case isTrue => exact (HoopEffect.modCell d n ix _).trans (.pools _ _)
    case isFalse => exact .modCell d n ix _

theorem Die.retireCell_effect (n ix : Nat) : HoopEffect d (d.retireCell n ix) :=
  ((HoopEffect.modCell d n ix _).trans (.logErr _ _ _ _ _ _ _)).trans (.raise _ _ rfl)

theorem Die.rejectHoop_effect (st : Nat) (h : BitVec 32) (o : BitVec 16) (tid : Option Nat) : HoopEffect d (d.rejectHoop st h o tid) := by
  have latched := ((((HoopEffect.logErr d .hoop 0 (0x0800 + (st - 4)) 0 (leBytes 4 h.toNat ++ leBytes 2 o.toNat ++ leBytes 1 st) tid).trans
    (.set _ R.hoopErrCellHandle h.toNat 0 0 rfl)).trans (.set _ R.hoopErrOwnerOwner o.toNat 0 0 rfl)).trans
    (.set _ R.hoopErrOwnerStatus st 0 0 rfl)).trans (.raise _ I.hoopReject rfl)
  unfold Die.rejectHoop
  dsimp only
  split
  case isTrue => exact latched.trans (.bump _ _ rfl)
  case isFalse =>
    split
    case isTrue => exact latched.trans (.bump _ _ rfl)
    case isFalse => exact latched.trans (.bump _ _ rfl)

/-- A rejected command, which waits while the log is full. -/
theorem Die.rejectOrHold_effect (fr : Bool) (st : Nat) (h : BitVec 32) (o : BitVec 16) (tid : Option Nat) :
    HoopEffect d (if d.logFull then (({ d with hoops := { d.hoops with held := d.hoops.held ++ [(fr, h, o)] } } : Die), (none : Option Nat))
      else (d.rejectHoop st h o tid, some st)).1 := by
  split
  case isTrue => exact .pools d _
  case isFalse => exact d.rejectHoop_effect st h o tid

theorem Die.hoopLetGo_effect (fr : Bool) (h : BitVec 32) (o : BitVec 16) (found : Option (List Byte)) (bad : Bool) :
    HoopEffect d (d.hoopLetGo fr h o found bad).1 := by
  unfold Die.hoopLetGo
  extract_lets n ix pools reject c t good
  have rejected (st : Nat) (tid : Option Nat) : HoopEffect d (reject st tid).1 := d.rejectOrHold_effect fr st h o tid
  split
  case isTrue => exact .refl d
  split
  case isTrue => exact .refl d
  split
  case isTrue => exact (d.retireCell_effect n ix).trans (Die.quarantine_effect _ _ _)
  split
  case isTrue =>
    split
    case isTrue => exact rejected 4 none
    case isFalse => exact d.quarantine_effect n h.toNat
  split
  case isTrue => exact rejected 5 t
  split
  case isTrue => exact d.freeCell_effect n ix
  split
  case isTrue => exact rejected 6 t
  case isFalse => exact .modCell d n ix _

theorem Die.hoopRelease_effect (h : Nat) (o : BitVec 16) : HoopEffect d (d.hoopRelease h o) := d.hoopLetGo_effect false _ o none false

/-! ### ALLOC (R451 to R456, R463, R476) -/

theorem Die.takeCell_effect (n ix : Nat) (tid : BitVec 8) (mgmt : Bool) (owners : List (BitVec 16)) : HoopEffect d (d.takeCell n ix tid mgmt owners) := by
  unfold Die.takeCell
  dsimp only
  split
  case isTrue => exact (HoopEffect.cellWrite d n ix 0 _).trans (.modCell _ n ix _)
  case isFalse => exact ((HoopEffect.zeroCell d n ix).trans (.cellWrite _ n ix 0 _)).trans (.modCell _ n ix _)

theorem Die.dropTop_effect (n : Nat) : HoopEffect d (d.dropTop n) := by
  unfold Die.dropTop
  split
  next => exact .pools d _
  next =>
    split
    next => exact .pools d _
    next => exact .refl d

theorem Die.hoopFell_effect {n : Nat} (before : Nat) (hn : n ≤ 3) : HoopEffect d (d.hoopFell n before) := by
  have own : R.hoopMinfreeMin.addrOf 0 n / 0x1000 = 0xB := by
    rw [Fld.addrOf_eq]
    simp only [R.hoopMinfreeMin, pageIndex]
    omega
  unfold Die.hoopFell
  extract_lets f telem x y low
  have least : HoopEffect d x := .inner d _ _
  have fewest : HoopEffect x y := by
    show HoopEffect x (if _ then _ else _)
    split
    case isTrue => exact .set x _ _ _ _ own
    case isFalse => exact .refl x
  split
  case isTrue => exact (least.trans fewest).trans (.raise _ _ rfl)
  case isFalse => exact least.trans fewest

theorem Die.tryPool_effect {n : Nat} (r : HoopReq) (found : Option (List Byte)) (hn : n ≤ 3) : HoopEffect d (d.tryPool n r found).1 := by
  unfold Die.tryPool
  split
  next => exact .refl d
  next =>
    split
    next => exact .refl d
    next ix _ =>
      split
      next => exact .refl d
      next =>
        extract_lets good before
        split
        next => exact d.quarantine_effect n _
        next =>
          exact (((d.dropTop_effect n).trans (Die.takeCell_effect _ n ix r.tid r.mgmt r.owners)).trans (Die.hoopFell_effect _ before hn)).trans (.tcount _ _ 1)

theorem Die.tryPools_effect (fuel : Nat) {n : Nat} (r : HoopReq) (found : Option (List Byte)) (spilled quota : Bool) (hn : n ≤ 3) :
    HoopEffect d (Die.tryPools fuel d n r found spilled quota).1 := by
  induction fuel generalizing d n found spilled quota with
  | zero => exact .refl d
  | succ fuel ih =>
    have tried := d.tryPool_effect r found hn
    unfold Die.tryPools
    split
    next e h eq =>
      rw [eq] at tried
      dsimp only
      split
      next => exact (tried.trans (.bump _ _ rfl)).trans (.tcount _ _ 1)
      next => exact tried
    next e q eq =>
      rw [eq] at tried
      dsimp only
      split
      next more => exact tried.trans (ih e none true _ (by omega))
      next => exact tried

theorem poolFor_le (size : Nat) : poolFor size ≤ 3 := by
  unfold poolFor
  split
  next => omega
  next =>
    split
    next => omega
    next =>
      split
      next => omega
      next => omega

theorem Die.hoopAlloc_effect (r : HoopReq) (found : Option (List Byte)) : HoopEffect d (d.hoopAlloc r found).1 := by
  unfold Die.hoopAlloc
  split
  next => exact .refl d
  next =>
    split
    next => exact (HoopEffect.bump d _ rfl).trans (.tcount _ _ 1)
    next =>
      have tried := d.tryPools_effect 4 r found false true (poolFor_le r.size.toNat)
      generalize Die.tryPools 4 d (poolFor r.size.toNat) r found false true = done at tried ⊢
      obtain ⟨e, st, h⟩ := done
      dsimp only at tried ⊢
      have counted : HoopEffect d (if st = 0 then e else e.tcount (hoopTel (poolFor r.size.toNat) 3) 1) := by
        split
        case isTrue => exact tried
        case isFalse => exact tried.trans (.tcount e _ 1)
      split
      next => exact counted.trans (.bump _ _ rfl)
      next =>
        split
        next => exact counted.trans (.bump _ _ rfl)
        next => exact counted

end

end Sys2Proof.Machine
end

section
/-!
PROOF. What replay's compare unit leaves alone (spec 18, R757 to R773): the pages of which a die has more than one, so the link state of every port.
-/
namespace Sys2Proof.Machine

/-- The dwords of the pages of which a die has more than one are as they were. -/
def KeepsInstances (d e : Die) : Prop := ∀ a, 0x10000 ≤ a → e.dword a = d.dword a

namespace KeepsInstances
variable {d e f : Die}

theorem refl (d : Die) : KeepsInstances d d := fun _ _ => rfl

theorem trans (h : KeepsInstances d e) (k : KeepsInstances e f) : KeepsInstances d f := fun a ha => (k a ha).trans (h a ha)

theorem of_regs (h : e.regs = d.regs) : KeepsInstances d e := fun a _ => by rw [Die.dword, Die.dword, h]

theorem of_hoop (h : HoopEffect d e) : KeepsInstances d e := fun _ ha => h.shared ha

theorem of_reports {as : List Nat} (h : OnlyReports d e as) (own : ∀ a ∈ as, a < 0x10000) : KeepsInstances d e :=
  fun a ha => h.regs a fun m => absurd (own a m) (by omega)

theorem set (d : Die) (g : Fld) (v : Nat) (h : g.addrOf < 0x10000) : KeepsInstances d (d.set g v) :=
  .of_reports (OnlyRegs.set d g v 0 0 0).reports (by simpa using h)

theorem setBit (d : Die) (g : Fld) (b : Bool) (h : g.addrOf < 0x10000) : KeepsInstances d (d.setBit g b) := set d g _ h

theorem bump (d : Die) (g : Fld) (h : g.addrOf < 0x10000) : KeepsInstances d (d.bump g) := .of_reports (OnlyReports.bump d g 0 0 1) (by simpa using h)

theorem raise (d : Die) (q : Irq) (h : q.addrOf < 0x10000) : KeepsInstances d (d.raise q) := .of_reports (OnlyReports.raise d q 0 0) (by simpa using h)

theorem forAll {α : Type} {g : Die → α → Die} (h : ∀ d x, KeepsInstances d (g d x)) (l : List α) (d : Die) : KeepsInstances d (d.forAll l g) := by
  induction l generalizing d with
  | nil => exact .refl d
  | cons x r ih => exact (h d x).trans (ih (g d x))

theorem get (h : KeepsInstances d e) (g : Fld) (i j k : Nat) (ha : 0x10000 ≤ g.addrOf i j) : e.get g i j k = d.get g i j k := by
  rw [Die.get_addr, h _ ha]
  rfl

theorem link (h : KeepsInstances d e) (p : Nat) : e.link p = d.link p := by
  refine h.get R.portLinkState p 0 0 ?_
  rw [addrOf_portLinkState]
  omega

end KeepsInstances

section
variable (d : Die)

/-! ### Recording -/

theorem Die.gapPut_keeps : KeepsInstances d d.gapPut := by
  unfold Die.gapPut
  dsimp only
  split
  case isTrue => exact .refl d
  case isFalse => exact .trans (.of_regs rfl) (.raise _ I.detRecGap (by decide))

theorem Die.recPut_keeps (e : List Byte) : KeepsInstances d (d.recPut e) := by
  unfold Die.recPut
  dsimp only
  split
  case isTrue => exact d.gapPut_keeps.trans (.trans (.of_regs rfl) (.bump _ R.detRecLost (by decide)))
  case isFalse => exact d.gapPut_keeps.trans (.of_regs rfl)

theorem Die.recPacket_keeps (ev : RecEvent) (replayed : Bool) : KeepsInstances d (d.recPacket ev replayed) := by
  unfold Die.recPacket
  split
  case isTrue => exact d.recPut_keeps _
  case isFalse => exact .refl d

/-! ### Comparing -/

theorem Die.bitDiverge_keeps (tick port kind : Nat) (pk : Option Packet) (flit : Nat) : KeepsInstances d (d.bitDiverge tick port kind pk flit) := by
  unfold Die.bitDiverge
  split
  case isTrue => exact .bump d _ (by decide)
  case isFalse =>
    have place := ((((KeepsInstances.set d R.detCmpBTick (tick % 2 ^ 32) (by decide)).trans (.set _ R.detCmpBTickh (tick / 2 ^ 32) (by decide))).trans
      (.set _ R.detCmpBPort port (by decide))).trans (.set _ R.detCmpBKind kind (by decide))).trans (.setBit _ R.detCmpBValid true (by decide))
    have flow (x : Die) (p : Packet) := ((((KeepsInstances.set x R.detCmpBSeid p.seid.toNat (by decide)).trans
      (.set _ R.detCmpBTid p.tid.toNat (by decide))).trans (.set _ R.detCmpBClass p.cls.toNat (by decide))).trans
      (.set _ R.detCmpBDeid p.deid.toNat (by decide))).trans (.set _ R.detCmpBFlit flit (by decide))
    exact (place.trans (flow _ _)).trans (.raise _ I.detCmpBit (by decide))

theorem Die.timeDiverge_keeps (tick port kind : Nat) : KeepsInstances d (d.timeDiverge tick port kind) := by
  unfold Die.timeDiverge
  split
  case isTrue => exact .bump d _ (by decide)
  case isFalse =>
    have place := (((KeepsInstances.set d R.detCmpTTick (tick % 2 ^ 32) (by decide)).trans (.set _ R.detCmpTTickh (tick / 2 ^ 32) (by decide))).trans
      (.set _ R.detCmpTPort port (by decide))).trans (.set _ R.detCmpTKind kind (by decide))
    exact ((place.trans (.setBit _ R.detCmpTValid true (by decide))).trans (.setBit _ R.detCmpTExc d.det.exc (by decide))).trans
      (.raise _ I.detCmpTime (by decide))

theorem Die.cmpEvent_keeps (ev : RecEvent) (next : Option RpEnt) : KeepsInstances d (d.cmpEvent ev next) := by
  unfold Die.cmpEvent
  split
  next => exact .refl d
  next =>
    split
    next => exact (KeepsInstances.of_regs (e := d.used) rfl).trans (d.used.bitDiverge_keeps _ _ _ _ _)
    next e =>
      extract_lets full old flow x
      have bits : KeepsInstances d x := by
        show KeepsInstances d (if _ then _ else _)
        split
        case isTrue => exact d.bitDiverge_keeps _ _ _ _ _
        case isFalse => exact .refl d
      split
      next => exact bits.trans (x.timeDiverge_keeps _ _ _)
      next => exact bits

theorem Die.compare_keeps (ev : RecEvent) : KeepsInstances d (d.compare ev) := by
  unfold Die.compare
  split
  next => exact .refl d
  next =>
    dsimp only
    split
    next e eq => exact eq ▸ (d.cmpEvent_keeps ev (some e)).trans (.of_regs rfl)
    next eq => exact eq ▸ d.cmpEvent_keeps ev none

/-! ### Items at their destination -/

theorem Die.modDst_regs (f : Nat) (g : DstFlow → DstFlow) : (d.modDst f g).regs = d.regs := by
  unfold Die.modDst
  split
  next => rfl
  next => rfl

theorem Die.dropItem_effect (f : DstFlow) (i : DstItem) : HoopEffect d (d.dropItem f i) := by
  unfold Die.dropItem
  split
  next => exact d.hoopRelease_effect _ _
  next => exact .refl d

theorem Die.advanceNext_keeps (fi : Nat) : KeepsInstances d (d.advanceNext fi) := by
  unfold Die.advanceNext
  split
  next f _ => exact (KeepsInstances.forAll (fun d i => .of_hoop (d.dropItem_effect f i)) _ d).trans (.of_regs (Die.modDst_regs _ _ _))
  next => exact .refl d

theorem Die.takenOne_keeps (p : Nat) (o : EgressOut) : KeepsInstances d (d.takenOne p o) := by
  unfold Die.takenOne
  extract_lets x
  have out : KeepsInstances d x := .of_regs rfl
  split
  next => exact out.trans (.of_regs rfl)
  next =>
    split
    next =>
      split
      next => exact out.trans (x.advanceNext_keeps _)
      next => exact out
    next => exact out

theorem Die.awaitTaken_keeps (p vc : Nat) (pk : Packet) : KeepsInstances d (d.awaitTaken p vc pk) := by
  unfold Die.awaitTaken
  split
  next => exact .refl d
  next => exact .trans (.of_regs rfl) (.of_regs (Die.modDst_regs _ _ _))

/-! ### What waits for a replay port (R769) -/

theorem Die.replayEgress_keeps (p vc : Nat) (pk : Packet) : KeepsInstances d (d.replayEgress p vc pk) := by
  unfold Die.replayEgress
  extract_lets lsn x
  have sent : KeepsInstances d x := ((d.recPacket_keeps _ _).trans (Die.compare_keeps _ _)).trans (Die.awaitTaken_keeps _ _ _ _)
  split
  next => exact sent
  next => exact sent.trans (.forAll (fun d o => d.takenOne_keeps p o) _ _)

theorem Die.freeFlits_regs (p v n : Nat) : (d.freeFlits p v n).regs = d.regs := by
  unfold Die.freeFlits
  split
  next => rfl
  next => rfl

theorem Die.leaveInput_keeps (e : QEnt) (port vc : Nat) : KeepsInstances d (d.leaveInput e port vc) := by
  unfold Die.leaveInput
  split
  next => exact .refl d
  next =>
    split
    next => exact .of_regs rfl
    next => exact .of_regs (d.freeFlits_regs _ _ _)

/-- What waits for a replay port leaves its input and its cell, and is compared. -/
theorem Die.replayDrain_keeps (p : Nat) : KeepsInstances d (d.replayDrain p) := by
  unfold Die.replayDrain
  refine KeepsInstances.forAll (g := fun d v => _) (fun d v => ?_) (List.range 8) d
  refine KeepsInstances.trans (.of_regs rfl) (.forAll (fun d e => ?_) _ _)
  refine (d.leaveInput_keeps e p v).trans (.trans ?_ (Die.replayEgress_keeps _ _ _ _))
  split
  next => exact .of_hoop (Die.hoopRelease_effect _ _ _)
  next => exact .refl _

end

end Sys2Proof.Machine
end

section
/-!
PROOF. A superframe as it is sent (spec 05): its positions, its message and what waits for its acknowledgement (R204, R205, R212 to R221, R424).
-/
namespace Sys2Proof.Machine

section
variable (d : Die) (p : Nat)

/-! ### The parts of a superframe -/

/-- A replay port has drained. -/
def Die.drained : Die := if d.replayPort p then d.replayDrain p else d

/-- A superframe of a port that withholds credit is counted. -/
def Die.whCounted : Die := if smapGet false d.withholding p then d.bump R.portWhSf p else d

/-- What comes before a superframe. -/
def Die.superframePrep : Die := (d.drained p).whCounted p

/-- The message of a superframe with its MSN; null where the supervisory field is off. -/
def Die.superframeMsg : Die × Msg × Nat := if d.supervised p then d.txMsg p else (d, .null, 0)

/-- A superframe without positions. -/
def Die.txStart : TxAcc := { d := d, pos := [], flits := [], segs := 0, run := none, best := 0 }

/-- The positions of a superframe: idle outside ACTIVE. -/
def Die.txBody (place : Nat → Nat × Nat) : TxAcc :=
  if d.link p == 2 then (List.range 38).foldl (Die.txPos p place) d.txStart
  else { d.txStart with pos := List.replicate 38 .idle
                        flits := (List.range 38).map (fun f => leBytes 64 (Config.freeBits 512 (d.fresh + f)).toNat) }

/-- The die that a superframe with chosen positions leaves from: its free values are used, its floors credited, and its quiet run counted. -/
def Die.txDone (on : Bool) (a : TxAcc) : Die :=
  let d := a.d.used 38
  let d := if on then d.floorTick p a.best else d
  let quiet := a.pos.all (· == .idle)
  d.modPort p (fun s => { s with quiet := if quiet then min 4 (s.quiet + 1) else 0 })

/-- A superframe leaves with its slot, its message and its lanes. -/
def Die.sendFrame (pos : List TxPos) (flits : List (List Byte)) (edge : Option (BitVec 12)) (msg : Msg) (msn : Nat) : Die :=
  let mack := d.get R.portMsgMackOut p
  let mlast := (d.port p).mlastOut.toNat
  let (d, slot) := d.txSlot p edge
  let (d, lanes) := d.txLanes p pos flits (slotBits slot mack mlast) (messageSlot msn msg)
  (d.emit (.superframe p pos slot msg msn mack mlast lanes)).tryPsReq p

/-- The superframe of a transmitter that is on, from its parts. -/
theorem Die.superframeTx_on (ofs : Nat) (edge : Option (BitVec 12)) (h : d.transmits p = true) :
    d.superframeTx p ofs edge = (let x := (d.superframePrep p).superframeMsg p
      let a := x.1.txBody p (d.txPlace p ofs edge.isSome)
      (Die.txDone p (x.1.link p == 2) a).sendFrame p a.pos a.flits edge x.2.1 x.2.2) := by
  unfold Die.superframeTx
  rw [if_neg (by simp [h])]
  rfl

/-! ### The positions (R205, R424) -/

theorem Die.txPos_length (place : Nat → Nat × Nat) (a : TxAcc) (f : Nat) : (Die.txPos p place a f).pos.length = a.pos.length + 1 := by
  unfold Die.txPos
  dsimp only
  split
  next => simp
  next => simp

theorem Die.foldl_txPos_length (place : Nat → Nat × Nat) (l : List Nat) (a : TxAcc) : (l.foldl (Die.txPos p place) a).pos.length = a.pos.length + l.length := by
  induction l generalizing a with
  | nil => rfl
  | cons f l ih =>
    rw [List.foldl_cons, ih, Die.txPos_length, List.length_cons]
    omega

theorem Die.txBody_length (place : Nat → Nat × Nat) : (d.txBody p place).pos.length = 38 := by
  unfold Die.txBody
  split
  case isTrue => exact Die.foldl_txPos_length p place (List.range 38) d.txStart
  case isFalse => exact List.length_replicate

/-- Outside ACTIVE nothing is chosen. -/
theorem Die.txBody_idle (place : Nat → Nat × Nat) (h : d.link p ≠ 2) :
    (d.txBody p place).pos = List.replicate 38 .idle ∧ (d.txBody p place).d = d := by
  rw [Die.txBody, if_neg (by simpa using h)]
  exact ⟨rfl, rfl⟩

/-! ### The frame that leaves -/

/-- Neither the registers nor a port's messages without an acknowledgement have changed. -/
structure KeepsUnacked (p : Nat) (d e : Die) : Prop where
  regs : e.regs = d.regs
  unacked : (e.port p).unacked = (d.port p).unacked

namespace KeepsUnacked
variable {p : Nat} {d e f : Die}

theorem trans (h : KeepsUnacked p d e) (k : KeepsUnacked p e f) : KeepsUnacked p d f := ⟨k.1.trans h.1, k.2.trans h.2⟩

theorem of_ports (hr : e.regs = d.regs) (hp : e.ports = d.ports) : KeepsUnacked p d e := ⟨hr, congrArg PortSt.unacked (Die.port_congr hp p)⟩

theorem modPort (f : PortSt → PortSt) (h : ∀ x, (f x).unacked = x.unacked := by intro _; rfl) : KeepsUnacked p d (d.modPort p f) :=
  ⟨rfl, (congrArg PortSt.unacked (d.port_modPort_self p f)).trans (h _)⟩

theorem modVc (v : Nat) (f : VcSt → VcSt) : KeepsUnacked p d (d.modVc p v f) := modPort _

end KeepsUnacked

theorem Die.txSlot_keeps (edge : Option (BitVec 12)) : KeepsUnacked p d (d.txSlot p edge).1 := by
  unfold Die.txSlot
  dsimp only
  split
  next => exact .modPort _
  next => exact ((KeepsUnacked.modPort _).trans (.modVc _ _)).trans (.modVc _ _)

theorem Die.txLanes_keeps (pos : List TxPos) (flits : List (List Byte)) (s q : Nat) : KeepsUnacked p d (d.txLanes p pos flits s q).1 :=
  .modPort _

theorem Die.txLanes_length (pos : List TxPos) (flits : List (List Byte)) (s q : Nat) : (d.txLanes p pos flits s q).2.length = 4 := by
  simp [Die.txLanes]

theorem Die.tryPsReq_keeps : KeepsUnacked p d (d.tryPsReq p) := by
  unfold Die.tryPsReq
  dsimp only
  split
  case isTrue => exact (KeepsUnacked.modPort _).trans (.modPort _)
  case isFalse => exact .of_ports rfl rfl

theorem Die.tryPsReq_out : (d.tryPsReq p).out = d.out := by
  unfold Die.tryPsReq
  dsimp only
  split
  case isTrue => rfl
  case isFalse => rfl

/-- What the frame that leaves shows, and what it keeps. -/
theorem Die.sendFrame_shows (pos : List TxPos) (flits : List (List Byte)) (edge : Option (BitVec 12)) (msg : Msg) (msn : Nat) :
    (∃ slot mack mlast lanes, (d.sendFrame p pos flits edge msg msn).lastFrame = some (p, pos, slot, msg, msn, mack, mlast, lanes) ∧ lanes.length = 4)
      ∧ KeepsUnacked p d (d.sendFrame p pos flits edge msg msn) := by
  unfold Die.sendFrame
  extract_lets mack mlast
  have slotted := d.txSlot_keeps p edge
  generalize d.txSlot p edge = chosen at slotted ⊢
  obtain ⟨x, slot⟩ := chosen
  dsimp only
  have coded := x.txLanes_keeps p pos flits (slotBits slot mack mlast) (messageSlot msn msg)
  have four := x.txLanes_length p pos flits (slotBits slot mack mlast) (messageSlot msn msg)
  generalize x.txLanes p pos flits (slotBits slot mack mlast) (messageSlot msn msg) = coding at coded four ⊢
  obtain ⟨y, lanes⟩ := coding
  constructor
  · refine ⟨slot, mack, mlast, lanes, ?_, four⟩
    rw [Die.lastFrame, Die.tryPsReq_out, Die.emit, List.getLast?_concat]
  · exact ((slotted.trans coded).trans (.of_ports (Die.emit_regs y _) (Die.emit_ports y _))).trans (Die.tryPsReq_keeps _ p)

theorem Die.floorTick_parts (n : Nat) : (d.floorTick p n).regs = d.regs ∧ (d.floorTick p n).ports = d.ports := by
  unfold Die.floorTick
  constructor
  · exact Die.forAll_keep Die.regs (by intros; rfl) _ _
  · exact Die.forAll_keep Die.ports (by intros; rfl) _ _

theorem Die.txDone_keeps (on : Bool) (a : TxAcc) : KeepsUnacked p a.d (Die.txDone p on a) := by
  have credited : KeepsUnacked p a.d (if on then (a.d.used 38).floorTick p a.best else a.d.used 38) := by
    split
    case isTrue => exact .of_ports (Die.floorTick_parts _ p _).1 (Die.floorTick_parts _ p _).2
    case isFalse => exact .of_ports rfl rfl
  exact credited.trans (.modPort _)

end

end Sys2Proof.Machine
end

section
/-!
PROOF. The superframe of a transmitter that is on, and the message that it carries (spec 05, R205, R212, R219, R221, R244, R424).
-/
namespace Sys2Proof.Machine

section
variable (d : Die) (p : Nat)

/-! ### Before the superframe -/

theorem Die.whCounted_reach : OnlyReports d (d.whCounted p) [R.portWhSf.addrOf p] := by
  unfold Die.whCounted
  split
  case isTrue => exact .bump d _ _ _ _
  case isFalse => exact .refl d _

/-- A field of the PORT page away from WH_SF. -/
theorem Die.whCounted_get (g : Fld) (hp : g.page = .port) (ho : g.off ≠ R.portWhSf.off) : (d.whCounted p).get g p = d.get g p := by
  refine (d.whCounted_reach p).get _ _ _ _ ?_
  rw [List.mem_singleton, Fld.addrOf_eq, Fld.addrOf_eq, hp]
  simp only [R.portWhSf, pageIndex] at ho ⊢
  omega

/-- A port that is no replay port counts a superframe that it withholds credit in, and does no more. -/
theorem Die.superframePrep_eq (h : d.replayPort p = false) : d.superframePrep p = d.whCounted p := by
  rw [Die.superframePrep, Die.drained, if_neg (by simp [h])]

theorem Die.superframePrep_port (h : d.replayPort p = false) : (d.superframePrep p).port p = d.port p :=
  Die.port_congr (d.superframePrep_eq p h ▸ (d.whCounted_reach p).units.ports) p

theorem Die.drained_link : (d.drained p).link p = d.link p := by
  unfold Die.drained
  split
  case isTrue => exact (d.replayDrain_keeps p).link p
  case isFalse => rfl

/-- The link state stays, whatever a replay port drains. -/
theorem Die.superframePrep_link : (d.superframePrep p).link p = d.link p :=
  ((d.drained p).whCounted_get p R.portLinkState rfl (by decide)).trans (d.drained_link p)

theorem Die.superframePrep_supervised (h : d.replayPort p = false) : (d.superframePrep p).supervised p = d.supervised p := by
  rw [Die.supervised, Die.superframePrep_link, d.superframePrep_eq p h, d.whCounted_get p R.portLinkPs rfl (by decide)]
  rfl

theorem Die.superframePrep_msn (h : d.replayPort p = false) : (d.superframePrep p).get R.portMsgNextMsn p = d.get R.portMsgNextMsn p := by
  rw [d.superframePrep_eq p h, d.whCounted_get p R.portMsgNextMsn rfl (by decide)]

/-! ### The message (R219, R221) -/

/-- A message taken for a superframe leaves the link state alone. -/
theorem Die.txMsg_link : (d.txMsg p).1.link p = d.link p := by
  unfold Die.txMsg
  dsimp only
  split
  next => rfl
  next => rfl
  next =>
    split
    next => exact Die.get_set_apart _ _ _ _ _ _ _ _ _ _ (by decide) (Loc.apart_of_off rfl rfl (by decide))
    next =>
      split
      next => rfl
      next => rfl

theorem Die.superframeMsg_link : (d.superframeMsg p).1.link p = d.link p := by
  unfold Die.superframeMsg
  split
  case isTrue => exact d.txMsg_link p
  case isFalse => rfl

/-- The first new message goes out under the next MSN, and waits for its acknowledgement. -/
theorem Die.txMsg_new {m : Msg} {ms : List Msg} (hc : (d.port p).csyncReq = []) (hr : (d.port p).replay = []) (hq : (d.port p).sendq = m :: ms)
    (hu : (d.port p).unacked.length < 32) :
    (d.txMsg p).2 = (m, d.get R.portMsgNextMsn p)
      ∧ ((d.txMsg p).1.port p).unacked = (d.port p).unacked ++ [(BitVec.ofNat 6 (d.get R.portMsgNextMsn p), m)]
      ∧ (d.txMsg p).1.get R.portMsgNextMsn p = (d.get R.portMsgNextMsn p + 1) % 64 := by
  unfold Die.txMsg
  dsimp only
  rw [hc, hr, hq]
  dsimp only
  rw [if_pos (by simp [hu])]
  refine ⟨rfl, congrArg PortSt.unacked ((Die.port_congr (Die.set_ports _ _ _ _ _ _) p).trans (d.port_modPort_self p _)), ?_⟩
  exact (Die.get_set _ _ _ _ _ _ (by decide)).trans (Nat.mod_mod _ _)

/-- With nothing to send, the message is null. -/
theorem Die.txMsg_null (hc : (d.port p).csyncReq = []) (hr : (d.port p).replay = []) (hq : (d.port p).sendq = []) (hd : (d.port p).csyncDue = []) :
    (d.txMsg p).2.1 = .null := by
  unfold Die.txMsg
  dsimp only
  rw [hc, hr, hq, hd]
  rfl

/-! ### The superframe -/

/-- What a superframe shows: its positions, its message with its MSN, and what the choice of the positions kept. -/
theorem Die.superframeTx_shows (ofs : Nat) (edge : Option (BitVec 12)) (h : d.transmits p = true) :
    let x := (d.superframePrep p).superframeMsg p
    let a := x.1.txBody p (d.txPlace p ofs edge.isSome)
    (∃ slot mack mlast lanes, (d.superframeTx p ofs edge).lastFrame = some (p, a.pos, slot, x.2.1, x.2.2, mack, mlast, lanes) ∧ lanes.length = 4)
      ∧ KeepsUnacked p a.d (d.superframeTx p ofs edge) := by
  extract_lets x a
  obtain ⟨frame, kept⟩ := (Die.txDone p (x.1.link p == 2) a).sendFrame_shows p a.pos a.flits edge x.2.1 x.2.2
  rw [d.superframeTx_on p ofs edge h]
  exact ⟨frame, (Die.txDone_keeps p _ a).trans kept⟩

/-- Outside ACTIVE every position is idle, and the die is that which chose the message. -/
theorem Die.superframeTx_idle (ofs : Nat) (edge : Option (BitVec 12)) (h : d.transmits p = true) (hl : d.link p ≠ 2) :
    let x := (d.superframePrep p).superframeMsg p
    (∃ slot mack mlast lanes, (d.superframeTx p ofs edge).lastFrame = some (p, List.replicate 38 .idle, slot, x.2.1, x.2.2, mack, mlast, lanes))
      ∧ KeepsUnacked p x.1 (d.superframeTx p ofs edge) := by
  extract_lets x
  have link : x.1.link p ≠ 2 := by
    rw [Die.superframeMsg_link, Die.superframePrep_link]
    exact hl
  obtain ⟨idle, same⟩ := x.1.txBody_idle p (d.txPlace p ofs edge.isSome) link
  obtain ⟨⟨slot, mack, mlast, lanes, frame, -⟩, kept⟩ := d.superframeTx_shows p ofs edge h
  exact ⟨⟨slot, mack, mlast, lanes, idle ▸ frame⟩, same ▸ kept⟩

/-- The message of a port whose supervisory field is on and which is no replay port. -/
theorem Die.superframeMsg_on (hs : d.supervised p = true) (hr : d.replayPort p = false) :
    (d.superframePrep p).superframeMsg p = (d.superframePrep p).txMsg p :=
  if_pos ((d.superframePrep_supervised p hr).trans hs)

end

/-! ### The statement -/

/-- Settles O31: the frame that leaves, by the message chosen for it and the positions chosen after it. -/
theorem superframesAreSent : Obligations.SuperframesAreSent := by
  intro s p ofs edge m ms ha
  dsimp only
  have sent := s.die.superframeTx_shows p.toNat ofs.toNat edge
  have idle := s.die.superframeTx_idle p.toNat ofs.toNat edge
  refine ⟨fun h => ?off, fun h => ?on, fun h hl => ?idle, fun h hl hs hr hc hp hq hu => ?new, fun h hl hs hr hc hp hq hd => ?null⟩
  case off => exact becomes_of_act _ s _ _ rfl ha (if_pos (by simp [h]))
  case on =>
    refine completes_of_act _ s _ _ rfl ha ?_
    obtain ⟨⟨slot, mack, mlast, lanes, frame, four⟩, -⟩ := sent h
    simp only [frame, Option.map_some, Die.txBody_length, four]
  case idle =>
    refine completes_of_act _ s _ _ rfl ha ?_
    obtain ⟨⟨slot, mack, mlast, lanes, frame⟩, -⟩ := idle h hl
    simp only [frame, Option.map_some]
  case new =>
    refine completes_of_act _ s _ _ rfl ha ?_
    obtain ⟨⟨slot, mack, mlast, lanes, frame⟩, kept⟩ := idle h hl
    have port := s.die.superframePrep_port p.toNat hr
    obtain ⟨msg, unacked, msn⟩ := Die.txMsg_new (s.die.superframePrep p.toNat) p.toNat (port ▸ hc) (port ▸ hp) (port ▸ hq) (port ▸ hu)
    rw [s.die.superframeMsg_on p.toNat hs hr] at frame kept
    rw [s.die.superframePrep_msn p.toNat hr] at msg unacked msn
    refine ⟨?_, (kept.unacked.trans unacked).trans (by rw [port]), (Die.get_congr kept.regs _ _ _ _).trans msn⟩
    simp only [frame, Option.map_some, msg]
  case null =>
    refine completes_of_act _ s _ _ rfl ha ?_
    obtain ⟨⟨slot, mack, mlast, lanes, frame⟩, -⟩ := idle h hl
    have port := s.die.superframePrep_port p.toNat hr
    rw [s.die.superframeMsg_on p.toNat hs hr] at frame
    simp only [frame, Option.map_some, Die.txMsg_null (s.die.superframePrep p.toNat) p.toNat (port ▸ hc) (port ▸ hp) (port ▸ hq) (port ▸ hd)]

end Sys2Proof.Machine
end

section
/-!
PROOF. A packet on a DROP ingress (spec 05, R236, R239; spec 08, R346, R352 to R354): refused with its reason, or waiting for acceptance.
-/
namespace Sys2Proof.Machine

section
variable (d : Die) (p : Nat)

/-! ### A refusal (R239, R354, R785) -/

/-- A packet is refused: REFUSE joins its port's messages, and the port's counter and, where it counts against the tenant, the tenant's are one up. -/
structure Refuses (d e : Die) (p : Nat) (pk : Packet) (why : BitVec 4) (t : Bool) : Prop where
  others : OtherPorts d e p
  sendq : (e.port p).sendq = (d.port p).sendq ++ [.refuse pk.lsn why]
  count : e.get R.portRefused p = d.counted R.portRefused p
  reach : OnlyReports d { e with ports := d.ports }
    ([R.portRefused.addrOf p] ++ if t then [R.tenCntRefused.addrOf (pk.tid.toNat / 4) (pk.tid.toNat % 4)] else [])

/-- Flits that have left a port's buffer count for one of its VCs. -/
theorem Die.freeFlits_shape (v n : Nat) : ∃ f, d.freeFlits p v n = d.modVc p v f := by
  unfold Die.freeFlits
  split
  case isTrue => exact ⟨_, rfl⟩
  case isFalse => exact ⟨_, rfl⟩

theorem Die.port_modVc_sendq (v : Nat) (f : VcSt → VcSt) : ((d.modVc p v f).port p).sendq = (d.port p).sendq := by
  rw [Die.modVc, Die.port_modPort_self]

section
variable {d p} {e : Die} {pk : Packet} {why : BitVec 4} {t : Bool}

theorem Refuses.freeFlits (h : Refuses d e p pk why t) (v n : Nat) : Refuses d (e.freeFlits p v n) p pk why t := by
  obtain ⟨f, eq⟩ := e.freeFlits_shape p v n
  rw [eq]
  exact ⟨fun q hq => (e.otherPorts_modPort p _ q hq).trans (h.others q hq), (e.port_modVc_sendq p v f).trans h.sendq, h.count, h.reach⟩

/-- A refusal that counts against the tenant too. -/
theorem Refuses.tenant (h : Refuses d e p pk why false) :
    Refuses d (e.bump R.tenCntRefused (pk.tid.toNat / 4) (pk.tid.toNat % 4)) p pk why true := by
  have counted := OnlyReports.bump e R.tenCntRefused (pk.tid.toNat / 4) (pk.tid.toNat % 4) 1
  have port := Die.port_congr counted.units.ports
  refine ⟨fun q hq => (port q).trans (h.others q hq), (congrArg PortSt.sendq (port p)).trans h.sendq, (counted.get _ _ _ _ ?_).trans h.count,
    h.reach.trans { counted with units := { counted.units with ports := rfl } }⟩
  rw [List.mem_singleton, Fld.addrOf_eq, Fld.addrOf_eq]
  simp only [R.portRefused, R.tenCntRefused, pageIndex]
  omega

end

theorem Die.refusePacket_shows (pk : Packet) (why : BitVec 4) (t : Bool) : Refuses d (d.refusePacket p pk why t) p pk why t := by
  have own : Refuses d ((d.queueMsg p (.refuse pk.lsn why)).bump R.portRefused p) p pk why false := by
    have port := Die.port_congr (Die.bump_ports (d.queueMsg p (.refuse pk.lsn why)) R.portRefused p 0 1)
    exact ⟨fun q hq => (port q).trans (d.otherPorts_modPort p _ q hq), (congrArg PortSt.sendq ((port p).trans (d.port_modPort_self p _))),
      Die.get_bump _ R.portRefused p 0 1 (by decide), OnlyReports.ports_changed _ (OnlyReports.bump (d.queueMsg p (.refuse pk.lsn why)) R.portRefused p 0 1)⟩
  cases t with
  | false => exact own
  | true => exact own.tenant

/-! ### The link sequence number, which the ingress checks do not read (R236, table Ingress checks) -/

section
variable (x v : Nat) (hp : p < 64)

theorem Die.get_lsnRx {g : Fld} {i j : Nat} (k : Nat) (h : g.addrOf i j ≠ R.portLsnRx.addrOf p) : (d.set R.portLsnRx v p).get g i j k = d.get g i j k :=
  (OnlyRegs.set d R.portLsnRx v p 0 0).get g i j k (by simpa using h)

theorem addrOf_portLsnRx : R.portLsnRx.addrOf p = 0x1000 * (0x10 + p) + 0x64 := rfl

theorem Die.get_lsnRx_low {g : Fld} {i j : Nat} (k : Nat) (h : g.addrOf i j < 0x10000) : (d.set R.portLsnRx v p).get g i j k = d.get g i j k := by
  refine d.get_lsnRx p v k ?_
  rw [addrOf_portLsnRx]
  omega

include hp

theorem Die.get_lsnRx_high {g : Fld} {i j : Nat} (k : Nat) (h : 0x50000 ≤ g.addrOf i j) : (d.set R.portLsnRx v p).get g i j k = d.get g i j k := by
  refine d.get_lsnRx p v k ?_
  rw [addrOf_portLsnRx]
  omega

theorem Die.get_lsnRx_rt {g : Fld} {i j : Nat} (k : Nat) (h : g.page = .rt) : (d.set R.portLsnRx v p).get g i j k = d.get g i j k := by
  refine d.get_lsnRx_high p v hp k ?_
  rw [Fld.addrOf_eq, h]
  simp only [pageIndex]
  omega

omit hp

theorem Die.selfNode_lsnRx : (d.set R.portLsnRx v p).selfNode = d.selfNode := by
  rw [Die.selfNode, d.get_lsnRx_low p v 0 (by decide)]
  rfl

theorem Die.pos_lsnRx : (d.set R.portLsnRx v p).pos = d.pos := d.get_lsnRx_low p v 0 (by decide)

theorem Die.mgmtPort_lsnRx : (d.set R.portLsnRx v p).mgmtPort x = d.mgmtPort x := by
  unfold Die.mgmtPort
  rw [Die.isDrop_congr (d.set_casc _ _ _ _ _), d.get_lsnRx_low p v 0 (by decide), d.get_lsnRx_low p v 0 (by decide)]

theorem Die.injecting_lsnRx : (d.set R.portLsnRx v p).injecting = d.injecting := by
  unfold Die.injecting Die.rpOn Die.bit
  rw [d.get_lsnRx_low p v 0 (by decide), d.get_lsnRx_low p v 0 (by decide)]

theorem Die.rpPort_lsnRx : (d.set R.portLsnRx v p).rpPort x = d.rpPort x := by
  unfold Die.rpPort Die.portBit
  rw [d.get_lsnRx_low p v 0 (by decide), d.get_lsnRx_low p v 0 (by decide)]

theorem Die.replayPort_lsnRx : (d.set R.portLsnRx v p).replayPort x = d.replayPort x := by
  unfold Die.replayPort
  rw [d.injecting_lsnRx, d.rpPort_lsnRx]

include hp

theorem Die.tenPort_lsnRx (t : Nat) : (d.set R.portLsnRx v p).tenPort t x = d.tenPort t x := by
  have state : (d.set R.portLsnRx v p).tenState t = d.tenState t := by
    refine d.get_lsnRx_high p v hp 0 ?_
    rw [Fld.addrOf_eq]
    simp only [R.tenStatState, pageIndex]
    omega
  unfold Die.tenPort Die.tenActive
  rw [Die.isDrop_congr (d.set_casc _ _ _ _ _), d.set_ten, state]

theorem Die.rtReach_lsnRx : (d.set R.portLsnRx v p).rtReach x = d.rtReach x := by
  rw [Die.rtReach, d.selfNode_lsnRx, Die.bit, Die.bit, d.get_lsnRx_low p v 0 (by decide), d.get_lsnRx_low p v 0 (by decide),
    d.get_lsnRx_low p v 0 (by decide), d.get_lsnRx_rt p v hp 0 rfl]
  rfl

theorem Die.rtDies_lsnRx : (d.set R.portLsnRx v p).rtDies x = d.rtDies x := by
  unfold Die.rtDies
  rw [d.selfNode_lsnRx, d.get_lsnRx_low p v 0 (by decide), d.get_lsnRx_rt p v hp 0 rfl]

theorem Die.rtEidv_lsnRx (n die : Nat) : (d.set R.portLsnRx v p).rtEidv n die x = d.rtEidv n die x := by
  have fenced : (d.set R.portLsnRx v p).hget R.hdrStatFenced .port x = d.hget R.hdrStatFenced .port x := by
    refine d.get_lsnRx p v 0 ?_
    rw [Fld.addrOf_eq, addrOf_portLsnRx]
    simp only [R.hdrStatFenced, pageIndex]
    omega
  unfold Die.rtEidv Die.nodeRole Die.role Die.attrOf Die.bit
  rw [d.selfNode_lsnRx, d.pos_lsnRx, fenced, d.get_lsnRx_rt p v hp _ rfl, d.set_casc]

/-- The ingress checks read no link sequence number. -/
theorem Die.ingressFail_lsnRx (pk : Packet) : (d.set R.portLsnRx v p).ingressFail x pk = d.ingressFail x pk := by
  have valid : (d.set R.portLsnRx v p).eidValid pk.deid = d.eidValid pk.deid := by
    rw [Die.eidValid, d.rtReach_lsnRx p _ v hp, d.rtDies_lsnRx p _ v hp, d.rtEidv_lsnRx p _ v hp]
    rfl
  unfold Die.ingressFail
  rw [d.mgmtPort_lsnRx, d.selfNode_lsnRx, d.pos_lsnRx, d.tenPort_lsnRx p _ v hp, d.rtReach_lsnRx p _ v hp, d.rtDies_lsnRx p _ v hp, valid]

end

/-! ### A packet that waits (R353, R420, R421) -/

/-- Credit may begin to be withheld. -/
theorem Die.updateWithhold_reach : OnlyReports d { d.updateWithhold p with withholding := d.withholding } [I.portWithhold.addrOf p] := by
  unfold Die.updateWithhold
  dsimp only
  split
  case isTrue =>
    have raised := OnlyReports.raise { d with withholding := smapSet false d.withholding p true } I.portWithhold p 0
    exact { raised with units := { raised.units with withholding := rfl } }
  case isFalse => exact .refl d _

/-- A packet that waits, and what its depth brings about. -/
def Die.waits (w : WaitPkt) : Die :=
  let e : Die := { d with dlv := { d.dlv with waiting := d.dlv.waiting ++ [w] } }
  (e.noteDepth (512 + p) (64 * e.ingressFlits p)).updateWithhold p

theorem Die.waits_shows (w : WaitPkt) :
    (d.waits p w).dlv = { d.dlv with waiting := d.dlv.waiting ++ [w] } ∧ (d.waits p w).ports = d.ports
      ∧ OnlyReports d { d.waits p w with dlv := d.dlv, withholding := d.withholding, telem := d.telem } [I.portWithhold.addrOf p] := by
  have reach := Die.updateWithhold_reach
    (({ d with dlv := { d.dlv with waiting := d.dlv.waiting ++ [w] } } : Die).noteDepth (512 + p)
      (64 * ({ d with dlv := { d.dlv with waiting := d.dlv.waiting ++ [w] } } : Die).ingressFlits p)) p
  exact ⟨reach.units.dlv, reach.units.ports, { reach with units := { reach.units with dlv := rfl }, telem := rfl }⟩

end

/-! ### The packet's way in (R236, R239, R346) -/

section
variable (d : Die) (p v : Nat) (pk : Packet) (poisoned beyond : Nat)

/-- The link sequence number after a packet. -/
def Die.lsnTaken : Die := d.set R.portLsnRx (pk.lsn + 1).toNat p

theorem Die.lsnTaken_lsn : (d.lsnTaken p pk).get R.portLsnRx p = (pk.lsn + 1).toNat :=
  (Die.get_set _ _ _ _ _ _ (by decide)).trans (Nat.mod_eq_of_lt (pk.lsn + 1).isLt)

theorem Die.lsnTaken_reach : OnlyRegs d (d.lsnTaken p pk) [R.portLsnRx.addrOf p] := OnlyRegs.set d R.portLsnRx _ p 0 0

/-- A packet whose link sequence number has been taken: lost, refused or waiting. -/
def Die.judge : Die :=
  let whole := pk.flits - poisoned - beyond
  if poisoned ≠ 0 || d.replayPort p then d.freeFlits p v whole
  else if beyond ≠ 0 then (d.refusePacket p pk 1 false).freeFlits p v whole
  else match d.ingressFail p pk with
    | some (why, t) => (d.refusePacket p pk why t).freeFlits p v whole
    | none => d.waits p { port := p, vc := v, pkt := pk, counted := false }

/-- The packet whose link sequence number is ahead is judged. -/
theorem Die.dropPacket_ahead (ahead : (pk.lsn - BitVec.ofNat 16 (d.get R.portLsnRx p)).toNat < 32768) :
    d.dropPacket p v pk poisoned beyond = (d.lsnTaken p pk).judge p v pk poisoned beyond :=
  congrArg (fun e : Die => e.judge p v pk poisoned beyond) (if_pos ahead)

/-- A poisoned packet only frees the flits that it held. -/
theorem Die.judge_poisoned (h : poisoned ≠ 0) : d.judge p v pk poisoned beyond = d.freeFlits p v (pk.flits - poisoned - beyond) :=
  if_pos (by simp [h])

variable (hr : d.replayPort p = false)
include hr

theorem Die.judge_beyond (hp : poisoned = 0) (hb : beyond ≠ 0) :
    d.judge p v pk poisoned beyond = (d.refusePacket p pk 1 false).freeFlits p v (pk.flits - poisoned - beyond) :=
  (if_neg (by simp [hr, hp])).trans (if_pos hb)

theorem Die.judge_fails (hp : poisoned = 0) (hb : beyond = 0) {why : BitVec 4} {t : Bool} (h : d.ingressFail p pk = some (why, t)) :
    d.judge p v pk poisoned beyond = (d.refusePacket p pk why t).freeFlits p v (pk.flits - poisoned - beyond) := by
  rw [Die.judge, if_neg (by simp [hr, hp]), if_neg (by simp [hb]), h]

theorem Die.judge_waits (hp : poisoned = 0) (hb : beyond = 0) (h : d.ingressFail p pk = none) :
    d.judge p v pk poisoned beyond = d.waits p { port := p, vc := v, pkt := pk, counted := false } := by
  rw [Die.judge, if_neg (by simp [hr, hp]), if_neg (by simp [hb]), h]

end

/-- What a refusal shows once the link sequence number has moved on. -/
theorem Refuses.after_lsn {d e : Die} {p : Nat} {pk : Packet} {why : BitVec 4} {t : Bool} (h : Refuses (d.lsnTaken p pk) e p pk why t) :
    (e.get R.portLsnRx p = (pk.lsn + 1).toNat ∧ OtherPorts d e p) ∧ e.dlv = d.dlv ∧ (e.port p).sendq = (d.port p).sendq ++ [.refuse pk.lsn why]
      ∧ e.get R.portRefused p = d.counted R.portRefused p
      ∧ OnlyReports d { e with ports := d.ports } ([R.portLsnRx.addrOf p, R.portRefused.addrOf p]
          ++ if t then [R.tenCntRefused.addrOf (pk.tid.toNat / 4) (pk.tid.toNat % 4)] else []) := by
  have away : R.portRefused.addrOf p ∉ [R.portLsnRx.addrOf p] := by
    rw [List.mem_singleton, Fld.addrOf_eq, addrOf_portLsnRx]
    simp only [R.portRefused, pageIndex]
    omega
  have reach := d.lsnTaken_reach p pk
  have lsn := d.lsnTaken_lsn p pk
  have count := reach.get R.portRefused p 0 0 away
  generalize d.lsnTaken p pk = x at h reach lsn count
  have port := Die.port_congr reach.units.ports
  refine ⟨⟨(h.reach.get R.portLsnRx p 0 0 ?_).trans lsn, fun q hq => (h.others q hq).trans (port q)⟩, h.reach.units.dlv.trans reach.units.dlv,
    h.sendq.trans (by rw [port]), h.count.trans (congrArg (fun n => min (n + 1) (2 ^ R.portRefused.width - 1)) count),
    reach.reports.trans { h.reach with units := { h.reach.units with ports := reach.units.ports.symm } }⟩
  rw [addrOf_portLsnRx, Fld.addrOf_eq]
  cases t with
  | false =>
    simp only [R.portRefused, pageIndex, Bool.false_eq_true, if_false, List.append_nil, List.mem_singleton]
    omega
  | true =>
    simp only [Fld.addrOf_eq, R.portRefused, R.tenCntRefused, pageIndex, if_true, List.singleton_append, List.mem_cons, List.not_mem_nil, or_false]
    omega

end Sys2Proof.Machine
end

section
/-!
PROOF. The acceptance point (spec 08, R351 to R353, R356, R364; spec 19, R777): the first packet that waits on a VC is refused, waits on, or becomes an item.
-/
namespace Sys2Proof.Machine

/-! ### What a claim leaves alone -/

/-- The ledger, the packets that wait, the ports and the state of recording are as they were. -/
structure KeepsClaims (d e : Die) : Prop where
  ledger : e.dlv.ledger = d.dlv.ledger
  waiting : e.dlv.waiting = d.dlv.waiting
  ports : e.ports = d.ports
  recState : e.get R.detRecState = d.get R.detRecState

namespace KeepsClaims
variable {d e f : Die}

theorem refl (d : Die) : KeepsClaims d d := ⟨rfl, rfl, rfl, rfl⟩

theorem trans (h : KeepsClaims d e) (k : KeepsClaims e f) : KeepsClaims d f :=
  ⟨k.ledger.trans h.ledger, k.waiting.trans h.waiting, k.ports.trans h.ports, k.recState.trans h.recState⟩

theorem of_hoop (h : HoopEffect d e) : KeepsClaims d e :=
  ⟨congrArg DlvSt.ledger h.units.dlv, congrArg DlvSt.waiting h.units.dlv, h.units.ports, h.get R.detRecState 0 0 0 (by decide) (by decide)⟩

theorem of_reports {as : List Nat} (h : OnlyReports d e as) (away : R.detRecState.addrOf ∉ as) : KeepsClaims d e :=
  ⟨congrArg DlvSt.ledger h.units.dlv, congrArg DlvSt.waiting h.units.dlv, h.units.ports, h.get R.detRecState 0 0 0 away⟩

theorem set (d : Die) (g : Fld) (v i j : Nat) (away : R.detRecState.addrOf ≠ g.addrOf i j) : KeepsClaims d (d.set g v i j) :=
  .of_reports (OnlyRegs.set d g v i j 0).reports (by simpa using away)

theorem tbump (d : Die) (g : Fld) (i n : Nat) : KeepsClaims d (d.tbump g i n) :=
  ⟨congrArg DlvSt.ledger (d.tbump_dlv g i n), congrArg DlvSt.waiting (d.tbump_dlv g i n), d.tbump_ports g i n, d.tbump_get g i n R.detRecState 0 0 0⟩

theorem bump64 (d : Die) (lo hi : Fld) (i : Nat) (al : R.detRecState.addrOf ≠ lo.addrOf i) (ah : R.detRecState.addrOf ≠ hi.addrOf i) :
    KeepsClaims d (d.bump64 lo hi i) := ((tbump d lo i 1).trans (.set _ lo _ i 0 al)).trans (.set _ hi _ i 0 ah)

theorem raiseTo (d : Die) (g : Fld) (v i : Nat) (away : R.detRecState.addrOf ≠ g.addrOf i) : KeepsClaims d (d.raiseTo g v i) := by
  unfold Die.raiseTo
  split
  case isTrue => exact .set d g v i 0 away
  case isFalse => exact .refl d

/-- A dword of a PORT page is none of the DET page. -/
theorem recState_ne_port (p o : Nat) : R.detRecState.addrOf ≠ 0x1000 * (0x10 + p) + o := by
  simp only [Fld.addrOf_eq, R.detRecState, pageIndex]
  omega

theorem updateWithhold (d : Die) (p : Nat) : KeepsClaims d (d.updateWithhold p) := by
  have reach := d.updateWithhold_reach p
  refine ⟨congrArg DlvSt.ledger reach.units.dlv, congrArg DlvSt.waiting reach.units.dlv, reach.units.ports, reach.get R.detRecState 0 0 0 ?_⟩
  rw [List.mem_singleton]
  exact recState_ne_port p 0x20

/-- A flow changed. -/
theorem modSrc (d : Die) (fi : Nat) (g : SrcFlow → SrcFlow) : KeepsClaims d (d.modSrc fi g) := by
  unfold Die.modSrc
  split
  next => exact ⟨rfl, rfl, rfl, rfl⟩
  next => exact .refl d

theorem setHarpRow (d : Die) (n : Nat) (r : HarpRow) : KeepsClaims d (d.setHarpRow n r) := ⟨rfl, rfl, rfl, rfl⟩

end KeepsClaims

section
variable (d : Die) (p v : Nat)

/-! ### The parts of an acceptance -/

/-- The path of an item: none for one that stays on its ingress die. -/
def Die.acceptPath (pk : Packet) : Die × Nat := if staysHere pk then (d, 0) else d.harpPick (eidNode pk.deid) []

/-- An item is stored: its flow's next FSEQ moves on, its cell takes the payload and the header, and the ingress unit lets the cell go. -/
def Die.storeItem (fi h : Nat) (pk : Packet) : Die :=
  let d := d.modSrc fi (fun f => { f with nextFseq := f.nextFseq + 1, idle := 0 })
  let d := d.cellStore (h / 2 ^ 30) (h % 2 ^ 20) pk.payload
  (d.modCell (h / 2 ^ 30) (h % 2 ^ 20) (fun c => { c with hdr := leBytes 64 pk.bits })).hoopRelease h (owner 1 p)

/-- The counts and the credits of a port that has accepted an item. -/
def Die.countAccepted (n : Nat) : Die :=
  let d := (d.bump64 R.portAccLo R.portAccHi p).raiseTo R.portLedgerPeak (d.ledOf p).length p
  (d.updateWithhold p).freeFlits p v n

/-- An item enters the ledger: its packet waits no more, and ACCEPT is sent. -/
def Die.enterItem (k : Nat) (lsn : BitVec 16) (x : LedEnt) : Die := ((d.setLed k x).takeWaiting p v).queueMsg p (.accept lsn 1)

/-- A claimed entry and flow become an item, unless the pools have no cell. -/
def Die.acceptCell (w : WaitPkt) (found : Option (List Byte)) (k : Nat) (df : Die) (fi : Nat) : Die × Option Nat :=
  let (dp, path) := df.acceptPath w.pkt
  let pk := { w.pkt with path := BitVec.ofNat 4 path, d := false, mark := false, hopcnt := 0, lsn := 0, epoch := 0, floor := 0 }
  let owners := [owner 1 p, owner 2 p] ++ (if staysHere pk then [] else dp.egressOwner pk)
  match dp.hoopAlloc { size := BitVec.ofNat 32 (max 1 pk.len.toNat), tid := pk.tid, mgmt := pk.mgmt, owners := owners } found with
  | (da, 0, h) =>
    let fseq := match da.flow fi with | .src f => f.nextFseq | _ => 0
    let pk := ({ pk with fseq := fseq }).seal
    (((da.storeItem p fi h pk).enterItem p v k w.pkt.lsn { LedEnt.init with
      state := .queued, lsn := w.pkt.lsn, fseq := fseq, flow := fi, cell := BitVec.ofNat 32 h, path := BitVec.ofNat 4 path
      ready := !staysHere pk, own := staysHere pk, pkt := pk }).countAccepted p v pk.flits, some k)
  | (da, _, _) =>
    let back : Die := { da with dlv := d.dlv, harp := d.harp }
    ((back.set64 R.harpPicksLo R.harpPicksHi (d.get64 R.harpPicksLo R.harpPicksHi)).countWait p v, none)

/-- The first packet that waits on a VC, judged: its tenant's port, admission, an entry, a flow, a cell. -/
theorem Die.acceptItem_eq {w : WaitPkt} (found : Option (List Byte)) (hw : d.dlv.waiting.find? (fun w => w.port == p && w.vc == v) = some w) :
    d.acceptItem p v found =
      if !w.pkt.mgmt && !d.tenPort w.pkt.tid.toNat p then (((d.takeWaiting p v).refusePacket p w.pkt 3 true).freeFlits p v w.pkt.flits, none)
      else if !d.admits (.port (BitVec.ofNat 6 p)) then (d.countWait p v, none)
      else match d.freeLed p with
        | none => ((d.countWait p v).raise I.portLedgerFull p, none)
        | some k => match d.claimFlow p (flowKey w.pkt) with
          | none => ((d.countWait p v).raise I.portFlowFull p, none)
          | some (df, fi) => d.acceptCell p v w found k df fi := by
  unfold Die.acceptItem
  rw [hw]
  rfl

/-! ### The entry and the flow that are claimed (R356, R364) -/

/-- The entry that a port claims is free, and one of its own. -/
theorem Die.freeLed_spec {k : Nat} (h : d.freeLed p = some k) : (d.led k).state = .free ∧ k / 4096 = p := by
  unfold Die.freeLed at h
  split at h
  case isTrue => exact absurd h (by simp)
  case isFalse full =>
    refine ⟨by simpa using List.find?_some h, ?_⟩
    obtain ⟨i, hi, rfl⟩ := List.mem_map.mp (List.mem_of_find?_eq_some h)
    have := List.mem_range.mp hi
    omega

theorem Die.claimFlow_keeps {key : FlowKey} {df : Die} {fi : Nat} (h : d.claimFlow p key = some (df, fi)) : KeepsClaims d df := by
  unfold Die.claimFlow at h
  split at h
  next =>
    obtain ⟨rfl, -⟩ := Prod.mk.inj (Option.some.inj h)
    exact .refl d
  next =>
    obtain ⟨i, -, eq⟩ := Option.map_eq_some_iff.mp h
    obtain ⟨rfl, -⟩ := Prod.mk.inj eq
    exact ⟨rfl, rfl, rfl, rfl⟩

theorem Die.harpPick_keeps (n : Nat) (excl : List Nat) : KeepsClaims d (d.harpPick n excl).1 := by
  have counted : KeepsClaims d (d.bump64 R.harpPicksLo R.harpPicksHi) := .bump64 d _ _ 0 (by decide) (by decide)
  unfold Die.harpPick
  extract_lets mask elig e
  split
  next => exact counted.trans (.setHarpRow _ _ _)
  next => exact counted

theorem Die.acceptPath_keeps (pk : Packet) : KeepsClaims d (d.acceptPath pk).1 := by
  unfold Die.acceptPath
  split
  case isTrue => exact .refl d
  case isFalse => exact d.harpPick_keeps _ _

theorem Die.storeItem_keeps (fi h : Nat) (pk : Packet) : KeepsClaims d (d.storeItem p fi h pk) :=
  ((KeepsClaims.modSrc d fi _).trans (.of_hoop (.cellStore _ _ _ _))).trans (.of_hoop ((HoopEffect.modCell _ _ _ _).trans (Die.hoopRelease_effect _ _ _)))

/-! ### The entry made (R351, R353, R356) -/

/-- The ledger, the packets that wait, a port's messages and the state of recording are as they were. -/
structure KeepsQueues (p : Nat) (d e : Die) : Prop where
  ledger : e.dlv.ledger = d.dlv.ledger
  waiting : e.dlv.waiting = d.dlv.waiting
  sendq : (e.port p).sendq = (d.port p).sendq
  recState : e.get R.detRecState = d.get R.detRecState

theorem Die.freeFlits_keeps (n : Nat) : KeepsQueues p d (d.freeFlits p v n) := by
  obtain ⟨g, eq⟩ := d.freeFlits_shape p v n
  rw [eq]
  exact ⟨rfl, rfl, d.port_modVc_sendq p v g, rfl⟩

theorem KeepsClaims.queues {d e f : Die} {p : Nat} (h : KeepsClaims d e) (k : KeepsQueues p e f) : KeepsQueues p d f :=
  ⟨k.ledger.trans h.ledger, k.waiting.trans h.waiting, k.sendq.trans (congrArg PortSt.sendq (Die.port_congr h.ports p)), k.recState.trans h.recState⟩

theorem Die.countAccepted_keeps (n : Nat) : KeepsQueues p d (d.countAccepted p v n) := by
  have away := KeepsClaims.recState_ne_port p
  have counted := (KeepsClaims.bump64 d R.portAccLo R.portAccHi p (away _) (away _)).trans (.raiseTo _ R.portLedgerPeak (d.ledOf p).length p (away _))
  exact (counted.trans (.updateWithhold _ p)).queues (Die.freeFlits_keeps _ p v n)

/-- Where an item was accepted: an entry of the port that was free holds it as QUEUED. -/
structure Accepted (d e : Die) (p v k : Nat) (w : WaitPkt) : Prop where
  free : (d.led k).state = .free
  own : k / 4096 = p
  queued : (e.led k).state = .queued
  lsn : (e.led k).lsn = w.pkt.lsn
  op : (e.led k).pkt.op = w.pkt.op
  waiting : e.dlv.waiting = d.dlv.waiting.eraseIdx (d.dlv.waiting.findIdx (fun w => w.port == p && w.vc == v))
  sendq : (e.port p).sendq = (d.port p).sendq ++ [.accept w.pkt.lsn 1]
  recState : e.get R.detRecState = d.get R.detRecState

theorem KeepsQueues.led {d e : Die} {p : Nat} (h : KeepsQueues p d e) (k : Nat) : e.led k = d.led k := by rw [Die.led, h.ledger, Die.led]

/-- An entry made of what a claim left alone. -/
theorem Accepted.of_claims {d e : Die} {p v k n : Nat} {w : WaitPkt} {x : LedEnt} (kept : KeepsClaims d e) (free : (d.led k).state = .free)
    (own : k / 4096 = p) (queued : x.state = .queued) (lsn : x.lsn = w.pkt.lsn) (op : x.pkt.op = w.pkt.op) :
    Accepted d ((e.enterItem p v k w.pkt.lsn x).countAccepted p v n) p v k w := by
  have counted := (e.enterItem p v k w.pkt.lsn x).countAccepted_keeps p v n
  have entered : (e.enterItem p v k w.pkt.lsn x).led k = x := smapGet_set_self _ _ _ _
  have sent : ((e.enterItem p v k w.pkt.lsn x).port p).sendq = (e.port p).sendq ++ [.accept w.pkt.lsn 1] := by
    rw [Die.enterItem, Die.queueMsg, Die.port_modPort_self]
    rfl
  have taken : (e.enterItem p v k w.pkt.lsn x).dlv.waiting = e.dlv.waiting.eraseIdx (e.dlv.waiting.findIdx (fun w => w.port == p && w.vc == v)) := rfl
  have entry := (counted.led k).trans entered
  exact
    { free := free
      own := own
      queued := (congrArg LedEnt.state entry).trans queued
      lsn := (congrArg LedEnt.lsn entry).trans lsn
      op := (congrArg (fun y : LedEnt => y.pkt.op) entry).trans op
      waiting := by rw [counted.waiting, taken, kept.waiting]
      sendq := by rw [counted.sendq, sent, Die.port_congr kept.ports]
      recState := counted.recState.trans kept.recState }

theorem Die.acceptCell_accepted {w : WaitPkt} {found : Option (List Byte)} {k j fi : Nat} {df : Die} (claimed : KeepsClaims d df)
    (free : (d.led k).state = .free) (own : k / 4096 = p) (h : (d.acceptCell p v w found k df fi).2 = some j) :
    j = k ∧ Accepted d (d.acceptCell p v w found k df fi).1 p v k w := by
  have path := claimed.trans (df.acceptPath_keeps w.pkt)
  unfold Die.acceptCell at h ⊢
  generalize df.acceptPath w.pkt = picked at path h ⊢
  obtain ⟨dp, way⟩ := picked
  dsimp only at path h ⊢
  split at h
  next da hd eq =>
    have cell : KeepsClaims dp da := .of_hoop (eq ▸ dp.hoopAlloc_effect _ found : HoopEffect dp (da, 0, hd).1)
    refine ⟨(Option.some.inj h).symm, ?_⟩
    dsimp only
    refine Accepted.of_claims ?kept free own ?state ?lsn ?op
    case kept => exact path.trans (cell.trans (da.storeItem_keeps p fi hd _))
    case state => rfl
    case lsn => rfl
    case op => rfl
  next => exact absurd h (by simp)

/-- An item is accepted into the entry that its port claims. -/
theorem Die.acceptItem_accepted {w : WaitPkt} {found : Option (List Byte)} {k : Nat}
    (hw : d.dlv.waiting.find? (fun w => w.port == p && w.vc == v) = some w) (h : (d.acceptItem p v found).2 = some k) :
    Accepted d (d.acceptItem p v found).1 p v k w := by
  rw [d.acceptItem_eq p v found hw] at h ⊢
  split at h
  next => exact absurd h (by simp)
  next port =>
    rw [if_neg port]
    split at h
    next => exact absurd h (by simp)
    next open_ =>
      rw [if_neg open_]
      split at h
      next => exact absurd h (by simp)
      next j entry =>
        split at h
        next => exact absurd h (by simp)
        next df fi flow =>
          obtain ⟨free, own⟩ := d.freeLed_spec p entry
          obtain ⟨rfl, accepted⟩ := d.acceptCell_accepted p v (d.claimFlow_keeps p flow) free own h
          exact accepted

/-! ### The command (R351 to R353, R757) -/

/-- While nothing is recorded, a packet is not. -/
theorem Die.recPacket_off (ev : RecEvent) (replayed : Bool) (h : d.get R.detRecState = 0) : d.recPacket ev replayed = d := by
  unfold Die.recPacket Die.recLive
  rw [h]
  exact if_neg (by simp)

/-- An item that another die delivers has nothing to do after its acceptance. -/
theorem Die.afterAccept_other {k : Nat} (hc : (d.led k).pkt.op ≠ 0x10) (hk : (d.led k).pkt.op ≠ 8) : d.afterAccept k = d :=
  (if_neg hc).trans (if_neg fun h => hk h.1)

/-- What an acceptance shows where nothing is recorded, and the item is neither a CONTRIB nor a CCTL. -/
theorem Die.acceptPacket_accepted {w : WaitPkt} {found : Option (List Byte)} (hw : d.dlv.waiting.find? (fun w => w.port == p && w.vc == v) = some w)
    (h : (d.acceptPacket p v found false).2.isSome = true) (hc : w.pkt.op ≠ 0x10) (hk : w.pkt.op ≠ 8) (hr : d.get R.detRecState = 0) :
    Accepted d (d.acceptPacket p v found false).1 p v ((d.acceptPacket p v found false).2.getD 0) w := by
  have accepted (k : Nat) := d.acceptItem_accepted p v (found := found) (k := k) hw
  unfold Die.acceptPacket at h ⊢
  rw [hw] at h ⊢
  dsimp only at h ⊢
  split at h
  next => exact absurd h (by simp)
  next waits =>
    rw [if_neg waits]
    generalize d.acceptItem p v found = item at accepted h ⊢
    obtain ⟨e, j⟩ := item
    cases j with
    | none => exact absurd h (by simp)
    | some k =>
      have ok := accepted k rfl
      dsimp only [Option.getD_some] at ok ⊢
      rw [e.recPacket_off _ _ (ok.recState.trans hr), e.afterAccept_other (ok.op ▸ hc) (ok.op ▸ hk)]
      exact ok

/-- What does not become an item leaves the die as the acceptance point left it. -/
theorem Die.acceptPacket_item {w : WaitPkt} (found : Option (List Byte)) (hw : d.dlv.waiting.find? (fun w => w.port == p && w.vc == v) = some w)
    (hc : d.contribWaits w.pkt = false) {e : Die} (h : d.acceptItem p v found = (e, none)) : d.acceptPacket p v found false = (e, none) := by
  unfold Die.acceptPacket
  rw [hw]
  dsimp only
  rw [if_neg (by simp [hc]), h]

/-- A packet without its tenant's port is refused after all (R777). -/
theorem Die.acceptItem_refuses {w : WaitPkt} (found : Option (List Byte)) (hw : d.dlv.waiting.find? (fun w => w.port == p && w.vc == v) = some w)
    (hm : w.pkt.mgmt = false) (ht : d.tenPort w.pkt.tid.toNat p = false) :
    d.acceptItem p v found = (((d.takeWaiting p v).refusePacket p w.pkt 3 true).freeFlits p v w.pkt.flits, none) :=
  (d.acceptItem_eq p v found hw).trans (if_pos (by simp [hm, ht]))

/-- A packet that its port does not admit waits. -/
theorem Die.acceptItem_waits {w : WaitPkt} (found : Option (List Byte)) (hw : d.dlv.waiting.find? (fun w => w.port == p && w.vc == v) = some w)
    (ht : w.pkt.mgmt = true ∨ d.tenPort w.pkt.tid.toNat p = true) (ha : d.admits (.port (BitVec.ofNat 6 p)) = false) :
    d.acceptItem p v found = (d.countWait p v, none) := by
  rw [d.acceptItem_eq p v found hw, if_neg (by rcases ht with h | h <;> simp [h]), if_pos (by simp [ha])]

/-- What a change of one element keeps of every element, the list keeps. -/
theorem map_modify_same {α β : Type} {f : α → β} {g : α → α} (h : ∀ x, f (g x) = f x) (l : List α) (i : Nat) : (l.modify i g).map f = l.map f := by
  refine List.ext_getElem? fun j => ?_
  rw [List.getElem?_map, List.getElem?_map, List.getElem?_modify]
  split
  case isTrue =>
    cases l[j]? with
    | none => rfl
    | some x => exact congrArg some (h x)
  case isFalse => simp

/-- A packet that waits is counted once. -/
theorem Die.countWait_shows {w : WaitPkt} (hw : d.dlv.waiting.find? (fun w => w.port == p && w.vc == v) = some w) :
    (d.countWait p v).dlv = { d.dlv with waiting := (d.countWait p v).dlv.waiting }
      ∧ (d.countWait p v).dlv.waiting.map (·.pkt) = d.dlv.waiting.map (·.pkt)
      ∧ (d.countWait p v).get R.portWait p = (if w.counted then d.get R.portWait p else d.counted R.portWait p)
      ∧ OnlyReports d { d.countWait p v with dlv := d.dlv } [R.portWait.addrOf p] := by
  unfold Die.countWait
  rw [hw]
  dsimp only
  by_cases counted : w.counted = true
  · rw [if_pos counted, if_pos counted]
    exact ⟨rfl, rfl, rfl, .refl d _⟩
  · rw [if_neg counted, if_neg counted]
    generalize d.dlv.waiting.findIdx (fun w => w.port == p && w.vc == v) = i
    have same : (d.dlv.waiting.modify i (fun w => { w with counted := true })).map (·.pkt) = d.dlv.waiting.map (·.pkt) :=
      map_modify_same (g := fun w : WaitPkt => { w with counted := true }) (fun _ => rfl) d.dlv.waiting i
    have bumped := OnlyReports.bump { d with dlv := { d.dlv with waiting := d.dlv.waiting.modify i (fun w => { w with counted := true }) } } R.portWait p 0 1
    refine ⟨?_, ?_, Die.get_bump _ R.portWait p 0 1 (by decide), bumped.dlv_changed⟩
    · rw [bumped.units.dlv]
    · rw [bumped.units.dlv]
      exact same

end

end Sys2Proof.Machine
end

section
/-!
PROOF. A held item at NEXT (spec 08, R349, R350, R356, R369), and the statement about packets accepted and handed over.
-/
namespace Sys2Proof.Machine

/-! ### NEXT advances (R369, R378) -/

/-- The hoop commands of a list's members, one after the other. -/
theorem HoopEffect.forAll {α : Type} {g : Die → α → Die} (h : ∀ d x, HoopEffect d (g d x)) (l : List α) (d : Die) : HoopEffect d (d.forAll l g) := by
  induction l generalizing d with
  | nil => exact .refl d
  | cons x r ih => exact (h d x).trans (ih (g d x))

section
variable (d : Die) (fi : Nat)

/-- A change of a flow reaches neither the return log nor what leaves the die. -/
theorem Die.modDst_frame (g : DstFlow → DstFlow) : (d.modDst fi g).dlv.rlog = d.dlv.rlog ∧ (d.modDst fi g).out = d.out := by
  unfold Die.modDst
  split
  next => exact ⟨rfl, rfl⟩
  next => exact ⟨rfl, rfl⟩

/-- What NEXT leaves behind is in the return log already, and nothing that left the die comes back. -/
theorem Die.advanceNext_frame : (d.advanceNext fi).dlv.rlog = d.dlv.rlog ∧ d.out <+: (d.advanceNext fi).out := by
  unfold Die.advanceNext
  split
  next f _ =>
    dsimp only
    have dropped := HoopEffect.forAll (fun d i => d.dropItem_effect f i) (f.items.filter (fun i => i.fseq == f.next)) d
    generalize d.forAll (f.items.filter (fun i => i.fseq == f.next)) (fun d i => d.dropItem f i) = e at dropped ⊢
    exact ⟨(e.modDst_frame fi _).1.trans (congrArg DlvSt.rlog dropped.units.dlv), (e.modDst_frame fi _).2 ▸ dropped.out⟩
  next => exact ⟨rfl, List.prefix_refl _⟩

/-- While the return log has room, an item that is returned joins it. -/
theorem Die.returnNext_shows {x : DstFlow} (hf : d.flow fi = .dst x) (why : BitVec 3) (room : d.dlv.rlog.length < 8192) :
    (d.returnNext fi why).dlv.rlog = d.dlv.rlog ++ [(fi, x.next, why)] ∧ KeepsInstances d (d.returnNext fi why) := by
  unfold Die.returnNext
  rw [hf]
  dsimp only
  rw [if_neg (by omega)]
  exact ⟨(Die.advanceNext_frame _ fi).1, .trans (.of_regs rfl) (Die.advanceNext_keeps _ fi)⟩

/-! ### The item at NEXT -/

/-- The flow with its item at NEXT handed over. -/
def DstFlow.handed (x : DstFlow) : DstFlow :=
  { x with items := x.items.map (fun y : DstItem => if y.fseq = x.next then { y with handed := true } else y) }

/-- The egress check of an item (R349, R369). -/
def Die.egressOk (pk : Packet) : Bool :=
  if pk.op = 0x32 then d.mgmtPort (eidPort pk.deid)
  else d.isDrop (eidPort pk.deid) && d.rtEidv d.selfNode d.pos (eidPort pk.deid) && d.tenPort pk.tid.toNat (eidPort pk.deid)

/-- An item at NEXT that fails its egress check is REJECTED. -/
def Die.rejectItem (pk : Packet) : Die :=
  if pk.mgmt then d.returnNext fi 4 else (d.returnNext fi 4).bump R.tenCntEgReject (pk.tid.toNat / 4) (pk.tid.toNat % 4)

/-- A held item at NEXT is handed to the steward, rejected, compared, or sent to its output. -/
theorem Die.itemEgress_eq {x : DstFlow} {i : DstItem} (hf : d.flow fi = .dst x) (hi : x.items.find? (fun i => i.fseq == x.next && !i.handed) = some i) :
    d.itemEgress fi =
      let e := d.setFlow fi (.dst x.handed)
      if i.pkt.op = 0x30 ∨ i.pkt.op = 0x31 then (e.emit (.handPacket 64 i.pkt)).advanceNext fi
      else if !d.egressOk i.pkt then e.rejectItem fi i.pkt
      else if d.replayPort (eidPort i.pkt.deid) then (e.chargeItem i.pkt).replayEgress (eidPort i.pkt.deid) (2 * i.pkt.cls.toNat) i.pkt
      else e.enqueue (eidPort i.pkt.deid) (2 * i.pkt.cls.toNat) (QEnt.mk i.pkt 64 0 0 false none none 0 none) := by
  have mrd : i.pkt.op.toNat = 0x30 ↔ i.pkt.op = 0x30 := BitVec.toNat_inj (y := 0x30)
  have mwr : i.pkt.op.toNat = 0x31 ↔ i.pkt.op = 0x31 := BitVec.toNat_inj (y := 0x31)
  have mrsp : i.pkt.op.toNat = 0x32 ↔ i.pkt.op = 0x32 := BitVec.toNat_inj (y := 0x32)
  unfold Die.itemEgress Die.modDst
  rw [hf]
  dsimp only
  rw [hi]
  simp only [mrd, mwr, mrsp]
  rfl

/-! ### Where an item goes -/

section
variable {x : DstFlow} {i : DstItem} (hf : d.flow fi = .dst x) (hi : x.items.find? (fun i => i.fseq == x.next && !i.handed) = some i)
include hf hi

/-- MRD and MWR are handed to the die's steward. -/
theorem Die.itemEgress_steward (ho : i.pkt.op = 0x30 ∨ i.pkt.op = 0x31) : Out.handPacket 64 i.pkt ∈ (d.itemEgress fi).out := by
  rw [d.itemEgress_eq fi hf hi]
  dsimp only
  rw [if_pos ho]
  exact (Die.advanceNext_frame _ fi).2.subset (List.mem_append_right _ (List.mem_singleton_self _))

variable (h0 : i.pkt.op ≠ 0x30) (h1 : i.pkt.op ≠ 0x31)
include h0 h1

/-- An item that passes its egress check leaves for its DROP output. -/
theorem Die.itemEgress_output (ok : d.egressOk i.pkt = true) (hr : d.replayPort (eidPort i.pkt.deid) = false) :
    d.itemEgress fi = (d.setFlow fi (.dst x.handed)).enqueue (eidPort i.pkt.deid) (2 * i.pkt.cls.toNat) (QEnt.mk i.pkt 64 0 0 false none none 0 none) := by
  rw [d.itemEgress_eq fi hf hi]
  dsimp only
  rw [if_neg (not_or.mpr ⟨h0, h1⟩), if_neg (by simp [ok]), if_neg (by simp [hr])]

theorem Die.itemEgress_rejected (bad : d.egressOk i.pkt = false) : d.itemEgress fi = (d.setFlow fi (.dst x.handed)).rejectItem fi i.pkt := by
  rw [d.itemEgress_eq fi hf hi]
  dsimp only
  rw [if_neg (not_or.mpr ⟨h0, h1⟩), if_pos (by simp [bad])]

end

theorem Die.flow_setFlow (g : Nat) (x : FlowEnt) : (d.setFlow fi x).flow g = if g = fi then x else d.flow g := smapGet_set _ _ _ _ _

theorem Die.setFlow_changes (x : FlowEnt) : ChangesFlow d (d.setFlow fi x) fi x :=
  ⟨(d.flow_setFlow fi fi x).trans (if_pos rfl), fun g hg => (d.flow_setFlow fi g x).trans (if_neg hg)⟩

/-- A head that joins an output VC is its last. -/
theorem Die.heads_enqueue (p v : Nat) (e : QEnt) : (d.enqueue p v e).heads (8 * p + v) = d.heads (8 * p + v) ++ [{ e with age := d.sw.age }] := by
  unfold Die.heads Die.enqueue Die.noteDepth
  dsimp only
  rw [smapGet_mod_self]

/-- A rejected item joins the return log, and counts against its tenant. -/
theorem Die.rejectItem_shows {x : DstFlow} (hf : d.flow fi = .dst x) (pk : Packet) (room : d.dlv.rlog.length < 8192) :
    (d.rejectItem fi pk).dlv.rlog = d.dlv.rlog ++ [(fi, x.next, 4)]
      ∧ (pk.mgmt = false → (d.rejectItem fi pk).get R.tenCntEgReject (pk.tid.toNat / 4) (pk.tid.toNat % 4)
          = d.counted R.tenCntEgReject (pk.tid.toNat / 4) (pk.tid.toNat % 4)) := by
  obtain ⟨rlog, kept⟩ := d.returnNext_shows fi hf 4 room
  have high : 0x10000 ≤ R.tenCntEgReject.addrOf (pk.tid.toNat / 4) (pk.tid.toNat % 4) := by
    rw [Fld.addrOf_eq]
    simp only [R.tenCntEgReject, pageIndex]
    omega
  have same := kept.get R.tenCntEgReject (pk.tid.toNat / 4) (pk.tid.toNat % 4) 0 high
  generalize hs : d.returnNext fi 4 = e at rlog same
  unfold Die.rejectItem
  rw [hs]
  cases pk.mgmt with
  | true => exact ⟨rlog, fun h => absurd h (by simp)⟩
  | false =>
    refine ⟨(congrArg DlvSt.rlog (e.bump_dlv _ _ _ _)).trans rlog, fun _ => ?_⟩
    refine (Die.get_bump e R.tenCntEgReject _ _ 1 (by decide)).trans ?_
    rw [same]
    rfl

end

/-- A packet that is lost shows in its port's link sequence number, and in the credits of its VC. -/
theorem Die.lostPacket_shows (d : Die) (p v n : Nat) (pk : Packet) :
    let e := (d.lsnTaken p pk).freeFlits p v n
    (e.get R.portLsnRx p = (pk.lsn + 1).toNat ∧ OtherPorts d e p) ∧ e.dlv = d.dlv ∧ (e.port p).sendq = (d.port p).sendq
      ∧ OnlyRegs d { e with ports := d.ports } [R.portLsnRx.addrOf p] := by
  have reach := d.lsnTaken_reach p pk
  have lsn := d.lsnTaken_lsn p pk
  generalize d.lsnTaken p pk = x at reach lsn ⊢
  have port := Die.port_congr reach.units.ports
  obtain ⟨f, eq⟩ := x.freeFlits_shape p v n
  rw [eq]
  exact ⟨⟨(Die.get_congr (x.modVc_regs p v f) _ _ _ _).trans lsn, fun q hq => (x.otherPorts_modPort p _ q hq).trans (port q)⟩, reach.units.dlv,
    (x.port_modVc_sendq p v f).trans (congrArg PortSt.sendq (port p)), { reach with units := { reach.units with ports := rfl } }⟩

/-- A packet that waits shows in its port's link sequence number, among the packets that wait, and in the depths. -/
theorem Die.waitingPacket_shows (d : Die) (p : Nat) (pk : Packet) (w : WaitPkt) :
    let e := (d.lsnTaken p pk).waits p w
    (e.get R.portLsnRx p = (pk.lsn + 1).toNat ∧ OtherPorts d e p) ∧ e.dlv = { d.dlv with waiting := d.dlv.waiting ++ [w] } ∧ e.ports = d.ports
      ∧ OnlyReports d { e with dlv := d.dlv, withholding := d.withholding, telem := d.telem } [R.portLsnRx.addrOf p, I.portWithhold.addrOf p] := by
  have taken := d.lsnTaken_reach p pk
  have lsn := d.lsnTaken_lsn p pk
  generalize d.lsnTaken p pk = x at taken lsn ⊢
  obtain ⟨dlv, ports, reach⟩ := x.waits_shows p w
  have away : R.portLsnRx.addrOf p ∉ [I.portWithhold.addrOf p] := by
    rw [List.mem_singleton, addrOf_portLsnRx, show I.portWithhold.addrOf p = 0x1000 * (0x10 + p) + 0x20 from rfl]
    omega
  rw [taken.units.dlv] at dlv
  exact ⟨⟨(reach.get R.portLsnRx p 0 0 away).trans lsn, fun q _ => Die.port_congr (ports.trans taken.units.ports) q⟩, dlv, ports.trans taken.units.ports,
    taken.reports.trans { reach with
      units := { reach.units with dlv := taken.units.dlv.symm, withholding := taken.units.withholding.symm }
      telem := by rw [taken.telem] }⟩

/-! ### The statement -/

/-- The way in, by what the checks say of the packet. -/
theorem packetsJudged (s : State) (p : BitVec 6) (v : BitVec 3) (pk : Packet) (poisoned beyond : BitVec 7) (ha : s.die.alive = true)
    (hd : s.die.isDrop p.toNat = true) (ahead : (pk.lsn - BitVec.ofNat 16 (s.die.get R.portLsnRx p.toNat)).toNat < 32768) :
    Becomes (.dropPacketRx p v pk poisoned beyond) s ((s.die.lsnTaken p.toNat pk).judge p.toNat v.toNat pk poisoned.toNat beyond.toNat) :=
  becomes_of_act _ s _ _ rfl ha ((if_pos hd).trans (s.die.dropPacket_ahead p.toNat v.toNat pk _ _ ahead))

/-- Settles O30: the way in by what the checks say of the packet, the acceptance by the resource that decides it, the way out by the item at NEXT. -/
theorem packetsAcceptedAndHanded : Obligations.PacketsAcceptedAndHanded := by
  constructor
  · intro s p v pk poisoned beyond ha
    dsimp only
    refine ⟨fun hd => ?elsewhere, fun hd ahead hr => ?here⟩
    case elsewhere => exact becomes_of_act _ s _ _ rfl ha (if_neg (by simp [hd]))
    have judged := packetsJudged s p v pk poisoned beyond ha hd ahead
    have live : (s.die.lsnTaken p.toNat pk).replayPort p.toNat = false := (s.die.replayPort_lsnRx _ _ _).trans hr
    have checks := s.die.ingressFail_lsnRx p.toNat p.toNat (pk.lsn + 1).toNat p.isLt pk
    refine ⟨fun hp => ?poisoned, fun hp hb => ?beyond, fun hp hb hf => ?fails, fun hp hb hf => ?waits⟩
    case poisoned =>
      rw [Die.judge_poisoned _ _ _ _ _ _ fun h => hp (BitVec.eq_of_toNat_eq h)] at judged
      exact ⟨_, judged, s.die.lostPacket_shows _ _ _ pk⟩
    all_goals have whole : poisoned.toNat = 0 := congrArg BitVec.toNat hp
    case beyond =>
      rw [Die.judge_beyond _ _ _ _ _ _ live whole fun h => hb (BitVec.eq_of_toNat_eq h)] at judged
      exact ⟨_, judged, ((Die.refusePacket_shows _ _ pk 1 false).freeFlits _ _).after_lsn⟩
    all_goals have within : beyond.toNat = 0 := congrArg BitVec.toNat hb
    case fails =>
      obtain ⟨⟨why, t⟩, fails⟩ := Option.isSome_iff_exists.mp hf
      rw [Die.judge_fails _ _ _ _ _ _ live whole within (checks.trans fails)] at judged
      rw [fails]
      exact ⟨_, judged, ((Die.refusePacket_shows _ _ pk why t).freeFlits _ _).after_lsn⟩
    case waits =>
      rw [Die.judge_waits _ _ _ _ _ _ live whole within (checks.trans hf)] at judged
      exact ⟨_, judged, s.die.waitingPacket_shows _ pk _⟩
  · intro s p v found f x i w ha
    dsimp only
    refine ⟨fun hw => ?none, fun hw => ⟨fun hk hc hl hr => ?accepted, fun hk => ?stays, fun hc hm ht => ?refused, fun hc ht hn => ?counted⟩,
      fun hf => ?free, fun ⟨hf, hi⟩ h0 h1 ok hr => ?output, fun ⟨hf, hi⟩ h0 h1 bad room => ?rejected, fun ⟨hf, hi⟩ ho => ?steward⟩
    case none =>
      refine becomes_of_act _ s _ _ rfl ha ?_
      rw [Die.acceptPacket, hw]
    case accepted =>
      refine completes_of_act _ s _ _ rfl ha ?_
      have item := s.die.acceptPacket_accepted p.toNat v.toNat hw hk hc hl hr
      exact ⟨item.free, item.queued, item.lsn, item.own, item.waiting, item.sendq ▸ List.mem_append_right _ (List.mem_singleton_self _)⟩
    case stays => exact becomes_of_act _ s _ _ rfl ha rfl
    case refused =>
      have refused := (Die.refusePacket_shows (s.die.takeWaiting p.toNat v.toNat) p.toNat w.pkt 3 true).freeFlits v.toNat w.pkt.flits
      refine ⟨_, becomes_of_act _ s _ _ rfl ha
        (congrArg Prod.fst (s.die.acceptPacket_item _ _ found hw hc (s.die.acceptItem_refuses _ _ found hw hm ht))), ?_, refused.sendq, ?_⟩
      · exact congrArg DlvSt.waiting refused.reach.units.dlv
      · rw [show _ = (s.die.takeWaiting p.toNat v.toNat).dlv from refused.reach.units.dlv]
        rfl
    case counted =>
      have port : UnitId.port (BitVec.ofNat 6 p.toNat) = .port p := by rw [BitVec.ofNat_toNat, BitVec.setWidth_eq]
      exact ⟨_, becomes_of_act _ s _ _ rfl ha
        (congrArg Prod.fst (s.die.acceptPacket_item _ _ found hw hc (s.die.acceptItem_waits _ _ found hw ht (port ▸ hn)))), s.die.countWait_shows _ _ hw⟩
    case free =>
      refine becomes_of_act _ s _ _ rfl ha ?_
      rw [Die.itemEgress, hf]
    case output =>
      refine ⟨_, becomes_of_act _ s _ _ rfl ha (s.die.itemEgress_output _ hf hi h0 h1 ok hr), s.die.setFlow_changes _ _, ?_, ?_, OnlyRegs.refl _ _⟩
      · rw [Die.heads_enqueue, List.length_append]
        rfl
      · rw [Die.heads_enqueue, List.getLast?_concat]
        rfl
    case rejected =>
      have flow : (s.die.setFlow f.toNat (.dst x.handed)).flow f.toNat = .dst x.handed := (s.die.flow_setFlow _ _ _).trans (if_pos rfl)
      exact ⟨_, becomes_of_act _ s _ _ rfl ha (s.die.itemEgress_rejected _ hf hi h0 h1 bad), Die.rejectItem_shows _ _ flow i.pkt room⟩
    case steward => exact completes_of_act _ s _ _ rfl ha (s.die.itemEgress_steward _ hf hi ho)

end Sys2Proof.Machine
end

section
/-!
PROOF. What discovery's commands share (spec 06): the hellos that follow a change (R257), frames that leave out the ports and discovery's own state, a
conflict (R274, R275) and the start of a run-down.
-/
namespace Sys2Proof.Machine

/-! ### Hellos (R257) -/

section
variable {d e f : Die}

theorem HellosOnly.refl (d : Die) : HellosOnly d d := fun _ => ⟨rfl, List.prefix_refl _⟩

theorem HellosOnly.trans (h : HellosOnly d e) (k : HellosOnly e f) : HellosOnly d f := fun q => by
  obtain ⟨own, sent⟩ := h q
  obtain ⟨own', sent'⟩ := k q
  refine ⟨own'.trans ?_, sent.trans sent'⟩
  rw [own]

theorem HellosOnly.of_ports {d' e' : Die} (h : HellosOnly d e) (hd : d'.ports = d.ports) (he : e'.ports = e.ports) : HellosOnly d' e' := fun q => by
  rw [Die.port_congr hd, Die.port_congr he]
  exact h q

/-- An effect that sends hellos and does no more. -/
structure SendsHellos (d e : Die) : Prop where
  hellos : HellosOnly d e
  ports : e = { d with ports := e.ports }

theorem SendsHellos.refl (d : Die) : SendsHellos d d := ⟨.refl d, rfl⟩

theorem SendsHellos.trans (h : SendsHellos d e) (k : SendsHellos e f) : SendsHellos d f := by
  refine ⟨h.hellos.trans k.hellos, k.ports.trans ?_⟩
  rw [h.ports]

theorem SendsHellos.forAll {α : Type} {g : Die → α → Die} (h : ∀ d x, SendsHellos d (g d x)) (l : List α) (d : Die) :
    SendsHellos d (d.forAll l g) := by
  induction l generalizing d with
  | nil => exact .refl d
  | cons x r ih => exact (h d x).trans (ih (g d x))

theorem SendsHellos.get (h : SendsHellos d e) (g : Fld) (i j k : Nat) : e.get g i j k = d.get g i j k := by
  rw [h.ports]
  rfl

theorem SendsHellos.hasCause (h : SendsHellos d e) (q : Irq) (i : Nat) : e.hasCause q i = d.hasCause q i := by
  rw [h.ports]
  rfl

theorem SendsHellos.disc (h : SendsHellos d e) : e.disc = d.disc := by rw [h.ports]

theorem SendsHellos.tick (h : SendsHellos d e) : e.tick = d.tick := by rw [h.ports]

/-- After an effect that leaves the ports alone, hellos are all that changes them. -/
theorem SendsHellos.after (h : SendsHellos e f) (hp : e.ports = d.ports) : HellosOnly d f := h.hellos.of_ports hp.symm rfl

end

theorem Die.port_sendHello (d : Die) (p frag q : Nat) :
    (d.sendHello p frag).port q = if q = p then { d.port p with
        sendq := (d.port p).sendq ++ [.hello (BitVec.ofNat 4 frag) (d.helloData p frag)]
        helloTx := smapSet none (d.port p).helloTx frag (some (d.helloData p frag)) } else d.port q := by
  rw [Die.sendHello_eq, Die.port_modPort, Die.queueMsg, Die.port_modPort_self, Die.port_modPort]
  split <;> rfl

theorem Die.sendHello_sends (d : Die) (p frag : Nat) : SendsHellos d (d.sendHello p frag) := by
  refine ⟨fun q => ?_, rfl⟩
  rw [Die.port_sendHello]
  split
  case isTrue own =>
    rw [own]
    exact ⟨rfl, List.prefix_append _ _⟩
  case isFalse => exact ⟨rfl, List.prefix_refl _⟩

theorem Die.refreshHellos_sends (d : Die) : SendsHellos d d.refreshHellos := by
  refine .forAll (fun x p => .forAll (fun y frag => ?_) _ x) _ d
  split
  case isTrue => exact .refl y
  case isFalse => exact y.sendHello_sends p frag

/-- A command that ends in the hellos of the die `x`: what holds of every die that only sends hellos after `x` holds of its end. -/
theorem completes_refreshed {i : Instr} {s : State} {f : Die → Die} {P : Die → Prop} (x : Die) (h : exec i s = act s f) (ha : s.die.alive = true)
    (hx : f s.die = x.refreshHellos) (shows : ∀ e, SendsHellos x e → P e) : Completes i s P :=
  completes_of_act i s f P h ha (hx ▸ shows _ x.refreshHellos_sends)

/-! ### Frames -/

section
variable {d e f : Die} {as bs : List Nat}

theorem OnlyRegs.trans_disc_ports (h : OnlyRegs d { e with disc := d.disc, ports := d.ports } as) (k : OnlyRegs e f bs) :
    OnlyRegs d { f with disc := d.disc, ports := d.ports } (as ++ bs) :=
  h.trans { k with units := { k.units with disc := rfl, ports := rfl } }

theorem OnlyReports.trans_disc_ports (h : OnlyReports d { e with disc := d.disc, ports := d.ports } as) (k : OnlyReports e f bs) :
    OnlyReports d { f with disc := d.disc, ports := d.ports } (as ++ bs) :=
  h.trans { k with units := { k.units with disc := rfl, ports := rfl } }

theorem OnlyRegs.disc_ports (h : OnlyRegs d e as) : OnlyRegs d { e with disc := d.disc, ports := d.ports } as :=
  { h with units := { h.units with disc := rfl, ports := rfl } }

/-- Registers that are written before an effect on ports and discovery's own state. -/
theorem OnlyRegs.then_disc_ports (h : OnlyRegs d e as) (k : OnlyReports e { f with disc := e.disc, ports := e.ports } bs) :
    OnlyReports d { f with disc := d.disc, ports := d.ports } (as ++ bs) :=
  have both := h.reports.trans k
  { both with units := { both.units with disc := rfl, ports := rfl } }

/-- Discovery's own state changed first, then registers. -/
theorem OnlyRegs.after_disc (x : DiscSt) (h : OnlyRegs { d with disc := x } e as) : OnlyRegs d { e with disc := d.disc, ports := d.ports } as :=
  { h with units := { h.units with disc := rfl, ports := rfl } }

theorem OnlyReports.after_disc (x : DiscSt) (h : OnlyReports { d with disc := x } e as) :
    OnlyReports d { e with disc := d.disc, ports := d.ports } as :=
  { h with units := { h.units with disc := rfl, ports := rfl } }

/-- Discovery's own state changed between two effects. -/
theorem OnlyReports.around_disc (x : DiscSt) (h : OnlyReports d e as) (k : OnlyReports { e with disc := x } f bs) :
    OnlyReports d { f with disc := d.disc, ports := d.ports } (as ++ bs) :=
  have before : OnlyReports d { ({ e with disc := x } : Die) with disc := d.disc, ports := d.ports } as :=
    { h with units := { h.units with disc := rfl, ports := rfl } }
  before.trans_disc_ports k

/-- Hellos that follow do not show where ports and discovery's own state are left out. -/
theorem OnlyRegs.then_hellos (h : OnlyRegs d { e with disc := d.disc, ports := d.ports } as) (k : SendsHellos e f) :
    OnlyRegs d { f with disc := d.disc, ports := d.ports } as := by
  rw [k.ports]
  exact h

theorem OnlyReports.then_hellos (h : OnlyReports d { e with disc := d.disc, ports := d.ports } as) (k : SendsHellos e f) :
    OnlyReports d { f with disc := d.disc, ports := d.ports } as := by
  rw [k.ports]
  exact h

/-- Hellos after an effect that leaves discovery's own state and the ports alone. -/
theorem OnlyRegs.hellos_after (h : OnlyRegs d e as) (k : SendsHellos e f) : OnlyRegs d { f with ports := d.ports } as := by
  rw [k.ports]
  exact { h with units := { h.units with ports := rfl } }

theorem OnlyReports.hellos_after (h : OnlyReports d e as) (k : SendsHellos e f) : OnlyReports d { f with ports := d.ports } as := by
  rw [k.ports]
  exact { h with units := { h.units with ports := rfl } }

end

theorem OnlyReports.forAll {α : Type} {f : Die → α → Die} {as : List Nat} (l : List α) (h : ∀ e, ∀ x ∈ l, OnlyReports e (f e x) as) (d : Die) :
    OnlyReports d (d.forAll l f) as := by
  induction l generalizing d with
  | nil => exact .refl d as
  | cons x r ih => exact ((h d x List.mem_cons_self).trans (ih (fun e y hy => h e y (List.mem_cons_of_mem _ hy)) _)).mono (by simp)

theorem Die.mem_portsWith {d : Die} {c : Nat → Bool} {p : Nat} : p ∈ d.portsWith c ↔ p < 64 ∧ c p = true := by
  simp [Die.portsWith]

theorem Die.ports_withDisc (d : Die) (x : DiscSt) : ({ d with disc := x } : Die).ports = d.ports := rfl

/-! ### Fields of pages with one instance -/

/-- Discovery's own state has no bearing on the registers. -/
theorem Die.get_withDisc (d : Die) (x : DiscSt) (g : Fld) (i j k : Nat) : ({ d with disc := x } : Die).get g i j k = d.get g i j k :=
  Die.get_congr rfl g i j k

section
variable (d : Die) {g h : Fld} {v : Nat}

theorem Die.get_set_fits (hw : g.lsb + g.width ≤ 32) (hv : v < 2 ^ g.width) : (d.set g v).get g = v :=
  (Die.get_set d g v 0 0 0 hw).trans (Nat.mod_eq_of_lt hv)

theorem Die.get_set_other (hw : g.lsb + g.width ≤ 32) (ha : g.addrOf ≠ h.addrOf ∨ g.lsb + g.width ≤ h.lsb ∨ h.lsb + h.width ≤ g.lsb) :
    (d.set g v).get h = d.get h := Die.get_set_apart d g h v 0 0 0 0 0 0 hw ha

theorem Die.get_bump_other {n : Nat} (hw : g.lsb + g.width ≤ 32)
    (ha : g.addrOf ≠ h.addrOf ∨ g.lsb + g.width ≤ h.lsb ∨ h.lsb + h.width ≤ g.lsb) : (d.bump g 0 0 n).get h = d.get h :=
  Die.get_bump_apart d g h 0 0 n 0 0 0 hw ha

end


/-! ### A conflict (R274, R275) -/

section
variable (d : Die) (cause p : Nat)

/-- DISC.STAT as it shows a conflict. -/
def Die.conflictRegs : Die := (((d.set R.discStatPhase 8).set R.discStatCause cause).set R.discStatCport p).set R.discStatCdie d.pos

/-- The conflict shown, logged and raised, before the ports leave ACTIVE. -/
def Die.conflictRaised : Die :=
  ((d.conflictRegs cause p).logErr .disc 0 0x0300 2 (leBytes 1 cause ++ leBytes 1 (d.conflictRegs cause p).pos ++ leBytes 1 p)).raise I.discConflict

/-- A port leaves ACTIVE over the conflict. -/
def Die.portRefuses (q : Nat) : Die := (d.set R.portLinkState 1 q).raise I.portLost q

theorem Die.discConflict_eq (h : d.phase ≠ 8) : d.discConflict cause p
    = (d.conflictRaised cause p).forAll ((d.conflictRaised cause p).portsWith (fun q => ((d.conflictRaised cause p).isTrunk q
        || (d.conflictRaised cause p).isDrop q) && (d.conflictRaised cause p).link q == 2)) Die.portRefuses := if_neg h

theorem Die.conflictRegs_reach : OnlyRegs d (d.conflictRegs cause p) [R.discStatPhase.addrOf] :=
  ((((OnlyRegs.set _ _ _ _ _ _).trans (OnlyRegs.set _ _ _ _ _ _)).trans (OnlyRegs.set _ _ _ _ _ _)).trans (OnlyRegs.set _ _ _ _ _ _)).mono (by decide)

/-- The dwords of the ports among those that a conflict may change. -/
def conflictPortAddrs : List Nat := (List.range 64).flatMap (fun q => [R.portLinkState.addrOf q, I.portLost.addrOf q])

theorem Die.portRefuses_reach {q : Nat} (hq : q < 64) : OnlyReports d (d.portRefuses q) conflictPortAddrs := by
  refine ((OnlyRegs.set _ _ _ _ _ _).reports.trans (OnlyReports.raise _ _ _ _)).mono fun a ha => ?_
  exact List.mem_flatMap.2 ⟨q, List.mem_range.2 hq, ha⟩

theorem Die.conflictRaised_reach : OnlyLogs d (d.conflictRaised cause p) [R.discStatPhase.addrOf, I.discConflict.addrOf] := by
  have shown := (d.conflictRegs_reach cause p).reports.logs
  have logged := ((d.conflictRegs cause p).logErr_reach .disc 0 0x0300 2
    (leBytes 1 cause ++ leBytes 1 (d.conflictRegs cause p).pos ++ leBytes 1 p) none false none).1
  exact (shown.trans logged (by decide)).trans (OnlyReports.raise _ I.discConflict 0 0).logs (by decide)

variable {cause p}

theorem Die.conflictRegs_shows (hc : cause < 16) (hp : p < 64) :
    (d.conflictRegs cause p).get R.discStatPhase = 8 ∧ (d.conflictRegs cause p).get R.discStatCause = cause
      ∧ (d.conflictRegs cause p).get R.discStatCport = p ∧ (d.conflictRegs cause p).get R.discStatCdie = d.pos := by
  unfold Die.conflictRegs
  refine ⟨?_, ?_, ?_, Die.get_set_fits _ (by decide) d.pos_lt⟩
  · simp (disch := decide) only [Die.get_set_fits, Die.get_set_other]
  · simp (disch := decide) only [Die.get_set_other]
    exact Die.get_set_fits _ (by decide) hc
  · simp (disch := decide) only [Die.get_set_other]
    exact Die.get_set_fits _ (by decide) hp

theorem Die.conflictRaised_shows (hc : cause < 16) (hp : p < 64) : ShowsConflict d (d.conflictRaised cause p) cause p := by
  obtain ⟨phase, causes, port, die⟩ := d.conflictRegs_shows hc hp
  obtain ⟨reach, logged⟩ := (d.conflictRegs cause p).logErr_reach .disc 0 0x0300 2
    (leBytes 1 cause ++ leBytes 1 (d.conflictRegs cause p).pos ++ leBytes 1 p) none false none
  have err := (d.conflictRegs_reach cause p).err
  unfold Die.conflictRaised
  generalize d.conflictRegs cause p = x at *
  generalize x.logErr .disc 0 0x0300 2 (leBytes 1 cause ++ leBytes 1 x.pos ++ leBytes 1 p) = y at *
  have shown (g : Fld) (h : g.addrOf ≠ I.discConflict.addrOf) (hl : g.addrOf ∉ logAddrs) : (y.raise I.discConflict).get g = x.get g :=
    (y.get_raise _ _ _ g _ _ _ h).trans (reach.get g 0 0 0 List.not_mem_nil hl)
  exact ⟨(shown _ (by decide) (by decide)).trans phase, (shown _ (by decide) (by decide)).trans causes, (shown _ (by decide) (by decide)).trans port,
    (shown _ (by decide) (by decide)).trans die, logged.of_err err (Die.raise_err _ _ _ _), y.hasCause_raise _ _ _ (by decide)⟩

/-- What a conflict shows stays through reports that reach none of its dwords. -/
theorem ShowsConflict.of_reports {d e f : Die} {as : List Nat} (h : ShowsConflict d e cause p) (k : OnlyReports e f as)
    (hs : R.discStatPhase.addrOf ∉ as) (hq : I.discConflict.addrOf ∉ as) : ShowsConflict d f cause p := by
  obtain ⟨phase, causes, port, die, logged, raised⟩ := h
  exact ⟨(k.get _ _ _ _ hs).trans phase, (k.get R.discStatCause _ _ _ hs).trans causes, (k.get R.discStatCport _ _ _ hs).trans port,
    (k.get R.discStatCdie _ _ _ hs).trans die, logged.of_err rfl k.err, (k.hasCause _ _ hq).trans raised⟩

/-- A node that is not in CONFLICT yet shows it, and reaches no further (R275). -/
theorem Die.discConflict_shows (hc : cause < 16) (hp : p < 64) (h : d.phase ≠ 8) :
    ShowsConflict d (d.discConflict cause p) cause p ∧ OnlyLogs d (d.discConflict cause p) conflictAddrs := by
  have shows := d.conflictRaised_shows hc hp
  have reach := d.conflictRaised_reach cause p
  rw [d.discConflict_eq cause p h]
  generalize d.conflictRaised cause p = x at *
  have ports := OnlyReports.forAll (as := conflictPortAddrs) (x.portsWith (fun q => (x.isTrunk q || x.isDrop q) && x.link q == 2))
    (fun e q hq => e.portRefuses_reach (Die.mem_portsWith.1 hq).1) x
  exact ⟨shows.of_reports ports (by decide) (by decide), reach.trans ports.logs (by decide)⟩

end


/-! ### A run-down of the die -/

theorem OnlyRegs.get_tick {d e : Die} {as : List Nat} {x : TickSt} (h : OnlyRegs d { e with tick := x } as) (g : Fld) (i j k : Nat)
    (hg : g.addrOf i j ∉ as) : e.get g i j k = d.get g i j k := h.get g i j k hg

/-- Registers that are written after an effect on the tick. -/
theorem OnlyRegs.then_regs {d e f : Die} {as bs : List Nat} (h : OnlyRegs d { e with tick := d.tick } as) (k : OnlyRegs e f bs) :
    OnlyRegs d { f with tick := d.tick } (as ++ bs) :=
  h.trans { k with units := { k.units with tick := rfl } }

/-- A unit in service starts to close with the bound given, and every other unit's run-down is as it was. -/
theorem Die.startRundown_changes (d : Die) (u : UnitId) (b : Nat) (h : (d.rundown u).phase = .run) :
    ChangesRundown d (d.startRundown u b) u { d.rundown u with phase := .closing, bound := b, cleared := false, reopen := false } := by
  have starts : d.startRundown u b = d.setRundown u { d.rundown u with phase := .closing, bound := b, cleared := false, reopen := false } := if_pos h
  refine ⟨?_, fun v hv => ?_, d.startRundown_tick u b⟩
  · rw [starts, Die.rundown_setRundown, if_pos rfl]
  · rw [starts, Die.rundown_setRundown, if_neg hv]

theorem Die.rundown_congr {d e : Die} (h : e.tick = d.tick) (u : UnitId) : e.rundown u = d.rundown u := by
  unfold Die.rundown
  rw [h]

/-- What leaves the tick alone leaves its run-downs alone. -/
theorem ChangesRundown.then_tick {d e f : Die} {u : UnitId} {r : RunDown} (h : ChangesRundown d e u r) (ht : f.tick = e.tick) :
    ChangesRundown d f u r := by
  unfold ChangesRundown Die.rundown at h ⊢
  rwa [ht]

end Sys2Proof.Machine
end

section
/-!
PROOF. DISC.CTL, frequency lock and the latency of a link (R275, R277, R281, R283, R295, R300).
-/
namespace Sys2Proof.Machine

/-! ### RETRY (R275) -/

section
variable (d : Die)

/-- The registers after DISC.CTL.RETRY: the election again, without conflict and sizes. -/
def Die.retryRegs : Die :=
  ((((d.set R.discStatPhase 1).set R.discStatCause 0).set R.discStatCport 0).set R.discStatCdie 0).set R.discCoordSizes 0

/-- A node that has forgotten its walks. -/
def Die.forgetWalks : Die := { d with disc := { d.disc with walk := 0, rootElect := false } }

theorem Die.retryDisc_conflict (h : d.phase = 8) : d.retryDisc = d.retryRegs.forgetWalks.refreshHellos := if_pos h

theorem Die.retryRegs_shows : d.retryRegs.phase = 1 ∧ d.retryRegs.get R.discStatCause = 0 ∧ d.retryRegs.get R.discCoordSizes = 0
    ∧ OnlyRegs d d.retryRegs [R.discStatPhase.addrOf, R.discCoordSizes.addrOf] := by
  unfold Die.phase
  have reach := ((((OnlyRegs.set d R.discStatPhase 1 0 0 0).trans (OnlyRegs.set _ R.discStatCause 0 0 0 0)).trans
    (OnlyRegs.set _ R.discStatCport 0 0 0 0)).trans (OnlyRegs.set _ R.discStatCdie 0 0 0 0)).trans (OnlyRegs.set _ R.discCoordSizes 0 0 0 0)
  refine ⟨?_, ?_, Die.get_set_fits _ (by decide) (by decide), reach.mono (by decide)⟩
  · unfold Die.retryRegs
    simp (disch := decide) only [Die.get_set_fits, Die.get_set_other]
  · unfold Die.retryRegs
    simp (disch := decide) only [Die.get_set_fits, Die.get_set_other]

/-! ### LEAVE (R295, R300) -/

/-- DISC.CTL and DISC.STAT of a node that leaves. -/
def Die.leaveRegs : Die := (d.set R.discCtlLeave 1).set R.discStatPhase 9

/-- LEAVING is raised, and by a root RLEAVE. -/
def Die.raiseLeaving : Die := { d with disc := { d.disc with leaving := some 0, rleave := d.disc.rleave || d.isRoot } }

theorem Die.leaveNode_joined (h : d.phase = 7) : d.leaveNode = (d.leaveRegs.raiseLeaving.startRundown .die 64).refreshHellos :=
  if_pos ((Die.get_set_other d (by decide) (by decide)).trans h)

theorem Die.leaveNode_other (h : d.phase ≠ 7) : d.leaveNode = d.set R.discCtlLeave 1 :=
  if_neg fun k => h ((Die.get_set_other d (by decide) (by decide)).symm.trans k)

theorem Die.leaveRegs_shows : d.leaveRegs.phase = 9 ∧ d.leaveRegs.get R.discCtlLeave = 1 ∧ d.leaveRegs.isRoot = d.isRoot
    ∧ OnlyRegs d d.leaveRegs [R.discCtlLeave.addrOf, R.discStatPhase.addrOf] := by
  refine ⟨Die.get_set_fits _ (by decide) (by decide), ?_, ?_, (OnlyRegs.set _ _ _ _ _ _).trans (OnlyRegs.set _ _ _ _ _ _)⟩
  · exact (Die.get_set_other _ (by decide) (by decide)).trans (Die.get_set_fits _ (by decide) (by decide))
  · unfold Die.leaveRegs Die.isRoot Die.bit
    simp (disch := decide) only [Die.get_set_other]

/-- What a node shows that leaves, before its hellos. -/
theorem Die.leaving_shows (h : (d.rundown .die).phase = .run) :
    let e := d.leaveRegs.raiseLeaving.startRundown .die 64
    e.phase = 9 ∧ e.get R.discCtlLeave = 1 ∧ e.disc = { d.disc with leaving := some 0, rleave := d.disc.rleave || d.isRoot }
      ∧ e.ports = d.ports ∧ ChangesRundown d e .die { d.rundown .die with phase := .closing, bound := 64, cleared := false, reopen := false }
      ∧ OnlyRegs d { e with disc := d.disc, ports := d.ports, tick := d.tick }
          [R.discStatPhase.addrOf, R.discCtlLeave.addrOf, R.hdrStatState.addrOf (pageIndex .tick 0), R.tickRdStatActive.addrOf] := by
  obtain ⟨phase, leave, root, reach⟩ := d.leaveRegs_shows
  generalize d.leaveRegs = x at *
  have same : x.raiseLeaving.rundown .die = d.rundown .die := Die.rundown_congr reach.units.tick _
  have changes := x.raiseLeaving.startRundown_changes .die 64 (by rw [same]; exact h)
  have closes := x.raiseLeaving.startRundown_reach .die 64
  rw [same] at changes
  have leaving : x.raiseLeaving.disc = { d.disc with leaving := some 0, rleave := d.disc.rleave || d.isRoot } := by
    rw [← reach.units.disc, ← root]
    rfl
  dsimp only
  refine ⟨(closes.get_tick _ _ _ _ (by decide)).trans phase, (closes.get_tick R.discCtlLeave _ _ _ (by decide)).trans leave,
    closes.units.disc.trans leaving, closes.units.ports.trans reach.units.ports, changes.of_tick reach.units.tick, ?_⟩
  have total := (reach.trans (bs := shownAt .die) (e := x) (f := { x.raiseLeaving.startRundown .die 64 with disc := x.disc, tick := x.tick })
    (closes.disc_changed _)).mono (bs := [R.discStatPhase.addrOf, R.discCtlLeave.addrOf, R.hdrStatState.addrOf (pageIndex .tick 0),
      R.tickRdStatActive.addrOf]) (by decide)
  exact { total with units := { total.units with disc := rfl, ports := rfl, tick := rfl } }

/-! ### REMEASURE (R283) -/

/-- The link's latency and its samples are forgotten. -/
def Die.forgetLatency (p : Nat) : Die :=
  { d with disc := { d.disc with samples := smapSet (0, 0) d.disc.samples p (0, 0), lat := smapSet none d.disc.lat p none } }

theorem Die.remeasure_idle (c : Cls) (hd : d.get R.discLatselDie = d.pos) (hp : d.portIdle (d.get R.discLatselPort) = true) :
    d.remeasure c = d.forgetLatency (d.get R.discLatselPort) := if_pos ⟨hd, hp⟩

theorem Die.remeasure_refused (c : Cls) (h : d.get R.discLatselDie ≠ d.pos ∨ d.portIdle (d.get R.discLatselPort) = false) :
    d.remeasure c = d.refuse .disc 0 c 0x44 := if_neg fun ⟨hd, hp⟩ => h.elim (fun k => k hd) (fun k => Bool.false_ne_true (k.symm.trans hp))

/-! ### Frequency lock (R281) -/

/-- A node with frequency lock. -/
def Die.withFlock : Die := { d with disc := { d.disc with flock := true } }

theorem exec_flock (s : State) :
    exec .flock s = act s (fun d => if d.phase = 4 then (d.withFlock.set R.discStatPhase 5).refreshHellos else d) := rfl

/-! ### The latency of a link (R199, R277, R283) -/

section
variable (p : Nat)

/-- The mean of a link's samples, rounded. -/
def Die.latencyMean : Nat :=
  ((smapGet (0, 0) d.disc.samples p).2 + (smapGet (0, 0) d.disc.samples p).1 / 2) / (smapGet (0, 0) d.disc.samples p).1

/-- The mean is taken as the link's latency, and the samples start again. -/
def Die.takeLatency : Die :=
  ({ d with disc := { d.disc with lat := smapSet none d.disc.lat p (some (BitVec.ofNat 23 (d.latencyMean p)))
                                  samples := smapSet (0, 0) d.disc.samples p (0, 0) } } : Die).modPort p (fun s => { s with shifted := false })

/-- Has every link that a joining node measures its latency? -/
def Die.allMeasured : Bool := d.measured.all (fun r => (smapGet none d.disc.lat r).isSome)

/-- The measuring phase ends with the last latency. -/
def Die.endMeasuring : Die := if d.phase = 5 ∧ d.allMeasured = true then d.set R.discStatPhase 6 else d

theorem exec_latencyMeasured (p : BitVec 6) (s : State) :
    exec (.latencyMeasured p) s = act s (fun d =>
      if (smapGet (0, 0) d.disc.samples p.toNat).1 < 64 then d
      else if 128000 ≤ d.latencyMean p.toNat ∧ (d.takeLatency p.toNat).isTrunk p.toNat = true then (d.takeLatency p.toNat).discConflict 10 p.toNat
      else (d.takeLatency p.toNat).endMeasuring) := rfl

theorem Die.measured_congr {d e : Die} (hc : e.casc = d.casc) (hl : ∀ q, e.link q = d.link q) : e.measured = d.measured := by
  unfold Die.measured Die.isTrunk Die.isStack Die.role Die.portsWith
  simp only [hc, hl]

theorem Die.endMeasuring_reach : OnlyRegs d d.endMeasuring [R.discStatPhase.addrOf] := by
  unfold Die.endMeasuring
  split
  case isTrue => exact OnlyRegs.set _ _ _ _ _ _
  case isFalse => exact OnlyRegs.refl _ _

/-- DISC.STAT has no bearing on which links are measured. -/
theorem Die.endMeasuring_allMeasured : d.endMeasuring.allMeasured = d.allMeasured := by
  have reach := d.endMeasuring_reach
  have links (q : Nat) : d.endMeasuring.link q = d.link q := reach.get R.portLinkState q 0 0 (by
    rw [addrOf_portLinkState, List.mem_singleton, show R.discStatPhase.addrOf = 0x2048 from rfl]
    omega)
  rw [Die.allMeasured, Die.allMeasured, Die.measured_congr reach.units.casc links, reach.units.disc]

theorem Die.endMeasuring_phase : d.endMeasuring.phase = if d.phase = 5 ∧ d.endMeasuring.allMeasured = true then 6 else d.phase := by
  rw [Die.endMeasuring_allMeasured, Die.endMeasuring]
  split
  case isTrue => exact Die.get_set_fits _ (by decide) (by decide)
  case isFalse => rfl

/-- A mean below 400 ns is held as it is. -/
theorem Die.takeLatency_shows (h : d.latencyMean p < 128000) :
    (smapGet none (d.takeLatency p).disc.lat p).map BitVec.toNat = some (d.latencyMean p)
      ∧ smapGet (0, 0) (d.takeLatency p).disc.samples p = (0, 0) := by
  have fits : d.latencyMean p < 8388608 := by omega
  constructor
  · simp [Die.takeLatency, Die.modPort, fits]
  · simp [Die.takeLatency, Die.modPort]

theorem Die.takeLatency_changes : ChangesPort d (d.takeLatency p) p { d.port p with shifted := false } :=
  ChangesPort.modPort ({ d with disc := (d.takeLatency p).disc }) p _

end

end

/-! ### The statement -/

/-- Settles O26: each command by the die that it ends with, and what that die shows. -/
theorem discoveryControls : Obligations.DiscoveryControls := by
  refine fun s c p ha => ⟨fun h => ?retry, fun h => ?noRetry, fun h hr => ?leave, fun h => ?stay, fun hs => ⟨fun hd hi => ?again, fun h => ?refused⟩,
    fun h => ?flock, fun h => ?noFlock, fun h => ?few, fun h hm => ?mean, fun h hm ht hp => ?far⟩
  case retry =>
    obtain ⟨phase, cause, sizes, reach⟩ := s.die.retryRegs_shows
    refine completes_refreshed _ rfl ha (s.die.retryDisc_conflict h) fun e hellos => ?_
    generalize s.die.retryRegs = x at *
    have forgets : x.forgetWalks.disc = { s.die.disc with walk := 0, rootElect := false } := by
      rw [← reach.units.disc]
      rfl
    exact ⟨(hellos.get _ _ _ _).trans phase, (hellos.get _ _ _ _).trans cause, (hellos.get _ _ _ _).trans sizes, hellos.disc.trans forgets,
      hellos.after reach.units.ports, OnlyRegs.then_hellos (e := x.forgetWalks) reach.disc_ports hellos⟩
  case noRetry => exact becomes_of_act _ s _ _ rfl ha (if_neg h)
  case leave =>
    obtain ⟨phase, leave, disc, ports, changes, reach⟩ := s.die.leaving_shows hr
    refine completes_refreshed _ rfl ha (s.die.leaveNode_joined h) fun e hellos => ?_
    generalize s.die.leaveRegs.raiseLeaving.startRundown .die 64 = x at *
    refine ⟨(hellos.get _ _ _ _).trans phase, (hellos.get _ _ _ _).trans leave, hellos.disc.trans disc, hellos.after ports,
      changes.then_tick hellos.tick, ?_⟩
    rw [hellos.ports]
    exact reach
  case stay =>
    refine completes_of_act _ s _ _ rfl ha ?_
    rw [s.die.leaveNode_other h]
    exact ⟨Die.get_set_fits _ (by decide) (by decide), OnlyRegs.set _ _ _ _ _ _⟩
  case again =>
    refine completes_of_page _ s c .disc 0 _ _ rfl ⟨ha, hs⟩ ?_
    rw [s.die.remeasure_idle c hd hi]
    exact ⟨rfl, OnlyRegs.refl _ _⟩
  case refused =>
    refine completes_of_page _ s c .disc 0 _ _ rfl ⟨ha, hs⟩ ?_
    rw [s.die.remeasure_refused c h]
    exact ⟨Die.accErr_shown _ _ _ _ _ _ _, OnlyReports.accErr _ _ _ _ _ _ _⟩
  case flock =>
    refine completes_refreshed _ (exec_flock s) ha (if_pos h) fun e hellos => ?_
    exact ⟨(hellos.get _ _ _ _).trans (Die.get_set_fits _ (by decide) (by decide)), hellos.disc, hellos.after rfl,
      (OnlyRegs.after_disc _ (OnlyRegs.set s.die.withFlock _ _ _ _ _)).then_hellos hellos⟩
  case noFlock => exact becomes_of_act _ s _ _ (exec_flock s) ha (if_neg h)
  case few => exact becomes_of_act _ s _ _ (exec_latencyMeasured p s) ha (if_pos h)
  case mean =>
    refine completes_of_act _ s _ _ (exec_latencyMeasured p s) ha ?_
    rw [if_neg (Nat.not_lt.2 h), if_neg fun k => Nat.not_le.2 hm k.1]
    obtain ⟨lat, samples⟩ := s.die.takeLatency_shows p.toNat hm
    have changes := s.die.takeLatency_changes p.toNat
    have reach := (s.die.takeLatency p.toNat).endMeasuring_reach
    have phase := (s.die.takeLatency p.toNat).endMeasuring_phase
    have disc := reach.units.disc
    refine ⟨?_, ?_, ?_, changes.of_ports reach.units.ports, phase, ?_⟩
    · rw [disc]
      exact lat
    · rw [disc]
      exact samples
    · rw [disc]
      rfl
    · exact ((reach.ports_changed _).disc_changed _)
  case far =>
    refine completes_of_act _ s _ _ (exec_latencyMeasured p s) ha ?_
    rw [if_neg (Nat.not_lt.2 h), if_pos ⟨hm, ht⟩]
    obtain ⟨shows, reach⟩ := (s.die.takeLatency p.toNat).discConflict_shows (cause := 10) (by decide) p.isLt hp
    exact ⟨shows, (reach.ports_changed _).disc_changed _⟩

end Sys2Proof.Machine
end

section
/-!
PROOF. Holdover, re-parenting, failover and leaving (spec 06, R265, R267, R278, R287 to R292, R294, R297, R298, R300), and the loss of a lane's CDR lock
(R169, R182, R287).
-/
namespace Sys2Proof.Machine

/-! ### A newer generation (R265, R297) -/

section
variable (d : Die)

/-- The dwords that a newer generation may change. -/
def adoptAddrs : List Nat := [R.discStatPhase.addrOf, I.discNewroot.addrOf, R.discRootLo.addrOf, R.discRootHi.addrOf]

/-- The generation, the root and NEWROOT as the neighbour `q` shows them. -/
def Die.adoptFrom (q : Nat) : Die :=
  ((((d.set R.discStatRootGen (d.hf q 4 13 8)).raise I.discNewroot).set64 R.discRootLo R.discRootHi
    (((d.set R.discStatRootGen (d.hf q 4 13 8)).raise I.discNewroot).hRoot q))).setBit R.discStatIsroot false

theorem Die.adoptGen_cases : d.adoptGen = d ∨ ∃ q, d.adoptGen = d.adoptFrom q := by
  unfold Die.adoptGen
  split
  case h_1 => exact .inl rfl
  case h_2 q _ => exact .inr ⟨q, rfl⟩

/-- A two-dword number that is written reaches its two dwords. -/
theorem OnlyRegs.set64 (lo hi : Fld) (v : Nat) : OnlyRegs d (d.set64 lo hi v) [lo.addrOf, hi.addrOf] :=
  (OnlyRegs.set d lo _ 0 0 0).trans (OnlyRegs.set _ hi _ 0 0 0)

theorem Die.adoptGen_reach : OnlyReports d d.adoptGen adoptAddrs := by
  obtain same | ⟨q, adopts⟩ := d.adoptGen_cases
  · rw [same]
    exact OnlyReports.refl d _
  · rw [adopts]
    exact ((((OnlyRegs.set _ _ _ _ _ _).reports.trans (OnlyReports.raise _ _ _ _)).trans (OnlyRegs.set64 _ _ _ _).reports).trans
      (OnlyRegs.setBit _ _ _ _ _ _).reports).mono (by decide)

/-- Holdover's cause stays set. -/
theorem Die.adoptGen_cause (h : d.hasCause I.discHoldover = true) : d.adoptGen.hasCause I.discHoldover = true := by
  obtain same | ⟨q, adopts⟩ := d.adoptGen_cases
  · rwa [same]
  · have generation := (OnlyRegs.set d R.discStatRootGen (d.hf q 4 13 8) 0 0 0).reports.hasCause I.discHoldover 0 (by decide)
    rw [adopts, Die.adoptFrom, (OnlyRegs.setBit _ R.discStatIsroot _ _ _ _).reports.hasCause _ _ (by decide),
      (OnlyRegs.set64 _ _ _ _).reports.hasCause _ _ (by decide)]
    exact Die.hasCause_raise_of _ _ _ _ _ _ (generation.trans h)

/-! ### Holdover (R287, R288) -/

/-- What discovery holds as holdover begins. -/
def Die.loseParent : Die :=
  { d with disc := { d.disc with lastHops := BitVec.ofNat 4 (d.get R.discStatHops), rpath := false, rnMiss := 0, ofsRun := 0, tickRun := 0 } }

/-- The registers as holdover begins. -/
def Die.holdRegs : Die :=
  ((((d.set R.tickStatState 2).set R.discHoldTicks 0).bump R.discHoldEntries).raise I.discHoldover).setBit R.discParentValid false

theorem Die.enterHoldover_eq : d.enterHoldover = d.loseParent.holdRegs.refreshHellos := rfl

theorem Die.holdRegs_shows : d.holdRegs.tstate = 2 ∧ d.holdRegs.get R.discHoldTicks = 0 ∧ d.holdRegs.get R.discHoldEntries = d.counted R.discHoldEntries
    ∧ d.holdRegs.bit R.discParentValid = false ∧ d.holdRegs.hasCause I.discHoldover = true
    ∧ OnlyReports d d.holdRegs [R.tickStatState.addrOf, R.discHoldTicks.addrOf, R.discParentPort.addrOf, I.discHoldover.addrOf] := by
  have cause : d.holdRegs.hasCause I.discHoldover = true := by
    refine ((OnlyRegs.setBit _ R.discParentValid _ _ _ _).reports.hasCause _ _ (by decide)).trans ?_
    exact Die.hasCause_raise _ _ _ _ (by decide)
  refine ⟨?_, ?_, ?_, Die.bit_setBit _ _ _ _ _ _ (by decide) rfl, cause, ?_⟩
  · unfold Die.holdRegs Die.tstate Die.setBit
    simp (disch := decide) only [Die.get_set_fits, Die.get_set_other, Die.get_bump_other, Die.get_raise]
  · unfold Die.holdRegs Die.setBit
    simp (disch := decide) only [Die.get_set_fits, Die.get_set_other, Die.get_bump_other, Die.get_raise]
  · unfold Die.holdRegs Die.setBit Die.counted
    simp (disch := decide) only [Die.get_set_other, Die.get_bump, Die.get_raise]
  · exact (((((OnlyRegs.set _ _ _ _ _ _).trans (OnlyRegs.set _ _ _ _ _ _)).reports.trans (OnlyReports.bump _ _ _ _ _)).trans
      (OnlyReports.raise _ _ _ _)).trans (OnlyRegs.setBit _ _ _ _ _ _).reports).mono (by decide)

/-- What a locked node shows that has lost its parent, with the hellos that follow and the newer generation it may adopt. -/
theorem Die.enterHoldover_shows :
    let e := d.enterHoldover.adoptGen
    e.tstate = 2 ∧ e.get R.discHoldTicks = 0 ∧ e.get R.discHoldEntries = d.counted R.discHoldEntries ∧ e.bit R.discParentValid = false
      ∧ e.disc.rpath = false ∧ e.disc.lastHops.toNat = d.get R.discStatHops ∧ e.hasCause I.discHoldover = true ∧ HellosOnly d e
      ∧ OnlyReports d { e with disc := d.disc, ports := d.ports } [R.tickStatState.addrOf, R.discHoldTicks.addrOf, R.discParentPort.addrOf,
          I.discHoldover.addrOf, R.discStatPhase.addrOf, R.discRootLo.addrOf, R.discRootHi.addrOf] := by
  obtain ⟨state, ticks, entries, parent, cause, holds⟩ := d.loseParent.holdRegs_shows
  have sends := d.loseParent.holdRegs.refreshHellos_sends
  have adopts := d.loseParent.holdRegs.refreshHellos.adoptGen_reach
  have stays := d.loseParent.holdRegs.refreshHellos.adoptGen_cause
  dsimp only
  rw [d.enterHoldover_eq]
  generalize d.loseParent.holdRegs = x at *
  generalize x.refreshHellos = y at *
  generalize y.adoptGen = e at *
  have kept (g : Fld) (h : g.addrOf ∉ adoptAddrs) : e.get g = x.get g := (adopts.get g 0 0 0 h).trans (sends.get g 0 0 0)
  have disc : e.disc = d.loseParent.disc := (adopts.units.disc.trans sends.disc).trans holds.units.disc
  refine ⟨(kept _ (by decide)).trans state, (kept _ (by decide)).trans ticks, (kept _ (by decide)).trans entries, ?_, ?_, ?_,
    stays ((sends.hasCause _ _).trans cause), (sends.after holds.units.ports).of_ports rfl adopts.units.ports, ?_⟩
  · rw [Die.bit, kept _ (by decide)]
    exact parent
  · rw [disc]
    rfl
  · rw [disc]
    exact (BitVec.toNat_ofNat _ _).trans (Nat.mod_eq_of_lt (d.get_lt R.discStatHops 0 0 0))
  · exact (((OnlyReports.after_disc _ holds).then_hellos sends).trans_disc_ports adopts).mono (by decide)

/-! ### Holdover's end (R291) -/

/-- The node is OUT. -/
def Die.outRegs : Die := ((d.set R.tickStatState 3).raise I.discOut).set R.discStatPhase 0

theorem Die.outRegs_shows : d.outRegs.tstate = 3 ∧ d.outRegs.phase = 0 ∧ d.outRegs.hasCause I.discOut = true
    ∧ OnlyReports d d.outRegs [R.tickStatState.addrOf, R.discStatPhase.addrOf, I.discOut.addrOf] := by
  have phase : OnlyReports ((d.set R.tickStatState 3).raise I.discOut) d.outRegs [R.discStatPhase.addrOf] := (OnlyRegs.set _ _ _ _ _ _).reports
  refine ⟨?_, Die.get_set_fits _ (by decide) (by decide), (phase.hasCause _ _ (by decide)).trans (Die.hasCause_raise _ _ _ _ (by decide)),
    (((OnlyRegs.set _ _ _ _ _ _).reports.trans (OnlyReports.raise _ _ _ _)).trans phase).mono (by decide)⟩
  unfold Die.outRegs Die.tstate
  simp (disch := decide) only [Die.get_set_fits, Die.get_set_other, Die.get_raise]

/-- The die runs down as holdover has lasted its 256 ticks. -/
def Die.expireRundown : Die := (d.startRundown .die 64).hset R.hdrCtlRundown 1 .tick

theorem Die.expireRundown_shows (h : (d.rundown .die).phase = .run) :
    ChangesRundown d d.expireRundown .die { d.rundown .die with phase := .closing, bound := 64, cleared := false, reopen := false }
      ∧ d.expireRundown.hget R.hdrCtlRundown .tick = 1
      ∧ OnlyRegs d { d.expireRundown with tick := d.tick } [R.hdrStatState.addrOf (pageIndex .tick 0), R.hdrCtlRundown.addrOf (pageIndex .tick 0),
          R.tickRdStatActive.addrOf] := by
  have changes := d.startRundown_changes .die 64 h
  have closes := d.startRundown_reach .die 64
  unfold Die.expireRundown
  generalize d.startRundown .die 64 = x at *
  have control := OnlyRegs.set x R.hdrCtlRundown 1 (pageIndex .tick 0) 0 0
  exact ⟨changes.then_tick control.units.tick, Die.get_set _ _ _ _ _ _ (by decide),
    (closes.then_regs control).mono (by decide)⟩

/-! ### A parent is taken (R278 to R280) -/

theorem Die.chooseParent_lt {m p : Nat} (h : d.chooseParent m = some p) : p < 64 := by
  unfold Die.chooseParent at h
  split at h
  case isTrue => exact (Die.mem_portsWith.1 (List.mem_of_find?_eq_some h)).1
  case isFalse =>
    obtain ⟨dir, -, hdir⟩ := List.mem_filterMap.1 (List.mem_of_head? h)
    have chosen := List.mem_filter.1 (List.mem_filter.1 (List.mem_of_find?_eq_some hdir)).1
    exact (Die.mem_portsWith.1 chosen.1).1

/-- A parent is taken: HOPS and the dword of DISC.PARENT. -/
theorem Die.takeParent_eq (p : Nat) : ∃ hops dir x, d.takeParent p
    = ((((x.set R.discParentPort p).set R.discParentDie x.pos).set R.discParentDir dir).setBit R.discParentValid true).setBit R.discParentRelay false
      ∧ x = d.set R.discStatHops hops := ⟨_, _, _, rfl, rfl⟩

theorem Die.takeParent_shows {p : Nat} (hp : p < 64) : (d.takeParent p).get R.discParentPort = p ∧ (d.takeParent p).bit R.discParentValid = true
    ∧ OnlyRegs d (d.takeParent p) [R.discStatPhase.addrOf, R.discParentPort.addrOf] := by
  obtain ⟨hops, dir, x, taken, hx⟩ := d.takeParent_eq p
  have reach : OnlyRegs d x [R.discStatHops.addrOf] := by
    rw [hx]
    exact OnlyRegs.set _ _ _ _ _ _
  rw [taken]
  refine ⟨?_, ?_, ?_⟩
  · unfold Die.setBit
    simp (disch := decide) only [Die.get_set_other]
    exact Die.get_set_fits _ (by decide) hp
  · rw [Die.bit, Die.setBit, Die.get_set_other _ (by decide) (by decide)]
    exact Die.bit_setBit _ _ _ _ _ _ (by decide) rfl
  · exact (reach.trans (((((OnlyRegs.set _ _ _ _ _ _).trans (OnlyRegs.set _ _ _ _ _ _)).trans (OnlyRegs.set _ _ _ _ _ _)).trans
      (OnlyRegs.setBit _ _ _ _ _ _)).trans (OnlyRegs.setBit _ _ _ _ _ _))).mono (by decide)

/-! ### Re-parenting (R278, R289, R296) -/

/-- How far a parent may be: in the first 12 holdover ticks no farther than the one that was lost (R289). -/
def Die.parentLimit : Nat := if d.get R.discHoldTicks ≤ 12 then d.disc.lastHops.toNat else 11

/-- A node with a path to the root again. -/
def Die.regainPath : Die :=
  { d with disc := { d.disc with rpath := true, cdrLost := false, rnMiss := 0, ofsRun := 0, tickRun := 0 } }

/-- Holdover ends: its ticks start again, and the change of parent is counted and raised. -/
def Die.countReparent : Die := ((d.set R.discHoldTicks 0).bump R.discEvtReparent).raise I.discReparent

theorem exec_reparent (s : State) :
    exec .reparent s = act s (fun d =>
      if d.tstate ≠ 2 then d
      else match d.adoptGen.chooseParent d.adoptGen.parentLimit with
        | none => d.adoptGen
        | some p => ((d.adoptGen.takeParent p).set R.tickStatState 1).regainPath.countReparent.refreshHellos) := rfl

theorem Die.countReparent_shows : d.countReparent.get R.discHoldTicks = 0 ∧ d.countReparent.get R.discEvtReparent = d.counted R.discEvtReparent
    ∧ d.countReparent.hasCause I.discReparent = true
    ∧ OnlyReports d d.countReparent [R.discHoldTicks.addrOf, R.discEvtReparent.addrOf, I.discReparent.addrOf] := by
  refine ⟨?_, ?_, Die.hasCause_raise _ _ _ _ (by decide), ?_⟩
  · unfold Die.countReparent
    simp (disch := decide) only [Die.get_set_fits, Die.get_bump_other, Die.get_raise]
  · unfold Die.countReparent Die.counted
    simp (disch := decide) only [Die.get_set_other, Die.get_bump, Die.get_raise]
  · exact ((OnlyRegs.set _ _ _ _ _ _).reports.trans (OnlyReports.bump _ _ _ _ _)).trans (OnlyReports.raise _ _ _ _)

/-- What a node in holdover shows once it has the parent `p`, before its hellos. -/
theorem Die.reparent_shows {p : Nat} (hp : p < 64) :
    let e := ((d.takeParent p).set R.tickStatState 1).regainPath.countReparent
    e.tstate = 1 ∧ e.get R.discHoldTicks = 0 ∧ e.get R.discParentPort = p ∧ e.bit R.discParentValid = true ∧ e.disc.rpath = true
      ∧ e.get R.discEvtReparent = d.counted R.discEvtReparent ∧ e.hasCause I.discReparent = true ∧ e.ports = d.ports
      ∧ OnlyReports d { e with disc := d.disc, ports := d.ports } [R.tickStatState.addrOf, R.discHoldTicks.addrOf, R.discParentPort.addrOf,
          I.discReparent.addrOf, R.discStatPhase.addrOf, R.discEvtReparent.addrOf] := by
  obtain ⟨port, valid, taken⟩ := d.takeParent_shows hp
  generalize d.takeParent p = x at *
  have state : (x.set R.tickStatState 1).tstate = 1 := Die.get_set_fits _ (by decide) (by decide)
  have locks : OnlyRegs x (x.set R.tickStatState 1) [R.tickStatState.addrOf] := OnlyRegs.set _ _ _ _ _ _
  generalize x.set R.tickStatState 1 = y at *
  obtain ⟨ticks, events, cause, counts⟩ := y.regainPath.countReparent_shows
  generalize y.regainPath.countReparent = e at *
  have reach := taken.trans locks
  have kept (g : Fld) (hc : g.addrOf ∉ [R.discHoldTicks.addrOf, R.discEvtReparent.addrOf, I.discReparent.addrOf]) (ht : g.addrOf ≠ R.tickStatState.addrOf) :
      e.get g = x.get g :=
    ((counts.get g 0 0 0 hc).trans (y.get_withDisc _ g 0 0 0)).trans (locks.get g 0 0 0 (List.mem_singleton.not.2 ht))
  refine ⟨((counts.get _ _ _ _ (by decide)).trans (y.get_withDisc _ _ 0 0 0)).trans state, ticks, (kept _ (by decide) (by decide)).trans port, ?_, ?_,
    events.trans ?_, cause,
    (counts.units.ports.trans (y.ports_withDisc _)).trans reach.units.ports, ?_⟩
  · rw [Die.bit, kept _ (by decide) (by decide)]
    exact valid
  · rw [counts.units.disc]
    rfl
  · rw [Die.counted, Die.counted]
    exact congrArg (fun n => min (n + 1) _) ((y.get_withDisc _ _ 0 0 0).trans (reach.get R.discEvtReparent 0 0 0 (by decide)))
  · exact (reach.reports.around_disc _ counts).mono (by decide)

/-! ### OUT and back (R292, R298) -/

theorem exec_outRejoin (s : State) :
    exec .outRejoin s = act s (fun d =>
      if d.tstate ≠ 3 then d
      else match d.adoptGen.chooseParent 11 with
        | none => d.adoptGen
        | some p => ((d.adoptGen.takeParent p).set R.discStatPhase 4).refreshHellos) := rfl

theorem Die.rejoin_shows {p : Nat} (hp : p < 64) :
    let e := (d.takeParent p).set R.discStatPhase 4
    e.phase = 4 ∧ e.get R.discParentPort = p ∧ e.bit R.discParentValid = true ∧ OnlyRegs d e [R.discStatPhase.addrOf, R.discParentPort.addrOf] := by
  obtain ⟨port, valid, taken⟩ := d.takeParent_shows hp
  generalize d.takeParent p = x at *
  refine ⟨Die.get_set_fits _ (by decide) (by decide), (Die.get_set_other _ (by decide) (by decide)).trans port, ?_,
    (taken.trans (OnlyRegs.set _ _ _ _ _ _)).mono (by decide)⟩
  rw [Die.bit, Die.get_set_other _ (by decide) (by decide)]
  exact valid

/-! ### Failover (R267, R294) -/

theorem genNext_lt {g : Nat} (h : g < 256) : genNext g < 256 := by
  unfold genNext
  split <;> omega

/-- A two-dword number read after it was written. -/
theorem Die.get64_set64 {lo hi : Fld} {v : Nat} (hl : lo.lsb = 0 ∧ lo.width = 32 ∧ lo.fstep = 0)
    (hh : hi.lsb = 0 ∧ hi.width = 32 ∧ hi.fstep = 0) (ha : hi.addrOf ≠ lo.addrOf)
    (hv : v < 2 ^ 64) : (d.set64 lo hi v).get64 lo hi = v := by
  have low : (d.set64 lo hi v).get lo = v % 2 ^ 32 :=
    (Die.get_set_other _ (by omega) (.inl ha)).trans (Die.get_set_fits _ (by omega) (by rw [hl.2.1]; exact Nat.mod_lt _ (by decide)))
  have high : (d.set64 lo hi v).get hi = v / 2 ^ 32 := Die.get_set_fits _ (by omega) (by rw [hh.2.1]; omega)
  rw [Die.get64, low, high]
  omega

theorem Die.serial_lt : d.serial < 2 ^ 64 := by
  have low := d.get_lt R.cascSerialLo 0 0 0
  have high := d.get_lt R.cascSerialHi 0 0 0
  simp only [R.cascSerialLo, R.cascSerialHi] at low high
  unfold Die.serial Die.get64
  simp only [R.cascSerialLo, R.cascSerialHi]
  omega

/-- The generation and the roles of the new root. -/
def Die.rootStat : Die :=
  ((d.set R.discStatRootGen (genNext (d.get R.discStatRootGen))).setBit R.discStatIsroot true).setBit R.discStatIsstby false

/-- The new root shows its own serial as ROOT, at no distance. -/
def Die.standAsRoot : Die := (d.rootStat.set R.discStatHops 0).set64 R.discRootLo R.discRootHi d.rootStat.serial

/-- The path to the root is the node's own. -/
def Die.ownPath : Die := { d with disc := { d.disc with rpath := true, rpathClear := 0, takeOver := false, rleave := false } }

/-- The tick of the new root, which has no parent, and the causes of a takeover. -/
def Die.leadTick : Die :=
  ((((d.set R.tickStatState 1).setBit R.discParentValid false).set R.discHoldTicks 0).raise I.discTakeover).raise I.discNewroot

theorem Die.failover_eq : d.failover = d.standAsRoot.ownPath.leadTick.refreshHellos := rfl

theorem Die.rootStat_shows : d.rootStat.isRoot = true ∧ d.rootStat.get R.discStatRootGen = genNext (d.get R.discStatRootGen)
    ∧ d.rootStat.serial = d.serial ∧ OnlyRegs d d.rootStat [R.discStatPhase.addrOf] := by
  have reach : OnlyRegs d d.rootStat [R.discStatPhase.addrOf] :=
    (((OnlyRegs.set _ _ _ _ _ _).trans (OnlyRegs.setBit _ _ _ _ _ _)).trans (OnlyRegs.setBit _ _ _ _ _ _)).mono (by decide)
  refine ⟨?_, ?_, ?_, reach⟩
  · rw [Die.isRoot, Die.bit, Die.rootStat, Die.setBit, Die.get_set_other _ (by decide) (by decide)]
    exact Die.bit_setBit _ _ _ _ _ _ (by decide) rfl
  · rw [Die.rootStat, Die.setBit, Die.setBit, Die.get_set_other _ (by decide) (by decide), Die.get_set_other _ (by decide) (by decide)]
    exact Die.get_set_fits _ (by decide) (genNext_lt (d.get_lt R.discStatRootGen 0 0 0))
  · rw [Die.serial, Die.serial, Die.get64, Die.get64, reach.get _ _ _ _ (by decide), reach.get _ _ _ _ (by decide)]

theorem Die.standAsRoot_shows : d.standAsRoot.isRoot = true ∧ d.standAsRoot.get R.discStatRootGen = genNext (d.get R.discStatRootGen)
    ∧ d.standAsRoot.get R.discStatHops = 0 ∧ d.standAsRoot.root = d.serial
    ∧ OnlyRegs d d.standAsRoot [R.discStatPhase.addrOf, R.discRootLo.addrOf, R.discRootHi.addrOf] := by
  obtain ⟨root, generation, serial, stat⟩ := d.rootStat_shows
  unfold Die.standAsRoot
  rw [serial]
  generalize d.rootStat = x at *
  have kept (g : Fld) (h : g.addrOf ∉ [R.discRootLo.addrOf, R.discRootHi.addrOf]) :
      ((x.set R.discStatHops 0).set64 R.discRootLo R.discRootHi d.serial).get g = (x.set R.discStatHops 0).get g :=
    (OnlyRegs.set64 _ _ _ _).get g 0 0 0 h
  refine ⟨?_, ?_, ?_, Die.get64_set64 _ (by decide) (by decide) (by decide) d.serial_lt, ?_⟩
  · rw [Die.isRoot, Die.bit, kept _ (by decide), Die.get_set_other _ (by decide) (by decide)]
    exact root
  · rw [kept _ (by decide), Die.get_set_other _ (by decide) (by decide)]
    exact generation
  · rw [kept _ (by decide)]
    exact Die.get_set_fits _ (by decide) (by decide)
  · exact ((stat.trans (OnlyRegs.set _ _ _ _ _ _)).trans (OnlyRegs.set64 _ _ _ _)).mono (by decide)

theorem Die.leadTick_shows : d.leadTick.tstate = 1 ∧ d.leadTick.hasCause I.discTakeover = true ∧ d.leadTick.hasCause I.discNewroot = true
    ∧ OnlyReports d d.leadTick [R.tickStatState.addrOf, R.discParentPort.addrOf, R.discHoldTicks.addrOf, I.discTakeover.addrOf] := by
  refine ⟨?_, Die.hasCause_raise_of _ _ _ _ _ _ (Die.hasCause_raise _ _ _ _ (by decide)), Die.hasCause_raise _ _ _ _ (by decide), ?_⟩
  · unfold Die.leadTick Die.tstate Die.setBit
    simp (disch := decide) only [Die.get_set_fits, Die.get_set_other, Die.get_raise]
  · exact (((((OnlyRegs.set _ _ _ _ _ _).trans (OnlyRegs.setBit _ _ _ _ _ _)).trans (OnlyRegs.set _ _ _ _ _ _)).reports.trans
      (OnlyReports.raise _ _ _ _)).trans (OnlyReports.raise _ _ _ _)).mono (by decide)

/-- What a standby shows that takes over as root, before its hellos. -/
theorem Die.failover_shows :
    let e := d.standAsRoot.ownPath.leadTick
    e.isRoot = true ∧ e.get R.discStatRootGen = genNext (d.get R.discStatRootGen) ∧ e.get R.discStatHops = 0 ∧ e.root = d.serial ∧ e.tstate = 1
      ∧ e.disc.rpath = true ∧ e.hasCause I.discTakeover = true ∧ e.hasCause I.discNewroot = true ∧ e.ports = d.ports
      ∧ OnlyReports d { e with disc := d.disc, ports := d.ports } [R.discStatPhase.addrOf, R.discRootLo.addrOf, R.discRootHi.addrOf,
          R.tickStatState.addrOf, R.discParentPort.addrOf, R.discHoldTicks.addrOf, I.discTakeover.addrOf] := by
  obtain ⟨root, generation, hops, serial, stands⟩ := d.standAsRoot_shows
  generalize d.standAsRoot = x at *
  obtain ⟨state, takeover, newroot, leads⟩ := x.ownPath.leadTick_shows
  generalize x.ownPath.leadTick = e at *
  have kept (g : Fld) (h : g.addrOf ∉ [R.tickStatState.addrOf, R.discParentPort.addrOf, R.discHoldTicks.addrOf, I.discTakeover.addrOf]) :
      e.get g = x.get g := (leads.get g 0 0 0 h).trans (x.get_withDisc _ g 0 0 0)
  refine ⟨?_, (kept _ (by decide)).trans generation, (kept _ (by decide)).trans hops, ?_, state, ?_, takeover, newroot,
    (leads.units.ports.trans (x.ports_withDisc _)).trans stands.units.ports, (stands.reports.around_disc _ leads).mono (by decide)⟩
  · rw [Die.isRoot, Die.bit, kept _ (by decide)]
    exact root
  · rw [← serial, Die.root, Die.root, Die.get64, Die.get64, kept _ (by decide), kept _ (by decide)]
  · rw [leads.units.disc]
    rfl

/-! ### LEFT (R300) -/

/-- DISC.STAT of a node that has left. -/
def Die.leftStat : Die := (d.set R.discStatPhase 10).setBit R.discStatIsroot false

theorem exec_left (s : State) :
    exec .left s = act s (fun d =>
      match d.disc.leaving with
      | some n => if 64 ≤ n ∧ d.phase = 9 then d.leftStat.refreshHellos else d
      | none => d) := rfl

theorem Die.leftStat_shows : d.leftStat.phase = 10 ∧ d.leftStat.isRoot = false ∧ OnlyRegs d d.leftStat [R.discStatPhase.addrOf] := by
  refine ⟨?_, Die.bit_setBit _ _ _ _ _ _ (by decide) rfl, ((OnlyRegs.set _ _ _ _ _ _).trans (OnlyRegs.setBit _ _ _ _ _ _)).mono (by decide)⟩
  exact (Die.get_set_other _ (by decide) (by decide)).trans (Die.get_set_fits _ (by decide) (by decide))

/-! ### A lane's CDR lock lost (R169, R182, R287) -/

section
variable (p l : Nat)

/-- Is the lane the one on which the parent's tick arrives? -/
def Die.isParentLane : Bool :=
  d.bit R.discParentValid && d.get R.discParentPort == p && l == (if d.bit R.laneqPstatReversed p then 3 else 0)

/-- The lane without CDR lock, and with it without block and superframe lock. -/
def Die.loseCdr : Die := (d.setBit R.laneqLaneLstatCdrLock false p l).loseBl p l

theorem exec_cdrLockLoss (p : BitVec 6) (l : BitVec 2) (s : State) :
    exec (.cdrLockLoss p l) s = act s (fun d =>
      if d.isParentLane p.toNat l.toNat then
        { d.loseCdr p.toNat l.toNat with disc := { (d.loseCdr p.toNat l.toNat).disc with cdrLost := true } }
      else d.loseCdr p.toNat l.toNat) := rfl

theorem Die.loseBl_cdrLock : (d.loseBl p l).bit R.laneqLaneLstatCdrLock p l = d.bit R.laneqLaneLstatCdrLock p l := by
  have sf (x : Die) : (x.loseSf p l).get R.laneqLaneLstatCdrLock p l = x.get R.laneqLaneLstatCdrLock p l :=
    x.loseSf_get p l _ rfl (by decide) (Loc.apart_of_bits (by decide)) (Loc.apart_of_off rfl rfl (by decide))
  rw [Die.bit, Die.bit]
  cases h : d.bit R.laneqLaneLstatBlLock p l with
  | false => rw [d.loseBl_unlocked p l h, sf]
  | true =>
    rw [d.loseBl_locked p l h, sf, d.blDropped_get p l R.laneqLaneLstatCdrLock (Loc.apart_of_bits (by decide)) (Loc.apart_of_off rfl rfl (by decide))]

/-- A lane in superframe lock that loses its other locks takes its port DOWN. -/
theorem Die.loseBl_down (h : d.bit R.laneqLaneLstatSfLock p l = true) :
    (d.loseBl p l).get R.laneqPstatState p = 0 ∧ (d.loseBl p l).link p = 0 := by
  have down (x : Die) (hx : x.bit R.laneqLaneLstatSfLock p l = true) : (x.loseSf p l).get R.laneqPstatState p = 0 ∧ (x.loseSf p l).link p = 0 :=
    ⟨(x.loseSf_shows p l hx).down.state, (x.loseSf_shows p l hx).down.offline.link⟩
  cases hb : d.bit R.laneqLaneLstatBlLock p l with
  | false =>
    rw [d.loseBl_unlocked p l hb]
    exact down d h
  | true =>
    rw [d.loseBl_locked p l hb]
    refine down _ ?_
    rw [Die.bit, d.blDropped_get p l R.laneqLaneLstatSfLock (Loc.apart_of_bits (by decide)) (Loc.apart_of_off rfl rfl (by decide))]
    exact h

/-- What a lane and its port show once the lane has lost CDR lock. -/
theorem Die.loseCdr_shows :
    let e := d.loseCdr p l
    e.bit R.laneqLaneLstatCdrLock p l = false ∧ e.bit R.laneqLaneLstatBlLock p l = false ∧ e.bit R.laneqLaneLstatSfLock p l = false
      ∧ (d.bit R.laneqLaneLstatSfLock p l = true → e.get R.laneqPstatState p = 0 ∧ e.link p = 0) ∧ OtherPorts d e p ∧ e.disc = d.disc := by
  have cdr : (d.setBit R.laneqLaneLstatCdrLock false p l).bit R.laneqLaneLstatCdrLock p l = false := Die.bit_setBit _ _ _ _ _ _ (by decide) rfl
  have superframe : (d.setBit R.laneqLaneLstatCdrLock false p l).bit R.laneqLaneLstatSfLock p l = d.bit R.laneqLaneLstatSfLock p l := by
    rw [Die.bit, Die.setBit, Die.get_set_apart _ _ _ _ _ _ _ _ _ _ (by decide) (Loc.apart_of_bits (by decide))]
    rfl
  have clears : OnlyRegs d (d.setBit R.laneqLaneLstatCdrLock false p l) [R.laneqLaneLstatCdrLock.addrOf p l] := OnlyRegs.setBit _ _ _ _ _ _
  unfold Die.loseCdr
  generalize d.setBit R.laneqLaneLstatCdrLock false p l = x at *
  have unlocked := x.loseBl_unlocks p l
  have frame := x.loseBl_frame p l
  simp only [Die.unlocked, Bool.and_eq_true, Bool.not_eq_true'] at unlocked
  refine ⟨(x.loseBl_cdrLock p l).trans cdr, unlocked.1, unlocked.2, fun h => x.loseBl_down p l (superframe.trans h), fun q hq => ?_,
    frame.reach.units.disc.trans clears.units.disc⟩
  exact (frame.others q hq).trans (Die.port_congr clears.units.ports q)

end

end

/-! ### The statement -/

/-- Settles O28: each command by the die that it ends with, and what that die shows. -/
theorem holdoverAndFailover : Obligations.HoldoverAndFailover := by
  refine fun s c l ha => ⟨fun ht hr hv hl => ?holdover, fun h => ?noHoldover, fun ht hg hn => ?reparent, fun h => ?noReparent,
    fun ht hk hi => ?out, fun ht hk hr => ?runs, fun ht hk => ?lasts, fun ht hg hn => ?rejoin, fun h => ?noRejoin,
    fun hb hr hc => ?failover, fun h => ?waits, fun hk hp => ?left, fun h => ?stays, ?cdr⟩
  case holdover =>
    refine completes_of_act _ s _ _ rfl ha ?_
    rw [if_pos ⟨ht, .inr ⟨by simp [hr], hv, hl⟩⟩]
    exact s.die.enterHoldover_shows
  case noHoldover => exact becomes_of_act _ s _ _ rfl ha (if_neg fun k => h k.1)
  case reparent =>
    obtain ⟨p, hp⟩ := Option.isSome_iff_exists.1 hn
    obtain ⟨state, ticks, port, valid, path, events, cause, ports, reach⟩ := s.die.reparent_shows (s.die.chooseParent_lt hp)
    refine completes_refreshed (((s.die.takeParent p).set R.tickStatState 1).regainPath.countReparent) (exec_reparent s) ha ?ends fun e hellos => ?_
    case ends =>
      have chosen : s.die.chooseParent s.die.parentLimit = some p := hp
      rw [if_neg (not_not.2 ht), hg, chosen]
    generalize ((s.die.takeParent p).set R.tickStatState 1).regainPath.countReparent = x at *
    refine ⟨(hellos.get _ _ _ _).trans state, (hellos.get _ _ _ _).trans ticks, ?_, ?_, ?_, (hellos.get _ _ _ _).trans events,
      (hellos.hasCause _ _).trans cause, hellos.after ports, reach.then_hellos hellos⟩
    · rw [hellos.get, hp]
      exact port
    · rw [Die.bit, hellos.get]
      exact valid
    · rw [hellos.disc]
      exact path
  case noReparent => exact becomes_of_act _ s _ _ rfl ha (if_pos h)
  case out =>
    obtain ⟨state, phase, cause, reach⟩ := s.die.outRegs_shows
    refine completes_refreshed s.die.outRegs rfl ha ((if_pos ⟨ht, hk⟩).trans (if_pos hi)) fun e hellos => ?_
    exact ⟨(hellos.get _ _ _ _).trans state, (hellos.get _ _ _ _).trans phase, (hellos.hasCause _ _).trans cause, hellos.after reach.units.ports,
      reach.hellos_after hellos⟩
  case runs =>
    refine completes_of_act _ s _ _ rfl ha ?_
    rw [if_pos ⟨ht, hk⟩, if_neg (by simp [hr])]
    exact s.die.expireRundown_shows hr
  case lasts => exact becomes_of_act _ s _ _ rfl ha (if_neg fun k => Nat.not_le.2 hk k.2)
  case rejoin =>
    obtain ⟨p, hp⟩ := Option.isSome_iff_exists.1 hn
    obtain ⟨phase, port, valid, reach⟩ := s.die.rejoin_shows (s.die.chooseParent_lt hp)
    refine completes_refreshed ((s.die.takeParent p).set R.discStatPhase 4) (exec_outRejoin s) ha ?ends fun e hellos => ?_
    case ends => rw [if_neg (not_not.2 ht), hg, hp]
    generalize (s.die.takeParent p).set R.discStatPhase 4 = x at *
    refine ⟨(hellos.get _ _ _ _).trans phase, ?_, ?_, hellos.after reach.units.ports, reach.hellos_after hellos⟩
    · rw [hellos.get, hp]
      exact port
    · rw [Die.bit, hellos.get]
      exact valid
  case noRejoin => exact becomes_of_act _ s _ _ rfl ha (if_pos h)
  case failover =>
    obtain ⟨root, generation, hops, serial, state, path, takeover, newroot, ports, reach⟩ := s.die.failover_shows
    refine completes_refreshed s.die.standAsRoot.ownPath.leadTick rfl ha ((if_pos (by simp [hb, hr, hc])).trans s.die.failover_eq) fun e hellos => ?_
    generalize s.die.standAsRoot.ownPath.leadTick = x at *
    refine ⟨?_, (hellos.get _ _ _ _).trans generation, (hellos.get _ _ _ _).trans hops, ?_, (hellos.get _ _ _ _).trans state, ?_,
      (hellos.hasCause _ _).trans takeover, (hellos.hasCause _ _).trans newroot, hellos.after ports, reach.then_hellos hellos⟩
    · rw [Die.isRoot, Die.bit, hellos.get]
      exact root
    · rw [← serial, Die.root, Die.root, Die.get64, Die.get64, hellos.get, hellos.get]
    · rw [hellos.disc]
      exact path
  case waits =>
    refine becomes_of_act _ s _ _ rfl ha (if_neg ?_)
    simp [Nat.not_le.2 h]
  case left =>
    obtain ⟨phase, root, reach⟩ := s.die.leftStat_shows
    refine completes_refreshed s.die.leftStat (exec_left s) ha ?ends fun e hellos => ?_
    case ends =>
      cases leaving : s.die.disc.leaving with
      | none => exact absurd hk (by simp [leaving])
      | some n => exact if_pos ⟨by simpa [leaving] using hk, hp⟩
    refine ⟨(hellos.get _ _ _ _).trans phase, ?_, hellos.after reach.units.ports, reach.hellos_after hellos⟩
    rw [Die.isRoot, Die.bit, hellos.get]
    exact root
  case stays =>
    refine becomes_of_act _ s _ _ (exec_left s) ha ?_
    rw [h]
  case cdr =>
    obtain ⟨cdr, block, superframe, down, others, disc⟩ := s.die.loseCdr_shows c.toNat l.toNat
    refine completes_of_act _ s _ _ (exec_cdrLockLoss c l s) ha ?_
    generalize s.die.loseCdr c.toNat l.toNat = x at *
    cases parent : s.die.isParentLane c.toNat l.toNat with
    | true =>
      refine ⟨cdr, block, superframe, down, others, ?_⟩
      rw [← disc, show (_ && _ && _) = true from parent, Bool.or_true]
      rfl
    | false =>
      refine ⟨cdr, block, superframe, down, others, ?_⟩
      rw [show (_ && _ && _) = false from parent, Bool.or_false]
      exact disc

end Sys2Proof.Machine
end

section
/-!
PROOF. The election of a root, its walks, and what the first root shows (R263, R264, R268 to R270).
-/
namespace Sys2Proof.Machine

/-! ### Packed sizes -/

/-- A packed size that is replaced reads as the new one, and the others stay. -/
theorem sizeOf_setSize (s v : Nat) {a b : Nat} (ha : a < 3) (hb : b < 3) :
    sizeOf (setSize s a v) b = if b = a then v % 16 else sizeOf s b := by
  unfold setSize sizeOf
  interval_cases a <;> interval_cases b <;> simp <;> omega

/-- A packed size that is replaced stays within the word that holds the sizes. -/
theorem setSize_lt {s n a : Nat} (v : Nat) (hn : n = 12 ∨ n = 24) (hs : s < 2 ^ n) (ha : a < 3) : setSize s a v < 2 ^ n := by
  unfold setSize sizeOf
  rcases hn with rfl | rfl
  · interval_cases a <;> omega
  · interval_cases a <;> omega

section
variable (d : Die)

/-- The size of an axis is written. -/
def Die.putSize (a v : Nat) : Die := d.set R.discCoordSizes (setSize (d.get R.discCoordSizes) a v)

theorem Die.size_putSize (v : Nat) {a b : Nat} (ha : a < 3) (hb : b < 3) : (d.putSize a v).size b = if b = a then v % 16 else d.size b := by
  have fits := setSize_lt v (.inl rfl) (d.get_lt R.discCoordSizes 0 0 0) ha
  rw [Die.size, Die.putSize, Die.get_set_fits _ (by decide) fits, sizeOf_setSize _ _ ha hb]
  rfl

theorem Die.putSize_reach (a v : Nat) : OnlyRegs d (d.putSize a v) [R.discCoordSizes.addrOf] := OnlyRegs.set _ _ _ _ _ _

theorem Die.setWalk_disc (a v : Nat) : (d.setWalk a v).disc = { d.disc with walk := (d.setWalk a v).disc.walk } := rfl

theorem Die.walk_setWalk {a b : Nat} (ha : a < 3) (hb : b < 3) :
    sizeOf (d.setWalk a 1).disc.walk.toNat b = if b = a then 1 else sizeOf d.disc.walk.toNat b := by
  have fits := setSize_lt 1 (.inr rfl) d.disc.walk.isLt ha
  have walk : (d.setWalk a 1).disc.walk.toNat = setSize d.disc.walk.toNat a 1 := (BitVec.toNat_ofNat _ _).trans (Nat.mod_eq_of_lt fits)
  rw [walk, sizeOf_setSize _ _ ha hb]

end

/-! ### The walks start (R263, R268) -/

theorem Die.bundle_congr {d e : Die} (hc : e.casc = d.casc) (hd : e.get R.cascCfgDies = d.get R.cascCfgDies) (hp : e.pos = d.pos) (dir : Nat) :
    e.bundle dir = d.bundle dir := by
  unfold Die.bundle Die.nodeRole Die.role Die.attrOf
  rw [hc, hd, hp]

section
variable (d : Die)

/-- Has an axis no port in its + direction, so that it is walked at once? -/
def Die.shortAxis (a : Nat) : Bool := (d.bundle (2 * a)).isEmpty

/-- An axis without a + port has size 1; the walk of another starts with 1. -/
def Die.walkAxis (a : Nat) : Die := if d.shortAxis a then d.putSize a 1 else d.setWalk a 1

/-- A node that becomes root-elect. -/
def Die.elected : Die := ({ d with disc := { d.disc with rootElect := true } } : Die).set R.discStatPhase 2

theorem Die.startWalks_eq : d.startWalks = (d.elected.forAll (List.range 3) Die.walkAxis).walksEnd.refreshHellos := rfl

end

/-- 1 for an axis below `n` that meets a condition. -/
def axisFlag (c : Nat → Bool) (n b : Nat) : Nat := if b < n ∧ c b = true then 1 else 0

theorem axisFlag_add {c : Nat → Bool} {n : Nat} (h : c n = true) (b : Nat) : axisFlag c (n + 1) b = if b = n then 1 else axisFlag c n b := by
  unfold axisFlag
  by_cases same : b = n
  · simp [same, h]
  · have below : b < n + 1 ↔ b < n := by omega
    simp [same, below]

theorem axisFlag_skip {c : Nat → Bool} {n : Nat} (h : c n = false) (b : Nat) : axisFlag c (n + 1) b = axisFlag c n b := by
  unfold axisFlag
  by_cases same : b = n
  · simp [same, h]
  · have below : b < n + 1 ↔ b < n := by omega
    simp [below]

/-- The walks of the axes below `n` have started: from the die `d`, with no size and no walk known, the die `e`. -/
structure WalksStarted (d e : Die) (n : Nat) : Prop where
  sizes : ∀ b < 3, e.size b = axisFlag d.shortAxis n b
  walks : ∀ b < 3, sizeOf e.disc.walk.toNat b = axisFlag (fun a => !d.shortAxis a) n b
  disc : e.disc = { d.disc with walk := e.disc.walk }
  reach : OnlyRegs d { e with disc := d.disc } [R.discCoordSizes.addrOf]

theorem OnlyRegs.trans_disc {d e f : Die} {as bs : List Nat} (h : OnlyRegs d { e with disc := d.disc } as) (k : OnlyRegs e f bs) :
    OnlyRegs d { f with disc := d.disc } (as ++ bs) :=
  h.trans { k with units := { k.units with disc := rfl } }

/-- Discovery's own state changed once more. -/
theorem OnlyRegs.then_disc {d e f : Die} {as bs : List Nat} (h : OnlyRegs d { e with disc := d.disc, ports := d.ports } as)
    (k : OnlyRegs e { f with disc := e.disc } bs) : OnlyRegs d { f with disc := d.disc, ports := d.ports } (as ++ bs) :=
  h.trans { k with units := { k.units with disc := rfl, ports := rfl } }

section
variable {d e : Die} {n : Nat}

theorem WalksStarted.shortAxis (h : WalksStarted d e n) (a : Nat) : e.shortAxis a = d.shortAxis a := by
  have casc : e.casc = d.casc := h.reach.units.casc
  have dies : e.get R.cascCfgDies = d.get R.cascCfgDies := h.reach.get _ _ _ _ (by decide)
  have pos : e.pos = d.pos := h.reach.get R.chipStrapCascPos _ _ _ (by decide)
  rw [Die.shortAxis, Die.bundle_congr casc dies pos, Die.shortAxis]

theorem WalksStarted.next (h : WalksStarted d e n) (hn : n < 3) : WalksStarted d (e.walkAxis n) (n + 1) := by
  have short := h.shortAxis n
  obtain ⟨sizes, walks, disc, reach⟩ := h
  cases hs : d.shortAxis n with
  | true =>
    have step : e.walkAxis n = e.putSize n 1 := if_pos (short.trans hs)
    rw [step]
    refine ⟨fun b hb => ?_, fun b hb => ?_, disc, (reach.trans_disc (e.putSize_reach n 1)).mono (by decide)⟩
    · rw [axisFlag_add hs, e.size_putSize 1 hn hb, sizes b hb]
    · rw [axisFlag_skip (by simp [hs]), ← walks b hb]
      rfl
  | false =>
    have step : e.walkAxis n = e.setWalk n 1 := if_neg (ne_true_of_eq_false (short.trans hs))
    rw [step]
    refine ⟨fun b hb => ?_, fun b hb => ?_, ?_, reach⟩
    · rw [axisFlag_skip hs, ← sizes b hb]
      rfl
    · rw [axisFlag_add (by simp [hs]), e.walk_setWalk hn hb, walks b hb]
    · refine (e.setWalk_disc n 1).trans ?_
      generalize (e.setWalk n 1).disc.walk = w
      rw [disc]

theorem WalksStarted.all (hs : d.get R.discCoordSizes = 0) (hw : d.disc.walk = 0) (hn : n ≤ 3) :
    WalksStarted d (d.forAll (List.range n) Die.walkAxis) n := by
  induction n with
  | zero =>
    refine ⟨fun b _ => ?_, fun b _ => ?_, rfl, OnlyRegs.refl _ _⟩
    · simp [Die.forAll, Die.size, sizeOf, hs, axisFlag]
    · simp [Die.forAll, sizeOf, hw, axisFlag]
  | succ n ih =>
    have more : d.forAll (List.range (n + 1)) Die.walkAxis = (d.forAll (List.range n) Die.walkAxis).walkAxis n := by
      simp [Die.forAll, List.range_succ]
    rw [more]
    exact (ih (by omega)).next (by omega)

end

section
variable (d : Die)

/-- Walks go on while a size is unknown. -/
theorem Die.walksEnd_open {a : Nat} (ha : a < 3) (h : d.size a = 0) : d.walksEnd = d := by
  refine if_neg fun k => ?_
  have known := List.all_eq_true.1 (Bool.and_eq_true_iff.1 k).2 a (List.mem_range.2 ha)
  simp [h] at known

/-- The root-elect's walks as they start. -/
def Die.walking : Die := d.elected.forAll (List.range 3) Die.walkAxis

theorem Die.elected_shortAxis (a : Nat) : d.elected.shortAxis a = d.shortAxis a := by
  have reach : OnlyRegs { d with disc := { d.disc with rootElect := true } } d.elected [R.discStatPhase.addrOf] := OnlyRegs.set _ _ _ _ _ _
  have dies : d.elected.get R.cascCfgDies = d.get R.cascCfgDies := (reach.get _ _ _ _ (by decide)).trans (d.get_withDisc _ _ _ _ _)
  have pos : d.elected.pos = d.pos := (reach.get R.chipStrapCascPos _ _ _ (by decide)).trans (d.get_withDisc _ _ _ _ _)
  rw [Die.shortAxis, Die.bundle_congr (d := d) reach.units.casc dies pos, Die.shortAxis]

/-- What the root-elect shows as its walks start: the sizes and the walks of all axes, and how far the start reaches. -/
theorem Die.walking_shows (hs : d.get R.discCoordSizes = 0) (hw : d.disc.walk = 0) :
    let e := d.walking
    e.phase = 2 ∧ (∀ b < 3, e.size b = if d.shortAxis b then 1 else 0) ∧ (∀ b < 3, d.shortAxis b = false → sizeOf e.disc.walk.toNat b = 1)
      ∧ e.disc = { d.disc with rootElect := true, walk := e.disc.walk } ∧ e.ports = d.ports
      ∧ OnlyRegs d { e with disc := d.disc, ports := d.ports } [R.discStatPhase.addrOf, R.discCoordSizes.addrOf] := by
  have elects : OnlyRegs { d with disc := { d.disc with rootElect := true } } d.elected [R.discStatPhase.addrOf] := OnlyRegs.set _ _ _ _ _ _
  have phase : d.elected.phase = 2 := Die.get_set_fits _ (by decide) (by decide)
  have unknown : d.elected.get R.discCoordSizes = 0 := ((elects.get _ _ _ _ (by decide)).trans (d.get_withDisc _ _ _ _ _)).trans hs
  have short := d.elected_shortAxis
  have start : WalksStarted d.elected d.walking 3 := .all unknown ((congrArg DiscSt.walk elects.units.disc).trans hw) (Nat.le_refl 3)
  generalize d.walking = e at *
  generalize d.elected = x at *
  obtain ⟨sizes, walks, disc, reach⟩ := start
  refine ⟨(reach.get R.discStatPhase _ _ _ (by decide)).trans phase, fun b hb => ?_, fun b hb axis => ?_, ?_,
    reach.units.ports.trans elects.units.ports, ?_⟩
  · simp [sizes b hb, axisFlag, hb, short]
  · simp [walks b hb, axisFlag, hb, short, axis]
  · refine disc.trans ?_
    rw [elects.units.disc]
  · exact (OnlyRegs.after_disc _ elects).then_disc reach

/-! ### The election (R263, R264) -/

/-- Does the node stand for root: it is FORMED, no neighbour has RPATH, and its own serial is its ROOT? -/
def Die.standsForRoot : Bool := d.isMaster && d.phase == 1 && d.rooted.isNone && d.bit R.discCfgElig && d.root == d.serial

theorem Die.standsForRoot_iff : d.standsForRoot = true
    ↔ d.isMaster = true ∧ d.phase = 1 ∧ d.rooted = none ∧ d.bit R.discCfgElig = true ∧ d.root = d.serial := by
  simp [Die.standsForRoot, and_assoc]

theorem exec_rootElection (s : State) : exec .rootElection s = act s (fun d => if d.standsForRoot then d.startWalks else d) := rfl

theorem exec_candidacyPass (s : State) : exec .candidacyPass s = act s (fun d => if d.standsForRoot then d.startWalks else d) := rfl

theorem Die.startWalks_open {a : Nat} (ha : a < 3) (hs : d.get R.discCoordSizes = 0) (hw : d.disc.walk = 0) (hb : d.shortAxis a = false) :
    d.startWalks = d.walking.refreshHellos := by
  obtain ⟨-, sizes, -⟩ := d.walking_shows hs hw
  have unknown : d.walking.size a = 0 := by rw [sizes a ha, hb, if_neg Bool.false_ne_true]
  rw [Die.startWalks_eq, ← Die.walking, d.walking.walksEnd_open ha unknown]

/-- What the start of the walks shows: the root-elect, with a walk on every axis that has a + port and size 1 on the others. -/
theorem Die.startWalks_shows {a : Nat} (ha : a < 3) (hs : d.get R.discCoordSizes = 0) (hw : d.disc.walk = 0) (hb : d.shortAxis a = false) :
    let e := d.startWalks
    e.phase = 2 ∧ e.disc.rootElect = true ∧ sizeOf e.disc.walk.toNat a = 1 ∧ e.size a = 0
      ∧ (List.range 3).all (fun b => e.size b == if (d.bundle (2 * b)).isEmpty then 1 else 0) = true
      ∧ e.disc = { d.disc with rootElect := true, walk := e.disc.walk } ∧ HellosOnly d e
      ∧ OnlyRegs d { e with disc := d.disc, ports := d.ports } [R.discStatPhase.addrOf, R.discCoordSizes.addrOf] := by
  obtain ⟨phase, sizes, counts, disc, ports, reach⟩ := d.walking_shows hs hw
  dsimp only
  rw [d.startWalks_open ha hs hw hb]
  have hellos := d.walking.refreshHellos_sends
  generalize d.walking = x at *
  generalize x.refreshHellos = e at *
  have size (b : Nat) : e.size b = x.size b := by rw [Die.size, Die.size, hellos.get]
  refine ⟨(hellos.get _ _ _ _).trans phase, ?_, ?_, ?_, ?_, ?_, hellos.after ports, reach.then_hellos hellos⟩
  · rw [hellos.disc, disc]
  · rw [hellos.disc]
    exact counts a ha hb
  · rw [size, sizes a ha, hb]
    rfl
  · refine List.all_eq_true.2 fun b hb => beq_iff_eq.2 ?_
    exact (size b).trans (sizes b (List.mem_range.1 hb))
  · rw [hellos.disc]
    exact disc

/-! ### The first root (R263, R268, R269) -/

/-- DISC.STAT and DISC.COORD of the first root, at the origin. -/
def Die.firstStat : Die :=
  ((((d.set R.discStatRootGen 1).setBit R.discStatIsroot true).set R.discStatHops 0).set R.discCoordXyz 0).setBit R.discCoordValid true

/-- The first root shows its own serial as ROOT, and has joined. -/
def Die.firstRoot : Die := (d.firstStat.set64 R.discRootLo R.discRootHi d.firstStat.serial).set R.discStatPhase 7

/-- The path to the root is the node's own, and its walks have ended. -/
def Die.firstPath : Die := { d with disc := { d.disc with rpath := true, rootElect := false, flock := true } }

/-- The node is LOCKED, with the causes of a root that has joined. -/
def Die.firstTick : Die := ((d.set R.tickStatState 1).raise I.discNewroot).raise I.discJoined

theorem Die.becomeFirstRoot_eq (h : d.meshTooBig = false) : d.becomeFirstRoot = d.firstRoot.firstPath.firstTick.refreshHellos :=
  if_neg (ne_true_of_eq_false h)

theorem Die.firstStat_shows : d.firstStat.isRoot = true ∧ d.firstStat.get R.discStatRootGen = 1 ∧ d.firstStat.get R.discStatHops = 0
    ∧ d.firstStat.get R.discCoordXyz = 0 ∧ d.firstStat.bit R.discCoordValid = true
    ∧ d.firstStat.get R.discCoordSizes = d.get R.discCoordSizes ∧ OnlyRegs d d.firstStat [R.discStatPhase.addrOf, R.discCoordSizes.addrOf] := by
  refine ⟨?_, ?_, ?_, ?_, Die.bit_setBit _ _ _ _ _ _ (by decide) rfl, ?_, ?_⟩
  · unfold Die.firstStat Die.isRoot Die.bit Die.setBit
    simp (disch := decide) only [Die.get_set_other]
    exact Die.bit_setBit (d.set R.discStatRootGen 1) R.discStatIsroot true 0 0 0 (by decide) rfl
  · unfold Die.firstStat Die.setBit
    simp (disch := decide) only [Die.get_set_fits, Die.get_set_other]
  · unfold Die.firstStat Die.setBit
    simp (disch := decide) only [Die.get_set_fits, Die.get_set_other]
  · unfold Die.firstStat Die.setBit
    simp (disch := decide) only [Die.get_set_fits, Die.get_set_other]
  · unfold Die.firstStat Die.setBit
    simp (disch := decide) only [Die.get_set_other]
  · exact (((((OnlyRegs.set _ _ _ _ _ _).trans (OnlyRegs.setBit _ _ _ _ _ _)).trans (OnlyRegs.set _ _ _ _ _ _)).trans
      (OnlyRegs.set _ _ _ _ _ _)).trans (OnlyRegs.setBit _ _ _ _ _ _)).mono (by decide)

/-- What the registers of a first root show of the die `d`. -/
structure ShowsFirstRoot (d e : Die) : Prop where
  isRoot : e.isRoot = true
  generation : e.get R.discStatRootGen = 1
  xyz : e.get R.discCoordXyz = 0
  valid : e.bit R.discCoordValid = true
  hops : e.get R.discStatHops = 0
  phase : e.phase = 7
  root : e.root = d.serial
  sizes : e.get R.discCoordSizes = d.get R.discCoordSizes

theorem Die.firstRoot_shows : ShowsFirstRoot d d.firstRoot
    ∧ OnlyRegs d d.firstRoot [R.discStatPhase.addrOf, R.discCoordSizes.addrOf, R.discRootLo.addrOf, R.discRootHi.addrOf] := by
  obtain ⟨root, generation, hops, xyz, valid, sizes, stat⟩ := d.firstStat_shows
  have serial : d.firstStat.serial = d.serial := by
    rw [Die.serial, Die.serial, Die.get64, Die.get64, stat.get _ _ _ _ (by decide), stat.get _ _ _ _ (by decide)]
  unfold Die.firstRoot
  rw [serial]
  generalize d.firstStat = x at *
  have roots := OnlyRegs.set64 x R.discRootLo R.discRootHi d.serial
  have own : (x.set64 R.discRootLo R.discRootHi d.serial).root = d.serial :=
    Die.get64_set64 _ (by decide) (by decide) (by decide) d.serial_lt
  generalize x.set64 R.discRootLo R.discRootHi d.serial = y at *
  have kept (g : Fld) (hr : g.addrOf ∉ [R.discRootLo.addrOf, R.discRootHi.addrOf])
      (hp : R.discStatPhase.addrOf ≠ g.addrOf ∨ R.discStatPhase.lsb + R.discStatPhase.width ≤ g.lsb ∨ g.lsb + g.width ≤ R.discStatPhase.lsb) :
      (y.set R.discStatPhase 7).get g = x.get g := (y.get_set_other (by decide) hp).trans (roots.get g 0 0 0 hr)
  refine ⟨⟨?_, (kept _ (by decide) (by decide)).trans generation, (kept _ (by decide) (by decide)).trans xyz, ?_,
    (kept _ (by decide) (by decide)).trans hops, Die.get_set_fits _ (by decide) (by decide), ?_, (kept _ (by decide) (by decide)).trans sizes⟩,
    ((stat.trans roots).trans (OnlyRegs.set _ _ _ _ _ _)).mono (by decide)⟩
  · rw [Die.isRoot, Die.bit, kept _ (by decide) (by decide)]
    exact root
  · rw [Die.bit, kept _ (by decide) (by decide)]
    exact valid
  · rw [← own, Die.root, Die.root, Die.get64, Die.get64, Die.get_set_other _ (by decide) (by decide), Die.get_set_other _ (by decide) (by decide)]

theorem Die.firstTick_shows : d.firstTick.tstate = 1 ∧ d.firstTick.hasCause I.discNewroot = true ∧ d.firstTick.hasCause I.discJoined = true
    ∧ OnlyReports d d.firstTick [R.tickStatState.addrOf, I.discNewroot.addrOf] := by
  refine ⟨?_, Die.hasCause_raise_of _ _ _ _ _ _ (Die.hasCause_raise _ _ _ _ (by decide)), Die.hasCause_raise _ _ _ _ (by decide), ?_⟩
  · unfold Die.firstTick Die.tstate
    simp (disch := decide) only [Die.get_set_fits, Die.get_raise]
  · exact (((OnlyRegs.set _ _ _ _ _ _).reports.trans (OnlyReports.raise _ _ _ _)).trans (OnlyReports.raise _ _ _ _)).mono (by decide)

/-- What a node shows that becomes the first root, before its hellos. -/
theorem Die.becomeFirstRoot_shows :
    let e := d.firstRoot.firstPath.firstTick
    ShowsFirstRoot d e ∧ e.tstate = 1 ∧ e.disc.rpath = true ∧ e.hasCause I.discNewroot = true ∧ e.hasCause I.discJoined = true ∧ e.ports = d.ports
      ∧ OnlyReports d { e with disc := d.disc, ports := d.ports } [R.discStatPhase.addrOf, R.discCoordSizes.addrOf, R.discRootLo.addrOf,
          R.discRootHi.addrOf, R.tickStatState.addrOf, I.discNewroot.addrOf] := by
  obtain ⟨shows, stands⟩ := d.firstRoot_shows
  generalize d.firstRoot = x at *
  obtain ⟨state, newroot, joined, locks⟩ := x.firstPath.firstTick_shows
  generalize x.firstPath.firstTick = e at *
  have kept (g : Fld) (h : g.addrOf ∉ [R.tickStatState.addrOf, I.discNewroot.addrOf]) : e.get g = x.get g :=
    (locks.get g 0 0 0 h).trans (x.get_withDisc _ g 0 0 0)
  obtain ⟨root, generation, xyz, valid, hops, phase, serial, sizes⟩ := shows
  refine ⟨⟨?_, (kept _ (by decide)).trans generation, (kept _ (by decide)).trans xyz, ?_, (kept _ (by decide)).trans hops,
    (kept _ (by decide)).trans phase, ?_, (kept _ (by decide)).trans sizes⟩, state, ?_, newroot, joined,
    (locks.units.ports.trans (x.ports_withDisc _)).trans stands.units.ports, (stands.reports.around_disc _ locks).mono (by decide)⟩
  · rw [Die.isRoot, Die.bit, kept _ (by decide)]
    exact root
  · rw [Die.bit, kept _ (by decide)]
    exact valid
  · rw [← serial, Die.root, Die.root, Die.get64, Die.get64, kept _ (by decide), kept _ (by decide)]
  · rw [locks.units.disc]
    rfl

/-! ### A walk that does not return (R270) -/

/-- The ports on which an axis is walked. -/
def Die.walkPorts (a : Nat) : List Nat := d.portsWith (fun p => d.isTrunk p && d.attrOf p == 2 * a && d.helloAllowed p)

theorem exec_walkTimeout (a : Fin 3) (s : State) :
    exec (.walkTimeout a) s = act s (fun d =>
      if d.disc.rootElect && d.size a.val == 0 then
        if d.cfgSize a.val ≠ 0 then (d.putSize a.val (d.cfgSize a.val)).walksEnd
        else d.forAll (d.walkPorts a.val) (fun d p => d.sendHello p 9)
      else d) := rfl

/-- The mesh limit holds where the sizes but for one are 1. -/
theorem Die.meshTooBig_line {a : Fin 3} (ha : d.size a.val ≤ 8) (ho : ∀ b : Fin 3, b ≠ a → d.size b.val = 1) : d.meshTooBig = false := by
  have lengths : (d.size 0 - 1) + (d.size 1 - 1) + (d.size 2 - 1) ≤ 12 := by
    fin_cases a
    · have y := ho 1 (by decide)
      have z := ho 2 (by decide)
      simp at ha y z
      omega
    · have x := ho 0 (by decide)
      have z := ho 2 (by decide)
      simp at ha x z
      omega
    · have x := ho 0 (by decide)
      have y := ho 1 (by decide)
      simp at ha x y
      omega
  simp [Die.meshTooBig, lengths]

/-- The last size that was missing ends the walks, and the root-elect becomes the first root. -/
theorem Die.walksEnd_last {a : Fin 3} (he : d.disc.rootElect = true) (h0 : d.size a.val ≠ 0) (h8 : d.size a.val ≤ 8)
    (ho : ∀ b : Fin 3, b ≠ a → d.size b.val = 1) : d.walksEnd = d.firstRoot.firstPath.firstTick.refreshHellos := by
  refine (if_pos ?_).trans (d.becomeFirstRoot_eq (d.meshTooBig_line h8 ho))
  refine Bool.and_eq_true_iff.2 ⟨he, List.all_eq_true.2 fun b hb => ?_⟩
  have known : d.size (⟨b, List.mem_range.1 hb⟩ : Fin 3).val ≠ 0 := by
    by_cases same : (⟨b, List.mem_range.1 hb⟩ : Fin 3) = a
    · rw [same]
      exact h0
    · rw [ho _ same]
      decide
  simpa using known

/-- What the last size that was missing makes of the root-elect, as it is written: the first root. -/
theorem Die.putSize_lastWalk {a : Fin 3} (he : d.disc.rootElect = true) (hc : d.cfgSize a.val ≠ 0)
    (ho : ∀ b : Fin 3, b ≠ a → d.size b.val = 1) (h8 : d.cfgSize a.val ≤ 8) :
    let e := (d.putSize a.val (d.cfgSize a.val)).walksEnd
    e.size a.val = d.cfgSize a.val ∧ e.isRoot = true ∧ e.get R.discStatRootGen = 1
        ∧ e.get R.discCoordXyz = 0 ∧ e.bit R.discCoordValid = true ∧ e.get R.discStatHops = 0 ∧ e.phase = 7 ∧ e.tstate = 1 ∧ e.root = d.serial
        ∧ e.disc.rpath = true ∧ e.hasCause I.discNewroot = true ∧ e.hasCause I.discJoined = true ∧ HellosOnly d e
        ∧ OnlyReports d { e with disc := d.disc, ports := d.ports }
            [R.discStatPhase.addrOf, R.discCoordSizes.addrOf, R.discRootLo.addrOf, R.discRootHi.addrOf, R.tickStatState.addrOf, I.discNewroot.addrOf] := by
  have own : (d.putSize a.val (d.cfgSize a.val)).size a.val = d.cfgSize a.val := by
    rw [d.size_putSize _ a.isLt a.isLt, if_pos rfl]
    omega
  have others (b : Fin 3) (hb : b ≠ a) : (d.putSize a.val (d.cfgSize a.val)).size b.val = 1 := by
    rw [d.size_putSize _ a.isLt b.isLt, if_neg (fun k => hb (Fin.ext k)), ho b hb]
  have puts := d.putSize_reach a.val (d.cfgSize a.val)
  have serial : (d.putSize a.val (d.cfgSize a.val)).serial = d.serial := by
    rw [Die.serial, Die.serial, Die.get64, Die.get64, puts.get _ _ _ _ (by decide), puts.get _ _ _ _ (by decide)]
  generalize d.putSize a.val (d.cfgSize a.val) = x at *
  have ends := x.walksEnd_last (a := a) ((congrArg DiscSt.rootElect puts.units.disc).trans he) (own ▸ hc) (own ▸ h8) others
  obtain ⟨⟨root, generation, xyz, valid, hops, phase, own_, sizes⟩, state, rpath, newroot, joined, ports, reach⟩ := x.becomeFirstRoot_shows
  dsimp only
  rw [ends]
  generalize x.firstRoot.firstPath.firstTick = y at *
  have hellos := y.refreshHellos_sends
  generalize y.refreshHellos = e at *
  refine ⟨?_, ?_, (hellos.get _ _ _ _).trans generation, (hellos.get _ _ _ _).trans xyz, ?_, (hellos.get _ _ _ _).trans hops,
    (hellos.get _ _ _ _).trans phase, (hellos.get _ _ _ _).trans state, ?_, ?_, (hellos.hasCause _ _).trans newroot,
    (hellos.hasCause _ _).trans joined, hellos.after (ports.trans puts.units.ports), ?_⟩
  · rw [Die.size, hellos.get, sizes]
    exact own
  · rw [Die.isRoot, Die.bit, hellos.get]
    exact root
  · rw [Die.bit, hellos.get]
    exact valid
  · rw [← serial, ← own_, Die.root, Die.root, Die.get64, Die.get64, hellos.get, hellos.get]
  · rw [hellos.disc]
    exact rpath
  · exact ((puts.then_disc_ports reach).then_hellos hellos).mono (by decide)

end

end Sys2Proof.Machine
end

section
/-!
PROOF. Hellos: a fragment that arrives, the checks on a complete hello, the periodic hellos, and the statement about hellos and root (R110, R254 to R260,
R274).
-/
namespace Sys2Proof.Machine

/-- The fragment that gives a sample of the latency is fragment 15. -/
theorem toNat_ne_15 {frag : BitVec 4} (h : frag ≠ 15) : frag.toNat ≠ 15 := fun k => h (BitVec.eq_of_toNat_eq k)

section
variable {d : Die} {p : Nat}

theorem Die.role_ne_zero_of_drop (h : d.isDrop p = true) : d.role p ≠ 0 := by
  have one : d.role p = 1 := beq_iff_eq.1 h
  omega

theorem Die.role_ne_zero_of_trunk (h : d.isTrunk p = true) : d.role p ≠ 0 := by
  have two : d.role p = 2 := beq_iff_eq.1 h
  omega

theorem Die.isDrop_of_trunk (h : d.isTrunk p = true) : ¬ d.isDrop p = true := by
  have two : d.role p = 2 := beq_iff_eq.1 h
  simp [Die.isDrop, two]

theorem Die.isDrop_of_stack (h : d.isStack p = true) : ¬ d.isDrop p = true := by
  have three : d.role p = 3 := beq_iff_eq.1 h
  simp [Die.isDrop, three]

end

section
variable (d : Die) (p : Nat)

/-! ### A fragment is kept (R255, R258) -/

/-- The fragment joins what the port holds, the latest of its number. -/
def Die.keepFrag (frag : Nat) (data : BitVec 32) : Die :=
  d.modPort p (fun _ => { d.port p with hello := smapSet none (d.port p).hello frag (some data) })

/-- Fragment 15 gives a sample of the latency, but for a DROP port's. -/
def Die.sampleFrag (frag data : Nat) : Die := if frag = 15 && !d.isDrop p then d.takeSample p data else d

/-- What follows on a fragment that is kept: a sample of the latency, and the checks on a complete hello. -/
def Die.useFrag (frag data : Nat) : Die :=
  if (d.sampleFrag p frag data).helloComplete p then (d.sampleFrag p frag data).checkHello p frag else d.sampleFrag p frag data

/-- The effect of a fragment that arrives. -/
def Die.takeFrag (frag : Nat) (data : BitVec 32) : Die :=
  if d.link p = 0 || d.role p = 0 then d
  else if d.isDrop p && decide (2 < frag) then d.protoErr p
  else (d.keepFrag p frag data).useFrag p frag data.toNat

theorem exec_helloRx (p : BitVec 6) (frag : BitVec 4) (data : BitVec 32) (s : State) :
    exec (.helloRx p frag data) s = act s (fun d => d.takeFrag p.toNat frag.toNat data) := rfl

section
variable {d p} {frag : Nat} {data : BitVec 32}

theorem Die.takeFrag_off (h : d.link p = 0 ∨ d.role p = 0) : d.takeFrag p frag data = d := if_pos (by simpa using h)

theorem Die.takeFrag_beyond (hl : d.link p ≠ 0) (hd : d.isDrop p = true) (hf : 2 < frag) : d.takeFrag p frag data = d.protoErr p := by
  have role := Die.role_ne_zero_of_drop hd
  exact (if_neg (by simp [hl, role])).trans (if_pos (by simp [hd, hf]))

/-- A fragment that the port takes: its link is up, it has a role, and a DROP port's fragment is one of three. -/
theorem Die.takeFrag_taken (hl : d.link p ≠ 0) (hr : d.role p ≠ 0) (hf : d.isDrop p = true → frag ≤ 2) :
    d.takeFrag p frag data = (d.keepFrag p frag data).useFrag p frag data.toNat := by
  have few : (d.isDrop p && decide (2 < frag)) = false := by
    cases drop : d.isDrop p with
    | false => rfl
    | true => simpa using hf drop
  exact (if_neg (by simp [hl, hr])).trans (if_neg (ne_true_of_eq_false few))

end

theorem Die.keepFrag_changes (frag : Nat) (data : BitVec 32) :
    ChangesPort d (d.keepFrag p frag data) p { d.port p with hello := smapSet none (d.port p).hello frag (some data) } :=
  ChangesPort.modPort d p _

theorem Die.keepFrag_reach (frag : Nat) (data : BitVec 32) : OnlyRegs d { d.keepFrag p frag data with ports := d.ports } [] := OnlyRegs.refl d _

section
variable {p} {frag data : Nat}

theorem Die.sampleFrag_other (hf : frag ≠ 15) : d.sampleFrag p frag data = d := if_neg (by simp [hf])

theorem Die.useFrag_partial {data : Nat} (hf : frag ≠ 15) (h : d.helloComplete p = false) : d.useFrag p frag data = d := by
  rw [Die.useFrag, d.sampleFrag_other hf, if_neg (ne_true_of_eq_false h)]

theorem Die.useFrag_whole {data : Nat} (hf : frag ≠ 15) (h : d.helloComplete p = true) : d.useFrag p frag data = d.checkHello p frag := by
  rw [Die.useFrag, d.sampleFrag_other hf, if_pos h]

theorem Die.takeFrag_partial {data : BitVec 32} (hl : d.link p ≠ 0) (hr : d.role p ≠ 0) (few : d.isDrop p = true → frag ≤ 2) (hf : frag ≠ 15)
    (h : (d.keepFrag p frag data).helloComplete p = false) : d.takeFrag p frag data = d.keepFrag p frag data :=
  (Die.takeFrag_taken hl hr few).trans (Die.useFrag_partial _ hf h)

theorem Die.takeFrag_whole {data : BitVec 32} (hl : d.link p ≠ 0) (hr : d.role p ≠ 0) (few : d.isDrop p = true → frag ≤ 2) (hf : frag ≠ 15)
    (h : (d.keepFrag p frag data).helloComplete p = true) : d.takeFrag p frag data = (d.keepFrag p frag data).checkHello p frag :=
  (Die.takeFrag_taken hl hr few).trans (Die.useFrag_whole _ hf h)

/-- A sample of the latency changes the samples alone. -/
theorem Die.takeSample_eq : d.takeSample p data = { d with disc := { d.disc with samples := (d.takeSample p data).disc.samples } } := by
  unfold Die.takeSample
  dsimp only
  split
  case h_1 => rfl
  case h_2 => rfl

/-- Fragment 15 of an incomplete hello gives the sample and no more. -/
theorem Die.useFrag_sample (hd : d.isDrop p = false) (h : d.helloComplete p = false) : d.useFrag p 15 data = d.takeSample p data := by
  have incomplete : (d.takeSample p data).helloComplete p = false := by
    rw [d.takeSample_eq]
    exact h
  have sample : d.sampleFrag p 15 data = d.takeSample p data := if_pos (by simp [hd])
  rw [Die.useFrag, sample, if_neg (ne_true_of_eq_false incomplete)]

/-- The sample of a fragment whose TAG is among the port's stamps joins the link's samples (R283). -/
theorem Die.takeSample_tagged {t : Nat × Nat} (h : (smapGet [] d.disc.stamps p).find? (fun s => s.1 % 512 == data / 2 ^ 23) = some t) :
    smapGet (0, 0) (d.takeSample p data).disc.samples p = ((smapGet (0, 0) d.disc.samples p).1 + 1,
      (smapGet (0, 0) d.disc.samples p).2 + (t.2 + data % 2 ^ 23) % (256 * d.tickCycles) / 2) := by
  unfold Die.takeSample
  dsimp only
  rw [h]
  simp

end

/-! ### A protocol error on a DROP port (R254) -/

/-- The registers of PORT pages stand above those of the pages that a die has once. -/
theorem le_addrOf_port {g : Fld} (hg : g.page = .port) (j : Nat) : 0x10000 ≤ g.addrOf p j := by
  rw [Fld.addrOf_eq, hg]
  simp only [pageIndex]
  omega

theorem le_addrOf_portCause {q : Irq} (hq : q.page = .port) : 0x10000 ≤ q.addrOf p := by
  rw [Irq.addrOf, hq, Die.hdrAddr]
  simp only [pageIndex]
  omega

theorem not_mem_logAddrs {a : Nat} (h : 0x10000 ≤ a) : a ∉ logAddrs := fun k => Nat.not_lt.2 h ((by decide : ∀ x ∈ logAddrs, x < 0x10000) a k)

theorem Die.protoErr_drop (h : d.isDrop p = true) :
    let e := d.protoErr p
    e.get R.portProto p = d.counted R.portProto p ∧ Logged d e (pageIndex .port p) 0x0500 1
      ∧ OnlyLogs d e [R.portProto.addrOf p, I.portProto.addrOf p] := by
  obtain ⟨counted, -, reach⟩ := d.bump_raise_shows R.portProto I.portProto p 1 (by decide) (by decide) (port_addrOf_ne_cause rfl rfl (by decide) p)
  have logs : d.protoErr p = ((d.bump R.portProto p).raise I.portProto p).logErr .port p 0x0500 1 (leBytes 1 p) :=
    if_pos ((Die.isDrop_congr reach.units.casc p).trans h)
  dsimp only
  rw [logs]
  generalize (d.bump R.portProto p).raise I.portProto p = x at *
  obtain ⟨far, logged⟩ := x.logErr_reach .port p 0x0500 1 (leBytes 1 p) none false none
  have stat := le_addrOf_port p (g := R.portProto) rfl 0
  have cause := le_addrOf_portCause p (q := I.portProto) rfl
  have mirror : R.errlogCfgMirror.addrOf < 0x10000 := by decide
  refine ⟨(far.get _ _ _ _ List.not_mem_nil (not_mem_logAddrs stat)).trans counted, logged.of_err reach.err rfl,
    (reach.logs.trans far ?_).mono (by simp)⟩
  simp only [List.mem_cons, List.not_mem_nil, or_false, not_or]
  exact ⟨by omega, by omega⟩

/-! ### A complete hello (R110, R258, R274) -/

/-- The check of R110 on a complete hello. -/
def Die.checkRole : Die :=
  if d.roleBad p then (if (d.port p).mismatch then d else d.roleMismatch p)
  else if (d.port p).mismatch then d.modPort p (fun s => { s with mismatch := false, hold := none }) else d

/-- A hello of a sibling may end formation (R131). -/
def Die.checkForming : Die :=
  if d.isStack p && d.forming && d.pos == 0 &&
      (List.range (d.get R.cascCfgDies + 1)).all (fun x => x == 0 || d.heard.any (fun h => h.1 == x)) then d.formNode false else d

/-- Does a complete hello of a TRUNK port tell discovery about its neighbour? -/
def Die.tellsNeighbour : Bool :=
  d.isTrunk p && !(d.port p).mismatch && d.get R.cascStatState == 1 && d.phase != 8 && d.phase != 0 && d.hf p 4 12 1 == 0

/-- What discovery makes of a complete hello. -/
def Die.checkNeighbour (frag : Nat) : Die :=
  if d.tellsNeighbour p then
    match d.helloConflict p with
    | 0 =>
      let d := if frag = 9 then d.takeWalk p else d
      let d := d.advanceJoin
      if d.hf p 4 25 1 = 1 ∧ ¬ d.disc.rleave then
        let d := { d with disc := { d.disc with rleave := true, takeOver := d.bit R.discStatIsstby } }
        d.refreshHellos
      else d
    | c => d.discConflict c p
  else d.advanceJoin

theorem Die.checkHello_eq (frag : Nat) : d.checkHello p frag = ((d.checkRole p).checkForming p).checkNeighbour p frag := rfl

theorem Die.checkForming_other (h : d.isStack p = false) : d.checkForming p = d := if_neg (by simp [h])

theorem Die.helloConflict_lt : d.helloConflict p < 16 := by
  unfold Die.helloConflict
  dsimp only
  split_ifs <;> decide

theorem Die.checkNeighbour_conflict (frag : Nat) (ht : d.tellsNeighbour p = true) (hc : d.helloConflict p ≠ 0) :
    d.checkNeighbour p frag = d.discConflict (d.helloConflict p) p := by
  unfold Die.checkNeighbour
  rw [if_pos ht]
  split
  case h_1 none => exact absurd none hc
  case h_2 => rfl

theorem Die.checkNeighbour_silent (frag : Nat) (h : d.tellsNeighbour p = false) : d.checkNeighbour p frag = d.advanceJoin :=
  if_neg (ne_true_of_eq_false h)

/-- An acting master that neither elects nor joins stays as it is. -/
theorem Die.advanceJoin_master (hm : d.isMaster = true) (h1 : d.phase ≠ 1) (h3 : d.phase ≠ 3) : d.advanceJoin = d := by
  unfold Die.advanceJoin
  rw [if_neg (by simp [h1, h3]), if_neg (by simp [hm])]

/-- A complete hello of a neighbour of the right kind whose facts conflict. -/
theorem Die.checkHello_conflict (frag : Nat) (ht : d.tellsNeighbour p = true) (hr : d.roleBad p = false) (hc : d.helloConflict p ≠ 0) :
    d.checkHello p frag = d.discConflict (d.helloConflict p) p := by
  have kinds := ht
  simp only [Die.tellsNeighbour, Bool.and_eq_true, Bool.not_eq_true'] at kinds
  obtain ⟨⟨⟨⟨⟨trunk, match_⟩, -⟩, -⟩, -⟩, -⟩ := kinds
  have role : d.checkRole p = d := by simp [Die.checkRole, hr, match_]
  have stack : d.isStack p = false := by
    have two : d.role p = 2 := by simpa [Die.isTrunk] using trunk
    simp [Die.isStack, two]
  rw [d.checkHello_eq, role, d.checkForming_other p stack, d.checkNeighbour_conflict p frag ht hc]

/-! ### A hello of the wrong kind (R110) -/

/-- The port held in PS1 and the mismatch shown, before it is logged. -/
def Die.mismatchShown : Die :=
  ((d.modPort p (fun s => { s with mismatch := true, hold := some 1 })).set R.portLinkPs 1 p).setBit R.cascErrRoleMismatch true

theorem Die.roleMismatch_eq : d.roleMismatch p = (d.mismatchShown p).logErr .port p 0x0204 1 (leBytes 1 p) := rfl

theorem Die.mismatchShown_shows :
    let e := d.mismatchShown p
    ChangesPort d e p { d.port p with mismatch := true, hold := some 1 } ∧ e.get R.portLinkPs p = 1 ∧ e.get R.cascErrRoleMismatch = 1
      ∧ OnlyRegs d { e with ports := d.ports } [R.portLinkPs.addrOf p, R.cascErrRoleMismatch.addrOf] := by
  have changes : ChangesPort d (d.modPort p (fun s => { s with mismatch := true, hold := some 1 })) p { d.port p with mismatch := true, hold := some 1 } :=
    ChangesPort.modPort d p _
  have held : OnlyRegs d { d.modPort p (fun s => { s with mismatch := true, hold := some 1 }) with ports := d.ports } [] := OnlyRegs.refl d _
  unfold Die.mismatchShown
  generalize d.modPort p (fun s => { s with mismatch := true, hold := some 1 }) = x at *
  have sleeps := OnlyRegs.set x R.portLinkPs 1 p 0 0
  have power : (x.set R.portLinkPs 1 p).get R.portLinkPs p = 1 := Die.get_set x _ _ _ _ _ (by decide)
  generalize x.set R.portLinkPs 1 p = y at *
  have shows := OnlyRegs.setBit y R.cascErrRoleMismatch true 0 0 0
  have stat := le_addrOf_port p (g := R.portLinkPs) rfl 0
  have casc : R.cascErrRoleMismatch.addrOf < 0x10000 := by decide
  refine ⟨(changes.of_ports sleeps.units.ports).of_ports shows.units.ports, (shows.get R.portLinkPs p 0 0 ?_).trans power,
    Die.get_set_fits y (by decide) (by decide), (held.trans_ports (sleeps.trans shows)).mono (by simp)⟩
  rw [List.mem_singleton]
  omega

theorem OnlyLogs.trans_ports {d e f : Die} {as bs : List Nat} (h : OnlyLogs d { e with ports := d.ports } as) (k : OnlyLogs e f bs)
    (m : R.errlogCfgMirror.addrOf ∉ as) : OnlyLogs d { f with ports := d.ports } (as ++ bs) :=
  h.trans { k with units := { k.units with ports := rfl } } m

/-- A port with a hello of the wrong kind is held in PS1, and the mismatch is shown and logged. -/
theorem Die.roleMismatch_shows :
    let e := d.roleMismatch p
    ChangesPort d e p { d.port p with mismatch := true, hold := some 1 } ∧ e.get R.portLinkPs p = 1 ∧ e.get R.cascErrRoleMismatch = 1
      ∧ Logged d e (pageIndex .port p) 0x0204 1
      ∧ OnlyLogs d { e with ports := d.ports } [R.portLinkPs.addrOf p, R.cascErrRoleMismatch.addrOf] := by
  obtain ⟨changes, power, shown, reach⟩ := d.mismatchShown_shows p
  dsimp only
  rw [d.roleMismatch_eq p]
  generalize d.mismatchShown p = x at *
  obtain ⟨far, logged⟩ := x.logErr_reach .port p 0x0204 1 (leBytes 1 p) none false none
  generalize x.logErr .port p 0x0204 1 (leBytes 1 p) = e at *
  have stat := le_addrOf_port p (g := R.portLinkPs) rfl 0
  refine ⟨changes.of_ports far.units.ports, (far.get _ _ _ _ List.not_mem_nil (not_mem_logAddrs stat)).trans power,
    (far.get _ _ _ _ List.not_mem_nil (by decide)).trans shown, logged.of_err reach.err rfl, ?_⟩
  have mirror : R.errlogCfgMirror.addrOf < 0x10000 ∧ R.errlogCfgMirror.addrOf ≠ R.cascErrRoleMismatch.addrOf := by decide
  refine (OnlyLogs.trans_ports reach.reports.logs far ?_).mono (by simp)
  simp only [List.mem_cons, List.not_mem_nil, or_false, not_or]
  exact ⟨by omega, mirror.2⟩

/-- A DROP port's complete hello of the wrong kind, on a port that shows no mismatch yet, at an acting master that neither elects nor joins. -/
theorem Die.checkHello_wrong (frag : Nat) (hd : d.isDrop p = true) (bad : d.roleBad p = true) (fresh : (d.port p).mismatch = false)
    (hm : d.isMaster = true) (h1 : d.phase ≠ 1) (h3 : d.phase ≠ 3) : d.checkHello p frag = d.roleMismatch p := by
  have role : d.checkRole p = d.roleMismatch p := (if_pos bad).trans (if_neg (ne_true_of_eq_false fresh))
  obtain ⟨-, -, -, -, reach⟩ := d.roleMismatch_shows p
  rw [d.checkHello_eq, role]
  generalize d.roleMismatch p = e at *
  have one : e.role p = 1 := (congrArg (fun c : CascSt => (smapGet 0 c.role p).toNat) reach.units.casc).trans (beq_iff_eq.1 hd)
  have kept (g : Fld) (h : g.addrOf < 0x10000) (hc : g.addrOf ≠ R.cascErrRoleMismatch.addrOf) (hl : g.addrOf ∉ logAddrs) : e.get g = d.get g := by
    refine reach.get g 0 0 0 ?_ hl
    have stat := le_addrOf_port p (g := R.portLinkPs) rfl 0
    simp only [List.mem_cons, List.not_mem_nil, or_false, not_or]
    exact ⟨by omega, hc⟩
  have phase : e.phase = d.phase := kept R.discStatPhase (by decide) (by decide) (by decide)
  have master : e.isMaster = true := by
    rw [Die.isMaster, Die.pos, Die.master, kept _ (by decide) (by decide) (by decide), kept _ (by decide) (by decide) (by decide)]
    exact hm
  rw [e.checkForming_other p (by simp [Die.isStack, one]), e.checkNeighbour_silent p frag (by simp [Die.tellsNeighbour, Die.isTrunk, one])]
  exact e.advanceJoin_master master (phase ▸ h1) (phase ▸ h3)

section
variable {p} (frag : Nat) (data : BitVec 32)

theorem Die.keepFrag_get (g : Fld) (i j k : Nat) : (d.keepFrag p frag data).get g i j k = d.get g i j k := Die.get_congr rfl g i j k

theorem OnlyLogs.after_frag {e : Die} {as : List Nat} (h : OnlyLogs (d.keepFrag p frag data) e as) : OnlyLogs d { e with ports := d.ports } as :=
  (d.keepFrag_reach p frag data).reports.logs.trans_ports h List.not_mem_nil

/-- A fragment that completes a DROP port's hello of the wrong kind. -/
theorem Die.keepFrag_mismatch (hd : d.isDrop p = true) (bad : (d.keepFrag p frag data).roleBad p = true) (fresh : (d.port p).mismatch = false)
    (hm : d.isMaster = true) (h1 : d.phase ≠ 1) (h3 : d.phase ≠ 3) :
    let e := (d.keepFrag p frag data).checkHello p frag
    ChangesPort d e p { d.port p with hello := smapSet none (d.port p).hello frag (some data), mismatch := true, hold := some 1 }
      ∧ e.get R.portLinkPs p = 1 ∧ e.get R.cascErrRoleMismatch = 1 ∧ Logged d e (pageIndex .port p) 0x0204 1
      ∧ OnlyLogs d { e with ports := d.ports } [R.portLinkPs.addrOf p, R.cascErrRoleMismatch.addrOf] := by
  have changes := d.keepFrag_changes p frag data
  have ends := (d.keepFrag p frag data).checkHello_wrong p frag hd bad ((congrArg PortSt.mismatch changes.1).trans fresh) hm h1 h3
  obtain ⟨holds, power, shown, logged, reach⟩ := (d.keepFrag p frag data).roleMismatch_shows p
  rw [changes.1] at holds
  dsimp only
  rw [ends]
  have frame := OnlyLogs.after_frag d frag data reach
  exact ⟨changes.trans holds, power, shown, logged.of_err rfl rfl, frame⟩

/-- A fragment that completes a TRUNK port's hello whose facts conflict. -/
theorem Die.keepFrag_conflict (hp : p < 64) (ht : d.isTrunk p = true) (good : (d.keepFrag p frag data).roleBad p = false)
    (fresh : (d.port p).mismatch = false) (hs : d.get R.cascStatState = 1) (h8 : d.phase ≠ 8) (h0 : d.phase ≠ 0)
    (hc : (d.keepFrag p frag data).hf p 4 12 1 = 0) (conflict : (d.keepFrag p frag data).helloConflict p ≠ 0) :
    let e := (d.keepFrag p frag data).checkHello p frag
    ChangesPort d e p { d.port p with hello := smapSet none (d.port p).hello frag (some data) }
      ∧ ShowsConflict d e ((d.keepFrag p frag data).helloConflict p) p ∧ OnlyLogs d { e with ports := d.ports } conflictAddrs := by
  have changes := d.keepFrag_changes p frag data
  have keeps (g : Fld) : (d.keepFrag p frag data).get g = d.get g := d.keepFrag_get frag data g 0 0 0
  have err : (d.keepFrag p frag data).err = d.err := rfl
  have trunk : (d.keepFrag p frag data).isTrunk p = true := ht
  have back {e : Die} {as : List Nat} (h : OnlyLogs (d.keepFrag p frag data) e as) := OnlyLogs.after_frag d frag data h
  generalize d.keepFrag p frag data = x at *
  have quiet : (x.port p).mismatch = false := (congrArg PortSt.mismatch changes.1).trans fresh
  have phase : x.phase = d.phase := keeps R.discStatPhase
  have pos : x.pos = d.pos := keeps R.chipStrapCascPos
  have tells : x.tellsNeighbour p = true := by simp [Die.tellsNeighbour, trunk, quiet, keeps, hs, phase, h8, h0, hc]
  dsimp only
  rw [x.checkHello_conflict p frag tells good conflict]
  obtain ⟨⟨shows, causes, port, die, logged, raised⟩, reach⟩ := x.discConflict_shows (x.helloConflict_lt p) hp (phase ▸ h8)
  exact ⟨changes.of_ports reach.units.ports, ⟨shows, causes, port, die.trans pos, logged.of_err err rfl, raised⟩, back reach⟩

/-- Fragment 15 of an incomplete hello of a TRUNK port. -/
theorem Die.keepFrag_sample (ht : d.isTrunk p = true) (h : (d.keepFrag p 15 data).helloComplete p = false) :
    let e := (d.keepFrag p 15 data).useFrag p 15 data.toNat
    let tag := (smapGet [] d.disc.stamps p).find? (fun t => t.1 % 512 == data.toNat / 2 ^ 23)
    ChangesPort d e p { d.port p with hello := smapSet none (d.port p).hello 15 (some data) }
      ∧ OnlyRegs d { e with ports := d.ports, disc := d.disc } []
      ∧ (tag.isSome = true → smapGet (0, 0) e.disc.samples p = ((smapGet (0, 0) d.disc.samples p).1 + 1,
          (smapGet (0, 0) d.disc.samples p).2 + ((tag.getD (0, 0)).2 + data.toNat % 2 ^ 23) % (256 * d.tickCycles) / 2)) := by
  have drop : (d.keepFrag p 15 data).isDrop p = false := eq_false_of_ne_true (Die.isDrop_of_trunk (d := d) ht)
  have changes := d.keepFrag_changes p 15 data
  have reach := d.keepFrag_reach p 15 data
  have disc : (d.keepFrag p 15 data).disc = d.disc := rfl
  have cycles : (d.keepFrag p 15 data).tickCycles = d.tickCycles := rfl
  dsimp only
  rw [(d.keepFrag p 15 data).useFrag_sample drop h]
  generalize d.keepFrag p 15 data = x at *
  refine ⟨changes.of_ports ?_, ?_, fun some_ => ?_⟩
  · rw [x.takeSample_eq]
  · rw [x.takeSample_eq]
    exact { reach with units := { reach.units with disc := rfl } }
  · obtain ⟨t, found⟩ := Option.isSome_iff_exists.1 some_
    rw [found, x.takeSample_tagged (t := t) (by rw [disc]; exact found), disc, cycles]
    rfl

end

end

/-! ### Periodic hellos (R256, R257) -/

/-- What a die says in its hellos does not depend on what its ports hold. -/
theorem Die.helloData_ports (d : Die) (ps : SMap PortSt) (p frag : Nat) : ({ d with ports := ps } : Die).helloData p frag = d.helloData p frag := by
  unfold Die.helloData
  rfl

/-- The fragments of a list join the port's queue in its order. -/
theorem Die.forAll_sendHello_sendq (d : Die) (p : Nat) (fs : List Nat) :
    ((d.forAll fs (fun x f => x.sendHello p f)).port p).sendq
      = (d.port p).sendq ++ fs.map (fun f => .hello (BitVec.ofNat 4 f) (d.helloData p f)) := by
  unfold Die.forAll
  induction fs generalizing d with
  | nil => simp
  | cons f r ih =>
    have data (g : Nat) : (d.sendHello p f).helloData p g = d.helloData p g := by
      rw [(d.sendHello_sends p f).ports]
      exact d.helloData_ports _ p g
    rw [List.foldl_cons, ih, Die.port_sendHello, if_pos rfl]
    simp [data]

/-- The periodic hello of a port that may send one. -/
theorem Die.sendHellos_shows (d : Die) {p : Nat} (h : d.helloAllowed p = true) :
    let e := d.sendHellos p
    (e.port p).sendq = (d.port p).sendq ++ (d.helloFrags p).map (fun f => .hello (BitVec.ofNat 4 f) (d.helloData p f))
      ∧ HellosOnly d e ∧ OtherPorts d e p ∧ OnlyRegs d { e with ports := d.ports } [] := by
  have ends : d.sendHellos p = d.forAll (d.helloFrags p) (fun x f => x.sendHello p f) := if_pos h
  have sends : SendsHellos d (d.sendHellos p) := ends ▸ SendsHellos.forAll (fun x f => x.sendHello_sends p f) _ d
  exact ⟨ends ▸ d.forAll_sendHello_sendq p _, sends.hellos, (d.sendHellos_frame p (as := [])).others, (OnlyRegs.refl d []).hellos_after sends⟩

/-! ### The statement -/

/-- Settles O25: each command by the die that it ends with, and what that die shows. -/
theorem hellosAndRoot : Obligations.HellosAndRoot := by
  refine ⟨fun s a ha => ?root, fun s p frag data ha => ?hellos⟩
  case root =>
    intro d stands walks
    have each (i : Instr) (hi : exec i s = act s (fun d => if d.standsForRoot then d.startWalks else d)) : walks i := by
      refine ⟨fun hst hs hw hb => completes_of_act i s _ _ hi ha ?_, fun h => becomes_of_act i s _ _ hi ha (if_neg fun k => h (d.standsForRoot_iff.1 k))⟩
      rw [if_pos (d.standsForRoot_iff.2 hst)]
      exact s.die.startWalks_shows a.isLt hs hw hb
    refine ⟨each .rootElection (exec_rootElection s), each .candidacyPass (exec_candidacyPass s), fun he h0 hc => ?again, fun he h0 hc ho h8 => ?last,
      fun h => ?known⟩
    case again =>
      refine completes_of_act _ s _ _ (exec_walkTimeout a s) ha ?_
      rw [if_pos (Bool.and_eq_true_iff.2 ⟨he, beq_iff_eq.2 h0⟩), if_neg (not_not.2 hc)]
      have sends := SendsHellos.forAll (fun x p => x.sendHello_sends p 9) (d.walkPorts a.val) d
      exact ⟨sends.hellos, (OnlyRegs.refl d []).hellos_after sends⟩
    case last =>
      refine completes_of_act _ s _ _ (exec_walkTimeout a s) ha ?_
      rw [if_pos (Bool.and_eq_true_iff.2 ⟨he, beq_iff_eq.2 h0⟩), if_pos hc]
      exact s.die.putSize_lastWalk he hc ho h8
    case known =>
      refine becomes_of_act _ s _ _ (exec_walkTimeout a s) ha (if_neg fun k => ?_)
      obtain ⟨elect, open_⟩ := Bool.and_eq_true_iff.1 k
      rcases h with h | h
      · exact Bool.false_ne_true (h.symm.trans elect)
      · exact h (beq_iff_eq.1 open_)
  case hellos =>
    have arrives {P : Die → Prop} (h : P (s.die.takeFrag p.toNat frag.toNat data)) : Completes (.helloRx p frag data) s P :=
      completes_of_act _ s _ P (exec_helloRx p frag data s) ha h
    refine ⟨fun h => ?off, fun hl hd hf => ?beyond, fun ⟨hl, hr, hf⟩ few partial_ => ?kept,
      fun ⟨hl, hr, hf⟩ hd few whole bad fresh hm h1 h3 => ?wrong,
      fun ⟨hl, hr, hf⟩ ht whole good fresh hs h8 h0 hc conflict => ?conflict, fun ⟨hl, hr, hf⟩ ht whole => ?stack, fun hl ht hf partial_ => ?sample,
      fun h => ?periodic, fun h => ?silent⟩
    case off => exact becomes_of_act _ s _ _ (exec_helloRx p frag data s) ha (Die.takeFrag_off h)
    case beyond =>
      refine arrives ?_
      rw [Die.takeFrag_beyond hl hd hf]
      exact s.die.protoErr_drop p.toNat hd
    case kept =>
      refine arrives ?_
      rw [Die.takeFrag_partial s.die hl hr few (toNat_ne_15 hf) partial_]
      exact ⟨s.die.keepFrag_changes _ _ _, s.die.keepFrag_reach _ _ _⟩
    case wrong =>
      refine arrives ?_
      rw [Die.takeFrag_whole s.die hl hr (fun _ => few) (toNat_ne_15 hf) whole]
      exact s.die.keepFrag_mismatch _ data hd bad fresh hm h1 h3
    case conflict =>
      refine arrives ?_
      rw [Die.takeFrag_whole s.die hl hr (fun drop => absurd drop (Die.isDrop_of_trunk ht)) (toNat_ne_15 hf) whole]
      exact s.die.keepFrag_conflict frag.toNat data p.isLt ht good fresh hs h8 h0 hc conflict
    case stack =>
      exact becomes_of_act _ s _ _ (exec_helloRx p frag data s) ha
        (Die.takeFrag_whole s.die hl hr (fun drop => absurd drop (Die.isDrop_of_stack ht)) (toNat_ne_15 hf) whole)
    case sample =>
      refine arrives ?_
      subst hf
      rw [Die.takeFrag_taken hl (Die.role_ne_zero_of_trunk ht) (fun drop => absurd drop (Die.isDrop_of_trunk ht))]
      exact s.die.keepFrag_sample data ht partial_
    case periodic =>
      exact completes_of_act _ s _ _ rfl ha (s.die.sendHellos_shows h)
    case silent =>
      exact becomes_of_act _ s _ _ rfl ha (if_neg (ne_true_of_eq_false h))

end Sys2Proof.Machine
end

section
/-!
PROOF. End-to-end records and echoes at the source (spec 08, R356, R357, R375 to R377, R381, R384, R385; spec 09, R407): the entries that a record names, and
the receipt of a settled one.
-/
namespace Sys2Proof.Machine

/-! ### One entry of the ledger (R356) -/

section
variable {d e f : Die} {k : Nat} {x y : LedEnt}

/-- A written entry reads as written, and the other entries stay. -/
theorem Die.led_setLed (d : Die) (k l : Nat) (x : LedEnt) : (d.setLed k x).led l = if l = k then x else d.led l := smapGet_set _ _ _ _ _

theorem ChangesLed.setLed (d : Die) (k : Nat) (x : LedEnt) : ChangesLed d (d.setLed k x) k x :=
  ⟨(d.led_setLed k k x).trans (if_pos rfl), fun l hl => (d.led_setLed k l x).trans (if_neg hl), rfl⟩

theorem Die.led_congr (h : e.dlv = d.dlv) (k : Nat) : e.led k = d.led k := by rw [Die.led, h, Die.led]

/-- What else happens before and after a change of an entry is no matter, while delivery stays. -/
theorem ChangesLed.of_dlv {d' e' : Die} (h : ChangesLed d e k x) (hd : d.dlv = d'.dlv) (he : e'.dlv = e.dlv) : ChangesLed d' e' k x := by
  obtain ⟨entry, others, rest⟩ := h
  refine ⟨(Die.led_congr he k).trans entry, fun l hl => ?_, ?_⟩
  · rw [Die.led_congr he, others l hl, Die.led_congr hd]
  · rw [he, ← hd]
    exact rest

theorem ChangesLed.trans (h : ChangesLed d e k x) (j : ChangesLed e f k y) : ChangesLed d f k y := by
  obtain ⟨-, others, rest⟩ := h
  obtain ⟨entry, others', rest'⟩ := j
  exact ⟨entry, fun l hl => (others' l hl).trans (others l hl), rest'.trans (by rw [rest])⟩

end

/-! ### A two-dword counter -/

section
variable (d : Die) (lo hi : Fld) (i n : Nat)

theorem KeepsUnits.tbump (g : Fld) : KeepsUnits d (d.tbump g i n) := by constructor <;> simp

/-- A raise of a two-dword counter writes its two fields. -/
theorem Die.bump64_eq : d.bump64 lo hi i 0 n
    = ((d.tbump lo i n).set lo ((d.get64 lo hi i + n) % 2 ^ 32) i).set hi ((d.get64 lo hi i + n) / 2 ^ 32 % 2 ^ 32) i := by
  unfold Die.bump64 Die.get64
  simp only [Die.tbump_get]

theorem KeepsUnits.bump64 : KeepsUnits d (d.bump64 lo hi i 0 n) :=
  ((KeepsUnits.tbump d i n lo).trans (.set _ lo _ i 0 0)).trans (.set _ hi _ i 0 0)

/-- A two-dword counter after `n` more events: it wraps at 2^64. -/
theorem Die.get64_bump64 (hl : lo.lsb = 0 ∧ lo.width = 32) (hh : hi.lsb = 0 ∧ hi.width = 32) (ha : hi.addrOf i ≠ lo.addrOf i) :
    (d.bump64 lo hi i 0 n).get64 lo hi i = (d.get64 lo hi i + n) % 2 ^ 64 := by
  obtain ⟨lowAt, lowWide⟩ := hl
  obtain ⟨highAt, highWide⟩ := hh
  rw [Die.bump64_eq]
  generalize d.get64 lo hi i + n = v
  generalize d.tbump lo i n = x
  have low : ((x.set lo (v % 2 ^ 32) i).set hi (v / 2 ^ 32 % 2 ^ 32) i).get lo i = v % 2 ^ 32 := by
    rw [Die.get_set_apart _ hi lo _ i 0 0 i 0 0 (by omega) (.inl ha), Die.get_set x lo _ i 0 0 (by omega), lowWide, Nat.mod_mod]
  have high : ((x.set lo (v % 2 ^ 32) i).set hi (v / 2 ^ 32 % 2 ^ 32) i).get hi i = v / 2 ^ 32 % 2 ^ 32 := by
    rw [Die.get_set _ hi _ i 0 0 (by omega), highWide, Nat.mod_mod]
  rw [Die.get64, low, high]
  omega

end

/-! ### An item settles, once (R356, R357, R377, R391) -/

section
variable (d : Die) (k : Nat)

/-- The receipt of a settled entry joins its port's messages; replay's own items have none. -/
def Die.sendReceipt : Die :=
  if (d.led k).injected then d
  else d.queueMsg (k / 4096) (if (d.led k).out = 0 then .dlvd (d.led k).lsn 1 else .rtnd (d.led k).lsn (d.led k).out)

theorem Die.queueReceipt_eq : d.queueReceipt k
    = ((((d.sendReceipt k).countOutcome (k / 4096) (d.led k).out).hoopRelease (d.led k).cell.toNat (owner 2 (k / 4096))).setLed k LedEnt.init).filterQueue
        (fun _ x => x.ledger != some (k / 4096, k % 4096)) := rfl

theorem Die.sendReceipt_shows : (d.sendReceipt k).dlv = d.dlv ∧ (d.sendReceipt k).regs = d.regs ∧ OtherPorts d (d.sendReceipt k) (k / 4096)
    ∧ (d.sendReceipt k).port (k / 4096) = { d.port (k / 4096) with sendq := (d.port (k / 4096)).sendq
        ++ (if (d.led k).injected then [] else [if (d.led k).out = 0 then Msg.dlvd (d.led k).lsn 1 else Msg.rtnd (d.led k).lsn (d.led k).out]) } := by
  unfold Die.sendReceipt
  split
  case isTrue => exact ⟨rfl, rfl, fun _ _ => rfl, by rw [List.append_nil]⟩
  case isFalse => exact ⟨rfl, rfl, d.otherPorts_modPort _ _, d.port_modPort_self _ _⟩

/-- An outcome other than DELIVERED counts for the host. -/
def Die.noteReturned (p : Nat) (out : BitVec 3) : Die :=
  if out.toNat = 0 then d
  else { d with host := { d.host with returned := smapMod 0 d.host.returned (4 * p + (min out.toNat 4 - 1)) (· + 1) } }

theorem Die.noteReturned_keeps (p : Nat) (out : BitVec 3) :
    (d.noteReturned p out).regs = d.regs ∧ (d.noteReturned p out).dlv = d.dlv ∧ (d.noteReturned p out).ports = d.ports := by
  unfold Die.noteReturned
  split
  case isTrue => exact ⟨rfl, rfl, rfl⟩
  case isFalse => exact ⟨rfl, rfl, rfl⟩

theorem Die.countOutcome_delivered (p : Nat) : d.countOutcome p 0 = d.bump64 R.portDlvdLo R.portDlvdHi p := rfl

theorem Die.countOutcome_undeliverable (p : Nat) :
    d.countOutcome p 2 = ((d.noteReturned p 2).bump R.portRtUndeliv p).raise I.portUndeliv p := rfl

/-- An outcome is counted in registers and for the host; delivery and the ports stay. -/
theorem Die.countOutcome_keeps (p : Nat) (out : BitVec 3) : (d.countOutcome p out).dlv = d.dlv ∧ (d.countOutcome p out).ports = d.ports := by
  obtain ⟨-, dlv, ports⟩ := d.noteReturned_keeps p out
  have counted {x : Die} (h : KeepsUnits (d.noteReturned p out) x) : x.dlv = d.dlv ∧ x.ports = d.ports := ⟨h.dlv.trans dlv, h.ports.trans ports⟩
  unfold Die.countOutcome
  dsimp only
  split
  case h_1 => exact counted (.bump64 _ _ _ p 1)
  case h_2 => exact counted (.bump _ _ p 0 1)
  case h_3 => exact counted ((KeepsUnits.bump _ _ p 0 1).trans (.raise _ _ p 0))
  case h_4 => exact counted (.bump _ _ p 0 1)
  case h_5 => exact counted (.bump _ _ p 0 1)

/-- What a settled entry shows: its receipt, and the outcome counted at its port. -/
structure Settles (d e : Die) (k : Nat) (out : BitVec 3) : Prop where
  receipt : Receipted d e k out
  counted : ∃ x : Die, x.regs = d.regs ∧ KeepsInstances (x.countOutcome (k / 4096) out) e

/-- An entry settled with an outcome, its receipt still to come. -/
def LedEnt.settledAs (x : LedEnt) (out : BitVec 3) : LedEnt := { x with state := .settled, out := out }

theorem Die.settle_live (out : BitVec 3) (hf : (d.led k).state ≠ .free) (hs : (d.led k).state ≠ .settled) :
    d.settle k out = (d.setLed k ((d.led k).settledAs out)).queueReceipt k := if_neg (not_or.2 ⟨hf, hs⟩)

/-- An entry that has not settled settles with its receipt. -/
theorem Die.settle_settles (out : BitVec 3) (hf : (d.led k).state ≠ .free) (hs : (d.led k).state ≠ .settled) : Settles d (d.settle k out) k out := by
  have changed := ChangesLed.setLed d k ((d.led k).settledAs out)
  rw [d.settle_live k out hf hs, Die.queueReceipt_eq]
  have ports : (d.setLed k ((d.led k).settledAs out)).ports = d.ports := rfl
  have regs : (d.setLed k ((d.led k).settledAs out)).regs = d.regs := rfl
  generalize d.setLed k ((d.led k).settledAs out) = m at changed ports regs ⊢
  obtain ⟨dlv, regs', others, port⟩ := m.sendReceipt_shows k
  rw [changed.1] at port ⊢
  dsimp only [LedEnt.settledAs] at port ⊢
  generalize m.sendReceipt k = x at dlv regs' others port ⊢
  obtain ⟨dlv', ports'⟩ := x.countOutcome_keeps (k / 4096) out
  have cell := (x.countOutcome (k / 4096) out).hoopRelease_effect (d.led k).cell.toNat (owner 2 (k / 4096))
  generalize (x.countOutcome (k / 4096) out).hoopRelease (d.led k).cell.toNat (owner 2 (k / 4096)) = c at cell ⊢
  have portsEnd : c.ports = x.ports := cell.units.ports.trans ports'
  refine ⟨⟨?led, fun q hq => ?others, ?port⟩, x, regs'.trans regs, ?counted⟩
  case led => exact (changed.of_dlv rfl (cell.units.dlv.trans (dlv'.trans dlv))).trans (ChangesLed.setLed c k LedEnt.init)
  case others => exact (Die.port_congr portsEnd q).trans ((others q hq).trans (Die.port_congr ports q))
  case port => exact (Die.port_congr portsEnd _).trans (by rw [port, Die.port_congr ports]; rfl)
  case counted => exact (KeepsInstances.of_hoop cell).trans (.of_regs rfl)

variable {d k} {e : Die}

/-- A DELIVERED item counts at its port. -/
theorem Settles.delivered (h : Settles d e k 0) :
    e.get64 R.portDlvdLo R.portDlvdHi (k / 4096) = (d.get64 R.portDlvdLo R.portDlvdHi (k / 4096) + 1) % 2 ^ 64 := by
  obtain ⟨x, regs, kept⟩ := h.counted
  generalize k / 4096 = p at kept ⊢
  rw [Die.countOutcome_delivered] at kept
  have apart : R.portDlvdHi.addrOf p ≠ R.portDlvdLo.addrOf p := by
    simp only [Fld.addrOf_eq, R.portDlvdLo, R.portDlvdHi, pageIndex]
    omega
  have read (g : Fld) (hg : g.page = .port) : e.get g p = (x.bump64 R.portDlvdLo R.portDlvdHi p).get g p := kept.get g p 0 0 (le_addrOf_port p hg 0)
  calc e.get64 R.portDlvdLo R.portDlvdHi p = (x.bump64 R.portDlvdLo R.portDlvdHi p).get64 R.portDlvdLo R.portDlvdHi p := by
        rw [Die.get64, read _ rfl, read _ rfl, Die.get64]
    _ = (x.get64 R.portDlvdLo R.portDlvdHi p + 1) % 2 ^ 64 := Die.get64_bump64 x _ _ p 1 ⟨rfl, rfl⟩ ⟨rfl, rfl⟩ apart
    _ = (d.get64 R.portDlvdLo R.portDlvdHi p + 1) % 2 ^ 64 := by rw [Die.get64, Die.get_congr regs, Die.get_congr regs, Die.get64]

/-- An UNDELIVERABLE item counts at its port. -/
theorem Settles.undeliverable (h : Settles d e k 2) : e.get R.portRtUndeliv (k / 4096) = d.counted R.portRtUndeliv (k / 4096) := by
  obtain ⟨x, regs, kept⟩ := h.counted
  generalize k / 4096 = p at kept ⊢
  rw [Die.countOutcome_undeliverable] at kept
  have away : R.portRtUndeliv.addrOf p ≠ I.portUndeliv.addrOf p := port_addrOf_ne_cause rfl rfl (by decide) p
  have same : (x.noteReturned p 2).regs = d.regs := (x.noteReturned_keeps p 2).1.trans regs
  generalize x.noteReturned p 2 = y at kept same
  calc e.get R.portRtUndeliv p = ((y.bump R.portRtUndeliv p).raise I.portUndeliv p).get R.portRtUndeliv p :=
        kept.get R.portRtUndeliv p 0 0 (le_addrOf_port p rfl 0)
    _ = y.counted R.portRtUndeliv p := (y.bump_raise_shows R.portRtUndeliv I.portUndeliv p 1 (by decide) (by decide) away).1
    _ = d.counted R.portRtUndeliv p := by rw [Die.counted, Die.get_congr same, Die.counted]

end

/-! ### One record (R375 to R377, R381, R384; table End-to-end records) -/

/-- What leaves the die as it is for each member of a list leaves it as it is. -/
theorem Die.forAll_skip {α : Type} {f : Die → α → Die} {l : List α} (h : ∀ x ∈ l, ∀ e, f e x = e) (d : Die) : d.forAll l f = d := by
  induction l with
  | nil => rfl
  | cons x r ih => exact (congrArg (fun e : Die => e.forAll r f) (h x List.mem_cons_self d)).trans (ih fun y hy => h y (List.mem_cons_of_mem _ hy))

/-- Of 16 effects of which only the first does anything, the first remains. -/
theorem Die.forAll_first {f : Die → Nat → Die} (h : ∀ i, i ≠ 0 → ∀ e, f e i = e) (d : Die) : d.forAll (List.range 16) f = f d 0 := by
  have rest : ∀ i ∈ (List.range 15).map Nat.succ, ∀ e, f e i = e := fun i hi =>
    h i (by obtain ⟨j, -, rfl⟩ := List.mem_map.1 hi; exact Nat.succ_ne_zero j)
  rw [List.range_succ_eq_map]
  exact Die.forAll_skip rest (f d 0)

section
variable (d : Die) (fi : Nat) (q : BitVec 32) (b : Nat)

/-- A record's low half is its FSEQ. -/
theorem record_fseq : BitVec.ofNat 32 (q.toNat + 2 ^ 32 * b) = q :=
  BitVec.eq_of_toNat_eq (by rw [BitVec.toNat_ofNat, Nat.add_mul_mod_self_left, Nat.mod_eq_of_lt q.isLt])

/-- A record's high half holds its bits. -/
theorem record_high (i : Nat) : (q.toNat + 2 ^ 32 * b) / 2 ^ (32 + i) = b / 2 ^ i := by
  rw [pow_add, ← Nat.div_div_eq_div_mul, Nat.add_mul_div_left _ _ (Nat.two_pow_pos 32), Nat.div_eq_of_lt q.isLt, Nat.zero_add]

/-- Bit 0 alone is set in the number 1. -/
theorem one_div_two_pow_even {i : Nat} (h : i ≠ 0) : 1 / 2 ^ i % 2 ≠ 1 := by
  rw [Nat.div_eq_of_lt (Nat.one_lt_two_pow h)]
  decide

/-- A record whose one bit says that its FSEQ is DELIVERED. -/
theorem Die.applyDlvd_delivered : d.applyDlvd fi (q.toNat + 2 ^ 32) = d.applyOutcome fi q 0 := by
  have bits (i : Nat) : (q.toNat + 2 ^ 32) / 2 ^ (32 + i) = 1 / 2 ^ i := record_high q 1 i
  have high (i : Nat) : (q.toNat + 2 ^ 32) / 2 ^ (48 + i) = 1 / 2 ^ (16 + i) := by rw [← bits, ← Nat.add_assoc]
  have fseq : BitVec.ofNat 32 (q.toNat + 2 ^ 32) = q := record_fseq q 1
  unfold Die.applyDlvd
  dsimp only
  rw [Die.forAll_skip (fun i _ e => if_neg (by rw [high]; exact one_div_two_pow_even (by omega))),
    Die.forAll_first (fun i hi e => if_neg (by rw [bits]; exact one_div_two_pow_even hi)), if_pos (by rw [bits]; rfl), Nat.add_zero, fseq]

/-- A record whose one bit says that its FSEQ is HELD. -/
theorem Die.applyDlvd_held : d.applyDlvd fi (q.toNat + 2 ^ 48) = d.applyHeld fi q := by
  rw [show q.toNat + 2 ^ 48 = q.toNat + 2 ^ 32 * 2 ^ 16 by norm_num]
  have bits (i : Nat) : (q.toNat + 2 ^ 32 * 2 ^ 16) / 2 ^ (32 + i) = 2 ^ 16 / 2 ^ i := record_high q (2 ^ 16) i
  have high (i : Nat) : (q.toNat + 2 ^ 32 * 2 ^ 16) / 2 ^ (48 + i) = 1 / 2 ^ i := by
    rw [show 48 + i = 32 + (16 + i) by omega, bits, pow_add, ← Nat.div_div_eq_div_mul, Nat.div_self (Nat.two_pow_pos 16)]
  have none : ∀ i ∈ List.range 16, 2 ^ 16 / 2 ^ i % 2 ≠ 1 := by decide
  unfold Die.applyDlvd
  dsimp only
  rw [Die.forAll_first (fun i hi e => if_neg (by rw [high]; exact one_div_two_pow_even hi)), if_pos (by rw [high]; rfl),
    Die.forAll_skip (fun i hi e => if_neg (by rw [bits]; exact none i hi)), Nat.add_zero, record_fseq]

/-- A record that returns its FSEQ alone, with its reason. -/
theorem Die.applyRtnd_one {why : Nat} (h : why < 8) : d.applyRtnd fi (q.toNat + 2 ^ 32 * why) = d.applyOutcome fi q (BitVec.ofNat 3 why) := by
  have alone : (q.toNat + 2 ^ 32 * why) / 2 ^ 35 = 0 := (record_high q why 3).trans (Nat.div_eq_of_lt h)
  have reason : (q.toNat + 2 ^ 32 * why) / 2 ^ 32 = why := (record_high q why 0).trans (Nat.div_one why)
  unfold Die.applyRtnd
  dsimp only
  rw [alone, reason, record_fseq]
  exact if_neg (by decide)

end

/-! ### A record for an entry that is found (R376, R377, R381, R384) -/

section
variable (d : Die) {fi k : Nat} {q : BitVec 32} (h : d.entryOf fi q = some k)
include h

/-- An entry that has not settled takes the outcome. -/
theorem Die.applyOutcome_settles (out : BitVec 3) (hs : (d.led k).state ≠ .settled) : d.applyOutcome fi q out = d.settle k out := by
  unfold Die.applyOutcome
  rw [h]
  exact if_neg hs

/-- HELD ends the retransmission of an entry that is QUEUED or SENT. -/
theorem Die.applyHeld_holds (hs : (d.led k).state = .queued ∨ (d.led k).state = .sent) :
    d.applyHeld fi q = d.setLed k { d.led k with state := .held, waiting := false, ready := false } := by
  unfold Die.applyHeld
  rw [h]
  exact if_pos hs

/-- A NAK fails the attempt that went by its path. -/
theorem Die.applyNak_fails (hs : (d.led k).state = .sent) (hw : (d.led k).waiting = false) :
    d.applyNak fi (q.toNat + 2 ^ 32 * (d.led k).path.toNat) = (d.bump R.portNakRx (k / 4096)).failAttempt k := by
  have path : (q.toNat + 2 ^ 32 * (d.led k).path.toNat) / 2 ^ 32 % 16 = (d.led k).path.toNat := by
    have := (d.led k).path.isLt
    rw [show _ = _ from record_high q (d.led k).path.toNat 0]
    omega
  have same : (d.bump R.portNakRx (k / 4096)).led k = d.led k := Die.led_congr (d.bump_dlv _ _ _ _) k
  unfold Die.applyNak
  rw [record_fseq, h]
  dsimp only
  rw [same, path]
  exact if_pos (by simp [hs, hw])

end

/-- An entry after a failed attempt, below the fourth on its path: the path's count, and the next copy a tick later. -/
def LedEnt.attemptFailed (x : LedEnt) (now : BitVec 48) : LedEnt :=
  { x with fail := smapSet 0 x.fail x.path.toNat (smapGet 0 x.fail x.path.toNat + 1), waiting := true, due := now + 1 }

theorem Die.failAttempt_few (d : Die) (k : Nat) (h : smapGet 0 (d.led k).fail (d.led k).path.toNat < 3) :
    d.failAttempt k = d.setLed k ((d.led k).attemptFailed d.tick.count) := by
  have few : min 7 (smapGet 0 (d.led k).fail (d.led k).path.toNat + 1) = smapGet 0 (d.led k).fail (d.led k).path.toNat + 1 := by omega
  unfold Die.failAttempt
  dsimp only
  rw [few, if_neg (by omega)]
  rfl

/-- What a NAK leaves of the entry whose attempt it fails, below the fourth failure on its path. -/
theorem Die.nakked_shows (d : Die) (k : Nat) (h : smapGet 0 (d.led k).fail (d.led k).path.toNat < 3) :
    let e := (d.bump R.portNakRx (k / 4096)).failAttempt k
    ChangesLed d e k ((d.led k).attemptFailed d.tick.count) ∧ e.get R.portNakRx (k / 4096) = d.counted R.portNakRx (k / 4096)
      ∧ OnlyReports d { e with dlv := d.dlv } [R.portNakRx.addrOf (k / 4096)] := by
  intro e
  have reach := OnlyReports.bump d R.portNakRx (k / 4096) 0 1
  have same := Die.led_congr reach.units.dlv k
  have fails : e = (d.bump R.portNakRx (k / 4096)).setLed k _ := Die.failAttempt_few _ k (same.symm ▸ h)
  rw [fails, same, reach.units.tick]
  exact ⟨(ChangesLed.setLed _ k _).of_dlv reach.units.dlv rfl, Die.get_bump d R.portNakRx _ 0 1 (by decide),
    { reach with units := { reach.units with dlv := rfl } }⟩

/-! ### A packet of records (R375, R376) -/

/-- A packet of end-to-end records whose checks hold, for this die and one of its flows. -/
def Die.recordsFor (d : Die) (pk : Packet) (op : BitVec 8) (fi : Nat) (fl : SrcFlow) : Prop :=
  pk.op = op ∧ eidDie pk.deid = d.pos ∧ pk.hcrcOk = true ∧ pk.crc64Ok = true ∧ d.e2eFlow pk = some (fi, fl)

section
variable {d : Die} {pk : Packet} {op : BitVec 8} (f : Die → Nat → Nat → Die)

theorem Die.onRecords_applies {fi : Nat} {fl : SrcFlow} (h : d.recordsFor pk op fi fl) :
    d.onRecords pk op f = (Die.e2eRecords pk).foldl (fun d r => f d fi r) d := by
  obtain ⟨hop, hdie, hh, hc, hfl⟩ := h
  unfold Die.onRecords
  rw [if_neg (by simp [hop, hdie, hh, hc]), hfl]
  rfl

/-- One record applied. -/
theorem Die.onRecords_one {fi r : Nat} {fl : SrcFlow} (h : d.recordsFor pk op fi fl) (hr : Die.e2eRecords pk = [r]) :
    d.onRecords pk op f = f d fi r := by
  rw [Die.onRecords_applies f h, hr]
  rfl

theorem Die.onRecords_fails (h : pk.hcrcOk = false ∨ pk.crc64Ok = false ∨ eidDie pk.deid ≠ d.pos) : d.onRecords pk op f = d := by
  unfold Die.onRecords
  refine if_pos ?_
  rcases h with h | h | h <;> simp [h]

end

/-! ### Echoes (R407) -/

section
variable (d : Die)

/-- An echo's path bits join the counts of a harp row, and the echo counts. -/
def Die.noteEcho (n mask : Nat) : Die :=
  (d.setHarpRow n { d.harpRow n with echo := (List.range 16).map (fun i => (d.harpRow n).echo.getD i 0 + mask / 2 ^ i % 2) }).bump R.harpEchoes

/-- A received echo: the row of the destination's node, then the flow. -/
def Die.takeEcho (pk : Packet) : Die :=
  if pk.op ≠ 0x23 ∨ eidDie pk.deid ≠ d.pos ∨ ¬ pk.hcrcOk ∨ ¬ pk.crc64Ok then d
  else match (d.noteEcho (eidNode pk.seid) (leNat (pk.payload.take 2))).e2eFlow pk with
    | none => d.noteEcho (eidNode pk.seid) (leNat (pk.payload.take 2))
    | some (fi, f) =>
      ((d.noteEcho (eidNode pk.seid) (leNat (pk.payload.take 2))).modSrc fi (fun f => { f with echoed := true })).bump R.portEchoRx f.port

theorem exec_echoRx (pk : Packet) (s : State) : exec (.echoRx pk) s = act s (fun d => d.takeEcho pk) := rfl

theorem Die.harpRow_congr {d e : Die} (h : e.harp = d.harp) (n : Nat) : e.harpRow n = d.harpRow n := by rw [Die.harpRow, h, Die.harpRow]

theorem Die.flow_congr {d e : Die} (h : e.dlv = d.dlv) (g : Nat) : e.flow g = d.flow g := by rw [Die.flow, h, Die.flow]

theorem Die.e2eFlow_congr {d e : Die} (h : e.dlv = d.dlv) (pk : Packet) : e.e2eFlow pk = d.e2eFlow pk := by
  unfold Die.e2eFlow Die.srcFlow
  rw [h]

theorem Die.noteEcho_dlv (n mask : Nat) : (d.noteEcho n mask).dlv = d.dlv := Die.bump_dlv _ _ _ _ _

theorem Die.noteEcho_reach (n mask : Nat) : OnlyReports d { d.noteEcho n mask with harp := d.harp } [R.harpEchoes.addrOf] :=
  (OnlyReports.bump _ R.harpEchoes 0 0 1).harp_changed _

/-- The row shows each path bit counted. -/
theorem Die.noteEcho_echo (n mask : Nat) (b : Fin 16) :
    ((d.noteEcho n mask).harpRow n).echo.getD b.val 0 = (d.harpRow n).echo.getD b.val 0 + mask / 2 ^ b.val % 2 := by
  have row : (d.noteEcho n mask).harpRow n
      = { d.harpRow n with echo := (List.range 16).map (fun i => (d.harpRow n).echo.getD i 0 + mask / 2 ^ i % 2) } :=
    (Die.harpRow_congr (Die.bump_harp _ _ _ _ _) n).trans (smapGet_set_self _ _ _ _)
  rw [row]
  simp [b.isLt]

/-- A flow is marked, and the echo counts at its port. -/
def Die.markFlow (fi : Nat) (fl : SrcFlow) : Die := (d.setFlow fi (.src { fl with echoed := true })).bump R.portEchoRx fl.port

theorem Die.markFlow_reach (fi : Nat) (fl : SrcFlow) : OnlyReports d { d.markFlow fi fl with dlv := d.dlv } [R.portEchoRx.addrOf fl.port] :=
  (OnlyReports.bump _ R.portEchoRx fl.port 0 1).dlv_changed _

theorem Die.markFlow_changes (fi : Nat) (fl : SrcFlow) : ChangesFlow d (d.markFlow fi fl) fi (.src { fl with echoed := true }) := by
  have flows (g : Nat) : (d.markFlow fi fl).flow g = (d.setFlow fi (.src { fl with echoed := true })).flow g := Die.flow_congr (Die.bump_dlv _ _ _ _ _) g
  obtain ⟨own, others⟩ := d.setFlow_changes fi (.src { fl with echoed := true })
  exact ⟨(flows fi).trans own, fun g hg => (flows g).trans (others g hg)⟩

theorem Die.markFlow_counts (fi : Nat) (fl : SrcFlow) : (d.markFlow fi fl).get R.portEchoRx fl.port = d.counted R.portEchoRx fl.port :=
  Die.get_bump _ R.portEchoRx fl.port 0 1 (by decide)

/-- An echo of a flow marks it. -/
theorem Die.takeEcho_marks {pk : Packet} {fi : Nat} {fl : SrcFlow} (h : d.recordsFor pk 0x23 fi fl) (hf : d.flow fi = .src fl) :
    d.takeEcho pk = (d.noteEcho (eidNode pk.seid) (leNat (pk.payload.take 2))).markFlow fi fl := by
  obtain ⟨hop, hdie, hh, hc, hfl⟩ := h
  have noted := d.noteEcho_dlv (eidNode pk.seid) (leNat (pk.payload.take 2))
  unfold Die.takeEcho Die.modSrc
  rw [if_neg (by simp [hop, hdie, hh, hc]), Die.e2eFlow_congr noted, hfl]
  dsimp only
  rw [Die.flow_congr noted, hf]
  rfl

/-- What an echo of a flow shows, in the row and in the flow. -/
theorem Die.markFlow_noteEcho (n mask fi : Nat) (fl : SrcFlow) (b : Fin 16) :
    (((d.noteEcho n mask).markFlow fi fl).harpRow n).echo.getD b.val 0 = (d.harpRow n).echo.getD b.val 0 + mask / 2 ^ b.val % 2
      ∧ ChangesFlow d ((d.noteEcho n mask).markFlow fi fl) fi (.src { fl with echoed := true })
      ∧ ((d.noteEcho n mask).markFlow fi fl).get R.harpEchoes = d.counted R.harpEchoes
      ∧ ((d.noteEcho n mask).markFlow fi fl).get R.portEchoRx fl.port = d.counted R.portEchoRx fl.port
      ∧ OnlyReports d { (d.noteEcho n mask).markFlow fi fl with dlv := d.dlv, harp := d.harp } [R.harpEchoes.addrOf, R.portEchoRx.addrOf fl.port] := by
  have noted := d.noteEcho_reach n mask
  have dlv := d.noteEcho_dlv n mask
  have echo := d.noteEcho_echo n mask b
  have count : (d.noteEcho n mask).get R.harpEchoes = d.counted R.harpEchoes := Die.get_bump _ R.harpEchoes 0 0 1 (by decide)
  have port := le_addrOf_port fl.port (g := R.portEchoRx) rfl 0
  have away : R.portEchoRx.addrOf fl.port ≠ R.harpEchoes.addrOf := ne_of_gt (Nat.lt_of_lt_of_le (by decide) port)
  have other : (d.noteEcho n mask).get R.portEchoRx fl.port = d.get R.portEchoRx fl.port := noted.get R.portEchoRx fl.port 0 0 (by simpa using away)
  generalize d.noteEcho n mask = y at noted dlv echo count other ⊢
  have reach := y.markFlow_reach fi fl
  obtain ⟨own, others⟩ := y.markFlow_changes fi fl
  have counts := y.markFlow_counts fi fl
  have row : (y.markFlow fi fl).harpRow n = y.harpRow n := Die.harpRow_congr (e := { y.markFlow fi fl with dlv := y.dlv }) reach.units.harp n
  have frame : OnlyReports { y with harp := d.harp } { y.markFlow fi fl with dlv := d.dlv, harp := d.harp } [R.portEchoRx.addrOf fl.port] :=
    { reach with units := { reach.units with dlv := dlv.symm, harp := rfl } }
  refine ⟨(congrArg (fun r : HarpRow => r.echo.getD b.val 0) row).trans echo, ⟨own, fun g hg => (others g hg).trans (Die.flow_congr dlv g)⟩,
    (reach.get R.harpEchoes 0 0 0 (by simpa using away.symm)).trans count, ?_, noted.trans frame⟩
  rw [counts, Die.counted, other, Die.counted]

theorem Die.takeEcho_fails {pk : Packet} (h : pk.hcrcOk = false ∨ pk.crc64Ok = false ∨ eidDie pk.deid ≠ d.pos) : d.takeEcho pk = d := by
  unfold Die.takeEcho
  refine if_pos ?_
  rcases h with h | h | h <;> simp [h]

end

/-! ### The statement -/

/-- Settles O32: a packet whose checks hold has its one record applied, each kind through the lemma about its record. -/
theorem sourceTakesRecords : Obligations.SourceTakesRecords := by
  intro s pk fi fl q k b ha d here x names
  have live (hn : names) (hs : x.state ≠ .held) : x.state = .queued ∨ x.state = .sent := by
    obtain ⟨-, hf, hd⟩ := hn
    cases hx : x.state <;> simp_all
  refine ⟨?dlvd, ?nak, ?rtnd, ?delivered, ?holds, ?returned, ?fails, ?ignored, ?echo⟩
  case dlvd => exact fun h => becomes_of_act _ s _ _ rfl ha (Die.onRecords_applies _ h)
  case nak => exact fun h => becomes_of_act _ s _ _ rfl ha (Die.onRecords_applies _ h)
  case rtnd => exact fun h => becomes_of_act _ s _ _ rfl ha (Die.onRecords_applies _ h)
  case delivered =>
    rintro h ⟨hk, hf, hs⟩ hr
    refine completes_of_act _ s _ _ rfl ha ?_
    rw [Die.onRecords_one _ h hr, Die.applyDlvd_delivered, Die.applyOutcome_settles _ hk _ hs]
    have settles := d.settle_settles k 0 hf hs
    exact ⟨settles.receipt, settles.delivered⟩
  case holds =>
    intro h hn hs hr
    refine completes_of_act _ s _ _ rfl ha ?_
    rw [Die.onRecords_one _ h hr, Die.applyDlvd_held, Die.applyHeld_holds _ hn.1 (live hn hs)]
    exact ⟨ChangesLed.setLed d k _, (OnlyRegs.refl d []).dlv_changed _⟩
  case returned =>
    rintro h ⟨hk, hf, hs⟩ hr
    refine completes_of_act _ s _ _ rfl ha ?_
    rw [Die.onRecords_one _ h hr, Die.applyRtnd_one _ _ _ (by decide), Die.applyOutcome_settles _ hk _ hs]
    have settles := d.settle_settles k 2 hf hs
    exact ⟨settles.receipt, settles.undeliverable⟩
  case fails =>
    rintro h ⟨hk, -, -⟩ hs hw few hr
    refine completes_of_act _ s _ _ rfl ha ?_
    rw [Die.onRecords_one _ h hr, Die.applyNak_fails _ hk hs hw]
    exact d.nakked_shows k few
  case ignored =>
    intro h
    exact ⟨becomes_of_act _ s _ _ rfl ha (Die.onRecords_fails _ h), becomes_of_act _ s _ _ rfl ha (Die.onRecords_fails _ h),
      becomes_of_act _ s _ _ rfl ha (Die.onRecords_fails _ h), becomes_of_act _ s _ _ (exec_echoRx pk s) ha (d.takeEcho_fails h)⟩
  case echo =>
    intro h hf
    refine completes_of_act _ s _ _ (exec_echoRx pk s) ha ?_
    rw [Die.takeEcho_marks _ h hf]
    exact d.markFlow_noteEcho _ _ fi fl b

end Sys2Proof.Machine
end

section
/-!
PROOF. The withdrawal of old copies (spec 08, R373) on a switch whose queue is no canonical table: it lists one output twice. The statement takes every state,
also such a one: the first list of an output hides the second, and a list that the withdrawal empties is no longer listed.
-/
namespace Sys2Proof.Machine

/-- An endpoint's copy at an output, held for some ticks. -/
def heldCopy (held : Nat) : QEnt :=
  { pkt := { Packet.blank with op := 1 }, inPort := 64, inVc := 0, age := 0, carried := false, ledger := none, far := none, held := held, cell := none }

/-- The die after reset, but output VC 0 of port 0 is listed twice: first with a copy held for 128 ticks, then with a new one. -/
def twiceListed : State :=
  { State.reset with die := { Die.reset with sw := { Die.reset.sw with queue := [(0, [heldCopy 128]), (0, [heldCopy 0])] } } }

/-- The command withdraws the old copy, and the new one, which was hidden, comes to light. -/
theorem copyLifetimeDrop_twiceListed {e : Die} (h : exec (.copyLifetimeDrop 0 0) twiceListed = .next { twiceListed with die := e }) :
    e.heads 0 = [heldCopy 0] := by
  injection h with next
  injection next with _ die
  rw [← die]
  rfl

/-- Refutes O33: COPY_LIFETIME_DROP leaves the output of `twiceListed` with a copy that did not stand there before, where the statement has it show what it
showed without the old copies, which is nothing. -/
theorem not_timersAndCongestion : ¬ Obligations.TimersAndCongestion := by
  rintro ⟨-, congestion⟩
  obtain ⟨-, -, drop, -⟩ := congestion twiceListed 0
    { key := { seid := 0, deid := 0, tid := 0, cls := 0 }, port := 0, nextFseq := 0, rate := 1, echoed := false, due := 0, elig := false, idle := 0 }
    0 0 0 rfl
  obtain ⟨e, ran, kept, -⟩ := drop rfl
  have emptied : e.heads 0 = [] := kept
  have shown : e.heads 0 = [heldCopy 0] := copyLifetimeDrop_twiceListed ran
  exact absurd (shown.symm.trans emptied) (List.cons_ne_nil _ _)

end Sys2Proof.Machine
end

section
/-!
PROOF. The records and the memory of the buffer pools (spec 10): what a cell's record and bytes show after each operation on them, and how far an
effect on the pools reaches.
-/
namespace Sys2Proof.Machine

/-! ### Tables of bytes -/

/-- A read of a table that keeps only some keys. -/
theorem smapGet_filter_key {β : Type} (v : β) (m : SMap β) (p : Nat → Bool) (k : Nat) :
    smapGet v (m.filter (fun e => p e.1)) k = if p k then smapGet v m k else v := by
  induction m with
  | nil => simp
  | cons e r ih =>
    obtain ⟨i, w⟩ := e
    by_cases keep : p i = true
    · rw [List.filter_cons_of_pos (p := fun e : Nat × β => p e.1) keep, smapGet, smapGet, ih]
      by_cases hi : i = k
      · simp [← hi, keep]
      · simp [hi]
    · rw [List.filter_cons_of_neg (p := fun e : Nat × β => p e.1) keep, ih, smapGet]
      by_cases hi : i = k
      · simp [← hi, keep]
      · simp [hi]

/-- A read after a run of bytes has been put from `a` up. -/
theorem smapGet_bytesPut (bs : List Byte) (m : SMap Byte) (a k : Nat) :
    smapGet 0 (bytesPut m a bs) k = if a ≤ k ∧ k < a + bs.length then bs.getD (k - a) 0 else smapGet 0 m k := by
  induction bs generalizing m a with
  | nil => simp [bytesPut]
  | cons b r ih =>
    rw [bytesPut, ih, smapGet_set, List.length_cons]
    rcases Nat.lt_trichotomy k a with h | rfl | h
    · rw [if_neg (by omega), if_neg (by omega), if_neg (by omega)]
    · rw [if_neg (by omega), if_pos rfl, if_pos (by omega), Nat.sub_self, List.getD_cons_zero]
    · obtain ⟨i, rfl⟩ := Nat.exists_eq_add_of_lt h
      have next : a + i + 1 - a = i + 1 := by omega
      have rest : a + i + 1 - (a + 1) = i := by omega
      rw [if_neg (by omega : ¬ a + i + 1 = a), next, rest, List.getD_cons_succ]
      exact if_congr (by omega) rfl rfl

/-! ### Cells: records and bytes (R456, R460, R463) -/

/-- Each cell has a record of its own. -/
theorem cellKey_inj {n ix n' ix' : Nat} (h : ix < 2 ^ 20) (h' : ix' < 2 ^ 20) (k : cellKey n' ix' = cellKey n ix) : (n', ix') = (n, ix) := by
  unfold cellKey at k
  exact Prod.ext (by dsimp only; omega) (by dsimp only; omega)

section
variable {d e : Die} {n ix : Nat}

theorem Die.hcell_congr (h : e.hoops.cells = d.hoops.cells) (n ix : Nat) : e.hcell n ix = d.hcell n ix := by rw [Die.hcell, h, Die.hcell]

theorem Die.cellRead_congr (h : e.hoops.mem = d.hoops.mem) (n ix o len : Nat) : e.cellRead n ix o len = d.cellRead n ix o len := by
  rw [Die.cellRead, h, Die.cellRead]

theorem Die.hcell_modCell (d : Die) (n ix : Nat) (g : HoopCell → HoopCell) : (d.modCell n ix g).hcell n ix = g (d.hcell n ix) :=
  smapGet_mod_self _ _ _ _

theorem Die.hcell_modCell_other (d : Die) (g : HoopCell → HoopCell) {n' ix' : Nat} (h : ix < 2 ^ 20) (h' : ix' < 2 ^ 20)
    (k : (n', ix') ≠ (n, ix)) : (d.modCell n ix g).hcell n' ix' = d.hcell n' ix' :=
  (smapGet_mod _ _ _ _ _).trans (if_neg fun same => k (cellKey_inj h h' same))

@[simp] theorem Die.modCell_mem (d : Die) (n ix : Nat) (g : HoopCell → HoopCell) : (d.modCell n ix g).hoops.mem = d.hoops.mem := rfl

@[simp] theorem Die.cellWrite_cells (d : Die) (n ix o : Nat) (bs : List Byte) : (d.cellWrite n ix o bs).hoops.cells = d.hoops.cells := rfl

/-- Bytes written into a cell read back. -/
theorem Die.cellRead_cellWrite (d : Die) (n ix o : Nat) {len : Nat} {bs : List Byte} (h : bs.length = len) :
    (d.cellWrite n ix o bs).cellRead n ix o len = bs := by
  subst h
  refine List.ext_getElem (by simp [Die.cellRead]) fun i hi hb => ?_
  simp only [Die.cellRead, Die.cellWrite, List.getElem_map, List.getElem_range, smapGet_bytesPut]
  rw [if_pos (by omega), Nat.add_sub_cancel_left, List.getD_eq_getElem _ _ hb]

/-- Bytes of the cell past those written are as they were. -/
theorem Die.cellRead_cellWrite_past (d : Die) (n ix : Nat) {o o' : Nat} (len : Nat) {bs : List Byte} (h : o + bs.length ≤ o') :
    (d.cellWrite n ix o bs).cellRead n ix o' len = d.cellRead n ix o' len := by
  unfold Die.cellRead Die.cellWrite
  refine List.map_congr_left fun i _ => ?_
  rw [smapGet_bytesPut, if_neg (by omega)]

/-- One of the bytes written. -/
theorem Die.cellRead_cellWrite_byte (d : Die) (n ix : Nat) {o : Nat} {bs : List Byte} (h : o < bs.length) :
    (d.cellWrite n ix 0 bs).cellRead n ix o 1 = [bs.getD o 0] := by
  unfold Die.cellRead Die.cellWrite
  rw [List.range_one, List.map_singleton, smapGet_bytesPut, if_pos (by omega)]
  congr 2
  omega

/-- A zeroed cell reads as zeros. -/
theorem Die.cellRead_zeroCell (d : Die) (n ix : Nat) {o len : Nat} (h : o + len ≤ 65536) :
    (d.zeroCell n ix).cellRead n ix o len = List.replicate len 0 := by
  refine List.ext_getElem (by simp [Die.cellRead]) fun i hi _ => ?_
  simp only [Die.cellRead, List.length_map, List.length_range] at hi
  have inside : (65536 * cellKey n ix + o + i) / 65536 = cellKey n ix := by omega
  simp only [Die.cellRead, Die.zeroCell, List.getElem_map, List.getElem_range, List.getElem_replicate]
  rw [smapGet_filter_key 0 d.hoops.mem (fun a => a / 65536 != cellKey n ix), inside]
  simp

end

/-! ### The stack of a pool (R458, R460) -/

/-- A cell on top of its pool's stack. -/
def Die.pushCell (d : Die) (n ix : Nat) : Die := { d with hoops := { d.hoops with pushed := smapMod [] d.hoops.pushed n (ix :: ·) } }

theorem Die.hoopTop_pushCell (d : Die) (n ix : Nat) : (d.pushCell n ix).hoopTop n = some ix := by
  have stack : (d.pushCell n ix).hpushed n = ix :: d.hpushed n := smapGet_mod_self [] d.hoops.pushed n (ix :: ·)
  rw [Die.hoopTop, stack]

/-- The stack without its top: the rest of the die stays. -/
theorem Die.dropTop_eq (d : Die) (n : Nat) : ∃ p m, d.dropTop n = { d with hoops := { d.hoops with pushed := p, next := m } } := by
  unfold Die.dropTop
  split
  next => exact ⟨_, _, rfl⟩
  next =>
    split
    next => exact ⟨_, _, rfl⟩
    next => exact ⟨_, _, rfl⟩

theorem Die.hcell_dropTop (d : Die) (n n' ix : Nat) : (d.dropTop n).hcell n' ix = d.hcell n' ix := by
  obtain ⟨p, m, rest⟩ := d.dropTop_eq n
  exact Die.hcell_congr (by rw [rest]) n' ix

theorem Die.cellRead_dropTop (d : Die) (n n' ix o len : Nat) : (d.dropTop n).cellRead n' ix o len = d.cellRead n' ix o len := by
  obtain ⟨p, m, rest⟩ := d.dropTop_eq n
  exact Die.cellRead_congr (by rw [rest]) n' ix o len

theorem freeHeader_length (n ix next : Nat) : (freeHeader n ix next).length = 16 := by simp [freeHeader]

/-! ### How far an effect on the pools reaches -/

/-- Beside the pools and telemetry, the effect reaches the dwords listed and what reports carry with them. -/
abbrev PoolReports (d e : Die) (as : List Nat) : Prop := OnlyReports d { e with hoops := d.hoops, telem := d.telem } as

namespace PoolReports
variable {d e f : Die} {as bs : List Nat}

theorem inner (d : Die) (x : HoopSt) (y : TelemSt) : PoolReports d { d with hoops := x, telem := y } [] := .refl d []

theorem cellWrite (d : Die) (n ix o : Nat) (bs : List Byte) : PoolReports d (d.cellWrite n ix o bs) [] := inner d _ d.telem

theorem dropTop (d : Die) (n : Nat) : PoolReports d (d.dropTop n) [] := by
  obtain ⟨p, m, rest⟩ := d.dropTop_eq n
  rw [rest]
  exact inner d _ d.telem

theorem zeroCell (d : Die) (n ix : Nat) : PoolReports d (d.zeroCell n ix) [] := inner d _ d.telem

theorem modCell (d : Die) (n ix : Nat) (g : HoopCell → HoopCell) : PoolReports d (d.modCell n ix g) [] := inner d _ d.telem

theorem of_reports (h : OnlyReports d e as) : PoolReports d e as := { h with units := { h.units with hoops := rfl }, telem := rfl }

theorem trans (h : PoolReports d e as) (k : PoolReports e f bs) : PoolReports d f (as ++ bs) :=
  OnlyReports.trans h (f := { f with hoops := d.hoops, telem := d.telem }) { k with units := { k.units with hoops := rfl }, telem := rfl }

end PoolReports

/-- The pools changed before reports: set back, only the reports are left. -/
theorem OnlyReports.after_hoops {d e f : Die} {as bs : List Nat} (h : OnlyReports d { e with hoops := d.hoops } as) (k : OnlyReports e f bs) :
    OnlyReports d { f with hoops := d.hoops } (as ++ bs) :=
  h.trans (f := { f with hoops := d.hoops }) { k with units := { k.units with hoops := rfl } }

theorem OnlyReports.then_cellWrite {d e : Die} {as : List Nat} (n ix o : Nat) (bs : List Byte) (h : OnlyReports d { e with hoops := d.hoops } as) :
    OnlyReports d { e.cellWrite n ix o bs with hoops := d.hoops } as := h

theorem OnlyLogs.then_emit {d e : Die} {as : List Nat} (h : OnlyLogs d e as) (o : Out) : OnlyLogs d (e.emit o) as :=
  { h with units := { h.units with }, out := h.out.trans (List.prefix_append _ _) }

theorem OnlyReports.tcount (d : Die) (k n : Nat) : OnlyReports d (d.tcount k n) [] :=
  { OnlyReports.refl d [] with units := { KeepsUnits.refl d with }, telem := rfl }

/-- MINFREE, LOW and telemetry's least count are all that a fall of FREE changes (R1057). -/
theorem Die.hoopFell_reach (d : Die) (n before : Nat) :
    (d.hoopFell n before).hoops = d.hoops ∧ PoolReports d (d.hoopFell n before) [R.hoopMinfreeMin.addrOf 0 n, I.hoopLow.addrOf] := by
  unfold Die.hoopFell
  extract_lets f telem x y low
  have least : x.hoops = d.hoops ∧ PoolReports d x [] := ⟨rfl, .inner d _ _⟩
  have fewest : y.hoops = d.hoops ∧ PoolReports d y [R.hoopMinfreeMin.addrOf 0 n] := by
    show (if _ then _ else _ : Die).hoops = d.hoops ∧ PoolReports d (if _ then _ else _) _
    split
    case isTrue => exact ⟨least.1, least.2.trans (.of_reports (OnlyRegs.set x _ f 0 n 0).reports)⟩
    case isFalse => exact ⟨least.1, least.2.mono (by simp)⟩
  split
  case isTrue => exact ⟨(y.raise_hoops _ _ _).trans fewest.1, fewest.2.trans (.of_reports (.raise y I.hoopLow 0 0))⟩
  case isFalse => exact ⟨fewest.1, fewest.2.mono (by simp)⟩

end Sys2Proof.Machine
end

section
/-!
PROOF. The commands of the buffer pools (spec 10): ALLOC (R451 to R456, R463, R777, R1059), RELEASE and FREE (R458, R460, R467 to R470).
-/
namespace Sys2Proof.Machine

/-! ### A request (R451, R463, R777) -/

/-- A request that ALLOC may take up: a size that a cell holds, and one to eight owners, all different and of known kinds (R451, R463). -/
def LegalReq (r : HoopReq) : Prop :=
  r.size ≠ 0 ∧ r.size.toNat ≤ 65536 ∧ r.owners ≠ [] ∧ r.owners.length ≤ 8 ∧ r.owners.Nodup ∧ r.owners.all ownerKindOk = true

/-- The request is the steward's, or its tenant is ACTIVE (R777). -/
def ActiveReq (d : Die) (r : HoopReq) : Prop := r.mgmt = true ∨ d.get R.tenStatState (r.tid.toNat / 4) (r.tid.toNat % 4) = 1

section
variable (d : Die) (r : HoopReq) (found : Option (List Byte))

theorem legalReq_iff : LegalReq r ↔ (r.size = 0 || decide (65536 < r.size.toNat) || r.owners.isEmpty || decide (8 < r.owners.length)
    || !r.owners.Nodup || !r.owners.all ownerKindOk) = false := by
  simp [LegalReq, and_assoc]

theorem activeReq_iff : ActiveReq d r ↔ (!r.mgmt && d.get R.tenStatState (r.tid.toNat / 4) (r.tid.toNat % 4) != 1) = false := by
  simp [ActiveReq, or_iff_not_imp_left]

theorem Die.hoopAlloc_illegal (h : ¬ LegalReq r) : d.hoopAlloc r found = (d, 9, 0) :=
  if_pos (by rwa [legalReq_iff, Bool.not_eq_false] at h)

theorem Die.hoopAlloc_inactive (h : LegalReq r) (ha : ¬ ActiveReq d r) :
    d.hoopAlloc r found = ((d.bump R.hoopNocell).tcount (hoopTel (poolFor r.size.toNat) 3) 1, 2, 0) := by
  rw [legalReq_iff] at h
  rw [activeReq_iff, Bool.not_eq_false] at ha
  rw [Die.hoopAlloc, if_neg (ne_true_of_eq_false h), if_pos (by rw [ha, Bool.or_true])]

/-! ### A cell taken (R453 to R456, R463) -/

/-- The record of a cell taken for a request. -/
def recordFor (r : HoopReq) (c : HoopCell) : HoopCell :=
  { c with tid := r.tid, mgmt := r.mgmt, owners := r.owners, lastTid := c.tid, lastMgmt := c.mgmt, charged := true }

/-- The charge stays with the tenant, or with the steward, that it had: the cell keeps its bytes (R456). -/
def sameCharge (r : HoopReq) (c : HoopCell) : Bool := c.charged && c.mgmt == r.mgmt && (r.mgmt || c.tid == r.tid)

theorem sameCharge_iff (c : HoopCell) : sameCharge r c = true ↔ c.charged = true ∧ c.mgmt = r.mgmt ∧ (r.mgmt = true ∨ c.tid = r.tid) := by
  simp [sameCharge, and_assoc]

theorem sameCharge_eq_false {c : HoopCell} (h : c.charged = false ∨ c.mgmt ≠ r.mgmt ∨ (r.mgmt = false ∧ c.tid ≠ r.tid)) :
    sameCharge r c = false := by
  refine eq_false_of_ne_true fun same => ?_
  obtain ⟨charged, mgmt, tid⟩ := (sameCharge_iff r c).1 same
  rcases h with h | h | ⟨tenant, h⟩
  · exact Bool.false_ne_true (h.symm.trans charged)
  · exact h mgmt
  · exact tid.elim (ne_true_of_eq_false tenant) h

section
variable (n ix : Nat)

/-- The die with a cell's memory made ready for a request: its header cleared, and the whole cell before it where the charge changes (R456). -/
def Die.clearCell : Die :=
  (if sameCharge r (d.hcell n ix) then d else d.zeroCell n ix).cellWrite n ix 0 (List.replicate 16 0)

theorem Die.takeCell_eq : d.takeCell n ix r.tid r.mgmt r.owners = (d.clearCell r n ix).modCell n ix (recordFor r) := rfl

theorem Die.clearCell_cells : (d.clearCell r n ix).hoops.cells = d.hoops.cells := by
  rw [Die.clearCell, Die.cellWrite_cells]
  split
  case isTrue => rfl
  case isFalse => rfl

theorem Die.clearCell_reach : PoolReports d (d.clearCell r n ix) [] := by
  unfold Die.clearCell
  split
  case isTrue => exact .cellWrite d n ix 0 _
  case isFalse => exact (PoolReports.zeroCell d n ix).trans (.cellWrite _ n ix 0 _)

theorem Die.clearCell_header : (d.clearCell r n ix).cellRead n ix 0 16 = List.replicate 16 0 :=
  Die.cellRead_cellWrite _ n ix 0 List.length_replicate

/-- The header is cleared, and so is the rest of a cell whose charge changes. -/
theorem Die.clearCell_changed (h : sameCharge r (d.hcell n ix) = false) {o : Nat} (ho : o < 65536) :
    (d.clearCell r n ix).cellRead n ix o 1 = [0] := by
  rw [Die.clearCell, if_neg (ne_true_of_eq_false h)]
  rcases Nat.lt_or_ge o 16 with header | past
  · rw [Die.cellRead_cellWrite_byte _ n ix (by simpa using header), List.getD_replicate]
    exact header
  · rw [Die.cellRead_cellWrite_past _ n ix 1 (by simpa using past)]
    exact d.cellRead_zeroCell n ix ho

theorem Die.clearCell_same (h : sameCharge r (d.hcell n ix) = true) {o : Nat} (ho : 16 ≤ o) :
    (d.clearCell r n ix).cellRead n ix o 1 = d.cellRead n ix o 1 := by
  rw [Die.clearCell, if_pos h]
  exact d.cellRead_cellWrite_past n ix 1 (by simpa using ho)

/-- The die with the top of a pool's stack taken for a request, and the pool's counts brought up to date. -/
def Die.allocCell : Die := (((d.dropTop n).takeCell n ix r.tid r.mgmt r.owners).hoopFell n (d.hfree n)).tcount (hoopTel n 0) 1

theorem Die.allocCell_hoops : (d.allocCell r n ix).hoops = (((d.dropTop n).clearCell r n ix).modCell n ix (recordFor r)).hoops :=
  (Die.hoopFell_reach _ n _).1

theorem Die.allocCell_reach : PoolReports d (d.allocCell r n ix) [R.hoopMinfreeMin.addrOf 0 n, I.hoopLow.addrOf] :=
  ((((PoolReports.dropTop d n).trans (Die.clearCell_reach _ r n ix)).trans (.modCell _ n ix _)).trans (Die.hoopFell_reach _ n _).2).trans
    (.of_reports (.tcount _ (hoopTel n 0) 1))

theorem Die.allocCell_hcell : (d.allocCell r n ix).hcell n ix = recordFor r (d.hcell n ix) := by
  rw [Die.hcell_congr (congrArg HoopSt.cells (d.allocCell_hoops r n ix)), Die.hcell_modCell, Die.hcell_congr (Die.clearCell_cells _ r n ix),
    Die.hcell_dropTop]

theorem Die.allocCell_hcell_other {n' ix' : Nat} (h : ix < 2 ^ 20) (h' : ix' < 2 ^ 20) (k : (n', ix') ≠ (n, ix)) :
    (d.allocCell r n ix).hcell n' ix' = d.hcell n' ix' := by
  have taken := ((d.dropTop n).clearCell r n ix).hcell_modCell_other (recordFor r) h h' k
  rw [Die.hcell_congr (congrArg HoopSt.cells (d.allocCell_hoops r n ix)), taken, Die.hcell_congr (Die.clearCell_cells _ r n ix), Die.hcell_dropTop]

theorem Die.allocCell_cellRead (o len : Nat) : (d.allocCell r n ix).cellRead n ix o len = ((d.dropTop n).clearCell r n ix).cellRead n ix o len :=
  Die.cellRead_congr ((congrArg HoopSt.mem (d.allocCell_hoops r n ix)).trans (Die.modCell_mem _ n ix (recordFor r))) n ix o len

/-- The header of the cell is cleared, and so is the rest of it where its charge changes. -/
theorem Die.allocCell_header : (d.allocCell r n ix).cellRead n ix 0 16 = List.replicate 16 0 :=
  (d.allocCell_cellRead r n ix 0 16).trans (Die.clearCell_header _ r n ix)

theorem Die.allocCell_changed (h : sameCharge r (d.hcell n ix) = false) {o : Nat} (ho : o < 65536) :
    (d.allocCell r n ix).cellRead n ix o 1 = [0] :=
  (d.allocCell_cellRead r n ix o 1).trans (Die.clearCell_changed _ r n ix (by rwa [Die.hcell_dropTop]) ho)

theorem Die.allocCell_same (h : sameCharge r (d.hcell n ix) = true) {o : Nat} (ho : 16 ≤ o) :
    (d.allocCell r n ix).cellRead n ix o 1 = d.cellRead n ix o 1 :=
  ((d.allocCell_cellRead r n ix o 1).trans (Die.clearCell_same _ r n ix (by rwa [Die.hcell_dropTop]) ho)).trans (d.cellRead_dropTop n n ix o 1)

end

variable {d r found} {n ix : Nat}

/-- A pool that serves a request gives the top of its stack. -/
theorem Die.tryPool_serves (hs : d.hstate n = 0) (ht : d.hoopTop n = some ix) (hq : r.mgmt = true ∨ d.hused n r.tid.toNat < d.hquota n r.tid.toNat)
    (hg : found.all (d.headerValid n ix) = true) (hf : d.cellFree n ix = true) :
    d.tryPool n r found = (d.allocCell r n ix, .inl (handleOf n ix)) := by
  have quota : (!r.mgmt && decide (d.hquota n r.tid.toNat ≤ d.hused n r.tid.toNat)) = false := by
    rcases hq with hq | hq
    · simp [hq]
    · simp [hq]
  unfold Die.tryPool
  rw [if_neg (not_not.2 hs), ht]
  dsimp only
  rw [quota, hf]
  cases found with
  | none => rfl
  | some h =>
    have valid : d.headerValid n ix h = true := hg
    simp [valid, Die.allocCell]

/-- The first pool tried serves an ALLOC: its status is 0, and nothing spills over. -/
theorem Die.hoopAlloc_serves {e : Die} {h : Nat} (hl : LegalReq r) (ha : ActiveReq d r) (hr : d.stalled .hoop = false)
    (first : d.tryPool (poolFor r.size.toNat) r found = (e, .inl h)) : d.hoopAlloc r found = (e, 0, h) := by
  rw [legalReq_iff] at hl
  rw [activeReq_iff] at ha
  have tried : Die.tryPools 4 d (poolFor r.size.toNat) r found false true = (e, 0, h) := by
    rw [Die.tryPools, first]
    rfl
  rw [Die.hoopAlloc, if_neg (ne_true_of_eq_false hl), hr, ha, tried]
  rfl

end

/-! ### RELEASE and FREE: the checks (R467 to R469) -/

/-- The record of the cell that a handle names (R446). -/
abbrev Die.cellOf (d : Die) (h : BitVec 32) : HoopCell := d.hcell (h.toNat / 2 ^ 30) (h.toNat % 2 ^ 20)

/-- The handle names a cell of its pool that is not in the link reserve and not retired (R467). -/
def LegalHandle (d : Die) (h : BitVec 32) : Prop :=
  h.toNat / 2 ^ 20 % 2 ^ 10 = 0 ∧ d.poolLo (h.toNat / 2 ^ 30) ≤ h.toNat % 2 ^ 20 ∧ h.toNat % 2 ^ 20 < d.poolCells (h.toNat / 2 ^ 30)
    ∧ (d.cellOf h).retired = false

/-- A rejected command, with its status, or the command held while the log is full (R470). -/
def Die.rejectOrHold (d : Die) (fr : Bool) (st : Nat) (h : BitVec 32) (o : BitVec 16) (tid : Option Nat) : Die × Option Nat :=
  if d.logFull then ({ d with hoops := { d.hoops with held := d.hoops.held ++ [(fr, h, o)] } }, none) else (d.rejectHoop st h o tid, some st)

section
variable (d : Die) (fr : Bool) (h : BitVec 32) (w : BitVec 16) (found : Option (List Byte))

theorem legalHandle_iff : LegalHandle d h ↔ (decide (h.toNat / 2 ^ 20 % 2 ^ 10 ≠ 0) || decide (h.toNat % 2 ^ 20 < d.poolLo (h.toNat / 2 ^ 30))
    || decide (d.poolCells (h.toNat / 2 ^ 30) ≤ h.toNat % 2 ^ 20) || (d.cellOf h).retired) = false := by
  simp [LegalHandle, and_assoc]

theorem Die.hoopLetGo_badOwner (hw : ownerKindOk w = false) : d.hoopLetGo fr h w found false = (d, some 9) := if_pos (by rw [hw, Bool.not_false])

theorem Die.hoopLetGo_illegal (hw : ownerKindOk w = true) (hl : ¬ LegalHandle d h) : d.hoopLetGo fr h w found false = (d, some 7) := by
  rw [legalHandle_iff, Bool.not_eq_false] at hl
  unfold Die.hoopLetGo
  rw [if_neg (by rw [hw]; exact Bool.false_ne_true)]
  exact if_pos hl

/-- What a command on a legal cell with a known owner does: it depends on the owners that the cell has. -/
theorem Die.hoopLetGo_legal (hw : ownerKindOk w = true) (hl : LegalHandle d h) :
    let n := h.toNat / 2 ^ 30
    let ix := h.toNat % 2 ^ 20
    let c := d.cellOf h
    let t := if c.mgmt then none else some c.tid.toNat
    d.hoopLetGo fr h w found false =
      if c.owners.isEmpty then if found.all (d.headerValid n ix) then d.rejectOrHold fr 4 h w none else (d.quarantine n h.toNat, some 8)
      else if !c.owners.contains w then d.rejectOrHold fr 5 h w t
      else if c.owners.length = 1 then (d.freeCell n ix, some (if fr then 0 else 1))
      else if fr then d.rejectOrHold fr 6 h w t
      else (d.modCell n ix (fun c => { c with owners := c.owners.erase w }), some 0) := by
  rw [legalHandle_iff] at hl
  unfold Die.hoopLetGo
  dsimp only
  rw [hw, if_neg (by simp), if_neg (ne_true_of_eq_false hl), if_neg Bool.false_ne_true]
  cases found with
  | none => rfl
  | some b => rfl

end

section
variable {d : Die} (fr : Bool) {h : BitVec 32} {w : BitVec 16} {found : Option (List Byte)} (hw : ownerKindOk w = true) (hl : LegalHandle d h)
include hw hl

/-- RELEASE by one of several owners. -/
theorem Die.hoopLetGo_releases (mem : w ∈ (d.cellOf h).owners) (more : 1 < (d.cellOf h).owners.length) :
    d.hoopLetGo false h w found false
      = (d.modCell (h.toNat / 2 ^ 30) (h.toNat % 2 ^ 20) (fun c => { c with owners := c.owners.erase w }), some 0) := by
  have owned := List.ne_nil_of_mem mem
  rw [d.hoopLetGo_legal false h w found hw hl, if_neg (by simpa using owned), if_neg (by simpa using mem), if_neg (by omega), if_neg Bool.false_ne_true]

/-- RELEASE or FREE by the only owner. -/
theorem Die.hoopLetGo_last (only : (d.cellOf h).owners = [w]) :
    d.hoopLetGo fr h w found false = (d.freeCell (h.toNat / 2 ^ 30) (h.toNat % 2 ^ 20), some (if fr then 0 else 1)) := by
  rw [d.hoopLetGo_legal fr h w found hw hl, only, if_neg (by simp), if_neg (by simp), if_pos List.length_singleton]

variable (room : d.logFull = false)
include room

theorem Die.hoopLetGo_notLast (mem : w ∈ (d.cellOf h).owners) (more : 1 < (d.cellOf h).owners.length) :
    ∃ t, d.hoopLetGo true h w found false = (d.rejectHoop 6 h w t, some 6) := by
  have owned := List.ne_nil_of_mem mem
  rw [d.hoopLetGo_legal true h w found hw hl, if_neg (by simpa using owned), if_neg (by simpa using mem), if_neg (by omega), if_pos rfl]
  exact ⟨_, if_neg (ne_true_of_eq_false room)⟩

theorem Die.hoopLetGo_stranger (owned : (d.cellOf h).owners ≠ []) (stranger : w ∉ (d.cellOf h).owners) :
    ∃ t, d.hoopLetGo fr h w found false = (d.rejectHoop 5 h w t, some 5) := by
  rw [d.hoopLetGo_legal fr h w found hw hl, if_neg (by simpa using owned), if_pos (by simpa using stranger)]
  exact ⟨_, if_neg (ne_true_of_eq_false room)⟩

theorem Die.hoopLetGo_free (unowned : (d.cellOf h).owners = [])
    (valid : found.all (d.headerValid (h.toNat / 2 ^ 30) (h.toNat % 2 ^ 20)) = true) :
    ∃ t, d.hoopLetGo fr h w found false = (d.rejectHoop 4 h w t, some 4) := by
  rw [d.hoopLetGo_legal fr h w found hw hl, unowned, if_pos List.isEmpty_nil, if_pos valid]
  exact ⟨_, if_neg (ne_true_of_eq_false room)⟩

end

end Sys2Proof.Machine
end

section
/-!
PROOF. The ends of RELEASE and FREE (spec 10, R458, R460, R467 to R470), and the statement about the hoop services.
-/
namespace Sys2Proof.Machine

/-! ### The last owner lets go (R458, R460, R476) -/

/-- A record without owners. -/
def ownerless (c : HoopCell) : HoopCell := { c with owners := [], hdr := [] }

/-- The record of a cell that waits for the walk of its pool (R476). -/
def pendRecord (c : HoopCell) : HoopCell := { ownerless c with pend := true }

section
variable {d : Die} {n : Nat} (ix : Nat)

/-- The die with a cell that has no owner, with the header of a free cell. -/
def Die.emptyCell (d : Die) (n ix : Nat) : Die := (d.modCell n ix ownerless).cellWrite n ix 0 (freeHeader n ix (d.hoopHead n))

theorem Die.emptyCell_shows (d : Die) (n ix : Nat) :
    let e := d.emptyCell n ix
    (e.hcell n ix).owners = [] ∧ e.cellRead n ix 0 16 = freeHeader n ix (d.hoopHead n) ∧ e.out = d.out
      ∧ OnlyReports d { e with hoops := d.hoops } [] :=
  ⟨congrArg HoopCell.owners ((Die.hcell_congr (Die.cellWrite_cells _ n ix 0 _) n ix).trans (d.hcell_modCell n ix ownerless)),
    Die.cellRead_cellWrite _ n ix 0 (freeHeader_length n ix _), rfl, .then_cellWrite n ix 0 _ (.refl d [])⟩

theorem Die.freeCell_normal (hs : d.hstate n = 0) : d.freeCell n ix = ((d.emptyCell n ix).tcount (hoopTel n 1) 1).pushCell n ix := if_pos hs

theorem Die.freeCell_pending (hs : d.hstate n ≠ 0) :
    ∃ walk, d.freeCell n ix = { d with hoops := { (d.modCell n ix pendRecord).hoops with walkFreed := walk } } := by
  unfold Die.freeCell
  rw [if_neg hs]
  dsimp only
  split
  case isTrue => exact ⟨_, rfl⟩
  case isFalse => exact ⟨_, rfl⟩

/-- In a NORMAL pool the cell goes on top of its stack, with the header of a free cell. -/
theorem Die.freeCell_normal_shows (hs : d.hstate n = 0) :
    let e := d.freeCell n ix
    (e.hcell n ix).owners = [] ∧ e.hoopTop n = some ix ∧ e.cellRead n ix 0 16 = freeHeader n ix (d.hoopHead n) ∧ e.out = d.out
      ∧ OnlyReports d { e with hoops := d.hoops } [] := by
  obtain ⟨owners, header, out, reach⟩ := d.emptyCell_shows n ix
  dsimp only
  rw [Die.freeCell_normal ix hs]
  generalize d.emptyCell n ix = x at owners header out reach ⊢
  have counted : OnlyReports d { x.tcount (hoopTel n 1) 1 with hoops := d.hoops } [] := reach.after_hoops (.tcount x _ 1)
  exact ⟨owners, Die.hoopTop_pushCell _ n ix, (Die.cellRead_congr rfl n ix 0 16).trans header, out, counted⟩

/-- In a pool that is not NORMAL the cell is PEND, and the stack stays. -/
theorem Die.freeCell_pending_shows (hs : d.hstate n ≠ 0) :
    let e := d.freeCell n ix
    (e.hcell n ix).owners = [] ∧ (e.hcell n ix).pend = true ∧ e.hoops.pushed = d.hoops.pushed
      ∧ OnlyReports d { e with hoops := d.hoops } [] := by
  obtain ⟨walk, ends⟩ := Die.freeCell_pending ix hs
  have cell : (d.freeCell n ix).hcell n ix = pendRecord (d.hcell n ix) :=
    (Die.hcell_congr (d := d.modCell n ix pendRecord) (by rw [ends]) n ix).trans (d.hcell_modCell n ix pendRecord)
  dsimp only
  rw [cell, ends]
  exact ⟨rfl, rfl, rfl, .refl d []⟩

end

/-! ### Rejected commands (R470) -/

/-- The counter of a status with which a command is rejected. -/
def rejectCounter (st : Nat) : Fld := if st = 4 then R.hoopDfree else if st = 5 then R.hoopOwnerr else R.hoopNotlast

/-- The counters of rejected commands lie in dwords of their own. -/
theorem rejectCounter_apart (st : Nat) : (rejectCounter st).lsb + (rejectCounter st).width ≤ 32
    ∧ (rejectCounter st).addrOf ∉ [R.hoopErrCellHandle.addrOf, R.hoopErrOwnerOwner.addrOf, I.hoopReject.addrOf] ++ logAddrs := by
  unfold rejectCounter
  split
  case isTrue => decide
  case isFalse =>
    split
    case isTrue => decide
    case isFalse => decide

/-- HOOP.ERR as a rejected command leaves it. -/
def Die.latchReject (d : Die) (st : Nat) (h : BitVec 32) (o : BitVec 16) : Die :=
  ((d.set R.hoopErrCellHandle h.toNat).set R.hoopErrOwnerOwner o.toNat).set R.hoopErrOwnerStatus st

theorem Die.latchReject_shows (d : Die) {st : Nat} (h : BitVec 32) (o : BitVec 16) (hs : st < 16) :
    let e := d.latchReject st h o
    e.get R.hoopErrCellHandle = h.toNat ∧ e.get R.hoopErrOwnerOwner = o.toNat ∧ e.get R.hoopErrOwnerStatus = st
      ∧ OnlyRegs d e [R.hoopErrCellHandle.addrOf, R.hoopErrOwnerOwner.addrOf] := by
  refine ⟨?_, ?_, Die.get_set_fits _ (by decide) hs, ?_⟩
  · rw [Die.latchReject, Die.get_set_other _ (by decide) (by decide), Die.get_set_other _ (by decide) (by decide)]
    exact Die.get_set_fits _ (by decide) h.isLt
  · rw [Die.latchReject, Die.get_set_other _ (by decide) (by decide)]
    exact Die.get_set_fits _ (by decide) o.isLt
  · exact (((OnlyRegs.set d R.hoopErrCellHandle _ 0 0 0).trans (.set _ R.hoopErrOwnerOwner _ 0 0 0)).trans
      (.set _ R.hoopErrOwnerStatus _ 0 0 0)).mono (by decide)

section
variable (d : Die) {st : Nat} (h : BitVec 32) (o : BitVec 16) (tid : Option Nat)

/-- The record of a rejected command. -/
def Die.logReject (st : Nat) : Die :=
  d.logErr .hoop 0 (0x0800 + (st - 4)) 0 (leBytes 4 h.toNat ++ leBytes 2 o.toNat ++ leBytes 1 st) tid

theorem Die.rejectHoop_eq :
    d.rejectHoop st h o tid = (((d.logReject h o tid st).latchReject st h o).raise I.hoopReject).bump (rejectCounter st) := by
  unfold Die.rejectHoop rejectCounter
  dsimp only
  split
  case isTrue => rfl
  case isFalse =>
    split
    case isTrue => rfl
    case isFalse => rfl

/-- A rejected command is logged, latched and counted, and changes no pool. -/
theorem Die.rejectHoop_shows (hs : st < 16) :
    let e := d.rejectHoop st h o tid
    e.hoops = d.hoops ∧ e.get (rejectCounter st) = d.counted (rejectCounter st) ∧ Logged d e (pageIndex .hoop 0) (0x0800 + (st - 4)) 0
      ∧ e.get R.hoopErrCellHandle = h.toNat ∧ e.get R.hoopErrOwnerOwner = o.toNat ∧ e.get R.hoopErrOwnerStatus = st ∧ e.hasCause I.hoopReject = true
      ∧ OnlyLogs d e [(rejectCounter st).addrOf, R.hoopErrCellHandle.addrOf, R.hoopErrOwnerOwner.addrOf, I.hoopReject.addrOf] := by
  obtain ⟨fits, apart⟩ := rejectCounter_apart st
  simp only [List.mem_append, List.mem_cons, List.not_mem_nil, or_false, not_or] at apart
  obtain ⟨⟨notCell, notOwner, notCause⟩, notLog⟩ := apart
  dsimp only
  rw [d.rejectHoop_eq]
  obtain ⟨logs, logged⟩ : OnlyLogs d (d.logReject h o tid st) [] ∧ Logged d (d.logReject h o tid st) (pageIndex .hoop 0) (0x0800 + (st - 4)) 0 :=
    d.logErr_reach .hoop 0 _ 0 _ tid false none
  generalize d.logReject h o tid st = x at logs logged ⊢
  obtain ⟨cell, owner, status, latches⟩ := x.latchReject_shows h o hs
  generalize x.latchReject st h o = y at cell owner status latches ⊢
  have raised : OnlyReports y (y.raise I.hoopReject) [I.hoopReject.addrOf] := .raise y I.hoopReject 0 0
  have cause : (y.raise I.hoopReject).hasCause I.hoopReject = true := Die.hasCause_raise y I.hoopReject 0 0 (by decide)
  generalize y.raise I.hoopReject = z at raised cause ⊢
  have counts : OnlyReports z (z.bump (rejectCounter st)) [(rejectCounter st).addrOf] := .bump z _ 0 0 1
  have reach := logs.tr0 (latches.reports.trans (raised.trans counts)).logs
  have before : z.get (rejectCounter st) = d.get (rejectCounter st) :=
    (logs.tr0 (latches.reports.trans raised).logs).get _ 0 0 0 (by simp [notCell, notOwner, notCause]) notLog
  have same {g : Fld} (cause : g.addrOf ≠ I.hoopReject.addrOf) (own : g.addrOf ≠ (rejectCounter st).addrOf) :
      (z.bump (rejectCounter st)).get g = y.get g := (raised.trans counts).get g 0 0 0 (by simp [cause, own])
  refine ⟨reach.units.hoops, ?_, logged.of_err rfl ((counts.err.trans raised.err).trans latches.err), (same (by decide) (Ne.symm notCell)).trans cell,
    (same (by decide) (Ne.symm notOwner)).trans owner, (same (g := R.hoopErrOwnerStatus) (by decide) (Ne.symm notOwner)).trans status,
    (counts.hasCause I.hoopReject 0 (by simpa using Ne.symm notCause)).trans cause, reach.mono ?_⟩
  · rw [z.get_bump _ 0 0 1 fits, before, Die.counted]
  · intro a ha
    simp only [List.mem_append, List.mem_cons, List.not_mem_nil, or_false] at ha ⊢
    tauto

end

/-! ### The statement -/

/-- A command that lets a cell go answers with its status, unless it is held. -/
def Die.answerLetGo (fr : Bool) : Die × Option Nat → Die
  | (d, some st) => d.emit (.hoopDone (if fr then 2 else 1) st 0)
  | (d, none) => d

/-- RELEASE or FREE of a cell whose record is good. -/
def letGo (fr : Bool) (h : BitVec 32) (w : BitVec 16) (found : Option (List Byte)) : Instr :=
  if fr then Instr.hoopFree h w found false else Instr.hoopRelease h w found false

theorem exec_letGo (fr : Bool) (h : BitVec 32) (w : BitVec 16) (found : Option (List Byte)) (s : State) :
    exec (letGo fr h w found) s = act s (fun d => Die.answerLetGo fr (d.hoopLetGo fr h w found false)) := by
  cases fr with
  | false => rfl
  | true => rfl

theorem exec_hoopAlloc (r : HoopReq) (found : Option (List Byte)) (s : State) :
    exec (.hoopAlloc r found) s = act s (fun d => (d.hoopAlloc r found).1.emit (.hoopDone 0 (d.hoopAlloc r found).2.1 (d.hoopAlloc r found).2.2)) := rfl

/-- Settles O35: each request by the case of ALLOC, and of RELEASE and FREE, that it falls into. -/
theorem hoopServices : Obligations.HoopServices := by
  refine ⟨fun s r found ix n' ix' o ha => ?alloc, fun s h w found fr ha => ?letGo⟩
  case alloc =>
    have run {x : Die × Nat × Nat} (hx : s.die.hoopAlloc r found = x) {P : Die → Prop} (hp : P (x.1.emit (.hoopDone 0 x.2.1 x.2.2))) :
        Completes (.hoopAlloc r found) s P := by
      refine completes_of_act _ s _ P (exec_hoopAlloc r found s) ha ?_
      rw [hx]
      exact hp
    refine ⟨fun illegal => ?_, fun legal inactive => ?_, fun legal active running ⟨hs, ht, hq, hg, hf⟩ hix => ?_⟩
    · refine becomes_of_act _ s _ _ (exec_hoopAlloc r found s) ha ?_
      rw [s.die.hoopAlloc_illegal r found illegal]
      rfl
    · refine run (s.die.hoopAlloc_inactive r found legal inactive) ?_
      have counts := (OnlyReports.bump s.die R.hoopNocell 0 0 1).trans (.tcount _ (Die.hoopTel (poolFor r.size.toNat) 3) 1)
      exact ⟨rfl, s.die.get_bump R.hoopNocell 0 0 1 (by decide), counts.trans (.emit _ _)⟩
    · refine run (Die.hoopAlloc_serves legal active running (Die.tryPool_serves hs ht hq hg hf)) ?_
      generalize poolFor r.size.toNat = n
      exact ⟨List.getLast?_concat .., s.die.allocCell_hcell r n ix, fun h' other => s.die.allocCell_hcell_other r n ix hix h' other,
        s.die.allocCell_header r n ix, fun changed ho => s.die.allocCell_changed r n ix (sameCharge_eq_false r changed) ho,
        fun charged mgmt tid past => s.die.allocCell_same r n ix ((sameCharge_iff r _).2 ⟨charged, mgmt, .inr tid⟩) past,
        (s.die.allocCell_reach r n ix).trans (.of_reports (.emit _ _))⟩
  case letGo =>
    intro d n ix c i done legal good rejects
    have run {x : Die} {st : Nat} (hx : d.hoopLetGo fr h w found false = (x, some st)) {P : Die → Prop} (hp : P (x.emit (done st))) :
        Completes i s P := by
      refine completes_of_act _ s _ P (exec_letGo fr h w found s) ha ?_
      rw [hx]
      exact hp
    have answers {st : Nat} (hx : d.hoopLetGo fr h w found false = (d, some st)) : Becomes i s { d with out := d.out ++ [done st] } := by
      refine becomes_of_act _ s _ _ (exec_letGo fr h w found s) ha ?_
      rw [hx]
      rfl
    have rejected {st : Nat} (hs : st < 16) (hx : ∃ t, d.hoopLetGo fr h w found false = (d.rejectHoop st h w t, some st)) :
        rejects st (rejectCounter st) := by
      obtain ⟨t, hx⟩ := hx
      obtain ⟨pools, counted, logged, cell, owner, status, cause, reach⟩ := d.rejectHoop_shows h w t hs
      exact run hx ⟨List.getLast?_concat .., pools, counted, logged, cell, owner, status, cause, reach.then_emit _⟩
    refine ⟨fun hw => answers (d.hoopLetGo_badOwner fr h w found hw), fun hw illegal => answers (d.hoopLetGo_illegal fr h w found hw illegal),
      fun ⟨hw, hl⟩ mem more release => ?_, fun ⟨hw, hl⟩ only normal => ?_, fun ⟨hw, hl⟩ only pending => ?_,
      fun ⟨hw, hl⟩ mem more free room => rejected (st := 6) (by decide) ?_,
      fun ⟨hw, hl⟩ owned stranger room => rejected (st := 5) (by decide) (Die.hoopLetGo_stranger fr hw hl room owned stranger),
      fun ⟨hw, hl⟩ unowned valid room => rejected (st := 4) (by decide) (Die.hoopLetGo_free fr hw hl room unowned valid)⟩
    · subst release
      exact run (Die.hoopLetGo_releases hw hl mem more) ⟨rfl, d.hcell_modCell n ix _, rfl, .refl d []⟩
    · obtain ⟨owners, top, header, out, reach⟩ := Die.freeCell_normal_shows ix normal
      exact run (Die.hoopLetGo_last fr hw hl only) ⟨congrArg (· ++ [_]) out, owners, top, header, reach.after_hoops (.emit _ _)⟩
    · obtain ⟨owners, pend, pushed, reach⟩ := Die.freeCell_pending_shows ix pending
      exact run (Die.hoopLetGo_last fr hw hl only) ⟨owners, pend, pushed, reach.after_hoops (.emit _ _)⟩
    · subst free
      exact Die.hoopLetGo_notLast hw hl room mem more

end Sys2Proof.Machine
end

section
/-!
PROOF. The tag sweep (spec 21, R874, R877) of an owner whose generation is 0.
-/
namespace Sys2Proof.Machine

/-- The die after reset, but MGMT's generation is 0, page 0 carries the tag 1, and MGMT's range waits for its sweep. -/
def generationZero : State :=
  { State.reset with
    die := { Die.reset.set R.caveMgmtGen 0 with cave := { Die.reset.cave with tags := [(0, 1)], sweeps := [256] } } }

/-- Before the sweep page 0 is not clean: its tag is not MGMT's generation. -/
theorem generationZero_unclean : generationZero.die.caveClean 0 = false := by decide

/-- The sweep writes 0 to the tag of page 0, which is MGMT's generation. -/
theorem tagSweepDone_generationZero {e : Die} (h : exec .tagSweepDone generationZero = .next { generationZero with die := e }) :
    e.caveClean 0 = true := by
  injection h with next
  injection next with _ die
  rw [← die]
  decide

/-- Refutes O36: TAG_SWEEP_DONE turns the unclean page 0 of `generationZero` clean, where the statement has every page as clean as before. R874 has no
generation of 0; the statement takes every state. -/
theorem not_poolsAndCave : ¬ Obligations.PoolsAndCave := by
  rintro ⟨-, cave⟩
  obtain ⟨-, -, -, -, -, sweep, -⟩ := cave generationZero .host 0 false 0 0 256 0 rfl
  obtain ⟨e, ran, -, kept, -⟩ := sweep rfl rfl
  have clean : e.caveClean 0 = true := tagSweepDone_generationZero ran
  exact Bool.false_ne_true (generationZero_unclean.symm.trans (kept.symm.trans clean))

end Sys2Proof.Machine
end

section
/-!
PROOF. One vat (spec 11, 13): its own state and its page after the named operations, and the effects that leave both as they were.
-/
namespace Sys2Proof.Machine

/-! ### One vat's own state -/

section
variable (d : Die) (v w : Nat) (f : VatSt → VatSt)

theorem Die.vat_modVat : (d.modVat v f).vat w = if w = v then f (d.vat v) else d.vat w := smapGet_mod _ _ _ _ _

@[simp] theorem Die.vat_modVat_self : (d.modVat v f).vat v = f (d.vat v) := smapGet_mod_self _ _ _ _

variable {v w} in
theorem Die.vat_modVat_other (h : w ≠ v) : (d.modVat v f).vat w = d.vat w := (d.vat_modVat v w f).trans (if_neg h)

variable {d} in
theorem Die.vat_congr {e : Die} (h : e.vats = d.vats) (v : Nat) : e.vat v = d.vat v := by rw [Die.vat, h, Die.vat]

theorem ChangesVat.modVat : ChangesVat d (d.modVat v f) v (f (d.vat v)) := ⟨d.vat_modVat_self v f, fun _ hw => d.vat_modVat_other f hw⟩

end

/-! ### Effects that leave a vat and its page alone -/

/-- The page of a vat, and the vat itself, are as they were. -/
structure KeepsVat (v : Nat) (d e : Die) : Prop where
  vat : e.vat v = d.vat v
  page : ∀ a, a / 0x1000 = 0xA0 + v → e.dword a = d.dword a

namespace KeepsVat
variable {v : Nat} {d e f : Die}

theorem refl (v : Nat) (d : Die) : KeepsVat v d d := ⟨rfl, fun _ _ => rfl⟩

theorem trans (h : KeepsVat v d e) (k : KeepsVat v e f) : KeepsVat v d f :=
  ⟨k.vat.trans h.vat, fun a ha => (k.page a ha).trans (h.page a ha)⟩

theorem of_congr (hv : e.vats = d.vats) (hr : e.regs = d.regs) : KeepsVat v d e :=
  ⟨Die.vat_congr hv v, fun a _ => by rw [Die.dword, hr, Die.dword]⟩

theorem of_reports {as : List Nat} (h : OnlyReports d e as) (away : ∀ a ∈ as, a / 0x1000 ≠ 0xA0 + v) : KeepsVat v d e :=
  ⟨Die.vat_congr h.units.vats v, fun a ha => h.regs a fun hm => away a hm ha⟩

theorem of_logs {as : List Nat} (h : OnlyLogs d e as) (away : ∀ a ∈ as, a / 0x1000 ≠ 0xA0 + v) : KeepsVat v d e :=
  ⟨Die.vat_congr h.units.vats v, fun a ha => h.regs a (fun hm => away a hm ha) (not_mem_logAddrs (by omega))⟩

theorem modVat {w : Nat} (h : w ≠ v) (g : VatSt → VatSt) : KeepsVat v d (d.modVat w g) := ⟨d.vat_modVat_other g h.symm, fun _ _ => rfl⟩

theorem forAll {α : Type} {g : Die → α → Die} (l : List α) (h : ∀ d, ∀ x ∈ l, KeepsVat v d (g d x)) (d : Die) : KeepsVat v d (d.forAll l g) := by
  induction l generalizing d with
  | nil => exact refl v d
  | cons x r ih => exact (h d x List.mem_cons_self).trans (ih (fun e y hy => h e y (List.mem_cons_of_mem _ hy)) _)

theorem get (h : KeepsVat v d e) (g : Fld) (i j k : Nat) (ha : g.addrOf i j / 0x1000 = 0xA0 + v) : e.get g i j k = d.get g i j k := by
  rw [Die.get_addr, h.page _ ha, ← Die.get_addr]

theorem hasCause (h : KeepsVat v d e) (q : Irq) (hq : q.page = .vat) : e.hasCause q v = d.hasCause q v := by
  unfold Die.hasCause
  rw [h.page]
  rw [Irq.addrOf, Die.hdrAddr, hq, pageIndex]
  omega

end KeepsVat

end Sys2Proof.Machine
end

section
/-!
PROOF. Wipes of a scratchpad (R586 to R589, R906), the array's clock gate (R482) and the probe of the RNG page (R592, R593, R596).
-/
namespace Sys2Proof.Machine

/-! ### Wipes begin (R587, R588) -/

section
variable (d : Die) (v w n : Nat)

/-- Is a word outside the run of `n` words from `w`? -/
def wipeSpares (w n x : Nat) : Bool := decide (x < w ∨ w + n ≤ x)

theorem Die.startWipe_vat : (d.startWipe v w n).vat v = { d.vat v with
    wipes := (d.vat v).wipes ++ [(w, n)], mem := (d.vat v).mem.filter (fun e => wipeSpares w n (e.1 / 8))
    wback := (d.vat v).wback.filter (wipeSpares w n) } :=
  (Die.vat_congr (Die.setBit_vats _ _ _ _ _ _) v).trans (Die.vat_modVat_self d v _)

theorem Die.startWipe_reach : OnlyRegs d { d.startWipe v w n with vats := d.vats } [R.vatSpStatWiping.addrOf v] :=
  (OnlyRegs.setBit (d.modVat v _) R.vatSpStatWiping true v 0 0).vats_changed _

/-- A byte of the words under wipe reads as zero. -/
theorem Die.spadRead_startWipe {a : Nat} (h : wipeSpares w n (a / 8) = false) : (d.startWipe v w n).spadRead v a 1 = [0] := by
  have erased := smapGet_filter_key (0 : Byte) (d.vat v).mem (fun k => wipeSpares w n (k / 8)) a
  rw [if_neg (by simp [h])] at erased
  rw [Die.spadRead, Die.startWipe_vat]
  exact congrArg (fun b => [b]) erased

theorem Die.wipeAll_vat : (d.wipeAll v).vat v = { d.vat v with
    handles := [], wipes := (d.vat v).wipes ++ [(0, 262144)], mem := (d.vat v).mem.filter (fun e => wipeSpares 0 262144 (e.1 / 8))
    wback := (d.vat v).wback.filter (wipeSpares 0 262144) } := by
  have started := (d.modVat v (fun s => { s with handles := [] })).startWipe_vat v 0 262144
  rwa [Die.vat_modVat_self] at started

theorem Die.wipeAll_reach : OnlyRegs d { d.wipeAll v with vats := d.vats } [R.vatSpStatWiping.addrOf v] :=
  ((d.modVat v (fun s => { s with handles := [] })).startWipe_reach v 0 262144).vats_changed _

/-- The whole scratchpad is under wipe, and no handle is valid. -/
theorem Die.wipeAll_shows (a : Nat) :
    ((d.wipeAll v).vat v).handles = [] ∧ ((d.wipeAll v).vat v).wipes = (d.vat v).wipes ++ [(0, 262144)]
      ∧ (a < 8 * 262144 → (d.wipeAll v).spadRead v a 1 = [0]) ∧ (d.wipeAll v).get R.vatSpStatWiping v = 1
      ∧ OnlyRegs d { d.wipeAll v with vats := d.vats } [R.vatSpStatWiping.addrOf v] := by
  have vat := d.wipeAll_vat v
  refine ⟨congrArg VatSt.handles vat, congrArg VatSt.wipes vat, fun ha => ?_, Die.get_set _ _ _ _ _ _ (by decide), d.wipeAll_reach v⟩
  have inside : ¬ (a / 8 < 0 ∨ 0 + 262144 ≤ a / 8) := by omega
  exact Die.spadRead_startWipe _ v 0 262144 (decide_eq_false inside)

end

/-! ### Wipes end (R589, R734, R906) -/

section
variable (d : Die) (v : Nat)

/-- The plan slots that become EMPTY at a wipe's end leave every vat and its page alone. -/
theorem Die.freeSlots_keepsVat : KeepsVat v d d.freeSlots := by
  refine KeepsVat.forAll _ (fun e s _ => ?_) d
  have emptied : KeepsVat v e (e.modPlan s (fun _ => PlanSlot.empty)) := .of_congr rfl rfl
  refine emptied.trans (.of_reports (OnlyReports.raise _ I.planUnloaded 0 0) fun a ha => ?_)
  rw [List.mem_singleton.1 ha, show I.planUnloaded.addrOf = 0xD020 from rfl]
  omega

/-- Nothing waits, the vat is out of reset, and WIPE_DONE is set. -/
theorem Die.wipesEnd_shows : ((d.wipesEnd v).vat v).wipes = [] ∧ (d.wipesEnd v).get R.vatSpStatWiping v = 0
    ∧ (d.wipesEnd v).hget R.hdrStatReset .vat v = 0 ∧ (d.wipesEnd v).hasCause I.vatWipeDone v = true := by
  unfold Die.wipesEnd
  generalize hx : d.modVat v (fun s => { s with wipes := [] }) = x
  have reset : R.hdrStatReset.addrOf (pageIndex .vat v) = 0x1000 * (0xA0 + v) + 0xC := rfl
  have wiping : R.vatSpStatWiping.addrOf v = 0x1000 * (0xA0 + v) + 0x100 := rfl
  have cause : I.vatWipeDone.addrOf v = 0x1000 * (0xA0 + v) + 0x20 := rfl
  refine ⟨?_, ?_, ?_, Die.hasCause_raise _ I.vatWipeDone v 0 (by decide)⟩
  · have kept : (((x.setBit R.vatSpStatWiping false v).hset R.hdrStatReset 0 .vat v).raise I.vatWipeDone v).vats = x.vats := Die.raise_vats _ _ _ _
    rw [Die.vat_congr kept, ← hx, Die.vat_modVat_self]
  · rw [Die.get_raise _ _ _ _ _ _ _ _ (by omega)]
    refine (Die.get_set_apart _ R.hdrStatReset R.vatSpStatWiping _ _ _ _ _ _ _ (by decide) (.inl ?_)).trans (Die.get_set _ _ _ _ _ _ (by decide))
    exact fun h => absurd (reset.symm.trans (h.trans wiping)) (by omega)
  · rw [Die.hget, Die.get_raise _ _ _ _ _ _ _ _ (by omega)]
    exact Die.get_set _ _ _ _ _ _ (by decide)

/-- The end of the wipes shows in the vat, its page and the plan slots that it frees. -/
theorem Die.wipeDone_shows : ((d.wipesEnd v).freeSlots.vat v).wipes = [] ∧ (d.wipesEnd v).freeSlots.get R.vatSpStatWiping v = 0
    ∧ (d.wipesEnd v).freeSlots.hget R.hdrStatReset .vat v = 0 ∧ (d.wipesEnd v).freeSlots.hasCause I.vatWipeDone v = true := by
  have kept := (d.wipesEnd v).freeSlots_keepsVat v
  obtain ⟨wipes, wiping, reset, done⟩ := d.wipesEnd_shows v
  refine ⟨(congrArg VatSt.wipes kept.vat).trans wipes, (kept.get _ _ _ _ ?_).trans wiping, (kept.get _ _ _ _ ?_).trans reset,
    (kept.hasCause _ rfl).trans done⟩
  · rw [show R.vatSpStatWiping.addrOf v = 0x1000 * (0xA0 + v) + 0x100 from rfl]
    omega
  · rw [show R.hdrStatReset.addrOf (pageIndex .vat v) = 0x1000 * (0xA0 + v) + 0xC from rfl]
    omega

theorem Die.wipesOver_iff : (!(d.vat v).wipes.isEmpty && decide (d.wipeLeft v ≤ 4 * d.tickCycles)) = true
    ↔ (d.vat v).wipes ≠ [] ∧ d.wipeLeft v ≤ 4 * d.tickCycles := by
  simp [Bool.and_eq_true]

end

/-! ### The clock gate (R482) -/

theorem Die.gateArray_shows (d : Die) (v n : Nat) :
    ((d.setBit R.vatStatGated true v).bump R.vatGated v 0 n).get R.vatStatGated v = 1
      ∧ ((d.setBit R.vatStatGated true v).bump R.vatGated v 0 n).get R.vatGated v = d.counted R.vatGated v 0 n
      ∧ OnlyReports d ((d.setBit R.vatStatGated true v).bump R.vatGated v 0 n) [R.vatStatGated.addrOf v, R.vatGated.addrOf v] := by
  refine ⟨?_, ?_, (OnlyRegs.setBit d _ _ _ _ _).reports.trans (OnlyReports.bump _ _ _ _ _)⟩
  · exact (Die.get_bump_apart _ R.vatGated R.vatStatGated v 0 n v 0 0 (by decide) (Loc.apart_of_off rfl rfl (by decide))).trans
      (Die.get_set _ _ _ _ _ _ (by decide))
  · have kept : (d.setBit R.vatStatGated true v).get R.vatGated v = d.get R.vatGated v :=
      Die.get_set_apart d R.vatStatGated R.vatGated _ v 0 0 v 0 0 (by decide) (Loc.apart_of_off rfl rfl (by decide))
    rw [Die.get_bump _ _ _ _ _ (by decide), kept, Die.counted]

/-! ### The probe of the RNG page (R592, R593, R596) -/

/-- The context that the probe's registers give. -/
def Die.probeCtx (d : Die) : SeedCtx :=
  { pseed := BitVec.ofNat 64 (d.get64 R.rngPseedLo R.rngPseedHi), group := BitVec.ofNat 12 (d.get R.rngPctxGroup)
    cid := BitVec.ofNat 16 (d.get R.rngPctxCid), chunk := BitVec.ofNat 32 (d.get R.rngPchunkChunk), tile := BitVec.ofNat 16 (d.get R.rngPposTile) }

/-- The state of the probe's lane after a command. -/
def Die.probeNext (d : Die) (seed leaps : Bool) : BitVec 64 :=
  let s := if seed then seedOf d.probeCtx (d.get R.rngPposStep) (d.get R.rngPselLane)
    else BitVec.ofNat 64 (d.get64 R.rngPstateStateLo R.rngPstateStateHi)
  if leaps then leap (tapsOf (d.get R.rngPselLane)) s else s

theorem Die.rngCommand_shows (d : Die) (seed leaps : Bool) :
    (d.rngCommand seed leaps).get64 R.rngPstateStateLo R.rngPstateStateHi = (d.probeNext seed leaps).toNat
      ∧ OnlyRegs d (d.rngCommand seed leaps) [R.rngPstateStateLo.addrOf, R.rngPstateStateHi.addrOf] := by
  have written : d.rngCommand seed leaps = d.set64 R.rngPstateStateLo R.rngPstateStateHi (d.probeNext seed leaps).toNat := rfl
  rw [written]
  exact ⟨Die.get64_set64 _ (by decide) (by decide) (by decide) (BitVec.isLt _), OnlyRegs.set64 _ _ _ _⟩

/-- A write of PCMD with SEED set runs the command that its two bits spell. -/
theorem Die.rngCommand_seeds (d : Die) {w : Word} (h : w.getLsbD 0 = true) :
    (if w.getLsbD 0 then d.rngCommand true (w.getLsbD 1) else d) = d.rngCommand (w.getLsbD 0) (w.getLsbD 1) := by
  rw [if_pos h, h]

/-- A write of PCMD with LEAP set runs the command that its two bits spell. -/
theorem Die.rngCommand_leaps (d : Die) {w : Word} (h : w.getLsbD 1 = true) :
    (if w.getLsbD 1 then d.rngCommand (w.getLsbD 0) true else d) = d.rngCommand (w.getLsbD 0) (w.getLsbD 1) := by
  rw [if_pos h, h]

/-! ### The statement -/

/-- Settles O40: each command through the lemma about its effect. -/
theorem wipesAndProbe : Obligations.WipesAndProbe := by
  intro s c v u cycles w a ha
  refine ⟨fun hr => ⟨fun hs => ?wipes, fun hs => ?refused⟩, fun hw hl => ?done, fun h => ?waits, fun hu => ?gates, fun hu => ?mover,
    fun hr => ⟨fun hw => ?seeds, fun hw => ?unseeded, fun hw => ?leaps, fun hw => ?unleaped⟩⟩
  case wipes =>
    refine completes_of_page _ s c .vat v.toNat _ _ rfl ⟨ha, hr⟩ ?_
    rw [Die.wipeAllWrite, if_pos hs]
    exact s.die.wipeAll_shows v.toNat a
  case refused =>
    refine completes_of_page _ s c .vat v.toNat _ _ rfl ⟨ha, hr⟩ ?_
    rw [Die.wipeAllWrite, if_neg (by omega)]
    exact ⟨Die.accErr_shown _ _ _ _ _ _ _, OnlyReports.accErr _ _ _ _ _ _ _⟩
  case done =>
    refine completes_of_act _ s _ _ rfl ha ?_
    rw [if_pos ((s.die.wipesOver_iff _).2 ⟨hw, hl⟩)]
    exact s.die.wipeDone_shows v.toNat
  case waits =>
    refine becomes_of_act _ s _ _ rfl ha (if_neg fun ended => ?_)
    obtain ⟨hw, hl⟩ := (s.die.wipesOver_iff _).1 ended
    exact h.elim hw (Nat.not_lt.2 hl)
  case gates =>
    refine completes_of_act _ s _ _ rfl ha ?_
    rw [if_pos hu]
    exact s.die.gateArray_shows v.toNat cycles.toNat
  case mover => exact becomes_of_act _ s _ _ rfl ha (if_neg hu)
  case seeds =>
    refine completes_of_page _ s c .rng 0 _ _ rfl ⟨ha, hr⟩ ?_
    rw [s.die.rngCommand_seeds hw]
    exact s.die.rngCommand_shows _ _
  case leaps =>
    refine completes_of_page _ s c .rng 0 _ _ rfl ⟨ha, hr⟩ ?_
    rw [s.die.rngCommand_leaps hw]
    exact s.die.rngCommand_shows _ _
  case unseeded => exact becomes_of_act _ s _ _ rfl ha ((Die.onPage_served _ _ _ _ _ hr).trans (if_neg (Bool.eq_false_iff.1 hw)))
  case unleaped => exact becomes_of_act _ s _ _ rfl ha ((Die.onPage_served _ _ _ _ _ hr).trans (if_neg (Bool.eq_false_iff.1 hw)))

end Sys2Proof.Machine
end

section
/-!
PROOF. A tile's step (spec 11): whose turn it is, and the checks that come before the step acts (R481, R504, R507, R513, R517, R566, R567, R573).
-/
namespace Sys2Proof.Machine

/-! ### Whose turn it is (R481, R504, R513) -/

section
variable {d : Die} {op v i : Nat} {x : StepFind} {t : TileRun} {w : Nat} {later : List Nat}

/-- A step that may run is of a tile in the queue of a vat that serves and has no fault. -/
theorem Die.stepReady_some (h : d.stepReady v i op = some (t, w, later)) :
    d.get R.vatStatState v = 0 ∧ (d.vat v).fault = none ∧ (d.vat v).queue[i]? = some t := by
  unfold Die.stepReady at h
  split at h
  case isTrue => cases h
  case isFalse serves =>
    simp only [Bool.or_eq_true, decide_eq_true_eq, not_or, not_not, Bool.not_eq_true, Option.isSome_eq_false_iff, Option.isNone_iff_eq_none]
      at serves
    obtain ⟨⟨⟨state, fault⟩, -⟩, -⟩ := serves
    split at h
    case h_1 => cases h
    case h_2 u queued =>
      split at h
      case h_1 => cases h
      case h_2 =>
        dsimp only at h
        split at h
        case isTrue =>
          injection h with same
          injection same with tile
          exact ⟨state, fault, tile ▸ queued⟩
        case isFalse => cases h

variable (f : Die → TileRun → Nat → List Nat → Die)

theorem Die.runStep_waits (h : d.stepReady v i op = none) : d.runStep op v i x f = d := by rw [Die.runStep, h]

theorem Die.runStep_stops (h : d.stepReady v i op = some (t, w, later)) (hb : (d.beginStep v i t w x).2 = false) :
    d.runStep op v i x f = (d.beginStep v i t w x).1 := by
  simp [Die.runStep, h, hb]

theorem Die.runStep_acts (h : d.stepReady v i op = some (t, w, later)) (hb : (d.beginStep v i t w x).2 = true) :
    d.runStep op v i x f = f (d.beginStep v i t w x).1 t w later := by
  simp [Die.runStep, h, hb]

end

section
variable (v : BitVec 5) (q : BitVec 4) (x : StepFind) (s : State)

/-- The commands of the array's steps, with their op codes. -/
def arrayInstrs : List (Nat × Instr) :=
  [(2, .expScan v q x), (3, .reduce v q x), (4, .scale v q x), (5, .combine v q x), (6, .mergeSoftmax v q x), (7, .sampleGumbel v q x),
    (8, .topk v q x), (9, .quant v q x), (10, .dequant v q x), (11, .cast v q x), (12, .clamp v q x), (13, .maskDrop v q x), (14, .fillRandom v q x)]

/-- The commands of the movers' steps, with their op codes. -/
def moverInstrs : List (Nat × Instr) := [(1, .loadTile v q x), (15, .storeTile v q x), (16, .emit v q x)]

theorem exec_arrayInstr : ∀ y ∈ arrayInstrs v q x, exec y.2 s = act s (fun d => d.runArray y.1 v.toNat q.toNat x) := by
  simp only [arrayInstrs, List.forall_mem_cons]
  exact ⟨rfl, rfl, rfl, rfl, rfl, rfl, rfl, rfl, rfl, rfl, rfl, rfl, rfl, List.forall_mem_nil _⟩

/-- Every step's command runs the step of its op code. -/
theorem exec_stepInstr : ∀ y ∈ arrayInstrs v q x ++ moverInstrs v q x, ∃ f, exec y.2 s = act s (fun d => d.runStep y.1 v.toNat q.toNat x f) := by
  refine List.forall_mem_append.2 ⟨fun y hy => ⟨_, exec_arrayInstr v q x s y hy⟩, ?_⟩
  simp only [moverInstrs, List.forall_mem_cons]
  exact ⟨⟨_, rfl⟩, ⟨_, rfl⟩, ⟨_, rfl⟩, List.forall_mem_nil _⟩

end

/-! ### Where a vat's registers stand -/

section
variable (v : Nat)

/-- The dword of a field of a vat's page. -/
theorem addrOf_vatField {f : Fld} (h : f.page = .vat) : f.addrOf v = 0x1000 * (0xA0 + v) + f.off := by
  rw [Fld.addrOf_eq, h, Nat.mul_zero]
  rfl

theorem addrOf_vatStatState : R.vatStatState.addrOf v = 0x1000 * (0xA0 + v) + 0x40 := addrOf_vatField v rfl

theorem addrOf_vatSpUe : R.vatSpUe.addrOf v = 0x1000 * (0xA0 + v) + 0x118 := addrOf_vatField v rfl

theorem addrOf_vatSpErr : R.vatSpErrWord.addrOf v = 0x1000 * (0xA0 + v) + 0x120 := addrOf_vatField v rfl

theorem addrOf_vatFaultCause : R.vatFaultCause.addrOf v = 0x1000 * (0xA0 + v) + 0x4C := addrOf_vatField v rfl

theorem addrOf_vatBusy : R.vatBusy.addrOf v = 0x1000 * (0xA0 + v) + 0x58 := addrOf_vatField v rfl

theorem addrOf_vatRange : R.vatRange.addrOf v = 0x1000 * (0xA0 + v) + 0x5C := addrOf_vatField v rfl

theorem addrOf_vatRcorr : R.vatRcorr.addrOf v = 0x1000 * (0xA0 + v) + 0x60 := addrOf_vatField v rfl

theorem addrOf_vatSpCeW : R.vatSpCeW.addrOf v = 0x1000 * (0xA0 + v) + 0x110 := addrOf_vatField v rfl

theorem addrOf_vatSpCeA : R.vatSpCeA.addrOf v = 0x1000 * (0xA0 + v) + 0x114 := addrOf_vatField v rfl

/-- A write of a field that shares its dword with `g`. -/
theorem OnlyRegs.setBeside (d : Die) {f g : Fld} (n : Nat) (hf : f.page = .vat) (hg : g.page = .vat) (ho : f.off = g.off) :
    OnlyRegs d (d.set f n v) [g.addrOf v] := by
  have same : f.addrOf v = g.addrOf v := by rw [addrOf_vatField v hf, addrOf_vatField v hg, ho]
  exact same ▸ OnlyRegs.set d f n v 0 0

/-- The dword of a vat's causes. -/
theorem addrOf_vatCause {q : Irq} (h : q.page = .vat) : q.addrOf v = 0x1000 * (0xA0 + v) + 0x20 := by
  rw [Irq.addrOf, Die.hdrAddr, h]
  rfl

end

/-! ### What stays of a tile's vat (R507) -/

/-- A vat's queue, its fault and its state are as they were. -/
structure KeepsTile (v : Nat) (d e : Die) : Prop where
  queue : (e.vat v).queue = (d.vat v).queue
  fault : (e.vat v).fault = (d.vat v).fault
  state : e.get R.vatStatState v = d.get R.vatStatState v

namespace KeepsTile
variable {v : Nat} {d e f : Die}

theorem refl (v : Nat) (d : Die) : KeepsTile v d d := ⟨rfl, rfl, rfl⟩

theorem trans (h : KeepsTile v d e) (k : KeepsTile v e f) : KeepsTile v d f :=
  ⟨k.queue.trans h.queue, k.fault.trans h.fault, k.state.trans h.state⟩

theorem of_logs {as : List Nat} (h : OnlyLogs d e as) (away : R.vatStatState.addrOf v ∉ as) : KeepsTile v d e := by
  have logged : R.vatStatState.addrOf v ∉ logAddrs := not_mem_logAddrs (by rw [addrOf_vatStatState]; omega)
  have vat := Die.vat_congr h.units.vats v
  exact ⟨congrArg VatSt.queue vat, congrArg VatSt.fault vat, h.get _ _ _ _ away logged⟩

theorem of_reports {as : List Nat} (h : OnlyReports d e as) (away : R.vatStatState.addrOf v ∉ as) : KeepsTile v d e := of_logs h.logs away

theorem modVat {g : VatSt → VatSt} (hq : ∀ s, (g s).queue = s.queue) (hf : ∀ s, (g s).fault = s.fault) : KeepsTile v d (d.modVat v g) := by
  refine ⟨?_, ?_, rfl⟩
  · rw [Die.vat_modVat_self, hq]
  · rw [Die.vat_modVat_self, hf]

theorem forAll {α : Type} {g : Die → α → Die} (h : ∀ d x, KeepsTile v d (g d x)) (l : List α) (d : Die) : KeepsTile v d (d.forAll l g) := by
  induction l generalizing d with
  | nil => exact refl v d
  | cons x r ih => exact (h d x).trans (ih _)

end KeepsTile

/-! ### The checks before a step acts (R507, R517, R566, R567, R573) -/

section
variable (d : Die) (v i : Nat) (t : TileRun) (w : Nat) (x : StepFind)

/-- The step word is fetched: a corrected word is counted, logged and shown. -/
def Die.fetchStep : Die :=
  if x.rcpCe then ((d.bump R.vatRcorr v).logErr .vat v 0x0903 0 (leBytes 1 (t.first + t.step))).raise I.vatRcorr v else d

/-- The handle entries are read: corrected ones are counted. -/
def Die.readHandles : Die := (d.fetchStep v t x).bump R.vatSpCeA v 0 x.hdlCe.toNat

/-- Does a step read a handle that is marked as poisoned? -/
def Die.readsPoison : Bool := (namedHandles w).any (fun h => h.2 && ((d.handleEnt v h.1).map (fun e => e.poison)).getD false)

/-- The checks of a step's handles, and of the words that it reads. -/
def Die.checkStep : Die × Bool :=
  match (namedHandles w).find? (fun h => !(d.handleOk v t h.1).1) with
  | some h => (d.handleFault v i t h.1 (d.handleOk v t h.1).2, false)
  | none =>
    if d.readsPoison v w then (d.vatFault v 5 (t.first + t.step), false)
    else match x.spadUe with
      | some u => ((d.spadCorrected v x.spadCe).spadUncorrected v u.toNat (t.first + t.step), false)
      | none => ((d.spadCorrected v x.spadCe).forAll x.refDelay (fun d c => d.refreshDelay c.toNat), true)

/-- The checks of a step in their order. -/
theorem Die.beginStep_eq : d.beginStep v i t w x =
    if (x.rcpUe || ((d.fetchStep v t x).vat v).injRcp) = true then
      (((d.fetchStep v t x).modVat v (fun s => { s with injRcp := false })).vatFault v
        (if ((d.fetchStep v t x).vat v).injRcp then 7 else 2) (t.first + t.step), false)
    else if x.hdlUe = true then ((d.fetchStep v t x).vatFault v 3 (t.first + t.step), false)
    else (d.readHandles v t x).checkStep v i t w x := by
  have poison : ∀ e : Die, e.readsPoison v w = (namedHandles w).any (fun h => h.2 && match e.handleEnt v h.1 with
      | some g => g.poison
      | none => false) := fun e => congrArg (namedHandles w).any (funext fun h => by cases e.handleEnt v h.1 <;> rfl)
  unfold Die.checkStep
  rw [poison]
  rfl

/-! ### What the checks leave -/

theorem Die.fetchStep_reach : OnlyLogs d (d.fetchStep v t x) [R.vatRcorr.addrOf v, I.vatRcorr.addrOf v] := by
  unfold Die.fetchStep
  split
  case isTrue =>
    have away : R.errlogCfgMirror.addrOf ∉ [R.vatRcorr.addrOf v] := by
      rw [List.mem_singleton, addrOf_vatRcorr, show R.errlogCfgMirror.addrOf = 0x4040 from rfl]
      omega
    have logged := (Die.logErr_reach (d.bump R.vatRcorr v) .vat v 0x0903 0 (leBytes 1 (t.first + t.step)) none false none).1
    exact ((OnlyReports.bump d R.vatRcorr v 0 1).logs.trans logged away).trans (OnlyReports.raise _ I.vatRcorr v 0).logs (by simpa using away)
  case isFalse => exact OnlyLogs.refl d _

theorem Die.fetchStep_keeps : KeepsTile v d (d.fetchStep v t x) := by
  refine .of_logs (d.fetchStep_reach v t x) ?_
  rw [List.mem_pair, addrOf_vatStatState, addrOf_vatRcorr, addrOf_vatCause v (q := I.vatRcorr) rfl]
  omega

theorem Die.fetchStep_vat : (d.fetchStep v t x).vat v = d.vat v := Die.vat_congr (d.fetchStep_reach v t x).units.vats v

theorem Die.readHandles_keeps : KeepsTile v d (d.readHandles v t x) := by
  refine (d.fetchStep_keeps v t x).trans (.of_reports (OnlyReports.bump _ R.vatSpCeA v 0 _) ?_)
  rw [List.mem_singleton, addrOf_vatStatState, addrOf_vatSpCeA]
  omega

theorem Die.spadCorrected_keeps (ws : List (BitVec 18)) : KeepsTile v d (d.spadCorrected v ws) := by
  refine KeepsTile.forAll (fun e u => ?_) ws d
  have counter : R.vatStatState.addrOf v ∉ [(if e.wordW v u.toNat = true then R.vatSpCeW else R.vatSpCeA).addrOf v] := by
    rw [List.mem_singleton]
    split
    case isTrue => rw [addrOf_vatStatState, addrOf_vatSpCeW]; omega
    case isFalse => rw [addrOf_vatStatState, addrOf_vatSpCeA]; omega
  exact (KeepsTile.of_reports (OnlyReports.bump e _ v 0 1) counter).trans (.modVat (fun _ => rfl) (fun _ => rfl))

theorem Die.refreshDelay_keeps (c : Nat) : KeepsTile v d (d.refreshDelay c) := by
  unfold Die.refreshDelay
  split
  case isTrue =>
    refine .of_reports (OnlyReports.bump d R.caveRefDelay c 0 1) ?_
    rw [List.mem_singleton, addrOf_vatStatState, show R.caveRefDelay.addrOf c = 0x1000 * (0x100 + c) + 0x4C from rfl]
    omega
  case isFalse => exact .refl v d

variable {d v i t w x}

theorem Die.checkStep_keeps (h : (d.checkStep v i t w x).2 = true) : KeepsTile v d (d.checkStep v i t w x).1 := by
  unfold Die.checkStep at h ⊢
  split at h
  case h_1 => cases h
  case h_2 =>
    split at h
    case isTrue => cases h
    case isFalse clean =>
      rw [if_neg clean]
      split at h
      case h_1 => cases h
      case h_2 => exact (d.spadCorrected_keeps v _).trans (.forAll (fun e c => e.refreshDelay_keeps v (BitVec.toNat c)) _ _)

/-- A step whose checks hold leaves its vat's queue, fault and state to the op itself. -/
theorem Die.beginStep_keeps (h : (d.beginStep v i t w x).2 = true) : KeepsTile v d (d.beginStep v i t w x).1 := by
  rw [Die.beginStep_eq] at h ⊢
  split at h
  case isTrue => cases h
  case isFalse fetched =>
    rw [if_neg fetched]
    split at h
    case isTrue => cases h
    case isFalse read =>
      rw [if_neg read]
      exact (d.readHandles_keeps v t x).trans (Die.checkStep_keeps h)

end

end Sys2Proof.Machine
end

section
/-!
PROOF. A step whose checks hold completes (R484, R504, R508, R548, R673, R674): the array's result and its counts, what LOAD_TILE lays out, and the bytes
that STORE_TILE writes.
-/
namespace Sys2Proof.Machine

/-! ### Effects on one tile -/

/-- One tile of a vat's queue becomes `t`; the queue's other tiles, and all of the die but its vats, are as they were. -/
structure ChangesTile (d e : Die) (v i : Nat) (t : TileRun) : Prop where
  tile : (e.vat v).queue[i]? = some t
  others : (e.vat v).queue.eraseIdx i = (d.vat v).queue.eraseIdx i
  rest : ({ e with vats := d.vats } : Die) = d

namespace ChangesTile
variable {d e f : Die} {v i : Nat} {t u : TileRun}

theorem trans (h : ChangesTile d e v i t) (k : ChangesTile e f v i u) : ChangesTile d f v i u :=
  ⟨k.tile, k.others.trans h.others, (congrArg (fun x : Die => ({ x with vats := d.vats } : Die)) k.rest).trans h.rest⟩

theorem modTile (h : (d.vat v).queue[i]? = some t) (g : TileRun → TileRun) : ChangesTile d (d.modTile v i g) v i (g t) := by
  have queue : ((d.modTile v i g).vat v).queue = (d.vat v).queue.modify i g := congrArg VatSt.queue (d.vat_modVat_self v _)
  refine ⟨?_, ?_, rfl⟩
  · rw [queue, List.getElem?_modify_eq, h]
    rfl
  · rw [queue, List.eraseIdx_modify_of_eq]

/-- A change of the vat beside its queue. -/
theorem modVat (h : (d.vat v).queue[i]? = some t) {g : VatSt → VatSt} (hg : ∀ s, (g s).queue = s.queue) : ChangesTile d (d.modVat v g) v i t := by
  have queue : ((d.modVat v g).vat v).queue = (d.vat v).queue := (congrArg VatSt.queue (d.vat_modVat_self v g)).trans (hg _)
  exact ⟨queue ▸ h, congrArg (List.eraseIdx · i) queue, rfl⟩

theorem refl (h : (d.vat v).queue[i]? = some t) : ChangesTile d d v i t := ⟨h, rfl, rfl⟩

theorem ite {c : Prop} [Decidable c] (h : ChangesTile d e v i t) (k : ChangesTile d f v i t) : ChangesTile d (if c then e else f) v i t := by
  split
  case isTrue => exact h
  case isFalse => exact k

/-- Nothing but the vats differs. -/
theorem reports (h : ChangesTile d e v i t) : OnlyReports d { e with vats := d.vats } [] := by
  rw [h.rest]
  exact .refl d []

theorem get (h : ChangesTile d e v i t) (g : Fld) (j k l : Nat) : e.get g j k l = d.get g j k l :=
  h.reports.get g j k l List.not_mem_nil

/-- A region written, in the scratchpad and in the tile's own copy (R563, R674). -/
theorem putRegion (h : (d.vat v).queue[i]? = some t) (r : Nat) (l : List Src) :
    ChangesTile d (d.putRegion v i r l) v i { t with bufs := smapSet [] t.bufs r l } := by
  unfold Die.putRegion
  split
  case h_1 g _ =>
    have written : ChangesTile d (d.spadWrite v (64 * g.base) ((l.flatMap (fun s : Src => s.bytes)).take (64 * (g.len + 1)))) v i t :=
      modVat h fun _ => rfl
    exact written.trans (modTile written.tile _)
  case h_2 => exact modTile h _

/-- A step that is neither marked LAST nor the 32nd is complete: the tile goes on to its next step (R504, R508). -/
theorem endStep {w : Nat} (h : (d.vat v).queue[i]? = some t) (hl : swLast w = false) (hs : t.step < 31) :
    ChangesTile d (d.endStep v i w) v i { t with step := t.step + 1 } := by
  have more : ¬ ((swLast w || decide (t.step + 1 = 32)) = true) := by
    rw [hl, Bool.false_or, decide_eq_true_eq]
    omega
  have goes : d.endStep v i w = d.modTile v i (fun t => { t with step := t.step + 1 }) := by
    rw [Die.endStep, h]
    exact if_neg more
  exact goes ▸ modTile h _

end ChangesTile

/-! ### An array step (R484, R504, R508, R548) -/

section
variable (d : Die) (v i : Nat) (t : TileRun) (w : Nat) (later : List Nat) (x : StepFind)

/-- PADK and PADV of a handle (R585). -/
def Die.padOf (h : Nat) : Nat × Nat := ((d.handleEnt v h).map (fun e => (e.padk, e.padv))).getD (0, 0)

theorem Die.padOf_eq (h : Nat) : (match d.handleEnt v h with
    | some e => (e.padk, e.padv)
    | none => (0, 0)) = d.padOf v h := by
  unfold Die.padOf
  cases d.handleEnt v h with
  | some e => rfl
  | none => rfl

/-- The sources of HIN as an array step reads them. -/
def Die.arrayHin : List Src := if swOp w = 0xE then [] else d.region v t (swHin w)

/-- The result of an array step. -/
def Die.arrayResult : ArrayOut :=
  arrayStep w t.step later t.ctx (d.arrayHin v t w) (if swAuxv w || swOp w = 6 then d.region v t (swHaux w) else []) t.emax
    (d.padOf v (swHout w)).1 (d.padOf v (swHout w)).2

/-- Values that a result holds. -/
def outValues (o : ArrayOut) : Nat :=
  match o.out with
  | some r => r.n
  | none => (o.emax.map List.length).getD 0

/-- What an array step counts: busy cycles, out-of-range results and draws; the array is not gated. -/
def Die.countArray (cycles range draws : Nat) : Die :=
  (((d.bump R.vatBusy v 0 cycles).bump R.vatRange v 0 range).bump64 R.rngDrawsLo R.rngDrawsHi 0 0 draws).setBit R.vatStatGated false v

/-- The E_max of a scan is kept with the tile. -/
def Die.keepEmax (o : ArrayOut) : Die :=
  match o.emax with
  | some l => d.modTile v i (fun t => { t with emax := l })
  | none => d

/-- A result is put into HOUT. -/
def Die.putResult (o : ArrayOut) : Die :=
  match o.out with
  | some r => d.putRegion v i (swHout w) [r]
  | none => d

theorem Die.arrayOp_completes (hm : (d.arrayResult v t w later).mixed = false)
    (hr : isPass w = true → x.residue = false ∧ (d.vat v).injRes = false) :
    d.arrayOp v i t w later x = ((((d.countArray v
      (arrayCycles w later (((d.arrayHin v t w).map (fun r => r.bytes.length)).sum) (outValues (d.arrayResult v t w later)))
      (d.arrayResult v t w later).range (d.arrayResult v t w later).draws).keepEmax v i (d.arrayResult v t w later)).putResult v i w
        (d.arrayResult v t w later)).endStep v i w) := by
  have unmixed : ¬ (d.arrayResult v t w later).mixed = true := by simp [hm]
  have sound : ¬ ((isPass w && (x.residue || (d.vat v).injRes)) = true) := by
    rw [Bool.and_eq_true, Bool.or_eq_true]
    rintro ⟨pass, bad⟩
    obtain ⟨residue, injected⟩ := hr pass
    simp [residue, injected] at bad
  unfold Die.arrayOp
  extract_lets hin haux pad o _ outs
  have result : o = d.arrayResult v t w later :=
    congrArg (fun p : Nat × Nat => arrayStep w t.step later t.ctx hin haux t.emax p.1 p.2) (d.padOf_eq v (swHout w))
  have values : outs = outValues o := by
    unfold outs outValues
    cases o.out with
    | some r => rfl
    | none => cases o.emax <;> rfl
  clear_value outs o
  subst result values
  rw [if_neg unmixed, if_neg sound]
  rfl

variable {d v i t w later x}

theorem ChangesTile.keepEmax (h : (d.vat v).queue[i]? = some t) (o : ArrayOut) :
    ChangesTile d (d.keepEmax v i o) v i { t with emax := o.emax.getD t.emax } := by
  unfold Die.keepEmax
  cases o.emax with
  | some l => exact modTile h _
  | none => exact refl h

theorem ChangesTile.putResult (h : (d.vat v).queue[i]? = some t) (o : ArrayOut) :
    ChangesTile d (d.putResult v i w o) v i { t with bufs := (o.out.map (fun r => smapSet [] t.bufs (swHout w) [r])).getD t.bufs } := by
  unfold Die.putResult
  cases o.out with
  | some r => exact putRegion h _ _
  | none => exact refl h

variable (d v)

theorem OnlyReports.bump64 (lo hi : Fld) (n : Nat) : OnlyReports d (d.bump64 lo hi 0 0 n) [lo.addrOf, hi.addrOf] := by
  rw [Die.bump64_eq]
  have counted : OnlyReports d (d.tbump lo 0 n) [] := by
    unfold Die.tbump
    split
    case h_1 k _ => exact .tcount d k n
    case h_2 => exact .refl d []
  exact (counted.trans (OnlyRegs.set _ lo _ 0 0 0).reports).trans (OnlyRegs.set _ hi _ 0 0 0).reports

/-- The array's counters, its gate and the count of draws. -/
theorem Die.countArray_shows (cycles range draws : Nat) :
    (d.countArray v cycles range draws).vats = d.vats
      ∧ (d.countArray v cycles range draws).get R.vatBusy v = d.counted R.vatBusy v 0 cycles
      ∧ (d.countArray v cycles range draws).get R.vatRange v = d.counted R.vatRange v 0 range
      ∧ (d.countArray v cycles range draws).get R.vatStatGated v = 0
      ∧ OnlyReports d (d.countArray v cycles range draws) [R.vatBusy.addrOf v, R.vatRange.addrOf v, R.vatStatGated.addrOf v, R.rngDrawsLo.addrOf,
          R.rngDrawsHi.addrOf] := by
  have draws_lo : R.rngDrawsLo.addrOf = 0xE078 := rfl
  have draws_hi : R.rngDrawsHi.addrOf = 0xE07C := rfl
  have gate : R.vatStatGated.addrOf v = 0x1000 * (0xA0 + v) + 0x40 := addrOf_vatField v rfl
  have busied := OnlyReports.bump d R.vatBusy v 0 cycles
  have busy : (d.bump R.vatBusy v 0 cycles).get R.vatBusy v = d.counted R.vatBusy v 0 cycles := Die.get_bump _ _ _ _ _ (by decide)
  have ranged := OnlyReports.bump (d.bump R.vatBusy v 0 cycles) R.vatRange v 0 range
  have out : ((d.bump R.vatBusy v 0 cycles).bump R.vatRange v 0 range).get R.vatRange v = d.counted R.vatRange v 0 range := by
    have before := busied.get R.vatRange v 0 0 (by rw [List.mem_singleton, addrOf_vatBusy, addrOf_vatRange]; omega)
    rw [Die.get_bump _ _ _ _ _ (by decide), before, Die.counted]
  unfold Die.countArray
  generalize (d.bump R.vatBusy v 0 cycles).bump R.vatRange v 0 range = e at ranged out ⊢
  have rest := (OnlyReports.bump64 e R.rngDrawsLo R.rngDrawsHi draws).trans (OnlyRegs.setBit _ R.vatStatGated false v 0 0).reports
  have total := (busied.trans ranged).trans rest
  refine ⟨total.units.vats, ((ranged.trans rest).get _ _ _ _ ?_).trans busy, (rest.get _ _ _ _ ?_).trans out, Die.get_set _ _ _ _ _ _ (by decide),
    total.mono (by simp)⟩
  · simp only [List.mem_append, List.mem_cons, List.not_mem_nil, or_false, addrOf_vatBusy, addrOf_vatRange, draws_lo, draws_hi, gate]
    omega
  · simp only [List.mem_append, List.mem_cons, List.not_mem_nil, or_false, addrOf_vatRange, draws_lo, draws_hi, gate]
    omega

/-- The tile after an array step that is not its last. -/
def afterArray (t : TileRun) (w : Nat) (o : ArrayOut) : TileRun :=
  { t with step := t.step + 1, emax := o.emax.getD t.emax, bufs := (o.out.map (fun r => smapSet [] t.bufs (swHout w) [r])).getD t.bufs }

variable {d v}

/-- What an array step counts and keeps, and the tile that goes on. -/
theorem Die.arrayOp_shows (hq : (d.vat v).queue[i]? = some t) (hl : swLast w = false) (hs : t.step < 31)
    (hm : (d.arrayResult v t w later).mixed = false) (hr : isPass w = true → x.residue = false ∧ (d.vat v).injRes = false) :
    let e := d.arrayOp v i t w later x
    let o := d.arrayResult v t w later
    (e.vat v).queue[i]? = some (afterArray t w o)
      ∧ (e.vat v).queue.eraseIdx i = (d.vat v).queue.eraseIdx i
      ∧ e.get R.vatBusy v
        = d.counted R.vatBusy v 0 (arrayCycles w later (((d.arrayHin v t w).map (fun r => r.bytes.length)).sum) (outValues o))
      ∧ e.get R.vatRange v = d.counted R.vatRange v 0 o.range ∧ e.get R.vatStatGated v = 0
      ∧ OnlyReports d { e with vats := d.vats } [R.vatBusy.addrOf v, R.vatRange.addrOf v, R.vatStatGated.addrOf v, R.rngDrawsLo.addrOf,
          R.rngDrawsHi.addrOf] := by
  dsimp only
  rw [Die.arrayOp_completes d v i t w later x hm hr]
  generalize d.arrayResult v t w later = o
  generalize arrayCycles w later _ _ = cycles
  obtain ⟨vats, busy, range, gate, reach⟩ := d.countArray_shows v cycles o.range o.draws
  generalize d.countArray v cycles o.range o.draws = e at vats busy range gate reach ⊢
  have emax := ChangesTile.keepEmax (d := e) (v := v) (i := i) (t := t) (Die.vat_congr vats v ▸ hq) o
  have out := emax.trans (ChangesTile.putResult emax.tile (w := w) o)
  have next := out.trans (ChangesTile.endStep out.tile hl hs)
  exact ⟨next.tile, next.others.trans (congrArg (fun y : VatSt => y.queue.eraseIdx i) (Die.vat_congr vats v)), (next.get ..).trans busy,
    (next.get ..).trans range, (next.get ..).trans gate, vats ▸ reach.trans next.reports⟩

end

/-! ### LOAD_TILE (R508, R509, R674) -/

theorem foldl_eq_self {α β : Type} {f : α → β → α} {a : α} {l : List β} (h : ∀ b ∈ l, f a b = a) : l.foldl f a = a := by
  induction l with
  | nil => rfl
  | cons b r ih => rw [List.foldl_cons, h b List.mem_cons_self, ih fun c hc => h c (List.mem_cons_of_mem _ hc)]

section
variable {d : Die} {v i : Nat} {t : TileRun} {w : Nat} {x : StepFind}

/-- The operand slot of a tile that a step word names. -/
def namedSlot (t : TileRun) (w : Nat) : OpSlot := t.slots.getD (swSlot w) { kind := 0, srcs := [], cave := none }

/-- A tile with its slot's sources in HOUT. -/
def Die.loadedTile (d : Die) (v : Nat) (t : TileRun) (w : Nat) : TileRun :=
  let pad := d.padOf v (swHout w)
  { t with bufs := smapSet [] t.bufs (swHout w) ((namedSlot t w).srcs.map (fun r => d.loadSrc r pad.1 pad.2)) }

/-- A slot of hoop cells that is not of child partials is laid out in HOUT, and the tile goes on. -/
theorem Die.loadTile_changes (hq : (d.vat v).queue[i]? = some t) (hl : swLast w = false) (hs : t.step < 31) (hk : (namedSlot t w).kind ≠ 2)
    (hc : (namedSlot t w).srcs.all (fun r => r.cave.isNone) = true) :
    ChangesTile d (d.loadTile v i t w x) v i { d.loadedTile v t w with step := t.step + 1 } := by
  unfold Die.loadTile
  extract_lets slot h pad ce ue before clear
  rw [foldl_eq_self (a := (d, false)) (l := slot.srcs) ?cells]
  case cells =>
    intro r hr
    have cells : r.cave = none := Option.isNone_iff_eq_none.1 (List.all_eq_true.1 hc r hr)
    rw [cells]
  have fresh : before = [] := if_neg hk
  have placed : pad = d.padOf v (swHout w) := d.padOf_eq v (swHout w)
  clear_value before pad
  subst fresh placed
  dsimp only
  rw [if_neg Bool.false_ne_true, List.nil_append]
  have put : ChangesTile d _ v i (d.loadedTile v t w) := .putRegion hq (swHout w) _
  have goes : ∀ {e : Die}, ChangesTile d e v i (d.loadedTile v t w) → ChangesTile d (e.endStep v i w) v i { d.loadedTile v t w with step := t.step + 1 } :=
    fun loaded => loaded.trans (.endStep loaded.tile hl hs)
  refine goes ?_
  exact .ite (put.trans (.modVat put.tile fun _ => rfl)) put

/-- STORE_TILE to a cave region writes the live bytes of its region (R673). -/
theorem Die.storeTile_cave {a : Nat} (hk : (namedSlot t w).kind = 4) (hc : (namedSlot t w).cave = some a) :
    d.storeTile v i t w = (d.caveWrite a ((d.region v t (swHin w)).map (fun r => r.bytes.take r.live)).flatten).endStep v i w := by
  unfold namedSlot at hk hc
  simp only [Die.storeTile, hk, hc]

end

/-! ### The statement -/

/-- Settles O37: a step out of its turn does nothing; one whose checks hold goes on to its op, whose own lemma says what it leaves. -/
theorem vatStepsComplete : Obligations.VatStepsComplete := by
  intro s v q x t w later a ha
  have steps := exec_stepInstr v q x s
  have arrays := exec_arrayInstr v q x s
  have acts : ∀ {i : Instr} {op : Nat} {f : Die → TileRun → Nat → List Nat → Die},
      exec i s = act s (fun d => d.runStep op v.toNat q.toNat x f) →
      s.die.stepReady v.toNat q.toNat op = some (t, w, later) ∧ (s.die.beginStep v.toNat q.toNat t w x).2 = true →
      Becomes i s (f (s.die.beginStep v.toNat q.toNat t w x).1 t w later) :=
    fun he hg => becomes_of_act _ s _ _ he ha (Die.runStep_acts _ hg.1 hg.2)
  refine ⟨fun y hy h => ?waits, fun y hy hg => acts (arrays y hy) hg, fun y hy hg more hm hr => ?array,
    fun hg => acts (f := fun d t w _ => d.loadTile v.toNat q.toNat t w x) rfl hg,
    fun hg more hk hc => ?load, fun hg => acts (f := fun d t w _ => d.storeTile v.toNat q.toNat t w) rfl hg, fun hg hk hc => ?store,
    fun hg => acts (f := fun d t w _ => d.emitStep v.toNat q.toNat t w) rfl hg⟩
  case waits =>
    obtain ⟨f, runs⟩ := steps y hy
    exact becomes_of_act _ s _ _ runs ha (Die.runStep_waits f h)
  all_goals
    have kept := Die.beginStep_keeps hg.2
    obtain ⟨-, -, queued⟩ := Die.stepReady_some hg.1
    have tile := kept.queue ▸ queued
  case array =>
    obtain ⟨next, others, busy, range, gate, reach⟩ := Die.arrayOp_shows (later := later) tile more.1 more.2 hm hr
    exact ⟨_, acts (arrays y hy) hg, next, others.trans (congrArg (List.eraseIdx · q.toNat) kept.queue), busy, range, gate, reach⟩
  case load => exact ⟨_, acts (f := fun d t w _ => d.loadTile v.toNat q.toNat t w x) rfl hg, (Die.loadTile_changes tile more.1 more.2 hk hc).tile⟩
  case store =>
    have stored := acts (i := .storeTile v q x) (f := fun d t w _ => d.storeTile v.toNat q.toNat t w) rfl hg
    rwa [Die.storeTile_cave hk hc] at stored

end Sys2Proof.Machine
end

section
/-!
PROOF. Faults of a vat (R507, R517, R567, R573): the checks of a step that fail, the watchdog, and the injected faults (R807).
-/
namespace Sys2Proof.Machine

/-! ### A fault (R517) -/

/-- A vat's fault, with its cause and step, against the die `d` from before: VAT.FAULT shows the cause and the queue stays; where no corrected recipe word was
logged before it, the record is UNIT_FATAL's next. -/
structure Faulted (d e : Die) (v cause step : Nat) (corrected : Bool) : Prop where
  fault : (e.vat v).fault = some (cause, step)
  shown : e.get R.vatFaultCause v = cause
  queue : (e.vat v).queue = (d.vat v).queue
  logged : corrected = false → Logged d e (pageIndex .vat v) 0x0900 2

section
variable {d e : Die} {v : Nat}

theorem Faulted.shows {cause step : Nat} {corrected : Bool} (h : Faulted d e v cause step corrected) :
    (e.vat v).fault = some (cause, step) ∧ e.get R.vatFaultCause v = cause ∧ (e.vat v).queue = (d.vat v).queue
      ∧ (corrected = false → Logged d e (pageIndex .vat v) 0x0900 2) := ⟨h.fault, h.shown, h.queue, h.logged⟩

/-- VAT.FAULT latches a cause, the step and the tick. -/
def Die.latchFault (d : Die) (v cause step : Nat) : Die :=
  ((d.set R.vatFaultCause cause v).set R.vatFaultStep step v).set R.vatFaultTick (d.tick.count.toNat % 2 ^ 16) v

theorem Die.latchFault_vats (d : Die) (v cause step : Nat) : (d.latchFault v cause step).vats = d.vats :=
  (Die.set_vats _ R.vatFaultTick _ _ _ _).trans ((Die.set_vats _ R.vatFaultStep _ _ _ _).trans (Die.set_vats _ R.vatFaultCause _ _ _ _))

theorem Die.latchFault_err (d : Die) (v cause step : Nat) : (d.latchFault v cause step).err = d.err :=
  (Die.set_err _ R.vatFaultTick _ _ _ _).trans ((Die.set_err _ R.vatFaultStep _ _ _ _).trans (Die.set_err _ R.vatFaultCause _ _ _ _))

theorem Die.latchFault_cause (d : Die) (v : Nat) {cause : Nat} (step : Nat) (h : cause < 16) :
    (d.latchFault v cause step).get R.vatFaultCause v = cause := by
  have cause_set : (d.set R.vatFaultCause cause v).get R.vatFaultCause v = cause :=
    (Die.get_set _ _ _ _ _ _ (by decide)).trans (Nat.mod_eq_of_lt h)
  unfold Die.latchFault
  rw [Die.get_set_apart _ R.vatFaultTick _ _ _ _ _ _ _ _ (by decide) (Loc.apart_of_bits (by decide)),
    Die.get_set_apart _ R.vatFaultStep _ _ _ _ _ _ _ _ (by decide) (Loc.apart_of_bits (by decide)), cause_set]

theorem Die.vatFault_eq (cause step : Nat) (hf : (d.vat v).fault = none) (hs : d.get R.vatStatState v ≠ 2) :
    d.vatFault v cause step = ((d.modVat v (fun s => { s with fault := some (cause, step) })).latchFault v cause step).logErr .vat v 0x0900 2
      (leBytes 1 cause ++ leBytes 1 step) := by
  unfold Die.vatFault
  rw [if_neg (by simp [hf, hs])]
  rfl

/-- A vat that serves and has no fault faults. -/
theorem KeepsTile.faults {cause : Nat} (step : Nat) {corrected : Bool} (h : KeepsTile v d e) (he : corrected = false → e.err = d.err)
    (hf : (d.vat v).fault = none) (hs : d.get R.vatStatState v ≠ 2) (hc : cause < 16) :
    Faulted d (e.vatFault v cause step) v cause step corrected := by
  rw [Die.vatFault_eq cause step (h.fault.trans hf) (h.state ▸ hs)]
  generalize hx : (e.modVat v (fun s => { s with fault := some (cause, step) })).latchFault v cause step = x
  obtain ⟨reach, logged⟩ := x.logErr_reach .vat v 0x0900 2 (leBytes 1 cause ++ leBytes 1 step) none false none
  have vat : x.vat v = { e.vat v with fault := some (cause, step) } := by
    subst hx
    exact (Die.vat_congr (Die.latchFault_vats _ v cause step) v).trans (e.vat_modVat_self v _)
  have err : x.err = e.err := by
    subst hx
    exact Die.latchFault_err _ v cause step
  have shown : x.get R.vatFaultCause v = cause := hx ▸ Die.latchFault_cause _ v step hc
  have kept := Die.vat_congr reach.units.vats v
  refine ⟨?_, ?_, ?_, fun hce => logged.of_err (err.trans (he hce)) rfl⟩
  · rw [kept, vat]
  · exact (reach.get _ _ _ _ List.not_mem_nil (not_mem_logAddrs (by rw [addrOf_vatFaultCause]; omega))).trans shown
  · rw [kept, vat]
    exact h.queue

end

/-! ### A step that does not complete (R507, R517, R567, R573) -/

section
variable (d : Die) (v i : Nat) (t : TileRun) (w : Nat) (x : StepFind)

theorem Die.fetchStep_err (h : x.rcpCe = false) : (d.fetchStep v t x).err = d.err := by
  rw [Die.fetchStep, if_neg (Bool.eq_false_iff.1 h)]

theorem Die.readHandles_err (h : x.rcpCe = false) : (d.readHandles v t x).err = d.err :=
  (Die.bump_err _ _ _ _ _).trans (d.fetchStep_err v t x h)

theorem Die.spadCorrected_err (ws : List (BitVec 18)) : (d.spadCorrected v ws).err = d.err :=
  Die.forAll_keep Die.err (fun e _ => (Die.modVat_err _ v _).trans (Die.bump_err e _ v 0 1)) ws d

/-- SP_ERR is one dword. -/
theorem Die.latchSpad_reach (u src : Nat) : OnlyRegs d (d.latchSpad v u src) [R.vatSpErrWord.addrOf v] := by
  have put (e : Die) (f : Fld) (n : Nat) (page : f.page = .vat) (off : f.off = 0x120) : OnlyRegs e (e.set f n v) [R.vatSpErrWord.addrOf v] :=
    .setBeside v e n page rfl off
  have latched := ((put d R.vatSpErrWord u rfl rfl).trans (put _ R.vatSpErrClass (if d.wordW v u then 1 else 0) rfl rfl)).trans
    (put _ R.vatSpErrSrc src rfl rfl)
  unfold Die.latchSpad
  dsimp only
  split
  case h_1 h _ _ => exact ((latched.trans (put _ R.vatSpErrHandle h rfl rfl)).trans (put _ R.vatSpErrHvalid 1 rfl rfl)).mono (by simp)
  case h_2 => exact ((latched.trans (put _ R.vatSpErrHandle 0 rfl rfl)).trans (put _ R.vatSpErrHvalid 0 rfl rfl)).mono (by simp)

/-- What is shown of an uncorrectable word before the vat faults. -/
theorem Die.spadUncorrected_keeps (u : Nat) : KeepsTile v d (((d.bump R.vatSpUe v).latchSpad v u 0).raise I.vatUe v)
    ∧ (((d.bump R.vatSpUe v).latchSpad v u 0).raise I.vatUe v).err = d.err := by
  have reach := ((OnlyReports.bump d R.vatSpUe v 0 1).trans ((d.bump R.vatSpUe v).latchSpad_reach v u 0).reports).trans
    (OnlyReports.raise _ I.vatUe v 0)
  refine ⟨.of_reports reach ?_, reach.err⟩
  simp only [List.mem_append, List.mem_singleton, addrOf_vatStatState, addrOf_vatSpUe, addrOf_vatSpErr, addrOf_vatCause v (q := I.vatUe) rfl]
  omega

variable {d} in
theorem Die.handleOk_congr {e : Die} (hv : e.vats = d.vats) (hp : e.plans = d.plans) (h : Nat) : e.handleOk v t h = d.handleOk v t h := by
  simp only [Die.handleOk, Die.handleEnt, Die.vat, Die.plan, hv, hp]

variable {d} in
theorem Die.readsPoison_congr {e : Die} (hv : e.vats = d.vats) : e.readsPoison v w = d.readsPoison v w := by
  simp only [Die.readsPoison, Die.handleEnt, Die.vat, hv]

/-- A step does not complete: its vat faults with a cause. -/
def Die.StepFaults (cause : Nat) : Prop :=
  (d.beginStep v i t w x).2 = false ∧ Faulted d (d.beginStep v i t w x).1 v cause (t.first + t.step) x.rcpCe

variable {d v t w x} (hf : (d.vat v).fault = none) (hs : d.get R.vatStatState v ≠ 2)
include hf hs

/-- An uncorrectable recipe word (cause 2), or an injected fault (cause 7). -/
theorem Die.recipe_faults (h : (x.rcpUe || (d.vat v).injRcp) = true) : d.StepFaults v i t w x (if (d.vat v).injRcp then 7 else 2) := by
  have below : (if (d.vat v).injRcp then 7 else 2) < 16 := by split <;> decide
  have kept := (d.fetchStep_keeps v t x).trans (KeepsTile.modVat (g := fun s => { s with injRcp := false }) (fun _ => rfl) (fun _ => rfl))
  unfold Die.StepFaults
  rw [Die.beginStep_eq, Die.fetchStep_vat, if_pos h]
  exact ⟨rfl, kept.faults _ (d.fetchStep_err v t x) hf hs below⟩

variable (hr : x.rcpUe = false) (hi : (d.vat v).injRcp = false)
include hr hi

/-- An uncorrectable handle entry (cause 3). -/
theorem Die.handle_faults (h : x.hdlUe = true) : d.StepFaults v i t w x 3 := by
  unfold Die.StepFaults
  rw [Die.beginStep_eq, Die.fetchStep_vat, if_neg (by simp [hr, hi]), if_pos h]
  exact ⟨rfl, (d.fetchStep_keeps v t x).faults _ (d.fetchStep_err v t x) hf hs (by decide)⟩

/-- A poisoned handle, or an uncorrectable scratchpad word (cause 5). -/
theorem Die.read_faults (hh : x.hdlUe = false) (hn : (namedHandles w).all (fun h => (d.handleOk v t h.1).1) = true)
    (h : d.readsPoison v w = true ∨ x.spadUe.isSome = true) : d.StepFaults v i t w x 5 := by
  have reach := d.fetchStep_reach v t x
  have vats : (d.readHandles v t x).vats = d.vats := (Die.bump_vats _ _ _ _ _).trans reach.units.vats
  have plans : (d.readHandles v t x).plans = d.plans := (Die.bump_plans _ _ _ _ _).trans reach.units.plans
  have good : (namedHandles w).find? (fun h => !((d.readHandles v t x).handleOk v t h.1).1) = none := by
    refine List.find?_eq_none.2 fun g hg => ?_
    rw [Die.handleOk_congr v t vats plans, List.all_eq_true.1 hn g hg]
    decide
  have kept := d.readHandles_keeps v t x
  have err := d.readHandles_err v t x
  have same := Die.readsPoison_congr v w vats
  unfold Die.StepFaults
  rw [Die.beginStep_eq, Die.fetchStep_vat, if_neg (by simp [hr, hi]), if_neg (Bool.eq_false_iff.1 hh)]
  generalize d.readHandles v t x = e at *
  unfold Die.checkStep
  rw [good]
  dsimp only
  split
  case isTrue => exact ⟨rfl, kept.faults _ err hf hs (by decide)⟩
  case isFalse sound =>
    obtain ⟨u, uncorrected⟩ := Option.isSome_iff_exists.1 (h.resolve_left (same ▸ sound))
    rw [uncorrected]
    obtain ⟨stays, logs⟩ := (e.spadCorrected v x.spadCe).spadUncorrected_keeps v u.toNat
    exact ⟨rfl, ((kept.trans (e.spadCorrected_keeps v x.spadCe)).trans stays).faults _
      (fun hce => (logs.trans (e.spadCorrected_err v x.spadCe)).trans (err hce)) hf hs (by decide)⟩

end

end Sys2Proof.Machine
end

section
/-!
PROOF. A vat is fenced (R518, R520, R521, R914, R947): what its own page shows, whatever becomes of its logical number.
-/
namespace Sys2Proof.Machine

/-! ### Effects that a vat or the fingerprint has a part in -/

theorem OnlyRegs.get_vats {d e : Die} {as : List Nat} {x : SMap VatSt} (h : OnlyRegs d { e with vats := x } as) (g : Fld) (i j k : Nat)
    (hg : g.addrOf i j ∉ as) : e.get g i j k = d.get g i j k := h.get g i j k hg

theorem KeepsVat.of_det {v : Nat} {d e : Die} {x : DetSt} (h : KeepsVat v d { e with det := x }) : KeepsVat v d e := ⟨h.vat, h.page⟩

/-! ### A vat's state and its logical number -/

section
variable (d : Die) (v st : Nat) (lv : Option Nat)

theorem Die.setServing_reach : OnlyRegs d (d.setServing v st lv) [R.vatStatState.addrOf v] := by
  unfold Die.setServing Die.setBit
  have state := OnlyRegs.set d R.vatStatState st v 0 0
  generalize d.set R.vatStatState st v = x at state ⊢
  have valid := OnlyRegs.setBeside v x (f := R.vatStatLvalid) (g := R.vatStatState) (if lv.isSome = true then 1 else 0) rfl rfl rfl
  generalize x.set R.vatStatLvalid (if lv.isSome = true then 1 else 0) v = y at valid ⊢
  exact ((state.trans valid).trans (.setBeside v y (f := R.vatStatLogical) (g := R.vatStatState) (lv.getD 0) rfl rfl rfl)).mono (by simp)

theorem Die.setServing_state : (d.setServing v st lv).get R.vatStatState v = st % 2 ^ 2 := by
  have state : (d.set R.vatStatState st v).get R.vatStatState v = st % 2 ^ 2 := Die.get_set _ _ _ _ _ _ (by decide)
  unfold Die.setServing Die.setBit
  rw [Die.get_set_apart _ R.vatStatLogical _ _ _ _ _ _ _ _ (by decide) (Loc.apart_of_bits (by decide)),
    Die.get_set_apart _ R.vatStatLvalid _ _ _ _ _ _ _ _ (by decide) (Loc.apart_of_bits (by decide)), state]

end

/-! ### Another vat takes the logical number (R518, R583) -/

section
variable {d : Die} {v r : Nat} (h : r ≠ v)
include h

theorem KeepsVat.spadWrite (a : Nat) (bs : List Byte) : KeepsVat v d (d.spadWrite r a bs) := modVat h _

theorem KeepsVat.planContents (i : PlanImg) (x : HdlRec) : KeepsVat v d (d.planContents r i x) := by
  unfold Die.planContents
  dsimp only
  split
  case isTrue => exact (modVat h _).trans (spadWrite h _ _)
  case isFalse => exact modVat h _

theorem KeepsVat.writeRegions (lv s : Nat) : KeepsVat v d (d.writeRegions r lv s) := by
  unfold Die.writeRegions
  split
  case h_1 => exact refl v d
  case h_2 i _ => exact forAll _ (fun e x _ => planContents h i x) d

theorem KeepsVat.writeRecipes (lv s : Nat) : KeepsVat v d (d.writeRecipes r lv s) := by
  unfold Die.writeRecipes
  dsimp only
  split
  case h_1 => exact refl v d
  case h_2 =>
    refine forAll _ (fun e x _ => ?_) d
    split
    case h_1 => exact refl v e
    case h_2 => exact forAll _ (fun _ _ _ => modVat h _) e

theorem KeepsVat.writeHandles (lv s : Nat) : KeepsVat v d (d.writeHandles r lv s) := by
  unfold Die.writeHandles
  dsimp only
  split
  case h_1 => exact refl v d
  case h_2 => exact forAll _ (fun _ _ _ => modVat h _) d

/-- A vat that takes a logical number leaves every other vat and its page alone. -/
theorem KeepsVat.takeNumber (lv : Nat) : KeepsVat v d (d.takeNumber r lv) := by
  have serves : KeepsVat v d (d.setServing r 0 (some lv)) := by
    refine .of_reports (d.setServing_reach r 0 (some lv)).reports fun a ha => ?_
    rw [List.mem_singleton.1 ha, addrOf_vatStatState]
    omega
  have took : ∀ e : Die, KeepsVat v e (e.raise I.vatTook r) := by
    refine fun e => .of_reports (OnlyReports.raise e I.vatTook r 0) fun a ha => ?_
    rw [List.mem_singleton.1 ha, addrOf_vatCause r rfl]
    omega
  unfold Die.takeNumber
  dsimp only
  exact (((serves.trans (modVat h _)).trans (forAll _ (fun _ _ _ => writeRegions h _ _) _)).trans
    (forAll _ (fun _ _ _ => (writeRecipes h _ _).trans (writeHandles h _ _)) _)).trans (took _)

end

/-! ### No vat takes it (R520) -/

section
variable {d : Die} {v : Nat}

/-- Reports and logs at addresses below the vats' pages leave every vat's page alone. -/
theorem KeepsVat.of_low {e : Die} {as : List Nat} (h : OnlyLogs d e as) (low : ∀ a ∈ as, a < 0xA0000) : KeepsVat v d e :=
  .of_logs h fun a ha => by have := low a ha; omega

theorem KeepsVat.originate (pk : Packet) : KeepsVat v d (d.originate pk) := by
  unfold Die.originate
  split
  case h_1 => exact of_low (as := []) (OnlyReports.emit d _).logs (by decide)
  case h_2 =>
    have counted : KeepsVat v d (d.bump R.harpUnroute) := of_low (OnlyReports.bump d R.harpUnroute 0 0 1).logs (by decide)
    have raised : KeepsVat v (d.bump R.harpUnroute) _ := of_low (OnlyReports.raise _ I.harpUnroute 0 0).logs (by decide)
    exact (counted.trans raised).trans (of_low (Die.logErr_reach _ _ _ _ _ _ _ _ _).1 (by decide))
  case h_3 => exact of_congr rfl rfl

theorem KeepsVat.endColl (g status reason : Nat) : KeepsVat v d (d.endColl g status reason) := by
  unfold Die.endColl
  split
  case h_1 => exact refl v d
  case h_2 r _ =>
    split
    case isTrue => exact refl v d
    case isFalse =>
      have ended : KeepsVat v d (d.modRun g (fun r => { r with ended := some (status, reason) })) := of_congr rfl rfl
      dsimp only
      split
      case isTrue => exact ended
      case isFalse => exact ended.trans (originate _)

theorem KeepsVat.startRundown (g : BitVec 12) (b : Nat) : KeepsVat v d (d.startRundown (.group g) b) := by
  have reach := d.startRundown_reach (.group g) b
  exact ⟨Die.vat_congr (e := d.startRundown (.group g) b) reach.units.vats v, fun a _ => reach.regs a List.not_mem_nil⟩

theorem KeepsVat.noHolder (lv : Nat) : KeepsVat v d (d.noHolder lv) := forAll _ (fun _ _ _ => (startRundown _ _).trans (endColl _ _ _)) d

end

/-! ### The vat leaves service (R518, R906) -/

/-- A vat is fenced: its page shows it, and it holds no fault, no recipe and no handle. -/
structure OutOfService (d : Die) (v : Nat) : Prop where
  state : d.get R.vatStatState v = 2
  asked : d.hget R.hdrCtlFence .vat v = 1
  fenced : d.hget R.hdrStatFenced .vat v = 1
  fault : (d.vat v).fault = none
  recipe : (d.vat v).recipe = []
  handles : (d.vat v).handles = []

section
variable {d e : Die} {v : Nat}

theorem addrOf_hdrCtlFence (v : Nat) : R.hdrCtlFence.addrOf (pageIndex .vat v) = 0x1000 * (0xA0 + v) + 0x8 := rfl

theorem addrOf_hdrStatFenced (v : Nat) : R.hdrStatFenced.addrOf (pageIndex .vat v) = 0x1000 * (0xA0 + v) + 0xC := rfl

theorem OutOfService.keeps (h : OutOfService d v) (k : KeepsVat v d e) : OutOfService e v := by
  obtain ⟨state, asked, fenced, fault, recipe, handles⟩ := h
  refine ⟨(k.get _ _ _ _ ?_).trans state, (k.get _ _ _ _ ?_).trans asked, (k.get _ _ _ _ ?_).trans fenced, ?_, ?_, ?_⟩
  · rw [addrOf_vatStatState]; omega
  · rw [addrOf_hdrCtlFence]; omega
  · rw [addrOf_hdrStatFenced]; omega
  · rwa [k.vat]
  · rwa [k.vat]
  · rwa [k.vat]

/-- A cause of the vat's own page. -/
theorem OutOfService.raise {q : Irq} (h : OutOfService d v) (hq : q.page = .vat) : OutOfService (d.raise q v) v := by
  have vat : (d.raise q v).vat v = d.vat v := Die.vat_congr (Die.raise_vats d q v 0) v
  have cause := addrOf_vatCause v hq
  obtain ⟨state, asked, fenced, fault, recipe, handles⟩ := h
  refine ⟨(Die.get_raise _ _ _ _ _ _ _ _ ?_).trans state, (Die.get_raise _ _ _ _ _ _ _ _ ?_).trans asked,
    (Die.get_raise _ _ _ _ _ _ _ _ ?_).trans fenced, ?_, ?_, ?_⟩
  · rw [addrOf_vatStatState, cause]; omega
  · rw [addrOf_hdrCtlFence, cause]; omega
  · rw [addrOf_hdrStatFenced, cause]; omega
  · rwa [vat]
  · rwa [vat]
  · rwa [vat]

variable (d v)

/-- The vat itself, on its way out of service: nothing is queued, latched or injected, and its scratchpad is wiped. -/
def Die.emptied (st : Nat) : Die :=
  ((d.modVat v (fun s => { s with queue := [], recipe := [], fault := none, injRes := false, injRcp := false, hard := [], wback := [] })).setServing
    v st none).wipeAll v

variable {d v} in
/-- Without queued tiles a vat that leaves service is emptied, and another takes its number, or none does. -/
theorem Die.retireVat_cases (st : Nat) (hq : (d.vat v).queue = []) :
    d.retireVat v st = d.emptied v st ∨ (∃ r lv, r ≠ v ∧ d.retireVat v st = (d.emptied v st).takeNumber r lv)
      ∨ ∃ lv, d.retireVat v st = (((d.emptied v st).logErr .vat v 0x0901 2 (leBytes 1 lv)).raise I.vatNoSpare v).noHolder lv := by
  unfold Die.retireVat
  rw [hq]
  dsimp only
  split
  case isTrue => exact .inl rfl
  case isFalse =>
    split
    case h_1 r found =>
      have spare := List.find?_some found
      simp only [Bool.and_eq_true, bne_iff_ne] at spare
      exact .inr (.inl ⟨r, _, spare.1.1.1, rfl⟩)
    case h_2 => exact .inr (.inr ⟨_, rfl⟩)

theorem Die.emptied_outOfService (asked : d.hget R.hdrCtlFence .vat v = 1) (fenced : d.hget R.hdrStatFenced .vat v = 1) :
    OutOfService (d.emptied v 2) v := by
  unfold Die.emptied
  generalize hx : d.modVat v (fun s => { s with
    queue := [], recipe := [], fault := none, injRes := false, injRcp := false, hard := [], wback := [] }) = x
  have serving := x.setServing_reach v 2 none
  have wiped := (x.setServing v 2 none).wipeAll_reach v
  have wiping : R.vatSpStatWiping.addrOf v = 0x1000 * (0xA0 + v) + 0x100 := addrOf_vatField v rfl
  have regs (f : Fld) (i : Nat) (hs : f.addrOf i ≠ R.vatStatState.addrOf v) (hw : f.addrOf i ≠ R.vatSpStatWiping.addrOf v) :
      ((x.setServing v 2 none).wipeAll v).get f i = d.get f i := by
    subst hx
    exact (wiped.get_vats f i 0 0 (by simpa using hw)).trans (serving.get f i 0 0 (by simpa using hs))
  have vat := Die.vat_congr serving.units.vats v
  rw [← hx, Die.vat_modVat_self, hx] at vat
  refine ⟨(wiped.get_vats _ _ _ _ ?_).trans (x.setServing_state v 2 none), (regs _ _ ?_ ?_).trans asked, (regs _ _ ?_ ?_).trans fenced, ?_, ?_, ?_⟩
  · rw [List.mem_singleton, addrOf_vatStatState, wiping]; omega
  · rw [addrOf_hdrCtlFence, addrOf_vatStatState]; omega
  · rw [addrOf_hdrCtlFence, wiping]; omega
  · rw [addrOf_hdrStatFenced, addrOf_vatStatState]; omega
  · rw [addrOf_hdrStatFenced, wiping]; omega
  · rw [Die.wipeAll_vat, vat]
  · rw [Die.wipeAll_vat, vat]
  · rw [Die.wipeAll_vat]

variable {d v}

theorem Die.retireVat_outOfService (asked : d.hget R.hdrCtlFence .vat v = 1) (fenced : d.hget R.hdrStatFenced .vat v = 1)
    (hq : (d.vat v).queue = []) : OutOfService (d.retireVat v 2) v := by
  have out := d.emptied_outOfService v asked fenced
  obtain alone | ⟨r, lv, other, took⟩ | ⟨lv, none⟩ := Die.retireVat_cases 2 hq
  · exact alone ▸ out
  · exact took ▸ out.keeps (KeepsVat.takeNumber other lv)
  · have logged := out.keeps (KeepsVat.of_low (Die.logErr_reach (d.emptied v 2) .vat v 0x0901 2 (leBytes 1 lv) Option.none false Option.none).1 (by simp))
    exact none ▸ (logged.raise (q := I.vatNoSpare) rfl).keeps (KeepsVat.noHolder lv)

/-! ### The fence map (R518, R914) -/

theorem KeepsVat.fenceChanged : KeepsVat v d d.fenceChanged := by
  have low : ∀ a ∈ fenceChgAddrs, a < 0xA0000 := by decide
  exact (KeepsVat.of_low d.fenceChanged_reach.logs low).of_det

theorem bit_add_two_pow {m k n : Nat} (hk : k < n) (h : m / 2 ^ k % 2 ≠ 1) : (m + 2 ^ k) % 2 ^ n / 2 ^ k % 2 = 1 := by
  have kept : (m + 2 ^ k) % 2 ^ n / 2 ^ k % 2 = 1 ↔ (m + 2 ^ k) / 2 ^ k % 2 = 1 := by
    have bits := Nat.testBit_mod_two_pow (m + 2 ^ k) n k
    rwa [decide_eq_true hk, Bool.true_and, Nat.testBit_eq_decide_div_mod_eq, Nat.testBit_eq_decide_div_mod_eq, decide_eq_decide] at bits
  rw [kept, Nat.add_div_right m (Nat.two_pow_pos k)]
  omega

/-- The fence map of vats shows a vat that is fenced. -/
theorem Die.fenceMap_shows (hv : v < 32) :
    KeepsVat v d (d.fenceMap R.chipFenceVats v true) ∧ (d.fenceMap R.chipFenceVats v true).get R.chipFenceVats / 2 ^ v % 2 = 1 := by
  unfold Die.fenceMap
  dsimp only
  split
  case isTrue h => exact ⟨.refl v d, by simpa using h⟩
  case isFalse h =>
    have clear : d.get R.chipFenceVats / 2 ^ v % 2 ≠ 1 := by simpa using h
    have marked : KeepsVat v d (d.set R.chipFenceVats (d.get R.chipFenceVats + 2 ^ v)) :=
      .of_low (OnlyRegs.set d R.chipFenceVats _ 0 0 0).reports.logs (by decide)
    refine ⟨marked.trans .fenceChanged, ?_⟩
    rw [if_pos rfl, Die.get_fenceChanged _ _ _ _ _ (by decide), Die.get_set _ _ _ _ _ _ (by decide)]
    exact bit_add_two_pow hv clear

/-- A vat with nothing queued is fenced: its page and the fence map show it. -/
theorem Die.fenceVat_shows (hv : v < 32) (hq : (d.vat v).queue = []) :
    OutOfService (d.fenceVat v) v ∧ (d.fenceVat v).get R.chipFenceVats / 2 ^ v % 2 = 1 ∧ (d.fenceVat v).hasCause I.vatFenced v = true := by
  unfold Die.fenceVat
  dsimp only
  have fenced : ((d.hset R.hdrCtlFence 1 .vat v).hset R.hdrStatFenced 1 .vat v).hget R.hdrStatFenced .vat v = 1 := Die.get_set _ _ _ _ _ _ (by decide)
  have asked : ((d.hset R.hdrCtlFence 1 .vat v).hset R.hdrStatFenced 1 .vat v).hget R.hdrCtlFence .vat v = 1 :=
    (Die.get_set_apart _ R.hdrStatFenced R.hdrCtlFence _ _ _ _ _ _ _ (by decide) (Loc.apart_of_off rfl rfl (by decide))).trans
      (Die.get_set _ _ _ _ _ _ (by decide))
  generalize hx : (d.hset R.hdrCtlFence 1 .vat v).hset R.hdrStatFenced 1 .vat v = x at fenced asked ⊢
  have queue : (x.vat v).queue = [] := by
    subst hx
    exact hq
  obtain ⟨kept, shown⟩ := Die.fenceMap_shows (d := x.retireVat v 2) hv
  have out := (Die.retireVat_outOfService asked fenced queue).keeps kept
  refine ⟨out.raise rfl, ?_, Die.hasCause_raise _ I.vatFenced v 0 (by decide)⟩
  rw [Die.get_raise _ _ _ _ _ _ _ _ ?_]
  · exact shown
  · rw [addrOf_vatCause v (q := I.vatFenced) rfl, show R.chipFenceVats.addrOf = 0x50 from rfl]
    omega

end

/-! ### The statement -/

/-- The commands of all steps of a tile, in the order of their op codes. -/
def stepInstrs (v : BitVec 5) (q : BitVec 4) (x : StepFind) : List (Nat × Instr) :=
  (1, .loadTile v q x) :: (arrayInstrs v q x ++ [(15, .storeTile v q x), (16, .emit v q x)])

theorem exec_stepInstrs (v : BitVec 5) (q : BitVec 4) (x : StepFind) (s : State) :
    ∀ y ∈ stepInstrs v q x, ∃ f, exec y.2 s = act s (fun d => d.runStep y.1 v.toNat q.toNat x f) := by
  intro y hy
  refine exec_stepInstr v q x s y ?_
  simp only [stepInstrs, moverInstrs, List.mem_append, List.mem_cons] at hy ⊢
  tauto

/-- A tile that has waited for 8 ticks: its vat faults (cause 4). -/
theorem Die.watchdog_faults {d : Die} {v : Nat} (step : Nat) (hf : (d.vat v).fault = none) (hs : d.get R.vatStatState v ≠ 2) (corrected : Bool) :
    Faulted d (d.vatFault v 4 step) v 4 step corrected :=
  (KeepsTile.refl v d).faults step (fun _ => rfl) hf hs (by decide)

/-- A command that the failed checks of a step leave in their die completes with the fault. -/
theorem Die.StepFaults.completes {d : Die} {v i : Nat} {t : TileRun} {w : Nat} {x : StepFind} {cause : Nat} {y : Instr} {s : State}
    (h : d.StepFaults v i t w x cause) (stops : (d.beginStep v i t w x).2 = false → Becomes y s (d.beginStep v i t w x).1) :
    Completes y s (fun e => (e.vat v).fault = some (cause, t.first + t.step) ∧ e.get R.vatFaultCause v = cause ∧ (e.vat v).queue = (d.vat v).queue
      ∧ (x.rcpCe = false → Logged d e (pageIndex .vat v) 0x0900 2)) := by
  obtain ⟨stopped, faulted⟩ := h
  exact ⟨_, stops stopped, faulted.shows⟩

/-- One vat faulted: it alone is fenced. -/
theorem Die.fence_alone {d : Die} {v : Nat} (h : d.faulted = [v]) : d.forAll d.faulted Die.fenceVat = d.fenceVat v := by
  rw [h]
  rfl

/-- An injection while debug is unlocked (R517, R807). -/
theorem Die.injectVat_open {d : Die} (h : d.debugOpen = true) (c : Cls) (v : Nat) (f : VatSt → VatSt) :
    ChangesVat d (d.injectVat c v f) v (f (d.vat v)) ∧ OnlyRegs d { d.injectVat c v f with vats := d.vats } [] := by
  rw [Die.injectVat, if_pos h]
  exact ⟨ChangesVat.modVat d v f, OnlyRegs.refl d []⟩

/-- An injection while debug is locked is refused. -/
theorem Die.injectVat_locked {d : Die} (h : d.debugOpen = false) (c : Cls) (v : Nat) (f : VatSt → VatSt) :
    (d.injectVat c v f).hget R.hdrStatAccessErr .vat v = 1 ∧ OnlyReports d (d.injectVat c v f) (accAddrs .vat v) := by
  rw [Die.injectVat, if_neg (Bool.eq_false_iff.1 h)]
  exact ⟨Die.accErr_shown _ _ _ _ _ _ _, OnlyReports.accErr _ _ _ _ _ _ _⟩

/-- Settles O38: a step whose checks fail ends in the die of its check's lemma; the watchdog, the fence and the injections through theirs. -/
theorem vatFaultsFence : Obligations.VatFaultsFence := by
  intro s c v q x t w later op ha
  refine ⟨fun y hy hop ready => ?steps, fun queued old hf hs hce => ?late, fun queued young => ?early, fun none => ?unfaulted,
    fun alone idle => ?fence, fun hr => ⟨fun openNow => ⟨?residue, ?recipe⟩, fun locked => ?refused⟩⟩
  case steps =>
    obtain ⟨f, runs⟩ := exec_stepInstrs v q x s y hy
    have stops (hb : (s.die.beginStep v.toNat q.toNat t w x).2 = false) : Becomes y.2 s (s.die.beginStep v.toNat q.toNat t w x).1 :=
      becomes_of_act _ s _ _ (hop ▸ runs) ha (Die.runStep_stops f ready hb)
    have faults {cause : Nat} (h : s.die.StepFaults v.toNat q.toNat t w x cause) := Die.StepFaults.completes h stops
    obtain ⟨state, hf, -⟩ := Die.stepReady_some ready
    have hs : s.die.get R.vatStatState v.toNat ≠ 2 := by rw [state]; decide
    refine ⟨fun hu hi => faults ?word, fun hi => faults ?injected, fun ⟨hr, hi⟩ hu => faults (Die.handle_faults _ hf hs hr hi hu),
      fun ⟨hr, hi⟩ hh hn poison => faults (Die.read_faults _ hf hs hr hi hh hn (.inl poison)),
      fun ⟨hr, hi⟩ hh hn _ hu => faults (Die.read_faults _ hf hs hr hi hh hn (.inr hu)), stops⟩
    case word =>
      have stopped := Die.recipe_faults (w := w) q.toNat hf hs (t := t) (x := x) (by rw [hu, Bool.true_or])
      rwa [hi] at stopped
    case injected =>
      have stopped := Die.recipe_faults (w := w) q.toNat hf hs (t := t) (x := x) (by rw [hi, Bool.or_true])
      rwa [hi] at stopped
  case late =>
    refine completes_of_act _ s _ _ rfl ha ?_
    rw [queued]
    dsimp only
    rw [if_pos old]
    exact (Die.watchdog_faults _ hf hs x.rcpCe).shows
  case early =>
    refine becomes_of_act _ s _ _ rfl ha ?_
    rw [queued]
    exact if_neg (Nat.not_le.2 young)
  case unfaulted =>
    refine becomes_of_act _ s _ _ rfl ha ?_
    rw [none]
    rfl
  case fence =>
    refine completes_of_act _ s _ _ rfl ha ?_
    rw [Die.fence_alone alone]
    obtain ⟨⟨state, asked, fenced, fault, recipe, handles⟩, bit, cause⟩ := Die.fenceVat_shows v.isLt idle
    exact ⟨state, asked, fenced, bit, cause, fault, recipe, handles⟩
  case residue => exact completes_of_page _ s c .vat v.toNat _ _ rfl ⟨ha, hr⟩ (Die.injectVat_open openNow c v.toNat _)
  case recipe => exact completes_of_page _ s c .vat v.toNat _ _ rfl ⟨ha, hr⟩ (Die.injectVat_open openNow c v.toNat _)
  case refused =>
    refine List.forall_mem_cons.2 ⟨?_, List.forall_mem_singleton.2 ?_⟩
    · exact completes_of_page _ s c .vat v.toNat _ _ rfl ⟨ha, hr⟩ (Die.injectVat_locked locked c v.toNat _)
    · exact completes_of_page _ s c .vat v.toNat _ _ rfl ⟨ha, hr⟩ (Die.injectVat_locked locked c v.toNat _)

end Sys2Proof.Machine
end

section
/-!
PROOF. Two records in one action (spec 13, R574; spec 22, R895, R899): a hard fault of brine logs SPAD_HARD and then the vat's fault. Where every entry of the
global log but the newest is PEND, the second record takes the entry that the first has just taken.
-/
namespace Sys2Proof.Machine

/-! ### A record placed in a FIFO, and one taken out of the log (R896, R899) -/

theorem length_fifoPlace (q : List ErrRec) (r : ErrRec) : (fifoPlace q r).length = q.length + 1 := by
  induction q with
  | nil => rfl
  | cons h t ih =>
    unfold fifoPlace
    split
    case isTrue => exact congrArg (· + 1) ih
    case isFalse => rfl

theorem length_fifoAdd (q : List ErrRec) (r : ErrRec) : (fifoAdd q r).length = q.length + 1 := by
  unfold fifoAdd
  split
  case h_1 => rfl
  case h_2 =>
    split
    case isTrue => exact length_fifoPlace _ r
    case isFalse => rfl

/-- The entries that are PEND are passed over. -/
theorem takeOldest_append {l : List LogEnt} {y : LogEnt} (hl : ∀ x ∈ l, x.pend = true) (hy : y.pend = false) :
    takeOldest (l ++ [y]) = some (y.slot, l) := by
  induction l with
  | nil => rw [List.nil_append, takeOldest, if_neg (Bool.eq_false_iff.1 hy)]
  | cons x r ih =>
    obtain ⟨hx, hr⟩ := List.forall_mem_cons.1 hl
    rw [List.cons_append, takeOldest, if_pos hx, ih hr]
    rfl

/-! ### A log with one entry that is not PEND (R895, R899) -/

/-- The global log holds the entries `l`, then one more that is not PEND and has a code; no record waits for an entry, and the FIFO of a page holds
`n` records. -/
structure ErrSt.LastOpen (x : ErrSt) (l : List LogEnt) (idx n code : Nat) : Prop where
  log : ∃ y, x.log = l ++ [y] ∧ y.pend = false ∧ y.r.code = BitVec.ofNat 16 code
  waiting : x.waiting = []
  fifo : (smapGet PageErr.empty x.pages idx).fifo.length = n

/-- A code that neither `l` nor the newest entry shows is not logged. -/
theorem ErrSt.LastOpen.not_logged {d e : Die} {l : List LogEnt} {idx n c page code sev : Nat} (h : e.err.LastOpen l idx n c)
    (hl : ∀ x ∈ l, x.r.code ≠ BitVec.ofNat 16 code) (hc : BitVec.ofNat 16 c ≠ BitVec.ofNat 16 code) : ¬ Logged d e page code sev := by
  rintro ⟨r, shown, -, -, -, logged⟩
  obtain ⟨⟨y, log, -, newest⟩, waiting, -⟩ := h
  obtain ⟨x, hx, rfl⟩ | waits := logged
  · rw [log] at hx
    obtain old | new := List.mem_append.1 hx
    · exact hl x old shown
    · rw [List.mem_singleton.1 new] at shown
      exact hc (newest.symm.trans shown)
  · rw [waiting] at waits
    exact absurd waits List.not_mem_nil

theorem Die.wakeCause_err (d : Die) (n : Nat) : (d.wakeCause n).err = d.err := by
  unfold Die.wakeCause
  split
  case isTrue =>
    dsimp only
    split
    case isTrue => rfl
    case isFalse => split <;> rfl
  case isFalse => rfl

section
variable {d : Die} {l : List LogEnt} {n : Nat} (full : l.length = 1023) (pend : ∀ x ∈ l, x.pend = true)
include full pend

theorem Die.logWrite_lastOpen {y : LogEnt} (hl : d.err.log = l ++ [y]) (hy : y.pend = false) (r : ErrRec) :
    ∃ e, d.logWrite r = some (e, y.slot)
      ∧ e.err = { d.err with log := l ++ [{ slot := y.slot, r := r, pend := false }], seq := d.err.seq + 1 } := by
  have taken : ¬ (l ++ [y]).length < 1024 := by simp [full]
  unfold Die.logWrite
  rw [hl, if_neg taken, takeOldest_append pend hy]
  refine ⟨_, rfl, ?_⟩
  dsimp only
  rw [if_pos rfl]
  split
  case isTrue => rw [(OnlyCave.caveWrite _ _ _).err, (OnlyCave.caveWrite _ _ _).err, Die.bump_err]
  case isFalse => rw [Die.bump_err]

/-- A record logged takes the entry that is not PEND. -/
theorem Die.logRecord_lastOpen {idx code : Nat} (h : d.err.LastOpen l idx n code) (room : n < 8) {r : ErrRec} {c : Nat}
    (hc : r.code = BitVec.ofNat 16 c) : (d.logRecord idx r).err.LastOpen l idx (n + 1) c := by
  obtain ⟨⟨y, log, unmarked, -⟩, waiting, fifo⟩ := h
  unfold Die.logRecord
  extract_lets p r'
  obtain ⟨e, wrote, err⟩ := d.logWrite_lastOpen full pend log unmarked r'
  have offered : PageErr.offer { p with owed := 0 } r' = ({ p with fifo := fifoAdd p.fifo r', owed := 0 }, false) :=
    if_pos (show p.fifo.length < 8 from fifo ▸ room)
  rw [wrote, offered]
  dsimp only
  rw [Bool.false_and, if_neg Bool.false_ne_true, if_neg Bool.false_ne_true]
  have ended (x : Die) : (if 1 ≤ r'.sev.toNat then x.wakeCause 2 else x).err = x.err := by
    split
    case isTrue => exact x.wakeCause_err 2
    case isFalse => rfl
  rw [ended, Die.raise_err, Die.setPageErr, err]
  refine ⟨⟨_, rfl, rfl, hc⟩, waiting, ?_⟩
  rw [smapGet_set_self, length_fifoAdd]
  exact congrArg (· + 1) fifo

theorem Die.logErr_lastOpen {t : PageType} {i code : Nat} (h : d.err.LastOpen l (pageIndex t i) n code) (room : n < 8) (c sev : Nat) (detail : List Byte) :
    (d.logErr t i c sev detail).err.LastOpen l (pageIndex t i) (n + 1) c := by
  unfold Die.logErr
  dsimp only
  rw [(Die.errPinUpdate_reach _ _).2]
  exact Die.logRecord_lastOpen full pend (d := d.used) h room rfl

end

/-! ### The fourth pass in a row (R574) -/

section
variable {d : Die} {v : Nat}

theorem Die.brineNext_err (d : Die) (v : Nat) : (d.brineNext v).err = d.err := by
  unfold Die.brineNext
  dsimp only
  split
  case isTrue => rfl
  case isFalse => rw [Die.modVat_err, Die.bump_err, Die.set_err, Die.set_err]

/-- How many passes in a row correct the cursor word, once this visit does (R574). -/
def Die.brineTimes (d : Die) (v : Nat) : Nat := smapGet 0 (d.vat v).hard (d.get R.vatBrineStatCursor v) + 1

/-- The cursor word is corrected: VAT.SP_FIX and the word's passes count it (R571). -/
def Die.brineCorrected (d : Die) (v : Nat) : Die :=
  (d.bump R.vatSpFix v).modVat v (fun s => { s with hard := smapSet 0 s.hard (d.get R.vatBrineStatCursor v) (d.brineTimes v) })

theorem Die.brineCorrected_keeps (d : Die) (v : Nat) : KeepsTile v d (d.brineCorrected v) := by
  have counter : R.vatStatState.addrOf v ∉ [R.vatSpFix.addrOf v] := by
    rw [List.mem_singleton, addrOf_vatStatState, show R.vatSpFix.addrOf v = 0x1000 * (0xA0 + v) + 0x11C from addrOf_vatField v rfl]
    omega
  exact (KeepsTile.of_reports (OnlyReports.bump d R.vatSpFix v 0 1) counter).trans (.modVat (fun _ => rfl) (fun _ => rfl))

/-- The fourth pass in a row is logged as SPAD_HARD, and shown (R574). -/
def Die.brineHard (d : Die) (v : Nat) : Die :=
  ((d.brineCorrected v).logErr .vat v 0x0906 1 ((d.brineCorrected v).spadDetail v (d.get R.vatBrineStatCursor v))).raise I.vatHard v

/-- The fourth pass in a row that corrects the cursor word: two errors are logged, SPAD_HARD and the vat's fault. -/
theorem Die.brineVisit_hard (hw : d.underWipe v (d.get R.vatBrineStatCursor v) = false) (h4 : 4 ≤ d.brineTimes v) :
    d.brineVisit v 1 = ((d.brineHard v).vatFault v 5 0).brineNext v := by
  unfold Die.brineVisit
  dsimp only
  rw [hw, if_neg Bool.false_ne_true, if_pos rfl]
  exact congrArg (fun e : Die => e.brineNext v) (if_neg (Nat.not_lt.2 h4))

theorem Die.brineHard_keeps (d : Die) (v : Nat) : KeepsTile v d (d.brineHard v) := by
  have cause : R.vatStatState.addrOf v ∉ [I.vatHard.addrOf v] := by
    rw [List.mem_singleton, addrOf_vatStatState, addrOf_vatCause v (q := I.vatHard) rfl]
    omega
  exact ((d.brineCorrected_keeps v).trans (.of_logs (Die.logErr_reach _ _ _ _ _ _ _ _ _).1 List.not_mem_nil)).trans
    (.of_reports (OnlyReports.raise _ _ _ _) cause)

/-- The vat's fault takes the entry of SPAD_HARD. -/
theorem Die.brineVisit_lastOpen {l : List LogEnt} {code : Nat} (full : l.length = 1023) (pend : ∀ x ∈ l, x.pend = true)
    (h : d.err.LastOpen l (pageIndex .vat v) 0 code) (hw : d.underWipe v (d.get R.vatBrineStatCursor v) = false) (h4 : 4 ≤ d.brineTimes v)
    (hf : (d.vat v).fault = none) (hs : d.get R.vatStatState v ≠ 2) : (d.brineVisit v 1).err.LastOpen l (pageIndex .vat v) 2 0x0900 := by
  have kept := d.brineHard_keeps v
  have corrected : (d.brineCorrected v).err = d.err := (Die.modVat_err _ v _).trans (Die.bump_err d R.vatSpFix v 0 1)
  have hard : (d.brineHard v).err.LastOpen l (pageIndex .vat v) 1 0x0906 := by
    rw [Die.brineHard, Die.raise_err]
    exact Die.logErr_lastOpen full pend (corrected ▸ h) (by decide) _ _ _
  rw [Die.brineVisit_hard hw h4, Die.brineNext_err, Die.vatFault_eq 5 0 (kept.fault.trans hf) (kept.state ▸ hs)]
  refine Die.logErr_lastOpen (code := 0x0906) full pend ?_ (by decide) _ _ _
  rw [Die.latchFault_err, Die.modVat_err]
  exact hard

end

/-! ### A log in which no other entry is free (R899) -/

/-- A CONTAINED record of PORT page 0. -/
def portRecord (seq : Nat) : ErrRec :=
  { tick := 0, cyc := 0, code := 0x0500, sev := 1, esc := false, tidv := false, mgmt := false, fenced := false, tid := 0
    page := BitVec.ofNat 12 (pageIndex .port 0), die := 0, epoch := 0, drops := 0, seq := BitVec.ofNat 32 seq, detail := [] }

/-- 1,023 records that wait for PORT page 0's FIFO. -/
def pendRecords : List LogEnt := (List.range 1023).map (fun i => { slot := i, r := portRecord (8 + i), pend := true })

/-- A global log with those, and one more record, which is not PEND; PORT page 0's FIFO holds the 8 records before them and stalls. -/
def crowdedLog : ErrSt :=
  { log := pendRecords ++ [{ slot := 1023, r := portRecord 1031, pend := false }]
    pages := [(pageIndex .port 0, { PageErr.empty with fifo := (List.range 8).map portRecord, stall := true, closed := true })]
    seq := 1032, waiting := [], wdogLogged := false }

/-- The die after reset, but with that log, and word 0 of vat 0 corrected on three passes in a row. -/
def thriceCorrected : State :=
  { State.reset with die := { Die.reset with err := crowdedLog, vats := [(0, { VatSt.init with hard := [(0, 3)] })] } }

/-- An entry that is not valid; the clause of the fourth pass speaks of none. -/
def blankHandle : HandleEnt :=
  { valid := false, cls := false, poison := false, mgmt := false, padk := 0, tid := 0, base := 0, len := 0, ltag := 0, padv := 0, slot := 0 }

theorem pendRecords_pend : ∀ x ∈ pendRecords, x.pend = true ∧ x.r.code = 0x0500 := by
  intro x hx
  obtain ⟨i, -, rfl⟩ := List.mem_map.1 hx
  exact ⟨rfl, rfl⟩

theorem brineVisit_thriceCorrected : (thriceCorrected.die.brineVisit 0 1).err.LastOpen pendRecords (pageIndex .vat 0) 2 0x0900 := by
  have full : pendRecords.length = 1023 := by rw [pendRecords, List.length_map, List.length_range]
  have crowded : thriceCorrected.die.err.LastOpen pendRecords (pageIndex .vat 0) 0 0x0500 := ⟨⟨_, rfl, rfl, rfl⟩, rfl, rfl⟩
  exact Die.brineVisit_lastOpen full (fun x hx => (pendRecords_pend x hx).1) crowded rfl (by decide) rfl (by decide)

/-- SPAD_HARD stands neither in the global log nor among the records that wait. -/
theorem not_logged_spadHard {d : Die} {page sev : Nat} : ¬ Logged d (thriceCorrected.die.brineVisit 0 1) page 0x0906 sev := by
  refine brineVisit_thriceCorrected.not_logged (fun x hx code => ?_) (by decide)
  exact absurd ((pendRecords_pend x hx).2.symm.trans code) (by decide)

/-- Refutes O39: a visit of brine corrects word 0 of `thriceCorrected` for the fourth pass in a row, and the statement has SPAD_HARD logged. It was, but the
record of the vat's fault has taken its entry, the only one that was not PEND (R899). -/
theorem not_brineVisits : ¬ Obligations.BrineVisits := by
  intro holds
  obtain ⟨-, visit, -⟩ := holds thriceCorrected 0 1 0 blankHandle rfl
  obtain ⟨-, -, hard, -⟩ := visit rfl (by decide)
  obtain ⟨e, ran, -, -, logged, -⟩ := hard rfl (by decide) rfl (by decide)
  have visited : Becomes (.brineVisit 0 1) thriceCorrected (thriceCorrected.die.brineVisit 0 1) := becomes_of_act _ _ _ _ rfl rfl rfl
  injection ran.symm.trans visited with next
  injection next with _ die
  rw [die] at logged
  exact not_logged_spadHard logged

end Sys2Proof.Machine
end

section
/-!
PROOF. STOP of a group for which dispatch records wait in the engine (spec 15, R658; spec 11, R514).
-/
namespace Sys2Proof.Machine

/-- Group 0 of tenant 1, whose HOME is die 0. -/
def homeGroup : GroupEnt :=
  { tid := 1, home := 0, hasq := true, lkind := false, leid := 0, nmem := 0, smallMax := 0, nt := 1, lead := 0, early := 0, holdMax := 0, ltag := 0
    mbase := 0, slot := 0, chunkMax := 0 }

/-- A dispatch record of chunk 0 of group 0. -/
def chunkTile : TileRun :=
  { tid := 1, group := 0, cid := 0, chunk := 0, tile := 0, slot := 0, rset := 0, stage := 0, tree := 0, alt := false, lvat := 0, first := 0, step := 0
    slots := [], ctx := { seed := ⟨0, 0, 0, 0, 0⟩, rowlen := 0, member := 0, rows := 0, rowsIn := 0, cols := 0, colsIn := 0, col0 := 0 }
    bufs := [], emax := [], born := 0, carried := true, reexec := false }

/-- The collective of a descriptor of zeros, which starts at tick 0. -/
def zeroRun : CollRun := Die.reset.mkRun 0 (readDescr []) 0 0 0

/-- The die after boot, HOME of group 0, whose collective runs while that dispatch record waits for room in a vat's queue. -/
def waitingDie : Die :=
  { Die.reset with
    boot := { Die.reset.boot with stage := 7 }
    coll := { groups := [(0, { GroupSt.init with ent := some homeGroup, run := some zeroRun })], waiting := [chunkTile], taken := [] } }

/-- STOP withdraws the waiting record, whose chunk is not below CSTOP. -/
theorem collCommand_waitingDie (c : Cls) : (waitingDie.collCommand c 0 1).coll.waiting = [] := rfl

/-- Refutes O47: STOP of group 0 of `waitingDie` withdraws a dispatch record that waits in the engine, as R658 asks, where the statement has the engine as
it was but for its groups. -/
theorem not_collectiveCommands : ¬ Obligations.CollectiveCommands := by
  intro holds
  obtain ⟨-, -, -, -, -, -, home, -⟩ := holds ⟨[], waitingDie⟩ .host 0 0 0 Packet.blank none 0 zeroRun homeGroup rfl
  obtain ⟨stop, -⟩ := home ⟨rfl, rfl, rfl⟩ rfl
  obtain ⟨e, ran, ⟨-, -, coll⟩, -⟩ := stop rfl
  have stopped : Becomes (.groupStop .host 0) ⟨[], waitingDie⟩ (waitingDie.collCommand .host 0 1) := becomes_of_act _ _ _ _ rfl rfl rfl
  injection ran.symm.trans stopped with next
  injection next with _ die
  have kept : e.coll.waiting = [chunkTile] := congrArg CollSt.waiting coll
  rw [die, collCommand_waitingDie] at kept
  exact List.cons_ne_nil _ _ kept.symm

end Sys2Proof.Machine
end

section
/-!
PROOF. COLL_MEMBER_LATE on a die that is not HOME (spec 15, R637, log entry 22; spec 22, R895, R899): the late member is logged, and where no port leads to
HOME the loss of the packet that tells HOME is logged next. Where every entry of the global log but the newest is PEND, the second record takes the entry of
the first.
-/
namespace Sys2Proof.Machine

/-! ### A record of one page, as the other pages see the log (R895) -/

section
variable {d : Die} {l : List LogEnt} {n : Nat} (full : l.length = 1023) (pend : ∀ x ∈ l, x.pend = true)
include full pend

/-- The error log after a record took the entry that is not PEND: beside the log, only its own page changes. -/
theorem Die.logRecord_err_of_lastOpen {idx code : Nat} (h : d.err.LastOpen l idx n code) (room : n < 8) (r : ErrRec) :
    ∃ y q, y.pend = false ∧ y.r.code = r.code
      ∧ (d.logRecord idx r).err = { d.err with log := l ++ [y], seq := d.err.seq + 1, pages := smapSet PageErr.empty d.err.pages idx q } := by
  obtain ⟨⟨y, log, unmarked, -⟩, -, fifo⟩ := h
  unfold Die.logRecord
  extract_lets p r'
  obtain ⟨e, wrote, err⟩ := d.logWrite_lastOpen full pend log unmarked r'
  have offered : (PageErr.offer { p with owed := 0 } r').2 = false := congrArg Prod.snd (if_pos (show p.fifo.length < 8 from fifo ▸ room))
  rw [wrote]
  generalize PageErr.offer { p with owed := 0 } r' = o at offered ⊢
  obtain ⟨q, more⟩ := o
  obtain rfl : more = false := offered
  have ended (x : Die) : (if 1 ≤ r'.sev.toNat then x.wakeCause 2 else x).err = x.err := by
    split
    case isTrue => exact x.wakeCause_err 2
    case isFalse => rfl
  dsimp only
  rw [ended, Die.raise_err, Bool.false_and, if_neg Bool.false_ne_true, if_neg Bool.false_ne_true, Die.setPageErr, err]
  exact ⟨_, q, rfl, rfl, rfl⟩

/-- Another page's FIFO stays, and the entry that is not PEND holds the new record. -/
theorem Die.logErr_lastOpen_other {t : PageType} {i j m c c' : Nat} (h : d.err.LastOpen l (pageIndex t i) n c) (room : n < 8)
    (hj : d.err.LastOpen l j m c) (hne : j ≠ pageIndex t i) (sev : Nat) (detail : List Byte) (tid : Option Nat) :
    (d.logErr t i c' sev detail tid).err.LastOpen l j m c' := by
  unfold Die.logErr
  extract_lets idx r
  rw [(Die.errPinUpdate_reach _ _).2]
  obtain ⟨y, q, unmarked, code, err⟩ := Die.logRecord_err_of_lastOpen full pend (d := d.used) h room r
  rw [err]
  exact ⟨⟨y, rfl, unmarked, code⟩, hj.waiting, by rw [smapGet_set, if_neg hne]; exact hj.fifo⟩

end

/-! ### A packet for a sibling that no STACK port reaches (R329, R338) -/

theorem Die.route_dead_of_noRoles {d : Die} {pk : Packet} (roles : d.casc.role = []) (node : eidNode pk.deid = d.selfNode)
    (die : eidDie pk.deid ≠ d.pos) : d.route pk none = .dead := by
  have ports : d.stackPorts (eidDie pk.deid) = [] := by
    unfold Die.stackPorts Die.portsWith Die.isStack Die.role
    rw [roles]
    simp
  have toward : d.stackToward (eidDie pk.deid) pk.path.toNat = none := by
    unfold Die.stackToward
    rw [ports]
    rfl
  unfold Die.route
  simp only [node, bne_self_eq_false, Bool.and_false, List.find?_eq_none.2, Bool.false_eq_true, not_false_eq_true, implies_true, ne_eq,
    not_true_eq_false, if_false, die, toward]

/-- A packet without a route is logged by the harp. -/
theorem Die.originate_dead {d : Die} {pk : Packet} (h : d.route pk none = .dead) :
    d.originate pk = ((d.bump R.harpUnroute).raise I.harpUnroute).logErr .harp 0 0x0601 0 (leBytes 1 64 ++ leBytes 1 pk.op.toNat) := by
  unfold Die.originate
  rw [h]

/-! ### The late member (R637) -/

section
variable {d : Die} {g : Nat} {r : CollRun} {e : GroupEnt} (hr : (d.group g).run = some r) (hn : r.ended = none)
include hr hn

/-- A die that is not HOME tells HOME. -/
theorem Die.endColl_away (away : d.isHome g = false) (st why : Nat) :
    ∃ pk : Packet, pk.deid = BitVec.ofNat 17 r.home
      ∧ d.endColl g st why = (d.modRun g (fun r => { r with ended := some (st, why) })).originate pk := by
  have home : (d.modRun g (fun r => { r with ended := some (st, why) })).isHome g = false := by
    rw [← away]
    unfold Die.isHome Die.modRun Die.group Die.modGroup Die.pos
    rw [smapGet_mod_self]
    rfl
  unfold Die.endColl
  rw [hr]
  dsimp only
  rw [hn, if_neg (by simp), if_neg (by rw [home]; decide), Die.cctlTo]
  exact ⟨_, rfl, rfl⟩

/-- A chunk that has waited for HOLD_MAX ticks past its planned tick ends the collective. -/
theorem Die.memberLate_waits (he : (d.group g).ent = some e) (more : d.nextChunk g r < r.nchunks)
    (late : d.reached (Die.plannedTick r (d.nextChunk g r) + BitVec.ofNat 48 e.holdMax) = true) :
    ∃ detail, d.memberLate g = ((d.logErr .coll (g / 256) 0x0A03 1 detail (some e.tid)).raise I.collMember (g / 256)).endColl g 2 6 := by
  unfold Die.memberLate
  rw [hr, he]
  dsimp only
  rw [late, decide_eq_true more, Bool.and_self, if_pos rfl]
  dsimp only
  rw [hn, if_neg (by simp)]
  exact ⟨_, rfl⟩

end

/-- The log after a late member on a die that is not HOME and has no port to HOME: the lost packet's record stands where the late member's stood. -/
theorem Die.memberLate_lastOpen {d : Die} {g : Nat} {r : CollRun} {ge : GroupEnt} {l : List LogEnt} {c : Nat} (full : l.length = 1023)
    (pend : ∀ x ∈ l, x.pend = true) (coll : d.err.LastOpen l (pageIndex .coll (g / 256)) 0 c) (harp : d.err.LastOpen l (pageIndex .harp 0) 0 c)
    (hr : (d.group g).run = some r) (hn : r.ended = none) (he : (d.group g).ent = some ge) (more : d.nextChunk g r < r.nchunks)
    (late : d.reached (Die.plannedTick r (d.nextChunk g r) + BitVec.ofNat 48 ge.holdMax) = true) (away : d.isHome g = false)
    (roles : d.casc.role = []) (node : eidNode (BitVec.ofNat 17 r.home) = d.selfNode) (die : eidDie (BitVec.ofNat 17 r.home) ≠ d.pos) :
    (d.memberLate g).err.LastOpen l (pageIndex .harp 0) 1 0x0601 := by
  obtain ⟨detail, eq⟩ := Die.memberLate_waits hr hn he more late
  have logged := Die.logErr_lastOpen_other full pend coll (by decide) harp (by simp only [pageIndex]; omega) (c' := 0x0A03) 1 detail (some ge.tid)
  have reach : OnlyLogs d ((d.logErr .coll (g / 256) 0x0A03 1 detail (some ge.tid)).raise I.collMember (g / 256)) [I.collMember.addrOf (g / 256)] :=
    (Die.logErr_reach _ _ _ _ _ _ _ _ _).1.tr0 (OnlyReports.raise _ _ _ 0).logs
  rw [← Die.raise_err _ I.collMember (g / 256) 0] at logged
  rw [eq]
  generalize (d.logErr .coll (g / 256) 0x0A03 1 detail (some ge.tid)).raise I.collMember (g / 256) = x at reach logged ⊢
  have group : x.group g = d.group g := congrArg (fun y : CollSt => smapGet GroupSt.init y.groups g) reach.units.coll
  have low (f : Fld) (hf : f.addrOf < 0x10000) (hl : f.addrOf ∉ logAddrs) : x.get f = d.get f :=
    reach.get f 0 0 0 (by rw [List.mem_singleton]; simp only [Irq.addrOf, I.collMember, Die.hdrAddr, pageIndex]; omega) hl
  have pos : x.pos = d.pos := low R.chipStrapCascPos (by decide) (by decide)
  have self : x.selfNode = d.selfNode := by
    unfold Die.selfNode
    rw [low R.discCoordXyz (by decide) (by decide)]
  have awayStill : x.isHome g = false := by
    rw [← away]
    unfold Die.isHome
    rw [group, pos]
  obtain ⟨pk, deid, sent⟩ := Die.endColl_away (group ▸ hr) hn awayStill 2 6
  rw [sent, Die.originate_dead (Die.route_dead_of_noRoles (reach.units.casc ▸ roles) (by rw [deid, node]; exact self.symm)
    (by rw [deid]; exact pos ▸ die))]
  refine Die.logErr_lastOpen (code := 0x0A03) full pend ?_ (by decide) _ _ _
  rw [Die.raise_err, Die.bump_err]
  exact logged

/-! ### Such a state -/

/-- Group 0 of tenant 1, whose HOME is another die. -/
def awayGroup : GroupEnt :=
  { tid := 1, home := 1, hasq := false, lkind := false, leid := 0, nmem := 0, smallMax := 0, nt := 1, lead := 0, early := 0, holdMax := 0, ltag := 0
    mbase := 0, slot := 0, chunkMax := 0 }

/-- The tree of group 0 that a latency-optimal collective uses, with its root on this die. -/
def soleTree : TreeRec := { group := 0, tree := 6, alt := false, root := true, parent := (0, 0), upPort := 0, kids := [], locals := [] }

/-- A plan with that tree. -/
def oneTreePlan : PlanImg :=
  { tid := 1, repl := false, len := 0, planId := 0, base := 0, period := 0, depth := 0, replaces := 0, pseed := 0, hash := 0, shash := 0, grps := []
    mem := [], trees := [soleTree], rsvs := [], rsets := [], rcps := [], hdls := [], wdata := [], caves := [] }

/-- A collective of one chunk, planned for tick 0, with HOME on die 1. -/
def awayRun : CollRun := { Die.reset.mkRun 0 (readDescr []) (Die.dieEid 0 1) 0 0 with nchunks := 1 }

/-- The die after reset, but with a crowded log, and that collective waiting for its chunk's tick to be admitted. -/
def lateMemberState : State :=
  { State.reset with
    die := { Die.reset with
      err := crowdedLog
      plans := { Die.reset.plans with slots := [(0, { PlanSlot.empty with state := 3, img := some oneTreePlan })] }
      coll := { groups := [(0, { GroupSt.init with ent := some awayGroup, run := some awayRun })], waiting := [], taken := [] } } }

theorem memberLate_lateMemberState : (lateMemberState.die.memberLate 0).err.LastOpen pendRecords (pageIndex .harp 0) 1 0x0601 := by
  have full : pendRecords.length = 1023 := by rw [pendRecords, List.length_map, List.length_range]
  have crowded (idx : Nat) (h : (smapGet PageErr.empty crowdedLog.pages idx).fifo = []) : lateMemberState.die.err.LastOpen pendRecords idx 0 0x0500 :=
    ⟨⟨_, rfl, rfl, rfl⟩, rfl, congrArg List.length h⟩
  exact Die.memberLate_lastOpen full (fun x hx => (pendRecords_pend x hx).1) (crowded _ rfl) (crowded _ rfl) (r := awayRun) (ge := awayGroup) rfl rfl rfl
    (by decide) (by decide) rfl rfl (by decide) (by decide)

/-- Refutes O46: the chunk of `lateMemberState` has been held for HOLD_MAX ticks, and the statement has COLL_MEMBER_LATE logged. It was, but no port leads to
HOME, and the record of the packet lost on the way has taken its entry, the only one that was not PEND (R899). -/
theorem not_collectiveRuns : ¬ Obligations.CollectiveRuns := by
  intro holds
  obtain ⟨-, -, -, -, -, -, -, late, -⟩ := holds lateMemberState 0 0 0 Packet.blank awayRun awayGroup soleTree rfl
  obtain ⟨e, ran, -, logged, -⟩ := late rfl rfl rfl (by decide) (by decide)
  have waited : Becomes (.collMemberLate 0) lateMemberState (lateMemberState.die.memberLate 0) := becomes_of_act _ _ _ _ rfl rfl rfl
  injection ran.symm.trans waited with next
  injection next with _ die
  rw [die] at logged
  refine memberLate_lateMemberState.not_logged (fun x hx code => ?_) (by decide) logged
  exact absurd ((pendRecords_pend x hx).2.symm.trans code) (by decide)

end Sys2Proof.Machine
end

section
/-!
PROOF. Queue slots in the cave (spec 15, R616 to R618; spec 20, R836): LOCK bits written slot by slot, and what a group's doorbells, counters and records leave
as it was.
-/
namespace Sys2Proof.Machine

/-! ### Writes of the cave and nothing else -/

namespace OnlyCave
variable {d e : Die}

theorem forAll {α : Type} {f : Die → α → Die} (h : ∀ d x, OnlyCave d (f d x)) (l : List α) (d : Die) : OnlyCave d (d.forAll l f) := by
  induction l generalizing d with
  | nil => exact refl d
  | cons x r ih => exact (h d x).trans (ih (f d x))

theorem setLock (d : Die) (a : Nat) (on : Bool) : OnlyCave d (d.setLock a on) := caveWrite d a _

theorem setLocks (d : Die) (l : List Nat) (at_ : Nat → Nat) (on : Bool) : OnlyCave d (d.forAll l (fun d i => d.setLock (at_ i) on)) :=
  forAll (fun d i => setLock d (at_ i) on) l d

/-- Whatever becomes of the cave and of the accounts, the rest is as it was. -/
theorem regsOnly (h : OnlyCave d e) : OnlyRegs d { e with cave := d.cave, telem := d.telem } [] :=
  ⟨{ h.units with }, h.fresh, h.err, h.wake, rfl, rfl, h.msix, h.out, fun a _ => congrArg (fun r => smapGet (regReset a) r a) h.regs⟩

theorem dword (h : OnlyCave d e) (a : Nat) : e.dword a = d.dword a := congrArg (fun r => smapGet (regReset a) r a) h.regs

end OnlyCave

/-! ### One group changed -/

section
variable (d : Die) (g : Nat)

theorem Die.group_congr {d e : Die} (h : e.coll = d.coll) (g : Nat) : e.group g = d.group g :=
  congrArg (fun c : CollSt => smapGet GroupSt.init c.groups g) h

theorem Die.group_modGroup (h : Nat) (f : GroupSt → GroupSt) : (d.modGroup g f).group h = if h = g then f (d.group g) else d.group h := smapGet_mod _ _ _ _ _

theorem Die.group_modGroup_self (f : GroupSt → GroupSt) : (d.modGroup g f).group g = f (d.group g) := smapGet_mod_self _ _ _ _

variable {d g}

theorem ChangesGroup.modGroup {x : Die} (h : x.coll = d.coll) (f : GroupSt → GroupSt) : ChangesGroup d (x.modGroup g f) g (f (d.group g)) := by
  refine ⟨?_, fun k hk => ?_, ?_⟩
  · rw [Die.group_modGroup_self, Die.group_congr h]
  · rw [Die.group_modGroup, if_neg hk, Die.group_congr h]
  · rw [← h]
    rfl

theorem ChangesGroup.of_coll {x e : Die} {y : GroupSt} (h : ChangesGroup d x g y) (hc : e.coll = x.coll) : ChangesGroup d e g y := by
  obtain ⟨own, others, rest⟩ := h
  exact ⟨(Die.group_congr hc g).trans own, fun k hk => (Die.group_congr hc k).trans (others k hk), by rw [hc]; exact rest⟩

end

/-! ### Where the COLL pages stand -/

section
variable (k : Nat)

theorem addrOf_coll {f : Fld} (hf : f.page = .coll) : f.addrOf k = 0x1000 * (0x120 + k) + f.off := by
  rw [Fld.addrOf_eq, hf]
  rfl

theorem addrOf_collCause {q : Irq} (hq : q.page = .coll) : q.addrOf k = 0x1000 * (0x120 + k) + 0x20 := by
  rw [Irq.addrOf, hq]
  rfl

theorem mirror_not_mem_coll {f : Fld} (hf : f.page = .coll) : R.errlogCfgMirror.addrOf ∉ [f.addrOf k] := by
  have : R.errlogCfgMirror.addrOf < 0x10000 := by decide
  rw [List.mem_singleton, addrOf_coll k hf]
  omega

variable (d : Die)

/-- A counter of a COLL page counts an event that is logged there: what both show, and how far they reach. -/
theorem Die.bump_logErr_coll {f : Fld} (hf : f.page = .coll) (hw : f.lsb + f.width ≤ 32) (code sev : Nat) (detail : List Byte) :
    let e := (d.bump f k).logErr .coll k code sev detail
    e.get f k = d.counted f k ∧ Logged d e (pageIndex .coll k) code sev ∧ OnlyLogs d e [f.addrOf k] := by
  obtain ⟨reach, logged⟩ := (d.bump f k).logErr_reach .coll k code sev detail none false none
  have high : 0x10000 ≤ f.addrOf k := by rw [addrOf_coll k hf]; omega
  exact ⟨(reach.get f k 0 0 List.not_mem_nil (not_mem_logAddrs high)).trans (d.get_bump f k 0 1 hw), logged.of_err (d.bump_err f k 0 1) rfl,
    ((OnlyReports.bump d f k 0 1).logs.trans reach (mirror_not_mem_coll k hf)).mono (by simp)⟩

/-- The same with a cause of the page. -/
theorem Die.bump_logErr_raise_coll {f : Fld} (hf : f.page = .coll) (hw : f.lsb + f.width ≤ 32) (ho : f.off ≠ 0x20) {q : Irq} (hq : q.page = .coll)
    (hb : q.bit < 32) (code sev : Nat) (detail : List Byte) :
    let e := ((d.bump f k).logErr .coll k code sev detail).raise q k
    e.get f k = d.counted f k ∧ Logged d e (pageIndex .coll k) code sev ∧ e.hasCause q k = true ∧ OnlyLogs d e [f.addrOf k, q.addrOf k] := by
  obtain ⟨counted, logged, reach⟩ := d.bump_logErr_coll k hf hw code sev detail
  have apart : f.addrOf k ≠ q.addrOf k := by
    rw [addrOf_coll k hf, addrOf_collCause k hq]
    omega
  exact ⟨(Die.get_raise _ q k 0 f k 0 0 apart).trans counted, logged.of_err rfl (Die.raise_err _ q k 0), Die.hasCause_raise _ q k 0 hb,
    reach.trans (OnlyReports.raise _ q k 0).logs (mirror_not_mem_coll k hf)⟩

end

end Sys2Proof.Machine
end

section
/-!
PROOF. Bytes of the cave (spec 21, R871, R874, R876, R889): what a write within one line changes, and what a read of it depends on.
-/
namespace Sys2Proof.Machine

/-! ### What the cave's bytes depend on -/

/-- Two dies read the cave alike: its state, MGMT_GIB and MGMT's generation agree. -/
structure SameCave (d e : Die) : Prop where
  cave : e.cave = d.cave
  gib : e.mgmtGib = d.mgmtGib
  gen : e.get R.caveMgmtGen = d.get R.caveMgmtGen

namespace SameCave
variable {d e f : Die} (h : SameCave d e)

theorem refl (d : Die) : SameCave d d := ⟨rfl, rfl, rfl⟩

theorem of_regs (hc : e.cave = d.cave) (hr : e.regs = d.regs) : SameCave d e :=
  ⟨hc, Die.get_congr hr R.caveMgmtGib 0 0 0, Die.get_congr hr R.caveMgmtGen 0 0 0⟩

/-- Registers written away from those two leave the cave as it reads. -/
theorem of_dword (hc : e.cave = d.cave) (hr : e.dword R.caveMgmtGib.addrOf = d.dword R.caveMgmtGib.addrOf) : SameCave d e :=
  ⟨hc, congrArg (fun w => fieldGet w 0 7) hr, congrArg (fun w => fieldGet w 16 16) hr⟩

include h

theorem trans (k : SameCave e f) : SameCave d f := ⟨k.cave.trans h.cave, k.gib.trans h.gib, k.gen.trans h.gen⟩

theorem caveOwner (a : Nat) : e.caveOwner a = d.caveOwner a := by
  unfold Die.caveOwner
  rw [h.cave, h.gib]

theorem caveGen (sp : Space) : e.caveGen sp = d.caveGen sp := by
  cases sp with
  | mgmt => exact congrArg (BitVec.ofNat 16) h.gen
  | tenant t => exact congrArg (fun c : CaveSt => smapGet 1 c.tgen t) h.cave

theorem caveClean (a : Nat) : e.caveClean a = d.caveClean a := by
  unfold Die.caveClean
  rw [h.caveOwner, h.cave]
  split
  case h_1 => rfl
  case h_2 sp _ => rw [h.caveGen]

theorem caveByte (a : Nat) : e.caveByte a = d.caveByte a := by
  unfold Die.caveByte
  rw [h.caveClean, h.cave]

theorem caveRead (a n : Nat) : e.caveRead a n = d.caveRead a n := by
  unfold Die.caveRead
  simp only [h.caveByte]

theorem slotLock (a : Nat) : e.slotLock a = d.slotLock a := congrArg (fun b : Byte => b.getLsbD 1) (h.caveByte a)

theorem caveFill (p : Nat) : SameCave (d.caveFill p) (e.caveFill p) := by
  unfold Die.caveFill
  rw [h.caveOwner]
  split
  case h_1 => exact h
  case h_2 sp _ =>
    rw [h.caveGen, h.cave]
    split
    case isTrue => exact h
    case isFalse => exact ⟨rfl, h.gib, h.gen⟩

theorem chargeLine (a : Nat) : SameCave (d.chargeLine a) (e.chargeLine a) := by
  have charged (x : Die) : SameCave x (x.chargeLine a) := by
    unfold Die.chargeLine
    split
    next => exact ⟨rfl, rfl, rfl⟩
    next => exact ⟨rfl, rfl, rfl⟩
  have back : SameCave (d.chargeLine a) d := ⟨(charged d).cave.symm, (charged d).gib.symm, (charged d).gen.symm⟩
  exact (back.trans h).trans (charged e)

theorem caveWriteLine (a : Nat) (bs : List Byte) : SameCave (d.caveWriteLine a bs).1 (e.caveWriteLine a bs).1 := by
  have filled := h.caveFill (a / 4096)
  unfold Die.caveWriteLine
  dsimp only
  rw [filled.caveOwner, filled.cave]
  split
  case isTrue => exact filled
  case isFalse =>
    split
    case isTrue => exact filled
    case isFalse => exact ⟨rfl, (filled.chargeLine a).gib, (filled.chargeLine a).gen⟩

theorem caveWrite (a : Nat) (bs : List Byte) : SameCave (d.caveWrite a bs) (e.caveWrite a bs) := by
  unfold Die.caveWrite
  generalize lineCuts (bs.length / 64 + 2) a bs = l
  induction l generalizing d e with
  | nil => exact h
  | cons x r ih => exact ih (h.caveWriteLine x.1 x.2)

end SameCave

/-! ### One byte written (R876, R889) -/

section
variable (d : Die) (a : Nat)

/-- Ranges are whole GiB, so a page has one owner. -/
theorem Die.caveOwner_page : d.caveOwner (4096 * (a / 4096)) = d.caveOwner a := by
  have whole : 4096 * (a / 4096) / 2 ^ 30 = a / 2 ^ 30 := by omega
  unfold Die.caveOwner
  rw [whole]

/-- A page filled reads as before: zeros where it was not clean. -/
theorem Die.caveByte_caveFill (x : Nat) : (d.caveFill (a / 4096)).caveByte x = d.caveByte x := by
  unfold Die.caveFill
  rw [d.caveOwner_page]
  split
  case h_1 => rfl
  case h_2 sp owner =>
    split
    case isTrue => rfl
    case isFalse stale =>
      unfold Die.caveByte
      rw [smapGet_filter_key (0 : Byte) d.cave.mem (fun k => k / 4096 != a / 4096)]
      by_cases page : x / 4096 = a / 4096
      case pos =>
        have same : d.caveOwner x = some sp := by rw [← d.caveOwner_page x, page, d.caveOwner_page, owner]
        have unclean : d.caveClean x = false := by
          unfold Die.caveClean
          rw [same, page]
          exact beq_eq_false_iff_ne.2 stale
        have away : ¬ (x / 4096 != a / 4096) = true := by simp [page]
        rw [unclean, if_neg away, ite_self, if_neg Bool.false_ne_true]
      case neg =>
        have kept : Die.caveClean { d with cave := { d.cave with
            mem := d.cave.mem.filter (fun e => e.1 / 4096 != a / 4096), tags := smapSet 0 d.cave.tags (a / 4096) (d.caveGen sp)
            bad := d.cave.bad.filter (fun l => l / 64 != a / 4096) } } x = d.caveClean x := by
          unfold Die.caveClean Die.caveOwner
          dsimp only
          rw [smapGet_set, if_neg page]
          rfl
        rw [kept, if_pos (bne_iff_ne.2 page)]

/-- The page is clean afterwards, where it has an owner. -/
theorem Die.caveClean_caveFill (h : (d.caveOwner a).isSome = true) : (d.caveFill (a / 4096)).caveClean a = true := by
  obtain ⟨sp, owner⟩ := Option.isSome_iff_exists.1 h
  have owned (y : Die) (hy : y.caveOwner a = some sp) : y.caveClean a = (smapGet 0 y.cave.tags (a / 4096) == y.caveGen sp) := by
    unfold Die.caveClean
    rw [hy]
  unfold Die.caveFill
  rw [d.caveOwner_page, owner]
  dsimp only
  split
  case isTrue clean => rw [owned d owner, clean, beq_self_eq_true]
  case isFalse =>
    refine Eq.trans (owned _ ?_) ?_
    · exact owner
    dsimp only
    rw [smapGet_set_self]
    exact beq_self_eq_true _

theorem Die.caveOwner_caveFill (p x : Nat) : (d.caveFill p).caveOwner x = d.caveOwner x := by
  unfold Die.caveFill
  split
  case h_1 => rfl
  case h_2 =>
    split
    case isTrue => rfl
    case isFalse => rfl

/-- A line that is not bad as a reader finds it is not listed as bad once its page is filled. -/
theorem Die.bad_caveFill (h : (d.caveOwner a).isSome = true) (hb : d.caveBad a = false) : (d.caveFill (a / 4096)).cave.bad.contains (a / 64) = false := by
  obtain ⟨sp, owner⟩ := Option.isSome_iff_exists.1 h
  have clean : d.caveClean a = (smapGet 0 d.cave.tags (a / 4096) == d.caveGen sp) := by
    unfold Die.caveClean
    rw [owner]
  unfold Die.caveBad at hb
  unfold Die.caveFill
  rw [d.caveOwner_page, owner]
  dsimp only
  split
  case isTrue good => rwa [clean, good, beq_self_eq_true, Bool.true_and] at hb
  case isFalse =>
    have page : a / 64 / 64 = a / 4096 := by omega
    simp [page]

/-- A byte written within a line that takes it: it reads as written, and every other byte as before. -/
theorem Die.caveWriteLine_byte (b : Byte) (h : (d.caveOwner a).isSome = true) (hb : d.caveBad a = false) :
    (d.caveWriteLine a [b]).2 = true
      ∧ ∀ x, (d.caveWriteLine a [b]).1.caveByte x = if x = a then b else d.caveByte x := by
  have owner : ((d.caveFill (a / 4096)).caveOwner a).isNone = false := by rw [d.caveOwner_caveFill, Option.isNone_eq_false_iff, h]
  unfold Die.caveWriteLine
  dsimp only
  rw [if_neg (by rw [owner]; decide), d.bad_caveFill a h hb, Bool.false_and, if_neg Bool.false_ne_true]
  refine ⟨rfl, fun x => ?_⟩
  rw [← d.caveByte_caveFill a x]
  have clean := d.caveClean_caveFill a h
  generalize d.caveFill (a / 4096) = y at clean ⊢
  have charged : (y.chargeLine a).regs = y.regs ∧ (y.chargeLine a).cave = y.cave := by
    unfold Die.chargeLine
    split
    next => exact ⟨rfl, rfl⟩
    next => exact ⟨rfl, rfl⟩
  unfold Die.caveByte
  have same : Die.caveClean { y.chargeLine a with cave := { y.cave with
      mem := bytesPut y.cave.mem a [b], bad := y.cave.bad.filter (fun l => l != a / 64) } } x = y.caveClean x := by
    have alike : SameCave { y with cave := { y.cave with mem := bytesPut y.cave.mem a [b], bad := y.cave.bad.filter (fun l => l != a / 64) } }
        { y.chargeLine a with cave := { y.cave with mem := bytesPut y.cave.mem a [b], bad := y.cave.bad.filter (fun l => l != a / 64) } } :=
      .of_regs rfl charged.1
    rw [alike.caveClean]
    rfl
  rw [same]
  change (if y.caveClean x = true then smapGet 0 (smapSet 0 y.cave.mem a b) x else 0) = _
  rw [smapGet_set]
  by_cases here : x = a
  case pos => rw [here, clean, if_pos rfl, if_pos rfl, if_pos rfl]
  case neg => rw [if_neg here, if_neg here]

end

end Sys2Proof.Machine
end

section
/-!
PROOF. O45, the queues of a group (spec 15, R618 to R625): its doorbells, host writes to its slots, the underfill of its SQ.
-/
namespace Sys2Proof.Machine

/-! ### Recording at rest (R757, R765) -/

section
variable {d e : Die}

theorem Die.recLive_congr (hr : e.regs = d.regs) (hd : e.det = d.det) : e.recLive = d.recLive := by
  unfold Die.recLive
  rw [Die.get_congr hr, hd]

theorem Die.recGroup_idle (h : e.recLive = false) (k g ofs : Nat) (data : List Byte) (inj : Bool) : e.recGroup k g ofs data inj = e := by
  unfold Die.recGroup Die.recHost
  dsimp only
  rw [h, Bool.false_and, Bool.false_and, if_neg Bool.false_ne_true]

theorem Die.recHost_idle (h : e.recLive = false) (k page ofs : Nat) (g : Option (Nat × Nat)) (data : List Byte) (inj : Bool) :
    e.recHost k page ofs g data inj = e := by
  unfold Die.recHost
  dsimp only
  rw [h, Bool.false_and, Bool.false_and, if_neg Bool.false_ne_true]

end

/-! ### Doorbells (R618, R623) -/

/-- What doorbells and slot writes leave as it was beside the collective engine: all but the cave, the accounts and the registers listed. -/
abbrev OnlySlots (d e : Die) (as : List Nat) : Prop := OnlyRegs d { e with coll := d.coll, cave := d.cave, telem := d.telem } as

theorem OnlyCave.slots {d e : Die} (h : OnlyCave d e) : OnlySlots d e [] :=
  ⟨{ h.units with coll := rfl }, h.fresh, h.err, h.wake, rfl, rfl, h.msix, h.out, fun a _ => h.dword a⟩

section
variable {s : State} {c : Cls} {g : BitVec 12} {x : BitVec 9}

/-- The distance of an index behind the head, on a ring of 512 indices. -/
abbrev ringGap (p q : Nat) : Nat := (p + 512 - q) % 512

variable (ha : s.die.alive = true) (hr : s.die.underReset .coll (g.toNat / 256) = false)

include ha hr

theorem sqDoorbell_fits (hp : s.die.replayGroup g.toNat = false) (hl : s.die.recLive = false) (hh : s.die.isHome g.toNat = true)
    (room : ringGap x.toNat (s.die.group g.toNat).sqHead ≤ 256)
    (ahead : ringGap (s.die.group g.toNat).sqTail (s.die.group g.toNat).sqHead ≤ ringGap x.toNat (s.die.group g.toNat).sqHead) :
    Completes (.sqDoorbell c g x) s (fun e => ChangesGroup s.die e g.toNat { s.die.group g.toNat with sqTail := x.toNat }
      ∧ e.cave = (s.die.forAll (ringSpan (s.die.group g.toNat).sqTail x.toNat) (fun d i => d.setLock (sqAddr g.toNat i) true)).cave
      ∧ OnlySlots s.die e []) := by
  refine completes_of_page _ s c .coll (g.toNat / 256) (fun d => d.sqDbWrite c g.toNat x.toNat) _ rfl ⟨ha, hr⟩ ?_
  have locks := OnlyCave.setLocks s.die (ringSpan (s.die.group g.toNat).sqTail x.toNat) (sqAddr g.toNat) true
  unfold Die.sqDbWrite Die.sqDb
  dsimp only
  rw [hh, hp, if_pos (by rfl), if_pos ⟨room, ahead⟩]
  dsimp only
  generalize s.die.forAll (ringSpan (s.die.group g.toNat).sqTail x.toNat) (fun d i => d.setLock (sqAddr g.toNat i) true) = y at locks ⊢
  rw [Die.recGroup_idle]
  · exact ⟨.modGroup locks.units.coll _, rfl, locks.slots⟩
  · exact (Die.recLive_congr locks.regs locks.units.det).trans hl

theorem cqDoorbell_fits (hp : s.die.replayGroup g.toNat = false) (hl : s.die.recLive = false) (hh : s.die.isHome g.toNat = true)
    (fits : ringGap x.toNat (s.die.group g.toNat).cqHead ≤ ringGap (s.die.group g.toNat).cqTail (s.die.group g.toNat).cqHead) :
    Completes (.cqDoorbell c g x) s (fun e =>
      ChangesGroup s.die e g.toNat { s.die.group g.toNat with
        cqHead := x.toNat, resend := (s.die.group g.toNat).resend.filter (fun r => !(ringSpan (s.die.group g.toNat).cqHead x.toNat).contains r.1) }
      ∧ e.cave = (s.die.forAll (ringSpan (s.die.group g.toNat).cqHead x.toNat) (fun d i => d.setLock (cqAddr g.toNat i) false)).cave
      ∧ OnlySlots s.die e []) := by
  refine completes_of_page _ s c .coll (g.toNat / 256) (fun d => d.cqDbWrite c g.toNat x.toNat) _ rfl ⟨ha, hr⟩ ?_
  have locks := OnlyCave.setLocks s.die (ringSpan (s.die.group g.toNat).cqHead x.toNat) (cqAddr g.toNat) false
  unfold Die.cqDbWrite Die.cqDb
  dsimp only
  rw [hh, hp, if_pos (by rfl), if_pos fits]
  dsimp only
  generalize s.die.forAll (ringSpan (s.die.group g.toNat).cqHead x.toNat) (fun d i => d.setLock (cqAddr g.toNat i) false) = y at locks ⊢
  rw [Die.recGroup_idle]
  · exact ⟨.modGroup locks.units.coll _, rfl, locks.slots⟩
  · exact (Die.recLive_congr locks.regs locks.units.det).trans hl

/-- A doorbell that does not fit is counted and logged, and changes nothing else (R618). -/
theorem sqDoorbell_misfits (hp : s.die.replayGroup g.toNat = false) (hh : s.die.isHome g.toNat = true)
    (bad : 256 < ringGap x.toNat (s.die.group g.toNat).sqHead
      ∨ ringGap x.toNat (s.die.group g.toNat).sqHead < ringGap (s.die.group g.toNat).sqTail (s.die.group g.toNat).sqHead) :
    Completes (.sqDoorbell c g x) s (fun e => e = s.die.badDoorbell g.toNat) := by
  refine completes_of_page _ s c .coll (g.toNat / 256) (fun d => d.sqDbWrite c g.toNat x.toNat) _ rfl ⟨ha, hr⟩ ?_
  unfold Die.sqDbWrite Die.sqDb
  dsimp only
  rw [hh, hp, if_pos (by rfl), if_neg (fun fit => bad.elim (Nat.not_lt.2 fit.1) (Nat.not_lt.2 fit.2))]

theorem cqDoorbell_misfits (hp : s.die.replayGroup g.toNat = false) (hh : s.die.isHome g.toNat = true)
    (bad : ringGap (s.die.group g.toNat).cqTail (s.die.group g.toNat).cqHead < ringGap x.toNat (s.die.group g.toNat).cqHead) :
    Completes (.cqDoorbell c g x) s (fun e => e = s.die.badDoorbell g.toNat) := by
  refine completes_of_page _ s c .coll (g.toNat / 256) (fun d => d.cqDbWrite c g.toNat x.toNat) _ rfl ⟨ha, hr⟩ ?_
  unfold Die.cqDbWrite Die.cqDb
  dsimp only
  rw [hh, hp, if_pos (by rfl), if_neg (Nat.not_le.2 bad)]

theorem doorbells_off_home (hh : s.die.isHome g.toNat = false) :
    Completes (.sqDoorbell c g x) s (fun e => e = s.die.refuse .coll (g.toNat / 256) c (0x800 + 8 * (g.toNat % 256)))
      ∧ Completes (.cqDoorbell c g x) s (fun e => e = s.die.refuse .coll (g.toNat / 256) c (0x804 + 8 * (g.toNat % 256))) := by
  constructor
  · refine completes_of_page _ s c .coll (g.toNat / 256) (fun d => d.sqDbWrite c g.toNat x.toNat) _ rfl ⟨ha, hr⟩ ?_
    unfold Die.sqDbWrite
    dsimp only
    rw [hh, Bool.false_and, if_neg Bool.false_ne_true]
  · refine completes_of_page _ s c .coll (g.toNat / 256) (fun d => d.cqDbWrite c g.toNat x.toNat) _ rfl ⟨ha, hr⟩ ?_
    unfold Die.cqDbWrite
    dsimp only
    rw [hh, Bool.false_and, if_neg Bool.false_ne_true]

end

/-- What a doorbell that does not fit shows (R618). -/
theorem Die.badDoorbell_shows (d : Die) (n : Nat) : (d.badDoorbell n).get R.collOverwrite (n / 256) = d.counted R.collOverwrite (n / 256)
    ∧ Logged d (d.badDoorbell n) (pageIndex .coll (n / 256)) 0x0A02 0 ∧ OnlyLogs d (d.badDoorbell n) [R.collOverwrite.addrOf (n / 256)] :=
  d.bump_logErr_coll (n / 256) rfl (by decide) 0x0A02 0 (leBytes 2 n)

theorem Die.accErr_shows (d : Die) (t : PageType) (i : Nat) (c : Cls) (w : Bool) (a : Nat) (k : AccKind) :
    (d.accErr t i c w a k).hget R.hdrStatAccessErr t i = 1 ∧ OnlyReports d (d.accErr t i c w a k) (accAddrs t i) :=
  ⟨d.accErr_shown t i c w a k, OnlyReports.accErr d t i c w a k⟩

theorem Completes.mono {i : Instr} {s : State} {P Q : Die → Prop} (h : Completes i s P) (k : ∀ e, P e → Q e) : Completes i s Q :=
  h.imp fun e he => ⟨he.1, k e he.2⟩

/-! ### Host writes to the slots (R616, R619, R625) -/

section
variable {d : Die} {a : Nat} {b : Byte}

/-- One enabled byte of a line is one part of one slot. -/
theorem Die.lineWrite_byte (d : Die) (a : Nat) (b : Byte) : d.lineWrite a [some b] = d.slotWrite true a [b] := by
  have whole (n : Nat) (h : 0 < n) : slotCuts 65 n a [b] = [(a, [b])] := by
    have room : 0 < n - a % n := Nat.sub_pos_of_lt (Nat.mod_lt a h)
    obtain ⟨m, hm⟩ : ∃ m, n - a % n = m + 1 := ⟨n - a % n - 1, by omega⟩
    show (a, [b].take (n - a % n)) :: slotCuts 64 n (a / n * n + n) ([b].drop (n - a % n)) = _
    rw [hm]
    cases m with
    | zero => rfl
    | succ m => rfl
  have size : 0 < slotSize (areaOf a) := by
    generalize areaOf a = r
    cases r with
    | dmaSq _ => exact Nat.succ_pos _
    | dmaCq _ => exact Nat.succ_pos _
    | sq _ => exact Nat.succ_pos _
    | cq _ => exact Nat.succ_pos _
    | mbox => decide
    | none => decide
  show d.forAll ([(a, [b])].flatMap (fun r => slotCuts 65 (slotSize (areaOf a)) r.1 r.2)) (fun d p => d.slotWrite true p.1 p.2) = _
  rw [List.flatMap_singleton, whole _ size]
  rfl

theorem areaOf_sq (h : a < 0x6000000) (k : a % 0x6000 < 0x4000) : areaOf a = .sq (a / 0x6000) := by
  unfold areaOf
  rw [if_pos h, if_pos k]

theorem areaOf_cq (h : a < 0x6000000) (k : 0x4000 ≤ a % 0x6000) : areaOf a = .cq (a / 0x6000) := by
  unfold areaOf
  rw [if_pos h, if_neg (Nat.not_lt.2 k)]

/-- Byte 0 of an unlocked slot is written with LOCK clear (R616). -/
theorem Die.filtered_unlocked (h : d.slotLock (a / 64 * 64) = false) : d.filtered 64 2 a [b] = [if a % 64 = 0 then (b &&& 0xFD#8) else b] := by
  unfold Die.filtered
  dsimp only
  by_cases first : a % 64 = 0
  case pos =>
    have here : a / 64 * 64 = a := by omega
    have clear : d.caveByte a &&& 2#8 = 0#8 := by
      rw [here] at h
      unfold Die.slotLock at h
      generalize d.caveByte a = v at h
      revert v
      decide
    rw [if_pos first, if_pos first]
    change [b &&& 0xFD#8 ||| d.caveByte a &&& 2#8] = _
    rw [clear, BitVec.or_zero]
  case neg => rw [if_neg first, if_neg first]

/-- A byte written to an unlocked SQ slot of this die lands (R616, R619). -/
theorem Die.slotWrite_unlocked (hs : areaOf a = .sq (a / 0x6000)) (hh : d.isHome (a / 0x6000) = true) (hp : d.replayGroup (a / 0x6000) = false)
    (hl : d.recLive = false) (free : d.slotLock (a / 64 * 64) = false) (owned : (d.caveOwner a).isSome = true) (good : d.caveBad a = false) :
    d.slotWrite true a [b] = (d.caveWriteLine a [if a % 64 = 0 then (b &&& 0xFD#8) else b]).1 := by
  have lands := (d.caveWriteLine_byte a (if a % 64 = 0 then (b &&& 0xFD#8) else b) owned good).1
  have reach := OnlyCave.caveWriteLine d a [if a % 64 = 0 then (b &&& 0xFD#8) else b]
  have unlocked : d.slotLocked 64 a = false := free
  unfold Die.slotWrite
  rw [hs]
  dsimp only
  rw [hh, hp, unlocked, Die.slotPut, Die.filtered_unlocked free]
  generalize d.caveWriteLine a [if a % 64 = 0 then (b &&& 0xFD#8) else b] = r at lands reach ⊢
  obtain ⟨e, landed⟩ := r
  subst lands
  exact Die.recHost_idle ((Die.recLive_congr reach.regs reach.units.det).trans hl) _ _ _ _ _ _

end

/-- The host reaches the control region through CXL.mem (R615, R818). -/
abbrev Die.HostMem (d : Die) : Prop := d.isMaster = true ∧ d.inD0 = true ∧ d.bit R.hostLinkMemEn = true

section
variable {s : State} (rid : BitVec 16) {ofs : BitVec 29} (b : Byte) (ha : s.die.alive = true)

include ha

theorem queueSlotWrite_closed (hm : s.die.isMaster = true) (h : ¬ s.die.HostMem) : Becomes (.queueSlotWrite false rid ofs [some b]) s s.die := by
  refine becomes_of_act _ s _ _ rfl ha ?_
  have shut : (s.die.isMaster && !(s.die.inD0 && s.die.bit R.hostLinkMemEn)) = true := by
    rw [hm, Bool.true_and, Bool.not_eq_true', Bool.and_eq_false_iff]
    by_cases on : s.die.inD0 = true
    case pos => exact .inr (Bool.eq_false_iff.2 fun en => h ⟨hm, on, en⟩)
    case neg => exact .inl (Bool.eq_false_iff.2 on)
  show (if s.die.isMaster && !(s.die.inD0 && s.die.bit R.hostLinkMemEn) then s.die else _) = s.die
  rw [if_pos shut]

/-- A write that reaches this die's slice goes through the filter of its slot. -/
theorem queueSlotWrite_reaches (h : s.die.HostMem) (here : ofs.toNat / 0x8000000 = s.die.pos) (on : s.die.underReset .cave 0 = false)
    {P : Die → Prop} (hP : P (s.die.slotWrite true (ofs.toNat % 0x8000000) [b])) : Completes (.queueSlotWrite false rid ofs [some b]) s P := by
  obtain ⟨hm, hd, en⟩ := h
  refine completes_of_act _ s _ P rfl ha ?_
  have opened : (s.die.isMaster && !(s.die.inD0 && s.die.bit R.hostLinkMemEn)) = false := by
    rw [hm, hd, en]
    rfl
  show P (if s.die.isMaster && !(s.die.inD0 && s.die.bit R.hostLinkMemEn) then s.die else s.die.regionWrite ofs.toNat [some b])
  rw [opened, if_neg Bool.false_ne_true]
  unfold Die.regionWrite
  dsimp only
  rwa [if_pos here, on, if_neg Bool.false_ne_true, Die.lineWrite_byte]

end

section
variable {d : Die} {a : Nat} {b : Byte}

/-- A host write to a locked SQ slot is discarded, counted and logged (R619). -/
theorem Die.slotWrite_locked (hs : areaOf a = .sq (a / 0x6000)) (hh : d.isHome (a / 0x6000) = true) (hp : d.replayGroup (a / 0x6000) = false)
    (held : d.slotLock (a / 64 * 64) = true) :
    d.slotWrite true a [b] = ((d.bump R.collOverwrite (a / 0x6000 / 256)).logErr .coll (a / 0x6000 / 256) 0x0A01 0
      (leBytes 2 (a / 0x6000))).raise I.collOverwrite (a / 0x6000 / 256) := by
  have locked : d.slotLocked 64 a = true := held
  unfold Die.slotWrite
  rw [hs]
  dsimp only
  rw [hh, hp, locked]
  rfl

/-- A host write to a CQ slot is an access error (R625). -/
theorem Die.slotWrite_cq (hs : areaOf a = .cq (a / 0x6000)) (hh : d.isHome (a / 0x6000) = true) :
    d.slotWrite true a [b] = d.hostRefuse .coll (a / 0x6000 / 256) := by
  unfold Die.slotWrite
  rw [hs]
  dsimp only
  rw [hh, if_pos rfl]

/-- What a byte written within one line changes, as a slot write leaves it (R616, R619). -/
theorem Die.caveWriteLine_slots (owned : (d.caveOwner a).isSome = true) (good : d.caveBad a = false) (v : Byte) :
    let e := (d.caveWriteLine a [v]).1
    e.caveByte a = v ∧ (∀ a', a' ≠ a → e.caveByte a' = d.caveByte a') ∧ e.coll = d.coll ∧ OnlySlots d e [] := by
  obtain ⟨-, bytes⟩ := d.caveWriteLine_byte a v owned good
  have reach := OnlyCave.caveWriteLine d a [v]
  exact ⟨(bytes a).trans (if_pos rfl), fun a' h => (bytes a').trans (if_neg h), reach.units.coll, reach.slots⟩

end

/-! ### The underfill of an SQ (R621) -/

theorem queueUnderfill_due {s : State} {g : BitVec 12} (ha : s.die.alive = true) (late : 16 ≤ (s.die.group g.toNat).wait)
    (first : (s.die.group g.toNat).stalled = false) :
    Completes (.queueUnderfill g) s (fun e => ChangesGroup s.die e g.toNat { s.die.group g.toNat with stalled := true }
      ∧ e.get R.collUnderfill (g.toNat / 256) = s.die.counted R.collUnderfill (g.toNat / 256)
      ∧ Logged s.die e (pageIndex .coll (g.toNat / 256)) 0x0A00 1 ∧ e.hasCause I.collUnderfill (g.toNat / 256) = true
      ∧ OnlyLogs s.die { e with coll := s.die.coll } [R.collUnderfill.addrOf (g.toNat / 256), I.collUnderfill.addrOf (g.toNat / 256)]) := by
  refine completes_of_act _ s _ _ rfl ha ?_
  have due : 16 ≤ (s.die.group g.toNat).wait ∧ ¬ (s.die.group g.toNat).stalled = true := ⟨late, by rw [first]; exact Bool.false_ne_true⟩
  show _ ∧ _
  dsimp only
  rw [if_pos due]
  obtain ⟨counted, logged, cause, reach⟩ := (s.die.modGroup g.toNat (fun x => { x with stalled := true })).bump_logErr_raise_coll (g.toNat / 256)
    (f := R.collUnderfill) rfl (by decide) (by decide) (q := I.collUnderfill) rfl (by decide) 0x0A00 1 (leBytes 2 g.toNat)
  exact ⟨(ChangesGroup.modGroup rfl _).of_coll reach.units.coll, counted, logged.of_err rfl rfl, cause, reach.coll_changed _⟩

theorem queueUnderfill_early {s : State} {g : BitVec 12} (ha : s.die.alive = true)
    (h : (s.die.group g.toNat).wait < 16 ∨ (s.die.group g.toNat).stalled = true) : Becomes (.queueUnderfill g) s s.die := by
  refine becomes_of_act _ s _ _ rfl ha ?_
  dsimp only
  rw [if_neg]
  exact fun due => h.elim (Nat.not_lt.2 due.1) due.2

end Sys2Proof.Machine
end

section
/-!
PROOF. O45, what HOME does with the queues of a group (spec 15, R620, R622 to R624, R628, R631, R632): descriptors admitted, records written and sent again.
-/
namespace Sys2Proof.Machine

/-! ### What leaves the collective engine as it was -/

section
variable (d : Die)

theorem Die.originate_coll (pk : Packet) : (d.originate pk).coll = d.coll := by
  unfold Die.originate
  split
  case h_1 => rfl
  case h_2 => rw [(Die.logErr_reach _ _ _ _ _ _ _ _ _).1.units.coll, Die.raise_coll, Die.bump_coll]
  case h_3 => rfl

theorem Die.originate_instances (pk : Packet) : KeepsInstances d (d.originate pk) := by
  unfold Die.originate
  split
  case h_1 => exact .of_regs rfl
  case h_2 => exact ((KeepsInstances.bump d _ (by decide)).trans (.raise _ _ (by decide))).trans (.of_hoop (.logErr _ _ _ _ _ _ _))
  case h_3 => exact .of_regs rfl

theorem Die.sendRecord_keeps (g ix : Nat) : (d.sendRecord g ix).coll = d.coll ∧ KeepsInstances d (d.sendRecord g ix) := by
  unfold Die.sendRecord
  split
  case h_1 => exact ⟨rfl, .refl d⟩
  case h_2 => exact ⟨d.originate_coll _, d.originate_instances _⟩

theorem Die.sendStart_coll (g : Nat) : (d.sendStart g).coll = d.coll := by
  unfold Die.sendStart
  split
  case h_1 => exact Die.forAll_keep Die.coll (fun e _ => e.originate_coll _) _ d
  case h_2 => rfl

theorem Die.countOutcome_coll (p : Nat) (out : BitVec 3) : (d.countOutcome p out).coll = d.coll := by
  have noted : (d.noteReturned p out).coll = d.coll := by
    unfold Die.noteReturned
    split
    case isTrue => rfl
    case isFalse => rfl
  have counted {x : Die} (h : KeepsUnits (d.noteReturned p out) x) : x.coll = d.coll := h.coll.trans noted
  unfold Die.countOutcome
  dsimp only
  split
  case h_1 => exact counted (.bump64 _ _ _ p 1)
  case h_2 => exact counted (.bump _ _ p 0 1)
  case h_3 => exact counted ((KeepsUnits.bump _ _ p 0 1).trans (.raise _ _ p 0))
  case h_4 => exact counted (.bump _ _ p 0 1)
  case h_5 => exact counted (.bump _ _ p 0 1)

theorem Die.hoopRelease_coll (h : Nat) (o : BitVec 16) : (d.hoopRelease h o).coll = d.coll := (d.hoopRelease_effect h o).units.coll

theorem Die.letCell_coll (g h : Nat) : (d.letCell g h).coll = d.coll := Die.forAll_keep Die.coll (fun e _ => e.hoopRelease_coll _ _) _ d

theorem Die.settle_coll (k : Nat) (out : BitVec 3) : (d.settle k out).coll = d.coll := by
  have receipt (x : Die) : (x.sendReceipt k).coll = x.coll := by
    unfold Die.sendReceipt
    split
    case isTrue => rfl
    case isFalse => rfl
  unfold Die.settle
  dsimp only
  split
  case isTrue => rfl
  case isFalse =>
    rw [Die.queueReceipt_eq]
    show Die.coll (Die.hoopRelease _ _ _) = _
    rw [Die.hoopRelease_coll, Die.countOutcome_coll, receipt]
    rfl

end

/-! ### A run begins (R632, R635, R640) -/

/-- In the collective engine only a group's run, and what was held before it, differ. -/
structure OnlyRun (d e : Die) (g : Nat) : Prop where
  own : e.group g = { d.group g with run := (e.group g).run, early := (e.group g).early }
  rest : e.coll = { d.coll with groups := e.coll.groups }

namespace OnlyRun
variable {d e f : Die} {g : Nat}

theorem of_coll (h : e.coll = d.coll) (g : Nat) : OnlyRun d e g := ⟨by rw [Die.group_congr h], by rw [h]⟩

theorem trans (h : OnlyRun d e g) (k : OnlyRun e f g) : OnlyRun d f g := ⟨by rw [k.own, h.own], by rw [k.rest, h.rest]⟩

theorem modGroup (d : Die) (g : Nat) (f : GroupSt → GroupSt) (h : ∀ x, f x = { x with run := (f x).run, early := (f x).early }) :
    OnlyRun d (d.modGroup g f) g := ⟨by rw [Die.group_modGroup_self]; exact h _, rfl⟩

theorem modChunk (d : Die) (g c : Nat) (f : ChunkSt → ChunkSt) : OnlyRun d (d.modChunk g c f) g := modGroup d g _ fun _ => rfl

theorem modLed (d : Die) (g k : Nat) (f : LedEnt → LedEnt) : OnlyRun d (d.modLed k f) g :=
  of_coll (d := d) (e := d.modLed k f) rfl g

theorem forAll {α : Type} {f : Die → α → Die} (h : ∀ e x, OnlyRun e (f e x) g) (l : List α) (d : Die) : OnlyRun d (d.forAll l f) g := by
  induction l generalizing d with
  | nil => exact of_coll rfl g
  | cons x r ih => exact (h d x).trans (ih (f d x))

theorem holdContrib (d : Die) (g k m : Nat) (pk : Packet) : OnlyRun d (d.holdContrib g k m pk) g := by
  unfold Die.holdContrib
  split
  case h_1 => exact of_coll rfl g
  case h_2 r _ =>
    dsimp only
    split
    case isTrue => exact of_coll (d.settle_coll _ _) g
    case isFalse =>
      split
      case isTrue => exact of_coll ((Die.settle_coll _ _ _).trans (Die.bump_coll _ _ _ _ _)) g
      case isFalse => exact (modChunk d g _ _).trans (modLed _ g k _)

theorem beginRun (d : Die) (g : Nat) (r : CollRun) : OnlyRun d (d.beginRun g r) g := by
  unfold Die.beginRun
  refine (modGroup d g (fun s => { s with run := some r, early := s.early.filter (fun e => e.1 / 2 ^ 32 != r.d.cid) }) fun _ => rfl).trans
    (forAll (fun e x => ?_) _ _)
  refine (forAll (fun y c => holdContrib y g c.2.2 c.1 (y.led c.2.2).pkt) x.2.contrib e).trans ?_
  extract_lets y c nt good
  clear_value good
  cases good with
  | true => exact modChunk _ g _ _
  | false => exact of_coll (Die.forAll_keep Die.coll (fun y c => (Die.letCell_coll _ _ _).trans (Die.bump_coll _ _ _ _ _)) _ _) g

end OnlyRun

/-- With nothing held before the start, the run is as made. -/
theorem Die.beginRun_run {d : Die} {g : Nat} (h : (d.group g).early = []) (r : CollRun) : ((d.beginRun g r).group g).run = some r := by
  have none : d.earlyOf g r.d.cid = [] := by
    unfold Die.earlyOf
    rw [h]
    rfl
  unfold Die.beginRun
  rw [none]
  show ((d.modGroup g _).group g).run = _
  rw [Die.group_modGroup_self]

/-! ### Descriptors (R620, R631, R632) -/

section
variable {d e : Die}

theorem Die.groupImg_congr (he : (e.group g).ent = (d.group g).ent) (hp : e.plans = d.plans) : e.groupImg g = d.groupImg g := by
  unfold Die.groupImg Die.plan
  rw [he, hp]

theorem Die.descrReason_congr (he : (e.group g).ent = (d.group g).ent) (hp : e.plans = d.plans) (de : Descr) :
    e.descrReason g de = d.descrReason g de := by
  unfold Die.descrReason Die.rsetOf
  rw [he, Die.groupImg_congr he hp]

/-- The slot at SQ_HEAD drained: its LOCK clears, and SQ_HEAD advances (R620). -/
theorem Die.drainSq_shows (d : Die) (g : Nat) : let e := (d.drainSq g).1
    ChangesGroup d e g { d.group g with sqHead := ((d.group g).sqHead + 1) % 512, wait := 0, stalled := false } ∧ OnlySlots d e []
      ∧ e.tick = d.tick ∧ e.plans = d.plans := by
  have lock := OnlyCave.setLock d (sqAddr g (d.group g).sqHead) false
  exact ⟨.modGroup lock.units.coll _, lock.slots, lock.units.tick, lock.units.plans⟩

/-- A descriptor is drained: it starts, or its run has ended as REJECTED (R631, R632). -/
theorem Die.admitDescr_drains {g : Nat} (may : d.mayDrain g = true) (ready : d.sqReady g = true) :
    ∃ r : CollRun, r.d = readDescr (d.caveRead (sqAddr g (d.group g).sqHead) 64)
      ∧ r.start = d.tick.count + BitVec.ofNat 48 (((d.group g).ent.map (·.lead)).getD 16) ∧ r.sqSlot = (d.group g).sqHead ∧ r.ended = none
      ∧ d.admitDescr g = match d.descrReason g r.d with
        | some why => (d.drainSq g).1.modGroup g (fun s => { s with run := some { r with ended := some (4, why) } })
        | none => ((d.drainSq g).1.beginRun g r).sendStart g := by
  obtain ⟨⟨own, -, -⟩, -, tick, plans⟩ := d.drainSq_shows g
  have ent : ((d.drainSq g).1.group g).ent = (d.group g).ent := by rw [own]
  refine ⟨(d.drainSq g).1.mkRun g (readDescr (d.caveRead (sqAddr g (d.group g).sqHead) 64)) (dieEid (d.drainSq g).1.selfNode (d.drainSq g).1.pos)
    (d.group g).sqHead (d.tick.count + BitVec.ofNat 48 (((d.group g).ent.map (·.lead)).getD 16)), rfl, rfl, rfl, rfl, ?_⟩
  rw [← Die.descrReason_congr ent plans]
  unfold Die.admitDescr
  rw [may, ready, if_neg (by decide)]
  dsimp only
  rw [tick, ent]
  cases (d.group g).ent with
  | none => rfl
  | some x => rfl

end

theorem descAdmit_waits {s : State} {g : BitVec 12} (ha : s.die.alive = true) (h : ¬ (s.die.mayDrain g.toNat = true ∧ s.die.sqReady g.toNat = true)) :
    Becomes (.descAdmit g) s s.die := by
  refine becomes_of_act _ s _ _ rfl ha ?_
  have wait : (!s.die.mayDrain g.toNat || !s.die.sqReady g.toNat) = true := by
    rw [← Bool.not_and, Bool.not_eq_true', Bool.eq_false_iff, Ne, Bool.and_eq_true]
    exact h
  exact if_pos wait

/-! ### Completion records (R622 to R624, R628) -/

section
variable (d : Die) (g : Nat) (h : HeldRec)

/-- What follows a record's write leaves the engine and COLL.DONE as they were. -/
structure RecordKept (k : Nat) (x y : Die) : Prop where
  coll : y.coll = x.coll
  done : y.get R.collDone k = x.get R.collDone k

theorem RecordKept.of_logs {k : Nat} {x y : Die} {as : List Nat} (h : OnlyLogs x y as) (away : R.collDone.addrOf k ∉ as) : RecordKept k x y :=
  ⟨h.units.coll, h.get _ k 0 0 away (not_mem_logAddrs (by rw [addrOf_coll k rfl]; omega))⟩

theorem RecordKept.trans {k : Nat} {x y z : Die} (h : RecordKept k x y) (l : RecordKept k y z) : RecordKept k x z :=
  ⟨l.coll.trans h.coll, l.done.trans h.done⟩

/-- An aborted collective counts and shows its cause. -/
theorem RecordKept.aborted (k : Nat) (x : Die) (c : Prop) [Decidable c] :
    RecordKept k x (if c then (x.bump R.collAborts k).raise I.collAborted k else x) := by
  split
  case isTrue =>
    refine .of_logs ((OnlyReports.bump x R.collAborts k 0 1).trans (OnlyReports.raise _ I.collAborted k 0)).logs ?_
    simp only [List.cons_append, List.nil_append, List.mem_cons, List.not_mem_nil, or_false]
    rw [addrOf_coll k rfl, addrOf_coll k rfl, addrOf_collCause k rfl]
    exact fun same => same.elim (fun e => absurd (Nat.add_left_cancel e) (by decide)) (fun e => absurd (Nat.add_left_cancel e) (by decide))
  case isFalse => exact ⟨rfl, rfl⟩

/-- NOTIFY shows COMPLETE and wakes the host. -/
theorem RecordKept.notified (k : Nat) (x : Die) :
    let y := if h.notify then (x.raise I.collComplete k g).wakeCause 3 else x
    RecordKept k x y ∧ (h.notify = true → y.hasCause I.collComplete k = true) := by
  dsimp only
  split
  case isTrue =>
    have raised := OnlyReports.raise x I.collComplete k g
    have woken := OnlyLogs.wakeCause (x.raise I.collComplete k g) 3
    refine ⟨(RecordKept.of_logs raised.logs ?_).trans (.of_logs woken List.not_mem_nil), fun _ => ?_⟩
    · rw [List.mem_singleton, addrOf_coll k rfl, addrOf_collCause k rfl]
      exact fun e => absurd (Nat.add_left_cancel e) (by decide)
    · unfold Die.hasCause
      rw [woken.regs _ List.not_mem_nil (not_mem_logAddrs (by rw [addrOf_collCause k rfl]; omega))]
      exact Die.hasCause_raise x I.collComplete k g (by decide)
  case isFalse silent => exact ⟨⟨rfl, rfl⟩, fun on => absurd on silent⟩

/-- A record is written at CQ_TAIL, which advances, and counts in COLL.DONE; NOTIFY shows COMPLETE (R622, R628). -/
theorem Die.putRecord_shows : let e := d.putRecord g h
    e.group g = { d.group g with cqTail := ((d.group g).cqTail + 1) % 512, heldRec := none, resend := (e.group g).resend }
      ∧ e.get R.collDone (g / 256) = d.counted R.collDone (g / 256) ∧ (h.notify = true → e.hasCause I.collComplete (g / 256) = true)
      ∧ e.coll = { d.coll with groups := e.coll.groups } := by
  unfold Die.putRecord
  extract_lets s a status bs x1 x2 x3 x4 e
  have wrote := OnlyCave.caveWrite d a bs
  obtain ⟨own, -, rest⟩ : ChangesGroup d x1 g { d.group g with cqTail := ((d.group g).cqTail + 1) % 512, heldRec := none } :=
    .modGroup wrote.units.coll _
  have counted : x2.get R.collDone (g / 256) = d.counted R.collDone (g / 256) := by
    have before : x1.get R.collDone (g / 256) = d.get R.collDone (g / 256) := wrote.get _ _ _ _
    rw [Die.get_bump _ _ _ _ _ (by decide), before]
    rfl
  have after2 : x2.coll = x1.coll := Die.bump_coll _ _ _ _ _
  have after3 : RecordKept (g / 256) x2 x3 := .aborted _ _ _
  obtain ⟨after4, cause⟩ := RecordKept.notified g h (g / 256) x3
  have coll4 : x4.coll = x1.coll := (after4.coll.trans after3.coll).trans after2
  have done4 : x4.get R.collDone (g / 256) = d.counted R.collDone (g / 256) := (after4.done.trans after3.done).trans counted
  have put : x4.group g = { d.group g with cqTail := ((d.group g).cqTail + 1) % 512, heldRec := none, resend := (x4.group g).resend } := by
    rw [Die.group_congr coll4, own]
  have put_rest : x4.coll = { d.coll with groups := x4.coll.groups } := by rw [coll4, rest]
  dsimp only [e]
  split
  case h_1 ge _ =>
    split
    case isTrue =>
      obtain ⟨same, kept⟩ := (x4.modGroup g (fun x => { x with resend := x.resend ++ [(s.cqTail, x4.tick.count)] })).sendRecord_keeps g s.cqTail
      refine ⟨?_, ?_, fun on => ?_, ?_⟩
      · rw [Die.group_congr same, Die.group_modGroup_self, put]
      · rw [kept.get _ _ _ _ (by rw [addrOf_coll _ rfl]; omega)]
        exact done4
      · unfold Die.hasCause
        rw [kept _ (by rw [addrOf_collCause _ rfl]; omega)]
        exact cause on
      · rw [same]
        show ({ x4.coll with groups := _ } : CollSt) = _
        rw [put_rest]
        rfl
    case isFalse => exact ⟨put, done4, cause, put_rest⟩
  case h_2 => exact ⟨put, done4, cause, put_rest⟩

end

section
variable {s : State} {g : BitVec 12} (ha : s.die.alive = true)
include ha

theorem completionWrite_off_home (hh : s.die.isHome g.toNat = false) : Becomes (.completionWrite g) s s.die := by
  refine becomes_of_act _ s _ _ rfl ha ?_
  unfold Die.completion
  dsimp only
  rw [hh]
  rfl

/-- A held record goes to the CQ as soon as its slot is free (R624). -/
theorem completionWrite_held {h : HeldRec} (hh : s.die.isHome g.toNat = true) (held : (s.die.group g.toNat).heldRec = some h) :
    Becomes (.completionWrite g) s
      (if s.die.slotLock (cqAddr g.toNat (s.die.group g.toNat).cqTail) then s.die else s.die.putRecord g.toNat h) := by
  refine becomes_of_act _ s _ _ rfl ha ?_
  unfold Die.completion
  dsimp only
  rw [hh, held]
  rfl

theorem completionWrite_put {h : HeldRec} (hh : s.die.isHome g.toNat = true) (held : (s.die.group g.toNat).heldRec = some h)
    (free : s.die.slotLock (cqAddr g.toNat (s.die.group g.toNat).cqTail) = false) :
    Completes (.completionWrite g) s (fun e => e = s.die.putRecord g.toNat h) := by
  refine ⟨_, completionWrite_held ha hh held, ?_⟩
  rw [free, if_neg Bool.false_ne_true]

end

/-! ### Records sent again (R628) -/

/-- A record sent at one tick, as it stands after the resends of another. -/
def resentAt (now : BitVec 48) (r : Nat × BitVec 48) : Nat × BitVec 48 := if 16 ≤ (now - r.2).toNat then (r.1, now) else r

theorem Die.resendRecords_eq (d : Die) (g : Nat) :
    d.resendRecords g = (d.modGroup g (fun s => { s with resend := s.resend.map (resentAt d.tick.count) })).forAll
      ((d.group g).resend.filter (fun r => decide (16 ≤ (d.tick.count - r.2).toNat))) (fun x r => x.sendRecord g r.1) := rfl

theorem Die.resendRecords_shows (d : Die) (g : Nat) :
    ChangesGroup d (d.resendRecords g) g { d.group g with resend := (d.group g).resend.map (resentAt d.tick.count) } := by
  have marked : ChangesGroup d (d.modGroup g (fun s => { s with resend := s.resend.map (resentAt d.tick.count) })) g
      { d.group g with resend := (d.group g).resend.map (resentAt d.tick.count) } := .modGroup rfl _
  have one (e : Die) (r : Nat × BitVec 48) : (e.sendRecord g r.1).coll = e.coll := (e.sendRecord_keeps g r.1).1
  rw [Die.resendRecords_eq]
  exact marked.of_coll (Die.forAll_keep Die.coll one _ _)

/-- Where no record is due nothing is sent, and every record keeps its tick. -/
theorem Die.resendRecords_idle {d : Die} {g : Nat} (h : (d.group g).resend.filter (fun r => decide (16 ≤ (d.tick.count - r.2).toNat)) = []) :
    (d.group g).resend.map (resentAt d.tick.count) = (d.group g).resend
      ∧ d.resendRecords g = d.modGroup g (fun s => { s with resend := s.resend.map (resentAt d.tick.count) }) := by
  constructor
  · refine (List.map_congr_left fun r hr => ?_).trans (List.map_id _)
    have early := List.filter_eq_nil_iff.1 h r hr
    rw [decide_eq_true_eq] at early
    exact if_neg early
  · rw [Die.resendRecords_eq, h]
    rfl

end Sys2Proof.Machine
end

section
/-!
PROOF. O45 (CollectiveQueues), put together from the queues' doorbells, slots and records.
-/
namespace Sys2Proof.Machine

/-- What a drained descriptor leaves: SQ_HEAD has advanced, and its run has begun, or has ended as REJECTED (R620, R631, R632). -/
theorem Die.admitDescr_shows {d : Die} {n : Nat} (may : d.mayDrain n = true) (ready : d.sqReady n = true) {de : Descr}
    (hde : readDescr (d.caveRead (sqAddr n (d.group n).sqHead) 64) = de) :
    let e := d.admitDescr n
    ((e.group n).sqHead = ((d.group n).sqHead + 1) % 512 ∧ (e.group n).stalled = false ∧ (e.group n).wait = 0)
      ∧ e.coll = { d.coll with groups := e.coll.groups }
      ∧ ((d.group n).early = [] → (e.group n).run.map (fun r => (r.d, r.start, r.sqSlot, r.ended)) =
          some (de, d.tick.count + BitVec.ofNat 48 (((d.group n).ent.map (·.lead)).getD 16), (d.group n).sqHead,
            (d.descrReason n de).map (fun w => (4, w))))
      ∧ ((d.descrReason n de).isSome = true → OnlySlots d e []) := by
  obtain ⟨r, rd, rstart, rslot, rended, eq⟩ := Die.admitDescr_drains may ready
  obtain rfl : r.d = de := rd.trans hde
  obtain ⟨⟨own, -, rest⟩, slots, -, -⟩ := d.drainSq_shows n
  rw [eq]
  generalize (d.drainSq n).1 = x at own slots rest
  -- the group and the rest of the engine, when only the run changed after the drain
  have after {e : Die} (h : OnlyRun x e n) :
      ((e.group n).sqHead = ((d.group n).sqHead + 1) % 512 ∧ (e.group n).stalled = false ∧ (e.group n).wait = 0)
        ∧ e.coll = { d.coll with groups := e.coll.groups } := ⟨by rw [h.own, own]; exact ⟨rfl, rfl, rfl⟩, by rw [h.rest, rest]⟩
  cases d.descrReason n r.d with
  | some why =>
    obtain ⟨indices, engine⟩ := after (.modGroup x n (fun s => { s with run := some { r with ended := some (4, why) } }) fun _ => rfl)
    refine ⟨indices, engine, fun _ => ?_, fun _ => slots⟩
    rw [Die.group_modGroup_self, ← rstart, ← rslot]
    rfl
  | none =>
    obtain ⟨indices, engine⟩ := after ((OnlyRun.beginRun x n r).trans (.of_coll ((x.beginRun n r).sendStart_coll n) n))
    refine ⟨indices, engine, fun empty => ?_, fun rejected => absurd rejected Bool.false_ne_true⟩
    rw [Die.group_congr ((x.beginRun n r).sendStart_coll n), Die.beginRun_run (by rw [own]; exact empty), ← rstart, ← rslot]
    show some (r.d, r.start, r.sqSlot, r.ended) = _
    rw [rended]
    rfl

/-- Settles O45, command by command: a doorbell, a slot write, a descriptor and a record each turn on one test of the group's queue. -/
theorem collectiveQueues : Obligations.CollectiveQueues := by
  unfold Obligations.CollectiveQueues
  intro s c g x rid ofs b h a' ha d n k G serves ring gone badDb refused only a hostMem reaches m wr de start drains due
  refine ⟨?sq_cq, ?away, ?closed, ?locked, ?lands, ?cq, ?waits, ?drained, ?late, ?early, ?offHome, ?records, ?idle, ?resend⟩
  case sq_cq =>
    rintro ⟨hr, hp, hl⟩ hh
    have bad : ∀ e, e = d.badDoorbell n → e.get R.collOverwrite k = d.counted R.collOverwrite k ∧ Logged d e (pageIndex .coll k) 0x0A02 0
        ∧ OnlyLogs d e [R.collOverwrite.addrOf k] := by
      rintro _ rfl
      exact d.badDoorbell_shows n
    exact ⟨sqDoorbell_fits ha hr hp hl hh, fun misfit => (sqDoorbell_misfits ha hr hp hh misfit).mono bad, cqDoorbell_fits ha hr hp hl hh,
      fun misfit => (cqDoorbell_misfits ha hr hp hh misfit).mono bad⟩
  case away =>
    rintro ⟨hr, -, -⟩ hh
    obtain ⟨sq, cq⟩ := doorbells_off_home (c := c) (x := x) ha hr hh
    have shown (o : Nat) : ∀ e, e = d.refuse .coll k c o → e.hget R.hdrStatAccessErr .coll k = 1 ∧ OnlyReports d e (accAddrs .coll k) := by
      rintro _ rfl
      exact d.accErr_shows _ _ _ _ _ _
    exact ⟨sq.mono (shown _), cq.mono (shown _)⟩
  case closed => exact queueSlotWrite_closed rid b ha
  case locked =>
    rintro ⟨opened, here, on⟩ low hh hp sq held
    refine queueSlotWrite_reaches rid b ha opened here on ?_
    rw [Die.slotWrite_locked (areaOf_sq low sq) hh hp held]
    exact Die.bump_logErr_raise_coll (m / 256) d rfl (by decide) (by decide) rfl (by decide) 0x0A01 0 (leBytes 2 m)
  case lands =>
    rintro ⟨opened, here, on⟩ low hh hp hl sq free owned good
    refine queueSlotWrite_reaches rid b ha opened here on ?_
    rw [Die.slotWrite_unlocked (areaOf_sq low sq) hh hp hl free owned good]
    obtain ⟨own, others, engine, reach⟩ := Die.caveWriteLine_slots owned good (if a % 64 = 0 then (b &&& 0xFD#8) else b)
    exact ⟨own, others a', engine, reach⟩
  case cq =>
    rintro ⟨opened, here, on⟩ low hh cq
    refine queueSlotWrite_reaches rid b ha opened here on ?_
    rw [Die.slotWrite_cq (areaOf_cq low cq) hh]
    exact d.accErr_shows _ _ _ _ _ _
  case waits => exact descAdmit_waits ha
  case drained =>
    rintro ⟨may, ready⟩
    obtain ⟨⟨head, flowing, fresh⟩, engine, run, rejected⟩ := Die.admitDescr_shows may ready rfl
    exact completes_of_act _ s _ _ rfl ha ⟨head, flowing, fresh, engine, run, rejected⟩
  case late => exact queueUnderfill_due ha
  case early => exact queueUnderfill_early ha
  case offHome => exact completionWrite_off_home ha
  case records =>
    intro hh
    refine ⟨fun held locked => ?_, fun held free => (completionWrite_put ha hh held free).mono ?_⟩
    · exact (completionWrite_held ha hh held).trans (by rw [locked, if_pos rfl])
    · rintro _ rfl
      obtain ⟨own, counted, cause, engine⟩ := d.putRecord_shows n h
      exact ⟨by rw [own], by rw [own], by rw [own], counted, cause, engine⟩
  case idle =>
    intro none
    obtain ⟨same, eq⟩ := Die.resendRecords_idle none
    have shows := d.resendRecords_shows n
    rw [same] at shows
    refine completes_of_act _ s _ _ rfl ha ⟨shows, ?_⟩
    change OnlyRegs d { d.resendRecords n with coll := d.coll } []
    rw [eq]
    exact .refl d []
  case resend =>
    obtain ⟨own, others, engine⟩ := d.resendRecords_shows n
    have resent : ((d.resendRecords n).group n).resend = G.resend.map (resentAt d.tick.count) := by rw [own]
    exact completes_of_act _ s _ _ rfl ha ⟨resent, by rw [resent]; exact ⟨own, others, engine⟩⟩

end Sys2Proof.Machine
end

section
/-!
PROOF. The DMA queues (spec 20, R835 to R840): their registers, their jobs, and the slots that the engine reads by itself.
-/
namespace Sys2Proof.Machine

/-! ### Registers of a queue -/

theorem addrOf_dma {f : Fld} (hf : f.page = .dma) (n : Nat) : f.addrOf 0 n = 0x112000 + f.off + f.step * n := by
  rw [Fld.addrOf_eq, hf]
  rfl

theorem addrOf_dmaCause {c : Irq} (hc : c.page = .dma) : c.addrOf = 0x112020 := by
  rw [Irq.addrOf, hc]
  rfl

/-- A queue's register lies off the causes of the page. -/
theorem dma_addrOf_ne_cause {f : Fld} (hf : f.page = .dma) (hs : 0x20 < f.off) {c : Irq} (hc : c.page = .dma) (n : Nat) : f.addrOf 0 n ≠ c.addrOf := by
  rw [addrOf_dma hf, addrOf_dmaCause hc]
  omega

/-- A queue's register lies above the pages of the die that every record may reach. -/
theorem dma_addrOf_high {f : Fld} (hf : f.page = .dma) (n : Nat) : 0x10000 ≤ f.addrOf 0 n := by
  rw [addrOf_dma hf]
  omega

theorem dmaCause_high {c : Irq} (hc : c.page = .dma) : 0x10000 ≤ c.addrOf := by
  rw [addrOf_dmaCause hc]
  decide

/-- A two-dword counter counts in its dwords, and in telemetry. -/
theorem OnlyRegs.bump64 (d : Die) (lo hi : Fld) (i j n : Nat) :
    OnlyRegs d { d.bump64 lo hi i j n with telem := d.telem } [lo.addrOf i j, hi.addrOf i j] := by
  have counted : OnlyRegs d { d.tbump lo i n with telem := d.telem } [] := by
    unfold Die.tbump
    split
    case h_1 => exact ⟨{ KeepsUnits.refl d with }, rfl, rfl, rfl, rfl, rfl, rfl, rfl, fun _ _ => rfl⟩
    case h_2 => exact .refl d []
  unfold Die.bump64
  generalize d.tbump lo i n = x at counted
  dsimp only
  exact (counted.trans (.set { x with telem := d.telem } lo _ i j 0)).trans (.set { x.set lo _ i j with telem := d.telem } hi _ i j 0)

/-! ### What the cave shows while registers are written -/

theorem SameCave.of_regsOnly {d e : Die} {as : List Nat} (h : OnlyRegs d e as) (away : R.caveMgmtGib.addrOf ∉ as) : SameCave d e :=
  .of_dword h.cave (h.regs _ away)

theorem SameCave.of_reports {d e : Die} {as : List Nat} (h : OnlyReports d e as) (away : R.caveMgmtGib.addrOf ∉ as) : SameCave d e :=
  .of_dword h.cave (h.regs _ away)

/-- A range without an uncorrectable line is fetched whole: only the accounts change. -/
theorem Die.caveFetch_good {d : Die} {a n : Nat} (h : d.caveFirstBad a n = none) :
    (d.caveFetch a n [] []).2 = none ∧ OnlyCave d (d.caveFetch a n [] []).1 ∧ SameCave d (d.caveFetch a n [] []).1 := by
  have good : ((((List.range ((a % 64 + n + 63) / 64)).map (fun i => a / 64 + i)).filter (fun l => d.caveClean (64 * l))).filter
      (fun l => ([] : List Nat).contains l || d.cave.bad.contains l)) = [] := by
    rw [List.filter_eq_nil_iff]
    intro l hl
    obtain ⟨mem, clean⟩ := List.mem_filter.1 hl
    have sound := List.find?_eq_none.1 h l mem
    have line : 64 * l / 64 = l := by omega
    rw [Die.caveBad, clean, line, Bool.true_and] at sound
    simpa using sound
  have charged (x : Die) (l : Nat) : SameCave x (x.chargeLine (64 * l)) := by
    unfold Die.chargeLine
    split
    next => exact ⟨rfl, rfl, rfl⟩
    next => exact ⟨rfl, rfl, rfl⟩
  have lines (ls : List Nat) (x : Die) : SameCave x (x.forAll ls (fun d l => d.chargeLine (64 * l))) := by
    induction ls generalizing x with
    | nil => exact .refl x
    | cons l r ih => exact (charged x l).trans (ih _)
  unfold Die.caveFetch
  dsimp only
  rw [good]
  have uncorrected (ls : List Nat) : ls.filter (fun l => ([] : List Nat).contains l && !([] : List Nat).contains l) = [] :=
    List.filter_eq_nil_iff.2 fun _ _ => by simp
  rw [uncorrected]
  exact ⟨rfl, OnlyCave.forAll (fun x l => .chargeLine x (64 * l)) _ d, lines _ d⟩

/-! ### Jobs -/

section
variable (d : Die) (n : Nat)

theorem Die.dmaQ_modDma (f : DmaQ → DmaQ) : (d.modDma n f).dmaQ n = f (d.dmaQ n) := smapGet_mod_self _ _ _ _

theorem Die.dmaQ_congr {d e : Die} (h : e.host = d.host) (n : Nat) : e.dmaQ n = d.dmaQ n := congrArg (fun x : HostSt => smapGet DmaQ.init x.dma n) h

/-- A job of the queue, by its slot, becomes what `f` makes of it; the other jobs, and all but the queues, stay. -/
def ChangesJob (d e : Die) (n slot : Nat) (f : DmaJob → DmaJob) : Prop :=
  (e.dmaQ n).jobs = (d.dmaQ n).jobs.map (fun y => if y.slot = slot then f y else y) ∧ e.host = { d.host with dma := e.host.dma }

theorem Die.modJob_shows (slot : Nat) (f : DmaJob → DmaJob) :
    ChangesJob d (d.modJob n slot f) n slot f ∧ OnlyRegs d { d.modJob n slot f with host := d.host } [] :=
  ⟨⟨by rw [Die.modJob, Die.dmaQ_modDma], rfl⟩, .refl d []⟩

/-- Bytes of a job have moved: its count and status, and DMA.QqBYTES (R839). -/
theorem Die.jobMoved_shows (slot k : Nat) (s : Option Nat) :
    let e := (d.modJob n slot (fun y => { y with moved := y.moved + k, status := s })).bump64 R.dmaQBytesLo R.dmaQBytesHi 0 n k
    ChangesJob d e n slot (fun y => { y with moved := y.moved + k, status := s }) ∧ e.out = d.out ∧ e.cave = d.cave
      ∧ OnlyRegs d { e with host := d.host, telem := d.telem } [R.dmaQBytesLo.addrOf 0 n, R.dmaQBytesHi.addrOf 0 n] := by
  obtain ⟨⟨jobs, host⟩, -⟩ := d.modJob_shows n slot (fun y => { y with moved := y.moved + k, status := s })
  have counted := OnlyRegs.bump64 (d.modJob n slot (fun y => { y with moved := y.moved + k, status := s })) R.dmaQBytesLo R.dmaQBytesHi 0 n k
  have same : ((d.modJob n slot (fun y => { y with moved := y.moved + k, status := s })).bump64 R.dmaQBytesLo R.dmaQBytesHi 0 n k).host = _ :=
    counted.units.host
  exact ⟨⟨by rw [Die.dmaQ_congr same, jobs], by rw [same, host]⟩, counted.out, counted.cave, counted.host_changed _⟩

end

end Sys2Proof.Machine
end

section
/-!
PROOF. What the DMA engine does for a job, and what a doorbell does for a queue (spec 20, R836, R839, R850).
-/
namespace Sys2Proof.Machine

/-! ### Data moved (R839) -/

section
variable {d y e : Die} {as : List Nat}

/-- All but the cave, the accounts and what leaves the die. -/
abbrev OnlyMoves (d y : Die) (as : List Nat) : Prop := OnlyRegs d { y with out := d.out, cave := d.cave, telem := d.telem } as

theorem OnlyCave.moves {o : List Out} (h : OnlyCave { d with out := o } y) : OnlyMoves d y [] :=
  ⟨{ h.units with }, h.fresh, h.err, h.wake, rfl, rfl, h.msix, rfl, fun a _ => h.dword a⟩

/-- The job's count follows the data. -/
theorem OnlyMoves.then_job (h : OnlyMoves d y []) (k : OnlyRegs y { e with host := y.host, telem := y.telem } as) :
    OnlyMoves d { e with host := d.host } as :=
  ⟨h.units.trans { k.units with host := h.units.host.symm }, k.fresh.trans h.fresh, k.err.trans h.err, k.wake.trans h.wake, rfl, rfl,
    k.msix.trans h.msix, rfl, fun a ha => (k.regs a ha).trans (h.regs a List.not_mem_nil)⟩

end

/-- A job's own state does not see what moved its data. -/
theorem ChangesJob.of_host {d y e : Die} {n slot : Nat} {f : DmaJob → DmaJob} (h : ChangesJob y e n slot f) (same : y.host = d.host) :
    ChangesJob d e n slot f := by
  obtain ⟨jobs, host⟩ := h
  exact ⟨by rw [jobs, Die.dmaQ_congr same], by rw [host, same]⟩

section
variable {d : Die} {n : Nat} {j : DmaJob}

/-- H2C: the bytes join the owner's cave, and the job counts them; a failed line ends it short of its length. -/
theorem Die.dmaH2c_moves {data : List Byte} {err : Bool} {k a : Nat} (hj : d.dmaJob n 1 = some j) (hk : min (data.length / 64 * 64) (j.len - j.moved) = k)
    (at_ : d.caveAddr (Die.jobSpace j) (j.cofs + j.moved) k = some a) : let e := d.dmaH2c n data err
    ChangesJob d e n j.slot (fun y => { y with
        moved := y.moved + k
        status := if err && decide (j.moved + k < j.len) then some 6 else if j.moved + k = j.len then some 0 else none })
      ∧ e.out = d.out ++ [.hostRead (j.haddr + j.moved) k] ∧ e.cave = (d.caveWrite a (data.take k)).cave
      ∧ OnlyMoves d { e with host := d.host } [R.dmaQBytesLo.addrOf 0 n, R.dmaQBytesHi.addrOf 0 n] := by
  have read : SameCave d (d.emit (.hostRead (j.haddr + j.moved) k)) := .of_regs rfl rfl
  have wrote := OnlyCave.caveWrite (d.emit (.hostRead (j.haddr + j.moved) k)) a (data.take k)
  have stored := (read.caveWrite a (data.take k)).cave
  have eq : d.dmaH2c n data err = ((d.emit (.hostRead (j.haddr + j.moved) k)).caveWrite a (data.take k)).dmaMoved n j k
      (if err && decide (j.moved + k < j.len) then some 6 else none) := by
    unfold Die.dmaH2c
    rw [hj]
    dsimp only
    rw [hk, at_]
  rw [eq]
  generalize ((d.emit (.hostRead (j.haddr + j.moved) k)).caveWrite a (data.take k)) = x at wrote stored
  have moved := x.jobMoved_shows n j.slot k
    (if err && decide (j.moved + k < j.len) then some 6 else if j.moved + k = j.len then some 0 else none)
  have ends : x.dmaMoved n j k (if err && decide (j.moved + k < j.len) then some 6 else none) =
      (x.modJob n j.slot (fun y => { y with
        moved := y.moved + k
        status := if err && decide (j.moved + k < j.len) then some 6 else if j.moved + k = j.len then some 0 else none })).bump64
        R.dmaQBytesLo R.dmaQBytesHi 0 n k := by
    unfold Die.dmaMoved
    cases err && decide (j.moved + k < j.len) with
    | true => rfl
    | false => rfl
  rw [ends]
  obtain ⟨job, out, cave, rest⟩ := moved
  exact ⟨job.of_host wrote.units.host, out.trans wrote.out, cave.trans stored, wrote.moves.then_job rest⟩

/-- C2H without an uncorrectable line: the bytes leave for the host, and the job counts them. -/
theorem Die.dmaC2h_moves {m k a : Nat} (hj : d.dmaJob n 2 = some j) (hk : min (m / 64 * 64) (j.len - j.moved) = k)
    (at_ : d.caveAddr (Die.jobSpace j) (j.cofs + j.moved) k = some a) (good : d.caveFirstBad a k = none) : let e := d.dmaC2h n m [] []
    ChangesJob d e n j.slot (fun y => { y with moved := y.moved + k, status := if j.moved + k = j.len then some 0 else none })
      ∧ e.out = d.out ++ [.hostWrite (j.haddr + j.moved) (d.caveRead a k)]
      ∧ OnlyMoves d { e with host := d.host } [R.dmaQBytesLo.addrOf 0 n, R.dmaQBytesHi.addrOf 0 n] := by
  obtain ⟨whole, fetched, same⟩ := Die.caveFetch_good good
  have eq : d.dmaC2h n m [] [] = ((d.caveFetch a k [] []).1.emit (.hostWrite (j.haddr + j.moved) (d.caveRead a k))).dmaMoved n j k none := by
    rw [← same.caveRead]
    unfold Die.dmaC2h
    rw [hj]
    dsimp only
    rw [hk, at_]
    dsimp only
    generalize d.caveFetch a k [] [] = r at whole
    obtain ⟨x, l⟩ := r
    subst whole
    rfl
  rw [eq]
  generalize (d.caveFetch a k [] []).1 = x at fetched
  obtain ⟨job, out, cave, rest⟩ := (x.emit (.hostWrite (j.haddr + j.moved) (d.caveRead a k))).jobMoved_shows n j.slot k
    (if j.moved + k = j.len then some 0 else none)
  have left : OnlyMoves d (x.emit (.hostWrite (j.haddr + j.moved) (d.caveRead a k))) [] := fetched.moves
  refine ⟨job.of_host fetched.units.host, out.trans ?_, left.then_job rest⟩
  rw [← fetched.out]
  rfl

theorem Die.dmaH2c_idle {data : List Byte} {err : Bool} (h : d.dmaJob n 1 = none) : d.dmaH2c n data err = d := by
  unfold Die.dmaH2c
  rw [h]

theorem Die.dmaH2c_unmapped {data : List Byte} {err : Bool} (hj : d.dmaJob n 1 = some j)
    (at_ : d.caveAddr (Die.jobSpace j) (j.cofs + j.moved) (min (data.length / 64 * 64) (j.len - j.moved)) = none) : d.dmaH2c n data err = d := by
  unfold Die.dmaH2c
  rw [hj]
  dsimp only
  rw [at_]

theorem Die.dmaC2h_idle {m : Nat} (h : d.dmaJob n 2 = none) : d.dmaC2h n m [] [] = d := by
  unfold Die.dmaC2h
  rw [h]

theorem Die.dmaC2h_unmapped {m : Nat} (hj : d.dmaJob n 2 = some j)
    (at_ : d.caveAddr (Die.jobSpace j) (j.cofs + j.moved) (min (m / 64 * 64) (j.len - j.moved)) = none) : d.dmaC2h n m [] [] = d := by
  unfold Die.dmaC2h
  rw [hj]
  dsimp only
  rw [at_]

/-! ### FENCE (R850) -/

theorem Die.dmaFence_ends {js : List DmaJob} (h : (d.dmaQ n).jobs = j :: js) (op : j.op = 3) (open_ : j.status = none) :
    d.dmaFence n = d.modJob n j.slot (fun y => { y with status := some 0 }) := by
  unfold Die.dmaFence
  rw [h]
  exact if_pos ⟨op, by rw [open_]; rfl⟩

theorem Die.dmaFence_waits {js : List DmaJob}
    (h : (d.dmaQ n).jobs = [] ∨ ((d.dmaQ n).jobs = j :: js ∧ (j.op ≠ 3 ∨ j.status.isSome = true))) : d.dmaFence n = d := by
  unfold Die.dmaFence
  obtain none | ⟨head, other⟩ := h
  · rw [none]
  · rw [head]
    refine if_neg fun ⟨op, open_⟩ => other.elim (fun ne => ne op) fun ended => ?_
    rw [Option.isNone_iff_eq_none.1 open_] at ended
    exact absurd ended Bool.false_ne_true

end

/-! ### Slots that the engine reads (R620, R836, R838) -/

/-- What slots read leave as it was: jobs join the queue; SQ_HEAD and STALLED move, and no other field of their dwords. -/
structure DmaFills (d e : Die) (n : Nat) : Prop where
  jobs : (d.dmaQ n).jobs <+: (e.dmaQ n).jobs
  sqTail : e.get R.dmaQSqTail 0 n = d.get R.dmaQSqTail 0 n
  cqTail : e.get R.dmaQCqTail 0 n = d.get R.dmaQCqTail 0 n
  cqWait : e.get R.dmaQCqWait 0 n = d.get R.dmaQCqWait 0 n
  regs : ∀ a, a ≠ R.dmaQSqHead.addrOf 0 n → a ≠ R.dmaQStalled.addrOf 0 n → e.dword a = d.dword a

namespace DmaFills
variable {d e f : Die} {n : Nat}

theorem refl (d : Die) (n : Nat) : DmaFills d d n := ⟨List.prefix_refl _, rfl, rfl, rfl, fun _ _ _ => rfl⟩

theorem trans (h : DmaFills d e n) (k : DmaFills e f n) : DmaFills d f n :=
  ⟨h.jobs.trans k.jobs, k.sqTail.trans h.sqTail, k.cqTail.trans h.cqTail, k.cqWait.trans h.cqWait,
    fun a hh hs => (k.regs a hh hs).trans (h.regs a hh hs)⟩

/-- The registers written as a slot is read: SQ_HEAD, and STALLED clears. -/
theorem registers (d : Die) (n v : Nat) : DmaFills d ((d.set R.dmaQSqHead v 0 n).setBit R.dmaQStalled false 0 n) n := by
  have head := OnlyRegs.set d R.dmaQSqHead v 0 n 0
  have stalled := OnlyRegs.setBit (d.set R.dmaQSqHead v 0 n) R.dmaQStalled false 0 n 0
  have keeps {f : Fld} (hh : (R.dmaQSqHead.loc 0 n).apart (f.loc 0 n)) (hs : (R.dmaQStalled.loc 0 n).apart (f.loc 0 n)) :
      ((d.set R.dmaQSqHead v 0 n).setBit R.dmaQStalled false 0 n).get f 0 n = d.get f 0 n :=
    (Die.get_set_apart _ R.dmaQStalled f _ 0 n 0 0 n 0 (by decide) hs).trans (Die.get_set_apart d R.dmaQSqHead f v 0 n 0 0 n 0 (by decide) hh)
  have regs (b : Nat) (hb : b ≠ R.dmaQSqHead.addrOf 0 n) (hs : b ≠ R.dmaQStalled.addrOf 0 n) :
      ((d.set R.dmaQSqHead v 0 n).setBit R.dmaQStalled false 0 n).dword b = d.dword b :=
    (stalled.regs b (by simpa using hs)).trans (head.regs b (by simpa using hb))
  have host := stalled.units.host.trans head.units.host
  generalize (d.set R.dmaQSqHead v 0 n).setBit R.dmaQStalled false 0 n = x at keeps regs host
  exact ⟨by rw [Die.dmaQ_congr host], keeps (Loc.apart_of_bits (by decide)) (Loc.apart_of_off rfl rfl (by decide)),
    keeps (Loc.apart_of_off rfl rfl (by decide)) (Loc.apart_of_bits (by decide)),
    keeps (Loc.apart_of_off rfl rfl (by decide)) (Loc.apart_of_bits (by decide)), regs⟩

theorem of_cave (h : OnlyCave d e) (n : Nat) : DmaFills d e n :=
  ⟨by rw [Die.dmaQ_congr h.units.host], h.get _ 0 n 0, h.get _ 0 n 0, h.get _ 0 n 0, fun a _ _ => h.dword a⟩

theorem job (d : Die) (n : Nat) (j : DmaJob) : DmaFills d (d.modDma n (fun s => { s with jobs := s.jobs ++ [j], wait := 0 })) n :=
  ⟨by rw [Die.dmaQ_modDma]; exact List.prefix_append _ _, rfl, rfl, rfl, fun _ _ _ => rfl⟩

theorem drain (d : Die) (n : Nat) : DmaFills d (d.dmaDrain n) n := by
  unfold Die.dmaDrain
  dsimp only
  split
  case isTrue => exact ((of_cave (OnlyCave.setLock d _ false) n).trans (registers _ n _)).trans (job _ n _)
  case isFalse => exact refl d n

theorem fill (d : Die) (n : Nat) : DmaFills d (d.dmaFill n) n := by
  unfold Die.dmaFill
  generalize List.range 4 = l
  induction l generalizing d with
  | nil => exact refl d n
  | cons i r ih => exact (drain d n).trans (ih _)

end DmaFills

/-- A queue that may not read its next slot reads none. -/
theorem Die.dmaFill_closed {d : Die} {n : Nat} (h : d.dmaMay n = false) : d.dmaFill n = d := by
  have none : d.dmaDrain n = d := by
    unfold Die.dmaDrain
    dsimp only
    rw [h, Bool.false_and, if_neg Bool.false_ne_true]
  unfold Die.dmaFill
  generalize List.range 4 = l
  induction l with
  | nil => rfl
  | cons i r ih => exact (congrArg (fun e : Die => e.forAll r (fun d _ => d.dmaDrain n)) none).trans ih

end Sys2Proof.Machine
end

section
/-!
PROOF. O54, the DMA queues (spec 20, R618, R622 to R624, R836 to R839, R850): their doorbells and their completion records.
-/
namespace Sys2Proof.Machine

/-! ### Doorbells and EN (R618, R623, R836) -/

section
variable {d : Die} {n : Nat}

theorem Die.dmaMay_off (off : d.bit R.dmaQEn 0 n = false) (idle : (d.dmaQ n).closing = false) : d.dmaMay n = false := by
  unfold Die.dmaMay
  dsimp only
  rw [off, idle]
  rfl

/-- While a record is held no slot is read (R624). -/
theorem Die.dmaMay_held (held : (d.dmaQ n).heldRec.isSome = true) : d.dmaMay n = false := by
  have waits : (d.dmaQ n).heldRec.isNone = false := by
    rw [Option.isNone_eq_false_iff]
    exact held
  unfold Die.dmaMay
  dsimp only
  rw [waits, Bool.and_false, Bool.false_and, Bool.false_and, Bool.false_and]

/-- A register written after the LOCK bits: all but it, the cave and the accounts stays. -/
theorem OnlyCave.then_set {x : Die} (h : OnlyCave d x) (f : Fld) (v n : Nat) :
    OnlyRegs d { x.set f v 0 n with cave := d.cave, telem := d.telem } [f.addrOf 0 n] :=
  h.regsOnly.trans (.set { x with cave := d.cave, telem := d.telem } f v 0 n 0)

section
variable {x : Nat} (hx : x < 512)
include hx

/-- An SQ doorbell that fits: SQ_TAIL moves, and while the queue is off nothing else happens but the slots' LOCK (R618, R836). -/
theorem Die.dmaSqDb_fits (room : ringGap x (d.get R.dmaQSqHead 0 n) ≤ 256)
    (ahead : ringGap (d.get R.dmaQSqTail 0 n) (d.get R.dmaQSqHead 0 n) ≤ ringGap x (d.get R.dmaQSqHead 0 n)) : let e := d.dmaSqDb n x
    e.get R.dmaQSqTail 0 n = x ∧ (d.bit R.dmaQEn 0 n = false → (d.dmaQ n).closing = false →
      e.cave = (d.forAll (ringSpan (d.get R.dmaQSqTail 0 n) x) (fun d i => d.setLock (Die.dmaSqAddr n i) true)).cave
        ∧ OnlyRegs d { e with cave := d.cave, telem := d.telem } [R.dmaQSqTail.addrOf 0 n]) := by
  have locks := OnlyCave.setLocks d (ringSpan (d.get R.dmaQSqTail 0 n) x) (Die.dmaSqAddr n) true
  have eq : d.dmaSqDb n x = ((d.forAll (ringSpan (d.get R.dmaQSqTail 0 n) x) (fun d i => d.setLock (Die.dmaSqAddr n i) true)).set
      R.dmaQSqTail x 0 n).dmaFill n := if_pos ⟨room, ahead⟩
  rw [eq]
  generalize d.forAll (ringSpan (d.get R.dmaQSqTail 0 n) x) (fun d i => d.setLock (Die.dmaSqAddr n i) true) = y at locks
  have moved := OnlyRegs.set y R.dmaQSqTail x 0 n 0
  refine ⟨?_, fun off idle => ?_⟩
  · rw [(DmaFills.fill _ n).sqTail, Die.get_set y R.dmaQSqTail x 0 n 0 (by decide)]
    exact Nat.mod_eq_of_lt hx
  · have away : R.dmaQEn.addrOf 0 n ∉ [R.dmaQSqTail.addrOf 0 n] := by
      rw [List.mem_singleton, addrOf_dma rfl, addrOf_dma rfl]
      exact fun same => absurd (Nat.add_right_cancel same) (by decide)
    have still : (y.set R.dmaQSqTail x 0 n).bit R.dmaQEn 0 n = false := by
      rw [← off, Die.bit, Die.bit, moved.get R.dmaQEn 0 n 0 away, locks.get]
    have queue : (y.set R.dmaQSqTail x 0 n).dmaQ n = d.dmaQ n := Die.dmaQ_congr (moved.units.host.trans locks.units.host) n
    rw [Die.dmaFill_closed (Die.dmaMay_off still (by rw [queue, idle]))]
    exact ⟨moved.cave, locks.then_set _ _ _⟩

theorem Die.dmaCqDb_fits (fits : ringGap x (d.get R.dmaQCqHead 0 n) ≤ ringGap (d.get R.dmaQCqTail 0 n) (d.get R.dmaQCqHead 0 n)) :
    let e := d.dmaCqDb n x
    e.get R.dmaQCqHead 0 n = x
      ∧ e.cave = (d.forAll (ringSpan (d.get R.dmaQCqHead 0 n) x) (fun d i => d.setLock (Die.dmaCqAddr n i) false)).cave
      ∧ OnlyRegs d { e with cave := d.cave, telem := d.telem } [R.dmaQCqHead.addrOf 0 n] := by
  have locks := OnlyCave.setLocks d (ringSpan (d.get R.dmaQCqHead 0 n) x) (Die.dmaCqAddr n) false
  have eq : d.dmaCqDb n x = (d.forAll (ringSpan (d.get R.dmaQCqHead 0 n) x) (fun d i => d.setLock (Die.dmaCqAddr n i) false)).set
      R.dmaQCqHead x 0 n := if_pos fits
  rw [eq]
  generalize d.forAll (ringSpan (d.get R.dmaQCqHead 0 n) x) (fun d i => d.setLock (Die.dmaCqAddr n i) false) = y at locks
  exact ⟨(Die.get_set y R.dmaQCqHead x 0 n 0 (by decide)).trans (Nat.mod_eq_of_lt hx), (OnlyRegs.set y R.dmaQCqHead x 0 n 0).cave,
    locks.then_set _ _ _⟩

end

theorem Die.dmaBadDb_shows (d : Die) (n : Nat) : Logged d (d.dmaBadDb n) (pageIndex .dma 0) 0x0A02 0 ∧ OnlyLogs d (d.dmaBadDb n) [] :=
  (d.logErr_reach .dma 0 0x0A02 0 (leBytes 1 n) none false none).symm

/-- Clearing EN of a queue that was on runs it down (R836). -/
theorem Die.dmaEnWrite_off (d : Die) (n : Nat) : let e := d.dmaEnWrite n false
    e.get R.dmaQEn 0 n = 0 ∧ (e.dmaQ n).jobs = (d.dmaQ n).jobs ∧ (e.dmaQ n).closing = ((d.dmaQ n).closing || d.bit R.dmaQEn 0 n)
      ∧ OnlyRegs d { e with host := d.host } [R.dmaQEn.addrOf 0 n] := by
  have cleared := OnlyRegs.setBit d R.dmaQEn false 0 n 0
  have zero : (d.setBit R.dmaQEn false 0 n).get R.dmaQEn 0 n = 0 := Die.get_set d R.dmaQEn 0 0 n 0 (by decide)
  have queue : (d.setBit R.dmaQEn false 0 n).dmaQ n = d.dmaQ n := Die.dmaQ_congr cleared.units.host n
  have eq : d.dmaEnWrite n false = if d.bit R.dmaQEn 0 n then (d.setBit R.dmaQEn false 0 n).modDma n (fun s => { s with closing := true })
      else d.setBit R.dmaQEn false 0 n := rfl
  rw [eq]
  generalize d.setBit R.dmaQEn false 0 n = y at cleared zero queue
  have rest : OnlyRegs d { y with host := d.host } [R.dmaQEn.addrOf 0 n] := { cleared with units := { cleared.units with host := rfl } }
  cases d.bit R.dmaQEn 0 n with
  | true => exact ⟨zero, by rw [if_pos rfl, Die.dmaQ_modDma, queue], by rw [if_pos rfl, Die.dmaQ_modDma, Bool.or_true], rest⟩
  | false =>
    rw [if_neg Bool.false_ne_true]
    exact ⟨zero, by rw [queue], by rw [queue, Bool.or_false], rest⟩

end

/-! ### Completion records (R622, R624, R838) -/

/-- The latest error of a queue, as its registers and its cause show it. -/
structure DmaErrorShown (e : Die) (n st slot : Nat) : Prop where
  code : e.get R.dmaQLasterr 0 n = st
  slot : e.get R.dmaQErrslot 0 n = slot % 2 ^ R.dmaQErrslot.width
  cause : e.hasCause (I.dmaErr n) = true

/-- What records and slots read leave of a shown error: its register, and the cause that stands. -/
structure DmaErrorKept (d e : Die) (n : Nat) : Prop where
  dword : e.dword (R.dmaQLasterr.addrOf 0 n) = d.dword (R.dmaQLasterr.addrOf 0 n)
  cause : d.hasCause (I.dmaErr n) = true → e.hasCause (I.dmaErr n) = true

namespace DmaErrorKept
variable {d e f : Die} {n st slot : Nat}

theorem trans (h : DmaErrorKept d e n) (k : DmaErrorKept e f n) : DmaErrorKept d f n := ⟨k.dword.trans h.dword, fun c => k.cause (h.cause c)⟩

theorem of_dwords (h : e.dword (R.dmaQLasterr.addrOf 0 n) = d.dword (R.dmaQLasterr.addrOf 0 n))
    (k : e.dword (I.dmaErr n).addrOf = d.dword (I.dmaErr n).addrOf) : DmaErrorKept d e n :=
  ⟨h, fun c => by rw [Die.hasCause, k]; exact c⟩

theorem of_regs (h : e.regs = d.regs) (n : Nat) : DmaErrorKept d e n :=
  have same (a : Nat) : e.dword a = d.dword a := congrArg (fun r => smapGet (regReset a) r a) h
  of_dwords (same _) (same _)

/-- A register of the queue at another offset is written. -/
theorem set (d : Die) {f : Fld} (hf : f.page = .dma) (hs : f.step = 32) (low : 0x20 < f.off) (ho : f.off ≠ 0x5c) (v n : Nat) :
    DmaErrorKept d (d.set f v 0 n) n := by
  have wrote := OnlyRegs.set d f v 0 n 0
  refine of_dwords (wrote.regs _ ?_) (wrote.regs _ ?_)
  · rw [List.mem_singleton, addrOf_dma hf, addrOf_dma rfl, hs]
    exact fun same => ho (Nat.add_left_cancel (Nat.add_right_cancel same)).symm
  · rw [List.mem_singleton]
    exact (dma_addrOf_ne_cause hf low rfl n).symm

theorem raise (d : Die) {c : Irq} (h : c.addrOf ≠ R.dmaQLasterr.addrOf 0 n) : DmaErrorKept d (d.raise c) n :=
  ⟨(OnlyReports.raise d c 0 0).regs _ (by rw [List.mem_singleton]; exact h.symm), d.hasCause_raise_of (I.dmaErr n) c 0 0 0⟩

theorem logged (d : Die) (n code sev : Nat) (detail : List Byte) : DmaErrorKept d (d.logErr .dma 0 code sev detail) n := by
  have logs := (d.logErr_reach .dma 0 code sev detail none false none).1
  exact of_dwords (logs.regs _ List.not_mem_nil (not_mem_logAddrs (dma_addrOf_high rfl n)))
    (logs.regs _ List.not_mem_nil (not_mem_logAddrs (dmaCause_high rfl)))

theorem fill (d : Die) (n : Nat) : DmaErrorKept d (d.dmaFill n) n := by
  have filled := DmaFills.fill d n
  refine of_dwords (filled.regs _ ?_ ?_) (filled.regs _ (dma_addrOf_ne_cause rfl (by decide) rfl n).symm (dma_addrOf_ne_cause rfl (by decide) rfl n).symm)
  · rw [addrOf_dma rfl, addrOf_dma rfl]
    exact fun same => absurd (Nat.add_right_cancel same) (by decide)
  · rw [addrOf_dma rfl, addrOf_dma rfl]
    exact fun same => absurd (Nat.add_right_cancel same) (by decide)

theorem shown (h : DmaErrorKept d e n) (k : DmaErrorShown d n st slot) : DmaErrorShown e n st slot :=
  ⟨by rw [← k.code, Die.get_addr, h.dword]; rfl, by rw [← k.slot, Die.get_addr, Die.get_addr]; exact congrArg (fun w => fieldGet w 8 8) h.dword,
    h.cause k.cause⟩

end DmaErrorKept

/-- The finished head leaves its queue, and an error of it is shown (R838). -/
def Die.dmaHeadLeaves (d : Die) (n : Nat) (r : List DmaJob) (st slot : Nat) : Die :=
  let d := d.modDma n (fun s => { s with jobs := r })
  let d := if st = 0 then d else ((d.set R.dmaQLasterr st 0 n).set R.dmaQErrslot slot 0 n).raise (I.dmaErr n)
  if st = 6 then d.raise I.hostHostErr else d

/-- A record waits for its slot (R624). -/
def Die.dmaHold (d : Die) (n : Nat) (bs : List Byte) (irq : Bool) : Die :=
  (((d.modDma n (fun s => { s with heldRec := some (bs, irq) })).setBit R.dmaQCqWait true 0 n).logErr .dma 0 0x0A01 0 (leBytes 1 n)).raise
    (I.dmaOverwrite n)

section
variable {d : Die} {n : Nat}

/-- The head leaves, its record is written or held, and slots are read. -/
theorem Die.dmaComplete_head {j : DmaJob} {js : List DmaJob} {st : Nat} (head : (d.dmaQ n).jobs = j :: js) (ended : j.status = some st)
    (free : (d.dmaQ n).heldRec = none) : d.dmaComplete n =
      (let x := d.dmaHeadLeaves n js st j.slot
        if x.slotLock (Die.dmaCqAddr n (x.get R.dmaQCqTail 0 n)) then x.dmaHold n (Die.dmaRecord j st) j.irq
        else x.dmaPut n (Die.dmaRecord j st) j.irq).dmaFill n := by
  unfold Die.dmaComplete
  dsimp only
  rw [head]
  dsimp only
  rw [ended]
  dsimp only
  rw [free]
  rfl

theorem Die.dmaComplete_waits {j : DmaJob} {js : List DmaJob} (h : (d.dmaQ n).jobs = [] ∨ ((d.dmaQ n).jobs = j :: js ∧ j.status = none)
    ∨ ((d.dmaQ n).jobs = j :: js ∧ (d.dmaQ n).heldRec.isSome = true)) : d.dmaComplete n = d := by
  unfold Die.dmaComplete
  dsimp only
  obtain none | ⟨head, open_⟩ | ⟨head, held⟩ := h
  · rw [none]
  · rw [head]
    dsimp only
    rw [open_]
  · rw [head]
    dsimp only
    cases j.status with
    | none => rfl
    | some st => exact if_pos held

theorem caveMgmtGib_not_mem {f : Fld} (hf : f.page = .dma) (n : Nat) : R.caveMgmtGib.addrOf ∉ [f.addrOf 0 n] := by
  have low : R.caveMgmtGib.addrOf < 0x112000 := by decide
  rw [List.mem_singleton, addrOf_dma hf]
  omega

/-- The registers of an error: the cave, the log and the queue's other registers stay. -/
theorem Die.dmaError_shows (d : Die) (hn : n < 4) {st : Nat} (hst : st < 16) (slot : Nat) :
    let x := ((d.set R.dmaQLasterr st 0 n).set R.dmaQErrslot slot 0 n).raise (I.dmaErr n)
    DmaErrorShown x n st slot ∧ SameCave d x ∧ x.host = d.host ∧ x.err = d.err
      ∧ x.dword (R.dmaQCqTail.addrOf 0 n) = d.dword (R.dmaQCqTail.addrOf 0 n) := by
  have code := OnlyRegs.set d R.dmaQLasterr st 0 n 0
  have place := OnlyRegs.set (d.set R.dmaQLasterr st 0 n) R.dmaQErrslot slot 0 n 0
  have raised := OnlyReports.raise ((d.set R.dmaQLasterr st 0 n).set R.dmaQErrslot slot 0 n) (I.dmaErr n) 0 0
  have offCause {f : Fld} (hf : f.page = .dma) (hs : 0x20 < f.off) : f.addrOf 0 n ≠ (I.dmaErr n).addrOf := dma_addrOf_ne_cause hf hs rfl n
  have bit : (I.dmaErr n).bit < 32 := by
    show 12 + 1 * n < 32
    omega
  have shownCode : ((d.set R.dmaQLasterr st 0 n).set R.dmaQErrslot slot 0 n).get R.dmaQLasterr 0 n = st := by
    rw [Die.get_set_apart _ R.dmaQErrslot R.dmaQLasterr slot 0 n 0 0 n 0 (by decide) (Loc.apart_of_bits (by decide)),
      Die.get_set d R.dmaQLasterr st 0 n 0 (by decide)]
    exact Nat.mod_eq_of_lt hst
  have shownSlot : ((d.set R.dmaQLasterr st 0 n).set R.dmaQErrslot slot 0 n).get R.dmaQErrslot 0 n = slot % 2 ^ R.dmaQErrslot.width :=
    Die.get_set _ R.dmaQErrslot slot 0 n 0 (by decide)
  have gib : R.caveMgmtGib.addrOf ∉ [(I.dmaErr n).addrOf] := by
    rw [List.mem_singleton, addrOf_dmaCause rfl]
    decide
  have away : R.dmaQCqTail.addrOf 0 n ∉ [R.dmaQLasterr.addrOf 0 n] := by
    rw [List.mem_singleton, addrOf_dma rfl, addrOf_dma rfl]
    exact fun same => absurd (Nat.add_right_cancel same) (by decide)
  have cave := ((SameCave.of_regsOnly code (caveMgmtGib_not_mem rfl n)).trans (.of_regsOnly place (caveMgmtGib_not_mem rfl n))).trans
    (.of_reports raised gib)
  refine ⟨⟨?_, ?_, Die.hasCause_raise _ _ _ _ bit⟩, cave, ?_, ?_, ?_⟩
  · exact (Die.get_raise _ _ 0 0 R.dmaQLasterr 0 n 0 (offCause rfl (by decide))).trans shownCode
  · exact (Die.get_raise _ _ 0 0 R.dmaQErrslot 0 n 0 (offCause rfl (by decide))).trans shownSlot
  · exact (raised.units.host.trans place.units.host).trans code.units.host
  · exact (raised.err.trans place.err).trans code.err
  · rw [raised.regs _ (by rw [List.mem_singleton]; exact offCause rfl (by decide)), place.regs _ away, code.regs _ away]

/-- What a head leaves behind: its queue without it, its error, and the record's place as it was. -/
theorem Die.dmaHeadLeaves_shows (d : Die) (hn : n < 4) (r : List DmaJob) {st : Nat} (hst : st < 16) (slot : Nat) :
    let x := d.dmaHeadLeaves n r st slot
    (st ≠ 0 → DmaErrorShown x n st slot) ∧ SameCave d x ∧ x.dmaQ n = { d.dmaQ n with jobs := r } ∧ x.err = d.err
      ∧ x.get R.dmaQCqTail 0 n = d.get R.dmaQCqTail 0 n := by
  have queue := d.dmaQ_modDma n (fun s => { s with jobs := r })
  have same : SameCave d (d.modDma n (fun s => { s with jobs := r })) := .of_regs rfl rfl
  have err : (d.modDma n (fun s => { s with jobs := r })).err = d.err := rfl
  have tail : (d.modDma n (fun s => { s with jobs := r })).get R.dmaQCqTail 0 n = d.get R.dmaQCqTail 0 n := rfl
  unfold Die.dmaHeadLeaves
  dsimp only
  generalize d.modDma n (fun s => { s with jobs := r }) = y at queue same err tail
  obtain ⟨shown, cave, host, errs, place⟩ := y.dmaError_shows hn hst slot
  by_cases good : st = 0
  case pos =>
    subst good
    rw [if_pos rfl, if_neg (by decide)]
    exact ⟨fun ne => absurd rfl ne, same, queue, err, tail⟩
  case neg =>
    rw [if_neg good]
    generalize ((y.set R.dmaQLasterr st 0 n).set R.dmaQErrslot slot 0 n).raise (I.dmaErr n) = x at shown cave host errs place
    have tailAt : x.get R.dmaQCqTail 0 n = d.get R.dmaQCqTail 0 n := by
      rw [← tail, Die.get_addr, place]
      rfl
    have queueAt : x.dmaQ n = { d.dmaQ n with jobs := r } := by rw [Die.dmaQ_congr host, queue]
    by_cases failed : st = 6
    case neg =>
      rw [if_neg failed]
      exact ⟨fun _ => shown, same.trans cave, queueAt, errs.trans err, tailAt⟩
    case pos =>
      have raised := OnlyReports.raise x I.hostHostErr 0 0
      have low : I.hostHostErr.addrOf < 0x112000 := by decide
      have off {f : Fld} (hf : f.page = .dma) : f.addrOf 0 n ≠ I.hostHostErr.addrOf := by
        rw [addrOf_dma hf]
        omega
      rw [if_pos failed]
      exact ⟨fun _ => (DmaErrorKept.raise x (off rfl).symm).shown shown, (same.trans cave).trans (.of_reports raised (by decide)),
        (Die.dmaQ_congr raised.units.host n).trans queueAt, (raised.err.trans errs).trans err,
        (Die.get_raise _ _ 0 0 R.dmaQCqTail 0 n 0 (off rfl)).trans tailAt⟩

/-- A held record: it waits in the queue, with CQ_WAIT, the cause and a log record; CQ_TAIL stays (R624). -/
theorem Die.dmaHold_shows (d : Die) (hn : n < 4) (bs : List Byte) (irq : Bool) : let e := d.dmaHold n bs irq
    e.dmaQ n = { d.dmaQ n with heldRec := some (bs, irq) } ∧ e.get R.dmaQCqWait 0 n = 1 ∧ e.get R.dmaQCqTail 0 n = d.get R.dmaQCqTail 0 n
      ∧ e.hasCause (I.dmaOverwrite n) = true ∧ Logged d e (pageIndex .dma 0) 0x0A01 0 ∧ DmaErrorKept d e n := by
  have queue := d.dmaQ_modDma n (fun s => { s with heldRec := some (bs, irq) })
  have err : (d.modDma n (fun s => { s with heldRec := some (bs, irq) })).err = d.err := rfl
  have regs : (d.modDma n (fun s => { s with heldRec := some (bs, irq) })).regs = d.regs := rfl
  unfold Die.dmaHold
  generalize d.modDma n (fun s => { s with heldRec := some (bs, irq) }) = y at queue err regs
  have waits := OnlyRegs.setBit y R.dmaQCqWait true 0 n 0
  have wait : (y.setBit R.dmaQCqWait true 0 n).get R.dmaQCqWait 0 n = 1 := Die.get_set y R.dmaQCqWait 1 0 n 0 (by decide)
  have tail : (y.setBit R.dmaQCqWait true 0 n).get R.dmaQCqTail 0 n = d.get R.dmaQCqTail 0 n :=
    (Die.get_set_apart y R.dmaQCqWait R.dmaQCqTail 1 0 n 0 0 n 0 (by decide) (Loc.apart_of_bits (by decide))).trans (Die.get_congr regs _ 0 n 0)
  have kept : DmaErrorKept d (y.setBit R.dmaQCqWait true 0 n) n :=
    (DmaErrorKept.of_regs regs n).trans (.set y rfl rfl (by decide) (by decide) 1 n)
  generalize y.setBit R.dmaQCqWait true 0 n = z at waits wait tail kept
  obtain ⟨reach, logged⟩ := z.logErr_reach .dma 0 0x0A01 0 (leBytes 1 n) none false none
  have error := DmaErrorKept.logged z n 0x0A01 0 (leBytes 1 n)
  have sees {f : Fld} (hf : f.page = .dma) (hs : 0x20 < f.off) :
      ((z.logErr .dma 0 0x0A01 0 (leBytes 1 n)).raise (I.dmaOverwrite n)).get f 0 n = z.get f 0 n :=
    (Die.get_raise _ _ 0 0 f 0 n 0 (dma_addrOf_ne_cause hf hs rfl n)).trans
      (reach.get f 0 n 0 List.not_mem_nil (not_mem_logAddrs (dma_addrOf_high hf n)))
  have bit : (I.dmaOverwrite n).bit < 32 := by
    show 8 + 1 * n < 32
    omega
  refine ⟨?_, (sees rfl (by decide)).trans wait, (sees rfl (by decide)).trans tail, Die.hasCause_raise _ _ _ _ bit,
    logged.of_err (waits.err.trans err) (Die.raise_err _ _ _ _), (kept.trans error).trans (.raise _ (dma_addrOf_ne_cause rfl (by decide) rfl n).symm)⟩
  rw [Die.dmaQ_congr (((OnlyReports.raise _ (I.dmaOverwrite n) 0 0).units.host.trans reach.units.host).trans waits.units.host), queue]

/-- A record's slot, CQ_TAIL and CQ_WAIT as the record is written. -/
theorem Die.dmaRecord_written (d : Die) (n a v : Nat) (bs : List Byte) :
    let e := (((d.caveWrite a bs).set R.dmaQCqTail v 0 n).modDma n (fun s => { s with heldRec := none })).setBit R.dmaQCqWait false 0 n
    (e.dmaQ n).jobs = (d.dmaQ n).jobs ∧ e.get R.dmaQCqTail 0 n = v % 512 ∧ e.get R.dmaQCqWait 0 n = 0 ∧ DmaErrorKept d e n := by
  have wrote := OnlyCave.caveWrite d a bs
  generalize d.caveWrite a bs = x at wrote
  have tail : (x.set R.dmaQCqTail v 0 n).get R.dmaQCqTail 0 n = v % 512 := Die.get_set x R.dmaQCqTail v 0 n 0 (by decide)
  have host := (OnlyRegs.set x R.dmaQCqTail v 0 n 0).units.host.trans wrote.units.host
  have error : DmaErrorKept d (x.set R.dmaQCqTail v 0 n) n := (DmaErrorKept.of_regs wrote.regs n).trans (.set x rfl rfl (by decide) (by decide) v n)
  generalize x.set R.dmaQCqTail v 0 n = y at tail host error
  have jobs : ((y.modDma n (fun s => { s with heldRec := none })).dmaQ n).jobs = (d.dmaQ n).jobs := by
    rw [Die.dmaQ_modDma, ← Die.dmaQ_congr host]
  have regs := y.modDma_regs n (fun s => { s with heldRec := none })
  generalize y.modDma n (fun s => { s with heldRec := none }) = z at jobs regs
  have freed := OnlyRegs.setBit z R.dmaQCqWait false 0 n 0
  have waitOff : (z.setBit R.dmaQCqWait false 0 n).get R.dmaQCqWait 0 n = 0 := Die.get_set z R.dmaQCqWait 0 0 n 0 (by decide)
  have tailOn : (z.setBit R.dmaQCqWait false 0 n).get R.dmaQCqTail 0 n = v % 512 := by
    rw [← tail, ← Die.get_congr regs]
    exact Die.get_set_apart z R.dmaQCqWait R.dmaQCqTail 0 0 n 0 0 n 0 (by decide) (Loc.apart_of_bits (by decide))
  have errorOn := (error.trans (.of_regs regs n)).trans (.set (f := R.dmaQCqWait) z rfl rfl (by decide) (by decide) 0 n)
  exact ⟨by rw [Die.dmaQ_congr freed.units.host, jobs], tailOn, waitOff, errorOn⟩

/-- A record written: CQ_TAIL advances, nothing waits, and the host is told where it asked for it (R622). -/
theorem Die.dmaPut_shows (d : Die) (hn : n < 4) (bs : List Byte) (irq : Bool) : let e := d.dmaPut n bs irq
    (e.dmaQ n).jobs = (d.dmaQ n).jobs ∧ e.get R.dmaQCqTail 0 n = (d.get R.dmaQCqTail 0 n + 1) % 512 ∧ e.get R.dmaQCqWait 0 n = 0
      ∧ (irq = true → e.hasCause (I.dmaComplete n) = true) ∧ DmaErrorKept d e n := by
  obtain ⟨rec_, eq⟩ : ∃ rec_, d.dmaPut n bs irq =
      let y := (((d.caveWrite (Die.dmaCqAddr n (d.get R.dmaQCqTail 0 n)) rec_).set R.dmaQCqTail ((d.get R.dmaQCqTail 0 n + 1) % 512) 0 n).modDma n
        (fun s => { s with heldRec := none })).setBit R.dmaQCqWait false 0 n
      if irq then y.raise (I.dmaComplete n) else y := ⟨_, rfl⟩
  have written := d.dmaRecord_written n (Die.dmaCqAddr n (d.get R.dmaQCqTail 0 n)) ((d.get R.dmaQCqTail 0 n + 1) % 512) rec_
  rw [eq]
  dsimp only at written ⊢
  generalize (((d.caveWrite (Die.dmaCqAddr n (d.get R.dmaQCqTail 0 n)) rec_).set R.dmaQCqTail ((d.get R.dmaQCqTail 0 n + 1) % 512) 0 n).modDma n
    (fun s => { s with heldRec := none })).setBit R.dmaQCqWait false 0 n = y at written ⊢
  obtain ⟨jobsOn, tailOn, waitOff, errorOn⟩ := written
  rw [Nat.mod_mod] at tailOn
  have bit : (I.dmaComplete n).bit < 32 := by
    show 0 + 1 * n < 32
    omega
  cases irq with
  | false =>
    rw [if_neg Bool.false_ne_true]
    exact ⟨jobsOn, tailOn, waitOff, fun on => absurd on Bool.false_ne_true, errorOn⟩
  | true =>
    rw [if_pos rfl]
    have raised := OnlyReports.raise y (I.dmaComplete n) 0 0
    have sees {f : Fld} (hf : f.page = .dma) (hs : 0x20 < f.off) : (y.raise (I.dmaComplete n)).get f 0 n = y.get f 0 n :=
      Die.get_raise _ _ 0 0 f 0 n 0 (dma_addrOf_ne_cause hf hs rfl n)
    exact ⟨(congrArg DmaQ.jobs (Die.dmaQ_congr raised.units.host n)).trans jobsOn, (sees rfl (by decide)).trans tailOn,
      (sees rfl (by decide)).trans waitOff, fun _ => Die.hasCause_raise _ _ _ _ bit,
      errorOn.trans (.raise _ (dma_addrOf_ne_cause rfl (by decide) rfl n).symm)⟩

end

end Sys2Proof.Machine
end

section
/-!
PROOF. O54 (DmaCommands), put together from the queues' doorbells, jobs and records.
-/
namespace Sys2Proof.Machine

/-- What the completion of the head shows: its record held or written, its error, and the jobs behind it. -/
theorem Die.dmaComplete_shows {d : Die} {n : Nat} (hn : n < 4) {j : DmaJob} {js : List DmaJob} {st : Nat} (head : (d.dmaQ n).jobs = j :: js)
    (ended : j.status = some st) (hst : st < 16) (free : (d.dmaQ n).heldRec = none) :
    let e := d.dmaComplete n
    let t := d.get R.dmaQCqTail 0 n
    js <+: (e.dmaQ n).jobs
      ∧ (st ≠ 0 → DmaErrorShown e n st j.slot)
      ∧ (d.slotLock (Die.dmaCqAddr n t) = true → (e.dmaQ n).heldRec = some (Die.dmaRecord j st, j.irq) ∧ e.get R.dmaQCqWait 0 n = 1
          ∧ e.get R.dmaQCqTail 0 n = t ∧ e.hasCause (I.dmaOverwrite n) = true ∧ Logged d e (pageIndex .dma 0) 0x0A01 0)
      ∧ (¬ d.slotLock (Die.dmaCqAddr n t) = true → e.get R.dmaQCqTail 0 n = (t + 1) % 512 ∧ e.get R.dmaQCqWait 0 n = 0
          ∧ (j.irq = true → e.hasCause (I.dmaComplete n) = true)) := by
  intro e t
  have eq : e = _ := Die.dmaComplete_head head ended free
  obtain ⟨shown, cave, queue, err, tail⟩ := d.dmaHeadLeaves_shows hn js hst j.slot
  generalize d.dmaHeadLeaves n js st j.slot = x at eq shown cave queue err tail
  dsimp only at eq
  rw [tail, cave.slotLock] at eq
  have jobs : (x.dmaQ n).jobs = js := by rw [queue]
  by_cases locked : d.slotLock (Die.dmaCqAddr n t) = true
  case pos =>
    obtain ⟨held, wait, place, cause, logged, error⟩ := x.dmaHold_shows hn (Die.dmaRecord j st) j.irq
    rw [if_pos locked, Die.dmaFill_closed (Die.dmaMay_held (by rw [held]; rfl))] at eq
    rw [eq]
    exact ⟨by rw [held, ← jobs], fun ne => error.shown (shown ne),
      fun _ => ⟨by rw [held], wait, place.trans tail, cause, logged.of_err err rfl⟩, fun unlocked => absurd locked unlocked⟩
  case neg =>
    obtain ⟨behind, place, wait, cause, error⟩ := x.dmaPut_shows hn (Die.dmaRecord j st) j.irq
    rw [if_neg locked] at eq
    generalize x.dmaPut n (Die.dmaRecord j st) j.irq = y at eq behind place wait cause error
    have filled := DmaFills.fill y n
    have causes : (y.dmaFill n).dword (I.dmaComplete n).addrOf = y.dword (I.dmaComplete n).addrOf :=
      filled.regs _ (dma_addrOf_ne_cause rfl (by decide) rfl n).symm (dma_addrOf_ne_cause rfl (by decide) rfl n).symm
    rw [eq]
    refine ⟨?_, fun ne => (error.trans (.fill y n)).shown (shown ne), fun lock => absurd lock locked,
      fun _ => ⟨?_, filled.cqWait.trans wait, fun irq => ?_⟩⟩
    · rw [← jobs, ← behind]
      exact filled.jobs
    · rw [filled.cqTail, place, tail]
    · rw [Die.hasCause, causes]
      exact cause irq

/-- Settles O54, command by command: a doorbell, a job and a record each turn on one test of the queue. -/
theorem dmaCommands : Obligations.DmaCommands := by
  unfold Obligations.DmaCommands
  intro s c q x data err m j js a st ha d n Q h t ch ct ring bad job k l at_ jobs ends bq locked qf
  have hn : n < 4 := q.isLt
  have ended : ∀ e : Die, e = d.modJob n j.slot (fun y => { y with status := some 0 }) →
      jobs e (fun y => { y with status := some 0 }) ∧ OnlyRegs d { e with host := d.host } [] := by
    rintro _ rfl
    exact d.modJob_shows n j.slot _
  refine ⟨?doorbells, ?noH2c, ?noC2h, ?noNop, ?h2cAway, ?c2hAway, ?h2c, ?h2cFails, ?c2h, ?nop, ?fence, ?fenceWaits, ?recordWaits, ?record⟩
  case doorbells =>
    intro hr
    have misfit {i : Instr} (f : Die → Die) (hi : exec i s = act s (fun d => d.onPage c .dma 0 f)) (hf : f d = d.dmaBadDb n) : bad i :=
      completes_of_page i s c .dma 0 f _ hi ⟨ha, hr⟩ (by rw [hf]; exact d.dmaBadDb_shows n)
    refine ⟨fun room ahead => ?_, fun far => ?_, fun fits => ?_, fun far => ?_, ?_⟩
    · exact completes_of_page _ s c .dma 0 (fun d => d.dmaSqDb n x.toNat) _ rfl ⟨ha, hr⟩ (Die.dmaSqDb_fits x.isLt room ahead)
    · exact misfit (fun d => d.dmaSqDb n x.toNat) rfl (if_neg fun fit => far.elim (Nat.not_lt.2 fit.1) (Nat.not_lt.2 fit.2))
    · exact completes_of_page _ s c .dma 0 (fun d => d.dmaCqDb n x.toNat) _ rfl ⟨ha, hr⟩ (Die.dmaCqDb_fits x.isLt fits)
    · exact misfit (fun d => d.dmaCqDb n x.toNat) rfl (if_neg (Nat.not_le.2 far))
    · exact completes_of_page _ s c .dma 0 (fun d => d.dmaEnWrite n false) _ rfl ⟨ha, hr⟩ (d.dmaEnWrite_off n)
  case noH2c => exact fun none => becomes_of_act _ s _ _ rfl ha (Die.dmaH2c_idle none)
  case noC2h => exact fun none => becomes_of_act _ s _ _ rfl ha (Die.dmaC2h_idle none)
  case noNop =>
    intro none
    refine becomes_of_act _ s _ _ rfl ha ?_
    rw [show s.die.dmaJob q.toNat 4 = Option.none from none]
  case h2cAway => exact fun hj away => becomes_of_act _ s _ _ rfl ha (Die.dmaH2c_unmapped hj away)
  case c2hAway => exact fun hj away => becomes_of_act _ s _ _ rfl ha (Die.dmaC2h_unmapped hj away)
  case h2c =>
    rintro hj mapped rfl
    obtain ⟨moved, out, cave, rest⟩ := Die.dmaH2c_moves (err := false) hj rfl mapped
    exact completes_of_act _ s _ _ rfl ha ⟨moved, out, cave, rest⟩
  case h2cFails =>
    rintro hj mapped rfl short
    obtain ⟨moved, -, -, -⟩ := Die.dmaH2c_moves (err := true) hj rfl mapped
    rw [decide_eq_true short] at moved
    exact completes_of_act _ s _ _ rfl ha moved
  case c2h =>
    intro hj mapped good
    obtain ⟨moved, out, rest⟩ := Die.dmaC2h_moves hj rfl mapped good
    exact completes_of_act _ s _ _ rfl ha ⟨moved, out, { rest with units := { rest.units with }, fresh := rfl }⟩
  case nop =>
    intro hj
    refine completes_of_act _ s _ _ rfl ha (ended _ ?_)
    rw [show s.die.dmaJob q.toNat 4 = some j from hj]
  case fence => exact fun head op open_ => completes_of_act _ s _ _ rfl ha (ended _ (Die.dmaFence_ends head op open_))
  case fenceWaits => exact fun wait => becomes_of_act _ s _ _ rfl ha (Die.dmaFence_waits wait)
  case recordWaits => exact fun wait => becomes_of_act _ s _ _ rfl ha (Die.dmaComplete_waits wait)
  case record =>
    intro head status hst free
    obtain ⟨behind, error, held, put⟩ := Die.dmaComplete_shows hn head status hst free
    exact completes_of_act _ s _ _ rfl ha ⟨behind, fun ne => ⟨(error ne).code, (error ne).slot, (error ne).cause⟩, held, put⟩

end Sys2Proof.Machine
end
